-- ==== Sys2Proof/Word.lean ====
section
/-! DEFINITION. The word types of the Melwa M9 Fabric Module: bytes, 64-bit words, 128-bit
instruction words (Table TIS-4), and the address cells of a local memory. -/

namespace Sys2Proof

/-- One byte of memory, payload or SRAM. -/
abbrev Byte := BitVec 8

/-- One 64-bit word: a scalar register, a pointer word, an operand. -/
abbrev W64 := BitVec 64

/-- One 128-bit station instruction word (R158). -/
abbrev IWord := BitVec 128

/-- A sparse array of numbers by number, sorted by key, no entry equal to the array's default. -/
abbrev NMap := List (Nat × Nat)

/-- Sparse memory: address and byte, addresses strictly rising, no zero byte listed. -/
abbrev Bytes := List (Nat × BitVec 8)

/-- The bits `[hi:lo]` of a number read as a binary word (R7 writes them msb first). -/
def bits (w hi lo : Nat) : Nat := (w >>> lo) % 2 ^ (hi + 1 - lo)

/-- The low `w` bits of `v`, placed from bit `sh` up: a field of a word. -/
def fld (v w sh : Nat) : Nat := v % 2 ^ w * 2 ^ sh

/-- Bit `i` of a number. -/
def bitOf (w i : Nat) : Bool := w.testBit i

/-- 0 or 1. -/
def b2n (b : Bool) : Nat := if b then 1 else 0

end Sys2Proof
end

