-- ==== Sys2Proof/Syntax.lean ====
section
/-! DEFINITION. The commands the module takes, one constructor of `Instr` per row of
spec/opcode_table.json, and the operand types they carry. The table gives its rows no bits and no
operands; every operand here is what the rule of the row names (an address, a value, a message, a
frame, a unit), written as plain data. -/

namespace Sys2Proof

/-- A station of a loaded flow, named by partition, FLOW_ID and station INDEX (R122, R123). -/
structure InstRef where
  pid : Nat
  flow : Nat
  index : Nat
  deriving DecidableEq, Repr

/-- An agent of the memory model (R58), and the module's own readers of images and regions
(R126, R218, R336). -/
inductive Agent where
  | ctx (ep n : Nat)
  | queue (ep n : Nat)
  | window (cp : Nat)
  | core (sd cluster n : Nat)
  | reader (ep : Nat)
  deriving DecidableEq, Repr

/-- A CAP message from the attach design (Table EPT-3); its type is the command that carries it.
`ep` and `port` say where it arrived. -/
structure CapMsg where
  ep : Nat
  port : Nat
  ctx : Nat
  tag : Nat
  addr : Nat
  arg : Nat
  aux : Nat
  sub : Nat
  scope : Nat
  ord : Nat
  own : Bool
  bulk : Bool
  last : Bool
  wide : Bool
  status : Nat
  poi : Bool
  data : List Byte
  deriving DecidableEq, Repr

/-- Where a load, store, fence or INVAL comes from: a CAP message, or a station that issues the
memory instruction at its PC (R168). -/
inductive Src where
  | cap (m : CapMsg)
  | stn (who : InstRef)
  deriving DecidableEq, Repr

/-- Where an atomic comes from (R75): CAP, a station, or the home's input queue (the fabric). -/
inductive ASrc where
  | cap (m : CapMsg)
  | stn (who : InstRef)
  | home (pos : Nat)
  deriving DecidableEq, Repr

/-- How a management command arrived (R348, R349): an MDP session request, a context's mailbox or a
host mailbox. It fixes the sender PID and where the response goes. -/
inductive Origin where
  | mdp (session seq : Nat)
  | ctx (ep n : Nat)
  | host (cp : Nat)
  deriving DecidableEq, Repr

/-- A port: fabric, attach or CXL (R17). -/
inductive PortRef where
  | fp (n : Nat)
  | ap (n : Nat)
  | cp (n : Nat)
  deriving DecidableEq, Repr

/-- What the link layer or a die bridge finds at a frame's tail (R228): nothing, an uncorrectable codeword, a failed hop check. -/
inductive HopVerdict where
  | good
  | fec
  | check
  deriving DecidableEq, Repr

/-- The port whose training starts (R274); with an attach bond, what its DC check finds on each port of it, three bits a lane (R272). -/
inductive TrainOp where
  | fp (n : Nat)
  | ap (n : Nat) (dc : List Nat)
  | cp (n : Nat)
  deriving DecidableEq, Repr

/-- Why a lane is to be remapped: a pre-FEC BER above 10^−`b` over 1 s or loss of signal (R278), or the daily check, which the peer
starts with the spare (R285). -/
inductive RemapCause where
  | ber (b : Nat)
  | signal
  | daily
  deriving DecidableEq, Repr

/-- A CXL port of a module of the mesh. -/
structure CpRef where
  mid : Nat
  cp : Nat
  deriving DecidableEq, Repr

/-- SPAN of RTC_INVAL (R45). -/
inductive Span where
  | pidAll
  | range (base pages : Nat)
  | all
  deriving DecidableEq, Repr

/-- Operands of RTC_INVAL (R45). -/
structure InvalOp where
  pid : Nat
  epmask : Nat
  span : Span
  drain : Bool
  deriving DecidableEq, Repr

/-- Operands of CTX_BIND (R307). -/
structure BindOp where
  ep : Nat
  ctx : Nat
  port : Nat
  pid : Nat
  owner : Nat
  expSize : Nat
  deriving DecidableEq, Repr

/-- Operands of QUEUE_SETUP (R309). -/
structure QueueOp where
  ep : Nat
  q : Nat
  pid : Nat
  owner : Nat
  hostSpace : Bool
  descBase : Nat
  entries : Nat
  compBase : Nat
  deriving DecidableEq, Repr

/-- Operands of SESSION_SETUP (R320). -/
structure BounceOp where
  pid : Nat
  cp : Nat
  keyId : Nat
  slots : Nat
  control : Nat
  txHdr : Nat
  rxHdr : Nat
  txPages : Nat
  rxPages : Nat
  deriving DecidableEq, Repr

/-- A mailbox command (Table EPT-9), decoded: the source gives command operands no byte layout. -/
inductive MbxCmd where
  | dictRead (ix sub : Nat)
  | dictWrite (ix sub ty : Nat) (val : List Byte)
  | ctxBind (b : BindOp)
  | ctxUnbind (ep ctx : Nat)
  | queueSetup (q : QueueOp)
  | queueReset (ep q : Nat)
  | queueTail (ep q tail : Nat)
  | ctrBind (ep ctr pid : Nat)
  | rtcInval (i : InvalOp)
  | faultResolve (pid recId action : Nat)
  | sessionSetup (b : BounceOp)
  | other (opc : Nat)
  deriving DecidableEq, Repr

/-- The Carog fabric frame (Table DLV-1). The last five fields travel beside the header: the source
gives the header no field for the range's HINT, memory type or mirror, although the home acts on
them (R89, R93, R98); see log entry 12. -/
structure Frame where
  kind : Nat
  tc : Nat
  src : Nat
  dst : Nat
  via : Nat
  pid : Nat
  seq : Nat
  pepoch : Nat
  gen : Nat
  resend : Bool
  retry : Bool
  ext : Bool
  op : Nat
  fpa : Nat
  tag : Nat
  ep : Nat
  context : Nat
  status : Nat
  li : Nat
  scope : Nat
  ord : Nat
  owner : Nat
  hchk : Nat
  ecrc : Nat
  oflag : Nat
  be : Nat
  origHome : Nat
  origPepoch : Nat
  origSrc : Nat
  origSeq : Nat
  payload : List Byte
  tnum : Nat
  part : Nat
  lastPart : Bool
  hint : Nat
  mtype : Nat
  mmid : Nat
  mlocal : Nat
  agentKind : Nat
  deriving DecidableEq, Repr

/-- The answer of a read of host memory that an EP issued: its bytes, or the failing status. -/
inductive ReadBack where
  | ok (data : List Byte)
  | failed (status : Nat)
  deriving DecidableEq, Repr

/-- A page that the host's translation unit answers an ATS request with (R56), and what it permits. -/
structure AtsPage where
  base : Nat
  len : Nat
  rd : Bool
  wr : Bool
  deriving DecidableEq, Repr

/-- What the host answers a copy descriptor with: the bytes read, and the pages of its translation unit. -/
structure HostAnswer where
  rd : ReadBack
  ats : List AtsPage
  deriving DecidableEq, Repr

/-- The end of a copy descriptor: its index in the queue, and the guest's TX_TAIL as read (R321). -/
structure CopyEnd where
  idx : Nat
  tail : Nat
  deriving DecidableEq, Repr

/-- ROOT_HANDOVER (R207): the new root, and the other modules that have a usable reference or are LOCKED. -/
structure RootOp where
  mid : Nat
  seen : List Nat
  deriving DecidableEq, Repr

/-- Where a response comes from: the module's own home, or a RSP frame. -/
inductive RspSrc where
  | local (pos : Nat)
  | remote (f : Frame)
  deriving DecidableEq, Repr

/-- A link-state notice (R261, R263, R413). -/
structure Notice where
  src : Nat
  mask : Nat
  mstate : Nat
  gen : Nat
  pepoch : Nat
  nextSeq : Nat
  deriving DecidableEq, Repr

/-- A fabric identity record (Table LNK-5), with the lanes whose markers name another port (R276). -/
structure IdRecord where
  mid : Nat
  meshN : Nat
  port : Nat
  order : Nat
  stepping : Nat
  mstate : Nat
  idhash : Nat
  chk : Nat
  crossed : Nat
  deriving DecidableEq, Repr

/-- A CAP link parameter record (Table EPT-2), and what each port of the bond learned in phase 2: the lane numbers that its lanes 0 to 7
received, and the lanes of inverted polarity as a bit each (R277). -/
structure CapParams where
  capver : Nat
  role : Nat
  creq : Nat
  cstrm : Nat
  cmgmt : Nat
  w1 : Nat
  chk : Nat
  lanes : List (List Nat × Nat)
  deriving DecidableEq, Repr

/-- A CAP flit (Table EPT-1): its header word, its 240 body bytes, and FCRC. -/
structure Flit where
  head : Nat
  body : List Byte
  fcrc : Nat
  deriving DecidableEq, Repr

/-- What SELFTEST found on one station die (R386): active clusters, spares used at each level. -/
structure DieTest where
  active : Nat
  engines : Nat
  cores : Nat
  cluster : Nat
  deriving DecidableEq, Repr

/-- The result of SELFTEST (R383, R386). -/
structure SelfTest where
  xdOk : Bool
  hbmOk : Bool
  epOk : Bool
  oeOk : Bool
  dies : List DieTest
  deriving DecidableEq, Repr

/-- What R352 checks of a datagram: MAGIC, VERSION and LEN of its header (Table ODP-4), the verdict on its GCM tag, and
whether it came in fragments. -/
structure MdpHead where
  magic : Nat
  version : Nat
  len : Nat
  tagOk : Bool
  fragment : Bool
  deriving DecidableEq, Repr

/-- An MDP request in a session (Table ODP-4). -/
structure MdpReq where
  head : MdpHead
  session : Nat
  seq : Nat
  portB : Bool
  ix : Nat
  sub : Nat
  ty : Nat
  offset : Nat
  val : List Byte
  deriving DecidableEq, Repr

/-- SESSION_OPEN (R354). -/
structure SessionOpenOp where
  head : MdpHead
  portB : Bool
  staticKey : List Byte
  ephemeral : List Byte
  nonce : List Byte
  sig : List Byte
  deriving DecidableEq, Repr

/-- SESSION_CLOSE (R352). -/
structure SessionCloseOp where
  head : MdpHead
  session : Nat
  deriving DecidableEq, Repr

/-- Why a host is declared lost (R101). -/
inductive HostLossCause where
  | write (o : Origin)
  | link
  | moduleLost
  deriving DecidableEq, Repr

/-- What the host does to its port: the CXL.mem function (R54, R288) and ATS (R56). -/
inductive HostCfg where
  | hdmBase (v : Nat)
  | memOn (b : Bool)
  | backInval (b : Bool)
  | ats (b : Bool)
  deriving DecidableEq, Repr

/-- A timestamp exchange (R208), in 1/16 tick; `direct` is false for the indirect estimate of R210,
which goes through `peer`, whose reported offset to the root is `peerOff`. `locked` names the peers whose symbols say that they are LOCKED
through a direct link to the root. -/
structure StampOp where
  t1 : Int
  t2 : Int
  t3 : Int
  t4 : Int
  direct : Bool
  peer : Nat
  peerOff : Int
  rootTime : Nat
  locked : List Nat
  deriving DecidableEq, Repr

/-- The occurrence that made a counter overflow (Table CNT-5). -/
structure Occurrence where
  pid : Nat
  index : Nat
  flow : Nat
  pc : Nat
  core : Nat
  fva : Nat
  src : Nat
  dst : Nat
  tc : Nat
  context : Nat
  deriving DecidableEq, Repr

/-- A stream tile as it crosses (Table STN-2): its header fields and its packed rows (R117). -/
structure Tile where
  tnum : Nat
  fin : Bool
  poison : Bool
  fmt : Nat
  rows : Nat
  rbytes : Nat
  tag : Nat
  elems : List Byte
  exps : List Byte
  deriving DecidableEq, Repr

/-- A tile key of the shadow comparison (R390). -/
structure TileKey where
  pid : Nat
  flow : Nat
  index : Nat
  port : Nat
  tnum : Nat
  deriving DecidableEq, Repr

/-- The commands and events of the module, in the order of spec/opcode_table.json. -/
inductive Instr where
  | powerGood (peOk : Bool)
  | restoreComplete
  | selftestComplete (r : SelfTest)
  | trainingExit
  | inputLoss
  | presentLoopOpen
  | inputOvervoltage
  | inputOvercurrent
  | fuseRelease
  | reversedPolarity
  | inputRestart
  | fatalFault (code unit : Nat)
  | drain (o : Origin)
  | restart (o : Origin)
  | recover (o : Origin)
  | powerOff (o : Origin)
  | maintain (o : Origin)
  | homesMoved (o : Origin) (v : Nat)
  | moduleDrained
  | faultDeclare (o : Origin) (v : Nat)
  | powerCapWrite (o : Origin) (v : Nat)
  | capStage2 (watts : Nat)
  | capStage3 (watts : Nat)
  | capRelease (watts : Nat)
  | emergencyThrottle (overCurrent : Bool) (tempDeci : Nat)
  | emergencyThrottleEnd
  | thermalShutdown (tempDeci : Nat)
  | ld (src : Src)
  | st (src : Src)
  | bld (m : CapMsg)
  | bst (m : CapMsg)
  | atomicAdd (src : ASrc)
  | atomicMin (src : ASrc)
  | atomicMax (src : ASrc)
  | atomicAnd (src : ASrc)
  | atomicOr (src : ASrc)
  | atomicXor (src : ASrc)
  | atomicSwap (src : ASrc)
  | atomicCas (src : ASrc)
  | casOwn (src : ASrc)
  | trd (m : CapMsg)
  | twr (m : CapMsg)
  | twd (m : CapMsg)
  | fenceAcquire (src : Src)
  | fenceRelease (src : Src)
  | fenceAcqRel (src : Src)
  | fenceComplete (tx : Nat)
  | inval (src : Src)
  | invalComplete (tx : Nat)
  | hintHot (m : CapMsg)
  | hintWarm (m : CapMsg)
  | hintCold (m : CapMsg)
  | hintEvict (m : CapMsg)
  | hintPin (m : CapMsg)
  | doorbell (m : CapMsg)
  | ctrwait (m : CapMsg)
  | ctrwaitTimeout (ep ctx tag : Nat)
  | ctrset (m : CapMsg)
  | sput (m : CapMsg)
  | scred (m : CapMsg)
  | mbxq (m : CapMsg) (pid : Nat) (cmd : MbxCmd)
  | xrsp (m : CapMsg)
  | exportTimeout (xid : Nat)
  | requestIssue (tx part : Nat)
  | walkerFree (ep : Nat)
  | rtcWalkComplete (ep pid slot : Nat) (uncorrectable : Bool)
  | faultResolveRetry (o : Origin) (pid recId : Nat)
  | faultResolveFail (o : Origin) (pid recId : Nat)
  | rtcInval (o : Origin) (op : InvalOp)
  | rtcInvalComplete (id : Nat)
  | faultRingReset (o : Origin) (pid sub v : Nat)
  | faultRingTail (o : Origin) (pid v : Nat)
  | cxlMemRequest (cp : Nat) (wr wantM : Bool) (hpa : Nat) (data : List Byte)
  | atsInvalidation (cp base len : Nat)
  | homeLoad (pos : Nat) (uncorrectable : Bool)
  | homeStore (pos : Nat)
  | homeHintCommand (pos : Nat)
  | ownerTableRead (pos : Nat)
  | ownerReadResponse (flag status word : Nat)
  | ownerUpdate (src seq flag owner gen : Nat)
  | mirrorWrite (pos : Nat)
  | mirrorAck (hid status : Nat)
  | mirrorRetryRequest (pos : Nat)
  | mirrorRetryHoldExpiry (pos : Nat)
  | hostCoherentRequest (pos : Nat)
  | directoryRecall (src cp line : Nat) (invalidate : Bool)
  | recallResponse (line host : Nat) (data : List Byte)
  | recallTimeout (line : Nat)
  | hostLost (cause : HostLossCause) (mid cp : Nat)
  | hostLossSweepEnd (mid cp : Nat)
  | tierFrameMoveComplete (frame : Nat) (badLines : List Nat)
  | atomicBufferFetchComplete (line status : Nat) (data : List Byte)
  | responseArrival (r : RspSrc)
  | frameHeaderArrival (ingress : Nat) (f : Frame) (seen : NMap)
  | frameTailArrival (id : Nat) (hop : HopVerdict) (authOk marked : Bool)
  | frameDelivery (id : Nat)
  | egressArbitration (egress : Nat) (seen : NMap)
  | tbufCacheRefill
  | framePark (id : Nat)
  | frameUnpark (id : Nat)
  | mirrorSessionMode (o : Origin) (n v : Nat)
  | analysisPort (o : Origin) (v : Nat)
  | ackArrival (src : Nat) (seqs : List Nat)
  | heldRequestAck (pos : Nat)
  | ackedRequestQuery (dst seq : Nat)
  | resendTimerExpiry (dst seq : Nat)
  | keepaliveSend
  | keepaliveTimeout (port : Nat)
  | lossOfLight (port : Nat)
  | linkStateNotice (n : Notice)
  | peerLossTimeout (mid : Nat)
  | closingNotice (src pid : Nat)
  | abortNotice (src pid flow status station time : Nat)
  | creditReturn (src pid flow sid consumer free : Nat)
  | routeDrain (o : Origin) (v : Nat)
  | routeDrained
  | routeDrainTimeout
  | routeSwap (o : Origin) (ts : Nat)
  | routeSwitch
  | routeSwapTimeout
  | routeDefault (o : Origin) (v : Nat)
  | portTrainingStart (p : TrainOp)
  | trainFailRetry (p : PortRef)
  | identityRecord (port : Nat) (r : IdRecord)
  | capLinkParameters (port : Nat) (r : CapParams)
  | portLinkUp (p : PortRef)
  | linkKeyAgreement (port keyHash pepoch nextSeq gen mstate : Nat)
  | portSecretRenewal (port : Nat)
  | linkKeyGraceExpiry (port : Nat)
  | lightReturn (port : Nat)
  | fpAdmin (o : Origin) (port v : Nat)
  | laneRemap (p : PortRef) (lane : Nat) (cause : RemapCause)
  | laneGroupDisable (p : PortRef) (lane : Nat)
  | idleEntry (p : PortRef)
  | idleExit (p : PortRef)
  | txTaps (o : Origin) (p : PortRef) (lane v : Nat)
  | prbsCtrl (o : Origin) (p : PortRef) (v : Nat)
  | inject (o : Origin) (p : PortRef) (v : Nat)
  | qualNow (o : Origin) (v : Nat)
  | qualificationEnd (failed : List Nat)
  | dailyQualification
  | qualLaneTestEnd (p : PortRef) (errors : Nat)
  | cpLinkDown (cp : Nat)
  | cpLinkUp (p : CpRef) (serial bytes link : Nat)
  | expEnable (o : Origin) (cp v : Nat)
  | flitReceived (port : Nat) (f : Flit)
  | flitReplay (port ackseq : Nat)
  | attachLinkDown (port : Nat)
  | ctxBind (o : Origin) (b : BindOp)
  | ctxUnbind (o : Origin) (ep ctx : Nat)
  | ctxUnbindComplete (ep ctx : Nat)
  | queueSetup (o : Origin) (q : QueueOp)
  | queueReset (o : Origin) (ep q : Nat)
  | queueTail (o : Origin) (ep q tail : Nat)
  | copyDescriptorStart (ep q : Nat) (desc : List Nat) (host : HostAnswer)
  | copyDescriptorComplete (ep q : Nat) (e : CopyEnd)
  | counterAdvance (ep ctr pid : Nat)
  | ctrBind (o : Origin) (ep ctr pid : Nat)
  | mbxDoorbell (cp pid : Nat) (cmd : MbxCmd)
  | dictRead (o : Origin) (ix sub : Nat)
  | dictWrite (o : Origin) (ix sub ty : Nat) (val : List Byte)
  | sessionSetup (o : Origin) (b : BounceOp)
  | flowLoad (o : Origin) (pid fva len : Nat)
  | flowLoadComplete (pid fva len : Nat)
  | flowLaunch (o : Origin) (pid flow t : Nat)
  | flowStart (pid flow : Nat)
  | flowAbort (o : Origin) (pid flow : Nat)
  | flowUnload (o : Origin) (pid flow : Nat)
  | flowDone (pid flow : Nat)
  | streamTileArrival (pid flow sid consumer : Nat) (t : Tile) (src : Nat)
  | spillReadback (pid flow sid consumer : Nat)
  | spanIssue (who : InstRef)
  | watchdogExpiry (who : InstRef) (input : Nat)
  | residueMismatch (who : InstRef)
  | coreRetirementComplete (sd cluster core : Nat)
  | clusterRetirementComplete (sd cluster : Nat)
  | engineRetirementComplete (sd cluster core : Nat)
  | memoryInstructionComplete (who : InstRef)
  | nop (who : InstRef)
  | li (who : InstRef)
  | salu (who : InstRef)
  | br (who : InstRef)
  | ldp (who : InstRef)
  | stp (who : InstRef)
  | halt (who : InstRef)
  | flg (who : InstRef)
  | rdtime (who : InstRef)
  | waitt (who : InstRef)
  | waittExpiry (who : InstRef)
  | pmask (who : InstRef)
  | get (who : InstRef)
  | put (who : InstRef)
  | pend (who : InstRef)
  | rel (who : InstRef)
  | tnew (who : InstRef)
  | tview (who : InstRef)
  | tset (who : InstRef)
  | tinfo (who : InstRef)
  | tfill (who : InstRef)
  | tcopy (who : InstRef)
  | tld (who : InstRef)
  | tst (who : InstRef)
  | tgath (who : InstRef)
  | seqrd (who : InstRef)
  | add (who : InstRef)
  | sub (who : InstRef)
  | mul (who : InstRef)
  | mac (who : InstRef)
  | min (who : InstRef)
  | max (who : InstRef)
  | unary (who : InstRef)
  | logic (who : InstRef)
  | shift (who : InstRef)
  | scale (who : InstRef)
  | rsum (who : InstRef)
  | mma (who : InstRef)
  | cvt (who : InstRef)
  | qsq (who : InstRef)
  | dqsq (who : InstRef)
  | align (who : InstRef)
  | expsc (who : InstRef)
  | zelide (who : InstRef)
  | zexpand (who : InstRef)
  | rsel (who : InstRef)
  | rscat (who : InstRef)
  | sha (who : InstRef)
  | dcmp (who : InstRef)
  | referenceLost (refB : Bool)
  | referenceQualified (refB : Bool)
  | referenceRevert
  | timestampExchange (x : StampOp)
  | rootHandover (r : RootOp)
  | rtSet (o : Origin) (v : Nat)
  | sluiceLoad (o : Origin) (pid fva len : Nat)
  | sluiceRemove (o : Origin) (pid set : Nat)
  | sluiceCommit (o : Origin) (pid ts : Nat)
  | sluiceBankSwitch (pid : Nat)
  | gateWake (entry : Nat)
  | gateOpen (entry : Nat)
  | gateClose (entry : Nat)
  | partCreate (o : Origin) (pid : Nat)
  | partClose (o : Origin) (pid : Nat)
  | teardownDrainEnd (pid : Nat)
  | ownGrant (o : Origin) (base count pid : Nat)
  | ownRelease (o : Origin) (base count : Nat)
  | zeroFillGranuleDone (dev : Nat)
  | coreZeroingComplete (sd cluster core : Nat)
  | keyAgree (o : Origin) (pid slot kind : Nat) (pub nonce : List Byte)
  | attest (o : Origin) (pid : Nat) (nonce : List Byte)
  | regionRegister (o : Origin) (pid fva len : Nat)
  | regionRegisterComplete (pid : Nat)
  | sessionOpen (op : SessionOpenOp)
  | sessionClose (op : SessionCloseOp)
  | sessionIdleTimeout (session : Nat)
  | read (d : MdpReq)
  | write (d : MdpReq)
  | mdpInterimResponse (session seq : Nat)
  | mgrKeyHash (o : Origin) (val : List Byte)
  | retainedCommit
  | counterControlWrite (o : Origin) (bank n v : Nat)
  | counterWrite (o : Origin) (bank n v : Nat)
  | ovf (o : Origin) (bank v : Nat)
  | counterOverflow (bank n : Nat) (occ : Occurrence)
  | snapAt (o : Origin) (ts : Nat)
  | snapshotTaken
  | sampleRingBase (o : Origin) (v : Nat)
  | stationDieFault (sd : Nat)
  | epDieFault (ep : Nat)
  | oeDieFault (oe : Nat)
  | managementLinkDown (portB : Bool)
  | shadowPartner (o : Origin) (v : Nat)
  | shadowFeedTile (pid flow index input : Nat) (t : Tile)
  | shadowDigest (k : TileKey) (digest : Nat)
  | shadowPass
  | trainingPhaseFail (p : PortRef)
  | managementLinkUp (portB : Bool)
  | sluiceLoadComplete (pid fva len : Nat)
  | hashUnitDone (sd cluster core : Nat)
  | cxlMemEnable (cp : Nat) (cfg : HostCfg)
  deriving DecidableEq, Repr

end Sys2Proof
end

