-- ==== Sys2Proof/Config.lean ====
section
/-! DEFINITION. The values the specification leaves open. Each is an opaque constant: nothing in Lean
can evaluate it, so a claim that holds, holds whatever the value is. Where a fresh value is needed at
each use, the constant is applied to the counter `State.free`, which the step reads and advances. -/

namespace Sys2Proof.Config

/-- The path hash of R40: a fixed function of FPA[55:8], the requester's EP and its agent.
Log entry 9 (DESIGN CHOICE). -/
opaque pathHash : Nat → Nat → Nat → Nat

/-- Which entry a cache gives up when it needs room (R41 leaves the RTC and the node cache open; the
reach cache's and the atomic buffer's replacement are not stated either).
Log entry 9 (DESIGN CHOICE). -/
opaque victim : Nat → Nat

/-- The set index hash of the RTC (R41): a function of PID and slot.
Log entry 9 (DESIGN CHOICE). -/
opaque rtcSet : Nat → Nat → Nat

/-- An identifier the module assigns and the source gives no rule for: RECORD_ID, SESSION.
Log entry 10 (DESIGN CHOICE). -/
opaque freshId : Nat → Nat

/-- The choice among equals that the source does not order (a placement tie, R127).
Log entry 9 (DESIGN CHOICE). -/
opaque tie : Nat → Nat

/-- Capacity of the queues whose fill gives the load indicator (R104): 0 the home agent's input
queue, 3 the directory recall queue.
Log entry 9 (DESIGN CHOICE). -/
opaque queueCap : Nat → Nat

/-- Fill of a queue that the model does not hold, in sixteenths (R104): 0 the pseudo-channel queue, 1 the expander's CP queue;
second argument: the request. Log entry 9 (DESIGN CHOICE). -/
opaque queueFill : Nat → Nat → Nat

/-- Issue slots left empty after a taken branch (R138), whose number the source does not state.
Log entry 29 (DESIGN CHOICE). -/
opaque branchSlots : Nat

/-- Beats that an abort squashes in a core (R138), whose number the source does not state; argument: rack time.
Log entry 29 (DESIGN CHOICE). -/
opaque abortSlots : Nat → Nat

/-- Capacity in bytes of the result buffer of an ALLTOALLV receiver (R184), which no parameter of the source holds: PID, FLOW_ID,
station. Log entry 67 (DESIGN CHOICE). -/
opaque resultCap : Nat → Nat → Nat → Nat

/-- ECDSA P-384 verification (R354): key, message, signature.
Log entry 7 (DESIGN CHOICE). -/
opaque ecdsaOk : List (BitVec 8) → List (BitVec 8) → List (BitVec 8) → Bool

/-- Bytes that cryptography or the part's manufacture supplies: public keys, signatures,
certificates, serial numbers. First argument: which; second: the use.
Log entry 7 (DESIGN CHOICE). -/
opaque secretBytes : Nat → Nat → List (BitVec 8)

/-- Data the source leaves undefined or does not state, byte by byte.
Log entry 7 (DESIGN CHOICE). -/
opaque freeByte : Nat → BitVec 8

/-- The digest of the firmware images (Table SEC-5) and of other inputs outside the state.
Log entry 7 (DESIGN CHOICE). -/
opaque digest : Nat → Nat

/-- A measured quantity that only the physical part supplies (voltage, temperature).
Log entry 8 (DESIGN CHOICE). -/
opaque measured : Nat → Nat

end Sys2Proof.Config
end

