-- ==== Sys2Proof/Machine/Maps.lean ====
section
/-! DEFINITION. Sparse maps, byte strings and list helpers that every later file uses. -/

namespace Sys2Proof.Machine

open Sys2Proof

/-! ### Sorted maps -/

/-- The entry listed for `k`. -/
def mfind {α : Type} : List (Nat × α) → Nat → Option α
  | [], _ => none
  | (a, v) :: r, k => if a = k then some v else mfind r k

/-- Put `v` at `k`, keeping keys strictly rising. -/
def mput {α : Type} : List (Nat × α) → Nat → α → List (Nat × α)
  | [], k, v => [(k, v)]
  | (a, w) :: r, k, v =>
    if k < a then (k, v) :: (a, w) :: r
    else if k = a then (k, v) :: r
    else (a, w) :: mput r k v

/-- Remove the entry for `k`. -/
def mdel {α : Type} : List (Nat × α) → Nat → List (Nat × α)
  | [], _ => []
  | (a, w) :: r, k => if a = k then r else (a, w) :: mdel r k

/-- The number at `k`, `d` where none is listed. -/
def nmGet (m : NMap) (k d : Nat) : Nat := (mfind m k).getD d

/-! ### Byte memory -/

/-- Reading one byte: an unlisted address reads zero. Log entry 5 (DESIGN CHOICE). -/
def byteAt (m : Bytes) (a : Nat) : Byte := (mfind m a).getD 0

/-- Writing one byte; writing zero removes the entry, so equal memories are equal lists. -/
def byteSet (m : Bytes) (a : Nat) (b : Byte) : Bytes := if b = 0 then mdel m a else mput m a b

/-- `n` bytes from `a` upward. Log entry 5 (DESIGN CHOICE). -/
def bytesAt (m : Bytes) (a : Nat) : Nat → List Byte
  | 0 => []
  | n + 1 => byteAt m a :: bytesAt m (a + 1) n

/-- Write a byte string from `a` upward. Log entry 5 (DESIGN CHOICE). -/
def bytesSet (m : Bytes) (a : Nat) : List Byte → Bytes
  | [] => m
  | b :: r => bytesSet (byteSet m a b) (a + 1) r

/-- Write the bytes of `bs` whose enable bit is set: bit `i` of `be` for byte `i`. -/
def bytesSetBE (m : Bytes) (a be : Nat) : List Byte → Bytes
  | [] => m
  | b :: r => bytesSetBE (if be % 2 = 1 then byteSet m a b else m) (a + 1) (be / 2) r

/-- Drop every listed byte of `[lo, hi)`. -/
def bytesDrop (m : Bytes) (lo hi : Nat) : Bytes := m.filter fun c => !(decide (lo ≤ c.1) && decide (c.1 < hi))

/-- Addresses strictly rising and no zero byte: the canonical form (Bool). -/
def Bytes.wfFrom : Nat → Bytes → Bool
  | _, [] => true
  | lo, (a, b) :: r => decide (lo ≤ a) && decide (b ≠ 0) && Bytes.wfFrom (a + 1) r

/-- The canonical form of a byte memory. Log entry 5 (DESIGN CHOICE). -/
def Memory.wf (m : Bytes) : Bool := Bytes.wfFrom 0 m

/-- Little-endian value of a byte string. -/
def leNat : List Byte → Nat
  | [] => 0
  | b :: r => b.toNat + 256 * leNat r

/-- The low `n` bytes of a number, little-endian. -/
def leBytes : Nat → Nat → List Byte
  | 0, _ => []
  | n + 1, v => BitVec.ofNat 8 v :: leBytes n (v / 256)

/-- 64-bit word `i` of a byte string. -/
def word64 (bs : List Byte) (i : Nat) : Nat := leNat ((bs.drop (8 * i)).take 8)

/-- 64-bit words as bytes, ascending, least significant byte first (R410). -/
def wordBytes (ws : List Nat) : List Byte := (ws.map (leBytes 8)).flatten

/-- `n` zero bytes. -/
def zeros (n : Nat) : List Byte := List.replicate n 0

/-- A byte string cut or zero-padded to `n` bytes. -/
def fitTo (n : Nat) (bs : List Byte) : List Byte := (bs ++ zeros (n - bs.length)).take n

/-- Every byte is zero. -/
def allZero (bs : List Byte) : Bool := bs.all fun b => b = 0

/-- Overwrite `bs` from byte `off` with `d`. -/
def patch (bs : List Byte) (off : Nat) (d : List Byte) : List Byte :=
  bs.take off ++ d ++ bs.drop (off + d.length)

/-! ### Sets as lists without repeats -/

def insertOnce (l : List Nat) (k : Nat) : List Nat := if l.contains k then l else l ++ [k]

def removeAll (l : List Nat) (ks : List Nat) : List Nat := l.filter fun k => !ks.contains k

/-! ### List helpers -/

/-- Apply `f` to every element that satisfies `p`. -/
def mapIf {α : Type} (p : α → Bool) (f : α → α) (l : List α) : List α :=
  l.map fun a => if p a then f a else a

/-- Apply `f` to the first element that satisfies `p`. -/
def updFirst {α : Type} (p : α → Bool) (f : α → α) : List α → List α
  | [] => []
  | a :: r => if p a then f a :: r else a :: updFirst p f r

/-- Element `i` replaced. -/
def setAt {α : Type} (l : List α) (i : Nat) (a : α) : List α := l.set i a

/-- Remove element `i`. -/
def delAt {α : Type} : List α → Nat → List α
  | [], _ => []
  | _ :: r, 0 => r
  | a :: r, i + 1 => a :: delAt r i

/-- Take `n` numbers from the front of runs (first number, count). -/
def ringTake : Nat → List (Nat × Nat) → List Nat × List (Nat × Nat)
  | _, [] => ([], [])
  | n, (a, k) :: r =>
    if n = 0 then ([], (a, k) :: r)
    else if n < k then ((List.range n).map fun i => a + i, (a + n, k - n) :: r)
    else
      let t := ringTake (n - k) r
      ((List.range k).map (fun i => a + i) ++ t.1, t.2)

/-- Put a number in front of runs. -/
def runPush (a : Nat) : List (Nat × Nat) → List (Nat × Nat)
  | [] => [(a, 1)]
  | (b, k) :: r => if a + 1 = b then (a, k + 1) :: r else (a, 1) :: (b, k) :: r

/-- Numbers in runs. -/
def runCount (l : List (Nat × Nat)) : Nat := l.foldl (fun n r => n + r.2) 0

/-- Two's complement reading of the low `w` bits. -/
def toSigned (w v : Nat) : Int :=
  let m := v % 2 ^ w
  if m < 2 ^ (w - 1) then (m : Int) else (m : Int) - (2 ^ w : Nat)

/-- The low `w` bits of an integer. -/
def ofSigned (w : Nat) (v : Int) : Nat := (v % (2 ^ w : Nat)).toNat

/-- `⌈a / b⌉`. -/
def cdiv (a b : Nat) : Nat := (a + b - 1) / b

/-- Numbers of set bits among the low `n`. -/
def bitsSet (v n : Nat) : List Nat := (List.range n).filter fun i => v.testBit i

/-- `v` with bit `i` set. -/
def setBit (v i : Nat) : Nat := v ||| (1 <<< i)

/-- `v` with bit `i` clear. -/
def clrBit (v i : Nat) : Nat := if v.testBit i then v - (1 <<< i) else v

end Sys2Proof.Machine
end

