-- ==== Sys2Proof/Machine/Checks.lean ====
section
/-! DEFINITION. The check codes of R410 (CRC-16 and CRC-32C) and the digest SHA-384. The source names
SHA-384 and gives no algorithm: the one of FIPS 180-4 stands here (log entry 6). -/

namespace Sys2Proof.Machine

open Sys2Proof

/-! ### CRC-16 -/

/-- One bit step of the CRC-16 with polynomial 0x1021, most significant bit first. -/
def crc16Bit (c : Nat) : Nat := if c.testBit 15 then ((c <<< 1) ^^^ 0x1021) % 65536 else (c <<< 1) % 65536

/-- `n` bit steps. -/
def crc16Bits : Nat → Nat → Nat
  | 0, c => c
  | n + 1, c => crc16Bits n (crc16Bit c)

/-- CRC-16 of R410: initial value 0xFFFF, no reflection, no final XOR. Log entry 7 (PRESUMED). -/
def crc16 (bs : List Byte) : Nat := bs.foldl (fun c b => crc16Bits 8 (c ^^^ (b.toNat <<< 8))) 0xFFFF

/-! ### CRC-32C -/

/-- One bit step of the reflected CRC-32C (0x82F63B78 is 0x1EDC6F41 reflected). -/
def crc32Bit (c : Nat) : Nat := if c % 2 = 1 then (c >>> 1) ^^^ 0x82F63B78 else c >>> 1

/-- `n` bit steps. -/
def crc32Bits : Nat → Nat → Nat
  | 0, c => c
  | n + 1, c => crc32Bits n (crc32Bit c)

/-- CRC-32C of R410: reflected, initial value and final XOR 0xFFFFFFFF. Log entry 7 (PRESUMED). -/
def crc32c (bs : List Byte) : Nat :=
  (bs.foldl (fun c b => crc32Bits 8 (c ^^^ b.toNat)) 0xFFFFFFFF) ^^^ 0xFFFFFFFF

/-! ### SHA-384

The standard derives its constants from prime numbers, and so does the model: no table of them stands here. -/

/-- The primes below `m`, for `m` up to 529: no prime below 23 divides them. -/
def primesBelow (m : Nat) : List Nat :=
  (List.range m).filter fun n => decide (2 ≤ n) && [2, 3, 5, 7, 11, 13, 17, 19].all fun d => n == d || n % d != 0

/-- The largest number below `r + 2 ^ n` whose power `k` is at most `v`, bit by bit from the top. -/
def rootBits (k v : Nat) : Nat → Nat → Nat
  | 0, r => r
  | n + 1, r => rootBits k v n (if (r + 2 ^ n) ^ k ≤ v then r + 2 ^ n else r)

/-- The first 64 bits of the fraction of the root `k` of `p`. -/
def rootFraction (k p : Nat) : Nat := rootBits k (p * 2 ^ (64 * k)) 69 0 % 2 ^ 64

/-- The 80 round constants: the cube roots of the first 80 primes. Log entry 6 (PRESUMED). -/
def shaK : List Nat := (primesBelow 410).map (rootFraction 3)

/-- The initial hash value: the square roots of the ninth to the sixteenth prime. Log entry 6 (PRESUMED). -/
def shaInit : List Nat := ((primesBelow 54).drop 8).map (rootFraction 2)

/-- The exclusive or of `v` turned right by each distance of `l`, as a word of 64 bits. -/
def turned (v : Nat) (l : List Nat) : Nat :=
  l.foldl (fun x n => x ^^^ ((v + v * 2 ^ 64) / 2 ^ n) % 2 ^ 64) 0

/-- A big-endian number. -/
def beWord (bs : List Byte) : Nat := bs.foldl (fun a b => a * 256 + b.toNat) 0

/-- The message window one word on: sixteen words, the oldest first; the oldest leaves and the word computed from it
comes in behind. -/
def shaSlide (w : List Nat) : List Nat :=
  let old := w.getD 1 0
  let new := w.getD 14 0
  w.tail ++ [(w.headD 0 + (turned old [1, 8] ^^^ old / 2 ^ 7) + w.getD 9 0 + (turned new [19, 61] ^^^ new / 2 ^ 6)) % 2 ^ 64]

/-- One round on the eight working words, with the round's constant plus its message word: what the last four words give
goes into the fourth, and the sum of both halves comes in front. -/
def shaMix (st : List Nat) (k : Nat) : List Nat :=
  let x := st.getD 4 0
  let pick := (x &&& st.getD 5 0) + ((2 ^ 64 - 1 - x) &&& st.getD 6 0)
  let low := st.getD 7 0 + turned x [14, 18, 41] + pick + k
  let y := st.headD 0
  let most := (y &&& (st.getD 1 0 ||| st.getD 2 0)) ||| (st.getD 1 0 &&& st.getD 2 0)
  ((low + turned y [28, 34, 39] + most) % 2 ^ 64) :: st.take 3 ++ (((st.getD 3 0 + low) % 2 ^ 64) :: (st.drop 4).take 3)

/-- The rounds with the constants `ks`, over the window `w`. -/
def shaRounds : List Nat → List Nat → List Nat → List Nat
  | [], _, st => st
  | k :: ks, w, st => shaRounds ks (shaSlide w) (shaMix st (k + w.headD 0))

/-- The hash value after `n` whole blocks from the front of `bs`, and the bytes left. -/
def shaBlocks : Nat → List Nat → List Byte → List Nat × List Byte
  | 0, h, bs => (h, bs)
  | n + 1, h, bs =>
    let w := (List.range 16).map fun j => beWord ((bs.drop (8 * j)).take 8)
    shaBlocks n ((h.zip (shaRounds shaK w h)).map fun p => (p.1 + p.2) % 2 ^ 64) (bs.drop 128)

/-- Big-endian bytes of a number. -/
def beBytes (n v : Nat) : List Byte := (leBytes n v).reverse

/-- The padding of SHA-384 after `count` bytes of message. -/
def shaPad (count : Nat) : List Byte :=
  [(0x80 : Byte)] ++ zeros ((239 - count % 128) % 128) ++ beBytes 16 (8 * count)

/-- The digest of a state, its unfinished bytes and the bytes absorbed. Log entry 6 (PRESUMED). -/
def shaFinish (h : List Nat) (buf : List Byte) (count : Nat) : List Byte :=
  let bs := buf ++ shaPad count
  let r := (shaBlocks (bs.length / 128) h bs).1
  ((r.take 6).map (beBytes 8)).flatten

/-- SHA-384 of a byte string: 48 bytes. Log entry 6 (PRESUMED). -/
def sha384 (bs : List Byte) : List Byte :=
  let r := shaBlocks (bs.length / 128) shaInit bs
  shaFinish r.1 r.2 bs.length

end Sys2Proof.Machine
end

