-- ==== Sys2Proof/Machine/State.lean ====
section
/-! DEFINITION. The state of one Melwa M9 module: everything the specification gives the part, as
plain data, with the queue of waiting commands and the list of everything the module has sent. -/

namespace Sys2Proof.Machine

open Sys2Proof

/-! ### Module, power and retained store -/

/-- The module states of Table ARC-6. -/
inductive MState where
  | off | restore | selftest | training | shadow | member | draining | maintenance | failed
  deriving DecidableEq, Repr

/-- STATE_REQUEST codes that wait until the module is drained (R364). -/
inductive HeldReq where
  | powerOff | maintain
  deriving DecidableEq, Repr

/-- Identity and life cycle (R2, R25, R364). -/
structure Life where
  mstate : MState
  order768 : Bool
  homesMoved : Bool
  heldReq : Option (HeldReq × Origin)
  restoredAt : Nat
  deriving DecidableEq, Repr

/-- Input power and the cap sequence (R397 to R400). `redLight`: 0 dark, 1 lit, 2 flashing.
`measures`: how many rows of Table PWR-4 are taken. -/
structure Power where
  inputOn : Bool
  fuseOpen : Bool
  redLight : Nat
  standby : Bool
  saving : Bool
  measures : Nat
  stage3 : Bool
  opBefore : Nat
  deriving DecidableEq, Repr

/-- One bank of the non-volatile store (R358, R359): generation, header and trailer verdicts, the
retained image (values that differ from the defaults), and the keys whose records are bad, absent, of
the wrong length, or unknown to the firmware. -/
structure Bank where
  gen : Nat
  headerOk : Bool
  trailerOk : Bool
  recs : NMap
  bad : List Nat
  missing : List Nat
  badLen : List Nat
  unknown : List Nat
  deriving DecidableEq, Repr

/-- A retained write that waits for its commit (R358). -/
structure Waiting where
  origin : Origin
  clamped : Bool
  deriving DecidableEq, Repr

/-- The non-volatile store: both banks, and the writes accepted since the last commit. -/
structure Nv where
  a : Bank
  b : Bank
  dirty : Bool
  waiting : List Waiting
  since : Nat
  deriving DecidableEq, Repr

/-- A span of SCRUB granules of one device waiting for zero-fill (R328); device 0 is HBM, 1 + n the
expander on CPn; `next` to `stop` are the granules still to fill. `teardown` names the PID whose
teardown put it there. -/
structure FillSpan where
  dev : Nat
  next : Nat
  stop : Nat
  teardown : Option Nat
  deriving DecidableEq, Repr

/-! ### Translation -/

/-- A range descriptor (Table ADR-4). -/
structure Desc where
  v : Bool
  mtype : Nat
  permH : Bool
  permA : Bool
  permW : Bool
  permR : Bool
  hint : Nat
  paths : Nat
  start : Nat
  len : Nat
  spread : Bool
  gran : Nat
  target : Nat
  lbase : Nat
  oflag : Nat
  mmid : Nat
  mlbase : Nat
  deriving DecidableEq, Repr

/-- An RTC entry: EP, PID, slot FVA[56:21], descriptor. -/
structure RtcEntry where
  ep : Nat
  pid : Nat
  slot : Nat
  d : Desc
  deriving DecidableEq, Repr

/-- A node-cache entry: EP, PID, the local address of an index entry and its value. -/
structure NodeEntry where
  ep : Nat
  pid : Nat
  addr : Nat
  val : Nat
  deriving DecidableEq, Repr

/-- A walk in progress (R41, R44). -/
structure Walk where
  ep : Nat
  pid : Nat
  slot : Nat
  restart : Bool
  deriving DecidableEq, Repr

/-- A reach-cache line: EP, PID, FVA[56:6] and 64 bytes. -/
structure ReachLine where
  ep : Nat
  pid : Nat
  line : Nat
  data : List Byte
  deriving DecidableEq, Repr

/-- A fill in flight (R66): it is installed only while `live`. -/
structure Fill where
  ep : Nat
  pid : Nat
  line : Nat
  tx : Nat
  part : Nat
  live : Bool
  deriving DecidableEq, Repr

/-- An RTC_INVAL in progress (R45): the transactions it waits on. -/
structure InvalRun where
  id : Nat
  origin : Origin
  op : InvalOp
  issueWait : List Nat
  doneWait : List Nat
  deriving DecidableEq, Repr

/-- An open fault record (R48, R50, R52). `inRing`: its W4 may still be rewritten. -/
structure FaultRec where
  rid : Nat
  pid : Nat
  leaf : Nat
  status : Nat
  reason : Nat
  coalesced : Nat
  dropped : Bool
  slot : Nat
  inRing : Bool
  deriving DecidableEq, Repr

/-- Translation at the EPs. `phase` holds, per PID, the PHASE that the current ring pass writes. -/
structure Xlate where
  rtc : List RtcEntry
  nodes : List NodeEntry
  walks : List Walk
  reach : List ReachLine
  filling : List Fill
  invals : List InvalRun
  recs : List FaultRec
  phase : NMap
  deriving DecidableEq, Repr

/-! ### Requests -/

/-- What a transaction does. -/
inductive Acc where
  | load | store | atomic | tileRead | tileWrite | hint | fence | inval | copy
  deriving DecidableEq, Repr

/-- Where a transaction's completion goes; `module` for a read whose command takes its result (R126), `internal` for the
release part of an access, and for the fetches and write-backs of the atomic buffers. -/
inductive Dest where
  | cap (ep port ctx tag : Nat)
  | stn (who : InstRef)
  | copyQ (ep q idx : Nat)
  | host (cp hpa : Nat)
  | module
  | internal
  deriving DecidableEq, Repr

/-- How far the translation of a transaction has come (R41, R48). -/
inductive XState where
  | missWait (slot : Nat)
  | walking (slot : Nat)
  | parked (rid : Nat)
  | ready
  deriving DecidableEq, Repr

/-- A tile descriptor (Table STN-1). -/
structure TDesc where
  fmt : Nat
  base : Nat
  rows : Nat
  rbytes : Nat
  pitch : Nat
  xbase : Nat
  xpitch : Nat
  deriving DecidableEq, Repr

/-- The progress of one part: not yet issued, issued, completed. -/
inductive PartStage where
  | ready | issued | done
  deriving DecidableEq, Repr

/-- One part of a transaction: a run of bytes within one 4 KiB unit (or spread granule). `off` is its
offset in the packed payload, `mask` the FAILMAP chunks it marks, `merged` the transaction and part whose fill it has merged
onto (R66), `spans` the FVA spans of the descriptors it was translated through (R45), `sent` the MID that it was last sent to
(R105), 31 for none. -/
structure Part where
  off : Nat
  len : Nat
  fva : Nat
  fpa : Nat
  mtype : Nat
  hint : Nat
  paths : Nat
  oflag : Nat
  mmid : Nat
  mlocal : Nat
  mask : Nat
  isDst : Bool
  stage : PartStage
  status : Nat
  merged : Option (Nat × Nat)
  data : List Byte
  spans : List (Nat × Nat)
  sent : Nat
  deriving DecidableEq, Repr

/-- A transaction of an agent, from acceptance to its completion. `cursor` counts the bytes translated,
`covered` the TWD units that have arrived, as a
bitmap; `last`: no more data is to come. `waits` are the transactions that must end first; for a fence,
those it waits for, of which it counts those of `counted` (R72). `charged` has bit 0 set when the weir has charged the request,
bit 1 for the destination of a copy (R103). `stop` is the status with which the rest is not issued and, once `closed`, the result. -/
structure Tx where
  id : Nat
  agent : Agent
  pid : Nat
  owner : Nat
  dest : Dest
  acc : Acc
  sub : Nat
  wide : Bool
  scope : Nat
  ord : Nat
  own : Bool
  bulk : Bool
  fromHost : Bool
  addr : Nat
  len : Nat
  tile : Option TDesc
  dst : Nat
  data : List Byte
  covered : Nat
  cursor : Nat
  operand : Nat
  compare : Nat
  poi : Bool
  xst : XState
  relTx : Nat
  waits : List Nat
  counted : List Nat
  fails : List Nat
  tmo : Bool
  charged : Nat
  stop : Option Nat
  closed : Bool
  firstFail : Nat
  parts : List Part
  idx : List Nat
  last : Bool
  li : Nat
  deriving DecidableEq, Repr

/-- The EP's record of one agent: its weir bucket in units of 1/10,000 byte (R103), its windows
(R105), and the accesses since its last release (R72). -/
structure AgentSt where
  agent : Agent
  pid : Nat
  owner : Nat
  bucket : Int
  wins : NMap
  cutAt : NMap
  relOpen : List Nat
  relFails : List Nat
  relTmo : Bool
  deriving DecidableEq, Repr

/-- A line held in an atomic buffer (R77). `mods`: bit i set when 8-byte word i was modified; `hint`: its descriptor's HINT. -/
structure ALine where
  ep : Nat
  pid : Nat
  line : Nat
  fva : Nat
  data : List Byte
  mods : Nat
  hint : Nat
  fetching : Bool
  waiters : List Nat
  deriving DecidableEq, Repr

/-- A host translation held through ATS (R56): a page and its permissions. An invalidation that waits uses the span alone. -/
structure AtsEntry where
  cp : Nat
  base : Nat
  len : Nat
  rd : Bool
  wr : Bool
  deriving DecidableEq, Repr

/-- Requests, agents, atomic buffers, ATS translations and the ATS invalidations that wait for a DMA (R57). -/
structure Reqs where
  txs : List Tx
  agents : List AgentSt
  atoms : List ALine
  ats : List AtsEntry
  atsInv : List AtsEntry
  deriving DecidableEq, Repr

/-! ### The home -/

/-- A request at the home: its frame, and the transaction part when the requester is this module. -/
structure HReq where
  hid : Nat
  f : Frame
  loc : Option (Nat × Nat)
  since : Nat
  acked : Bool
  deriving DecidableEq, Repr

/-- Why the home holds a request: an owner-table read (R85); mirror writes, with the old value of an
atomic, how many are unacknowledged and the first bad status (R93); the recalls of some lines (R98); a MIRROR_RETRY
request (R95); a recall of another home that waits for this module's host (`snoop`); a checked write whose tier-cache frame
moves (R92). -/
inductive Why where
  | ownerRead (flag : Nat)
  | mirror (old left bad : Nat)
  | recall (lines : List Nat)
  | retry
  | snoop
  | moved (frame : Nat)
  deriving DecidableEq, Repr

/-- A held request. -/
structure Held where
  h : HReq
  why : Why
  deriving DecidableEq, Repr

/-- A response of this module's home to this module's own requester. -/
structure LocalRsp where
  tx : Nat
  part : Nat
  status : Nat
  li : Nat
  data : List Byte
  deriving DecidableEq, Repr

/-- An owner-table entry (R85), most recently used first. -/
structure OwnerEntry where
  flag : Nat
  owner : Nat
  gen : Nat
  deriving DecidableEq, Repr

/-- A CAS.OWN that has been performed and waits for owner-update acknowledgements (R83). -/
structure CasHold where
  h : HReq
  old : Nat
  waitFor : List Nat
  deriving DecidableEq, Repr

/-- A directory entry (Table POL-3); state 0 I, 1 S, 2 M. The directory lists the least recently used entry first; AGE counts
the uses of other entries since the last of this one and stops at 127. Log entry 62 (DESIGN CHOICE). -/
structure DirEntry where
  line : Nat
  dstate : Nat
  sharers : Nat
  pid : Nat
  age : Nat
  deriving DecidableEq, Repr

/-- A recall in progress (R98, R100): the hosts (as sharer bits) that have not answered. -/
structure Recall where
  line : Nat
  invalidate : Bool
  hosts : Nat
  since : Nat
  deriving DecidableEq, Repr

/-- A tier-cache frame (R88 to R92), most recently used first. `moving`: 0 resident, 1 promotion,
2 demotion; `victim`: the frame whose demotion this promotion waits for. -/
structure TierFrame where
  frame : Nat
  cls : Nat
  dirty : List Nat
  moving : Nat
  victim : Option Nat
  deriving DecidableEq, Repr

/-- A record of the mirror duplicate window (R93): a write, the local lines of it that the mirror has performed, and the old
value of an atomic. -/
structure MirrorRec where
  src : Nat
  seq : Nat
  pepoch : Nat
  lines : List Nat
  old : Nat
  deriving DecidableEq, Repr

/-- A host-loss sweep in progress (R101). -/
structure Sweep where
  mid : Nat
  cp : Nat
  cause : Nat
  at_ : Nat
  poisoned : Nat
  cleared : Nat
  ended : Nat
  deriving DecidableEq, Repr

/-- A request to accelerator export memory that waits for XRSP (R303). -/
structure ExportReq where
  xid : Nat
  ep : Nat
  ctx : Nat
  h : HReq
  since : Nat
  deriving DecidableEq, Repr

/-- The home agents of the module. `lostHosts` has bit 4 × MID + CP per lost host; `cold` lists the frames that a COLD command
still has to demote (R90); `backs` holds host write-backs (line, host bit, data) to frames that move (R92). -/
structure Home where
  inq : List HReq
  held : List Held
  rsp : List LocalRsp
  owners : List OwnerEntry
  ownerReads : List Nat
  cas : List CasHold
  dir : List DirEntry
  recalls : List Recall
  tier : List TierFrame
  cold : List Nat
  backs : List (Nat × Nat × List Byte)
  mirrorWin : List MirrorRec
  degraded : List (Nat × Nat)
  lostHosts : Nat
  sweeps : List Sweep
  exps : List ExportReq
  deriving DecidableEq, Repr

/-! ### End-points -/

/-- Context states of Table EPT-5; a context not listed is UNBOUND. -/
inductive CtxState where
  | bound | closing | detached
  deriving DecidableEq, Repr

/-- A bound attach context (R307). `unbind`: a CTX_UNBIND in progress. -/
structure Ctx where
  ep : Nat
  n : Nat
  port : Nat
  pid : Nat
  owner : Nat
  expSize : Nat
  cstate : CtxState
  unbind : Option Origin
  discard : List Nat
  deriving DecidableEq, Repr

/-- A copy descriptor in progress (R310, R311). `status` is a result found before any transaction was opened;
`phase` the PHASE of its record; `notified` counts the arrival-counter advances sent; `halted`: its queue stopped; `sent` counts the
chunks written to a session's TX ring (R321). -/
structure CopyRun where
  idx : Nat
  words : List Nat
  tx : Nat
  status : Nat
  phase : Bool
  notified : Nat
  halted : Bool
  sent : Nat
  deriving DecidableEq, Repr

/-- A copy queue (R309). -/
structure Queue where
  ep : Nat
  q : Nat
  pid : Nat
  owner : Nat
  hostSpace : Bool
  descBase : Nat
  entries : Nat
  compBase : Nat
  head : Nat
  tail : Nat
  phase : Bool
  stopped : Bool
  reset : Option Origin
  runs : List CopyRun
  deriving DecidableEq, Repr

/-- An arrival counter (R313). -/
structure Counter where
  ep : Nat
  n : Nat
  pid : Nat
  v : Nat
  b : Nat
  deriving DecidableEq, Repr

/-- A pending CTRWAIT (R314) and its transaction; deadline 0 for none. -/
structure CtrWait where
  ep : Nat
  port : Nat
  ctx : Nat
  tag : Nat
  ctr : Nat
  target : Nat
  deadline : Nat
  tx : Nat
  deriving DecidableEq, Repr

/-- A bounce-buffer session (R320, R321). -/
structure Bounce where
  op : BounceOp
  txSeq : Nat
  rxSeq : Nat
  failed : Bool
  txTail : Nat
  deriving DecidableEq, Repr

/-- A message that waits in its port buffer because its context queue is full (R296). -/
structure Buffered where
  mt : Nat
  m : CapMsg
  deriving DecidableEq, Repr

/-- Host mailbox registers of one CP (Table EPT-10), as the header word and the data. -/
structure MbxReg where
  cp : Nat
  busy : Bool
  header : Nat
  data : List Byte
  deriving DecidableEq, Repr

/-- End-point state. `dead` lists the EPs out of service since an EP-die fault (R380), `usedKeys` the
session keys that bounce sessions have used (R321). -/
structure EpSt where
  ctxs : List Ctx
  queues : List Queue
  ctrs : List Counter
  waits : List CtrWait
  bounces : List Bounce
  buffered : List Buffered
  mbxCtx : List (Nat × Nat)
  mbxHost : List MbxReg
  dead : List Nat
  usedKeys : List Nat
  deriving DecidableEq, Repr

/-! ### Stations -/

/-- Flow states of Table STN-9. -/
inductive FState where
  | loaded | armed | running | done | aborted
  deriving DecidableEq, Repr

/-- A station of a flow image, wherever it runs. -/
structure StnInfo where
  index : Nat
  mid : Nat
  typ : Nat
  deriving DecidableEq, Repr

/-- A loaded flow on this module. `unloading`: FLOW_UNLOAD came before its completion record was written. -/
structure Flow where
  pid : Nat
  flow : Nat
  fst : FState
  doneFva : Nat
  set : Nat
  t : Nat
  tiles : Nat
  stns : List StnInfo
  attachMids : List Nat
  recDone : Bool
  cause : Nat
  origin : Nat
  failing : Nat
  endedAt : Nat
  unloading : Bool
  deriving DecidableEq, Repr

/-- A tile handle (R157). `kind`: 0 unbound, 1 input, 2 local. An input handle names the tile `tnum`
held from input `input`. -/
structure Handle where
  kind : Nat
  view : Bool
  fmt : Nat
  rows : Nat
  rbytes : Nat
  base : Nat
  pitch : Nat
  xbase : Nat
  xpitch : Nat
  cap : Nat
  poison : Bool
  tag : Nat
  fin : Bool
  input : Nat
  tnum : Nat
  deriving DecidableEq, Repr

/-- What an instance waits for. -/
inductive Wait where
  | none
  | time (t : Nat)
  | mem (tx : Nat)
  | paused
  deriving DecidableEq, Repr

/-- A SHA-384 state (R154): eight 64-bit words, the bytes not yet compressed, the bytes absorbed, and whether a poisoned tile
was among them (R120). -/
structure ShaState where
  h : List Nat
  buf : List Byte
  count : Nat
  poi : Bool
  deriving DecidableEq, Repr

/-- A span of a sequence-mode GATHER that is being issued (R135, R136): its first position, positions, layer, the parts still to
put as first position and plane, and the transaction that reads its descriptor or a map entry. -/
structure SpanRun where
  t0 : Nat
  n : Nat
  layer : Nat
  parts : List (Nat × Nat)
  tx : Option Nat
  deriving DecidableEq, Repr

/-- A kept slot of a routing row (R185): expert, token index, slot. -/
structure SlotRef where
  expert : Nat
  token : Nat
  slot : Nat
  deriving DecidableEq, Repr

/-- A tile that a MERGE station has got (R196): input, its number on that input, rows, row bytes, TAG. -/
structure MergeIn where
  input : Nat
  k : Nat
  rows : Nat
  rbytes : Nat
  tag : Nat
  deriving DecidableEq, Repr

/-- What a station of a collective holds beside its program (R184 to R188, R197): the header's words (none outside a
collective), the routing rows got so far, per expert the rows kept and returned, the kept slots that no row has used, the
rows that came back, DROPPED_SLOTS, tokens or partials put, tiles got of MERGE with the count per input, and the counts of
ALLTOALLV. -/
structure ColSt where
  hdr : List Nat
  tokens : List (List Byte)
  sent : NMap
  plan : List SlotRef
  back : List (SlotRef × List Int)
  dropped : Nat
  puts : Nat
  merge : List MergeIn
  gots : NMap
  counts : List Byte
  deriving DecidableEq, Repr

/-- A station instance (R154, R155): its program, registers, masks, handles, FLAGS, SHA-384 state and
instance SRAM, and its place. `spans`: words of the span entries of a sequence GATHER, `spanAt` those issued, `seqDesc` the FVA
of its descriptor, `span` the one being issued, `spanEnd` when the last one finished; `starved`: the input on which the
instance is front-starved, and for how many ticks (R199); `watch`: WATCHDOG of its collective header in µs, 0 for none;
`badHead`: that header is malformed. -/
structure Inst where
  who : InstRef
  typ : Nat
  owner : Nat
  sd : Nat
  cluster : Nat
  core : Nat
  prog : List IWord
  csram : Nat
  sram : Bytes
  pc : Nat
  x : NMap
  p : NMap
  h : List Handle
  flags : Nat
  sha : ShaState
  wait : Wait
  halted : Bool
  complete : Bool
  mism : Nat
  ins : List Nat
  outs : List Nat
  spans : List Nat
  spanAt : Nat
  seqDesc : Nat
  span : Option SpanRun
  spanEnd : Nat
  starved : Option (Nat × Nat)
  watch : Nat
  badHead : Bool
  col : ColSt
  deriving DecidableEq, Repr

/-- One consumer of a stream, as this module sees it. `credits` is the producer's count, `room` the free
bytes last reported; for an attach consumer `grant` counts the SCRED credits not yet used by STILE and `got`
those of its first DEPTH; `buf` holds delivered tiles, `spilled` tiles in HBM with their tile buffers, `held`
tiles bound by GET. -/
structure Cons where
  idx : Nat
  station : Option Nat
  mid : Nat
  ep : Nat
  ctx : Nat
  credits : Nat
  room : Nat
  expect : Nat
  grant : Nat
  got : Nat
  buf : List Tile
  spilled : List (Tile × List Nat)
  held : List Tile
  finSeen : Bool
  deriving DecidableEq, Repr

/-- A stream endpoint on this module. `asm` holds the frames (2^32 × egress + TNUM, PART, LASTPART, payload) of
tiles that are not yet whole, `putBuf` the SPUT bytes of an attach producer's current tile, `transit` tiles that wait for
their turn or for room, with the consumer. -/
structure Strm where
  pid : Nat
  flow : Nat
  sid : Nat
  tc : Nat
  depth : Nat
  spill : Bool
  sram : Nat
  prod : Option Nat
  pmid : Nat
  pep : Nat
  pctx : Nat
  pcredits : Nat
  tnum : Nat
  fin : Bool
  cons : List Cons
  asm : List (Nat × Nat × Bool × List Byte)
  putBuf : List Byte
  transit : List (Nat × Tile)
  deriving DecidableEq, Repr

/-- A FLOW_LOAD or SLUICE_LOAD whose image is being read. -/
structure ImageLoad where
  origin : Origin
  pid : Nat
  fva : Nat
  len : Nat
  tx : Nat
  deriving DecidableEq, Repr

/-- One physical core: the partition that holds it, the selected instance (R139), zeroing (R330), the
hash unit with the SRAM spans that it is absorbing (R178), spare engines used (R144), uncorrectable SRAM errors (R179). -/
structure CoreSt where
  sd : Nat
  cluster : Nat
  core : Nat
  pid : Nat
  sel : Option InstRef
  zeroing : Bool
  hash : Option InstRef
  absorb : List (Nat × Nat)
  engUsed : Nat
  retiring : Nat
  out : Bool
  sramErrors : Nat
  deriving DecidableEq, Repr

/-- Stations and flows. `clusters` lists the active clusters (die, physical cluster), logical cluster
0 first (R127). `clSpare` lists the dies whose spare cluster is in use, `banks` the cluster that each cluster bank serves
(R366). -/
structure Stn where
  flows : List Flow
  insts : List Inst
  strms : List Strm
  loads : List ImageLoad
  cores : List CoreSt
  clusters : List (Nat × Nat)
  clSpare : List Nat
  banks : List (Nat × Nat)
  retiring : List (Nat × Nat)
  deriving DecidableEq, Repr

/-! ### Switch core, delivery and links -/

/-- A mirror session that selected a frame (R244, R247): session, copy number, DIR, PORT, rack time. -/
structure MirSel where
  session : Nat
  copy : Nat
  dir : Nat
  port : Nat
  time : Nat
  deriving DecidableEq, Repr

/-- A frame in the switch core: where it entered, its cells, the egresses it is queued for and those
that have started it, the tail's verdict (0 none yet, 1 good, 2 bad). `judged`: a sequenced frame that has passed
Table DLV-3 at a first local egress; `loc` names the transaction and part of a request, or of an answer, that stays within the
module (R24); `ptrs` are its cell pointers, quadrant in bits [18:17] (R233), shared by the copies of one tile (R243). -/
structure CoreFrame where
  id : Nat
  f : Frame
  ingress : Nat
  quad : Nat
  cells : Nat
  egr : List Nat
  started : List Nat
  tail : Nat
  at_ : Nat
  parked : Bool
  bufs : List Nat
  judged : Bool
  mirr : List MirSel
  loc : Option (Nat × Nat)
  ptrs : List Nat
  deriving DecidableEq, Repr

/-- A frame that waits at its source in this module for credits (R241, R242). -/
structure SrcFrame where
  ingress : Nat
  f : Frame
  egrs : List Nat
  loc : Option (Nat × Nat)
  deriving DecidableEq, Repr

/-- The free-cell stacks with every cell free (R233). -/
def Switch.allFree : List (List (Nat × Nat)) := (List.range 4).map fun q => [(131072 * q, 98304)]

/-- Switch core and cistern. `freeStacks` holds each quadrant's free-cell stack as runs (first pointer, count), top first (R233);
`srcq` the frames that wait for credits. `tbRing` lists runs (first address, count) of free tile buffers; `ringSeen`
gives, by buffer, what its ring entry holds where that is another value than the buffer's pointer (Table SWC-2); `tbRef`
the reference count per buffer; `sample` and `copySeq` the sessions' counters (R244, R247).
`credits` holds, by 8 × ingress + class, the cells a sender has used and not got back; `below` holds, by
8 × quadrant + watermark, 1 while the watermark's actions run (R241); `waitAt`, by egress, when a frame last waited for it (R280). -/
structure Switch where
  frames : List CoreFrame
  freeStacks : List (List (Nat × Nat))
  srcq : List SrcFrame
  retired : NMap
  tbCache : List Nat
  tbRing : List (Nat × Nat)
  ringSeen : NMap
  tbRef : NMap
  sample : NMap
  copySeq : NMap
  lastIn : NMap
  deficit : NMap
  credits : NMap
  below : NMap
  waitAt : NMap
  deriving DecidableEq, Repr

/-- One entry of a duplicate window (R257). -/
structure WinRec where
  seq : Nat
  finished : Bool
  op : Nat
  status : Nat
  li : Nat
  data : List Byte
  deriving DecidableEq, Repr

/-- An open sequenced frame at its source (R256, R259). `path` is the path of the current attempt
(3 when nothing was sent), `orig` that of the first. -/
structure OpenFrame where
  seq : Nat
  f : Frame
  tries : Nat
  orig : Nat
  path : Nat
  tried : List Nat
  acked : Bool
  sentAt : Nat
  loc : Option (Nat × Nat)
  deriving DecidableEq, Repr

/-- The pair formed with one peer: epochs, sequence numbers, duplicate window, open frames, and the
peer's latest link-state view (R256 to R263). -/
structure Peer where
  mid : Nat
  outEpoch : Nat
  outSeq : Nat
  inEpoch : Option Nat
  high : Nat
  win : List WinRec
  opens : List OpenFrame
  waitq : List (Frame × Option (Nat × Nat) × Nat × Nat)
  vmask : Nat
  vstate : Nat
  maskAt : Nat
  maskCause : Nat
  heardFrom : Bool
  unmaskedAt : Nat
  deriving DecidableEq, Repr

/-- Delivery and routing. -/
structure Delivery where
  peers : List Peer
  drainAt : Nat
  drainedAt : Nat
  drainBy : Option Origin
  swapAt : Option Nat
  deriving DecidableEq, Repr

/-- A fabric port (R269, R274 to R286, R333, R334). `phase` 0 when it does not train; `lanes` maps a
logical lane to its physical lane; `dayTest` is the logical lane of the daily rotation. -/
structure FPort where
  n : Nat
  light : Bool
  laser : Bool
  phase : Nat
  fails : Nat
  keyed : Bool
  keyFrames : Nat
  keyIn : Nat
  keyAt : Nat
  oldKey : Bool
  keyEpoch : Nat
  deadPids : List Nat
  idle : Bool
  lanes : List Nat
  lastKeep : Nat
  heldAt : Nat
  dayTest : Option Nat
  peerState : Nat
  agreeing : Bool
  deriving DecidableEq, Repr

/-- A CAP message from the module (Table EPT-3). -/
structure CapOut where
  ep : Nat
  ctx : Nat
  tag : Nat
  mt : Nat
  sub : Nat
  status : Nat
  li : Nat
  last : Bool
  poi : Bool
  addr : Nat
  arg : Nat
  aux : Nat
  data : List Byte
  deriving DecidableEq, Repr

/-- An attach port: training, replay and credits (R291 to R294). `used` and `granted` are the pools that the module grants,
`send` the units it holds of the design's pools, `outq` its messages that wait for them; `order` and `flipped` the lane order and the
lanes of inverted polarity that the receiver corrects (R277); `owed` the units per pool that the next flits return (R294). -/
structure APort where
  n : Nat
  up : Bool
  phase : Nat
  fails : Nat
  idle : Bool
  txSeq : Nat
  rxExpect : Nat
  nakSent : Bool
  unacked : List (Nat × Flit × Nat)
  used : List Nat
  granted : List Nat
  send : List Nat
  outq : List CapOut
  heldAt : Nat
  lastQual : Nat
  dayTest : Option Nat
  order : List Nat
  flipped : Nat
  owed : List Nat
  deriving DecidableEq, Repr

/-- A CXL port (R54 to R56, R287 to R289). `views` maps lines of HOSTCOH ranges that the host has asked for, FPA[55:6] to
FVA[56:6], so that a snoop can name the host's address (R55); `atsOn`: the host has enabled ATS. -/
structure CPort where
  n : Nat
  up : Bool
  memOn : Bool
  backInval : Bool
  expOff : Bool
  expBytes : Nat
  failedReqs : Nat
  droppedWrites : Nat
  events : Nat
  views : List (Nat × Nat)
  atsOn : Bool
  deriving DecidableEq, Repr

/-- All ports. `qualRun`: a qualification run of R284 is in progress; `oeDead`
lists the optical dies out of service (R381). -/
structure Links where
  fp : List FPort
  ap : List APort
  cp : List CPort
  qualRun : Bool
  oeDead : List Nat
  deriving DecidableEq, Repr

/-! ### Time and sluice -/

/-- Rack time (R206 to R214). `now` is the counter in ticks; `everLocked`: it has been loaded since RESTORE;
`offset` is the correction still to be slewed, in 1/16 tick, and `slew` counts ticks since the last one. `refAAt` and `refBAt`: the last
fault of a reference, or since when it has been usable (R204); `linkDelay` of the last exchange, in 1/16 tick (R208); `lockedPeers`: the
peers that say they are LOCKED through a direct link to the root (R210). -/
structure Time where
  now : Nat
  everLocked : Bool
  goodRun : Nat
  badRun : Nat
  offset : Int
  rtSet : Option Nat
  refAAt : Nat
  refBAt : Nat
  clkAcc : Nat
  epAcc : Nat
  slew : Nat
  linkDelay : Int
  lockedPeers : List Nat
  deriving DecidableEq, Repr

/-- A gate entry (Table TIM-4) with its run-time state: lanes awake, window open until `closeAt`, tiles crossed in
it, a tile has crossed since launch, streams whose END has crossed. -/
structure Gate where
  pid : Nat
  set : Nat
  flow : Nat
  sid : Nat
  port : Nat
  rep : Nat
  phase : Nat
  opn : Nat
  lenm1 : Nat
  tiles : Nat
  strict : Bool
  awake : Bool
  isOpen : Bool
  crossed : Nat
  begun : Bool
  finished : List Nat
  closeAt : Nat
  deriving DecidableEq, Repr

/-- One item of a PID's pending list (R219). -/
inductive PendOp where
  | load (set : Nat) (gates : List Gate)
  | remove (set : Nat)
  deriving DecidableEq, Repr

/-- The sluice table: active bank, pending lists, commits, loads in progress. -/
structure Sluice where
  act : List Gate
  pend : List (Nat × PendOp)
  commits : List (Nat × Nat)
  loads : List ImageLoad
  deriving DecidableEq, Repr

/-! ### Security, management, counters, shadow -/

/-- A teardown in progress and what its report will say (R338, R340). -/
structure Teardown where
  pid : Nat
  closeAt : Nat
  queuesAt : Nat
  drainAt : Nat
  retireAt : Nat
  eraseAt : Nat
  refused : Nat
  descs : Nat
  drained : Nat
  aborted : Nat
  atomics : Nat
  late : Nat
  erased : Nat
  zeroed : Nat
  dirs : Nat
  filling : Nat
  deriving DecidableEq, Repr

/-- What the last KEY_AGREE of a PID answered (R332). -/
structure KeyReply where
  pid : Nat
  keyId : Nat
  pub : List Byte
  nonce : List Byte
  deriving DecidableEq, Repr

/-- An entry of a measurement log (R335). -/
structure MeasEntry where
  kind : Nat
  ident : Nat
  fva : Nat
  len : Nat
  digest : List Byte
  time : Nat
  deriving DecidableEq, Repr

/-- A partition's measurement log: chain digest, entry count, last 64 entries, newest first. -/
structure MeasLog where
  pid : Nat
  digest : List Byte
  count : Nat
  entries : List MeasEntry
  deriving DecidableEq, Repr

/-- A REGION_REGISTER in progress (R336). -/
structure RegionRun where
  origin : Origin
  pid : Nat
  fva : Nat
  len : Nat
  tx : Nat
  deriving DecidableEq, Repr

/-- Partitions and security. `nonces`: partition reported, whether the sender was PID 0, the nonce. -/
structure Sec where
  downs : List Teardown
  keyNext : Nat
  keyReplies : List KeyReply
  nonces : List (Nat × Bool × List Byte)
  logs : List MeasLog
  region : Option RegionRun
  deriving DecidableEq, Repr

/-- A recorded MDP response (R356): status, CLAMPED, value, `none` while the command runs; when the request arrived, the
port of its latest copy, and whether an interim response has been sent. -/
structure DupRec where
  seq : Nat
  answer : Option (Nat × Bool × List Byte)
  at_ : Nat
  portB : Bool
  interim : Bool
  deriving DecidableEq, Repr

/-- An MDP session (R354, R355). -/
structure Session where
  id : Nat
  limited : Bool
  high : Nat
  win : List DupRec
  nonce : Nat
  events : Nat
  lastUse : Nat
  deriving DecidableEq, Repr

/-- A clamp record (Table ODP-5). -/
structure ClampRec where
  time : Nat
  key : Nat
  source : Nat
  reason : Nat
  pid : Nat
  given : Nat
  applied : Nat
  deriving DecidableEq, Repr

/-- A fault log entry (Table FLT-2). -/
structure FaultLog where
  time : Nat
  kind : Nat
  unit : Nat
  subunit : Nat
  action : Nat
  status : Nat
  pid : Nat
  count : Nat
  detail : Nat
  last : Nat
  deriving DecidableEq, Repr

/-- A flow completion record as the dictionary keeps it (Tables STN-10, STN-14). -/
structure FlowRec where
  pid : Nat
  flow : Nat
  status : Nat
  origin : Nat
  station : Nat
  tiles : Nat
  time : Nat
  deriving DecidableEq, Repr

/-- Management: sessions, logs, counters beyond the dictionary. `reload` and `ovfPend` are keyed by
8 × bank + counter; `ovfAt` holds the time of a bank's last overflow report. -/
structure Mgt where
  sessions : List Session
  clampLog : List ClampRec
  faultLog : List FaultLog
  flowRecs : List FlowRec
  reload : NMap
  ovfPend : List Nat
  ovfAt : NMap
  lastSample : NMap
  snapTs : Option Nat
  samplePhase : Bool
  deriving DecidableEq, Repr

/-- The shadow comparison (R388 to R392). The shadow that this module feeds is in the dictionary (SHADOW_FEED). `startAt` is set when the comparison starts; `own` holds this shadow's digests that await
the partner's; `outs` the stations that a dropped feed copy took out of the comparison. -/
structure Shadow where
  startAt : Option Nat
  running : Bool
  compared : Nat
  skipped : Nat
  stnSkipped : Nat
  mismatches : Nat
  first : Option TileKey
  own : List (TileKey × Nat)
  theirs : List (TileKey × Nat)
  outs : List InstRef
  deriving DecidableEq, Repr

/-! ### What the module sends -/

/-- Everything the module puts on a lane, a port or a pin, oldest first in `State.out`. -/
inductive Out where
  /-- a CAP message M→A -/
  | cap (m : CapOut)
  /-- a frame starts at an egress; `bad`: its tail will carry a bad mark -/
  | frame (egress : Nat) (f : Frame) (bad : Bool)
  /-- a CXL.mem response to a host -/
  | host (cp hpa status : Nat) (data : List Byte)
  /-- a back-invalidate snoop to a host: the line as FPA[55:6], and the host physical address by R55, none when the line lies in
  no window view of the port -/
  | snoop (cp line : Nat) (hpa : Option Nat) (invalidate : Bool)
  /-- the HDM capacity that a host-mode port advertises (R54) -/
  | hdm (cp bytes : Nat)
  /-- a posted write into host memory -/
  | dma (cp addr : Nat) (data : List Byte)
  /-- a dictionary or mailbox response: origin, the port MB of an MDP response, STATUS, CLAMPED, MORE, value -/
  | reply (o : Origin) (portB : Bool) (status : Nat) (clamped more : Bool) (val : List Byte)
  /-- an MDP EVENT: session, key of the entry, rack time -/
  | event (session key time : Nat)
  /-- SESSION_ACCEPT, on port MB or MA -/
  | accept (session : Nat) (portB : Bool) (body : List Byte)
  /-- a mirror copy on the analysis port (R217 code): its bytes (R247) -/
  | mirror (port session : Nat) (data : List Byte)
  /-- a link control symbol: port, kind (0 keep-alive, 1 idle, 2 burst, 3 remap, 4 remap answer) -/
  | symbol (p : PortRef) (kind arg : Nat)
  /-- the identity record that a fabric port repeats in phase 3 of its training (Table LNK-5): port, W0, W1 -/
  | identity (port w0 w1 : Nat)
  /-- the CAP link parameters that a bond repeats in phase 3 of its training (Table EPT-2): lowest port, W0, W1 -/
  | capParams (port w0 w1 : Nat)
  /-- key agreement message on a fabric port: outbound PEPOCH, next SEQ, GEN -/
  | keyMsg (port pepoch nextSeq gen : Nat)
  /-- a CAP flit or a NAK: port, FSEQ, ACKSEQ, NAK -/
  | flit (port fseq ackseq : Nat) (nak : Bool)
  /-- the ATS invalidation completion -/
  | atsDone (cp base : Nat)
  /-- an arrival-counter advance in TC0 towards another module (R313): MID, EP, counter, PID -/
  | advance (mid ep ctr pid : Nat)
  /-- MSI-X vector 0 of a host mailbox -/
  | msix (cp : Nat)
  /-- credits returned to an ingress of the switch core: ingress, class, cells -/
  | credit (ingress tc cells : Nat)
  /-- a General Media Event record raised to the host -/
  | hostEvent (cp hpa status : Nat)
  /-- a copy of an input tile to the shadow that this module feeds (R390): its MID, partition, flow, station, input -/
  | feed (mid pid flow index input : Nat) (t : Tile)
  /-- the digest of an output tile to that shadow -/
  | feedDigest (mid : Nat) (k : TileKey) (digest : Nat)
  deriving DecidableEq, Repr

/-- The module's state. -/
structure State where
  /-- the commands waiting, first in, first out -/
  pending : List Instr
  out : List Out
  life : Life
  power : Power
  /-- the object dictionary: key 256 × index + sub-index; an unlisted key reads its default -/
  od : NMap
  nv : Nv
  /-- plaintext bytes by local address; an unlisted address reads zero -/
  mem : Bytes
  /-- poisoned lines, by LOCAL[50:6] -/
  poison : List Nat
  /-- lines written since the last zero-fill of their granule (their ZERO bit is clear) -/
  written : List Nat
  /-- ownership map entries by granule; an unlisted granule reads 0x80, SCRUB -/
  own : NMap
  fills : List FillSpan
  xl : Xlate
  req : Reqs
  home : Home
  ep : EpSt
  stn : Stn
  sw : Switch
  dlv : Delivery
  lnk : Links
  tim : Time
  slu : Sluice
  sec : Sec
  mgt : Mgt
  shd : Shadow
  /-- the model's own counter of identifiers -/
  nextId : Nat
  /-- the model's own counter that free values are drawn with -/
  free : Nat
  deriving DecidableEq, Repr

/-- The stops. The specification gives the part no stop of its own: every bad request completes with
a status of Table SCO-5, and every fault is a state of the part. -/
inductive Fault where
  /-- No meaning raises it: it stands here because the interface asks for a fault type. Safe. -/
  | unraised
  deriving DecidableEq, Repr

/-- The refusals. -/
inductive Refusal where
  /-- Raised by the dispatch arm of a command that has no meaning yet, and by nothing else. Safe. -/
  | notModelled (mnemonic : String)
  deriving DecidableEq, Repr

/-- The result type of every meaning. -/
abbrev Res := Host.Outcome State Fault Refusal

/-! ### Reset -/

/-- A bank that was never written. Log entry 4 (DESIGN CHOICE). -/
def Bank.blank : Bank :=
  ⟨0, false, false, [], [], [], [], []⟩

/-- A fabric port at power-on: dark, logical lane i on physical lane i. Log entry 4 (DESIGN CHOICE). -/
def FPort.init (n : Nat) : FPort :=
  ⟨n, false, false, 0, 0, false, 0, 0, 0, false, 0, [], false,
   [0, 1, 2, 3, 4, 5, 6, 7, 8, 9, 10, 11, 12, 13, 14, 15], 0, 0, none, 0, false⟩

/-- An attach port at power-on, with the credits the module grants (R294). Log entry 4 (DESIGN CHOICE). -/
def APort.init (n : Nat) : APort :=
  ⟨n, false, 0, 0, false, 0, 0, false, [], [0, 0, 0], [4096, 8192, 256], [0, 0, 0], [], 0, 0, none, [0, 1, 2, 3, 4, 5, 6, 7], 0, [0, 0, 0]⟩

/-- A CXL port at power-on. Log entry 4 (DESIGN CHOICE). -/
def CPort.init (n : Nat) : CPort := ⟨n, false, false, false, false, 0, 0, 0, 0, [], false⟩

/-- A pair at RESTORE (R263 step 1): both epochs start, no inbound epoch is held. Log entry 4 (DESIGN CHOICE). -/
def Peer.init (mid : Nat) : Peer :=
  ⟨mid, 0, 0, none, 0, [], [], [], 0, 0, 0, 0, false, 0⟩

/-- The module without power, before its first power-good: every dictionary entry at its default,
every granule in SCRUB, nothing bound, nothing queued. Log entries 3 (DESIGN CHOICE), 4 (DESIGN CHOICE). -/
def State.reset : State where
  pending := []
  out := []
  life := ⟨.off, false, false, none, 0⟩
  power := ⟨true, false, 0, false, false, 0, false, 0⟩
  od := []
  nv := ⟨Bank.blank, Bank.blank, false, [], 0⟩
  mem := []
  poison := []
  written := []
  own := []
  fills := []
  xl := ⟨[], [], [], [], [], [], [], []⟩
  req := ⟨[], [], [], [], []⟩
  home := ⟨[], [], [], [], [], [], [], [], [], [], [], [], [], 0, [], []⟩
  ep := ⟨[], [], [], [], [], [], [], [], [], []⟩
  stn := ⟨[], [], [], [], [], [], [], [], []⟩
  sw := ⟨[], Switch.allFree, [], [], [], [], [], [], [], [], [], [], [], [], []⟩
  dlv := ⟨(List.range 17).map Peer.init, 0, 0, none, none⟩
  lnk := ⟨(List.range 16).map FPort.init, (List.range 16).map APort.init,
          (List.range 4).map CPort.init, false, []⟩
  tim := ⟨0, false, 0, 0, 0, none, 0, 0, 0, 0, 0, 0, []⟩
  slu := ⟨[], [], [], []⟩
  sec := ⟨[], 0, [], [], [], none⟩
  mgt := ⟨[], [], [], [], [], [], [], [], none, true⟩
  shd := ⟨none, false, 0, 0, 0, 0, none, [], [], []⟩
  nextId := 0
  free := 0

end Sys2Proof.Machine
end

