-- ==== Sys2Proof/Machine/Dict.lean ====
section
/-! DEFINITION. The object dictionary (R344 to R351, R362, R363 and the entry tables of every
chapter): keys, entries, access kinds, ranges, and the reading and writing of one numeric entry. -/

namespace Sys2Proof.Machine

open Sys2Proof

/-- Access kinds (Table ODP-2). -/
inductive Acs where
  | ro | rw | rwr | wo | rwm
  deriving DecidableEq, Repr

/-- The shape of a Range column (R351). `zstep`, `zle` and `pow2` allow 0 besides their interval. -/
inductive Rng where
  | any
  | le (lo hi : Nat)
  | step (lo hi st : Nat)
  | zstep (lo hi st : Nat)
  | zle (lo hi : Nat)
  | pow2 (lo hi : Nat)
  | enum (n : Nat)
  | list (vs : List Nat)
  | tbuf
  | hbm4k
  | midNone
  | tail
  | mbxPid
  deriving DecidableEq, Repr

/-- One entry: type code and bytes (Table ODP-1), access, default, range, retained, and the reserved
bits that a write clears (R9). -/
structure Entry where
  ty : Nat
  size : Nat
  acs : Acs
  dflt : Nat
  rng : Rng
  ret : Bool
  rsv : Nat
  deriving DecidableEq, Repr

/-! ### Keys of the fixed entries (256 × index + sub-index) -/

namespace K

def orderCode : Nat := 256 * 0x1000 + 1
def stepping : Nat := 256 * 0x1000 + 2
def serial : Nat := 256 * 0x1000 + 3
def fwVersion : Nat := 256 * 0x1000 + 4
def moduleState : Nat := 256 * 0x1000 + 5
def maAddr : Nat := 256 * 0x1001 + 1
def maPrefix : Nat := 256 * 0x1001 + 2
def mbAddr : Nat := 256 * 0x1001 + 3
def mbPrefix : Nat := 256 * 0x1001 + 4
def maLink : Nat := 256 * 0x1001 + 5
def mbLink : Nat := 256 * 0x1001 + 6
def mgrKeyHash : Nat := 256 * 0x1002 + 1
def sessionsOpen : Nat := 256 * 0x1003 + 1
def mdpDrops : Nat := 256 * 0x1003 + 2
def mdpAuthFails : Nat := 256 * 0x1003 + 3
def mdpDuplicates : Nat := 256 * 0x1003 + 4
def mid : Nat := 256 * 0x2000 + 1
def meshN : Nat := 256 * 0x2000 + 2
def joinMode : Nat := 256 * 0x2000 + 3
def stateRequest : Nat := 256 * 0x2001 + 1
def homesMoved : Nat := 256 * 0x2001 + 2
def tierCacheSize : Nat := 256 * 0x2010 + 1
def tierPinned : Nat := 256 * 0x2010 + 2
def wm1 : Nat := 256 * 0x2020 + 1
def wm2 : Nat := 256 * 0x2020 + 2
def wm3 : Nat := 256 * 0x2020 + 3
def wmHyst : Nat := 256 * 0x2020 + 4
def freeCells0 : Nat := 256 * 0x2020 + 5
def freeCells1 : Nat := 256 * 0x2020 + 6
def freeCells2 : Nat := 256 * 0x2020 + 7
def freeCells3 : Nat := 256 * 0x2020 + 8
def tbufBase : Nat := 256 * 0x2021 + 1
def tbufCount : Nat := 256 * 0x2021 + 2
def tbufFree : Nat := 256 * 0x2021 + 3
def arbQuantum2 : Nat := 256 * 0x2022 + 1
def arbQuantum5 : Nat := 256 * 0x2022 + 2
def arbQuantum6 : Nat := 256 * 0x2022 + 3
def arbQuantum7 : Nat := 256 * 0x2022 + 4
def analysisPort : Nat := 256 * 0x2023 + 1
def shadowPartner : Nat := 256 * 0x2040 + 1
def shadowPeriod : Nat := 256 * 0x2040 + 2
def shadowMinTiles : Nat := 256 * 0x2040 + 3
def shadowFeed : Nat := 256 * 0x2040 + 4
def faultDeclare : Nat := 256 * 0x2040 + 5
def idleAfter : Nat := 256 * 0x4030 + 1
def remapBer : Nat := 256 * 0x4030 + 2
def qualPhase : Nat := 256 * 0x4030 + 3
def qualNow : Nat := 256 * 0x4030 + 4
def qualStatus : Nat := 256 * 0x4030 + 5
def qualLast : Nat := 256 * 0x4030 + 6
def routeGen : Nat := 256 * 0x4120 + 1
def routeState : Nat := 256 * 0x4120 + 2
def routeDrain : Nat := 256 * 0x4120 + 3
def routeSwap : Nat := 256 * 0x4120 + 4
def routeDefault : Nat := 256 * 0x4120 + 5
def peerMask : Nat := 256 * 0x4121 + 1
def peerLost : Nat := 256 * 0x4121 + 2
def sdActive0 : Nat := 256 * 0x5001 + 1
def sdActive1 : Nat := 256 * 0x5001 + 2
def sdActive2 : Nat := 256 * 0x5001 + 3
def sdActive3 : Nat := 256 * 0x5001 + 4
def sparesUsed : Nat := 256 * 0x5002 + 1
def residueRetries : Nat := 256 * 0x5003 + 1
def retirements : Nat := 256 * 0x5003 + 2
def flowLoad : Nat := 256 * 0x5010 + 1
def flowLaunch : Nat := 256 * 0x5010 + 2
def flowAbort : Nat := 256 * 0x5010 + 3
def flowUnload : Nat := 256 * 0x5010 + 4
def flowsLoaded : Nat := 256 * 0x5011 + 1
def flowLoadsRefused : Nat := 256 * 0x5011 + 2
def snapAt : Nat := 256 * 0x6200 + 1
def snapTime : Nat := 256 * 0x6200 + 2
def snapState : Nat := 256 * 0x6200 + 3
def sampleRingBase : Nat := 256 * 0x6201 + 1
def sampleRingEntries : Nat := 256 * 0x6201 + 2
def sampleRingHead : Nat := 256 * 0x6201 + 3
def sampleRingTail : Nat := 256 * 0x6201 + 4
def samplesLost : Nat := 256 * 0x6201 + 5
def rtNow : Nat := 256 * 0x7000 + 1
def lockState : Nat := 256 * 0x7001 + 1
def rootMid : Nat := 256 * 0x7001 + 2
def rootOffset : Nat := 256 * 0x7001 + 3
def lockLosses : Nat := 256 * 0x7001 + 4
def refSelect : Nat := 256 * 0x7002 + 1
def refMode : Nat := 256 * 0x7002 + 2
def refaStatus : Nat := 256 * 0x7002 + 3
def refbStatus : Nat := 256 * 0x7002 + 4
def refSwitches : Nat := 256 * 0x7002 + 5
def epochTai : Nat := 256 * 0x7003 + 1
def rtSet : Nat := 256 * 0x7003 + 2
def frameLog2 : Nat := 256 * 0x7004 + 1
def sluiceLoad : Nat := 256 * 0x7005 + 1
def sluiceRemove : Nat := 256 * 0x7005 + 2
def sluiceCommit : Nat := 256 * 0x7005 + 3
def sluiceSwitched : Nat := 256 * 0x7005 + 4
def setsActive : Nat := 256 * 0x7006 + 1
def entriesActive : Nat := 256 * 0x7006 + 2
def overruns : Nat := 256 * 0x7007 + 1
def lastOverrun : Nat := 256 * 0x7007 + 2
def powerCap : Nat := 256 * 0x8000 + 1
def capAtRestore : Nat := 256 * 0x8000 + 2
def inputPower : Nat := 256 * 0x8000 + 3
def inputVoltage : Nat := 256 * 0x8000 + 4
def powerStage : Nat := 256 * 0x8000 + 5
def capsBelowFloor : Nat := 256 * 0x8000 + 6
def emergency : Nat := 256 * 0x8001 + 1
def emergencyEvents : Nat := 256 * 0x8001 + 2
def operatingPoint : Nat := 256 * 0x8002 + 1
def tJunctionMax : Nat := 256 * 0x8003 + 1
def coolantIn : Nat := 256 * 0x8003 + 2
def coolantOut : Nat := 256 * 0x8003 + 3
def inputLosses : Nat := 256 * 0x8004 + 1
def fuseTrips : Nat := 256 * 0x8004 + 2
def deviceCert : Nat := 256 * 0x9000 + 1
def deviceKey : Nat := 256 * 0x9000 + 2
def partCreate : Nat := 256 * 0x9002 + 1
def partClose : Nat := 256 * 0x9002 + 2
def ownGrant : Nat := 256 * 0x9002 + 3
def ownRelease : Nat := 256 * 0x9002 + 4
def zeroRate : Nat := 256 * 0x9003 + 1
def clampCount : Nat := 256 * 0xA000 + 1
def restoreResult : Nat := 256 * 0xA002 + 1
def restoreGen : Nat := 256 * 0xA002 + 2
def commits : Nat := 256 * 0xA002 + 3
def hostLost : Nat := 256 * 0xA010 + 1
def hlReports : Nat := 256 * 0xA010 + 2
def hlLast : Nat := 256 * 0xA010 + 3
def recallTimeouts : Nat := 256 * 0xA010 + 4
def mirrorDegraded : Nat := 256 * 0xA011 + 1
def tierMoveErrors : Nat := 256 * 0xA011 + 2
def cellPtrErrors : Nat := 256 * 0xA020 + 1
def tbufPtrErrors : Nat := 256 * 0xA020 + 2
def tbufRefRefused : Nat := 256 * 0xA020 + 3
def badTailDiscards : Nat := 256 * 0xA020 + 4
def badTailMarked : Nat := 256 * 0xA020 + 5
def framesParked : Nat := 256 * 0xA020 + 6
def resends : Nat := 256 * 0xA030 + 1
def dupDrops : Nat := 256 * 0xA030 + 2
def e2eCrcFails : Nat := 256 * 0xA030 + 3
def staleDrops : Nat := 256 * 0xA030 + 4
def budgetExhausted : Nat := 256 * 0xA030 + 5
def peersLost : Nat := 256 * 0xA030 + 6
def lastPeerLost : Nat := 256 * 0xA030 + 7
def teardownReports : Nat := 256 * 0xA040 + 1
def tdLast : Nat := 256 * 0xA040 + 2
def lateFrames : Nat := 256 * 0xA040 + 3
def ovfReports : Nat := 256 * 0xA050 + 1
def ovfLast : Nat := 256 * 0xA050 + 2
def faultCount : Nat := 256 * 0xA060 + 1
def shadowResult : Nat := 256 * 0xA070 + 1
def shadowStats : Nat := 256 * 0xA070 + 2

/-- Entry `off:sub` of the PB of a partition: 0x3000 + 0x40 × PID. -/
def pb (pid off sub : Nat) : Nat := 256 * (0x3000 + 0x40 * pid + off) + sub

def partState (pid : Nat) : Nat := pb pid 0x00 1
def pgen (pid : Nat) : Nat := pb pid 0x00 2
def rangeRoot (pid : Nat) : Nat := pb pid 0x08 1
def faultRingBase (pid : Nat) : Nat := pb pid 0x09 1
def faultRingEntries (pid : Nat) : Nat := pb pid 0x09 2
def faultRingHead (pid : Nat) : Nat := pb pid 0x09 3
def faultRingTail (pid : Nat) : Nat := pb pid 0x09 4
def faultsLost (pid : Nat) : Nat := pb pid 0x09 5
def rtcInval (pid : Nat) : Nat := pb pid 0x0C 1
def faultResolve (pid : Nat) : Nat := pb pid 0x0D 1
def weirRate (pid : Nat) : Nat := pb pid 0x10 1
def weirDepth (pid : Nat) : Nat := pb pid 0x10 2
def hintsNoeffect (pid : Nat) : Nat := pb pid 0x11 1
def ownerConflicts (pid : Nat) : Nat := pb pid 0x12 1
def ownRefusals (pid : Nat) : Nat := pb pid 0x12 2
def stationCores (pid : Nat) : Nat := pb pid 0x18 1
def spillQuota (pid : Nat) : Nat := pb pid 0x18 2
def spillInuse (pid : Nat) : Nat := pb pid 0x18 3
def strayTiles (pid : Nat) : Nat := pb pid 0x18 4
def poisonTiles (pid : Nat) : Nat := pb pid 0x18 5
def lateSpans (pid : Nat) : Nat := pb pid 0x18 6
def keySlot (pid i : Nat) : Nat := pb pid 0x20 (i + 1)
def keyAgree (pid : Nat) : Nat := pb pid 0x21 1
def attest (pid : Nat) : Nat := pb pid 0x22 1
def regionRegister (pid : Nat) : Nat := pb pid 0x23 1
def measLog (pid i : Nat) : Nat := pb pid 0x24 (i + 1)
def partSlots (pid i : Nat) : Nat := pb pid 0x28 (i + 1)

def mirMode (n : Nat) : Nat := 256 * (0x2030 + n) + 1
def mirPort (n : Nat) : Nat := 256 * (0x2030 + n) + 2
def mirPid (n : Nat) : Nat := 256 * (0x2030 + n) + 3
def mirFlow (n : Nat) : Nat := 256 * (0x2030 + n) + 4
def mirSampleN (n : Nat) : Nat := 256 * (0x2030 + n) + 5
def mirSnap (n : Nat) : Nat := 256 * (0x2030 + n) + 6
def mirCopies (n : Nat) : Nat := 256 * (0x2030 + n) + 7
def mirDrops (n : Nat) : Nat := 256 * (0x2030 + n) + 8
def winPid (n : Nat) : Nat := 256 * (0x2100 + n) + 1
def winFva (n : Nat) : Nat := 256 * (0x2100 + n) + 2
def winSize (n : Nat) : Nat := 256 * (0x2100 + n) + 3
def hdmBase (n : Nat) : Nat := 256 * (0x2100 + n) + 4
def winOwner (n : Nat) : Nat := 256 * (0x2100 + n) + 5
def conf (n : Nat) : Nat := 256 * (0x2100 + n) + 6
def mbxPid (n : Nat) : Nat := 256 * (0x2100 + n) + 7
def ctxBound (n : Nat) : Nat := 256 * (0x2200 + n) + 1
def tagErrors (n : Nat) : Nat := 256 * (0x2200 + n) + 2
def protocolErrors (n : Nat) : Nat := 256 * (0x2200 + n) + 3
def flitReplays (n : Nat) : Nat := 256 * (0x2200 + n) + 4
def linkRetrains (n : Nat) : Nat := 256 * (0x2200 + n) + 5
def exportTimeouts (n : Nat) : Nat := 256 * (0x2200 + n) + 6
def mbxBusyDrops (n : Nat) : Nat := 256 * (0x2200 + n) + 7
def ctrForeign (n : Nat) : Nat := 256 * (0x2200 + n) + 8
def bounceAuthFails (n : Nat) : Nat := 256 * (0x2200 + n) + 9
def fpState (n : Nat) : Nat := 256 * (0x4000 + n) + 1
def fpHoldReason (n : Nat) : Nat := 256 * (0x4000 + n) + 2
def fpNeighbour (n : Nat) : Nat := 256 * (0x4000 + n) + 3
def fpSpareMap (n : Nat) : Nat := 256 * (0x4000 + n) + 4
def fpGroups (n : Nat) : Nat := 256 * (0x4000 + n) + 5
def fpLaneFailed (n : Nat) : Nat := 256 * (0x4000 + n) + 6
def fpFecCorrected (n : Nat) : Nat := 256 * (0x4000 + n) + 7
def fpFecUncorrectable (n : Nat) : Nat := 256 * (0x4000 + n) + 8
def fpRemaps (n : Nat) : Nat := 256 * (0x4000 + n) + 9
def fpPrbsCtrl (n : Nat) : Nat := 256 * (0x4000 + n) + 10
def fpPrbsErrors (n : Nat) : Nat := 256 * (0x4000 + n) + 11
def fpInject (n : Nat) : Nat := 256 * (0x4000 + n) + 12
def fpAdmin (n : Nat) : Nat := 256 * (0x4000 + n) + 13
def fpTxTaps (n i : Nat) : Nat := 256 * (0x4000 + n) + (16 + i)
def apState (n : Nat) : Nat := 256 * (0x4010 + n) + 1
def apHoldReason (n : Nat) : Nat := 256 * (0x4010 + n) + 2
def apDcFault (n : Nat) : Nat := 256 * (0x4010 + n) + 3
def apSpareMap (n : Nat) : Nat := 256 * (0x4010 + n) + 4
def apGroups (n : Nat) : Nat := 256 * (0x4010 + n) + 5
def apLaneFailed (n : Nat) : Nat := 256 * (0x4010 + n) + 6
def apFecCorrected (n : Nat) : Nat := 256 * (0x4010 + n) + 7
def apFecUncorrectable (n : Nat) : Nat := 256 * (0x4010 + n) + 8
def apRemaps (n : Nat) : Nat := 256 * (0x4010 + n) + 9
def apPrbsCtrl (n : Nat) : Nat := 256 * (0x4010 + n) + 10
def apPrbsErrors (n : Nat) : Nat := 256 * (0x4010 + n) + 11
def apInject (n : Nat) : Nat := 256 * (0x4010 + n) + 12
def apBond (n : Nat) : Nat := 256 * (0x4010 + n) + 13
def apWidth (n : Nat) : Nat := 256 * (0x4010 + n) + 14
def apTxTaps (n i : Nat) : Nat := 256 * (0x4010 + n) + (16 + i)
def cpMode (n : Nat) : Nat := 256 * (0x4020 + n) + 1
def cpLink (n : Nat) : Nat := 256 * (0x4020 + n) + 2
def expSerial (n : Nat) : Nat := 256 * (0x4020 + n) + 3
def expEnable (n : Nat) : Nat := 256 * (0x4020 + n) + 4
def via1Pending (n : Nat) : Nat := 256 * (0x4100 + n) + 1
def via2Pending (n : Nat) : Nat := 256 * (0x4100 + n) + 2
def via1Active (n : Nat) : Nat := 256 * (0x4100 + n) + 3
def via2Active (n : Nat) : Nat := 256 * (0x4100 + n) + 4
def flowRecords (i : Nat) : Nat := 256 * 0x5012 + (1 + i)
def cycles (n : Nat) : Nat := 256 * (0x6000 + 16 * n) + 1
def ctr (n i : Nat) : Nat := 256 * (0x6000 + 16 * n) + (2 + i)
def ctl (n i : Nat) : Nat := 256 * (0x6000 + 16 * n) + (10 + i)
def ovf (n : Nat) : Nat := 256 * (0x6000 + 16 * n) + 18
def snapCycles (n : Nat) : Nat := 256 * (0x6000 + 16 * n) + 19
def snapCtr (n i : Nat) : Nat := 256 * (0x6000 + 16 * n) + (20 + i)
def peerKeys (i : Nat) : Nat := 256 * 0x9001 + (1 + i)
def clampLog (i : Nat) : Nat := 256 * 0xA001 + (1 + i)
def faultLog (i : Nat) : Nat := 256 * 0xA061 + (1 + i)

end K

/-! ### The tables -/

/-- Fixed entries of area 0x1000: index, sub-index, entry. Log entry 3 (DESIGN CHOICE). -/
def fixed1 : List (Nat × Nat × Entry) := [
  (0x1000, 1, ⟨10, 1, .ro, 0, .any, false, 0⟩),
  (0x1000, 2, ⟨2, 1, .ro, 0xB0, .any, false, 0⟩),
  (0x1000, 3, ⟨13, 32, .ro, 0, .any, false, 0⟩),
  (0x1000, 4, ⟨13, 32, .ro, 0, .any, false, 0⟩),
  (0x1000, 5, ⟨10, 1, .ro, 6, .any, false, 0⟩),
  (0x1001, 1, ⟨12, 16, .rwr, 0, .any, true, 0⟩),
  (0x1001, 2, ⟨2, 1, .rwr, 64, .le 8 128, true, 0⟩),
  (0x1001, 3, ⟨12, 16, .rwr, 0, .any, true, 0⟩),
  (0x1001, 4, ⟨2, 1, .rwr, 64, .le 8 128, true, 0⟩),
  (0x1001, 5, ⟨10, 1, .ro, 0, .any, false, 0⟩),
  (0x1001, 6, ⟨10, 1, .ro, 0, .any, false, 0⟩),
  (0x1002, 1, ⟨12, 48, .rwr, 0, .any, true, 0⟩),
  (0x1003, 1, ⟨2, 1, .ro, 0, .any, false, 0⟩),
  (0x1003, 2, ⟨4, 4, .ro, 0, .any, false, 0⟩),
  (0x1003, 3, ⟨4, 4, .ro, 0, .any, false, 0⟩),
  (0x1003, 4, ⟨4, 4, .ro, 0, .any, false, 0⟩)]

/-- Fixed entries of area 0x2000: index, sub-index, entry. -/
def fixed2 : List (Nat × Nat × Entry) := [
  (0x2000, 1, ⟨2, 1, .rwm, 0, .le 0 16, true, 0⟩),
  (0x2000, 2, ⟨2, 1, .rwm, 17, .le 2 17, true, 0⟩),
  (0x2000, 3, ⟨10, 1, .rwr, 0, .enum 2, true, 0⟩),
  (0x2001, 1, ⟨10, 1, .wo, 0, .any, false, 0⟩),
  (0x2001, 2, ⟨1, 1, .wo, 0, .enum 2, false, 0⟩),
  (0x2010, 1, ⟨3, 2, .rwm, 0, .le 0 256, true, 0⟩),
  (0x2010, 2, ⟨4, 4, .ro, 0, .any, false, 0⟩),
  (0x2020, 1, ⟨4, 4, .rwr, 40960, .le 19456 98304, true, 0⟩),
  (0x2020, 2, ⟨4, 4, .rwr, 24576, .le 15360 94208, true, 0⟩),
  (0x2020, 3, ⟨4, 4, .rwr, 12288, .le 11264 90112, true, 0⟩),
  (0x2020, 4, ⟨4, 4, .rwr, 2048, .le 256 8192, true, 0⟩),
  (0x2020, 5, ⟨4, 4, .ro, 98304, .any, false, 0⟩),
  (0x2020, 6, ⟨4, 4, .ro, 98304, .any, false, 0⟩),
  (0x2020, 7, ⟨4, 4, .ro, 98304, .any, false, 0⟩),
  (0x2020, 8, ⟨4, 4, .ro, 98304, .any, false, 0⟩),
  (0x2021, 1, ⟨5, 8, .rwm, 0, .tbuf, true, 0⟩),
  (0x2021, 2, ⟨4, 4, .rwm, 4194304, .step 0 4194304 1024, true, 0⟩),
  (0x2021, 3, ⟨4, 4, .ro, 0, .any, false, 0⟩),
  (0x2022, 1, ⟨2, 1, .rwr, 16, .le 1 64, true, 0⟩),
  (0x2022, 2, ⟨2, 1, .rwr, 16, .le 1 64, true, 0⟩),
  (0x2022, 3, ⟨2, 1, .rwr, 2, .le 1 64, true, 0⟩),
  (0x2022, 4, ⟨2, 1, .rwr, 2, .le 1 64, true, 0⟩),
  (0x2023, 1, ⟨2, 1, .rwr, 0xFF, .list [15, 16, 17, 18, 19, 20, 21, 22, 23, 24, 25, 26, 27, 28, 29, 30, 31, 255], true, 0⟩),
  (0x2040, 1, ⟨2, 1, .rw, 31, .midNone, false, 0⟩),
  (0x2040, 2, ⟨4, 4, .rwr, 600, .le 60 86400, true, 0⟩),
  (0x2040, 3, ⟨4, 4, .rwr, 1000000, .le 1000 1000000000, true, 0⟩),
  (0x2040, 4, ⟨2, 1, .ro, 31, .any, false, 0⟩),
  (0x2040, 5, ⟨1, 1, .wo, 0, .enum 2, false, 0⟩)]

/-- Fixed entries of area 0x4000: index, sub-index, entry. -/
def fixed4 : List (Nat × Nat × Entry) := [
  (0x4030, 1, ⟨3, 2, .rwr, 2500, .le 250 62500, true, 0⟩),
  (0x4030, 2, ⟨2, 1, .rwr, 6, .le 4 10, true, 0⟩),
  (0x4030, 3, ⟨4, 4, .rwr, 10800, .le 0 86399, true, 0⟩),
  (0x4030, 4, ⟨1, 1, .wo, 0, .enum 2, false, 0⟩),
  (0x4030, 5, ⟨12, 32, .ro, 0, .any, false, 0⟩),
  (0x4030, 6, ⟨12, 64, .ro, 0, .any, false, 0⟩),
  (0x4120, 1, ⟨2, 1, .ro, 0, .any, false, 0⟩),
  (0x4120, 2, ⟨10, 1, .ro, 0, .any, false, 0⟩),
  (0x4120, 3, ⟨1, 1, .wo, 0, .enum 2, false, 0⟩),
  (0x4120, 4, ⟨11, 8, .wo, 0, .any, false, 0⟩),
  (0x4120, 5, ⟨1, 1, .wo, 0, .enum 2, false, 0⟩),
  (0x4121, 1, ⟨4, 4, .ro, 0, .any, false, 0⟩),
  (0x4121, 2, ⟨4, 4, .ro, 0, .any, false, 0⟩)]

/-- Fixed entries of area 0x5000: index, sub-index, entry. -/
def fixed5 : List (Nat × Nat × Entry) := [
  (0x5001, 1, ⟨2, 1, .ro, 4, .any, false, 0⟩),
  (0x5001, 2, ⟨2, 1, .ro, 4, .any, false, 0⟩),
  (0x5001, 3, ⟨2, 1, .ro, 4, .any, false, 0⟩),
  (0x5001, 4, ⟨2, 1, .ro, 4, .any, false, 0⟩),
  (0x5002, 1, ⟨12, 16, .ro, 0, .any, false, 0⟩),
  (0x5003, 1, ⟨4, 4, .ro, 0, .any, false, 0⟩),
  (0x5003, 2, ⟨4, 4, .ro, 0, .any, false, 0⟩),
  (0x5010, 1, ⟨12, 16, .wo, 0, .any, false, 0⟩),
  (0x5010, 2, ⟨12, 12, .wo, 0, .any, false, 0⟩),
  (0x5010, 3, ⟨12, 4, .wo, 0, .any, false, 0⟩),
  (0x5010, 4, ⟨12, 4, .wo, 0, .any, false, 0⟩),
  (0x5011, 1, ⟨3, 2, .ro, 0, .any, false, 0⟩),
  (0x5011, 2, ⟨4, 4, .ro, 0, .any, false, 0⟩)]

/-- Fixed entries of area 0x6000: index, sub-index, entry. -/
def fixed6 : List (Nat × Nat × Entry) := [
  (0x6200, 1, ⟨11, 8, .wo, 0, .any, false, 0⟩),
  (0x6200, 2, ⟨11, 8, .ro, 0, .any, false, 0⟩),
  (0x6200, 3, ⟨10, 1, .ro, 0, .any, false, 0⟩),
  (0x6201, 1, ⟨5, 8, .rw, 0, .hbm4k, false, 0⟩),
  (0x6201, 2, ⟨4, 4, .rw, 0, .pow2 64 1048576, false, 0⟩),
  (0x6201, 3, ⟨4, 4, .ro, 0, .any, false, 0⟩),
  (0x6201, 4, ⟨4, 4, .rw, 0, .tail, false, 0⟩),
  (0x6201, 5, ⟨4, 4, .ro, 0, .any, false, 0⟩)]

/-- Fixed entries of area 0x7000: index, sub-index, entry. -/
def fixed7 : List (Nat × Nat × Entry) := [
  (0x7000, 1, ⟨11, 8, .ro, 0, .any, false, 0⟩),
  (0x7001, 1, ⟨10, 1, .ro, 0, .any, false, 0⟩),
  (0x7001, 2, ⟨2, 1, .ro, 31, .any, false, 0⟩),
  (0x7001, 3, ⟨8, 4, .ro, 0, .any, false, 0⟩),
  (0x7001, 4, ⟨4, 4, .ro, 0, .any, false, 0⟩),
  (0x7002, 1, ⟨10, 1, .ro, 2, .any, false, 0⟩),
  (0x7002, 2, ⟨10, 1, .rwr, 0, .enum 2, true, 0⟩),
  (0x7002, 3, ⟨10, 1, .ro, 1, .any, false, 0⟩),
  (0x7002, 4, ⟨10, 1, .ro, 1, .any, false, 0⟩),
  (0x7002, 5, ⟨4, 4, .ro, 0, .any, false, 0⟩),
  (0x7003, 1, ⟨5, 8, .rwr, 0, .any, true, 0⟩),
  (0x7003, 2, ⟨11, 8, .wo, 0, .any, false, 0⟩),
  (0x7004, 1, ⟨2, 1, .rwr, 14, .le 12 20, true, 0⟩),
  (0x7005, 1, ⟨12, 16, .wo, 0, .any, false, 0⟩),
  (0x7005, 2, ⟨12, 3, .wo, 0, .any, false, 0⟩),
  (0x7005, 3, ⟨12, 9, .wo, 0, .any, false, 0⟩),
  (0x7005, 4, ⟨11, 8, .ro, 0, .any, false, 0⟩),
  (0x7006, 1, ⟨3, 2, .ro, 0, .any, false, 0⟩),
  (0x7006, 2, ⟨4, 4, .ro, 0, .any, false, 0⟩),
  (0x7007, 1, ⟨4, 4, .ro, 0, .any, false, 0⟩),
  (0x7007, 2, ⟨12, 24, .ro, 0, .any, false, 0⟩)]

/-- Fixed entries of area 0x8000: index, sub-index, entry. -/
def fixed8 : List (Nat × Nat × Entry) := [
  (0x8000, 1, ⟨4, 4, .rw, 4200, .le 950 4200, false, 0⟩),
  (0x8000, 2, ⟨4, 4, .rwr, 4200, .le 950 4200, true, 0⟩),
  (0x8000, 3, ⟨4, 4, .ro, 0, .any, false, 0⟩),
  (0x8000, 4, ⟨3, 2, .ro, 0, .any, false, 0⟩),
  (0x8000, 5, ⟨10, 1, .ro, 0, .any, false, 0⟩),
  (0x8000, 6, ⟨4, 4, .ro, 0, .any, false, 0⟩),
  (0x8001, 1, ⟨1, 1, .ro, 0, .any, false, 0⟩),
  (0x8001, 2, ⟨4, 4, .ro, 0, .any, false, 0⟩),
  (0x8002, 1, ⟨10, 1, .ro, 0, .any, false, 0⟩),
  (0x8003, 1, ⟨7, 2, .ro, 0, .any, false, 0⟩),
  (0x8003, 2, ⟨7, 2, .ro, 0, .any, false, 0⟩),
  (0x8003, 3, ⟨7, 2, .ro, 0, .any, false, 0⟩),
  (0x8004, 1, ⟨4, 4, .ro, 0, .any, false, 0⟩),
  (0x8004, 2, ⟨4, 4, .ro, 0, .any, true, 0⟩)]

/-- Fixed entries of area 0x9000: index, sub-index, entry. -/
def fixed9 : List (Nat × Nat × Entry) := [
  (0x9000, 1, ⟨12, 2048, .ro, 0, .any, false, 0⟩),
  (0x9000, 2, ⟨12, 97, .ro, 0, .any, false, 0⟩),
  (0x9002, 1, ⟨2, 1, .wo, 0, .any, false, 0⟩),
  (0x9002, 2, ⟨2, 1, .wo, 0, .le 1 63, false, 0⟩),
  (0x9002, 3, ⟨12, 13, .wo, 0, .any, false, 0⟩),
  (0x9002, 4, ⟨12, 12, .wo, 0, .any, false, 0⟩),
  (0x9003, 1, ⟨4, 4, .rwr, 1000, .le 100 4000, true, 0⟩)]

/-- Fixed entries of area 0xA000: index, sub-index, entry. Log entry 3 (DESIGN CHOICE). -/
def fixedA : List (Nat × Nat × Entry) := [
  (0xA000, 1, ⟨4, 4, .ro, 0, .any, false, 0⟩),
  (0xA002, 1, ⟨10, 1, .ro, 0, .any, false, 0⟩),
  (0xA002, 2, ⟨4, 4, .ro, 0, .any, false, 0⟩),
  (0xA002, 3, ⟨4, 4, .ro, 0, .any, true, 0⟩),
  (0xA010, 1, ⟨12, 2, .wo, 0, .any, false, 0⟩),
  (0xA010, 2, ⟨4, 4, .ro, 0, .any, false, 0⟩),
  (0xA010, 3, ⟨12, 32, .ro, 0, .any, false, 0⟩),
  (0xA010, 4, ⟨4, 4, .ro, 0, .any, false, 0⟩),
  (0xA011, 1, ⟨4, 4, .ro, 0, .any, false, 0⟩),
  (0xA011, 2, ⟨4, 4, .ro, 0, .any, false, 0⟩),
  (0xA020, 1, ⟨4, 4, .ro, 0, .any, false, 0⟩),
  (0xA020, 2, ⟨4, 4, .ro, 0, .any, false, 0⟩),
  (0xA020, 3, ⟨4, 4, .ro, 0, .any, false, 0⟩),
  (0xA020, 4, ⟨4, 4, .ro, 0, .any, false, 0⟩),
  (0xA020, 5, ⟨4, 4, .ro, 0, .any, false, 0⟩),
  (0xA020, 6, ⟨4, 4, .ro, 0, .any, false, 0⟩),
  (0xA030, 1, ⟨4, 4, .ro, 0, .any, false, 0⟩),
  (0xA030, 2, ⟨4, 4, .ro, 0, .any, false, 0⟩),
  (0xA030, 3, ⟨4, 4, .ro, 0, .any, false, 0⟩),
  (0xA030, 4, ⟨4, 4, .ro, 0, .any, false, 0⟩),
  (0xA030, 5, ⟨4, 4, .ro, 0, .any, false, 0⟩),
  (0xA030, 6, ⟨4, 4, .ro, 0, .any, false, 0⟩),
  (0xA030, 7, ⟨12, 24, .ro, 0, .any, false, 0⟩),
  (0xA040, 1, ⟨4, 4, .ro, 0, .any, false, 0⟩),
  (0xA040, 2, ⟨12, 96, .ro, 0, .any, false, 0⟩),
  (0xA040, 3, ⟨4, 4, .ro, 0, .any, false, 0⟩),
  (0xA050, 1, ⟨4, 4, .ro, 0, .any, false, 0⟩),
  (0xA050, 2, ⟨12, 10, .ro, 0, .any, false, 0⟩),
  (0xA060, 1, ⟨4, 4, .ro, 0, .any, false, 0⟩),
  (0xA070, 1, ⟨10, 1, .ro, 0, .any, false, 0⟩),
  (0xA070, 2, ⟨12, 40, .ro, 0, .any, false, 0⟩)]

/-- Entries of a PB: offset, first sub-index, last, entry. Log entry 3 (DESIGN CHOICE). -/
def pbTable : List (Nat × Nat × Nat × Entry) := [
  (0x00, 1, 1, ⟨10, 1, .ro, 0, .any, false, 0⟩),
  (0x00, 2, 2, ⟨3, 2, .ro, 0, .any, true, 0⟩),
  (0x08, 1, 1, ⟨5, 8, .rw, 0, .hbm4k, false, 0⟩),
  (0x09, 1, 1, ⟨5, 8, .rw, 0, .hbm4k, false, 0⟩),
  (0x09, 2, 2, ⟨4, 4, .rw, 0, .pow2 64 65536, false, 0⟩),
  (0x09, 3, 3, ⟨4, 4, .ro, 0, .any, false, 0⟩),
  (0x09, 4, 4, ⟨4, 4, .rw, 0, .tail, false, 0⟩),
  (0x09, 5, 5, ⟨4, 4, .ro, 0, .any, false, 0⟩),
  (0x0C, 1, 1, ⟨12, 24, .wo, 0, .any, false, 0⟩),
  (0x0D, 1, 1, ⟨12, 4, .wo, 0, .any, false, 0⟩),
  (0x10, 1, 1, ⟨4, 4, .rw, 0, .zle 100 400000, false, 0⟩),
  (0x10, 2, 2, ⟨4, 4, .rw, 1048576, .le 4096 16777216, false, 0⟩),
  (0x11, 1, 1, ⟨4, 4, .ro, 0, .any, false, 0⟩),
  (0x12, 1, 1, ⟨4, 4, .ro, 0, .any, false, 0⟩),
  (0x12, 2, 2, ⟨4, 4, .ro, 0, .any, false, 0⟩),
  (0x18, 1, 1, ⟨2, 1, .rw, 0, .le 0 128, false, 0⟩),
  (0x18, 2, 2, ⟨4, 4, .rw, 0, .le 0 4194304, false, 0⟩),
  (0x18, 3, 3, ⟨4, 4, .ro, 0, .any, false, 0⟩),
  (0x18, 4, 4, ⟨4, 4, .ro, 0, .any, false, 0⟩),
  (0x18, 5, 5, ⟨4, 4, .ro, 0, .any, false, 0⟩),
  (0x18, 6, 6, ⟨4, 4, .ro, 0, .any, false, 0⟩),
  (0x20, 1, 8, ⟨4, 4, .ro, 0, .any, false, 0⟩),
  (0x21, 1, 1, ⟨12, 147, .rw, 0, .any, false, 0⟩),
  (0x22, 1, 1, ⟨12, 48, .rw, 0, .any, false, 0⟩),
  (0x23, 1, 1, ⟨12, 16, .wo, 0, .any, false, 0⟩),
  (0x24, 1, 64, ⟨12, 80, .ro, 0, .any, false, 0⟩),
  (0x28, 1, 4, ⟨5, 8, .ro, 0, .any, false, 0⟩)]

/-- Entries of the family at 0x2030: first sub-index, last, entry. -/
def tabSess : List (Nat × Nat × Entry) := [
  (1, 1, ⟨10, 1, .rw, 0, .enum 5, false, 0⟩),
  (2, 2, ⟨2, 1, .rw, 0, .le 0 35, false, 0⟩),
  (3, 3, ⟨2, 1, .rw, 0, .le 0 63, false, 0⟩),
  (4, 4, ⟨3, 2, .rw, 0, .any, false, 0⟩),
  (5, 5, ⟨4, 4, .rw, 1, .le 1 1048576, false, 0⟩),
  (6, 6, ⟨10, 1, .rw, 0, .enum 3, false, 0⟩),
  (7, 7, ⟨4, 4, .ro, 0, .any, false, 0⟩),
  (8, 8, ⟨4, 4, .ro, 0, .any, false, 0⟩)]

/-- Entries of the family at 0x2100: first sub-index, last, entry. -/
def tabWin : List (Nat × Nat × Entry) := [
  (1, 1, ⟨2, 1, .rw, 0, .le 0 63, true, 0⟩),
  (2, 2, ⟨5, 8, .rw, 0, .step 0 0x1FFFFFFF0000000 0x10000000, true, 0⟩),
  (3, 3, ⟨5, 8, .rw, 0, .zstep 0x10000000 0x8000000000000 0x10000000, true, 0⟩),
  (4, 4, ⟨5, 8, .ro, 0, .any, false, 0⟩),
  (5, 5, ⟨3, 2, .rw, 0, .any, true, 0⟩),
  (6, 6, ⟨1, 1, .rwm, 0, .enum 2, true, 0⟩),
  (7, 7, ⟨2, 1, .rwr, 0xFF, .mbxPid, true, 0⟩)]

/-- Entries of the family at 0x2200: first sub-index, last, entry. -/
def tabEpc : List (Nat × Nat × Entry) := [
  (1, 1, ⟨3, 2, .ro, 0, .any, false, 0⟩),
  (2, 2, ⟨4, 4, .ro, 0, .any, false, 0⟩),
  (3, 3, ⟨4, 4, .ro, 0, .any, false, 0⟩),
  (4, 4, ⟨4, 4, .ro, 0, .any, false, 0⟩),
  (5, 5, ⟨4, 4, .ro, 0, .any, false, 0⟩),
  (6, 6, ⟨4, 4, .ro, 0, .any, false, 0⟩),
  (7, 7, ⟨4, 4, .ro, 0, .any, false, 0⟩),
  (8, 8, ⟨4, 4, .ro, 0, .any, false, 0⟩),
  (9, 9, ⟨4, 4, .ro, 0, .any, false, 0⟩)]

/-- Entries of the family at 0x4000: first sub-index, last, entry. Log entry 22 (DEDUCED). -/
def tabFp : List (Nat × Nat × Entry) := [
  (1, 1, ⟨10, 1, .ro, 0, .any, false, 0⟩),
  (2, 2, ⟨10, 1, .ro, 0, .any, false, 0⟩),
  (3, 3, ⟨12, 16, .ro, 0, .any, false, 0⟩),
  (4, 4, ⟨2, 1, .ro, 0x1F, .any, false, 0⟩),
  (5, 5, ⟨2, 1, .ro, 0x0F, .any, false, 0⟩),
  (6, 6, ⟨4, 4, .ro, 0, .any, false, 0⟩),
  (7, 7, ⟨5, 8, .ro, 0, .any, false, 0⟩),
  (8, 8, ⟨4, 4, .ro, 0, .any, false, 0⟩),
  (9, 9, ⟨4, 4, .ro, 0, .any, false, 0⟩),
  (10, 10, ⟨4, 4, .rw, 0, .any, false, 0x7FFFFF⟩),
  (11, 11, ⟨5, 8, .ro, 0, .any, false, 0⟩),
  (12, 12, ⟨4, 4, .rw, 0x100001, .any, false, 0⟩),
  (13, 13, ⟨1, 1, .rwr, 1, .enum 2, true, 0⟩),
  (16, 32, ⟨4, 4, .rwr, 0xF830F8, .any, true, 0x7F000000⟩)]

/-- Entries of the family at 0x4010: first sub-index, last, entry. Log entry 22 (DEDUCED). -/
def tabAp : List (Nat × Nat × Entry) := [
  (1, 1, ⟨10, 1, .ro, 0, .any, false, 0⟩),
  (2, 2, ⟨10, 1, .ro, 0, .any, false, 0⟩),
  (3, 3, ⟨4, 4, .ro, 0, .any, false, 0⟩),
  (4, 4, ⟨2, 1, .ro, 0x1E, .any, false, 0⟩),
  (5, 5, ⟨2, 1, .ro, 0x0F, .any, false, 0⟩),
  (6, 6, ⟨4, 4, .ro, 0, .any, false, 0⟩),
  (7, 7, ⟨5, 8, .ro, 0, .any, false, 0⟩),
  (8, 8, ⟨4, 4, .ro, 0, .any, false, 0⟩),
  (9, 9, ⟨4, 4, .ro, 0, .any, false, 0⟩),
  (10, 10, ⟨4, 4, .rw, 0, .any, false, 0x7FFFFF⟩),
  (11, 11, ⟨5, 8, .ro, 0, .any, false, 0⟩),
  (12, 12, ⟨4, 4, .rw, 0x100001, .any, false, 0⟩),
  (13, 13, ⟨10, 1, .rwm, 0, .enum 3, true, 0⟩),
  (14, 14, ⟨2, 1, .ro, 0, .any, false, 0⟩),
  (16, 23, ⟨4, 4, .rwr, 0xF830F8, .any, true, 0x7F000000⟩)]

/-- Entries of the family at 0x4020: first sub-index, last, entry. -/
def tabCp : List (Nat × Nat × Entry) := [
  (1, 1, ⟨10, 1, .rwm, 0, .enum 3, true, 0⟩),
  (2, 2, ⟨12, 4, .ro, 0, .any, false, 0⟩),
  (3, 3, ⟨5, 8, .ro, 0, .any, false, 0⟩),
  (4, 4, ⟨1, 1, .wo, 0, .enum 2, false, 0⟩)]

/-- Entries of the family at 0x4100: first sub-index, last, entry. -/
def tabRt : List (Nat × Nat × Entry) := [
  (1, 1, ⟨2, 1, .rwr, 31, .le 0 31, true, 0⟩),
  (2, 2, ⟨2, 1, .rwr, 31, .le 0 31, true, 0⟩),
  (3, 3, ⟨2, 1, .ro, 31, .any, false, 0⟩),
  (4, 4, ⟨2, 1, .ro, 31, .any, false, 0⟩)]

/-- Entries of the family at 0x5012: first sub-index, last, entry. -/
def tabFrec : List (Nat × Nat × Entry) := [
  (1, 16, ⟨12, 20, .ro, 0, .any, false, 0⟩)]

/-- Entries of the family at 0x6000: first sub-index, last, entry. -/
def tabBank : List (Nat × Nat × Entry) := [
  (1, 1, ⟨5, 8, .ro, 0, .any, false, 0⟩),
  (2, 9, ⟨5, 8, .rw, 0, .le 0 0xFFFFFFFFFFFF, false, 0⟩),
  (10, 17, ⟨4, 4, .rw, 0, .any, false, 0x3FF000⟩),
  (18, 18, ⟨2, 1, .rw, 0, .any, false, 0⟩),
  (19, 19, ⟨5, 8, .ro, 0, .any, false, 0⟩),
  (20, 27, ⟨5, 8, .ro, 0, .any, false, 0⟩)]

/-- Entries of the family at 0x9001: first sub-index, last, entry. -/
def tabPeerk : List (Nat × Nat × Entry) := [
  (1, 17, ⟨12, 48, .rwr, 0, .any, true, 0⟩)]

/-- Entries of the family at 0xA001: first sub-index, last, entry. -/
def tabClog : List (Nat × Nat × Entry) := [
  (1, 64, ⟨12, 32, .ro, 0, .any, false, 0⟩)]

/-- Entries of the family at 0xA061: first sub-index, last, entry. -/
def tabFlog : List (Nat × Nat × Entry) := [
  (1, 64, ⟨12, 32, .ro, 0, .any, false, 0⟩)]

/-- Families: base index, count, stride, entries. -/
def families : List (Nat × Nat × Nat × List (Nat × Nat × Entry)) := [
  (0x2030, 8, 1, tabSess),
  (0x2100, 4, 1, tabWin),
  (0x2200, 4, 1, tabEpc),
  (0x4000, 16, 1, tabFp),
  (0x4010, 16, 1, tabAp),
  (0x4020, 4, 1, tabCp),
  (0x4100, 17, 1, tabRt),
  (0x5012, 1, 1, tabFrec),
  (0x6000, 24, 16, tabBank),
  (0x9001, 1, 1, tabPeerk),
  (0xA001, 1, 1, tabClog),
  (0xA061, 1, 1, tabFlog)]
/-! ### Lookup -/

/-- The entry of a sub-index range table. -/
def subLookup : List (Nat × Nat × Entry) → Nat → Option Entry
  | [], _ => none
  | (lo, hi, e) :: r, sub => if lo ≤ sub ∧ sub ≤ hi then some e else subLookup r sub

def fixedLookup : List (Nat × Nat × Entry) → Nat → Nat → Option Entry
  | [], _, _ => none
  | (i, j, e) :: r, ix, sub => if i = ix ∧ j = sub then some e else fixedLookup r ix sub

def pbLookup : List (Nat × Nat × Nat × Entry) → Nat → Nat → Option Entry
  | [], _, _ => none
  | (o, lo, hi, e) :: r, off, sub =>
    if o = off ∧ lo ≤ sub ∧ sub ≤ hi then some e else pbLookup r off sub

def famLookup : List (Nat × Nat × Nat × List (Nat × Nat × Entry)) → Nat → Nat → Option Entry
  | [], _, _ => none
  | (b, n, st, t) :: r, ix, sub =>
    if b ≤ ix ∧ ix < b + n * st ∧ (ix - b) % st = 0 then
      match subLookup t sub with
      | some e => some e
      | none => famLookup r ix sub
    else famLookup r ix sub

/-- The fixed entries of an index area. -/
def fixedOf (ix : Nat) : List (Nat × Nat × Entry) :=
  if ix / 4096 = 1 then fixed1 else if ix / 4096 = 2 then fixed2
  else if ix / 4096 = 4 then fixed4 else if ix / 4096 = 5 then fixed5
  else if ix / 4096 = 6 then fixed6 else if ix / 4096 = 7 then fixed7
  else if ix / 4096 = 8 then fixed8 else if ix / 4096 = 9 then fixed9
  else if ix / 4096 = 10 then fixedA else []

/-- The entry at `index:sub`, sub-index 0 apart (R344). -/
def entryOf (ix sub : Nat) : Option Entry :=
  if ix / 4096 = 3 then pbLookup pbTable ((ix - 0x3000) % 0x40) sub
  else
    match fixedLookup (fixedOf ix) ix sub with
    | some e => some e
    | none => famLookup families ix sub

/-- The highest sub-index in use at an index; none when the index does not exist. -/
def maxSub (ix : Nat) : Option Nat := ((List.range 65).reverse.filter fun j => 0 < j).find? fun j => (entryOf ix j).isSome

/-- The default of a key; the defaults that depend on the module's place are in `routeDefault`.
Log entry 3 (DESIGN CHOICE). -/
def dfltOf (k : Nat) : Nat :=
  match entryOf (k / 256) (k % 256) with
  | some e => e.dflt
  | none => 0

/-! ### Reading and setting a numeric entry -/

/-- The stored value of an entry. -/
def State.rd (s : State) (k : Nat) : Nat :=
  match mfind s.od k with
  | some v => v
  | none => dfltOf k

/-- Set an entry. -/
def State.wr (s : State) (k v : Nat) : State := { s with od := mput s.od k v }

/-- An entry reads its default again. -/
def State.unset (s : State) (k : Nat) : State := { s with od := mdel s.od k }

/-- Count: add `n`, wrapping at 2^32 as every U32 counter of the dictionary does. -/
def State.bump (s : State) (k n : Nat) : State := s.wr k ((s.rd k + n) % 2 ^ 32)

/-- Count `n` more, wrapping at 2^64. -/
def State.bump64 (s : State) (k n : Nat) : State := s.wr k ((s.rd k + n) % 2 ^ 64)

/-- Emit. -/
def State.emit (s : State) (o : Out) : State := { s with out := s.out ++ [o] }

/-- A fresh number for the model's own records. Log entry 60 (DESIGN CHOICE). -/
def State.fresh (s : State) : State := { s with nextId := s.nextId + 1 }

/-- One free value has been drawn. Log entry 60 (DESIGN CHOICE). -/
def State.draw (s : State) : State := { s with free := s.free + 1 }

/-! ### Ranges and clamping (R351) -/

/-- Reasons of a clamp record (Table ODP-5). -/
def rsnLow : Nat := 0
def rsnHigh : Nat := 1
def rsnStep : Nat := 2
def rsnEnum : Nat := 3
def rsnReserved : Nat := 4

/-- Populated HBM of the module in bytes (Table SCO-1, Table ADR-2). -/
def hbmBytes (s : State) : Nat := (if s.life.order768 then 768 else 512) * 2 ^ 30

/-- The largest power of two at most `v`, at least `lo`; 0 when there is none. -/
def pow2Below (lo v : Nat) : Nat :=
  (List.range 64).foldl (fun acc i => if lo ≤ 2 ^ i ∧ 2 ^ i ≤ v then 2 ^ i else acc) 0

/-- The largest listed value at most `v`. -/
def listBelow (vs : List Nat) (v : Nat) : Nat := vs.foldl (fun acc x => if x ≤ v then max acc x else acc) 0

def clampLe (lo hi v : Nat) : Nat × Option Nat :=
  if v < lo then (lo, some rsnLow) else if hi < v then (hi, some rsnHigh) else (v, none)

def clampStep (lo hi st v : Nat) : Nat × Option Nat :=
  if v < lo then (lo, some rsnLow) else if hi < v then (hi, some rsnHigh)
  else if (v - lo) % st = 0 then (v, none) else (lo + (v - lo) / st * st, some rsnStep)

/-- R351: the value that takes effect, and the reason of the clamp record if it differs. `tailMax` is
the upper bound of a ring's TAIL entry. -/
def clampVal (s : State) (e : Entry) (tailMax v : Nat) : Nat × Option Nat :=
  match e.rng with
  | .any => (v, none)
  | .le lo hi => clampLe lo hi v
  | .step lo hi st => clampStep lo hi st v
  | .zstep lo hi st =>
    if v = 0 then (0, none) else if v < lo then (0, some rsnStep) else clampStep lo hi st v
  | .zle lo hi => if v = 0 then (0, none) else if v < lo then (0, some rsnStep) else clampLe lo hi v
  | .pow2 lo hi =>
    if v = 0 then (0, none) else if hi < v then (hi, some rsnHigh)
    else if pow2Below lo v = v then (v, none) else (pow2Below lo v, some rsnStep)
  | .enum n => if v < n then (v, none) else (e.dflt, some rsnEnum)
  | .list vs =>
    if vs.contains v then (v, none)
    else if v < vs.headD 0 then (vs.headD 0, some rsnLow)
    else if listBelow vs v = vs.getLastD 0 then (vs.getLastD 0, some rsnHigh)
    else (listBelow vs v, some rsnStep)
  | .tbuf => clampStep 0 ((hbmBytes s - s.rd K.tbufCount * 4108) / 2 ^ 30 * 2 ^ 30) (2 ^ 30) v
  | .hbm4k => clampStep 0 (hbmBytes s - 4096) 4096 v
  | .midNone => if v = 31 then (v, none) else if v ≤ 16 then (v, none)
    else if v < 31 then (16, some rsnStep) else (31, some rsnHigh)
  | .tail => clampLe 0 tailMax v
  | .mbxPid => if v ≤ 63 ∨ v = 0xFF then (v, none) else (63, some rsnStep)

end Sys2Proof.Machine
end

