-- ==== Sys2Proof/Machine/Ops.lean ====
section
/-! DEFINITION. The named operations over the state that the meanings share: status codes, views of the
module, sending, counting, the logs, local memory with its metadata, and the management responses. -/

namespace Sys2Proof.Machine

open Sys2Proof

/-! ### Completion status codes (Table SCO-5) -/

namespace Status

abbrev ok : Nat := 0
abbrev poison : Nat := 1
abbrev unmapped : Nat := 2
abbrev perm : Nat := 3
abbrev homeLost : Nat := 4
abbrev timeout : Nat := 5
abbrev aborted : Nat := 6
abbrev ownerConflict : Nat := 7
abbrev partialSt : Nat := 8
abbrev closed : Nat := 9
abbrev refused : Nat := 10
abbrev counterWindow : Nat := 11
abbrev checkFail : Nat := 12
abbrev overrun : Nat := 13

end Status

/-- R11: a receiver treats a reserved code as FAULT_PERM. Log entry 13 (DEDUCED). -/
def statusSeen (c : Nat) : Nat := if c % 16 < 14 then c % 16 else Status.perm

/-! ### Updating one part of the state -/

def State.mapLife (s : State) (f : Life → Life) : State := { s with life := f s.life }
def State.mapPower (s : State) (f : Power → Power) : State := { s with power := f s.power }
def State.mapNv (s : State) (f : Nv → Nv) : State := { s with nv := f s.nv }
def State.mapXl (s : State) (f : Xlate → Xlate) : State := { s with xl := f s.xl }
def State.mapReq (s : State) (f : Reqs → Reqs) : State := { s with req := f s.req }
def State.mapHome (s : State) (f : Home → Home) : State := { s with home := f s.home }
def State.mapEp (s : State) (f : EpSt → EpSt) : State := { s with ep := f s.ep }
def State.mapStn (s : State) (f : Stn → Stn) : State := { s with stn := f s.stn }
def State.mapSw (s : State) (f : Switch → Switch) : State := { s with sw := f s.sw }
def State.mapDlv (s : State) (f : Delivery → Delivery) : State := { s with dlv := f s.dlv }
def State.mapLnk (s : State) (f : Links → Links) : State := { s with lnk := f s.lnk }
def State.mapTim (s : State) (f : Time → Time) : State := { s with tim := f s.tim }
def State.mapSlu (s : State) (f : Sluice → Sluice) : State := { s with slu := f s.slu }
def State.mapSec (s : State) (f : Sec → Sec) : State := { s with sec := f s.sec }
def State.mapMgt (s : State) (f : Mgt → Mgt) : State := { s with mgt := f s.mgt }
def State.mapShd (s : State) (f : Shadow → Shadow) : State := { s with shd := f s.shd }
def State.mapFills (s : State) (f : List FillSpan → List FillSpan) : State := { s with fills := f s.fills }
def State.mapOwn (s : State) (f : NMap → NMap) : State := { s with own := f s.own }

/-- Apply `f` for every element of a list, first element first. -/
def State.each {α : Type} (l : List α) (f : State → α → State) (s : State) : State := l.foldl f s

/-! ### Views of the module -/

/-- Own MID (R19). -/
def State.mid (s : State) : Nat := s.rd K.mid

/-- Mesh size N (R19). -/
def State.meshN (s : State) : Nat := s.rd K.meshN

/-- Rack time in ticks. Log entries 11 (DESIGN CHOICE), 16 (DESIGN CHOICE). -/
def State.now (s : State) : Nat := s.tim.now

/-- MODULE_STATE codes of Table ODP-7; OFF, which no reader can see, is 0 here. -/
def MState.code : MState → Nat
  | .off => 0 | .training => 1 | .shadow => 2 | .member => 3 | .draining => 4
  | .maintenance => 5 | .restore => 6 | .selftest => 7 | .failed => 8

/-- Management answers from the end of RESTORE on (R359). -/
def State.managed (s : State) : Bool :=
  match s.life.mstate with
  | .off => false | .restore => false
  | .selftest => true | .training => true | .shadow => true | .member => true
  | .draining => true | .maintenance => true | .failed => true

/-- Homes served: MEMBER, and DRAINING until the homed ranges have moved (Table ARC-6). -/
def State.homesServed (s : State) : Bool :=
  match s.life.mstate with
  | .member => true
  | .draining => !s.life.homesMoved
  | _ => false

/-- MEMBER or DRAINING: all traffic classes run (Table ARC-6). -/
def State.inService (s : State) : Bool :=
  s.life.mstate = .member || s.life.mstate = .draining

/-- LOCKED (R212). -/
def State.locked (s : State) : Bool := s.rd K.lockState = 2

/-- The fabric port towards MID `d` (R20). -/
def State.portTo (s : State) (d : Nat) : Nat := (d + 2 * s.meshN - s.mid - 1) % s.meshN

/-- The MID that fabric port `p` leads to (R20). -/
def State.midAt (s : State) (p : Nat) : Nat := (p + s.mid + 1) % s.meshN

/-- R18: the number of ports of the bond that port `n` starts. -/
def State.bondPorts (s : State) (n : Nat) : Nat :=
  match s.rd (K.apBond n) with
  | 0 => 1 | 1 => 2 | _ => 4

/-- The lowest port of the bond that holds attach port `n`: AP4k to AP4k+3 on one EP (R18). -/
def State.bondOf (s : State) (n : Nat) : Nat :=
  let b := n / 4 * 4
  if s.rd (K.apBond b) = 2 then b
  else
    let e := n / 2 * 2
    if s.rd (K.apBond e) = 1 then e else n

/-- A fabric port by number. -/
def State.fport (s : State) (n : Nat) : FPort := s.lnk.fp.getD n (FPort.init n)

/-- An attach port by number. -/
def State.aport (s : State) (n : Nat) : APort := s.lnk.ap.getD n (APort.init n)

/-- A CXL port by number. -/
def State.cport (s : State) (n : Nat) : CPort := s.lnk.cp.getD n (CPort.init n)

def State.setFp (s : State) (n : Nat) (f : FPort → FPort) : State :=
  s.mapLnk fun l => { l with fp := mapIf (fun p => p.n = n) f l.fp }

def State.setAp (s : State) (n : Nat) (f : APort → APort) : State :=
  s.mapLnk fun l => { l with ap := mapIf (fun p => p.n = n) f l.ap }

def State.setCp (s : State) (n : Nat) (f : CPort → CPort) : State :=
  s.mapLnk fun l => { l with cp := mapIf (fun p => p.n = n) f l.cp }

/-- The pair formed with peer `d`. -/
def State.peer (s : State) (d : Nat) : Peer := s.dlv.peers.getD d (Peer.init d)

def State.setPeer (s : State) (d : Nat) (f : Peer → Peer) : State :=
  s.mapDlv fun v => { v with peers := mapIf (fun p => p.mid = d) f v.peers }

/-- Own link to MID `d` masked (R261, PEER_MASK). -/
def State.masked (s : State) (d : Nat) : Bool := (s.rd K.peerMask).testBit d

/-- MID `d` declared lost (R262, PEER_LOST). -/
def State.peerLost (s : State) (d : Nat) : Bool := (s.rd K.peerLost).testBit d

/-- The direct link to MID `d` carries frames: its port is up or degraded, keyed, and not masked. -/
def State.linkUp (s : State) (d : Nat) : Bool :=
  let p := s.portTo d
  (s.rd (K.fpState p) = 2 || s.rd (K.fpState p) = 3) && (s.fport p).keyed && !s.masked d

/-- The other MIDs of the mesh. -/
def State.peerMids (s : State) : List Nat := (List.range s.meshN).filter fun d => d ≠ s.mid

/-- PART_STATE codes (Table SEC-1): 0 FREE, 1 ACTIVE, 2 CLOSING, 3 SCRUBBING. PID 0 is always ACTIVE.
Log entry 24 (DEDUCED). -/
def State.pstate (s : State) (pid : Nat) : Nat := if pid = 0 then 1 else s.rd (K.partState pid)

/-- A request of a partition that is torn down was refused with CLOSED; the teardown report counts it (R340). -/
def State.noteClosed (s : State) (pid : Nat) : State :=
  s.mapSec fun x => { x with downs := x.downs.map fun d => if d.pid = pid then { d with refused := d.refused + 1 } else d }

/-! ### Counting (R365 to R373) -/

/-- One programmable counter sees `amount` of event `ev`. A PID of 64 stands for an event without one. A carry sets the OVF
bit and, with SAMPLE, loads the reload value (R372, R373). -/
def State.countOne (s : State) (bank i ev pid amount : Nat) : State :=
  let c := s.rd (K.ctl bank i)
  if c.testBit 31 && bits c 11 0 = ev && ev ≠ 0 && (!c.testBit 28 || bits c 27 22 = pid) then
    let v := s.rd (K.ctr bank i) + amount
    if v < 2 ^ 48 then s.wr (K.ctr bank i) v
    else
      let next := if c.testBit 29 then nmGet s.mgt.reload (8 * bank + i) 0 else v % 2 ^ 48
      ((s.wr (K.ctr bank i) next).wr (K.ovf bank) (setBit (s.rd (K.ovf bank)) i)).mapMgt
        fun m => { m with ovfPend := insertOnce m.ovfPend (8 * bank + i) }
  else s

/-- The eight counters of a bank see an event. -/
def State.countEv (s : State) (bank ev pid amount : Nat) : State :=
  if amount = 0 then s else s.each (List.range 8) fun s i => s.countOne bank i ev pid amount

/-- An event of an EP bank (Table CNT-4): banks 20 to 23. -/
def State.epEv (s : State) (ep ev pid amount : Nat) : State := s.countEv (20 + ep) ev pid amount

/-- An event of the bank that serves a cluster (Table CNT-2, R366). -/
def State.clusterEv (s : State) (sd cl ev pid amount : Nat) : State :=
  let b := s.stn.banks.findIdx fun c => c = (sd, cl)
  if b < 16 && s.stn.clusters.contains (sd, cl) then s.countEv b ev pid amount else s

/-- An event of a quadrant bank (Table CNT-3): banks 16 to 19. -/
def State.quadEv (s : State) (q ev pid amount : Nat) : State := s.countEv (16 + q) ev pid amount

/-! ### Events, logs and records -/

/-- R357: an EVENT in every open session; each counts one datagram and one event. Log entry 37 (DEDUCED). -/
def State.event (s : State) (key : Nat) : State :=
  let s1 := s.each s.mgt.sessions fun s n => s.emit (.event n.id key s.now)
  s1.mapMgt fun m => { m with
    sessions := m.sessions.map fun n => { n with events := n.events + 1, nonce := n.nonce + 1 } }

/-- Count a written report and send its EVENT. -/
def State.report (s : State) (key : Nat) : State := (s.bump key 1).event key

/-- Enter a module state; MODULE_STATE sends an EVENT (R25, R357). -/
def State.enter (s : State) (m : MState) : State :=
  (s.mapLife fun l => { l with mstate := m }).event K.moduleState

/-- Set a PART_STATE; it sends an EVENT (R323, R357). -/
def State.setPart (s : State) (pid v : Nat) : State := (s.wr (K.partState pid) v).event (K.partState pid)

/-- A clamp record (R361): the last 64 are kept, newest first, and all are counted. -/
def State.clampRec (s : State) (key source reason pid given applied : Nat) : State :=
  let r : ClampRec := ⟨s.now, key, source, reason, pid, given % 2 ^ 64, applied % 2 ^ 64⟩
  (s.bump K.clampCount 1).mapMgt fun m => { m with clampLog := (r :: m.clampLog).take 64 }

/-- R387: does an event coalesce into this entry? -/
def FaultLog.same (e : FaultLog) (now kind unit subunit action : Nat) : Bool :=
  e.kind = kind && e.unit = unit && e.subunit = subunit && e.action = action &&
    decide (now < e.time + 1250000)

/-- R387: a fault log entry, or its coalescing into one written less than 1 ms earlier. -/
def State.logFault (s : State) (kind unit subunit action status pid detail : Nat) : State :=
  if s.mgt.faultLog.any fun e => e.same s.now kind unit subunit action then
    s.mapMgt fun m => { m with
      faultLog := updFirst (fun e => e.same s.now kind unit subunit action)
        (fun e => { e with count := min 262143 (e.count + 1), last := s.now }) m.faultLog }
  else
    let e : FaultLog := ⟨s.now, kind, unit, subunit, action, status, pid, 1, detail, s.now⟩
    (s.bump K.faultCount 1).mapMgt fun m => { m with faultLog := (e :: m.faultLog).take 64 }

/-! ### Management responses -/

/-- How a command ends: at once with a status, once its retained write is committed, or later. -/
inductive Done where
  | now (status : Nat) (clamped : Bool) (val : List Byte)
  | commit (clamped : Bool)
  | later
  deriving DecidableEq, Repr

abbrev Done.ok : Done := .now 0 false []
abbrev Done.refused : Done := .now Status.refused false []
abbrev Done.st (c : Nat) : Done := .now c false []

/-- R356: record the response of a request, so that a duplicate gets it again. -/
def Session.record (n : Session) (seq : Nat) (a : Nat × Bool × List Byte) : Session :=
  { n with win := n.win.map fun d => if d.seq = seq then { d with answer := some a } else d
           nonce := n.nonce + 1 }

/-- The port on which an MDP response goes out: that of the request (R356). -/
def State.replyPort (s : State) (ses seq : Nat) : Bool :=
  (s.mgt.sessions.find? fun n => n.id = ses).any fun n => n.win.any fun d => d.seq = seq && d.portB

/-- The response of a command: recorded in its MDP session, in the context's mailbox (a detached context gets none, R308), or in the
registers of the host mailbox, whose completion raises MSI-X vector 0 (R318). -/
def State.reply (s : State) (o : Origin) (status : Nat) (clamped : Bool) (val : List Byte) : State :=
  match o with
  | .mdp ses seq =>
    if s.mgt.sessions.any fun n => n.id = ses then
      (s.mapMgt fun m => { m with
        sessions := mapIf (fun n => n.id = ses) (fun n => n.record seq (status, clamped, val)) m.sessions }).emit
        (.reply o (s.replyPort ses seq) status clamped false val)
    else s
  | .ctx ep n =>
    let s1 := s.mapEp fun e => { e with mbxCtx := e.mbxCtx.filter fun c => c ≠ (ep, n) }
    if s.ep.ctxs.any fun c => c.ep = ep && c.n = n && c.cstate = .detached then s1
    else s1.emit (.reply o false status clamped false val)
  | .host cp =>
    ((s.mapEp fun e => { e with
      mbxHost := mapIf (fun r => r.cp = cp)
        (fun r => { r with busy := false,
                           header := r.header / 2 ^ 26 * 2 ^ 26 + status % 16 * 2 ^ 22 + r.header % 2 ^ 22,
                           data := val }) e.mbxHost }).emit
      (.reply o false status clamped false val)).emit (.msix cp)

/-- A write to a retained entry answers OK when its commit has ended (R358). Log entry 25 (DEDUCED). -/
def State.awaitCommit (s : State) (o : Origin) (clamped : Bool) : State :=
  s.mapNv fun n => { n with
    dirty := true
    since := if n.dirty then n.since else s.now
    waiting := n.waiting ++ [⟨o, clamped⟩] }

/-- The module's own change of a retained entry (COMMITS, FUSE_TRIPS, PGEN, JOIN_MODE). -/
def State.touchRetained (s : State) : State :=
  s.mapNv fun n => { n with dirty := true, since := if n.dirty then n.since else s.now }

/-- End a command as its effect says. -/
def State.finish (s : State) (o : Origin) (d : Done) : State :=
  match d with
  | .now st c v => s.reply o st c v
  | .commit c => s.awaitCommit o c
  | .later => s

/-- A bound context. -/
def State.ctxOf (s : State) (ep n : Nat) : Option Ctx := s.ep.ctxs.find? fun c => c.ep = ep && c.n = n

def State.setCtx (s : State) (ep n : Nat) (f : Ctx → Ctx) : State :=
  s.mapEp fun e => { e with ctxs := mapIf (fun c => c.ep = ep && c.n = n) f e.ctxs }

/-- The sender PID of a command (R317, R348). -/
def State.senderPid (s : State) (o : Origin) : Option Nat :=
  match o with
  | .mdp _ _ => some 0
  | .ctx ep n => (s.ctxOf ep n).map Ctx.pid
  | .host cp => if s.rd (K.mbxPid cp) ≤ 63 then some (s.rd (K.mbxPid cp)) else none

/-- SOURCE of a clamp record (Table ODP-5). -/
def originSource : Origin → Nat
  | .mdp _ _ => 1 | .ctx _ _ => 2 | .host _ => 3

/-- R348, Table ODP-3: may a tenant read this entry? -/
def tenantReads (p ix : Nat) (k : Nat) : Bool :=
  (0x1000 ≤ ix && ix ≤ 0x100F) || k = K.rtNow || k = K.lockState ||
    (0x3000 + 0x40 * p ≤ ix && ix < 0x3040 + 0x40 * p)

/-- R348, Table ODP-3: may tenant `p` write this entry, whose PID operand is `opPid`? -/
def tenantWrites (p k opPid : Nat) : Bool :=
  [K.rangeRoot p, K.faultRingBase p, K.faultRingEntries p, K.faultRingTail p, K.rtcInval p,
   K.faultResolve p, K.keyAgree p, K.attest p, K.regionRegister p].contains k ||
  ([K.flowLoad, K.flowLaunch, K.flowAbort, K.flowUnload, K.sluiceLoad, K.sluiceRemove,
    K.sluiceCommit].contains k && opPid = p)

/-- R355: the command came in a session that was opened while MGR_KEY_HASH was all zeros. -/
def State.limited (s : State) (o : Origin) : Bool :=
  match o with
  | .mdp ses _ => s.mgt.sessions.any fun n => n.id = ses && n.limited
  | .ctx _ _ => false
  | .host _ => false

/-- R350 step 1: sender, then access kind. `none` when the write may go on. Log entry 15 (DEDUCED). -/
def State.writeGate (s : State) (o : Origin) (k opPid : Nat) : Option Nat :=
  match entryOf (k / 256) (k % 256) with
  | none => some Status.unmapped
  | some e =>
    match s.senderPid o with
    | none => some Status.refused
    | some p =>
      if (p ≠ 0 && !tenantWrites p k opPid) || (s.limited o && k ≠ K.mgrKeyHash) then some Status.refused
      else
        match e.acs with
        | .ro => some Status.refused
        | .rwm => if s.life.mstate = .maintenance then none else some Status.refused
        | .rw => none | .rwr => none | .wo => none

/-- A management command: dropped before the end of RESTORE (R359), refused by R350 step 1, or performed
by `eff`, which is given the sender PID. -/
def State.command (s : State) (o : Origin) (k opPid : Nat) (eff : State → Nat → State × Done) : State :=
  if s.managed then
    match s.writeGate o k opPid with
    | some st => s.reply o st false []
    | none =>
      let r := eff s ((s.senderPid o).getD 0)
      r.1.finish o r.2
  else s

/-- A write of an entry of an array, when its number exists; otherwise the entry is unmapped. -/
def State.commandIf (s : State) (ok : Bool) (o : Origin) (k opPid : Nat) (eff : State → Nat → State × Done) : State :=
  if ok then s.command o k opPid eff
  else if s.managed then s.reply o Status.unmapped false []
  else s

/-- A mailbox command of Table EPT-9 that is no dictionary write: accepted from the PID addressed or from
PID 0 (R317). -/
def State.mailCommand (s : State) (o : Origin) (pid : Nat) (onlyZero : Bool)
    (eff : State → Nat → State × Done) : State :=
  if s.managed then
    match s.senderPid o with
    | none => s.reply o Status.refused false []
    | some p =>
      if (p = 0 || (!onlyZero && p = pid)) && !s.limited o then
        let r := eff s p
        r.1.finish o r.2
      else s.reply o Status.refused false []
  else s

/-- Steps 4 and 5 of R350 for one numeric value: the reserved bits are cleared, the value is clamped, and
each change writes a record. Answers the state, the value that takes effect and CLAMPED. -/
def State.settle (s : State) (o : Origin) (pid k tailMax v : Nat) : State × Nat × Bool :=
  match entryOf (k / 256) (k % 256) with
  | none => (s, v, false)
  | some e =>
    let v1 := v - (v &&& e.rsv)
    let s1 := if v1 = v then s else s.clampRec k (originSource o) rsnReserved pid v v1
    match clampVal s1 e tailMax v1 with
    | (v2, none) => (s1, v2, v1 ≠ v)
    | (v2, some r) => (s1.clampRec k (originSource o) r pid v1 v2, v2, true)

/-- A plain entry takes the settled value; a retained one answers at its commit. -/
def State.writePlain (s : State) (o : Origin) (pid k tailMax v : Nat) : State × Done :=
  match s.settle o pid k tailMax v with
  | (s1, v1, c) =>
    let ret := match entryOf (k / 256) (k % 256) with
      | some e => e.ret
      | none => false
    (s1.wr k v1, if ret then .commit c else .now 0 c [])

/-! ### Local address space (Table ADR-2) -/

def expBase (n : Nat) : Nat := 0x40000000000 + n * 0x20000000000
def exportBase : Nat := 0x4000000000000

/-- Which part of the local map an address lies in. -/
inductive Region where
  | hbm
  | expander (n off : Nat)
  | export_ (ep ctx off : Nat)
  | reserved
  deriving DecidableEq, Repr

def regionOf (a : Nat) : Region :=
  if a < 0xC000000000 then .hbm
  else if 0x40000000000 ≤ a ∧ a < 0xC0000000000 then
    .expander ((a - 0x40000000000) / 0x20000000000) ((a - 0x40000000000) % 0x20000000000)
  else if exportBase ≤ a ∧ a < 0x8000000000000 then .export_ (bits a 49 48) (bits a 47 38) (bits a 37 0)
  else .reserved

/-- Bytes at the top of HBM that the tier cache takes (R88). -/
def State.tierBytes (s : State) : Nat := s.rd K.tierCacheSize * 2 ^ 30

/-- The tile-buffer pool with its metadata (R235). -/
def State.tbufBytes (s : State) : Nat := s.rd K.tbufCount * (4096 + 8 + 4)

/-- Inside the pool or its metadata. -/
def State.inTbuf (s : State) (a : Nat) : Bool :=
  decide (s.rd K.tbufBase ≤ a) && decide (a < s.rd K.tbufBase + s.tbufBytes)

/-- Populated, and given to partitions: HBM outside the tier cache and the tile-buffer pool, or an
expander within its capacity (R31, R88, R235). -/
def State.grantable (s : State) (a : Nat) : Bool :=
  match regionOf a with
  | .hbm => decide (a < hbmBytes s - s.tierBytes) && !s.inTbuf a
  | .expander n off => s.rd (K.cpMode n) = 2 && decide (off < (s.cport n).expBytes)
  | .export_ _ _ _ => false
  | .reserved => false

/-- Ownership map entry of a granule (Table SEC-2): at RESTORE every granule is in SCRUB. -/
def State.granule (s : State) (g : Nat) : Nat := nmGet s.own g 0x80

def State.setGranule (s : State) (g v : Nat) : State :=
  { s with own := if v = 0x80 then mdel s.own g else mput s.own g v }

/-- The PID that owns a local address (R31, R32, R307). -/
def State.ownerAt (s : State) (a : Nat) : Option Nat :=
  match regionOf a with
  | .export_ ep n off =>
    match s.ctxOf ep n with
    | some c => if c.cstate ≠ .closing && decide (off < c.expSize) then some c.pid else none
    | none => none
  | .reserved => none
  | .hbm =>
    if s.grantable a && bits (s.granule (a / 65536)) 7 6 = 1 then some (bits (s.granule (a / 65536)) 5 0) else none
  | .expander _ _ =>
    if s.grantable a && bits (s.granule (a / 65536)) 7 6 = 1 then some (bits (s.granule (a / 65536)) 5 0) else none

/-! ### Lines of local memory -/

/-- The 64-byte line of an address. -/
def lineOf (a : Nat) : Nat := a / 64

/-- The lines that `[a, a + n)` touches. -/
def linesOf (a n : Nat) : List Nat :=
  if n = 0 then [] else (List.range ((a + n - 1) / 64 - a / 64 + 1)).map fun i => a / 64 + i

def State.poisoned (s : State) (line : Nat) : Bool := s.poison.contains line

/-- Any line of the span is poisoned. -/
def State.spanPoisoned (s : State) (a n : Nat) : Bool := (linesOf a n).any s.poisoned

def State.setPoison (s : State) (line : Nat) : State := { s with poison := insertOnce s.poison line }

def State.clearPoison (s : State) (line : Nat) : State := { s with poison := removeAll s.poison [line] }

/-- `n` bytes of local memory as stored. -/
def State.peek (s : State) (a n : Nat) : List Byte := bytesAt s.mem a n

/-- Write bytes whose enable bit is set; the lines' ZERO bits are cleared (R328), and a write that covers
a whole aligned line clears its poison, unless the data is itself poisoned (R102). -/
def State.poke (s : State) (a be : Nat) (bs : List Byte) (poi : Bool) : State :=
  let ls := linesOf a bs.length
  let full := ls.filter fun l => decide (a ≤ 64 * l) && decide (64 * l + 64 ≤ a + bs.length) &&
    decide ((be >>> (64 * l - a)) % 2 ^ 64 = 2 ^ 64 - 1)
  let s1 := { s with mem := bytesSetBE s.mem a be bs
                     written := ls.foldl insertOnce s.written }
  let s2 := { s1 with poison := removeAll s1.poison full }
  if poi then s2.each ls State.setPoison else s2

/-- All bytes of a string enabled. -/
def allOnes (n : Nat) : Nat := 2 ^ n - 1

/-- Write a whole string. -/
def State.store (s : State) (a : Nat) (bs : List Byte) : State := s.poke a (allOnes bs.length) bs false

/-! ### CAP messages towards the attach design -/

/-- A message with nothing set, for a context and tag. -/
def CapOut.to (ep n tag mt : Nat) : CapOut := ⟨ep, n, tag, mt, 0, 0, 0, false, false, 0, 0, 0, []⟩

/-- Credit pool of an M→A type (Table EPT-4): 0 REQ, 1 STRM, 2 MGMT; responses need none (R295). -/
def outPool (mt : Nat) : Option Nat :=
  if 0x22 ≤ mt ∧ mt ≤ 0x25 then some 0 else if mt = 0x11 ∨ mt = 0x26 then some 1 else if mt = 0x28 ∨ mt = 0x2A then some 2 else none

/-- Units that a message costs (R294). -/
def outCost (m : CapOut) : Nat := cdiv m.data.length 64 + 1

/-- A message of a pool leaves bond `b` when the pool holds its units and no earlier message of it waits. -/
def State.capPush (s : State) (b : Nat) (m : CapOut) : State :=
  match outPool m.mt with
  | none => s.emit (.cap m)
  | some k =>
    let p := s.aport b
    let have_ := p.send.getD k 0
    if outCost m ≤ have_ && !(p.outq.any fun x => outPool x.mt = some k) then
      (s.setAp b fun p => { p with send := setAt p.send k (have_ - outCost m) }).emit (.cap m)
    else s.setAp b fun p => { p with outq := p.outq ++ [m] }

/-- Returned units let waiting messages go, oldest first per pool. -/
def State.pumpOut (s : State) (b : Nat) : State :=
  let q := (s.aport b).outq
  (s.setAp b fun p => { p with outq := [] }).each q fun s m => s.capPush b m

/-- A message M→A. A detached context gets none (R308). Log entry 46 (DEDUCED). -/
def State.capSend (s : State) (m : CapOut) : State :=
  match s.ctxOf m.ep m.ctx with
  | some c => if c.cstate = .detached then s else s.capPush c.port m
  | none => s.emit (.cap m)

/-- A RSP that closes a transaction (MT 0x20). -/
def State.rsp (s : State) (ep n tag status li : Nat) (arg aux : Nat) (data : List Byte) : State :=
  s.capSend { CapOut.to ep n tag 0x20 with status := status, li := li, arg := arg, aux := aux, data := data }

/-! ### Directions of travel -/

/-- The EP die of an attach port, the quadrant of an ingress code. -/
def epOfPort (ap : Nat) : Nat := ap / 4

/-- Ingress codes: 0 to 15 FPn, 16 to 19 EP bridges, 20 to 23 SD bridges, 24 to 27 the home agents of a
quadrant, 28 to 31 the fountain's shares, 32 the management and security controllers (Table SWC-1). -/
def quadOf (ingress : Nat) : Nat :=
  if ingress < 16 then ingress / 4 else if ingress < 32 then (ingress - 16) % 4 else 0

/-- Egress codes: those of R217, then 36 the home agents, 37 the controllers of the XD, 40 to 43 the EP
bridges. -/
def egHome : Nat := 36
def egCtrl : Nat := 37
def egEp (ep : Nat) : Nat := 40 + ep

/-- An egress with a PORT code of R217. -/
def gatedCode (e : Nat) : Bool := decide (e < 36)

/-! ### CXL windows (R54, R55) -/

/-- The HDM capacity that a port advertises (R54): WIN_SIZE in host mode, nothing while WIN_PID is 0, nor while the host is
confidential (R319). -/
def State.hdmCapacity (s : State) (cp : Nat) : Nat :=
  if s.rd (K.cpMode cp) = 1 && s.rd (K.winPid cp) ≠ 0 && s.rd (K.conf cp) = 0 then s.rd (K.winSize cp) else 0

/-- The HPA of an FVA in the window (R55). -/
def State.windowHpa (s : State) (cp fva : Nat) : Option Nat :=
  let a := s.rd (K.winFva cp)
  if a ≤ fva && fva < a + s.hdmCapacity cp then some (s.rd (K.hdmBase cp) + (fva - a)) else none

/-- A port advertises its HDM capacity to the host (R54). -/
def State.advertise (s : State) (cp : Nat) : State := s.emit (.hdm cp (s.hdmCapacity cp))

/-- End-points in service (R380). -/
def State.epUp (s : State) (ep : Nat) : Bool := !s.ep.dead.contains ep

/-- The lowest-numbered end-point in service (R126). -/
def State.lowEp (s : State) : Option Nat := (List.range 4).find? s.epUp

/-! ### Secrets of the part -/

/-- What `Config.secretBytes` stands for, by its first argument. -/
abbrev secSerial : Nat := 1
abbrev secFirmware : Nat := 2
abbrev secCert : Nat := 3
abbrev secKey : Nat := 4
abbrev secEphemeral : Nat := 5
abbrev secSign : Nat := 6

/-- The module's attestation public key, 97 bytes. -/
def deviceKeyBytes : List Byte := fitTo 97 (Config.secretBytes secKey 0)

end Sys2Proof.Machine
end

