-- ==== Sys2Proof/Machine/Frames.lean ====
section
/-! DEFINITION. Fabric frames: their words and checks (R250 to R252, R410), routes and paths (R253, R254),
sequence numbers and attempts (R256, R259), and the entry of a frame into the switch core (R226, R233,
R241, R244). -/

namespace Sys2Proof

open Sys2Proof.Machine

/-! ### The frame as words and bytes -/

/-- A frame with every field zero, on the direct path. -/
def Frame.blank : Frame where
  kind := 0
  tc := 0
  src := 0
  dst := 0
  via := 31
  pid := 0
  seq := 0
  pepoch := 0
  gen := 0
  resend := false
  retry := false
  ext := false
  op := 0
  fpa := 0
  tag := 0
  ep := 0
  context := 0
  status := 0
  li := 0
  scope := 0
  ord := 0
  owner := 0
  hchk := 0
  ecrc := 0
  oflag := 0
  be := 0
  origHome := 0
  origPepoch := 0
  origSrc := 0
  origSeq := 0
  payload := []
  tnum := 0
  part := 0
  lastPart := false
  hint := 0
  mtype := 0
  mmid := 0
  mlocal := 0
  agentKind := 0

/-- KIND codes of Table DLV-1. -/
abbrev kReq : Nat := 0
abbrev kRsp : Nat := 1
abbrev kStream : Nat := 2
abbrev kAck : Nat := 3
abbrev kCtrl : Nat := 4
/-- The model's own mark for a mirror copy that waits at the analysis port; no frame on a link has it. -/
abbrev kMirror : Nat := 15

/-- W0 of Table DLV-1. -/
def Frame.w0 (f : Frame) : Nat :=
  fld f.kind 4 60 ||| fld f.tc 3 57 ||| fld f.src 5 52 ||| fld f.dst 5 47 |||
  fld f.via 5 42 ||| fld f.pid 6 36 ||| fld f.seq 24 12 ||| fld f.pepoch 4 8 |||
  fld f.gen 1 7 ||| fld (b2n f.resend) 1 6 ||| fld (b2n f.retry) 1 5 ||| fld (b2n f.ext) 1 4

/-- W1. -/
def Frame.w1 (f : Frame) : Nat := fld f.op 8 56 ||| fld f.fpa 56 0

/-- W2: a STREAM frame has its own layout. -/
def Frame.w2 (f : Frame) : Nat :=
  if f.kind = kStream then fld f.tnum 32 32 ||| fld f.part 8 24 ||| fld (b2n f.lastPart) 1 23
  else fld f.tag 16 48 ||| fld f.ep 2 46 ||| fld f.context 10 36 ||| fld f.status 4 32 |||
    fld f.li 4 28 ||| fld f.scope 2 26 ||| fld f.ord 2 24 ||| fld f.owner 16 8

/-- W6. -/
def Frame.w6 (f : Frame) : Nat :=
  fld f.origHome 5 33 ||| fld f.origPepoch 4 29 ||| fld f.origSrc 5 24 ||| fld f.origSeq 24 0

/-- W4 to W7, present when EXT = 1. -/
def Frame.extWords (f : Frame) : List Nat :=
  if f.ext then [f.oflag % 2 ^ 56, f.be % 2 ^ 64, f.w6, 0] else []

/-- LEN: payload in 64-byte units; for a read part, the units it asks for (Table DLV-2). -/
def Frame.len (f : Frame) : Nat := if f.kind = kReq && f.op = 0x50 then f.part else cdiv f.payload.length 64

/-- HCHK (R250, R410): over W0 to W2 and, when EXT = 1, W4 to W7. -/
def Frame.hchkOf (f : Frame) : Nat := crc16 (wordBytes ([f.w0, f.w1, f.w2] ++ f.extWords))

/-- ECRC (R250, R410): over the header, HCHK and ECRC taken as zero, and the payload. -/
def Frame.ecrcOf (f : Frame) : Nat :=
  crc32c (wordBytes ([f.w0, f.w1, f.w2, fld f.len 7 41] ++ f.extWords) ++ f.payload)

/-- The header as it crosses a link. -/
def Frame.headBytes (f : Frame) : List Byte :=
  wordBytes ([f.w0, f.w1, f.w2, fld f.hchk 16 48 ||| fld f.len 7 41 ||| fld f.ecrc 32 0] ++ f.extWords)

/-- Both checks set. -/
def Frame.sealed (f : Frame) : Frame := { f with hchk := f.hchkOf, ecrc := f.ecrcOf }

/-- R250: cells of a frame. -/
def Frame.cells (f : Frame) : Nat :=
  cdiv ((if f.kind = kMirror then 0 else if f.ext then 64 else 32) + f.payload.length) 256

/-- FLOW_ID and SID of a STREAM frame, and of a credit return or abort notice, which name a stream in the
same place. -/
def Frame.flowOf (f : Frame) : Nat := bits f.fpa 55 40
def Frame.sidOf (f : Frame) : Nat := bits f.fpa 39 24

/-- R256: sequenced frames are REQ and STREAM frames, owner updates, abort and closing notices. -/
def Frame.sequenced (f : Frame) : Bool :=
  f.kind = kReq || f.kind = kStream || (f.kind = kCtrl && (f.op = 2 || f.op = 3 || f.op = 5))

/-- The REQ opcodes of Table DLV-2. -/
def opDefined (op : Nat) : Bool :=
  (0x10 ≤ op && op ≤ 0x16) || (0x20 ≤ op && op ≤ 0x26) || (0x30 ≤ op && op ≤ 0x37) ||
    (0x40 ≤ op && op ≤ 0x48) || (0x50 ≤ op && op ≤ 0x52) || (0x60 ≤ op && op ≤ 0x63)

/-- R251: a frame whose OP its kind defines. -/
def Frame.opOk (f : Frame) : Bool :=
  if f.kind = kReq || f.kind = kRsp then opDefined f.op
  else if f.kind = kCtrl then 1 ≤ f.op && f.op ≤ 5
  else f.kind = kStream || f.kind = kAck

/-- The ingress of the switch core at which a frame of this module starts. A STREAM frame, whose W2 has no EP field,
carries the code of its producer's die bridge in `ep`. Log entry 41 (DEDUCED). -/
def Frame.ingressOf (f : Frame) : Nat :=
  if f.kind = kReq && (f.op < 0x60) then 16 + f.ep % 4
  else if f.kind = kStream then f.ep
  else if f.kind = kReq || f.kind = kRsp then 24 + bits f.fpa 7 6
  else 32

end Sys2Proof

namespace Sys2Proof.Machine

open Sys2Proof

/-! ### Routes (R253, R254) -/

/-- The list L of R253 for module `i` and destination `d`. -/
def viaList (n i d : Nat) : List Nat :=
  ((List.range n).map fun k => (d + 1 + k) % n).filter fun m => m ≠ i && m ≠ d

/-- The default VIA1 (`second` false) or VIA2 (R253); 31 when N = 2. -/
def viaDefault (n i d : Nat) (second : Bool) : Nat :=
  let l := viaList n i d
  if l.length = 0 then 31
  else l.getD ((i + if second then (n - 2) / 2 else 0) % l.length) 31

/-- The default of a VIA entry of this module for destination `d`; an entry that names no peer reads 31.
Log entry 58 (DEDUCED). -/
def State.viaDef (s : State) (d : Nat) (second : Bool) : Nat :=
  if d < s.meshN && d ≠ s.mid then viaDefault s.meshN s.mid d second else 31

/-- A VIA entry: as written, or its default. Log entry 58 (DEDUCED). -/
def State.viaRd (s : State) (k d : Nat) (second : Bool) : Nat := (mfind s.od k).getD (s.viaDef d second)

/-- The intermediate of path `p` towards `d` in the active bank. -/
def State.viaOf (s : State) (d p : Nat) : Nat :=
  if p = 0 then 31 else if p = 1 then s.viaRd (K.via1Active d) d false else s.viaRd (K.via2Active d) d true

/-- R254: path `p` towards `d` is usable. -/
def State.usable (s : State) (d p : Nat) : Bool :=
  if p = 0 then s.linkUp d
  else
    let v := s.viaOf d p
    v ≠ 31 && v ≠ d && v ≠ s.mid && v < s.meshN && s.linkUp v && !(s.peer v).vmask.testBit d &&
      (s.peer v).vstate = 3 && !s.peerLost v

/-- R254: the path of an attempt that asks for path `p` of PATHS. -/
def State.choosePath (s : State) (d p paths : Nat) : Option Nat :=
  let ring := (List.range (paths + 1)).map fun k => (p + k) % (paths + 1)
  match ring.find? (s.usable d) with
  | some q => some q
  | none => [0, 1, 2].find? (s.usable d)

/-- R254: the path of a response, an ACK or a notice: direct, then the responder's own table. -/
def State.replyPath (s : State) (d : Nat) : Option Nat := [0, 1, 2].find? (s.usable d)

/-- R217: TC1 takes the direct path only. -/
def State.pathFor (s : State) (f : Frame) (p paths : Nat) : Option Nat :=
  if f.tc = 1 then (if s.usable f.dst 0 then some 0 else none) else s.choosePath f.dst p paths

/-- The fabric egress of a path. -/
def State.egressOf (s : State) (d p : Nat) : Nat :=
  if p = 0 then s.portTo d else s.portTo (s.viaOf d p)

/-! ### The switch core: watermarks and credits (R241, R242) -/

/-- Free cells of a quadrant (FREE_CELLS). -/
def State.freeCells (s : State) (q : Nat) : Nat := s.rd (K.freeCells0 + q)

/-- R241: the actions of a watermark start below it and end above it plus WM_HYST. -/
def State.markOne (s : State) (q w level : Nat) : State :=
  let free := s.freeCells q
  let on := nmGet s.sw.below (8 * q + w) 0
  if free < level then s.mapSw fun x => { x with below := mput x.below (8 * q + w) 1 }
  else if on = 1 && level + s.rd K.wmHyst < free then
    s.mapSw fun x => { x with below := mdel x.below (8 * q + w) }
  else s

/-- All three watermarks of a quadrant. -/
def State.marks (s : State) (q : Nat) : State :=
  ((s.markOne q 1 (s.rd K.wm1)).markOne q 2 (s.rd K.wm2)).markOne q 3 (s.rd K.wm3)

/-- A watermark's actions run in a quadrant. -/
def State.belowMark (s : State) (q w : Nat) : Bool := nmGet s.sw.below (8 * q + w) 0 = 1

/-- Table SWC-3: the credits of this class return on departure only. -/
def State.creditsHeld (s : State) (q tc : Nat) : Bool :=
  s.belowMark q 3 || (s.belowMark q 2 && [2, 5, 6, 7].contains tc) || (s.belowMark q 1 && (tc = 6 || tc = 7))

/-- Credits per class of an ingress (Table SWC-1). The controllers, which the table does not name, are not held to any.
Log entry 64 (DESIGN CHOICE). -/
def creditLimit (ingress : Nat) : Option Nat :=
  if ingress < 16 then some 256 else if ingress < 24 then some 128 else if ingress < 32 then some 64 else none

/-- The cells of an ingress and class whose credits have not returned. -/
def State.spent (s : State) (ingress tc : Nat) : Nat := nmGet s.sw.credits (8 * ingress + tc) 0

/-- The ingress holds the credits for `n` more cells of a class (R242). -/
def State.hasCredit (s : State) (ingress tc n : Nat) : Bool :=
  match creditLimit ingress with
  | none => true
  | some l => decide (s.spent ingress tc + n ≤ l)

/-- Return credits to an ingress: as many as it has spent at most. -/
def State.returnCredit (s : State) (ingress tc n : Nat) : State :=
  let k := 8 * ingress + tc
  let m := s.spent ingress tc
  if min n m = 0 then s
  else
    (s.mapSw fun x => { x with credits := if m ≤ n then mdel x.credits k else mput x.credits k (m - n) }).emit
      (.credit ingress tc (min n m))

/-- The credits of classes that no watermark of the quadrant holds any more return (R241). -/
def State.creditsBack (s : State) (q : Nat) : State :=
  s.each s.sw.credits fun s e =>
    if quadOf (e.1 / 8) = q && !s.creditsHeld q (e.1 % 8) then s.returnCredit (e.1 / 8) (e.1 % 8) e.2 else s

/-! ### Cells (R233, R234) -/

/-- The free-cell stack of a quadrant. -/
def State.stack (s : State) (q : Nat) : List (Nat × Nat) := s.sw.freeStacks.getD q []

/-- FREE_CELLS follows the stack, and the watermarks are judged. -/
def State.noteCells (s : State) (q : Nat) : State :=
  ((s.wr (K.freeCells0 + q) (runCount (s.stack q))).marks q).creditsBack q

/-- The quadrant of a pointer matches the stack, and its index is that of a cell. -/
def cellOk (q v : Nat) : Bool := v / 131072 = q && decide (v % 131072 < 98304)

/-- ALLOC of a cell. -/
def State.alloc (s : State) (v : Nat) : Bool := s.sw.frames.any fun c => c.ptrs.contains v

/-- R234: the reference count of a frame's cells: copies that no egress has finished, and the fountain's hold while it still
has copies to make of it. -/
def CoreFrame.refs (c : CoreFrame) : Nat := c.egr.length + c.started.length + b2n (!c.mirr.isEmpty)

/-- R234: the reference count of a cell: that of every frame that shares it (R243). -/
def State.cellRefs (s : State) (v : Nat) : Nat :=
  (s.sw.frames.filter fun c => c.ptrs.contains v).foldl (fun n c => n + c.refs) 0

/-- Pop `n` pointers that pass `ok`; `seen` gives what a read of a popped pointer shows where it shows another value. Answers
the pointers, how many failed, and what is left. The first argument bounds the pops. -/
def popCells (ok : List Nat → Nat → Bool) (seen : NMap) :
    Nat → Nat → List (Nat × Nat) → List Nat → Nat → List Nat × Nat × List (Nat × Nat)
  | 0, _, st, got, bad => (got, bad, st)
  | k + 1, n, st, got, bad =>
    if n = 0 then (got, bad, st)
    else
      match ringTake 1 st with
      | (p :: _, r) =>
        let v := nmGet seen p p
        if ok got v then popCells ok seen k (n - 1) r (got ++ [v]) bad else popCells ok seen k n r got (bad + 1)
      | ([], r) => (got, bad, r)

/-- R233: pointers of a quadrant that fail a check retire their cells. -/
def State.retireCells (s : State) (q n : Nat) : State :=
  if n = 0 then s
  else
    ((s.mapSw fun x => { x with retired := mput x.retired q (nmGet x.retired q 0 + n) }).bump K.cellPtrErrors n).logFault
      0x0E q 0 0 0 0 0

/-- R233: pop `n` cells of a quadrant: the pointer names a cell of it, and its ALLOC is 0. -/
def State.takeCells (s : State) (q n : Nat) (seen : NMap) : State × List Nat :=
  let r := popCells (fun got v => cellOk q v && !got.contains v && !s.alloc v) seen (n + 1025) n (s.stack q) [] 0
  (((s.mapSw fun x => { x with freeStacks := setAt x.freeStacks q r.2.2 }).retireCells q r.2.1).noteCells q, r.1)

/-- R233: push cells whose count has fallen to 0; a pointer that names none of them fails. -/
def State.pushCells (s : State) (q : Nat) (ps : List Nat) (seen : NMap) : State :=
  let r := ps.foldl (fun (a : List Nat × Nat) p =>
    let v := nmGet seen p p
    if cellOk q v && ps.contains v && !a.1.contains v then (a.1 ++ [v], a.2) else (a.1, a.2 + 1)) ([], 0)
  ((s.mapSw fun x => { x with freeStacks := setAt x.freeStacks q (r.1.foldr runPush (s.stack q)) }).retireCells q r.2).noteCells q

/-- The cells of a frame that no other frame shares: their count falls to 0 with it. -/
def State.ownCells (s : State) (c : CoreFrame) : List Nat :=
  c.ptrs.filter fun v => !(s.sw.frames.any fun d => d.id ≠ c.id && d.ptrs.contains v)

/-! ### Mirror sessions: selection of frames (R244, R245, R247) -/

/-- The analysis port in use: none for 0xFF, and for FP15 in a mesh of 17. -/
def State.analysis (s : State) : Option Nat :=
  let a := s.rd K.analysisPort
  if a = 0xFF || (a = 15 && 16 < s.meshN) then none else some a

/-- The PORT code of R217 at which a frame of this module enters: the attach port of its context (a bond by its lowest), or the
bridge of its station die; its other sources have none. -/
def State.sourcePort (s : State) (ingress : Nat) (f : Frame) : Option Nat :=
  if ingress < 16 || 24 ≤ ingress then none
  else if 20 ≤ ingress then some (ingress + 12)
  else if f.agentKind = 0 then (s.ctxOf (ingress - 16) f.context).map fun c => 16 + c.port
  else none

/-- How a session sees a frame at PORT `port` in direction `dir` (0 ingress, 1 egress or local source): the DIR and
PORT of its copy. 0x3F marks a local source; one with a PORT code of its own is an ingress there too. -/
def State.mirSeen (s : State) (n dir port ingress : Nat) (f : Frame) : Option (Nat × Nat) :=
  let want := s.rd (K.mirPort n)
  let here := port = 0x3F && s.sourcePort ingress f = some want
  match s.rd (K.mirMode n) with
  | 1 => if dir = 0 && port = want then some (0, port) else if here then some (0, want) else none
  | 2 => if dir = 1 && port = want && port ≠ 0x3F then some (1, port) else none
  | 3 => if port = want && port ≠ 0x3F then some (dir, port) else if here then some (0, want) else none
  | 4 => if f.kind = kStream && f.pid = s.rd (K.mirPid n) && f.flowOf = s.rd (K.mirFlow n) && (dir = 0 || port = 0x3F)
      then some (dir, port) else none
  | _ => none

/-- TC6 cells that wait at an egress. -/
def State.tc6Cells (s : State) (egr : Nat) : Nat :=
  (s.sw.frames.filter fun c => c.f.tc = 6 && c.egr.contains egr).foldl (fun n c => n + c.cells) 0

/-- R247: a copy of a frame in quadrant `q` is dropped: no analysis port, the quadrant below WM1, more than 1,024 cells at the
analysis egress, or a cap that has shed mirroring (Table PWR-4). -/
def State.copyBlocked (s : State) (q : Nat) : Bool :=
  match s.analysis with
  | none => true
  | some a => s.belowMark q 1 || decide (1024 < s.tc6Cells a) || decide (2 ≤ s.power.measures)

/-- A copy is dropped, and counted in DROPS (R247). -/
def State.dropCopy (s : State) (n q pid : Nat) : State := (s.bump (K.mirDrops n) 1).quadEv q 0x119 pid 1

/-- R244, R247: one session counts a matching frame; the SAMPLE_N-th is selected, and its copy is made
after the tail, or dropped at once. A selected copy takes the next copy number even if it is dropped. -/
def State.mirSelect (s : State) (n dir port ingress : Nat) (f : Frame) : State × List MirSel :=
  match (if f.kind = kMirror then none else s.mirSeen n dir port ingress f) with
  | none => (s, [])
  | some at_ =>
    let c := nmGet s.sw.sample n 0 + 1
    if c < s.rd (K.mirSampleN n) then (s.mapSw fun x => { x with sample := mput x.sample n c }, [])
    else
      let copy := nmGet s.sw.copySeq n 0
      let s1 := s.mapSw fun x => { x with sample := mput x.sample n 0
                                          copySeq := mput x.copySeq n ((copy + 1) % 2 ^ 32) }
      if s1.copyBlocked (quadOf ingress) then (s1.dropCopy n (quadOf ingress) f.pid, [])
      else (s1, [⟨n, copy, at_.1, at_.2, s.now⟩])

/-- All eight sessions. -/
def State.mirSelectAll (s : State) (dir port ingress : Nat) (f : Frame) : State × List MirSel :=
  (List.range 8).foldl (fun r n =>
    let x := r.1.mirSelect n dir port ingress f
    (x.1, r.2 ++ x.2)) (s, [])

/-! ### Entering the core -/

/-- R243: the cells of a tile's part that another copy of it holds since this very time: the copies share them. -/
def State.sharedCells (s : State) (ingress : Nat) (f : Frame) : Option (List Nat) :=
  if f.kind = kStream && decide (16 ≤ ingress) && !f.resend then
    (s.sw.frames.find? fun c => c.ingress = ingress && c.at_ = s.now && !c.parked && !c.ptrs.isEmpty && c.f.kind = kStream &&
      c.f.pid = f.pid && c.f.fpa = f.fpa && c.f.tnum = f.tnum && c.f.part = f.part).map CoreFrame.ptrs
  else none

/-- A frame enters the switch core for the egresses `egr`; it takes its cells (`seen` as for `popCells`), and its ingress spends
and regains credits (R226, R233, R241). `tail` is 1 for a frame that its source holds whole. -/
def State.coreIn (s : State) (ingress : Nat) (f : Frame) (egr : List Nat) (tail : Nat) (sel : List MirSel)
    (loc : Option (Nat × Nat)) (seen : NMap) : State :=
  let q := quadOf ingress
  match s.sharedCells ingress f with
  | some ptrs =>
    s.fresh.mapSw fun x => { x with frames := x.frames ++
      [⟨s.nextId, f, ingress, q, f.cells, egr, [], tail, s.now, false, [], false, sel, loc, ptrs⟩] }
  | none =>
    let r := s.takeCells q f.cells seen
    let s1 := r.1.fresh.mapSw fun x => { x with
      frames := x.frames ++ [⟨s.nextId, f, ingress, q, f.cells, egr, [], tail, s.now, false, [], false, sel, loc, r.2⟩]
      credits := mput x.credits (8 * ingress + f.tc) (s.spent ingress f.tc + f.cells) }
    let s2 := s1.quadEv q 0x101 f.pid f.cells
    if s2.creditsHeld q f.tc then s2.quadEv q 0x108 f.pid f.cells else s2.returnCredit ingress f.tc f.cells

/-- KEY_ID of the mirror key of a partition: its lowest-numbered MIRROR slot (R332). -/
def State.mirKey (s : State) (pid : Nat) : Option Nat :=
  (((List.range 6).map fun i => s.rd (K.keySlot pid (i + 2))).find? fun v => bits v 15 12 = 4).map fun v => v / 65536

/-- The bytes of a mirror copy (R247, Table SWC-4). Ciphertext, tag and IV come from a key that no state of the model
holds, so they are free bytes. -/
def State.mirBytes (s : State) (f : Frame) (m : MirSel) (bad : Bool) : List Byte :=
  let snap := s.rd (K.mirSnap m.session)
  let cut := if snap = 0 then 0 else if snap = 1 then min 256 f.payload.length else f.payload.length
  let key := s.mirKey f.pid
  let n := if key.isSome then cut else 0
  let free := fun k i => Config.freeByte ((s.free * 3 + k) * 8192 + i)
  let w0 := fld 0x4D39 16 48 ||| fld m.session 3 45 ||| fld m.dir 1 44 ||| fld m.port 6 38 ||| fld f.pid 6 32 ||| fld f.tc 3 29 |||
    fld (b2n bad) 1 28 ||| fld (b2n (decide (cut < f.payload.length))) 1 27 ||| fld (b2n key.isNone) 1 26
  let w2 := fld m.copy 32 32 ||| fld (f.headBytes.length + f.payload.length) 16 16 ||| fld n 16 0
  wordBytes [w0, m.time, w2, fld (key.getD 0) 16 48] ++ (List.range 8).map (free 0) ++ zeros 4 ++
    (List.range 4).map (fun i => free 0 (8 + i)) ++ zeros 16 ++ f.headBytes ++ (List.range n).map (free 1) ++
    (if snap = 0 || key.isNone then [] else (List.range 16).map (free 2))

/-- A selected copy enters the core in TC6 for the analysis port; it is dropped, and does not wait, where R247 says so or the
fountain's share has no credits left. -/
def State.mirOut (s : State) (f : Frame) (q : Nat) (bad : Bool) (m : MirSel) : State :=
  match s.analysis with
  | none => s.dropCopy m.session q f.pid
  | some a =>
    let g : Frame := { Frame.blank with
      kind := kMirror, tc := 6, src := s.mid, dst := s.mid, pid := f.pid, tag := m.session
      payload := s.mirBytes f m bad }
    if s.copyBlocked q || !s.hasCredit (28 + q) 6 g.cells then s.dropCopy m.session q f.pid
    else (s.draw.coreIn (28 + q) g [a] 1 [] none []).quadEv q 0x118 f.pid 1

/-- The copies that a frame's tail releases (R244, R247). -/
def State.mirFlush (s : State) (id : Nat) (bad : Bool) : State :=
  match s.sw.frames.find? fun c => c.id = id with
  | none => s
  | some c =>
    (s.mapSw fun x => { x with frames := mapIf (fun d => d.id = id) (fun d => { d with mirr := [] }) x.frames }).each c.mirr
      fun s m => s.mirOut c.f c.quad bad m

/-- A frame that this module holds whole enters the core from its source. -/
def State.sourceIn (s : State) (w : SrcFrame) : State :=
  let g := w.f.sealed
  let r := s.mirSelectAll 1 0x3F w.ingress g
  let s1 := (r.1.coreIn w.ingress g w.egrs 1 r.2 w.loc []).mirFlush r.1.nextId false
  if 1 < w.egrs.length then s1.quadEv (quadOf w.ingress) 0x118 w.f.pid w.egrs.length else s1

/-- The source may enter its frame: it has the credits, and no earlier frame of its class waits for them (R242). -/
def State.sourceReady (s : State) (w : SrcFrame) : Bool :=
  s.hasCredit w.ingress w.f.tc w.f.cells &&
    !(s.sw.srcq.any fun v => v.ingress = w.ingress && v.f.tc = w.f.tc)

/-- A source enters its frame, or waits with it. -/
def State.sourceWait (s : State) (w : SrcFrame) : State :=
  if s.sourceReady w then s.sourceIn w else s.mapSw fun x => { x with srcq := x.srcq ++ [w] }

/-- Sources that wait try again, in their order. -/
def State.pumpSources (s : State) : State :=
  let ws := s.sw.srcq
  (s.mapSw fun x => { x with srcq := [] }).each ws State.sourceWait

/-- A frame of this module enters the core as a local source; `loc` as in CoreFrame. -/
def State.sourceFrame (s : State) (ingress : Nat) (f : Frame) (egrs : List Nat) (loc : Option (Nat × Nat)) : State :=
  s.sourceWait ⟨ingress, f, egrs, loc⟩

/-- A frame of this module enters the core for one fabric egress. -/
def State.launchFrame (s : State) (f : Frame) (egr : Nat) : State := s.sourceFrame f.ingressOf f [egr] none

/-! ### Sequenced sending (R256, R259) -/

/-- R264 step 3: new REQ, STREAM and CTRL frames of these classes are held at their source. -/
def State.drainHeld (s : State) (tc : Nat) : Bool :=
  s.rd K.routeState ≠ 0 && [2, 4, 5, 7].contains tc

/-- One attempt of an open frame on a chosen path (none: nothing is sent). -/
def State.attempt (s : State) (o : OpenFrame) (p : Option Nat) : State × OpenFrame :=
  match p with
  | none => (s, { o with path := 3, sentAt := s.now })
  | some q =>
    let f := { o.f with via := s.viaOf o.f.dst q, resend := decide (0 < o.tries) }
    (s.launchFrame f (s.egressOf o.f.dst q),
      { o with path := q, sentAt := s.now,
               tried := insertOnce o.tried q })

/-- Replace an open frame of a pair. -/
def State.setOpen (s : State) (d : Nat) (o : OpenFrame) : State :=
  s.setPeer d fun p => { p with opens := mapIf (fun x => x.seq = o.seq) (fun _ => o) p.opens }

/-- Start a sequenced frame on the pair with `f.dst`: the next SEQ, the pair's PEPOCH, the active GEN, and
its first attempt on path `p` of `paths`. The 4,097th open frame of a pair waits, and so does a frame that a route
drain holds. -/
def State.sendSeq (s : State) (f : Frame) (p paths : Nat) (loc : Option (Nat × Nat)) : State :=
  let d := f.dst
  let pr := s.peer d
  if 4096 ≤ pr.opens.length || s.drainHeld f.tc then s.setPeer d fun x => { x with waitq := x.waitq ++ [(f, loc, p, paths)] }
  else
    let g := { f with seq := pr.outSeq, pepoch := pr.outEpoch, gen := s.rd K.routeGen, src := s.mid }
    let g := if g.origSrc = 31 then { g with origSrc := s.mid, origSeq := pr.outSeq, origPepoch := pr.outEpoch }
      else g
    let orig := if f.tc = 1 then 0 else p
    let o : OpenFrame := ⟨pr.outSeq, g, 0, orig, 3, [], false, s.now, loc⟩
    let s1 := s.setPeer d fun x => { x with outSeq := (x.outSeq + 1) % 2 ^ 24 }
    let r := s1.attempt o (s1.pathFor g p paths)
    r.1.setPeer d fun x => { x with opens := x.opens ++ [r.2] }

/-- A frame that waited for one of the 4,096 open places starts when one is free (R256). -/
def State.pumpPair (s : State) (d : Nat) : State :=
  let pr := s.peer d
  match pr.waitq with
  | [] => s
  | w :: r =>
    if pr.opens.length < 4096 && !s.drainHeld w.1.tc then
      (s.setPeer d fun x => { x with waitq := r }).sendSeq w.1 w.2.2.1 w.2.2.2 w.2.1
    else s

/-- Close an open frame of a pair. -/
def State.closeOpen (s : State) (d seq : Nat) : State :=
  (s.setPeer d fun p => { p with opens := p.opens.filter fun o => o.seq ≠ seq }).pumpPair d

/-- An unsequenced frame, a response or an ACK: dropped when no path is usable (R254). -/
def State.sendPlain (s : State) (f : Frame) : State :=
  match s.replyPath f.dst with
  | none => s
  | some p => s.launchFrame { f with src := s.mid, via := s.viaOf f.dst p, gen := s.rd K.routeGen }
      (s.egressOf f.dst p)

/-- R259: the resend order of a frame: the original path, then the others of 0, 1, 2 ascending. -/
def resendOrder (orig : Nat) : List Nat := orig :: [0, 1, 2].filter fun p => p ≠ orig

/-- R259: the path of the next attempt; the order restarts when no untried path is usable. -/
def State.nextPath (s : State) (o : OpenFrame) : Option Nat × List Nat :=
  if o.f.tc = 1 then (if s.usable o.f.dst 0 then some 0 else none, o.tried)
  else
    match (resendOrder o.orig).find? fun p => s.usable o.f.dst p && !o.tried.contains p with
    | some p => (some p, o.tried)
    | none => ((resendOrder o.orig).find? (s.usable o.f.dst), [])

/-- R259: the next attempt of an open frame, on the next path of its order; counted in RESENDS. -/
def State.resend (s : State) (o : OpenFrame) : State :=
  let n := s.nextPath o
  let r := (s.bump K.resends 1).attempt { o with tries := o.tries + 1, tried := n.2 } n.1
  r.1.setOpen o.f.dst r.2

/-- An ACK frame for sequence numbers of `d` (R258): its payload is one unit of 3-byte numbers. -/
def State.sendAck (s : State) (d epoch : Nat) (seqs : List Nat) : State :=
  s.sendPlain { Frame.blank with
    kind := kAck, dst := d, fpa := seqs.length, pepoch := epoch,
    payload := fitTo 64 ((seqs.map (leBytes 3)).flatten) }

/-! ### Link-state notices (R261, R263, R413) -/

/-- The payload of a notice: mask, state, PEPOCH and next SEQ of the pair. -/
def State.noticeTo (s : State) (d : Nat) : State :=
  let pr := s.peer d
  s.sendPlain { Frame.blank with
    kind := kCtrl, op := 1, dst := d,
    payload := fitTo 64 (wordBytes [s.rd K.peerMask, s.life.mstate.code, s.rd K.routeGen, pr.outEpoch, pr.outSeq]) }

/-- A notice to every peer that can be reached. Log entry 59 (DESIGN CHOICE). -/
def State.notices (s : State) : State := s.each s.peerMids State.noticeTo

end Sys2Proof.Machine
end

