-- ==== Sys2Proof/Machine/Translate.lean ====
section
/-! DEFINITION. Range tables, placement and the RTC (R30 to R45): index entries and descriptors, the walk,
the map from FVA to FPA, permissions, and the caches of an EP. -/

namespace Sys2Proof.Machine

open Sys2Proof

/-! ### Index entries and descriptors (Tables ADR-3, ADR-4) -/

def idxKind (e : Nat) : Nat := bits e 63 62
/-- ADDR as a local byte address. -/
def idxAddr (e : Nat) : Nat := bits e 50 5 * 32
def idxCount (e : Nat) : Nat := bits e 4 0

/-- The four words of a descriptor; reserved bits are ignored (R9). OFLAG is kept as a byte address. -/
def descOf (w0 w1 w2 w3 : Nat) : Desc where
  v := w0.testBit 63
  mtype := bits w0 62 60
  permH := w0.testBit 59
  permA := w0.testBit 58
  permW := w0.testBit 57
  permR := w0.testBit 56
  hint := bits w0 55 53
  paths := bits w0 52 51
  start := bits w0 44 0
  len := bits w1 39 0
  spread := w2.testBit 63
  gran := bits w2 62 61
  target := bits w2 60 44
  lbase := bits w2 38 0
  oflag := bits w3 53 0 * 8
  mmid := bits w3 43 39
  mlbase := bits w3 38 0

/-- Memory types (Table ADR-5). -/
abbrev mtNormal : Nat := 0
abbrev mtFlag : Nat := 1
abbrev mtOwned : Nat := 2
abbrev mtHostcoh : Nat := 3
abbrev mtMirrored : Nat := 4

/-- `fva` lies in the descriptor's START and LEN. -/
def Desc.holds (d : Desc) (fva : Nat) : Bool :=
  decide (d.start * 4096 ≤ fva) && decide (fva < (d.start + d.len) * 4096)

/-- Bytes of a spread granule. -/
def granBytes (g : Nat) : Nat := if g = 0 then 256 else if g = 1 then 4096 else 65536

/-- The members of a spread set, ascending; the home when S = 0. -/
def Desc.members (d : Desc) : List Nat := if d.spread then bitsSet d.target 17 else [d.target % 32]

/-- R38: the share of each member in bytes. -/
def Desc.share (d : Desc) : Nat :=
  if d.spread then
    let g := granBytes d.gran
    cdiv (cdiv (d.len * 4096) g) (max 1 d.members.length) * g
  else d.len * 4096

/-- The end of the region of Table ADR-2 in which a local address lies; 0 for a reserved one. -/
def regionEnd (a : Nat) : Nat :=
  match regionOf a with
  | .hbm => 0xC000000000
  | .expander n _ => expBase n + 0x20000000000
  | .export_ _ _ _ => 0x8000000000000
  | .reserved => 0

/-- R37: malformed descriptors. -/
def Desc.malformed (d : Desc) (n : Nat) : Bool :=
  decide (4 < d.mtype) || decide (4 < d.hint) || d.paths = 3 || (d.spread && d.gran = 3) ||
  d.len = 0 || decide (2 ^ 45 < d.start + d.len) ||
  (!d.spread && decide (n ≤ d.target % 32)) ||
  (d.spread && (d.target = 0 || decide (2 ^ n ≤ d.target))) ||
  (d.spread && d.len * 4096 % granBytes d.gran ≠ 0) ||
  decide (regionEnd (d.lbase * 4096) < d.lbase * 4096 + d.share) ||
  ((d.mtype = mtFlag || d.mtype = mtMirrored) && d.spread) ||
  (d.mtype = mtMirrored && (d.mmid = d.target % 32 || decide (n ≤ d.mmid)))

/-- R38: the FPA of an FVA inside a descriptor. -/
def Desc.map (d : Desc) (fva : Nat) : Nat :=
  let o := fva - d.start * 4096
  if d.spread then
    let g := granBytes d.gran
    let k := max 1 d.members.length
    let c := o / g
    let st := c / k
    let rot := (st ^^^ (st >>> 6) ^^^ (st >>> 12)) % k
    let m := (c % k + rot) % k
    d.members.getD m 0 * 2 ^ 51 + (d.lbase * 4096 + st * g + o % g)
  else d.target % 32 * 2 ^ 51 + (d.lbase * 4096 + o)

/-- HOME and LOCAL of an FPA (Table ADR-1). -/
def fpaHome (a : Nat) : Nat := bits a 55 51
def fpaLocal (a : Nat) : Nat := bits a 50 0

/-- R39: the pseudo-channel of an HBM local address. -/
def pseudoChannel (a : Nat) : Nat := bits a 15 8 ^^^ bits a 23 16 ^^^ bits a 31 24 ^^^ bits a 39 32

/-! ### Permissions (R43) -/

/-- What an access needs: PERM_R, PERM_W or PERM_A, and whether it is a tile access. -/
structure Need where
  r : Bool
  w : Bool
  a : Bool
  tile : Bool
  deriving DecidableEq, Repr

def needOf (acc : Acc) (isDst : Bool) : Need :=
  match acc with
  | .load => ⟨true, false, false, false⟩
  | .store => ⟨false, true, false, false⟩
  | .atomic => ⟨false, false, true, false⟩
  | .tileRead => ⟨true, false, false, true⟩
  | .tileWrite => ⟨false, true, false, true⟩
  | .hint => ⟨true, false, false, false⟩
  | .copy => if isDst then ⟨false, true, false, false⟩ else ⟨true, false, false, false⟩
  | .fence => ⟨false, false, false, false⟩
  | .inval => ⟨false, false, false, false⟩

/-- Reasons of Table ADR-6. -/
abbrev rUnmapped : Nat := 1
abbrev rPerm : Nat := 2
abbrev rType : Nat := 3
abbrev rMalformed : Nat := 4

/-- R43: the reason why a descriptor does not permit an access; TYPE when both apply. -/
def Desc.denies (d : Desc) (n : Need) (fromHost : Bool) : Option Nat :=
  if n.tile && d.mtype = mtFlag then some rType
  else if (n.r && !d.permR) || (n.w && !d.permW) || (n.a && !d.permA) || (fromHost && !d.permH) then some rPerm
  else none

/-- R43: the status of a reason. -/
def reasonStatus (r : Nat) : Nat := if r = rUnmapped || r = rMalformed then Status.unmapped else Status.perm

/-! ### The walk (R42, R44) -/

/-- The leaf of a partition whose RANGE_ROOT is 0 (R48). -/
def rootLeaf : Nat := 0x7FFFFFFFFFFFF

/-- How a walk ends: a descriptor that holds the address and is well formed, or a reason; with the leaf,
and the index entries of levels 3 to 1 that it read. -/
structure WalkEnd where
  leaf : Nat
  got : Option Desc
  reason : Nat
  path : List (Nat × Nat)
  deriving DecidableEq, Repr

/-- The 8-byte word of local memory at `a`. -/
def State.word (s : State) (a : Nat) : Nat := leNat (s.peek a 8)

/-- A node-cache entry of the EP and PID, if it holds the index entry at `a`. -/
def State.nodeHit (s : State) (ep pid a : Nat) : Option Nat :=
  (s.xl.nodes.find? fun n => n.ep = ep && n.pid = pid && n.addr = a).map NodeEntry.val

/-- A descriptor in local memory. -/
def State.descAt (s : State) (a : Nat) : Desc := descOf (s.word a) (s.word (a + 8)) (s.word (a + 16)) (s.word (a + 24))

/-- The first of `n` descriptors from `a` that holds `fva`. -/
def State.listFind (s : State) (fva : Nat) : Nat → Nat → Option Desc
  | _, 0 => none
  | a, n + 1 => if (s.descAt a).holds fva then some (s.descAt a) else s.listFind fva (a + 32) n

/-- R42, after the descriptor is found. A poisoned line read by the walk ends it with MALFORMED (R382). -/
def State.walkDesc (s : State) (fva leaf : Nat) (path : List (Nat × Nat)) (d : Option Desc) (bad : Bool) : WalkEnd :=
  if bad then ⟨leaf, none, rMalformed, path⟩
  else
    match d with
    | none => ⟨leaf, none, rUnmapped, path⟩
    | some d =>
      if !d.v || !d.holds fva then ⟨leaf, none, rUnmapped, path⟩
      else if d.malformed s.meshN then ⟨leaf, none, rMalformed, path⟩
      else ⟨leaf, some d, 0, path⟩

/-- R42: the walk from level `l` downward, at the node `a`; `path` gathers the index entries of levels 3
to 1 that it met. -/
def State.walkFrom (s : State) (ep pid fva : Nat) : Nat → Nat → List (Nat × Nat) → WalkEnd
  | 0, a, path =>
    let leaf := a + 8 * (fva / 2 ^ 21 % 512)
    let e := s.word leaf
    if s.poisoned (lineOf leaf) then ⟨leaf, none, rMalformed, path⟩
    else if idxKind e = 0 then ⟨leaf, none, rUnmapped, path⟩
    else if idxKind e = 1 then ⟨leaf, none, rMalformed, path⟩
    else if idxKind e = 2 then
      s.walkDesc fva leaf path (some (s.descAt (idxAddr e))) (s.spanPoisoned (idxAddr e) 32)
    else
      s.walkDesc fva leaf path (s.listFind fva (idxAddr e) (idxCount e + 1))
        (s.spanPoisoned (idxAddr e) (32 * (idxCount e + 1)))
  | l + 1, a, path =>
    let leaf := a + 8 * (fva / 2 ^ (21 + 9 * (l + 1)) % 512)
    let hit := s.nodeHit ep pid leaf
    let e := hit.getD (s.word leaf)
    if hit.isNone && s.poisoned (lineOf leaf) then ⟨leaf, none, rMalformed, path⟩
    else if idxKind e = 0 then ⟨leaf, none, rUnmapped, path⟩
    else if idxKind e = 1 then
      if idxAddr e % 4096 = 0 && decide (idxAddr e < hbmBytes s) then
        s.walkFrom ep pid fva l (idxAddr e) (path ++ [(leaf, e)])
      else ⟨leaf, none, rMalformed, path⟩
    else if idxKind e = 2 then
      s.walkDesc fva leaf (path ++ [(leaf, e)]) (some (s.descAt (idxAddr e))) (s.spanPoisoned (idxAddr e) 32)
    else ⟨leaf, none, rMalformed, path⟩

/-- R42: the walk of `fva` for a partition on an EP. -/
def State.walk (s : State) (ep pid fva : Nat) : WalkEnd :=
  let a := s.rd (K.rangeRoot pid)
  if a = 0 then ⟨rootLeaf, none, rUnmapped, []⟩ else s.walkFrom ep pid fva 3 a []

/-! ### The RTC and the node cache (R41) -/

/-- The slot of an FVA: FVA[56:21]. -/
def slotOf (fva : Nat) : Nat := fva / 2 ^ 21

/-- An RTC hit: equal EP, PID and slot, and the FVA inside the descriptor. -/
def State.rtcHit (s : State) (ep pid fva : Nat) : Option Desc :=
  (s.xl.rtc.find? fun e => e.ep = ep && e.pid = pid && e.slot = slotOf fva && e.d.holds fva).map RtcEntry.d

/-- Drop the entry of a slot that holds `fva`. -/
def State.rtcDrop (s : State) (ep pid fva : Nat) : State :=
  s.mapXl fun x => { x with
    rtc := x.rtc.filter fun e => !(e.ep = ep && e.pid = pid && e.slot = slotOf fva && e.d.holds fva) }

/-- Give up element `Config.victim` of the elements that satisfy `p`. -/
def evictOne {α : Type} (p : α → Bool) (k : Nat) (l : List α) : List α :=
  let n := (l.filter p).length
  let rec go : Nat → List α → List α
    | _, [] => []
    | i, a :: r => if p a then (if i = 0 then r else a :: go (i - 1) r) else a :: go i r
  if n = 0 then l else go (k % n) l

/-- Fill the RTC: 1,024 sets of 4 ways by a hash the source does not state. -/
def State.rtcFill (s : State) (ep pid slot : Nat) (d : Desc) : State :=
  let rest := s.xl.rtc.filter fun e => !(e.ep = ep && e.pid = pid && e.slot = slot && e.d = d)
  let mine := rest.filter fun e => e.ep = ep
  if mine.length < 4 then s.mapXl fun x => { x with rtc := rest ++ [⟨ep, pid, slot, d⟩] }
  else
    let set := Config.rtcSet pid slot % 1024
    let inSet := fun (e : RtcEntry) => e.ep = ep && Config.rtcSet e.pid e.slot % 1024 = set
    let kept := if (rest.filter inSet).length < 4 then rest else evictOne inSet (Config.victim s.free) rest
    (s.mapXl fun x => { x with rtc := kept ++ [⟨ep, pid, slot, d⟩] }).draw

/-- Put the index entries of a successful walk into the node cache of 256 entries. -/
def State.nodeFill (s : State) (ep pid : Nat) (path : List (Nat × Nat)) : State :=
  s.each path fun s pv =>
    let rest := s.xl.nodes.filter fun n => !(n.ep = ep && n.pid = pid && n.addr = pv.1)
    let mine := fun (n : NodeEntry) => decide (n.ep = ep)
    let kept := if (rest.filter mine).length < 256 then rest else evictOne mine (Config.victim s.free) rest
    (s.mapXl fun x => { x with nodes := kept ++ [⟨ep, pid, pv.1, pv.2⟩] }).draw

/-! ### The reach cache (R65 to R67) -/

/-- Lines of a 32 MiB reach cache. -/
def reachLines : Nat := 524288

def State.reachHit (s : State) (ep pid line : Nat) : Option (List Byte) :=
  (s.xl.reach.find? fun r => r.ep = ep && r.pid = pid && r.line = line).map ReachLine.data

/-- Drop the lines that satisfy `p`; fills in flight of such lines are not installed (R67). -/
def State.reachDrop (s : State) (p : Nat → Nat → Nat → Bool) : State :=
  let gone := s.xl.reach.filter fun r => p r.ep r.pid r.line
  let s1 := s.each gone fun s r => s.epEv r.ep 0x207 r.pid 1
  s1.mapXl fun x => { x with
    reach := x.reach.filter fun r => !p r.ep r.pid r.line
    filling := x.filling.map fun f => if p f.ep f.pid f.line then { f with live := false } else f }

/-- Clear a partition's lines in one EP. -/
def State.reachClear (s : State) (ep pid : Nat) : State := s.reachDrop fun e p _ => e = ep && p = pid

/-- Drop single lines in one EP (a write issued through it, R66; a short INVAL, R68). -/
def State.reachDropLines (s : State) (ep pid : Nat) (ls : List Nat) : State :=
  if ls.isEmpty then s else s.reachDrop fun e p l => e = ep && p = pid && ls.contains l

/-- Install a line. -/
def State.reachPut (s : State) (ep pid line : Nat) (data : List Byte) : State :=
  let rest := s.xl.reach.filter fun r => !(r.ep = ep && r.pid = pid && r.line = line)
  let mine := fun (r : ReachLine) => decide (r.ep = ep)
  if (rest.filter mine).length < reachLines then
    s.mapXl fun x => { x with reach := rest ++ [⟨ep, pid, line, data⟩] }
  else (s.mapXl fun x => { x with reach := evictOne mine (Config.victim s.free) rest ++ [⟨ep, pid, line, data⟩] }).draw

end Sys2Proof.Machine
end

