-- ==== Sys2Proof/Machine/Requests.lean ====
section
/-! DEFINITION. Transactions: their agents, completion (R72, R299 to R302), translation of a whole request
(R42, R47, R84, R89), and translation faults (R48 to R52). -/

namespace Sys2Proof.Machine

open Sys2Proof

/-! ### Transactions and agents -/

/-- A transaction with nothing set. -/
def Tx.blank : Tx where
  id := 0
  agent := .reader 0
  pid := 0
  owner := 0
  dest := .internal
  acc := .load
  sub := 0
  wide := false
  scope := 0
  ord := 0
  own := false
  bulk := false
  fromHost := false
  addr := 0
  len := 0
  tile := none
  dst := 0
  data := []
  covered := 0
  cursor := 0
  operand := 0
  compare := 0
  poi := false
  xst := .ready
  relTx := 0
  waits := []
  counted := []
  fails := []
  tmo := false
  charged := 0
  stop := none
  closed := false
  firstFail := 0
  parts := []
  idx := []
  last := true
  li := 0

def State.txOf (s : State) (id : Nat) : Option Tx := s.req.txs.find? fun t => t.id = id

/-- A new transaction, whose identifier is the next one. -/
def State.putTx (s : State) (t : Tx) : State := { s with nextId := t.id + 1, req := { s.req with txs := s.req.txs ++ [t] } }

def State.setTx (s : State) (t : Tx) : State :=
  s.mapReq fun r => { r with txs := mapIf (fun u => u.id = t.id) (fun _ => t) r.txs }

def State.dropTx (s : State) (id : Nat) : State :=
  s.mapReq fun r => { r with txs := r.txs.filter fun u => u.id ≠ id }

/-- The EP that serves an agent (R42). -/
def agentEp : Agent → Nat
  | .ctx ep _ => ep
  | .queue ep _ => ep
  | .window cp => cp
  | .core sd _ _ => sd
  | .reader ep => ep

/-- The CONTEXT field of Table ADR-6 for an agent. The table gives a station core no number; the model takes
8 × cluster + core. Log entry 63 (DESIGN CHOICE). -/
def agentContext : Agent → Nat
  | .ctx _ n => n
  | .queue _ n => n
  | .window cp => cp
  | .core _ c n => 8 * c + n
  | .reader _ => 0

/-- SOURCE of Table ADR-6, and the kind that travels beside a frame: 4 for the module's own readers. -/
def agentSource : Agent → Nat
  | .ctx _ _ => 0
  | .window _ => 1
  | .queue _ _ => 2
  | .core _ _ _ => 3
  | .reader _ => 4

def State.agentOf (s : State) (a : Agent) : Option AgentSt := s.req.agents.find? fun x => x.agent = a

def State.setAgent (s : State) (a : Agent) (f : AgentSt → AgentSt) : State :=
  s.mapReq fun r => { r with agents := mapIf (fun x => x.agent = a) f r.agents }

/-- An agent's weir bucket starts full when it is bound (R103); its release count starts there (R72). -/
def State.addAgent (s : State) (a : Agent) (pid owner : Nat) : State :=
  s.mapReq fun r => { r with
    agents := (r.agents.filter fun x => x.agent ≠ a) ++
      [⟨a, pid, owner, (s.rd (K.weirDepth pid) * 10000 : Nat), [], [], [], [], false⟩] }

def State.needAgent (s : State) (a : Agent) (pid owner : Nat) : State :=
  if (s.agentOf a).isSome then s else s.addAgent a pid owner

/-- Open transactions of an agent. -/
def State.txsOf (s : State) (a : Agent) : List Tx := s.req.txs.filter fun t => t.agent = a && !t.closed

/-- R71: an access, fence or INVAL that later accesses of its agent must wait for. -/
def Tx.acquires (t : Tx) : Bool :=
  match t.acc with
  | .inval => true
  | _ => t.ord = 1 || t.ord = 3

/-- A write in the sense of R72 step 2. -/
def Acc.writes : Acc → Bool
  | .store => true
  | .atomic => true
  | .tileWrite => true
  | .copy => true
  | _ => false

/-- Transactions that a new access must wait for: open acquiring ones, and for a write also open release
fences, which order later writes whatever their status (R72). Log entry 33 (DEDUCED). -/
def State.blockers (s : State) (a : Agent) (acc : Acc) : List Nat :=
  ((s.txsOf a).filter fun t => t.acquires || (t.acc = .fence && acc.writes)).map Tx.id

/-! ### Results -/

/-- The status of a transaction whose parts have all ended. -/
def Tx.result (t : Tx) : Nat :=
  match t.stop with
  | some st => st
  | none =>
    match t.parts with
    | [] => Status.ok
    | [p] => p.status
    | ps =>
      if ps.all fun p => p.status = Status.ok then Status.ok
      else if t.acc = .hint then t.firstFail
      else Status.partialSt

/-- R302: FAILMAP, the chunks of the parts that did not complete with OK. -/
def Tx.failmap (t : Tx) : Nat :=
  t.parts.foldl (fun m p => if p.stage = .done && p.status = Status.ok then m else m ||| p.mask) 0

/-- The bytes read; a part that failed reads as zeros (R302). -/
def Tx.readData (t : Tx) : List Byte :=
  t.parts.foldl (fun d p => if p.isDst || p.status ≠ Status.ok then d else patch d p.off p.data) (zeros t.len)

/-- R301: the RSPD messages of a tile read, at most 4 KiB each. -/
def State.sendRspd (s : State) (ep n tag : Nat) (t : Tx) : State :=
  let d := t.readData
  s.each (List.range (cdiv t.len 4096)) fun s i =>
    let bad := t.parts.any fun p => p.status ≠ Status.ok && decide (p.off < 4096 * i + 4096) &&
      decide (4096 * i < p.off + p.len)
    s.capSend { CapOut.to ep n tag 0x21 with
      arg := 4096 * i, poi := bad, last := decide (t.len ≤ 4096 * i + 4096)
      data := fitTo (min 4096 (64 * cdiv (t.len - 4096 * i) 64)) ((d.drop (4096 * i)).take 4096) }

/-- The RSP of a transaction (R297, R302). -/
def State.sendRsp (s : State) (ep n tag : Nat) (t : Tx) (st : Nat) : State :=
  let arg := if st = Status.partialSt then t.firstFail else 0
  let aux := if st = Status.partialSt then t.failmap else 0
  match t.acc with
  | .load => s.capSend { CapOut.to ep n tag 0x20 with
      status := st, li := t.li, arg := arg, aux := aux, poi := decide (st = Status.poison)
      data := fitTo (64 * cdiv t.len 64) t.readData }
  | .atomic => s.rsp ep n tag st t.li arg aux (fitTo 64 t.readData)
  | .tileRead => (s.sendRspd ep n tag t).rsp ep n tag st t.li arg aux []
  | _ => s.rsp ep n tag st t.li arg aux []

/-- R288: a failed host write is a General Media Event record with its interrupt; a failed host read
returns poisoned data. -/
def State.hostAnswer (s : State) (cp hpa : Nat) (wr : Bool) (st : Nat) (data : List Byte) : State :=
  if wr && st ≠ Status.ok then
    ((s.setCp cp fun p => { p with events := p.events + 1 }).emit (.hostEvent cp hpa st)).emit (.host cp hpa st [])
  else s.emit (.host cp hpa st data)

/-- Hand a result to where the transaction came from. A station, a copy queue and a load of the module take theirs in a step of
their own, so the transaction stays, closed. A TWR answered before its last TWD has those discarded (R301). -/
def State.deliver (s : State) (t : Tx) (st : Nat) : State :=
  match t.dest with
  | .cap ep _ n tag =>
    let s1 := if t.acc = .tileWrite && !t.last then
        s.setCtx ep n fun c => { c with discard := insertOnce c.discard tag }
      else s
    (s1.sendRsp ep n tag t st).dropTx t.id
  | .stn _ => s.setTx { t with closed := true, stop := some st }
  | .copyQ _ _ _ => s.setTx { t with closed := true, stop := some st }
  | .module => s.setTx { t with closed := true, stop := some st }
  | .host cp hpa => (s.hostAnswer cp hpa (t.acc = .store) st t.readData).dropTx t.id
  | .internal => s.dropTx t.id

/-- R72: what a release records of an access that ended. -/
def failOf (t : Tx) (st : Nat) : List Nat :=
  if t.acc.writes && st ≠ Status.ok then [if st = Status.partialSt then t.firstFail else st] else []

/-- The agent's count and every waiting transaction see that `t` has ended with `st`; a fence counts it only when the access
was issued since the release before (R72). A write-back that a RACK release started counts into that release.
Log entry 61 (DESIGN CHOICE). -/
def State.noteDone (s : State) (t : Tx) (st : Nat) : State :=
  s.mapReq fun r => { r with
    agents := r.agents.map fun a =>
      if a.relOpen.contains t.id then
        { a with relOpen := removeAll a.relOpen [t.id], relFails := a.relFails ++ failOf t st,
                 relTmo := a.relTmo || t.tmo }
      else a
    txs := r.txs.map fun u =>
      if u.waits.contains t.id then
        if u.acc = .fence then
          { u with
            waits := removeAll u.waits [t.id]
            fails := if u.counted.contains t.id then u.fails ++ failOf t st else u.fails
            tmo := u.tmo || (u.counted.contains t.id && t.tmo) }
        else { u with waits := removeAll u.waits [t.id] }
      else u }

/-- A transaction ends before its fills do: they install nothing, and the loads that merged onto them issue anew (R66). -/
def State.dropFills (s : State) (id : Nat) : State :=
  let mine := fun (p : Part) => p.stage = .issued && p.merged.any fun m => m.1 = id
  let anew := fun (p : Part) => { p with stage := .ready, merged := none }
  if s.xl.filling.any fun f => f.tx = id then
    (s.mapXl fun x => { x with filling := x.filling.filter fun f => f.tx ≠ id }).mapReq fun r => { r with
      txs := r.txs.map fun u => { u with parts := mapIf mine anew u.parts } }
  else s

/-- Complete a transaction: an acquiring access of RACK scope clears its partition's reach-cache lines
(R67, R71), releases see it, and its result is delivered. -/
def State.completeTx (s : State) (t : Tx) (st : Nat) : State :=
  let s1 := if t.scope = 2 && t.acquires && t.acc ≠ .inval then s.reachClear (agentEp t.agent) t.pid else s
  let s2 := if st = Status.ownerConflict then s1.epEv (agentEp t.agent) 0x211 t.pid 1 else s1
  ((s2.dropFills t.id).noteDone t st).deliver t st

/-- Every part has ended, and no data is still to come. -/
def Tx.finished (t : Tx) : Bool :=
  t.xst = .ready && t.last && t.parts.all fun p => p.stage = .done

/-- One part of a transaction ends. -/
def State.partDone (s : State) (tid pi st li : Nat) (data : List Byte) (tmo : Bool) : State :=
  match s.txOf tid with
  | none => s
  | some t =>
    if t.closed then s
    else
      let ps := (t.parts.zip (List.range t.parts.length)).map fun x =>
        if x.2 = pi then { x.1 with stage := .done, status := st, data := data } else x.1
      let t1 := { t with
        parts := ps
        li := li
        tmo := t.tmo || tmo
        firstFail := if t.firstFail = 0 && st ≠ Status.ok then st else t.firstFail }
      if t1.finished then s.completeTx t1 t1.result else s.setTx t1

/-! ### Faults (R48 to R52) -/

/-- ACCESS of Table ADR-6. The table names no code for a copy; the model writes a load for its source and a store for its
destination. Log entry 63 (DESIGN CHOICE). -/
def accessCode (t : Tx) (isDst : Bool) : Nat :=
  match t.acc with
  | .load => 0 | .store => 1 | .atomic => 2 | .tileRead => 3 | .tileWrite => 4 | .hint => 5
  | .copy => if isDst then 1 else 0
  | .fence => 0 | .inval => 0

/-- `k` or the first number after it, modulo 2^w, that is not in use. Log entry 10 (DESIGN CHOICE). -/
def unusedFrom (m : Nat) (used : List Nat) : Nat → Nat → Nat
  | 0, k => k % m
  | n + 1, k => if used.contains (k % m) then unusedFrom m used n (k + 1) else k % m

/-- The open record of a leaf. -/
def State.recOf (s : State) (pid leaf : Nat) : Option FaultRec :=
  s.xl.recs.find? fun r => r.pid = pid && r.leaf = leaf

def State.setRec (s : State) (rid pid : Nat) (f : FaultRec → FaultRec) : State :=
  s.mapXl fun x => { x with recs := mapIf (fun r => r.rid = rid && r.pid = pid) f x.recs }

/-- The slot of a record lies in the unconsumed part of the ring. -/
def State.unconsumed (s : State) (pid slot : Nat) : Bool :=
  let n := s.rd (K.faultRingEntries pid)
  let h := s.rd (K.faultRingHead pid)
  let t := s.rd (K.faultRingTail pid)
  n ≠ 0 && decide ((slot + n - t) % n < (h + n - t) % n)

/-- R52: rewrite W4 of an open record while its slot is unconsumed. -/
def State.rewriteW4 (s : State) (rid pid : Nat) : State :=
  match s.xl.recs.find? fun r => r.rid = rid && r.pid = pid with
  | none => s
  | some r =>
    if r.inRing && s.unconsumed pid r.slot then
      s.store (s.rd (K.faultRingBase pid) + 64 * r.slot + 32)
        (leBytes 8 (b2n r.dropped <<< 63 ||| r.coalesced))
    else s

/-- Requests parked on records. -/
def State.parkedCount (s : State) : Nat :=
  (s.req.txs.filter fun t => match t.xst with | .parked _ => !t.closed | _ => false).length

/-- A fault record as eight words (Table ADR-6). -/
def faultWords (phase reason st pid ep context source access row rid fva leaf time : Nat) (dropped : Bool) : List Nat :=
  [phase <<< 63 ||| reason <<< 59 ||| st <<< 55 ||| pid <<< 49 ||| ep <<< 47 ||| context <<< 37 |||
     source <<< 34 ||| access <<< 31 ||| row <<< 23 ||| rid,
   fva % 2 ^ 57, leaf, time, b2n dropped <<< 63, 0, 0, 0]

/-- The ring is full, or has no entries (R52). -/
def State.ringFull (s : State) (pid : Nat) : Bool :=
  let n := s.rd (K.faultRingEntries pid)
  n = 0 || (s.rd (K.faultRingHead pid) + 1) % n = s.rd (K.faultRingTail pid)

/-- A translation fault of a transaction (R48): it parks on the open record of its leaf, or opens one; a read of the module's own,
for which Table ADR-6 has no source, ends its command with the fault's status (R126). COALESCED counts the
faults that came after the one that opened the record (log entry 63, DESIGN CHOICE). RECORD_ID: log entry 10
(DESIGN CHOICE). -/
def State.faultTx (s : State) (t : Tx) (reason leaf fva row : Nat) (isDst : Bool) : State :=
  let st := reasonStatus reason
  let ep := agentEp t.agent
  let full := decide (4096 ≤ s.parkedCount)
  if t.dest = .module then s.completeTx t st
  else match s.recOf t.pid leaf with
  | some r =>
    if full then
      ((s.setRec r.rid r.pid fun x => { x with dropped := true }).rewriteW4 r.rid r.pid).completeTx t st
    else
      (((s.setRec r.rid r.pid fun x => { x with coalesced := min 65535 (x.coalesced + 1) }).setTx
        { t with xst := .parked r.rid }).rewriteW4 r.rid r.pid).epEv ep 0x20E t.pid 1
  | none =>
    if s.ringFull t.pid then (s.bump (K.faultsLost t.pid) 1).completeTx t st
    else
      let rid := unusedFrom 65536 (s.xl.recs.map FaultRec.rid) 65536 (Config.freshId s.free % 65536)
      let slot := s.rd (K.faultRingHead t.pid)
      let n := s.rd (K.faultRingEntries t.pid)
      let phase := nmGet s.xl.phase t.pid 1
      let w := faultWords phase reason st t.pid ep (agentContext t.agent) (agentSource t.agent)
        (accessCode t isDst) row rid fva leaf s.now full
      let s1 := s.draw.store (s.rd (K.faultRingBase t.pid) + 64 * slot) (wordBytes w)
      let s2 := s1.wr (K.faultRingHead t.pid) ((slot + 1) % n)
      let s3 := s2.mapXl fun x => { x with
        recs := x.recs ++ [⟨rid, t.pid, leaf, st, reason, 0, full, slot, true⟩]
        phase := if slot + 1 = n then mput x.phase t.pid (1 - phase) else x.phase }
      let s4 := s3.epEv ep 0x20D t.pid 1
      if full then s4.completeTx t st else (s4.setTx { t with xst := .parked rid }).epEv ep 0x20E t.pid 1

/-! ### Translation of a whole request (R42, R47) -/

/-- A run of bytes that a request names: FVA, length, offset in its payload, FAILMAP chunks, tile row. -/
structure Seg where
  fva : Nat
  len : Nat
  off : Nat
  mask : Nat
  row : Nat
  isDst : Bool
  deriving DecidableEq, Repr

/-- R114: exponent row bytes of an SQ format. -/
def expRow (fmt rbytes : Nat) : Nat :=
  if fmt = 2 then rbytes / 16 else if fmt = 3 then rbytes / 32 else if fmt = 4 then rbytes / 64 else 0

/-- The 4 KiB chunks of `[off, off + len)` as a mask. -/
def chunkMask (off len : Nat) : Nat :=
  ((List.range ((off + len - 1) / 4096 + 1)).filter fun i => decide (off / 4096 ≤ i)).foldl setBit 0

/-- The rows that a tile request moves: all, or those an index names (TGATH). -/
def Tx.rowList (t : Tx) (d : TDesc) : List Nat := if t.idx.isEmpty then List.range d.rows else t.idx

/-- Payload bytes of a tile: element rows, then exponent rows (R117). -/
def tileBytes (rows rbytes fmt : Nat) : Nat := rows * rbytes + rows * expRow fmt rbytes

/-- Insert a pair before the first one with a greater first component. -/
def insertPair (x : Nat × Nat) : List (Nat × Nat) → List (Nat × Nat)
  | [] => [x]
  | y :: r => if x.1 < y.1 then x :: y :: r else y :: insertPair x r

/-- Pairs in the order of their first components. -/
def sortPairs (l : List (Nat × Nat)) : List (Nat × Nat) := l.foldl (fun acc x => insertPair x acc) []

/-- The segments of a tile, lowest-numbered row first, wherever an index list names it; within a row the lower address
first (R47, R168). -/
def tileSegs (t : Tx) (d : TDesc) : List Seg :=
  let rows := t.rowList d
  let n := rows.length
  let xb := expRow d.fmt d.rbytes
  ((sortPairs (rows.zip (List.range n))).map fun x =>
    let e : Seg := ⟨d.base + x.1 * d.pitch, d.rbytes, x.2 * d.rbytes, chunkMask (x.2 * d.rbytes) d.rbytes, x.1, false⟩
    if xb = 0 then [e]
    else
      let y : Seg := ⟨d.xbase + x.1 * d.xpitch, xb, n * d.rbytes + x.2 * xb, chunkMask (x.2 * d.rbytes) d.rbytes, x.1, false⟩
      if y.fva < e.fva then [y, e] else [e, y]).flatten

/-- The segments of a request. -/
def Tx.segs (t : Tx) : List Seg :=
  match t.acc with
  | .tileRead => (t.tile.map (tileSegs t)).getD []
  | .tileWrite => (t.tile.map (tileSegs t)).getD []
  | .copy =>
    (if t.sub / 2 = 0 then [⟨t.addr, t.len, 0, 0, 0, false⟩] else []) ++
      (if t.sub % 2 = 0 then [⟨t.dst, t.len, 0, 0, 0, true⟩] else [])
  | .fence => []
  | .inval => []
  | _ => [⟨t.addr, t.len, 0, 1, 0, false⟩]

/-- How a translation stops. -/
inductive TStop where
  | miss (slot : Nat) (drop : Option Nat)
  | fault (reason leaf fva row : Nat) (isDst : Bool)
  deriving DecidableEq, Repr

/-- Look an address up: the RTC first; where the walk of `fresh` has just ended, the tables as that walk
read them. Answers a descriptor (and whether to fill the RTC with it), a slot that must be walked, or a
fault. -/
def State.lookup (s : State) (ep pid a : Nat) (n : Need) (fromHost : Bool) (fresh : Option Nat)
    (row : Nat) (isDst : Bool) : Except TStop (Desc × Bool) :=
  match (s.rtcHit ep pid a).filter fun d => (d.denies n fromHost).isNone with
  | some d => .ok (d, false)
  | none =>
    if fresh = some (slotOf a) then
      let w := s.walk ep pid a
      match w.got with
      | none => .error (.fault w.reason w.leaf a row isDst)
      | some d =>
        match d.denies n fromHost with
        | some r => .error (.fault r w.leaf a row isDst)
        | none => .ok (d, true)
    else .error (.miss (slotOf a) (if (s.rtcHit ep pid a).isSome then some a else none))

/-- The FVA span of a descriptor. -/
def Desc.span (d : Desc) : Nat × Nat := (d.start * 4096, (d.start + d.len) * 4096)

/-- R84: the FPA of the ownership flag word, which must lie in a FLAG range of the partition, and that range. -/
def State.flagOf (s : State) (ep pid oflag : Nat) (fresh : Option Nat) (a row : Nat) (isDst : Bool) :
    Except TStop (Nat × List (Nat × Nat)) :=
  let bad := TStop.fault rType (s.walk ep pid a).leaf a row isDst
  match (s.rtcHit ep pid oflag).filter fun d => d.mtype = mtFlag with
  | some d => .ok (d.map oflag, [d.span])
  | none =>
    if fresh = some (slotOf oflag) then
      match (s.walk ep pid oflag).got with
      | some d => if d.mtype = mtFlag then .ok (d.map oflag, [d.span]) else .error bad
      | none => .error bad
    else .error (.miss (slotOf oflag) (if (s.rtcHit ep pid oflag).isSome then some oflag else none))

/-- How far one part may run from `a` inside descriptor `d` (R47, R250): within one 4 KiB unit, one
spread granule, the descriptor, and either whole 64-byte lines or one line. -/
def pieceLen (d : Desc) (a rest : Nat) : Nat :=
  let n1 := min rest (4096 - a % 4096)
  let n2 := if d.spread then
      let g := granBytes d.gran
      min n1 (g - (a - d.start * 4096) % g)
    else n1
  let n3 := min n2 ((d.start + d.len) * 4096 - a)
  if a % 64 ≠ 0 || n3 < 64 then min n3 (64 - a % 64) else n3 - n3 % 64

/-- The part of `n` bytes at `a`. -/
def partOf (d : Desc) (acc : Acc) (sg : Seg) (a n : Nat) (oflag : Nat × List (Nat × Nat)) : Part where
  off := sg.off + (a - sg.fva)
  len := n
  fva := a
  fpa := d.map a
  mtype := d.mtype
  hint := d.hint
  paths := d.paths
  oflag := oflag.1
  mmid := d.mmid
  mlocal := d.mlbase * 4096 + (a - d.start * 4096)
  mask := match acc with
    | .tileRead => sg.mask
    | .tileWrite => sg.mask
    | _ => chunkMask (sg.off + (a - sg.fva)) n
  isDst := sg.isDst
  stage := .ready
  status := 0
  merged := none
  data := []
  spans := d.span :: oflag.2
  sent := 31

/-- R38: the chunk of stripe `st` that member number `m` of `k` holds. -/
def stripeChunk (k st m : Nat) : Nat := st * k + (m + k - (st ^^^ (st >>> 6) ^^^ (st >>> 12)) % k) % k

/-- The run of bytes, counted from LBASE, that bytes `o` to `o + n` of a spread range have on member number `m`: shares are
dense (R38), so only its first and last stripes can be cut. -/
def Desc.runOn (d : Desc) (o n m : Nat) : Option (Nat × Nat) :=
  let g := granBytes d.gran
  let k := max 1 d.members.length
  let c1 := o / g
  let c2 := (o + n - 1) / g
  let a := stripeChunk k (c1 / k) m
  let b := stripeChunk k (c2 / k) m
  let lo := if a < c1 then (c1 / k + 1) * g else if a = c1 then c1 / k * g + o % g else c1 / k * g
  let hi := if c2 < b then c2 / k * g else if b = c2 then c2 / k * g + (o + n - 1) % g + 1 else (c2 / k + 1) * g
  if lo < hi then some (lo, hi) else none

/-- The parts of a hint span inside a descriptor: per home the local run that the span touches (R89). -/
def hintParts (d : Desc) (a n : Nat) : List Part :=
  let sg : Seg := ⟨a, n, 0, 0, 0, false⟩
  if d.spread then
    (d.members.zip (List.range d.members.length)).filterMap fun x =>
      (d.runOn (a - d.start * 4096) n x.2).map fun r => { partOf d .hint sg a n (0, []) with
        fpa := x.1 * 2 ^ 51 + (d.lbase * 4096 + r.1), len := r.2 - r.1 }
  else [partOf d .hint sg a n (0, [])]

/-- One more part of a hint command: a run that goes on where a run of the same home ends is one with it, so that each home
judges the command once (R89, R91). -/
def joinHint (ps : List Part) (q : Part) : List Part :=
  if ps.any fun p => p.fpa + p.len = q.fpa && fpaHome p.fpa = fpaHome q.fpa then
    updFirst (fun p => p.fpa + p.len = q.fpa && fpaHome p.fpa = fpaHome q.fpa)
      (fun p => { p with len := p.len + q.len, mask := p.mask ||| q.mask, spans := p.spans ++ q.spans }) ps
  else ps ++ [q]

/-- Translate one segment from byte `done` on; `fuel` bounds the number of parts. -/
def State.transSeg (s : State) (t : Tx) (sg : Seg) (fresh : Option Nat) :
    Nat → Nat → List Part × List (Nat × Desc) × Nat × Option TStop
  | 0, done => ([], [], done, none)
  | fuel + 1, done =>
    if sg.len ≤ done then ([], [], sg.len, none)
    else
      let a := sg.fva + done
      let ep := agentEp t.agent
      match s.lookup ep t.pid a (needOf t.acc sg.isDst) t.fromHost fresh sg.row sg.isDst with
      | .error e => ([], [], done, some e)
      | .ok (d, fill) =>
        let fl := if fill then [(slotOf a, d)] else []
        if t.acc = .hint then
          let n := min (sg.len - done) (min (2 ^ 21 - a % 2 ^ 21) ((d.start + d.len) * 4096 - a))
          match s.transSeg t sg fresh fuel (done + n) with
          | (ps, fs, dn, e) => (hintParts d a n ++ ps, fl ++ fs, dn, e)
        else
          let n := pieceLen d a (sg.len - done)
          let fo : Except TStop (Nat × List (Nat × Nat)) :=
            if d.mtype = mtOwned && (needOf t.acc sg.isDst).w then s.flagOf ep t.pid d.oflag fresh a sg.row sg.isDst
            else .ok (0, [])
          match fo with
          | .error e => ([], fl, done, some e)
          | .ok o =>
            match s.transSeg t sg fresh fuel (done + n) with
            | (ps, fs, dn, e) => (partOf d t.acc sg a n o :: ps, fl ++ fs, dn, e)

/-- Parts at most in a segment. -/
def segFuel (sg : Seg) : Nat := sg.len / 64 + 4

/-- Translate the segments of a request from its cursor on. Answers the new parts, what to fill the RTC
with, the cursor, and where it stopped. -/
def State.transSegs (s : State) (t : Tx) (fresh : Option Nat) :
    List Seg → Nat → List Part × List (Nat × Desc) × Nat × Option TStop
  | [], _ => ([], [], 0, none)
  | sg :: r, skip =>
    if sg.len ≤ skip then
      match s.transSegs t fresh r (skip - sg.len) with
      | (ps, fs, n, e) => (ps, fs, n, e)
    else
      match s.transSeg t sg fresh (segFuel sg) skip with
      | (ps, fs, dn, some e) => (ps, fs, dn - skip, some e)
      | (ps, fs, dn, none) =>
        match s.transSegs t fresh r 0 with
        | (qs, gs, n, e) => (ps ++ qs, fs ++ gs, dn - skip + n, e)

/-- Walkers busy on an EP. -/
def State.walkersBusy (s : State) (ep : Nat) : Nat := (s.xl.walks.filter fun w => w.ep = ep).length

/-- Misses that wait for a walker on an EP. -/
def State.missesWaiting (s : State) (ep : Nat) : Nat :=
  (s.req.txs.filter fun t => agentEp t.agent = ep && (match t.xst with | .missWait _ => true | _ => false)).length

/-- A miss joins the walk of its slot and partition, takes a free walker, or waits (R41). -/
def State.missTx (s : State) (t : Tx) (slot : Nat) : State :=
  let ep := agentEp t.agent
  let s0 := s.epEv ep 0x203 t.pid 1
  if s0.xl.walks.any fun w => w.ep = ep && w.pid = t.pid && w.slot = slot then s0.setTx { t with xst := .walking slot }
  else if s0.walkersBusy ep < 16 then
    (s0.mapXl fun x => { x with walks := x.walks ++ [⟨ep, t.pid, slot, false⟩] }).setTx { t with xst := .walking slot }
  else s0.setTx { t with xst := .missWait slot }

/-- R42, R47: translate a transaction as far as it goes. When its last byte is translated it is ready to
issue; a miss waits; a fault parks or completes it whole. -/
def State.translate (s : State) (tid : Nat) (fresh : Option Nat) : State :=
  match s.txOf tid with
  | none => s
  | some t =>
    match s.transSegs t fresh t.segs t.cursor with
    | (ps, fs, n, stop) =>
      let ep := agentEp t.agent
      let s1 := s.each fs fun s f => s.rtcFill ep t.pid f.1 f.2
      let t1 := { t with
        parts := if t.acc = .hint then ps.foldl joinHint t.parts else t.parts ++ ps, cursor := t.cursor + n }
      match stop with
      | none =>
        let t2 := { t1 with xst := .ready }
        let s2 := (s1.setTx t2).epEv ep 0x202 t.pid 1
        if t2.finished && t2.parts.isEmpty then s2.completeTx t2 t2.result else s2
      | some (.miss slot drop) =>
        let s2 := match drop with
          | some a => s1.rtcDrop ep t.pid a
          | none => s1
        s2.missTx t1 slot
      | some (.fault r leaf fva row isDst) => s1.faultTx { t1 with parts := [], cursor := 0 } r leaf fva row isDst

end Sys2Proof.Machine
end

