-- ==== Sys2Proof/Machine/HomeOps.lean ====
section
/-! DEFINITION. The home (R32, R59, R75 to R102, R303): answering, ownership and owner checks, atomics,
mirrors, the directory, the tier cache and export memory. -/

namespace Sys2Proof.Machine

open Sys2Proof

/-! ### Answering -/

/-- Sixteenths of a queue of `q` entries and capacity `cap`. -/
def fillOf (q cap : Nat) : Nat := if q = 0 then 0 else min 15 (16 * q / cap)

/-- R104: LI of a request: the fill of the busiest queue that it used, the home agent's input queue, the queue of its memory
(a pseudo-channel, or the CP of an expander) and, for a HOSTCOH line, the recall queue. Capacities, and fills of queues that the
model does not hold, are free. -/
def State.loadIndicator (s : State) (h : HReq) : Nat :=
  let mem := match regionOf (fpaLocal h.f.fpa) with
    | .hbm => min 15 (Config.queueFill 0 h.hid)
    | .expander _ _ => min 15 (Config.queueFill 1 h.hid)
    | .export_ _ _ _ => 0
    | .reserved => 0
  max (max (fillOf s.home.inq.length (Config.queueCap 0)) mem)
    (if h.f.mtype = mtHostcoh then fillOf s.home.recalls.length (Config.queueCap 3) else 0)

/-- R257: record the response of a frame in the duplicate window of its source. -/
def State.recordRsp (s : State) (src seq st li : Nat) (data : List Byte) : State :=
  s.setPeer src fun p => { p with
    win := p.win.map fun w => if w.seq = seq then { w with finished := true, status := st, li := li, data := data } else w }

/-- The RSP frame that answers a request frame: it echoes OP, TAG, EP, CONTEXT, SEQ and the pair's epoch. -/
def rspFrame (f : Frame) (st li : Nat) (data : List Byte) : Frame :=
  { f with kind := kRsp, tc := if f.op = 0x63 then 0 else 3, dst := f.src, via := 31, status := st, li := li,
           ext := false, resend := false, retry := false, payload := fitTo (64 * cdiv data.length 64) data }

/-- The answer of a request of this module arrives at its EP. -/
def State.homeRsp (s : State) (t p st li : Nat) (data : List Byte) : State :=
  s.mapHome fun x => { x with rsp := x.rsp ++ [⟨t, p, st, li, data⟩] }

/-- The home answers a request by a RSP frame (R59, R256), which to an EP of this module crosses the switch core only (R24). The
home's own reads of its owner table (`loc` with transaction 0) stay within it. -/
def State.homeAnswer (s : State) (h : HReq) (st li : Nat) (data : List Byte) : State :=
  match h.loc with
  | some (t, p) =>
    if t = 0 then s.homeRsp t p st li data
    else
      let g := rspFrame h.f st li data
      s.sourceFrame g.ingressOf g [egEp (h.f.ep % 4)] h.loc
  | none => (s.recordRsp h.f.src h.f.seq st li data).sendPlain (rspFrame h.f st li data)

/-- Take request `pos` out of the input queue. -/
def State.takeIn (s : State) (pos : Nat) : State := s.mapHome fun x => { x with inq := delAt x.inq pos }

/-- Hold a request. -/
def State.hold (s : State) (h : HReq) (w : Why) : State :=
  s.mapHome fun x => { x with held := x.held ++ [⟨h, w⟩] }

def State.dropHeld (s : State) (hid : Nat) : State :=
  s.mapHome fun x => { x with held := x.held.filter fun e => e.h.hid ≠ hid }

/-- Put a request back at the front of the input queue. -/
def State.requeue (s : State) (h : HReq) : State := s.mapHome fun x => { x with inq := h :: x.inq }

/-- A request enters the home's input queue. -/
def State.homeIn (s : State) (f : Frame) (loc : Option (Nat × Nat)) : State :=
  (s.mapHome fun x => { x with inq := x.inq ++ [⟨s.nextId, f, loc, s.now, false⟩] }).fresh

/-! ### What a request names -/

/-- Bytes that a request frame addresses. -/
def reqBytes (f : Frame) : Nat :=
  if f.op ≤ 0x16 then 2 ^ (f.op - 0x10)
  else if 0x20 ≤ f.op ∧ f.op ≤ 0x26 then 64
  else if 0x30 ≤ f.op ∧ f.op ≤ 0x37 then 4
  else if 0x40 ≤ f.op ∧ f.op ≤ 0x48 then 8
  else if f.op = 0x50 then 64 * f.part
  else if f.op = 0x51 then f.payload.length
  else 64

/-- The local address from which the request works: the line of a LOAD, STORE or part. -/
def reqBase (f : Frame) : Nat :=
  if (0x30 ≤ f.op ∧ f.op ≤ 0x48) then fpaLocal f.fpa else fpaLocal f.fpa / 64 * 64

/-- The local lines that a request touches. -/
def reqLines (f : Frame) : List Nat :=
  linesOf (reqBase f) (if f.op ≤ 0x16 then 64 else reqBytes f)

/-- A read: LOAD or read part. -/
def isRead (f : Frame) : Bool := (0x10 ≤ f.op && f.op ≤ 0x16) || f.op = 0x50

/-- A write: STORE or write part. -/
def isWrite (f : Frame) : Bool := (0x20 ≤ f.op && f.op ≤ 0x26) || f.op = 0x51

/-- An atomic. -/
def isAtomic (f : Frame) : Bool := 0x30 ≤ f.op && f.op ≤ 0x48

/-- The lines are held: by a CAS.OWN that waits for acknowledgements (every access), by a recall in progress, by a request that
waits for one (R98), or, for writes and atomics, by a mirror write. -/
def State.lineBlocked (s : State) (f : Frame) : Bool :=
  let ls := reqLines f
  (s.home.cas.any fun c => ls.contains (lineOf (fpaLocal c.h.f.fpa))) ||
  (s.home.recalls.any fun r => ls.contains r.line) ||
  (s.home.held.any fun e => (match e.why with
    | .recall _ => true
    | .mirror _ _ _ => !isRead f
    | .ownerRead _ => false
    | .retry => false
    | .snoop => false
    | .moved _ => false) && (reqLines e.h.f).any ls.contains)

/-- R92: a frame of the tier cache that moves holds writes and atomics to it. A promotion that waits for its victim has not
begun. -/
def State.frameMoving (s : State) (a : Nat) : Bool :=
  match regionOf a with
  | .expander _ _ => s.home.tier.any fun t => t.frame = a / 65536 && t.moving ≠ 0 && t.victim.isNone
  | .hbm => false
  | .export_ _ _ _ => false
  | .reserved => false

/-! ### Checks before an access is performed -/

/-- The state of the partition, at the home (Table SEC-1). -/
def State.closedAtHome (s : State) (pid : Nat) : Bool := s.pstate pid = 2 || s.pstate pid = 3

/-- R289: an expander whose link is down or whose region is disabled. -/
def State.expanderDown (s : State) (a : Nat) : Option Nat :=
  match regionOf a with
  | .expander n _ => if s.rd (K.cpMode n) = 2 && (!(s.cport n).up || (s.cport n).expOff) then some n else none
  | .hbm => none
  | .export_ _ _ _ => none
  | .reserved => none

/-- A context of the export region whose port is down (Table EPT-5). -/
def State.exportDetached (s : State) (a : Nat) : Bool :=
  match regionOf a with
  | .export_ ep n _ =>
    match s.ctxOf ep n with
    | some c => c.cstate = .detached
    | none => false
  | .hbm => false
  | .expander _ _ => false
  | .reserved => false

/-- The status with which the home refuses a request before it looks at the line, if it does: no home served
(HOME_LOST), partition in CLOSING or SCRUBBING (CLOSED), detached export context (HOME_LOST), or a granule
that the PID does not own (FAULT_PERM, counted in OWN_REFUSALS). Log entry 44 (DEDUCED). -/
def State.homeRefuses (s : State) (f : Frame) : Option (Nat × Bool) :=
  let a := reqBase f
  let z := if f.op ≤ 0x16 then 64 else reqBytes f
  if !s.homesServed then some (Status.homeLost, false)
  else if s.closedAtHome f.pid then some (Status.closed, false)
  else if s.exportDetached a && s.ownerAt a = some f.pid then some (Status.homeLost, false)
  else if s.ownerAt a = some f.pid && s.ownerAt (a + z - 1) = some f.pid then none
  else some (Status.perm, true)

/-- Refuse a request at the home. -/
def State.homeRefuse (s : State) (h : HReq) (r : Nat × Bool) : State :=
  let s1 := if r.2 then s.bump (K.ownRefusals h.f.pid) 1 else s
  let s2 := if r.1 = Status.closed then s1.noteClosed h.f.pid else s1
  s2.homeAnswer h r.1 (if s2.homesServed then s2.loadIndicator h else 0) []

/-! ### Atomics (R75) -/

/-- The old value's replacement: codes of ATOM SUB (Table TIS-7); `w` is 32 or 64 bits. -/
def atomNew (sub w old operand compare : Nat) : Nat :=
  match sub with
  | 0 => (old + operand) % 2 ^ w
  | 1 => if toSigned w operand < toSigned w old then operand % 2 ^ w else old
  | 2 => if toSigned w old < toSigned w operand then operand % 2 ^ w else old
  | 3 => old &&& (operand % 2 ^ w)
  | 4 => old ||| (operand % 2 ^ w)
  | 5 => old ^^^ (operand % 2 ^ w)
  | 6 => operand % 2 ^ w
  | 7 => if old = compare % 2 ^ w then operand % 2 ^ w else old
  | _ => old

/-- Operation, width in bytes, operand and compare value of an atomic frame. -/
def atomSub (f : Frame) : Nat := if f.op = 0x48 then 7 else f.op % 8
def atomBytes (f : Frame) : Nat := if f.op < 0x40 then 4 else 8
def atomOperand (f : Frame) : Nat := word64 f.payload 0
def atomCompare (f : Frame) : Nat := word64 f.payload 1

/-! ### Owner table (R85) -/

/-- Take or refresh an owner-table entry; 4,096 entries, least recently used given up. -/
def State.ownerPut (s : State) (flag owner gen : Nat) : State :=
  s.mapHome fun x => { x with
    owners := (⟨flag, owner, gen⟩ :: x.owners.filter fun e => e.flag ≠ flag).take 4096 }

def State.ownerGet (s : State) (flag : Nat) : Option OwnerEntry := s.home.owners.find? fun e => e.flag = flag

/-- A hit makes the entry the most recently used. -/
def State.ownerTouch (s : State) (flag : Nat) : State :=
  match s.ownerGet flag with
  | some e => s.ownerPut e.flag e.owner e.gen
  | none => s

/-- The read of a flag word goes to the flag's home; a flag homed here is read through the own input queue (R85). -/
def State.ownerReadAgain (s : State) (flag : Nat) : State :=
  let s1 := s.mapHome fun x => { x with ownerReads := x.ownerReads ++ [flag] }
  let f : Frame := { Frame.blank with
    kind := kReq, tc := 0, op := 0x63, fpa := flag, dst := fpaHome flag, src := s.mid }
  if fpaHome flag = s.mid then s1.homeIn f (some (0, flag)) else s1.sendSeq f 0 0 (some (0, 0))

/-- R85: a flag is read unless a read of it is under way. -/
def State.ownerRead (s : State) (flag : Nat) : State :=
  if s.home.ownerReads.contains flag then s else s.ownerReadAgain flag

/-- A flag has a new owner: the table takes OWNER and GEN, and a read in flight is repeated (R83, R85). -/
def State.ownerNews (s : State) (flag owner gen : Nat) : State :=
  let s1 := s.ownerPut flag owner gen
  if s1.home.ownerReads.contains flag then s1.ownerReadAgain flag else s1

/-! ### Tier cache (R88 to R92) -/

/-- Frames that the tier cache can hold. -/
def State.tierFrames (s : State) : Nat := s.rd K.tierCacheSize * 16384

/-- Classes of Table POL-2, as the HINT codes: 0 NONE, 1 HOT, 2 WARM, 3 COLD, 4 PINNED. -/
def State.tierOf (s : State) (frame : Nat) : Option TierFrame := s.home.tier.find? fun t => t.frame = frame

def State.pinned (s : State) : Nat := (s.home.tier.filter fun t => t.cls = 4).length

/-- TIER_PINNED reports the pinned frames. -/
def State.notePinned (s : State) : State := s.wr K.tierPinned s.pinned

/-- The victim for a promotion of class `cls`: COLD first, then WARM, then, for HOT and PINNED, HOT; least
recently used first (the list is most recent first); frames that move are not taken. Log entry 35 (DEDUCED). -/
def State.tierVictim (s : State) (cls : Nat) : Option TierFrame :=
  let lru := s.home.tier.reverse.filter fun t => t.moving = 0
  let order := if cls = 2 then [3, 2] else [3, 0, 2, 1]
  (order.filterMap fun c => lru.find? fun t => t.cls = c).head?

/-- A frame starts to be promoted, if room can be taken for its class. A victim is demoted first, and the promotion waits for
the end of that move (R92). Without room nothing happens. Log entry 35 (DEDUCED). -/
def State.promote (s : State) (frame cls : Nat) : State :=
  if (s.tierOf frame).isSome || s.tierFrames = 0 || decide (1 ≤ s.power.measures) then s
  else if cls = 4 && decide (s.tierFrames / 2 ≤ s.pinned) then s
  else if s.home.tier.length < s.tierFrames then
    (s.mapHome fun x => { x with tier := ⟨frame, cls, [], 1, none⟩ :: x.tier }).notePinned
  else
    match s.tierVictim cls with
    | none => s
    | some v => (s.mapHome fun x => { x with
        tier := ⟨frame, cls, [], 1, some v.frame⟩ ::
          mapIf (fun t => t.frame = v.frame) (fun t => { t with moving := 2 }) x.tier }).notePinned

/-- A resident frame starts to be demoted. -/
def State.demote (s : State) (frame : Nat) : State :=
  s.mapHome fun x => { x with tier := mapIf (fun t => t.frame = frame && t.moving = 0) (fun t => { t with moving := 2 }) x.tier }

/-- A request that reaches an expander frame: a hit becomes the most recently used, a write marks its lines
dirty; a miss promotes by the descriptor's HINT (Table POL-2). -/
def State.tierAccess (s : State) (a hint : Nat) (wrLines : List Nat) : State :=
  match regionOf a with
  | .expander _ _ =>
    let fr := a / 65536
    match s.tierOf fr with
    | some t =>
      s.mapHome fun x => { x with
        tier := { t with dirty := wrLines.foldl insertOnce t.dirty } :: x.tier.filter fun u => u.frame ≠ fr }
    | none => if hint = 1 || hint = 2 || hint = 4 then s.promote fr hint else s
  | .hbm => s
  | .export_ _ _ _ => s
  | .reserved => s

/-! ### Directory (R97 to R101) -/

def State.dirOf (s : State) (line : Nat) : Option DirEntry := s.home.dir.find? fun e => e.line = line

/-- An entry takes a new content in its place, or goes when it is in I. -/
def State.setDir (s : State) (e : DirEntry) : State :=
  s.mapHome fun x => { x with
    dir := if e.dstate = 0 then x.dir.filter fun d => d.line ≠ e.line else mapIf (fun d => d.line = e.line) (fun _ => e) x.dir }

/-- A line is used: its entry becomes the most recently used, and the others age (R99). Log entry 62 (DESIGN CHOICE). -/
def State.useDir (s : State) (e : DirEntry) : State :=
  s.mapHome fun x => { x with
    dir := ((x.dir.filter fun d => d.line ≠ e.line).map fun d => { d with age := min 127 (d.age + 1) }) ++ [{ e with age := 0 }] }

/-- R101: a lookup that finds a lost host resolves it first: in M the line is poisoned and goes to I, in S
the sharer bit is cleared. -/
def State.dirResolve (s : State) (line : Nat) : State :=
  match s.dirOf line with
  | none => s
  | some e =>
    let lost := e.sharers &&& s.home.lostHosts
    if lost = 0 then s
    else if e.dstate = 2 then (s.setPoison line).setDir { e with dstate := 0, sharers := 0 }
    else
      let left := e.sharers - lost
      s.setDir { e with sharers := left, dstate := if left = 0 then 0 else e.dstate }

/-- The HPA of an FPA line in the window of CP `cp` (R55): that of the FVA by which the host reached it. -/
def State.snoopHpa (s : State) (cp line : Nat) : Option Nat :=
  (mfind (s.cport cp).views line).bind fun v => s.windowHpa cp (64 * v)

/-- A snoop of the line `line` (FPA[55:6]) reaches this module's EP and goes to the host on CP `cp` (R98), which knows it by its
HPA (R55). -/
def State.snoop (s : State) (cp line : Nat) (invalidate : Bool) : State :=
  s.emit (.snoop cp line (s.snoopHpa cp line) invalidate)

/-- Send a recall of `line` (local) to each host of the mask: TC4 to its module, or the own EP. -/
def State.recallTo (s : State) (line hosts pid : Nat) (invalidate : Bool) : State :=
  s.each (bitsSet hosts 68) fun s h =>
    if h / 4 = s.mid then s.snoop (h % 4) (s.mid * 2 ^ 45 + line) invalidate
    else s.sendSeq { Frame.blank with
      kind := kReq, tc := 4, op := if invalidate then 0x60 else 0x61, fpa := s.mid * 2 ^ 51 + line * 64,
      pid := pid, dst := h / 4, context := h % 4, src := s.mid } 0 0 (some (0, 0))

/-- Start a recall on a line; a request waits on it. -/
def State.startRecall (s : State) (line hosts pid : Nat) (invalidate : Bool) : State :=
  if s.home.recalls.any fun r => r.line = line then s
  else (s.mapHome fun x => { x with recalls := x.recalls ++ [⟨line, invalidate, hosts, s.now⟩] }).recallTo
    line hosts pid invalidate

/-- R98: what must be recalled before an access to a HOSTCOH line by a requester that is no host, or is the
host with bit `me` (68 for none): the hosts, and whether to invalidate. -/
def State.recallNeed (s : State) (line me : Nat) (wr : Bool) : Option (Nat × Bool) :=
  match s.dirOf line with
  | none => none
  | some e =>
    let others := clrBit e.sharers me
    if wr then (if others = 0 then none else some (others, true))
    else if e.dstate = 2 && others ≠ 0 then some (others, false)
    else none

/-- R99: entries of the directory. -/
def dirSize : Nat := 16777216

/-! ### Export memory (R303) -/

/-- The CAP message that carries a request to the attach design: XRD, XWR, XAT32 or XAT64. -/
def State.exportSend (s : State) (h : HReq) (ep n off : Nat) : State :=
  let f := h.f
  let xid := s.nextId
  let s1 := s.fresh.mapHome fun x => { x with exps := x.exps ++ [⟨xid, ep, n, h, s.now⟩] }
  let base := off / 64 * 64
  let m := CapOut.to ep n (xid % 65536)
  if isRead f then s1.capSend { m 0x22 with addr := base, arg := 64 * cdiv (reqBytes f) 64 }
  else if isWrite f then
    s1.capSend { m 0x23 with
      addr := base, poi := decide (f.status = Status.poison), data := f.payload
      arg := if f.payload.length ≤ 64 then (if f.op = 0x51 then 2 ^ 64 - 1 else f.be) else 0 }
  else s1.capSend { m (if atomBytes f = 4 then 0x24 else 0x25) with
      addr := off, sub := atomSub f, arg := atomOperand f, aux := atomCompare f }

/-! ### Performing (R59, R102) -/

/-- A write is performed: bytes, poison, tier-cache dirt. -/
def State.performWrite (s : State) (f : Frame) : State :=
  let a := reqBase f
  let be := if f.op = 0x51 then allOnes f.payload.length else f.be % 2 ^ 64
  (s.poke a be (f.payload.take (if f.op = 0x51 then f.payload.length else 64)) (f.status = Status.poison)).tierAccess
    a f.hint (linesOf a (reqBytes f))

/-- The old value of an atomic. -/
def State.atomOld (s : State) (f : Frame) : Nat := leNat (s.peek (fpaLocal f.fpa) (atomBytes f))

/-- An atomic is performed: the new value replaces the old one. -/
def State.performAtomic (s : State) (f : Frame) : State :=
  let n := atomBytes f
  let old := s.atomOld f
  (s.store (fpaLocal f.fpa) (leBytes n (atomNew (atomSub f) (8 * n) old (atomOperand f) (atomCompare f)))).tierAccess
    (fpaLocal f.fpa) f.hint (linesOf (fpaLocal f.fpa) n)

/-- R94, R95: a degradation is counted once per partition and lost peer. -/
def State.noteDegraded (s : State) (pid peer : Nat) : State :=
  if s.home.degraded.contains (pid, peer) then s
  else (s.bump K.mirrorDegraded 1).mapHome fun x => { x with degraded := x.degraded ++ [(pid, peer)] }

/-- R93: the mirror writes of a request, one per 64-byte line, each acknowledged on its own. -/
def State.mirrorSend (s : State) (h : HReq) (old : Nat) : State :=
  let f := h.f
  let a := reqBase f / 64 * 64
  let n := atomBytes f
  let s1 := s.hold h (.mirror old (reqLines f).length 0)
  s1.each (List.range (reqLines f).length) fun s i =>
    let base := a + 64 * i
    let off := fpaLocal f.fpa - a
    let data := if isAtomic f then
        patch (zeros 64) off (leBytes n (atomNew (atomSub f) (8 * n) old (atomOperand f) (atomCompare f)))
      else fitTo 64 ((f.payload.drop (64 * i)).take 64)
    let be := if isAtomic f then allOnes n <<< off else if f.op = 0x51 then 2 ^ 64 - 1 else f.be
    s.sendSeq { Frame.blank with
      kind := kReq, tc := 2, op := 0x62, pid := f.pid, dst := f.mmid, src := s.mid, ext := true, be := be,
      fpa := f.mmid * 2 ^ 51 + (f.mlocal / 64 * 64 + (base - a)), status := f.status,
      origSrc := f.src, origSeq := f.seq, origPepoch := f.pepoch,
      payload := data ++ (if isAtomic f then fitTo 64 (leBytes 8 old) else []) } 0 0 (some (0, h.hid))

/-- A write or atomic of a frame that moves waits for the end of the move (R92). -/
def State.holdMoved (s : State) (h : HReq) : State := s.hold h (.moved (reqBase h.f / 65536))

/-- The last step of a write or atomic at the home: performed, and answered. -/
def State.performAnswer (s : State) (h : HReq) : State :=
  if s.frameMoving (reqBase h.f) then s.holdMoved h
  else
    let li := s.loadIndicator h
    if isAtomic h.f then
      let old := s.atomOld h.f
      (s.performAtomic h.f).homeAnswer h Status.ok li (leBytes (atomBytes h.f) old)
    else (s.performWrite h.f).homeAnswer h Status.ok li []

/-- A write or atomic that has passed every check: to the mirror first (R93), alone when the mirror is lost
(R94), or performed at once. -/
def State.commitWrite (s : State) (h : HReq) : State :=
  if h.f.mtype = mtMirrored then
    if s.peerLost h.f.mmid then (s.noteDegraded h.f.pid h.f.mmid).performAnswer h
    else s.mirrorSend h (s.atomOld h.f)
  else s.performAnswer h

/-! ### CAS.OWN (R83) -/

/-- Modules that serve homes, in this module's view. -/
def State.servingPeers (s : State) : List Nat :=
  s.peerMids.filter fun d => ((s.peer d).vstate = 3 || (s.peer d).vstate = 4) && !s.peerLost d &&
    (s.usable d 0 || s.usable d 1 || s.usable d 2)

/-- The owner update frame for a flag word. -/
def State.ownerUpdateTo (s : State) (d flag word : Nat) : State :=
  s.sendSeq { Frame.blank with
    kind := kCtrl, tc := 0, op := 2, dst := d, src := s.mid, payload := fitTo 64 (wordBytes [flag, word]) } 0 0
    (some (0, 0))

/-- End every CAS.OWN that waits for no module any more. -/
def State.casSettle (s : State) : State :=
  let done := s.home.cas.filter fun c => c.waitFor.isEmpty
  let s1 := s.mapHome fun x => { x with cas := x.cas.filter fun c => !c.waitFor.isEmpty }
  s1.each done fun s c => s.homeAnswer c.h Status.ok (s.loadIndicator c.h) (leBytes 8 c.old)

/-- A module has acknowledged an owner update of a flag, or cannot be reached any more. -/
def State.casAck (s : State) (d : Nat) (flag : Option Nat) : State :=
  (s.mapHome fun x => { x with cas := x.cas.map fun c =>
    if flag = none || flag = some c.h.f.fpa then { c with waitFor := removeAll c.waitFor [d] } else c }).casSettle

/-- CAS.OWN performed at the flag's home, whose own owner table learns of it as every other does. -/
def State.performCasOwn (s : State) (h : HReq) : State :=
  let old := s.atomOld h.f
  if old ≠ atomCompare h.f then s.homeAnswer h Status.ok (s.loadIndicator h) (leBytes 8 old)
  else
    let word := atomOperand h.f
    let ps := s.servingPeers
    let s1 := (s.performAtomic h.f).ownerNews h.f.fpa (bits word 31 16) (bits word 15 0)
    let s2 := s1.each ps fun s d => s.ownerUpdateTo d h.f.fpa word
    (s2.mapHome fun x => { x with cas := x.cas ++ [⟨h, old, ps⟩] }).casSettle

/-! ### The write path at the home (R32, R85, R98, R92, R93) -/

/-- The recalls that the access needs, for every line of a HOSTCOH request. -/
def State.recallsFor (s : State) (f : Frame) (wr : Bool) : List (Nat × Nat × Bool) :=
  if f.mtype ≠ mtHostcoh then []
  else
    let me := if f.agentKind = 1 then 4 * f.src + f.context % 4 else 68
    (reqLines f).filterMap fun l => (s.recallNeed l me wr).map fun r => (l, r.1, r.2)

/-- Lost hosts of the lines are resolved first. -/
def State.resolveLines (s : State) (f : Frame) : State :=
  if f.mtype = mtHostcoh then s.each (reqLines f) State.dirResolve else s

/-- Wait on all the recalls of a request. -/
def State.waitRecalls (s : State) (h : HReq) (rs : List (Nat × Nat × Bool)) : State :=
  (s.each rs fun s r => s.startRecall r.1 r.2.1 h.f.pid r.2.2).hold h (.recall (rs.map fun r => r.1))

/-- A write or atomic of a request `h`, after the owner check. -/
def State.writeChecked (s : State) (h : HReq) : State :=
  let f := h.f
  if s.frameMoving (reqBase f) then s.holdMoved h
  else match s.expanderDown (reqBase f) with
  | some n => (s.setCp n fun p => { p with failedReqs := p.failedReqs + 1 }).homeAnswer h Status.poison (s.loadIndicator h) []
  | none =>
    let s1 := s.resolveLines f
    match s1.recallsFor f true with
    | r :: rs => s1.waitRecalls h (r :: rs)
    | [] =>
      match regionOf (reqBase f) with
      | .export_ ep n off => s1.exportSend h ep n off
      | .hbm | .expander _ _ | .reserved =>
        if isAtomic f && s1.spanPoisoned (fpaLocal f.fpa) (atomBytes f) then
          s1.homeAnswer h Status.poison (s1.loadIndicator h) []
        else if f.op = 0x48 then s1.performCasOwn h
        else s1.commitWrite h

/-- R85: the owner check of a write to an OWNED range. A flag whose home is lost cannot be read (R262). -/
def State.ownerCheck (s : State) (h : HReq) : State :=
  let f := h.f
  match s.ownerGet f.oflag with
  | none =>
    if fpaHome f.oflag ≠ s.mid && s.peerLost (fpaHome f.oflag) then s.homeAnswer h Status.homeLost (s.loadIndicator h) []
    else (s.ownerRead f.oflag).hold h (.ownerRead f.oflag)
  | some e =>
    let s1 := s.ownerTouch f.oflag
    if e.owner ≠ 0 && e.owner = f.owner then s1.writeChecked h
    else (s1.bump (K.ownerConflicts f.pid) 1).homeAnswer h Status.ownerConflict (s1.loadIndicator h) []

/-- A write or atomic reaches its home. -/
def State.homeWrite (s : State) (h : HReq) : State :=
  match s.homeRefuses h.f with
  | some r => s.homeRefuse h r
  | none => if h.f.mtype = mtOwned then s.ownerCheck h else s.writeChecked h

/-- A read reaches its home (R59, R98, R102, R289, R303, R382). -/
def State.homeRead (s : State) (h : HReq) (uncorrectable : Bool) : State :=
  let f := h.f
  match s.homeRefuses f with
  | some r => s.homeRefuse h r
  | none =>
    match s.expanderDown (reqBase f) with
    | some n => (s.setCp n fun p => { p with failedReqs := p.failedReqs + 1 }).homeAnswer h Status.poison (s.loadIndicator h) []
    | none =>
      let s1 := s.resolveLines f
      match s1.recallsFor f false with
      | r :: rs => s1.waitRecalls h (r :: rs)
      | [] =>
        match regionOf (reqBase f) with
        | .export_ ep n off => s1.exportSend h ep n off
        | .hbm | .expander _ _ | .reserved =>
          let z := if f.op = 0x50 then 64 * f.part else 64
          let s2 := if uncorrectable then
              (s1.setPoison (lineOf (reqBase f))).logFault 0x0C (pseudoChannel (reqBase f) / 32)
                (pseudoChannel (reqBase f)) 5 Status.poison f.pid f.fpa
            else s1
          if s2.spanPoisoned (reqBase f) z then s2.homeAnswer h Status.poison (s2.loadIndicator h) []
          else (s2.tierAccess (reqBase f) f.hint []).homeAnswer h Status.ok (s2.loadIndicator h) (s2.peek (reqBase f) z)

/-- A request that the home serves in this step: the front ones of a line only, not one that a line's holder
or a moving frame holds back, and not a MIRROR_RETRY request that still waits. -/
def State.servable (s : State) (f : Frame) : Bool :=
  !f.retry && !s.lineBlocked f && (isRead f || !s.frameMoving (reqBase f))

end Sys2Proof.Machine
end

