-- ==== Sys2Proof/Machine/Issue.lean ====
section
/-! DEFINITION. Issue at the EP (R60 to R68, R71, R73, R77, R94, R103, R105): when a part may issue, the reach
cache, the atomic buffers, the request frame, and what a response does. -/

namespace Sys2Proof.Machine

open Sys2Proof

/-! ### Requests as frames -/

/-- log2 of 1 to 64. -/
def log2Small (n : Nat) : Nat := ((List.range 7).find? fun v => 2 ^ v = n).getD 6

/-- The traffic class of a transaction's part (Table ARC-5, R309, R89). -/
def txClass (t : Tx) (p : Part) : Nat :=
  match t.acc with
  | .hint => 7
  | .copy => 5
  | .tileRead => if t.bulk then 5 else 2
  | .tileWrite => if t.bulk then 5 else 2
  | _ => if t.fromHost && p.mtype = mtHostcoh then 4 else 2

/-- The data that a write part carries. -/
def partData (t : Tx) (p : Part) : List Byte :=
  if t.acc = .copy then ((if t.sub / 2 = 0 then t.readData else t.data).drop p.off).take p.len
  else (t.data.drop p.off).take p.len

/-- The source parts of a copy that a destination part takes its bytes from. -/
def copySrc (t : Tx) (p : Part) : List Part :=
  t.parts.filter fun q => !q.isDst && decide (q.off < p.off + p.len) && decide (p.off < q.off + q.len)

/-- R302 worked example: data of a failed source goes out as a poisoned write. Log entry 36 (DEDUCED). -/
def copyPoisoned (t : Tx) (p : Part) : Bool := (copySrc t p).any fun q => q.status ≠ Status.ok

/-- The part writes. -/
def partWrites (t : Tx) (p : Part) : Bool := (needOf t.acc p.isDst).w

/-- A unit of a tile write's part came poisoned. -/
def unitPoisoned (t : Tx) (p : Part) : Bool :=
  t.acc = .tileWrite && (linesOf p.off p.len).any t.compare.testBit

/-- The request frame of a part, towards home `d` at `fpa` (Tables DLV-1 and DLV-2). A whole-line run is a
read or write part; a shorter piece is a LOAD or a STORE with byte enables. Log entry 12 (DESIGN CHOICE). -/
def reqFrame (t : Tx) (p : Part) (mid d fpa : Nat) : Frame :=
  let base : Frame := { Frame.blank with
    kind := kReq, tc := txClass t p, src := mid, dst := d, pid := t.pid, fpa := fpa,
    tag := t.id % 65536, ep := agentEp t.agent, context := agentContext t.agent,
    scope := t.scope, ord := t.ord, agentKind := agentSource t.agent,
    hint := p.hint, mtype := p.mtype, mmid := p.mmid, mlocal := p.mlocal, lastPart := t.wide && t.fromHost }
  if t.acc = .hint then
    { base with op := 0x52, payload := fitTo 64 (wordBytes [p.len, t.sub]) }
  else if t.acc = .atomic then
    { base with
      op := if t.own then 0x48 else (if t.wide then 0x40 else 0x30) + t.sub
      owner := t.owner, oflag := p.oflag, ext := decide (p.oflag ≠ 0)
      payload := fitTo 64 (wordBytes [t.operand, t.compare]) }
  else if partWrites t p then
    let st := if t.poi || unitPoisoned t p || (t.acc = .copy && copyPoisoned t p) then Status.poison else 0
    if p.len % 64 = 0 && fpa % 64 = 0 then
      if t.acc = .store && p.len = 64 then
        { base with op := 0x26, owner := t.owner, oflag := p.oflag, ext := true, status := st,
                    be := 2 ^ 64 - 1, payload := partData t p }
      else
        { base with op := 0x51, owner := t.owner, oflag := p.oflag, ext := decide (p.oflag ≠ 0), status := st,
                    payload := partData t p }
    else
      { base with
        op := if t.acc = .store then 0x20 + log2Small p.len else 0x26
        owner := t.owner, oflag := p.oflag, ext := true, status := st
        be := allOnes p.len <<< (fpa % 64)
        payload := patch (zeros 64) (fpa % 64) (partData t p) }
  else if t.acc = .load && p.len ≤ 64 then { base with op := 0x10 + log2Small p.len }
  else { base with op := 0x50, fpa := fpa / 64 * 64, part := cdiv (fpa % 64 + p.len) 64 }

/-- The bytes of a part out of the lines that a response carries. -/
def pickData (p : Part) (acc : Acc) (data : List Byte) : List Byte :=
  if acc = .atomic then data.take p.len else (data.drop (p.fpa % 64)).take p.len

/-! ### Weir and window (R103, R105) -/

/-- The weir has charged the request: a copy is two, its read and its write. -/
def Tx.paid (t : Tx) (p : Part) : Bool := t.charged.testBit (b2n p.isDst)

/-- R103: the weir of an agent lets a request of these classes issue. A request issues whole: once it is charged, the rest of
its parts do not wait. -/
def State.weirOpen (s : State) (t : Tx) (p : Part) : Bool :=
  if s.rd (K.weirRate t.pid) = 0 || !([2, 4, 5, 7].contains (txClass t p)) || t.paid p then true
  else
    match s.agentOf t.agent with
    | some x => decide (0 < x.bucket)
    | none => true

/-- The bytes that the weir charges for a request: its whole payload, 64 for a hint (R103). -/
def reqCharge (t : Tx) (p : Part) : Nat :=
  match t.acc with
  | .hint => 64
  | .atomic => p.len
  | _ => t.len

/-- Issue takes the request's payload, once. -/
def State.weirTake (s : State) (t : Tx) (p : Part) : State :=
  if s.rd (K.weirRate t.pid) = 0 || !([2, 4, 5, 7].contains (txClass t p)) || t.paid p then s
  else
    (s.setAgent t.agent fun x => { x with bucket := x.bucket - (reqCharge t p * 10000 : Nat) }).setTx
      { t with charged := setBit t.charged (b2n p.isDst) }

/-- The MID that serves a part: its home, or the mirror of a lost one (R94). -/
def State.homeFor (s : State) (p : Part) : Nat :=
  let d := fpaHome p.fpa
  if d ≠ s.mid && s.peerLost d && p.mtype = mtMirrored then p.mmid else d

/-- Outstanding requests in TC2 and TC4 of an agent towards the module that serves them. -/
def State.outstanding (s : State) (a : Agent) (home : Nat) : Nat :=
  (s.txsOf a).foldl (fun n t => n + (t.parts.filter fun p => p.stage = .issued && p.merged.isNone &&
    p.sent = home && (txClass t p = 2 || txClass t p = 4)).length) 0

/-- The window W of an agent and a home; it starts at 256. -/
def State.window (s : State) (a : Agent) (home : Nat) : Nat :=
  match s.agentOf a with
  | some x => nmGet x.wins home 256
  | none => 256

def State.windowOpen (s : State) (a : Agent) (home tc : Nat) : Bool :=
  if tc = 2 || tc = 4 then decide (s.outstanding a home < s.window a home) else true

/-- R105: what the LI of a response does to the window. -/
def State.windowNote (s : State) (a : Agent) (home li : Nat) : State :=
  let w := s.window a home
  s.setAgent a fun x =>
    if 12 ≤ li then
      if s.now < nmGet x.cutAt home 0 then x
      else { x with wins := mput x.wins home (max 4 (w - w / 8)), cutAt := mput x.cutAt home (s.now + 1250) }
    else if li ≤ 7 then { x with wins := mput x.wins home (min 256 (w + 1)) }
    else x

/-! ### Order at the EP (R61, R71, R73) -/

/-- FVA lines of a segment or a part. -/
def segLines (sg : Seg) : List Nat := linesOf sg.fva sg.len
def partLines (p : Part) : List Nat := linesOf p.fva p.len

/-- The transaction still has an access to one of the lines under way or ahead of it. -/
def Tx.busyOn (t : Tx) (ls : List Nat) : Bool :=
  match t.acc with
  | .fence => false
  | .inval => false
  | .hint => false
  | _ =>
    if t.xst = .ready then t.parts.any fun p => p.stage ≠ .done && (partLines p).any ls.contains
    else t.segs.any fun sg => (segLines sg).any ls.contains

/-- R61: an earlier access of the same agent to one of the lines is open. -/
def State.lineBusy (s : State) (t : Tx) (p : Part) : Bool :=
  (s.txsOf t.agent).any fun u => decide (u.id < t.id) && u.pid = t.pid && u.busyOn (partLines p)

/-- The data of the part has arrived. -/
def partHasData (t : Tx) (p : Part) : Bool :=
  match t.acc with
  | .tileWrite => (linesOf p.off p.len).all t.covered.testBit
  | .copy => if p.isDst then (copySrc t p).all fun q => q.stage = .done else true
  | _ => true

/-- A part that may issue, weir, window and routes apart. -/
def State.partReady (s : State) (t : Tx) (p : Part) : Bool :=
  !t.closed && t.xst = .ready && t.stop.isNone && t.relTx = 0 && t.waits.isEmpty && p.stage = .ready &&
    t.acc ≠ .fence && t.acc ≠ .inval && partHasData t p && !s.lineBusy t p

/-- Mark a part issued: towards module `sent` (31 for none), or onto the fill `merged`. -/
def State.markIssued (s : State) (tid pi : Nat) (merged : Option (Nat × Nat)) (sent : Nat) : State :=
  match s.txOf tid with
  | none => s
  | some t =>
    s.setTx { t with parts := (t.parts.zip (List.range t.parts.length)).map fun x =>
      if x.2 = pi then { x.1 with stage := .issued, merged := merged, sent := sent } else x.1 }

/-! ### Sending a request to a home (R94, R256, R262) -/

/-- R94: the request of a MIRRORED range whose home is lost goes to the mirror, with MIRROR_RETRY. Its data is in plain HBM
there, which no HINT promotes (R93). -/
def retryFrame (f : Frame) (origSeq origPepoch : Nat) (own : Bool) : Frame :=
  { f with
    dst := f.mmid, fpa := f.mmid * 2 ^ 51 + f.mlocal, retry := true, ext := true,
    origHome := fpaHome f.fpa, origSrc := if own then 31 else f.src, origSeq := origSeq, origPepoch := origPepoch,
    mtype := mtNormal, hint := 0 }

/-- A host's request to a HOSTCOH line: the port keeps the FVA by which the host knows it (R55). -/
def State.noteView (s : State) (t : Tx) (p : Part) : State :=
  if t.fromHost && p.mtype = mtHostcoh then
    s.setCp (agentEp t.agent) fun c => { c with views := mput c.views (p.fpa / 64) (p.fva / 64) }
  else s

/-- A request leaves for its home: through the switch core to the own home (R24), as a sequenced frame, to the mirror of a lost
home, or not at all, with HOME_LOST at once (R262). A host without back-invalidation gets no service for HOSTCOH lines (R288). -/
def State.toHome (s : State) (t : Tx) (pi : Nat) (p : Part) : State :=
  let d := fpaHome p.fpa
  let f := reqFrame t p s.mid d p.fpa
  if t.fromHost && p.mtype = mtHostcoh && !(s.cport (agentEp t.agent)).backInval then
    if partWrites t p then
      (s.setCp (agentEp t.agent) fun c => { c with droppedWrites := c.droppedWrites + 1 }).partDone t.id pi
        Status.refused 0 [] false
    else s.partDone t.id pi Status.poison 0 [] false
  else if d = s.mid then
    if s.homesServed then (s.noteView t p).sourceFrame f.ingressOf f [egHome] (some (t.id, pi))
    else s.partDone t.id pi Status.homeLost 0 [] false
  else if s.peerLost d then
    if p.mtype = mtMirrored && p.mmid ≠ s.mid && !s.peerLost p.mmid then
      s.sendSeq (retryFrame f 0 0 true) 0 p.paths (some (t.id, pi))
    else if p.mtype = mtMirrored && p.mmid = s.mid then
      let g := retryFrame f 0 0 false
      s.sourceFrame g.ingressOf g [egHome] (some (t.id, pi))
    else s.partDone t.id pi Status.homeLost 0 [] false
  else
    let h := if p.paths = 0 then 0 else Config.pathHash (p.fpa / 256) (agentEp t.agent) (agentContext t.agent) % (p.paths + 1)
    (s.noteView t p).sendSeq f h p.paths (some (t.id, pi))

/-! ### Atomic buffers (R77) -/

/-- R77: capacity of one EP's atomic buffer. -/
def atomLines : Nat := 512

/-- The held lines that a part touches. -/
def State.heldLines (s : State) (p : Part) : List ALine := s.req.atoms.filter fun l => (linesOf p.fpa p.len).contains l.line

/-- The held line of an FPA. -/
def State.heldLine (s : State) (fpa : Nat) : Option ALine := s.req.atoms.find? fun l => l.line = fpa / 64

def State.setHeld (s : State) (l : ALine) : State :=
  s.mapReq fun r => { r with atoms := mapIf (fun x => x.line = l.line) (fun _ => l) r.atoms }

/-- A transaction of the module's own: a fetch or a write-back of an atomic buffer. -/
def State.ownTx (s : State) (ep pid : Nat) (acc : Acc) (parts : List Part) (data : List Byte) : State × Nat :=
  let id := s.nextId + 1
  let t : Tx := { Tx.blank with
    id := id, agent := .reader ep, pid := pid, acc := acc, parts := parts, len := data.length, data := data,
    addr := (parts.head?.map Part.fva).getD 0 }
  ({ s with nextId := id + 1, req := { s.req with txs := s.req.txs ++ [t] } }, id)

/-- The part that reaches bytes `off` to `off + n` of a held line. -/
def linePart (l : ALine) (off n doff : Nat) : Part where
  off := doff
  len := n
  fva := l.fva + off
  fpa := l.line * 64 + off
  mtype := mtNormal
  hint := l.hint
  paths := 0
  oflag := 0
  mmid := 0
  mlocal := 0
  mask := 0
  isDst := false
  stage := .ready
  status := 0
  merged := none
  data := []
  spans := []
  sent := 31

/-- R77: write a held line back: only the 8-byte words that the held atomics modified, in TC2 on path 0.
Answers the transactions that carry it. The line leaves the buffer. -/
def State.writeBack (s : State) (l : ALine) : State × List Nat :=
  let s0 := s.mapReq fun r => { r with atoms := r.atoms.filter fun x => x.line ≠ l.line }
  (bitsSet l.mods 8).foldl (fun acc i =>
    let r := acc.1.ownTx l.ep l.pid .store [linePart l (8 * i) 8 0] ((l.data.drop (8 * i)).take 8)
    match r.1.txOf r.2 with
    | none => (r.1, acc.2 ++ [r.2])
    | some t =>
      match t.parts with
      | p :: _ => (((r.1.markIssued r.2 0 none (r.1.homeFor p)).toHome t 0 p), acc.2 ++ [r.2])
      | [] => (r.1, acc.2 ++ [r.2])) (s0, [])

/-- Write back every line that satisfies `p` and is not in fetch. -/
def State.writeBackAll (s : State) (p : ALine → Bool) : State × List Nat :=
  (s.req.atoms.filter fun l => p l && !l.fetching).foldl (fun acc l =>
    let r := acc.1.writeBack l
    (r.1, acc.2 ++ r.2)) (s, [])

/-- Make a transaction wait for others. -/
def State.addWaits (s : State) (tid : Nat) (ids : List Nat) : State :=
  match s.txOf tid with
  | none => s
  | some t => s.setTx { t with waits := t.waits ++ ids.filter fun i => (s.txOf i).isSome }

/-- A MODULE-scope atomic is performed on a held line; a CAS that fails modifies nothing. -/
def State.performHeld (s : State) (l : ALine) (t : Tx) (pi : Nat) (p : Part) : State :=
  let n := if t.wide then 8 else 4
  let off := p.fpa % 64
  let old := leNat ((l.data.drop off).take n)
  let new := atomNew t.sub (8 * n) old t.operand t.compare
  let mods := if t.sub = 7 && old ≠ t.compare % 2 ^ (8 * n) then l.mods else setBit l.mods (off / 8)
  (s.setHeld { l with data := patch l.data off (leBytes n new), mods := mods }).partDone
    t.id pi Status.ok 0 (leBytes n old) false

/-- R76, R77: an atomic that may be performed on a held copy. -/
def State.heldAtomic (s : State) (t : Tx) (p : Part) : Bool :=
  t.acc = .atomic && t.scope ≠ 2 && p.mtype = mtNormal && fpaHome p.fpa ≠ s.mid && !t.own

/-- R77: start the fetch of a line for the waiting atomic; the line leaves all four reach caches. -/
def State.startFetch (s : State) (ep : Nat) (t : Tx) (pi : Nat) (p : Part) : State :=
  let l : ALine := ⟨ep, t.pid, p.fpa / 64, p.fva / 64 * 64, [], 0, p.hint, true, [t.id]⟩
  let s1 := (s.mapReq fun r => { r with atoms := r.atoms ++ [l] }).markIssued t.id pi none 31
  let s2 := s1.reachDrop fun _ q ln => q = t.pid && ln = p.fva / 64
  let r := s2.ownTx ep t.pid .load [linePart l 0 64 0] (zeros 64)
  match r.1.txOf r.2 with
  | none => r.1
  | some u =>
    match u.parts with
    | q :: _ => (r.1.markIssued r.2 0 none (r.1.homeFor q)).toHome u 0 q
    | [] => r.1

/-- R77: a MODULE-scope atomic at the buffer of EP FPA[7:6]. -/
def State.issueHeld (s : State) (t : Tx) (pi : Nat) (p : Part) : State :=
  let ep := bits p.fpa 7 6
  match s.heldLine p.fpa with
  | some l =>
    if l.fetching then
      (s.setHeld { l with waiters := l.waiters ++ [t.id] }).markIssued t.id pi none 31
    else (s.epEv ep 0x210 t.pid 1).performHeld l t pi p
  | none =>
    let mine := s.req.atoms.filter fun l => l.ep = ep
    if mine.length < atomLines then s.startFetch ep t pi p
    else
      match mine.filter fun l => !l.fetching with
      | [] => s
      | ls =>
        let l := ls.getD (Config.victim s.free % ls.length) (ls.headD ⟨ep, 0, 0, 0, [], 0, 0, false, []⟩)
        (s.draw.writeBack l).1.startFetch ep t pi p

/-- The fetch of a line ends: its data is held and the waiting atomics are performed in order; a fetch that
failed ends them with its status. -/
def State.fetchDone (s : State) (line st : Nat) (data : List Byte) : State :=
  match s.req.atoms.find? fun l => l.line = line && l.fetching with
  | none => s
  | some l =>
    if st = Status.ok then
      let s1 := s.setHeld { l with fetching := false, data := fitTo 64 data, waiters := [] }
      s1.each l.waiters fun s id =>
        match s.txOf id, s.req.atoms.find? fun l => l.line = line with
        | some t, some m =>
          match t.parts with
          | p :: _ => s.performHeld m t 0 p
          | [] => s
        | _, _ => s
    else
      let s1 := s.mapReq fun r => { r with atoms := r.atoms.filter fun x => x.line ≠ line }
      s1.each l.waiters fun s id => s.partDone id 0 st 0 [] false

/-! ### The reach cache at issue (R65, R66) -/

/-- R65: a load or tile read that may fill the reach cache; a load may also be served by it. -/
def State.reachable (s : State) (t : Tx) (p : Part) : Bool :=
  (t.acc = .load || t.acc = .tileRead) &&
  (match t.agent with | .ctx _ _ => true | .core _ _ _ => true | _ => false) &&
  (p.mtype = mtNormal || p.mtype = mtOwned || p.mtype = mtMirrored) &&
  fpaHome p.fpa ≠ s.mid && !((t.ord = 1 || t.ord = 3) && t.scope = 2)

/-- The cached bytes of a part when every line hits. -/
def State.reachData (s : State) (t : Tx) (p : Part) : Option (List Byte) :=
  let ls := (partLines p).map (s.reachHit (agentEp t.agent) t.pid)
  if ls.all Option.isSome then some (((ls.map fun d => d.getD []).flatten.drop (p.fva % 64)).take p.len) else none

/-- A live fill of a line. -/
def State.fillOf (s : State) (t : Tx) (l : Nat) : Option Fill :=
  s.xl.filling.find? fun f => f.ep = agentEp t.agent && f.pid = t.pid && f.line = l && f.live

/-- The part whose live fill a load merges onto: it fetches every line of the load (R66). -/
def State.fillOn (s : State) (t : Tx) (p : Part) : Option (Nat × Nat) :=
  match (partLines p).map (s.fillOf t) with
  | some f :: r => if r.all fun g => g.any fun g => g.tx = f.tx && g.part = f.part then some (f.tx, f.part) else none
  | _ => none

/-- Register the fills of a part. -/
def State.startFills (s : State) (t : Tx) (pi : Nat) (p : Part) : State :=
  s.mapXl fun x => { x with
    filling := x.filling ++ (partLines p).map fun l => ⟨agentEp t.agent, t.pid, l, t.id, pi, true⟩ }

/-- A part issues towards its home: the weir is charged, a write drops the EP's own copy of its lines. -/
def State.issueOut (s : State) (t : Tx) (pi : Nat) (p : Part) (fills : Bool) : State :=
  let s1 := (s.weirTake t p).markIssued t.id pi none (s.homeFor p)
  let s2 := if partWrites t p || t.acc = .atomic then s1.reachDropLines (agentEp t.agent) t.pid (partLines p) else s1
  let s3 := if fills then s2.startFills t pi p else s2
  s3.toHome t pi p

/-- Weir, window and route drain allow the part (R103, R105, R264). -/
def State.gatesOpen (s : State) (t : Tx) (p : Part) : Bool :=
  let tc := txClass t p
  s.weirOpen t p && s.windowOpen t.agent (s.homeFor p) tc && (s.homeFor p = s.mid || !s.drainHeld tc)

/-- A part that no held line concerns issues: from the reach cache, onto a fill in flight, or out. A tile read always goes to
the home (R66). -/
def State.issueFree (s : State) (t : Tx) (pi : Nat) (p : Part) : State :=
  let ep := agentEp t.agent
  let out := fun (s0 : State) => if s.gatesOpen t p then s0.issueOut t pi p (s.reachable t p) else s
  if s.reachable t p && t.acc = .load then
    match s.reachData t p with
    | some d => (s.epEv ep 0x205 t.pid 1).partDone t.id pi Status.ok 0 d false
    | none =>
      match s.fillOn t p with
      | some m => (s.epEv ep 0x206 t.pid 1).markIssued t.id pi (some m) 31
      | none => out (s.epEv ep 0x206 t.pid 1)
  else out s

/-- A part that may issue does so: on a held line, after the write-back of the held lines that it touches (R77), or freely. -/
def State.issuePart (s : State) (t : Tx) (pi : Nat) (p : Part) : State :=
  if s.heldAtomic t p then (if s.gatesOpen t p then s.issueHeld t pi p else s)
  else
    match (if t.acc = .hint || (t.dest ≠ .module && (match t.agent with | .reader _ => true | _ => false)) then [] else s.heldLines p) with
    | [] => s.issueFree t pi p
    | ls =>
      if ls.any ALine.fetching then s
      else
        s.each ls fun s l =>
          let r := (s.epEv l.ep 0x210 t.pid 1).writeBack l
          r.1.addWaits t.id r.2

/-- Issue part `pi` of transaction `tid`, if it may. -/
def State.tryIssue (s : State) (tid pi : Nat) : State :=
  match s.txOf tid with
  | none => s
  | some t =>
    match t.parts[pi]? with
    | none => s
    | some p => if s.partReady t p then s.issuePart t pi p else s

/-! ### Responses (R65, R66, R105) -/

/-- The fills that a part started: installed while live and OK; the loads that merged onto them get their bytes of its data
(R66). -/
def State.endFills (s : State) (tid pi st : Nat) (p : Part) (lines : List Byte) : State :=
  let mine := s.xl.filling.filter fun f => f.tx = tid && f.part = pi
  let s1 := s.mapXl fun x => { x with filling := x.filling.filter fun f => !(f.tx = tid && f.part = pi) }
  let s2 := s1.each mine fun s f =>
    if f.live && st = Status.ok then s.reachPut f.ep f.pid f.line ((lines.drop (64 * (f.line - p.fva / 64))).take 64) else s
  s2.each s2.req.txs fun s u =>
    s.each (u.parts.zip (List.range u.parts.length)) fun s x =>
      if x.1.stage = .issued && x.1.merged = some (tid, pi) then
        s.partDone u.id x.2 st 0 ((lines.drop (x.1.fva - p.fva / 64 * 64)).take x.1.len) false
      else s

/-- A response for part `pi` of transaction `tid`: it closes the part, may fill the reach cache, and moves the
window by its LI. A response for a part that has ended is discarded. -/
def State.respond (s : State) (tid pi st li : Nat) (data : List Byte) (tmo : Bool) : State :=
  match s.txOf tid with
  | none => s
  | some t =>
    match t.parts[pi]? with
    | none => s
    | some p =>
      if p.stage ≠ .issued || p.merged.isSome || t.closed then s
      else
        let ep := agentEp t.agent
        let s1 := ((s.epEv ep 0x20A t.pid 1).epEv ep 0x20B t.pid li).epEv ep 0x20C t.pid (if 12 ≤ li then 1 else 0)
        let s2 := s1.windowNote t.agent p.sent li
        let s3 := s2.endFills tid pi st p data
        let d := pickData p t.acc data
        let s4 := if t.acc = .copy then s3.epEv ep 0x20F t.pid (cdiv p.len 64) else s3
        let s5 := s4.partDone tid pi st li d tmo
        match t.agent, t.acc with
        | .reader _, .load => s5.fetchDone (p.fpa / 64) st data
        | _, _ => s5

end Sys2Proof.Machine
end

