-- ==== Sys2Proof/Machine/FlowOps.lean ====
section
/-! DEFINITION. Flows and streams (R115 to R119, R130 to R142, R304 to R306): finding them, tile buffers,
delivery in TNUM order, putting, credits, completion records and aborts. -/

namespace Sys2Proof.Machine

open Sys2Proof

/-! ### Finding and updating -/

def State.flowGet (s : State) (pid flow : Nat) : Option Flow :=
  s.stn.flows.find? fun f => f.pid = pid && f.flow = flow

def State.setFlow (s : State) (pid flow : Nat) (g : Flow → Flow) : State :=
  s.mapStn fun x => { x with flows := mapIf (fun f => f.pid = pid && f.flow = flow) g x.flows }

def State.instGet (s : State) (who : InstRef) : Option Inst := s.stn.insts.find? fun i => i.who = who

def State.setInst (s : State) (who : InstRef) (g : Inst → Inst) : State :=
  s.mapStn fun x => { x with insts := mapIf (fun i => i.who = who) g x.insts }

def State.strmGet (s : State) (pid flow sid : Nat) : Option Strm :=
  s.stn.strms.find? fun t => t.pid = pid && t.flow = flow && t.sid = sid

def State.setStrm (s : State) (pid flow sid : Nat) (g : Strm → Strm) : State :=
  s.mapStn fun x => { x with strms := mapIf (fun t => t.pid = pid && t.flow = flow && t.sid = sid) g x.strms }

def Strm.cons? (t : Strm) (ci : Nat) : Option Cons := t.cons.find? fun c => c.idx = ci

def State.setCons (s : State) (pid flow sid ci : Nat) (g : Cons → Cons) : State :=
  s.setStrm pid flow sid fun t => { t with cons := mapIf (fun c => c.idx = ci) g t.cons }

/-- Streams of a flow. -/
def State.strmsOf (s : State) (pid flow : Nat) : List Strm :=
  s.stn.strms.filter fun t => t.pid = pid && t.flow = flow

/-- The flow runs. -/
def State.running (s : State) (pid flow : Nat) : Bool :=
  match s.flowGet pid flow with
  | some f => f.fst = .running
  | none => false

end Sys2Proof.Machine

namespace Sys2Proof

open Sys2Proof.Machine

/-! ### Tiles -/

/-- A tile of END: it carries no rows. -/
def Tile.endMark (tnum : Nat) : Tile := ⟨tnum, true, false, 0, 0, 0, 0, [], []⟩

/-- Bytes of a tile in SRAM. -/
def Tile.bytes (t : Tile) : Nat := t.elems.length + t.exps.length

/-- Tile buffers of a spilled tile: element rows and exponent rows each take whole ones (R141). -/
def Tile.bufs (t : Tile) : Nat := cdiv t.elems.length 4096 + cdiv t.exps.length 4096

/-- The stream tile header (Table STN-2). -/
def Tile.header (t : Tile) : List Byte :=
  wordBytes [fld t.tnum 32 32 ||| fld (b2n t.fin) 1 31 ||| fld (b2n t.poison) 1 30 ||| fld t.fmt 4 26 |||
    fld (t.rows - 1) 8 18 ||| fld (t.rbytes / 64 - 1) 6 12, t.tag % 2 ^ 64]

/-- A tile as it crosses: header, element rows, exponent rows. -/
def Tile.packed (t : Tile) : List Byte := t.header ++ t.elems ++ t.exps

/-- A tile read back from its packed form. -/
def Tile.ofPacked (d : List Byte) : Tile :=
  let w0 := word64 d 0
  if w0.testBit 31 then { Tile.endMark (bits w0 63 32) with poison := w0.testBit 30, tag := word64 d 1 }
  else
    let rows := bits w0 25 18 + 1
    let rb := (bits w0 17 12 + 1) * 64
    let fmt := bits w0 29 26
    ⟨bits w0 63 32, false, w0.testBit 30, fmt, rows, rb, word64 d 1, (d.drop 16).take (rows * rb),
      ((d.drop 16).drop (rows * rb)).take (rows * expRow fmt rb)⟩

end Sys2Proof

namespace Sys2Proof.Machine

open Sys2Proof

/-! ### Tile buffers (R235 to R238, R142) -/

/-- Free buffers, as TBUF_FREE reports them. -/
def State.noteFree (s : State) : State := s.wr K.tbufFree (s.sw.tbCache.length + runCount s.sw.tbRing)

/-- A pointer that fails a check (R237). -/
def State.tbufError (s : State) (b : Nat) : State :=
  (s.bump K.tbufPtrErrors 1).logFault 0x0E 0 0 0 0 0 b

/-- The reference count of a buffer; its ALLOC bit is set while that is not 0 (R235). -/
def State.bufRefs (s : State) (b : Nat) : Nat := nmGet s.sw.tbRef b 0

/-- The metadata word of a buffer (R235): ALLOC in bit 31, the count in bits 15 to 0. -/
def State.bufWord (s : State) (b : Nat) : Nat := fld (b2n (decide (0 < s.bufRefs b))) 1 31 ||| fld (s.bufRefs b) 16 0

/-- The ring entry that points to a buffer (Table SWC-2). -/
def State.ringEntry (s : State) (b : Nat) : Nat := s.rd K.tbufBase + 4096 * b

/-- What the ring entry of a buffer reads as. Log entry 64 (DESIGN CHOICE). -/
def State.ringRead (s : State) (b : Nat) : Nat := nmGet s.sw.ringSeen b (s.ringEntry b)

/-- R237: the buffer that a ring entry points to: reserved bits and bits 11 to 0 zero, an address of the pool. -/
def State.ringBuf (s : State) (v : Nat) : Option Nat :=
  let base := s.rd K.tbufBase
  if v < 2 ^ 51 && v % 4096 = 0 && decide (base ≤ v) && decide (v < base + 4096 * s.rd K.tbufCount) then some ((v - base) / 4096)
  else none

/-- What taking buffers from the cache answers: none now, a bad pointer, or buffers. -/
inductive Taken where
  | wait
  | bad (s : State)
  | got (s : State) (bs : List Nat)

/-- R238: one more holder of a buffer; refused past 65,535. -/
def State.raiseBuf (s : State) (b : Nat) : State × Bool :=
  let n := s.bufRefs b
  if 65535 ≤ n then (s.bump K.tbufRefRefused 1, false)
  else (s.mapSw fun x => { x with tbRef := mput x.tbRef b (n + 1) }, true)

/-- One more holder of each of a tile's buffers, or of none (R238). -/
def State.raiseBufs (s : State) (bs : List Nat) : State × Bool :=
  if bs.any fun b => decide (65535 ≤ s.bufRefs b) then (s.bump K.tbufRefRefused 1, false)
  else (s.each bs fun s b => (s.raiseBuf b).1, true)

/-- Take `n` pointers from the cache and charge them to a partition, if the quota and the cache hold them. A pointer whose
buffer has ALLOC set is not used (R237). -/
def State.takeBufs (s : State) (pid n : Nat) : Taken :=
  if s.rd (K.spillInuse pid) + n ≤ s.rd (K.spillQuota pid) && decide (n ≤ s.sw.tbCache.length) then
    let bs := s.sw.tbCache.take n
    let bad := bs.filter fun b => 0 < s.bufRefs b || bs.count b ≠ 1 || decide (s.rd K.tbufCount ≤ b)
    if bad.isEmpty then
      let s1 := (s.mapSw fun x => { x with tbCache := x.tbCache.drop n }).each bs fun s b => (s.raiseBuf b).1
      .got ((s1.noteFree).bump (K.spillInuse pid) n) bs
    else
      .bad (((s.mapSw fun x => { x with tbCache := removeAll x.tbCache bad }).each bad State.tbufError).noteFree)
  else .wait

/-- One holder less; at 0 the pointer goes back to the cache. A decrement of a count of 0 is a pointer error. -/
def State.dropBuf (s : State) (b : Nat) : State :=
  let n := s.bufRefs b
  if n = 0 || decide (s.rd K.tbufCount ≤ b) then s.tbufError b
  else if n = 1 then
    (s.mapSw fun x => { x with tbRef := mdel x.tbRef b, tbCache := x.tbCache ++ [b] }).noteFree
  else s.mapSw fun x => { x with tbRef := mput x.tbRef b (n - 1) }

/-- Give buffers back; those that nobody holds any more are uncharged. -/
def State.giveBufs (s : State) (pid : Nat) (bs : List Nat) : State :=
  if bs.isEmpty then s
  else
    let s1 := s.each bs State.dropBuf
    s1.wr (K.spillInuse pid) (s1.rd (K.spillInuse pid) - (bs.filter fun b => s1.bufRefs b = 0).length)

/-! ### Copies in the core -/

/-- Remove frame `id` from the core when nothing has to read it any more; its cells are freed (`seen` as for `popCells`), credits
of its ingress and class that are held return, and sources that wait for them go on (R233, R241, R242). -/
def State.coreOutSeen (s : State) (id : Nat) (seen : NMap) : State :=
  match s.sw.frames.find? fun c => c.id = id with
  | none => s
  | some c =>
    if c.refs = 0 then
      let own := s.ownCells c
      let s1 := s.mapSw fun x => { x with frames := x.frames.filter fun d => d.id ≠ id }
      if c.parked then s1.giveBufs c.f.pid c.bufs
      else ((s1.pushCells c.quad own seen).returnCredit c.ingress c.f.tc own.length).pumpSources
    else s

/-- As above, with every pointer read as it is. -/
def State.coreOut (s : State) (id : Nat) : State := s.coreOutSeen id []

def State.setCore (s : State) (id : Nat) (g : CoreFrame → CoreFrame) : State :=
  s.mapSw fun x => { x with frames := mapIf (fun c => c.id = id) g x.frames }

/-- A STREAM frame of a flow. -/
def inFlow (f : Frame) (pid flow : Nat) : Bool := f.kind = kStream && f.pid = pid && f.flowOf = flow

/-- R223: a flow's frames that wait in the core, for credits at their source or for a place in a pair's window are discarded with
its stream buffers. -/
def State.dropFlowFrames (s : State) (pid flow : Nat) : State :=
  let ids := (s.sw.frames.filter fun c => inFlow c.f pid flow && !c.egr.isEmpty).map CoreFrame.id
  let s1 := (s.mapSw fun x => { x with srcq := x.srcq.filter fun w => !inFlow w.f pid flow }).mapDlv fun v => { v with
    peers := v.peers.map fun p => { p with waitq := p.waitq.filter fun w => !inFlow w.1 pid flow } }
  s1.each ids fun s id => (s.setCore id fun c => { c with egr := [] }).coreOut id

/-! ### Buffers of a consumer -/

/-- SRAM bytes in use: tiles delivered and tiles held by handles. -/
def Cons.used (c : Cons) : Nat := (c.buf ++ c.held).foldl (fun n t => n + t.bytes) 0

/-- Free bytes of a consumer's SRAM buffer. -/
def Strm.free (t : Strm) (c : Cons) : Nat := t.sram * 4096 - c.used

/-- An event of the cluster on which a station consumer runs. -/
def State.consEv (s : State) (pid flow : Nat) (c : Cons) (ev n : Nat) : State :=
  match s.stn.insts.find? fun i => c.station = some i.who.index && i.who.pid = pid && i.who.flow = flow with
  | some i => s.clusterEv i.sd i.cluster ev pid n
  | none => s

/-- How a tile is taken: held in SRAM or in the spillway, not yet for want of room, or refused (R237, R238). -/
inductive Fit where
  | done
  | wait
  | refused
  deriving DecidableEq, Repr

/-- The tile buffers in which another consumer of the stream already holds this tile. -/
def Strm.spillOf (st : Strm) (t : Tile) : Option (List Nat) :=
  ((st.cons.map Cons.spilled).flatten.find? fun e => e.1 = t).map Prod.snd

/-- Deliver a tile to one station consumer of this module: into SRAM, or into the spillway, where consumers share the buffers of
a tile (R141, R238). -/
def State.intoBuf (s : State) (pid flow sid ci : Nat) (t : Tile) : State × Fit :=
  match s.strmGet pid flow sid with
  | none => (s, .wait)
  | some st =>
    match st.cons? ci with
    | none => (s, .wait)
    | some c =>
      let spill := fun (s : State) (bs : List Nat) =>
        (s.setCons pid flow sid ci fun c => { c with spilled := c.spilled ++ [(t, bs)] }).consEv pid flow c 0x034 bs.length
      if c.spilled.isEmpty && decide (t.bytes ≤ st.free c) then
        (s.setCons pid flow sid ci fun c => { c with buf := c.buf ++ [t] }, .done)
      else if st.spill then
        match st.spillOf t with
        | some bs =>
          let r := s.raiseBufs bs
          if r.2 then (spill r.1 bs, .done) else (r.1, .refused)
        | none =>
          match s.takeBufs pid t.bufs with
          | .wait => (s, .wait)
          | .bad s1 => (s1, .refused)
          | .got s1 bs => (spill s1 bs, .done)
      else (s, .wait)

/-! ### Attach consumers (R305) -/

/-- The STILE messages of a tile: at most 4 KiB each, ascending. -/
def State.stile (s : State) (ep ctx flow sid : Nat) (t : Tile) : State :=
  let d := t.packed
  let n := max 1 (cdiv d.length 4096)
  s.each (List.range n) fun s i =>
    s.capSend { CapOut.to ep ctx 0 0x26 with
      addr := flow <<< 48 ||| sid <<< 32, arg := 4096 * i, last := decide (i + 1 = n), poi := t.poison
      data := fitTo (64 * cdiv (min 4096 (d.length - 4096 * i)) 64) ((d.drop (4096 * i)).take 4096) }

/-- Tiles move out of the stream buffers of a flow: from its launch on (R131). -/
def State.moves (s : State) (pid flow : Nat) : Bool :=
  match s.flowGet pid flow with
  | some f => f.fst = .running || f.fst = .done
  | none => false

/-- Send the waiting tiles of an attach consumer that its credits allow; `fuel` bounds them. Log entry 34 (DEDUCED). -/
def State.pumpAttach (s : State) (pid flow sid ci : Nat) : Nat → State
  | 0 => s
  | n + 1 =>
    match (s.strmGet pid flow sid).bind fun t => t.cons? ci with
    | none => s
    | some c =>
      match c.buf with
      | [] => s
      | t :: r =>
        if c.grant = 0 || !s.moves pid flow then s
        else
          ((s.stile c.ep c.ctx flow sid t).setCons pid flow sid ci fun c =>
            { c with buf := r, grant := c.grant - 1, finSeen := c.finSeen || t.fin }).pumpAttach pid flow sid ci n

/-! ### The feed of a shadow (R389, R390) -/

/-- A station whose program holds an instruction of Table TIS-7, or that gathers or scatters. -/
def Inst.touchesMemory (i : Inst) : Bool :=
  i.typ = 0 || i.typ = 1 || i.typ = 9 || i.prog.any fun w => decide (0x20 ≤ w.toNat / 2 ^ 120) && decide (w.toNat / 2 ^ 120 ≤ 0x28)

/-- The shadow that this module feeds with the tiles of a compared station. -/
def State.fed (s : State) (who : InstRef) : Option Nat :=
  let d := s.rd K.shadowFeed
  match s.instGet who with
  | some i => if d = 31 || i.touchesMemory then none else some d
  | none => none

/-- A feed copy of an input tile; it is dropped below WM1. -/
def State.feedTile (s : State) (who : InstRef) (sid : Nat) (t : Tile) : State :=
  match s.fed who, s.instGet who with
  | some d, some i =>
    if s.belowMark 0 1 || decide (1 ≤ s.power.measures) then s else s.emit (.feed d who.pid who.flow who.index (i.ins.findIdx fun x => x = sid) t)
  | _, _ => s

/-- The digest of an output tile. -/
def tileDigest (t : Tile) : Nat := beWord (sha384 t.packed)

/-- R391: a pair of digests of one key is compared. The first mismatch ends the comparison with FAIL. -/
def State.comparePair (s : State) (k : TileKey) (a b : Nat) : State :=
  let s1 := s.mapShd fun h => { h with
    compared := h.compared + 1
    mismatches := h.mismatches + b2n (a ≠ b)
    first := if a = b then h.first else h.first.or (some k) }
  if a = b then s1 else s1.wr K.shadowResult 3

/-- A shadow's own digest meets the partner's, or waits for it. -/
def State.ownDigest (s : State) (k : TileKey) (dg : Nat) : State :=
  if !s.shd.running || s.shd.outs.contains ⟨k.pid, k.flow, k.index⟩ then s
  else
    match s.shd.theirs.find? fun e => e.1 = k with
    | some e => (s.mapShd fun h => { h with theirs := h.theirs.erase e }).comparePair k dg e.2
    | none => s.mapShd fun h => { h with own := h.own ++ [(k, dg)] }

/-! ### Writing into a partition's memory for the module itself -/

/-- Translate one address of a partition at the lowest EP in service, without caching. -/
def State.resolve (s : State) (pid fva : Nat) (n : Need) : Option Desc :=
  match s.lowEp with
  | none => none
  | some ep => ((s.walk ep pid fva).got).filter fun d => (d.denies n false).isNone

/-- The FPA of the flag word of an OWNED range, whose address must lie in a FLAG range (R84); none when it does not. -/
def State.moduleFlag (s : State) (ep pid : Nat) (d : Desc) : Option (Nat × List (Nat × Nat)) :=
  if d.mtype = mtOwned then
    (((s.walk ep pid d.oflag).got).filter fun g => g.mtype = mtFlag).map fun g => (g.map d.oflag, [g.span])
  else some (0, [])

/-- R126: a read of `len` bytes at `fva` by the module itself, as a tile read with ORD ACQ and SCOPE RACK at the lowest EP in
service, translated whole before it issues. Whole 64-byte units are read. Answers 0 when no EP is in service.
Log entry 68 (DEDUCED). -/
def State.moduleRead (s : State) (pid fva len : Nat) : State × Nat :=
  match s.lowEp with
  | none => (s, 0)
  | some ep =>
    let n := 64 * cdiv len 64
    let t : Tx := { Tx.blank with
      id := s.nextId + 1, agent := .reader ep, pid := pid, dest := .module, acc := .tileRead, tile := some ⟨0, fva, 1, n, n, 0, 0⟩, len := n
      addr := fva, ord := 1, scope := 2 }
    ((s.putTx t).translate t.id none, t.id)

/-- How a read of the module's own ended: not yet, lost with its EP, with a status, or with its bytes. -/
inductive ReadEnd where
  | open_
  | lost
  | failed (status : Nat)
  | ok (data : List Byte)
  deriving DecidableEq, Repr

def State.readEnd (s : State) (id len : Nat) : ReadEnd :=
  match s.txOf id with
  | none => .lost
  | some t =>
    if !t.closed then .open_
    else
      let st := t.stop.getD t.result
      if st = Status.ok then .ok (t.readData.take len) else .failed (if st = Status.partialSt then t.firstFail else st)

/-- A write-back that ended as it was issued failed with HOME_LOST (R262). -/
def State.backFails (s : State) (ids : List Nat) : List Nat :=
  (ids.filter fun i => (s.txOf i).isNone).map fun _ => Status.homeLost

/-- The release part of a store of the module itself (R71, R73): a fence that counts the write-backs of the partition's held
lines; 0 when there is nothing to wait for. Log entry 33 (DEDUCED). -/
def State.moduleRelease (s : State) (ep pid : Nat) (ids : List Nat) : State × Nat :=
  let live := ids.filter fun i => (s.txOf i).isSome
  let fails := s.backFails ids
  if live.isEmpty && fails.isEmpty then (s, 0)
  else
    let t : Tx := { Tx.blank with
      id := s.nextId + 1, agent := .reader ep, pid := pid, acc := .fence, ord := 2, scope := 2, waits := live, counted := live, fails := fails }
    (s.putTx t, t.id)

/-- One aligned store of the module itself into FVA space; nothing happens when it would fault. Held lines that it touches, and
before a release every held line of the partition, are written back first (R77); it issues when that has ended, and not at all
where R73 withholds it. Log entry 57 (DEDUCED). -/
def State.moduleStore (s : State) (pid fva owner ord : Nat) (data : List Byte) : State :=
  match s.lowEp, s.resolve pid fva (needOf .store false) with
  | some ep, some d =>
    match s.moduleFlag ep pid d with
    | none => s
    | some o =>
      let sg : Seg := ⟨fva, data.length, 0, 0, 0, false⟩
      let p := partOf d .store sg fva data.length o
      let b := s.writeBackAll fun l => l.pid = pid && (ord = 2 || (linesOf p.fpa p.len).contains l.line)
      let f := if ord = 2 then b.1.moduleRelease ep pid b.2 else (b.1, 0)
      let r := f.1.ownTx ep pid .store [p] data
      match r.1.txOf r.2 with
      | none => r.1
      | some t =>
        (r.1.setTx { t with
          owner := owner, ord := ord, scope := 2, relTx := f.2
          waits := if ord = 2 then [] else b.2.filter fun i => (r.1.txOf i).isSome }).tryIssue r.2 0
  | _, _ => s

/-! ### Completion records (R132) -/

/-- A completion record (Table STN-10). -/
def flowRecWords (status origin station tiles time : Nat) : List Nat :=
  [fld status 4 60 ||| fld origin 5 55 ||| fld station 12 43 ||| fld tiles 32 0, time]

/-- Open transactions of a flow's stations. -/
def State.flowTxs (s : State) (pid flow : Nat) : List Tx :=
  s.req.txs.filter fun t => !t.closed && (match t.dest with
    | .stn w => w.pid = pid && w.flow = flow
    | _ => false)

/-- Free the buffers of a stream. -/
def State.freeStrm (s : State) (t : Strm) : State :=
  let s1 := s.each t.cons fun s c => s.each c.spilled fun s e => s.giveBufs t.pid e.2
  s1.setStrm t.pid t.flow t.sid fun t => { t with
    asm := [], putBuf := [], transit := []
    cons := t.cons.map fun c => { c with buf := [], spilled := [], held := [] } }

/-- A flow is unloaded: its streams and instances go, and a core whose last instance has gone is zeroed (R330). -/
def State.removeFlow (s : State) (pid flow : Nat) : State :=
  let s1 := s.each (s.strmsOf pid flow) State.freeStrm
  let mine := fun (w : InstRef) => w.pid = pid && w.flow = flow
  let left := s1.stn.insts.filter fun i => !mine i.who
  let freed := fun (c : CoreSt) => c.pid = pid &&
    (s1.stn.insts.any fun i => mine i.who && i.sd = c.sd && i.cluster = c.cluster && i.core = c.core) &&
    !(left.any fun i => i.sd = c.sd && i.cluster = c.cluster && i.core = c.core)
  let gone := (s1.stn.cores.filter freed).map fun c => Agent.core c.sd c.cluster c.core
  let s2 := s1.mapStn fun x => { x with
    flows := x.flows.filter fun f => !(f.pid = pid && f.flow = flow)
    strms := x.strms.filter fun t => !(t.pid = pid && t.flow = flow)
    insts := left
    cores := x.cores.map fun c => if freed c then { c with pid := 64, sel := none, zeroing := !c.out, hash := none, absorb := [] } else c }
  let s3 := s2.mapReq fun r => { r with
    agents := r.agents.filter fun a => !gone.contains a.agent
    txs := (r.txs.filter fun t => !(t.closed && (match t.dest with
        | .stn w => mine w
        | _ => false))).map fun t => match t.dest with
      | .stn w => if mine w then { t with dest := .internal } else t
      | _ => t }
  s3.wr K.flowsLoaded s3.stn.flows.length

/-- Write the record of a flow that has ended and whose writes have completed; a shadow writes no memory (R389).
Log entry 57 (DEDUCED). -/
def State.flowRecord (s : State) (f : Flow) : State :=
  if f.recDone || !(f.fst = .done || f.fst = .aborted) || !(s.flowTxs f.pid f.flow).isEmpty then s
  else
    let st := if f.fst = .done then Status.ok else f.cause
    let r : FlowRec := ⟨f.pid, f.flow, st, f.origin, f.failing, f.tiles % 2 ^ 32, f.endedAt⟩
    let s1 := s.setFlow f.pid f.flow fun f => { f with recDone := true }
    let s2 := s1.mapMgt fun m => { m with flowRecs := (r :: m.flowRecs).take 16 }
    let s3 := if s.life.mstate = .shadow then s2
      else s2.moduleStore f.pid (f.doneFva + 16 * s.mid) 0 (if st = Status.ok then 2 else 0)
        (wordBytes (flowRecWords st f.origin f.failing f.tiles f.endedAt))
    if f.unloading then s3.removeFlow f.pid f.flow else s3

/-- Write every record that has become due. -/
def State.settleFlows (s : State) : State := s.each s.stn.flows State.flowRecord

/-! ### Slot classes (R138, R369, R377) -/

/-- Slots of one class of the instance: the class event, its sub-event where it has one, and the PB total. -/
def State.slots (s : State) (i : Inst) (cls ev n : Nat) : State :=
  if n = 0 then s
  else
    let s1 := s.clusterEv i.sd i.cluster (cls + 1) i.who.pid n
    (if ev = 0 then s1 else s1.clusterEv i.sd i.cluster ev i.who.pid n).bump64 (K.partSlots i.who.pid cls) n

/-- R138: the beats in a core that an abort squashes; the spec does not say how many an instance has in its pipeline, so their
number is free. Log entry 29 (DESIGN CHOICE). -/
def State.squashSlots (s : State) (pid flow : Nat) : State :=
  s.each (s.stn.insts.filter fun i => i.who.pid = pid && i.who.flow = flow && !i.complete &&
    s.stn.cores.any fun c => c.sel = some i.who) fun s i => s.slots i 1 0x012 (Config.abortSlots s.now)

/-! ### Abort (R133) -/

/-- End what a stopped station still waits for: nothing more issues, parked faults complete with ABORTED. -/
def State.haltTx (s : State) (t : Tx) : State :=
  match t.xst with
  | .ready =>
    let ps := t.parts.map fun p => if p.stage = .ready then { p with stage := .done, status := Status.aborted } else p
    let t1 := { t with parts := ps, last := true, stop := t.stop.or (some Status.aborted) }
    if t1.acc = .fence || t1.acc = .inval then s.completeTx t1 Status.aborted
    else if t1.finished then s.completeTx t1 t1.result
    else s.setTx t1
  | .missWait _ => s.completeTx t Status.aborted
  | .walking _ => s.completeTx t Status.aborted
  | .parked _ => s.completeTx t Status.aborted

/-- The modules that a flow names. -/
def Flow.modules (f : Flow) : List Nat := ((f.stns.map StnInfo.mid) ++ f.attachMids).eraseDups

/-- An abort notice (Table DLV-1, CTRL 0x03): FLOW_ID in W1, STATUS in W2; partition, station and time as payload,
since frames of TC0 carry PID 0 (R323). Log entry 41 (DEDUCED). -/
def State.abortNoticeTo (s : State) (d pid flow st station time : Nat) : State :=
  s.sendSeq { Frame.blank with
    kind := kCtrl, op := 3, tc := 0, dst := d, src := s.mid, fpa := flow <<< 40, status := st
    payload := fitTo 64 (wordBytes [pid, station, time]) } 0 0 none

/-- R306: ABORT to each attach context of this module that the flow's streams name. -/
def State.abortContexts (s : State) (pid flow st time : Nat) : State :=
  let eps := ((s.strmsOf pid flow).map fun t =>
    (if t.prod.isNone && t.pmid = s.mid then [(t.pep, t.pctx)] else []) ++
      ((t.cons.filter fun c => c.station.isNone && c.mid = s.mid).map fun c => (c.ep, c.ctx))).flatten.eraseDups
  s.each eps fun s e => s.capSend { CapOut.to e.1 e.2 0 0x28 with addr := flow <<< 48, status := st, arg := time }

/-- R133: the flow reaches ABORTED with its first cause; `notify` on the detecting module. -/
def State.abortFlow (s : State) (pid flow cause origin station time : Nat) (notify : Bool) : State :=
  match s.flowGet pid flow with
  | none => s
  | some f =>
    if f.fst = .done || f.fst = .aborted then s
    else
      let s0 := if f.fst = .running then s.squashSlots pid flow else s
      let s1 := s0.setFlow pid flow fun f => { f with
        fst := .aborted, cause := cause, origin := origin, failing := station, endedAt := s.now }
      let s2 := s1.mapStn fun x => { x with
        insts := mapIf (fun i => i.who.pid = pid && i.who.flow = flow) (fun i => { i with wait := .none }) x.insts
        cores := x.cores.map fun c => match c.hash with
          | some w => if w.pid = pid && w.flow = flow then { c with hash := none, absorb := [] } else c
          | none => c }
      let s3 := s2.each (s2.flowTxs pid flow) State.haltTx
      let s4 := (s3.each (s3.strmsOf pid flow) State.freeStrm).dropFlowFrames pid flow
      let s5 := s4.abortContexts pid flow cause time
      let s6 := if notify then
          s5.each (f.modules.filter fun d => d ≠ s.mid) fun s d => s.abortNoticeTo d pid flow cause station time
        else s5
      s6.settleFlows

/-- Abort on the module's own detection. A shadow tells nobody: the flow runs on the partner (R389). -/
def State.failFlow (s : State) (pid flow cause station : Nat) : State :=
  s.abortFlow pid flow cause s.mid station s.now (s.life.mstate ≠ .shadow)

/-- A station fails (R133); on a shadow CHECK_FAIL ends the comparison with FAIL (R391). -/
def State.failStation (s : State) (who : InstRef) (cause : Nat) : State :=
  let s1 := s.failFlow who.pid who.flow cause who.index
  if s.life.mstate = .shadow && s.shd.running && cause = Status.checkFail then s1.wr K.shadowResult 3 else s1

/-- No station is to blame. -/
def noStation : Nat := 0xFFF

/-- R133, R262: a module that hosts a station or an attach endpoint is lost, or its direct link is masked. -/
def State.loseModule (s : State) (d : Nat) : State :=
  s.each (s.stn.flows.filter fun f => f.modules.contains d) fun s f => s.failFlow f.pid f.flow Status.homeLost noStation

/-! ### Arrival in TNUM order (R118) -/

/-- Deliver the waiting tiles of a consumer whose turn has come; `fuel` bounds them. -/
def State.pumpTransit (s : State) (pid flow sid ci : Nat) : Nat → State
  | 0 => s
  | n + 1 =>
    match s.strmGet pid flow sid with
    | none => s
    | some st =>
      match st.cons? ci with
      | none => s
      | some c =>
        match st.transit.find? fun e => e.1 = ci && e.2.tnum = c.expect with
        | none => s
        | some (_, t) =>
          let ok : State × Fit :=
            match c.station with
            | some _ => s.intoBuf pid flow sid ci t
            | none => (s.setCons pid flow sid ci fun c => { c with buf := c.buf ++ [t] }, .done)
          match ok.2 with
          | .wait => ok.1
          | .refused => ok.1.failFlow pid flow Status.refused (c.station.getD noStation)
          | .done =>
            let s0 := match c.station with
              | some k => ok.1.feedTile ⟨pid, flow, k⟩ sid t
              | none => ok.1
            let s1 := s0.setStrm pid flow sid fun st => { st with
              transit := st.transit.filter fun e => !(e.1 = ci && e.2.tnum = t.tnum) }
            let s2 := s1.setCons pid flow sid ci fun c => { c with expect := (c.expect + 1) % 2 ^ 32 }
            (s2.pumpAttach pid flow sid ci 1).pumpTransit pid flow sid ci n

/-! ### Tiles that arrive (R118, R119, R131) -/

/-- A tile for consumer `ci` arrives from module `src`. -/
def State.tileArrive (s : State) (pid flow sid ci : Nat) (t : Tile) (src : Nat) : State :=
  match s.flowGet pid flow with
  | none =>
    let s1 := s.bump (K.strayTiles pid) 1
    if src = s.mid then s1 else s1.abortNoticeTo src pid flow Status.refused noStation s.now
  | some f =>
    if f.fst = .done || f.fst = .aborted then s.bump (K.strayTiles pid) 1
    else
      match (s.strmGet pid flow sid).bind fun st => st.cons? ci with
      | none => s.bump (K.strayTiles pid) 1
      | some c =>
        if 2 ^ 31 ≤ (t.tnum + 2 ^ 32 - c.expect) % 2 ^ 32 then
          s.failFlow pid flow Status.counterWindow (c.station.getD noStation)
        else
          (s.setStrm pid flow sid fun st => { st with transit := st.transit ++ [(ci, t)] }).pumpTransit
            pid flow sid ci (4096 + 1)

/-- The egress towards a consumer of this module: its station-die bridge, or the lowest port of its context's bond. -/
def State.consEgress (s : State) (pid flow : Nat) (c : Cons) : Nat :=
  match c.station with
  | some i =>
    match s.instGet ⟨pid, flow, i⟩ with
    | some n => 32 + n.sd
    | none => 32
  | none =>
    match s.ctxOf c.ep c.ctx with
    | some k => 16 + k.port
    | none => 16 + 4 * c.ep

/-- A frame of a stream leaves the core at egress `e`: its tile is whole once every part up to LASTPART is here; it then
arrives at every consumer behind that egress. A tile that no stream takes counts once, with its last part. -/
def State.streamFrame (s : State) (f : Frame) (e : Nat) : State :=
  match s.strmGet f.pid f.flowOf f.sidOf with
  | none => if f.lastPart then s.tileArrive f.pid f.flowOf f.sidOf 0 (Tile.endMark f.tnum) f.src else s
  | some st =>
    let key := e * 2 ^ 32 + f.tnum
    let parts := st.asm ++ [(key, f.part, f.lastPart, f.payload)]
    let mine := parts.filter fun p => p.1 = key
    let n := mine.length
    let whole := (mine.any fun p => p.2.2.1 && p.2.1 + 1 = n) &&
      (List.range n).all fun i => mine.any fun p => p.2.1 = i
    if whole then
      let bytes := ((List.range n).map fun i => ((mine.find? fun p => p.2.1 = i).map fun p => p.2.2.2).getD []).flatten
      let s1 := s.setStrm f.pid f.flowOf f.sidOf fun st => { st with asm := parts.filter fun p => p.1 ≠ key }
      s1.each (st.cons.filter fun c => c.mid = s.mid && s.consEgress f.pid f.flowOf c = e) fun s c =>
        s.tileArrive f.pid f.flowOf f.sidOf c.idx { Tile.ofPacked bytes with tnum := f.tnum } f.src
    else s.setStrm f.pid f.flowOf f.sidOf fun st => { st with asm := parts }

/-- R141, R142: the stream buffer or the spillway can take the tile whose frame waits for egress `e`: the next one of each
consumer behind it. Until then the frame waits in the cistern. -/
def State.canLand (s : State) (f : Frame) (e : Nat) : Bool :=
  if f.kind ≠ kStream then true
  else
    match s.strmGet f.pid f.flowOf f.sidOf with
    | none => true
    | some st =>
      let head := if f.part = 0 then some f.payload
        else (st.asm.find? fun p => p.1 = e * 2 ^ 32 + f.tnum && p.2.1 = 0).map fun p => p.2.2.2
      match head with
      | none => true
      | some d =>
        let t := Tile.ofPacked (fitTo 16 d)
        let eb := if t.fin then 0 else t.rows * t.rbytes
        let xb := if t.fin then 0 else t.rows * expRow t.fmt t.rbytes
        (st.cons.filter fun c => c.mid = s.mid && s.consEgress f.pid f.flowOf c = e && c.expect = f.tnum).all fun c =>
          c.station.isNone || (c.spilled.isEmpty && decide (eb + xb ≤ st.free c)) ||
            (st.spill && decide (s.rd (K.spillInuse st.pid) + cdiv eb 4096 + cdiv xb 4096 ≤ s.rd (K.spillQuota st.pid)) &&
              decide (cdiv eb 4096 + cdiv xb 4096 ≤ s.sw.tbCache.length))

/-! ### Putting (R116, R117, R119, R141) -/

/-- Frames of a tile towards module `d`: PART order, at most 4 KiB each. `ing` is the producer's die bridge, `ctx` its attach
context. Log entry 34 (DEDUCED). -/
def tileFrames (me d pid flow sid tc ing ctx : Nat) (t : Tile) : List Frame :=
  let bs := t.packed
  let n := max 1 (cdiv bs.length 4096)
  (List.range n).map fun i => { Frame.blank with
    kind := kStream, tc := tc, dst := d, src := me, pid := pid, fpa := flow <<< 40 ||| sid <<< 24, ep := ing, context := ctx
    tnum := t.tnum, part := i, lastPart := decide (i + 1 = n)
    payload := fitTo (64 * cdiv (min 4096 (bs.length - 4096 * i)) 64) ((bs.drop (4096 * i)).take 4096) }

/-- The die bridge at which a stream's tiles enter the switch core. -/
def State.prodIngress (s : State) (st : Strm) : Nat :=
  match st.prod with
  | some i =>
    match s.instGet ⟨st.pid, st.flow, i⟩ with
    | some n => 20 + n.sd
    | none => 20
  | none => 16 + st.pep

/-- SCHEDULE_OVERRUN: counted, recorded in LAST_OVERRUN, and the flow aborts (R222, R223). Bytes of the record: PID, SET,
FLOW_ID, SID, PORT, closing-edge time, tiles crossed, TILES. Log entry 21 (PRESUMED). -/
def overrunBytes (pid set flow sid port t crossed tiles : Nat) : List Byte :=
  leBytes 1 pid ++ leBytes 2 set ++ leBytes 2 flow ++ leBytes 2 sid ++ leBytes 1 port ++ leBytes 8 t ++
    leBytes 4 crossed ++ leBytes 4 tiles

def State.overrun (s : State) (pid set flow sid port t crossed tiles : Nat) : State :=
  ((s.bump K.overruns 1).wr K.lastOverrun (leNat (overrunBytes pid set flow sid port t crossed tiles))).failFlow
    pid flow Status.overrun noStation

/-- The sluice set of a flow on this module. -/
def State.setOf (s : State) (pid flow : Nat) : Nat := ((s.flowGet pid flow).map Flow.set).getD 0

/-- R222: a TC1 frame that reaches a gated egress without a matching entry in the active bank. -/
def State.ungated (s : State) (f : Frame) (egrs : List Nat) : Option Nat :=
  if f.tc ≠ 1 || f.kind ≠ kStream then none
  else egrs.find? fun e => gatedCode e && !(s.slu.act.any fun g =>
    g.port = e && g.pid = f.pid && g.set = s.setOf f.pid f.flowOf && g.flow = f.flowOf && (g.sid = 0xFFFF || g.sid = f.sidOf))

/-- Raise the overrun of a frame's arrival at an egress. -/
def State.ungatedRaise (s : State) (f : Frame) (egrs : List Nat) : State :=
  match s.ungated f egrs with
  | none => s
  | some e =>
    s.overrun f.pid (s.setOf f.pid f.flowOf) f.flowOf f.sidOf e s.now 0 0

/-- The frames of a tile for the consumers of this module behind the egresses `egrs` (R243). -/
def State.tileHere (s : State) (fs : List Frame) (egrs : List Nat) : State :=
  s.each fs fun s f =>
    (s.sourceFrame f.ep f egrs none).ungatedRaise f egrs

/-- Frames of a tile towards another module, one by one on the direct port for TC1. -/
def State.tileAway (s : State) (fs : List Frame) : State :=
  s.each fs fun s f => (s.sendSeq f 0 0 none).ungatedRaise f [s.portTo f.dst]

/-- Every consumer has a credit, and has reported room for the whole tile (SPILL = 0). -/
def State.canPut (_ : State) (st : Strm) (t : Tile) : Bool :=
  st.cons.all fun c => decide (0 < c.credits) && (c.station.isNone || st.spill || decide (t.bytes ≤ c.room))

/-- A local station consumer whose tile neither SRAM nor the spillway can take makes the put wait (R142). -/
def State.roomHere (s : State) (st : Strm) (t : Tile) : Bool :=
  st.cons.all fun c => c.station.isNone || c.mid ≠ s.mid ||
    (c.spilled.isEmpty && decide (t.bytes ≤ st.free c)) ||
    (st.spill && decide (s.rd (K.spillInuse st.pid) + t.bufs ≤ s.rd (K.spillQuota st.pid)) &&
      decide (t.bufs ≤ s.sw.tbCache.length))

/-- Put a tile on a stream: one credit of every consumer, one copy per module, whose cells the copies share (R243). TILES counts
the puts of stations (R132). -/
def State.putTile (s : State) (pid flow sid : Nat) (t0 : Tile) : State :=
  match s.strmGet pid flow sid with
  | none => s
  | some st =>
    let t := { t0 with tnum := st.tnum }
    let s1 := s.setStrm pid flow sid fun st => { st with
      tnum := (st.tnum + 1) % 2 ^ 32, fin := st.fin || t.fin
      cons := st.cons.map fun c => { c with credits := c.credits - 1, room := c.room - t.bytes } }
    let s2 := if st.prod.isSome then s1.setFlow pid flow fun f => { f with tiles := f.tiles + 1 } else s1
    let s3 := if t.poison then s2.bump (K.poisonTiles pid) 1 else s2
    let far := ((st.cons.filter fun c => c.mid ≠ s.mid).map Cons.mid).eraseDups
    let ing := s.prodIngress st
    let s4 := s3.each far fun s d => s.tileAway (tileFrames s.mid d pid flow sid st.tc ing st.pctx t)
    let egrs := ((st.cons.filter fun c => c.mid = s.mid).map (s.consEgress pid flow)).eraseDups
    if egrs.isEmpty then s4 else s4.tileHere (tileFrames s.mid s.mid pid flow sid st.tc ing st.pctx t) egrs

/-- A station puts a tile. On a shadow it is digested and discarded (R389); a fed shadow gets its digest (R390).
Log entry 28 (DESIGN CHOICE). -/
def State.stnPut (s : State) (who : InstRef) (sid : Nat) (t : Tile) : State :=
  match s.strmGet who.pid who.flow sid with
  | none => s
  | some st =>
    let port := match s.instGet who with
      | some i => i.outs.findIdx fun x => x = sid
      | none => 0
    let k : TileKey := ⟨who.pid, who.flow, who.index, port, st.tnum⟩
    if s.life.mstate = .shadow then
      (s.setStrm who.pid who.flow sid fun st => { st with tnum := (st.tnum + 1) % 2 ^ 32, fin := st.fin || t.fin }).ownDigest
        k (tileDigest { t with tnum := st.tnum })
    else
      let s1 := match s.fed who with
        | some d => s.emit (.feedDigest d k (tileDigest { t with tnum := st.tnum }))
        | none => s
      s1.putTile who.pid who.flow sid t

/-! ### Credits (R116, R304, R305) -/

/-- Grant an attach producer the credits that every consumer has returned. -/
def State.grantProducer (s : State) (pid flow sid : Nat) : State :=
  match s.strmGet pid flow sid with
  | none => s
  | some st =>
    if st.prod.isSome || st.pmid ≠ s.mid then s
    else
      let low := st.cons.foldl (fun m c => min m c.credits) (st.depth + 1)
      if st.pcredits < low && !st.cons.isEmpty then
        (s.setStrm pid flow sid fun st => { st with pcredits := low }).capSend
          { CapOut.to st.pep st.pctx 0 0x11 with addr := flow <<< 48 ||| sid <<< 32, arg := low - st.pcredits }
      else s

/-- A consumer's credit comes back to the producer's module, with the free bytes of its buffer. -/
def State.creditIn (s : State) (pid flow sid ci free : Nat) : State :=
  (s.setCons pid flow sid ci fun c => { c with credits := c.credits + 1, room := free }).grantProducer pid flow sid

/-- A consumer returns the credit of a tile of `n` bytes (a shadow, whose tiles come from the feed, none): at once on this module,
where the room is that of every tile put, else by a CTRL frame in TC0 (OP 0x04), which names the stream as a STREAM frame does,
with the consumer, its free bytes and the partition as payload. Log entry 41 (DEDUCED). -/
def State.creditBack (s : State) (pid flow sid ci n : Nat) : State :=
  match s.strmGet pid flow sid with
  | none => s
  | some st =>
    match st.cons? ci with
    | none => s
    | some c =>
      if st.pmid = s.mid then s.creditIn pid flow sid ci (c.room + n)
      else if s.life.mstate = .shadow then s
      else s.sendPlain { Frame.blank with
        kind := kCtrl, op := 4, tc := 0, dst := st.pmid, fpa := flow <<< 40 ||| sid <<< 24
        payload := fitTo 64 (wordBytes [ci, st.free c, pid]) }

/-- The spillway reads tiles back while room is free (R141). One tile. -/
def State.readBack (s : State) (pid flow sid ci : Nat) : State :=
  match s.strmGet pid flow sid with
  | none => s
  | some st =>
    match st.cons? ci with
    | none => s
    | some c =>
      match c.spilled with
      | [] => s
      | (t, bs) :: r =>
        if t.bytes ≤ st.free c then
          let s1 := s.setCons pid flow sid ci fun c => { c with buf := c.buf ++ [t], spilled := r }
          ((s1.giveBufs pid bs).consEv pid flow c 0x035 bs.length).pumpTransit pid flow sid ci 4097
        else s

/-- R116: a tile held by a handle is released; its credit returns. -/
def State.releaseTile (s : State) (pid flow sid ci tnum : Nat) : State :=
  let n := (((s.strmGet pid flow sid).bind fun t => t.cons? ci).bind fun c => c.held.find? fun t => t.tnum = tnum).elim 0 Tile.bytes
  let s1 := s.setCons pid flow sid ci fun c => { c with held := c.held.filter fun t => t.tnum ≠ tnum }
  (s1.creditBack pid flow sid ci n).pumpTransit pid flow sid ci 4097

end Sys2Proof.Machine
end

