-- ==== Sys2Proof/Machine/HostOps.lean ====
section
/-! DEFINITION. What comes back to the home (R83, R85, R93, R98 to R101): mirror acknowledgements, owner-table
reads and updates, recalls, and lost hosts. -/

namespace Sys2Proof.Machine

open Sys2Proof

/-! ### Mirror acknowledgements (R93, R94) -/

/-- The home performs a mirrored write or atomic alone or after the mirror has, and answers. An atomic answers
the old value that the home computed under its lock. -/
def State.mirrorEnd (s : State) (e : Held) (old st : Nat) : State :=
  let s1 := s.dropHeld e.h.hid
  if st = Status.ok then s1.performAnswer e.h
  else s1.homeAnswer e.h st (s1.loadIndicator e.h) (if isAtomic e.h.f then leBytes (atomBytes e.h.f) old else [])

/-- One mirror write of held request `hid` has been acknowledged with `st`. -/
def State.mirrorAcked (s : State) (hid st : Nat) : State :=
  match s.home.held.find? fun e => e.h.hid = hid with
  | none => s
  | some e =>
    match e.why with
    | .mirror old left bad =>
      let bad1 := if bad = Status.ok then st else bad
      if left ≤ 1 then s.mirrorEnd e old bad1
      else s.mapHome fun x => { x with
        held := mapIf (fun a => a.h.hid = hid) (fun a => { a with why := .mirror old (left - 1) bad1 }) x.held }
    | .ownerRead _ => s
    | .recall _ => s
    | .retry => s
    | .snoop => s
    | .moved _ => s

/-- R94: the mirror is lost; the home performs the request alone and counts the degradation. -/
def State.mirrorAlone (s : State) (hid mirror : Nat) : State :=
  match s.home.held.find? fun e => e.h.hid = hid with
  | none => s
  | some e =>
    match e.why with
    | .mirror _ _ _ => ((s.dropHeld hid).noteDegraded e.h.f.pid mirror).performAnswer e.h
    | .ownerRead _ => s
    | .recall _ => s
    | .retry => s
    | .snoop => s
    | .moved _ => s

/-! ### Owner table (R83, R85) -/

/-- The requests held for an owner-table read of a flag. -/
def State.heldOn (s : State) (flag : Nat) : List Held :=
  s.home.held.filter fun e => e.why = .ownerRead flag

/-- The response to an owner-table read: while an update came in between, it is read again; else the held writes
are checked, or fail with the read's status. -/
def State.ownerAnswer (s : State) (flag st word : Nat) : State :=
  let n := (s.home.ownerReads.filter fun a => a = flag).length
  if n = 0 then s
  else if 1 < n then s.mapHome fun x => { x with ownerReads := x.ownerReads.erase flag }
  else
    let hs := s.heldOn flag
    let s1 := s.mapHome fun x => { x with
      ownerReads := x.ownerReads.filter fun a => a ≠ flag
      held := x.held.filter fun e => e.why ≠ .ownerRead flag }
    if st = Status.ok then
      (s1.ownerPut flag (bits word 31 16) (bits word 15 0)).each hs fun s e => s.ownerCheck e.h
    else s1.each hs fun s e => s.homeAnswer e.h st (s.loadIndicator e.h) []

/-- R83: the table is cleared when links return and on entry into MEMBER. -/
def State.clearOwners (s : State) : State := s.mapHome fun x => { x with owners := [] }

/-- R83: a module all of whose links to the flag's home are masked no longer holds a CAS.OWN. The model takes this to mean that
no path of R254 to it, direct or relayed, is usable. Log entry 65 (DEDUCED). -/
def State.casReach (s : State) : State :=
  (s.mapHome fun x => { x with cas := x.cas.map fun c => { c with
    waitFor := c.waitFor.filter fun d => s.usable d 0 || s.usable d 1 || s.usable d 2 } }).casSettle

/-! ### Recalls (R98 to R100) -/

/-- The request waits on the recall of a line. -/
def Held.awaits (e : Held) (line : Nat) : Bool :=
  match e.why with
  | .recall ls => ls.contains line
  | .ownerRead _ => false
  | .mirror _ _ _ => false
  | .retry => false
  | .snoop => false
  | .moved _ => false

/-- The request waits on the recall of that line alone. -/
def Held.awaitsLast (e : Held) (line : Nat) : Bool :=
  match e.why with
  | .recall ls => ls.all fun l => l = line
  | .ownerRead _ => false
  | .mirror _ _ _ => false
  | .retry => false
  | .snoop => false
  | .moved _ => false

/-- One recall less to wait on. -/
def Held.without (e : Held) (line : Nat) : Held :=
  match e.why with
  | .recall ls => { e with why := .recall (removeAll ls [line]) }
  | .ownerRead _ => e
  | .mirror _ _ _ => e
  | .retry => e
  | .snoop => e
  | .moved _ => e

/-- A recall has ended: the requests that waited on it alone go back to the front of the queue, in their order. -/
def State.recallEnds (s : State) (line : Nat) : State :=
  let hs := s.home.held.filter fun e => e.awaitsLast line
  s.mapHome fun x => { x with
    recalls := x.recalls.filter fun r => r.line ≠ line
    held := (x.held.filter fun e => !e.awaitsLast line).map fun e => e.without line
    inq := hs.map Held.h ++ x.inq }

/-- Host `bit` has answered a recall of `line` with its data, if it held the line modified. An invalidating recall
ends its copy; a recall for data leaves it S. -/
def State.recallData (s : State) (line bit : Nat) (data : List Byte) : State :=
  match s.home.recalls.find? fun r => r.line = line with
  | none => s
  | some r =>
    if !r.hosts.testBit bit then s
    else
      let s1 := if data.isEmpty then s else s.store (line * 64) (data.take 64)
      let s2 := match s1.dirOf line with
        | none => s1
        | some e =>
          if r.invalidate then
            let left := clrBit e.sharers bit
            s1.setDir { e with sharers := left, dstate := if left = 0 then 0 else 1 }
          else s1.setDir { e with dstate := 1 }
      let left := clrBit r.hosts bit
      if left = 0 then s2.recallEnds line
      else s2.mapHome fun x => { x with
        recalls := mapIf (fun a => a.line = line) (fun a => { a with hosts := left }) x.recalls }

/-- The write-back of a host is a write to its frame, so it waits while the frame moves (R92). -/
def State.recallAnswer (s : State) (line bit : Nat) (data : List Byte) : State :=
  if !data.isEmpty && s.frameMoving (line * 64) then s.mapHome fun x => { x with backs := x.backs ++ [(line, bit, data)] }
  else s.recallData line bit data

/-- A recall of another home that arrives at this module's EP goes to the host on CP `cp` (R98). -/
def State.recallForHost (s : State) (f : Frame) : State :=
  ((s.hold ⟨s.nextId, f, none, s.now, false⟩ .snoop).fresh).snoop (f.context % 4) (f.fpa / 64) (f.op = 0x60)

/-- R98: the host on this module answers a snoop of `line` (FPA[55:6]): to the own home, or to the home that sent
the recall. -/
def State.snoopAnswered (s : State) (line host : Nat) (data : List Byte) : State :=
  let home := line / 2 ^ 45
  if home = s.mid then s.recallAnswer (line % 2 ^ 45) host data
  else
    match s.home.held.find? fun e => e.why = .snoop && e.h.f.fpa / 64 = line && e.h.f.context % 4 = host % 4 with
    | none => s
    | some e => (s.dropHeld e.h.hid).homeAnswer e.h Status.ok 0 data

/-- R100: the recall of a line has had no answer for 50 µs: every request that waits on it completes with TIMEOUT. -/
def State.recallLate (s : State) (line : Nat) : State :=
  if s.home.recalls.any fun r => r.line = line then
    let hs := s.home.held.filter fun e => e.awaits line
    let s1 := s.mapHome fun x => { x with
      recalls := x.recalls.filter fun r => r.line ≠ line
      held := x.held.filter fun e => !e.awaits line
      backs := x.backs.filter fun b => b.1 ≠ line }
    (s1.bump K.recallTimeouts 1).each hs fun s e => s.homeAnswer e.h Status.timeout (s.loadIndicator e.h) []
  else s

/-! ### Lost hosts (R101) -/

/-- Directory entries that name a lost host. -/
def State.dirLost (s : State) (bit : Nat) : List DirEntry := s.home.dir.filter fun e => e.sharers.testBit bit

/-- R101: a host is declared lost. Causes: 0 HOST_LOST written, 1 CP link down, 2 its module lost. -/
def State.loseHost (s : State) (mid cp cause : Nat) : State :=
  let bit := 4 * mid + cp
  if s.home.lostHosts.testBit bit then s
  else
    let ended := s.home.recalls.filter fun r => r.hosts.testBit bit
    let s1 := s.mapHome fun x => { x with
      lostHosts := setBit x.lostHosts bit
      sweeps := x.sweeps ++ [⟨mid, cp, cause, s.now,
        ((s.dirLost bit).filter fun e => e.dstate = 2).length,
        ((s.dirLost bit).filter fun e => e.dstate = 1).length, ended.length⟩] }
    let s2 := s1.each ended fun s r =>
      let s3 := s.dirResolve r.line
      if clrBit r.hosts bit = 0 then s3.recallEnds r.line
      else s3.mapHome fun x => { x with
        recalls := mapIf (fun a => a.line = r.line) (fun a => { a with hosts := clrBit a.hosts bit }) x.recalls }
    if mid = s.mid then
      s2.mapHome fun x => { x with held := x.held.filter fun e => !(e.why = .snoop && e.h.f.context % 4 = cp) }
    else s2

/-- The host-loss report (HL_LAST): MID, CP, cause, times in ticks, lines poisoned, sharer bits cleared,
recalls ended. Log entry 21 (PRESUMED). -/
def sweepReport (w : Sweep) (now : Nat) : List Byte :=
  fitTo 32 ([BitVec.ofNat 8 w.mid, BitVec.ofNat 8 w.cp, BitVec.ofNat 8 w.cause, 0] ++
    leBytes 8 w.at_ ++ leBytes 8 now ++ leBytes 4 w.poisoned ++ leBytes 4 w.cleared ++ leBytes 4 w.ended)

/-- R101 steps 3 and 4: the sweep resolves every entry that is left and the report is written. -/
def State.sweepEnd (s : State) (mid cp : Nat) : State :=
  match s.home.sweeps.find? fun w => w.mid = mid && w.cp = cp with
  | none => s
  | some w =>
    let bit := 4 * mid + cp
    let s1 := s.each (s.dirLost bit) fun s e => s.dirResolve e.line
    let s2 := s1.mapHome fun x => { x with sweeps := x.sweeps.filter fun v => !(v.mid = mid && v.cp = cp) }
    ((s2.wr K.hlLast (leNat (sweepReport w s.now))).report K.hlReports).event K.hlLast

/-- A lost host rejoins when its link has retrained. -/
def State.hostBack (s : State) (mid cp : Nat) : State :=
  (s.sweepEnd mid cp).mapHome fun x => { x with lostHosts := clrBit x.lostHosts (4 * mid + cp) }

end Sys2Proof.Machine
end

