-- ==== Sys2Proof/Machine/DlvOps.lean ====
section
/-! DEFINITION. Delivery and recovery (R228, R229, R256 to R265): frames that leave the core, the duplicate
window, answers at the requester, exhausted budgets, masked links and lost peers. -/

namespace Sys2Proof.Machine

open Sys2Proof

/-! ### Copies in the core -/

/-- R229: the copies queued for an egress are discarded. -/
def State.dropQueued (s : State) (egr : Nat) : State :=
  let ids := (s.sw.frames.filter fun c => c.egr.contains egr).map CoreFrame.id
  s.each ids fun s id => (s.setCore id fun c => { c with egr := removeAll c.egr [egr] }).coreOut id

/-! ### Answers at the requester -/

/-- The flag word in an owner-table read's response. -/
def flagWord (d : List Byte) : Nat := word64 d 0

/-- The part of a transaction that an open request stands for ends: its fills end, and it completes. -/
def State.endReq (s : State) (tx pi st : Nat) (tmo : Bool) : State :=
  match s.txOf tx with
  | none => s
  | some t =>
    match t.parts[pi]? with
    | none => s
    | some p =>
      let s1 := (s.endFills tx pi st p []).partDone tx pi st 0 [] tmo
      match t.agent, t.acc with
      | .reader _, .load => s1.fetchDone (p.fpa / 64) st []
      | _, _ => s1

/-- A request that the module itself sent ends with a status: a mirror write (`hid`), an owner-table read, a
recall, or a part of a transaction. -/
def State.reqEnds (s : State) (f : Frame) (loc : Option (Nat × Nat)) (st li : Nat) (data : List Byte) (answered : Bool) : State :=
  match loc with
  | none => s
  | some (0, hid) =>
    if f.op = 0x62 then s.mirrorAcked hid st
    else if f.op = 0x63 then s.ownerAnswer f.fpa st (flagWord data)
    else if st = Status.ok then s.recallAnswer (fpaLocal f.fpa / 64) (4 * f.dst + f.context % 4) data
    else s
  | some (tx, pi) =>
    if answered then s.respond tx pi st li data false else s.endReq tx pi st (st = Status.timeout)

/-- A RSP frame reaches the requester: it closes the request whose SEQ and epoch it carries; a second response
finds it closed and is discarded (R256, R257). -/
def State.rspIn (s : State) (f : Frame) : State :=
  match (s.peer f.src).opens.find? fun o => o.seq = f.seq && o.f.pepoch = f.pepoch && o.f.kind = kReq && o.f.op = f.op with
  | none => s
  | some o =>
    ((s.closeOpen f.src f.seq).reqEnds o.f o.loc (statusSeen f.status) f.li f.payload true).settleFlows

/-- The sequence numbers of an ACK payload. -/
def ackSeqs (f : Frame) : List Nat :=
  (List.range (min 21 (f.fpa % 32))).map fun i => leNat ((f.payload.drop (3 * i)).take 3)

/-- R258: an ACK closes STREAM and CTRL frames, and stops the timer of a REQ. -/
def State.acked (s : State) (d : Nat) (seqs : List Nat) : State :=
  s.each seqs fun s q =>
    match (s.peer d).opens.find? fun o => o.seq = q with
    | none => s
    | some o =>
      if o.f.kind = kReq then s.setOpen d { o with acked := true, sentAt := s.now }
      else
        let s1 := s.closeOpen d q
        if o.f.kind = kCtrl && o.f.op = 2 then s1.casAck d (some (word64 o.f.payload 0)) else s1

/-! ### Budgets (R260) -/

/-- An owner update is still owed: a CAS.OWN waits for that module to acknowledge it (R83). -/
def State.updateOwed (s : State) (f : Frame) : Bool :=
  s.home.cas.any fun c => c.h.f.fpa = word64 f.payload 0 && c.waitFor.contains f.dst

/-- R260: the budget of a frame is exhausted. An owner update goes on while its CAS.OWN waits for it (R83). -/
def State.exhausted (s : State) (o : OpenFrame) : State :=
  let s1 := (s.bump K.budgetExhausted 1).closeOpen o.f.dst o.seq
  if o.f.kind = kReq then
    (s1.reqEnds o.f o.loc Status.timeout 0 [] false).settleFlows
  else if o.f.kind = kStream then s1.failFlow o.f.pid o.f.flowOf Status.timeout noStation
  else if o.f.op = 2 && s1.updateOwed o.f then s1.sendSeq { o.f with resend := false } 0 0 (some (0, 0))
  else s1

/-- R259: one attempt of a frame has failed. Attempts after the fourth are not made. -/
def State.attemptFails (s : State) (o : OpenFrame) : State :=
  if 3 ≤ o.tries then s.exhausted o else s.resend o

/-! ### Lost peers (R262) -/

/-- The module that serves a part from now on. -/
def State.setSent (s : State) (tid pi mid : Nat) : State :=
  match s.txOf tid with
  | none => s
  | some t => s.setTx { t with parts := (t.parts.zip (List.range t.parts.length)).map fun x =>
      if x.2 = pi then { x.1 with sent := mid } else x.1 }

/-- R94: the request that goes to the mirror in place of one to a lost home. One that waited and was never sent is a new
request, whose ORIG fields are its own; a reissue to this module itself carries no sequence number (2^24). -/
def State.reissue (s : State) (o : OpenFrame) (waited : Bool) : Frame :=
  let own := o.f.mmid = s.mid
  if waited then { retryFrame o.f 0 0 (!own) with resend := false, src := s.mid, seq := 0, pepoch := 0 }
  else { retryFrame o.f o.f.seq o.f.pepoch false with
    resend := false, origSrc := s.mid, seq := if own then 2 ^ 24 else 0 }

/-- R94: what becomes of one open request towards a lost home; `waited` marks one that was never sent. Answers whether it
completed with HOME_LOST. -/
def State.loseReq (s : State) (o : OpenFrame) (waited : Bool) : State × Bool :=
  match o.loc with
  | some (0, hid) =>
    if o.f.op = 0x62 then (s.mirrorAlone hid o.f.dst, false)
    else if o.f.op = 0x63 then (s.ownerAnswer o.f.fpa Status.homeLost 0, true)
    else (s, false)
  | some (tx, pi) =>
    if o.f.mtype = mtMirrored && !o.f.retry && !s.peerLost o.f.mmid then
      let g := s.reissue o waited
      let s1 := s.setSent tx pi o.f.mmid
      if o.f.mmid = s.mid then (s1.sourceFrame g.ingressOf g [egHome] (some (tx, pi)), false)
      else (s1.sendSeq g 0 0 (some (tx, pi)), false)
    else (s.endReq tx pi Status.homeLost false, true)
  | none => (s, false)

/-- R95: requests held for H are served once H is lost. They go back to the queue, no longer marked. -/
def State.releaseRetries (s : State) (h : Nat) : State :=
  let hs := s.home.held.filter fun e => e.why = .retry && e.h.f.origHome = h
  s.mapHome fun x => { x with
    held := x.held.filter fun e => !(e.why = .retry && e.h.f.origHome = h)
    inq := x.inq ++ hs.map Held.h }

/-- R392: the comparison restarts with every count at zero; it starts at once when a flow runs, else at the next launch.
Log entry 27 (DEDUCED). -/
def State.shadowRestart (s : State) (partner : Nat) : State :=
  (s.mapShd fun h => { h with
    startAt := if s.stn.flows.any fun f => f.fst = .running then some s.now else none
    running := partner ≠ 31, compared := 0, skipped := 0, stnSkipped := 0, mismatches := 0
    first := none, own := [], theirs := [] }).wr K.shadowResult (if partner = 31 then 0 else 1)

/-- LAST_PEER_LOST (24 bytes): MID, cause (0 light, 1 keep-alive), mask time, declaration time, requests completed
with HOME_LOST. Log entry 21 (PRESUMED). -/
def peerLostBytes (d cause n maskAt now : Nat) : List Byte :=
  fitTo 24 ([BitVec.ofNat 8 d, BitVec.ofNat 8 cause] ++ leBytes 8 maskAt ++ leBytes 8 now ++ leBytes 4 n)

/-- R262: peer `d` is declared lost. -/
def State.declareLost (s : State) (d : Nat) : State :=
  if s.peerLost d then s
  else
    let pr := s.peer d
    let s1 := s.wr K.peerLost (setBit (s.rd K.peerLost) d)
    let s2 := s1.setPeer d fun p => { p with
      outEpoch := (p.outEpoch + 1) % 16, outSeq := 0, inEpoch := none, win := [], high := 0, opens := [], waitq := [] }
    let all := pr.opens.map (fun o => (o, false)) ++
      pr.waitq.map fun w => ((⟨0, w.1, 0, 0, 3, [], false, s.now, w.2.1⟩ : OpenFrame), true)
    let r := (all.filter fun o => o.1.f.kind = kReq).foldl (fun (a : State × Nat) o =>
      let x := a.1.loseReq o.1 o.2
      (x.1, a.2 + b2n x.2)) (s2, 0)
    let s3 := (r.1.casAck d none).releaseRetries d
    let s4 := ((s3.wr K.lastPeerLost (leNat (peerLostBytes d pr.maskCause r.2 pr.maskAt s.now))).bump K.peersLost 1).event
      K.lastPeerLost
    let s5 := s4.logFault 0x0F d 0 7 Status.homeLost 0 0
    let s6 := s5.each (List.range 4) fun s c => s.loseHost d c 2
    let s7 := if s6.rd K.shadowPartner = d then (s6.wr K.shadowPartner 31).shadowRestart 31 else s6
    let s8 := if s7.rd K.shadowFeed = d then s7.wr K.shadowFeed 31 else s7
    (s8.loseModule d).settleFlows

/-- R262: how many notices of modules in MEMBER report their link to X masked, and how many are needed. -/
def State.maskReports (s : State) (d : Nat) : Nat :=
  (s.peerMids.filter fun m => m ≠ d && (s.peer m).heardFrom && (s.peer m).vstate = 3 && (s.peer m).vmask.testBit d).length

def State.reportsNeeded (s : State) : Nat := if s.meshN ≤ 2 then 0 else if s.meshN = 3 then 1 else 2

/-- Declare a peer lost if its own link is masked and enough notices report theirs. -/
def State.judgePeer (s : State) (d : Nat) : State :=
  if s.masked d && !s.peerLost d && decide (s.reportsNeeded ≤ s.maskReports d) then s.declareLost d else s

/-! ### Masked links (R261) -/

/-- The open frames whose current attempt crosses fabric port `p`. -/
def State.crossing (s : State) (p : Nat) : List OpenFrame :=
  (s.dlv.peers.map fun pr => pr.opens.filter fun o => o.path < 3 && s.egressOf o.f.dst o.path = p).flatten

/-- R261: the link to `d` is masked. Cause 0 light, 1 keep-alive, 2 the port went down otherwise. -/
def State.maskLink (s : State) (d cause : Nat) : State :=
  if s.masked d then s
  else
    let p := s.portTo d
    let open_ := s.crossing p
    let s1 := (s.wr K.peerMask (setBit (s.rd K.peerMask) d)).setPeer d fun x => { x with
      maskAt := s.now, maskCause := cause, unmaskedAt := s.now }
    let s2 := (s1.dropQueued p).logFault 0x02 p 0 6 0 0 0
    let s3 := s2.each open_ fun s o =>
      if (s.peer o.f.dst).opens.any fun x => x.seq = o.seq then s.attemptFails o else s
    ((((s3.notices).loseModule d).casReach).judgePeer d)

/-- R263: the link to `d` is unmasked; the owner table is cleared (R83). -/
def State.unmaskLink (s : State) (d : Nat) : State :=
  if s.masked d then
    ((s.wr K.peerMask (clrBit (s.rd K.peerMask) d)).clearOwners).notices
  else s

/-! ### Announcements (R263, R413) -/

/-- R263 step 4: a peer announces its outbound epoch and next SEQ. -/
def State.adopt (s : State) (d epoch nextSeq : Nat) : State :=
  s.setPeer d fun p =>
    if p.inEpoch = some epoch then p
    else { p with inEpoch := some epoch, win := [], high := (nextSeq + 2 ^ 24 - 1) % 2 ^ 24 }

/-- R413: a module that is not in MEMBER or DRAINING takes the GEN of a peer in MEMBER. -/
def State.takeGen (s : State) (peerState gen : Nat) : State :=
  if peerState = 3 && !s.inService then s.wr K.routeGen (gen % 2) else s

/-- R263: a lost peer returns when it reaches SHADOW or MEMBER and the announcement has run. -/
def State.peerReturns (s : State) (d : Nat) : State :=
  let p := s.peer d
  if s.peerLost d && p.inEpoch.isSome && (p.vstate = 2 || p.vstate = 3) then
    (s.wr K.peerLost (clrBit (s.rd K.peerLost) d)).mapHome fun x => { x with
      degraded := x.degraded.filter fun e => e.2 ≠ d }
  else s

/-- The link-state view of a peer takes its state; a partner that left MEMBER ends the comparison (R392). -/
def State.peerStateIs (s : State) (d st : Nat) : State :=
  let s1 := s.setPeer d fun p => { p with vstate := st }
  if s1.rd K.shadowPartner = d && st ≠ 3 then (s1.wr K.shadowPartner 31).shadowRestart 31 else s1

/-- R261 to R263, R413: a link-state notice. -/
def State.noticeIn (s : State) (n : Notice) : State :=
  let s1 := (s.setPeer n.src fun p => { p with vmask := n.mask, heardFrom := true }).peerStateIs n.src n.mstate
  let s2 := ((s1.takeGen n.mstate n.gen).adopt n.src n.pepoch n.nextSeq).peerReturns n.src
  let s3 := s2.each (s2.peerMids.filter fun d => s2.masked d && d ≠ n.src && !n.mask.testBit d) fun s d =>
    s.setPeer d fun p => { p with unmaskedAt := s.now }
  (s3.each (s3.peerMids.filter fun d => d ≠ n.src && n.mask.testBit d) State.judgePeer).casReach

/-- The notice in a CTRL frame. -/
def noticeOf (f : Frame) : Notice :=
  ⟨f.src, word64 f.payload 0, word64 f.payload 1, word64 f.payload 2, word64 f.payload 3, word64 f.payload 4⟩

/-! ### The target's window (R257, Table DLV-3) -/

/-- How an arriving sequenced frame stands to the window. -/
inductive WinCase where
  | stale | below | fresh | dup (w : WinRec)
  deriving DecidableEq, Repr

def Peer.judge (p : Peer) (f : Frame) : WinCase :=
  if p.inEpoch ≠ some f.pepoch then .stale
  else
    let ahead := (f.seq + 2 ^ 24 - p.high) % 2 ^ 24
    if 0 < ahead && decide (ahead < 2 ^ 23) then .fresh
    else if 4096 ≤ (p.high + 2 ^ 24 - f.seq) % 2 ^ 24 then .below
    else
      match p.win.find? fun w => w.seq = f.seq with
      | some w => .dup w
      | none => .fresh

/-- Record a new frame; the window keeps the last 4,096 numbers. -/
def State.winAdd (s : State) (f : Frame) (done : Bool) : State :=
  s.setPeer f.src fun p =>
    let ahead := (f.seq + 2 ^ 24 - p.high) % 2 ^ 24
    let high := if 0 < ahead && ahead < 2 ^ 23 then f.seq else p.high
    { p with
      high := high
      win := (p.win.filter fun w => (high + 2 ^ 24 - w.seq) % 2 ^ 24 < 4096) ++ [⟨f.seq, done, f.op, 0, 0, []⟩] }

/-- Opcodes whose recorded response is sent again: STORE, write part, atomic, mirror write, hint. -/
def replays (op : Nat) : Bool :=
  (0x20 ≤ op && op ≤ 0x26) || op = 0x51 || (0x30 ≤ op && op ≤ 0x48) || op = 0x62 || op = 0x52

end Sys2Proof.Machine
end

