-- ==== Sys2Proof/Machine/TimeOps.lean ====
section
/-! DEFINITION. Rack time and gates (R206 to R224): lock state, frames, windows, overruns. -/

namespace Sys2Proof.Machine

open Sys2Proof

/-! ### Frames and windows -/

/-- Ticks of a frame. -/
def State.frameTicks (s : State) : Nat := 2 ^ s.rd K.frameLog2

/-- The entry applies in frame `k`. -/
def Gate.selects (g : Gate) (k : Nat) : Bool := k % 2 ^ g.rep = g.phase

/-- The opening edge in frame `k`. -/
def Gate.edge (g : Gate) (ft k : Nat) : Nat := k * ft + g.opn

/-- The first opening edge at or after `t`. -/
def Gate.nextEdge (g : Gate) (ft t : Nat) : Option Nat :=
  ((List.range (2 ^ g.rep + 2)).map fun i => t / ft + i).findSome? fun k =>
    if g.selects k && decide (t ≤ g.edge ft k) then some (g.edge ft k) else none

/-- The entry passes tiles of this flow and stream. -/
def Gate.passes (g : Gate) (pid flow sid : Nat) : Bool :=
  g.pid = pid && g.flow = flow && (g.sid = 0xFFFF || g.sid = sid)

/-- R221: an entry acts only for a flow in RUNNING. -/
def State.gateActs (s : State) (g : Gate) : Bool := s.running g.pid g.flow

/-! ### Streams and their egresses (R217) -/

/-- The gated egresses that a stream's tiles cross on this module. -/
def State.strmEgresses (s : State) (st : Strm) : List Nat :=
  ((st.cons.filter fun c => c.mid ≠ s.mid && st.pmid = s.mid).map fun c => s.portTo c.mid).eraseDups ++
    ((st.cons.filter fun c => c.mid = s.mid).map (s.consEgress st.pid st.flow)).eraseDups

/-- The streams that a gate entry matches. -/
def State.gateStreams (s : State) (g : Gate) : List Strm :=
  s.stn.strms.filter fun st => st.tc = 1 && g.passes st.pid st.flow st.sid && g.set = s.setOf st.pid st.flow && (s.strmEgresses st).contains g.port

/-- R221 step 4: TILES tiles, or every matching END, have crossed in this window. -/
def State.gateSpent (s : State) (g : Gate) : Bool :=
  decide (g.tiles ≤ g.crossed) ||
    (let ss := s.gateStreams g
     !ss.isEmpty && ss.all fun st => g.finished.contains st.sid)

/-- The open entry of an egress whose budget is not reached. -/
def State.openGate (s : State) (egr : Nat) : Option Gate :=
  s.slu.act.find? fun g => g.port = egr && g.isOpen && s.gateActs g && !s.gateSpent g

def State.setGate (s : State) (i : Nat) (g : Gate → Gate) : State :=
  match s.slu.act[i]? with
  | none => s
  | some x => s.mapSlu fun u => { u with act := setAt u.act i (g x) }

/-- R222: the closing edge of entry `i`; a STRICT window with a shortfall is an overrun. -/
def State.closeGate (s : State) (i : Nat) : State :=
  match s.slu.act[i]? with
  | none => s
  | some g =>
    let s1 := s.setGate i fun g => { g with isOpen := false, awake := false }
    if !g.isOpen then s1
    else
      let ended := let ss := s.gateStreams g
        !ss.isEmpty && ss.all fun st => g.finished.contains st.sid
      if g.strict && g.begun && !ended && decide (g.crossed < g.tiles) && s.gateActs g then
        s1.overrun g.pid g.set g.flow g.sid g.port s.now g.crossed g.tiles
      else s1

/-- The flow's entries begin a run: nothing has crossed since launch, and no END (R222). -/
def Gate.fresh (g : Gate) (pid flow : Nat) : Gate :=
  if g.pid = pid && g.flow = flow then { g with isOpen := false, awake := false, crossed := 0, begun := false, finished := [], closeAt := 0 } else g

/-- R222: `since launch` counts from the start of this run. -/
def State.freshGates (s : State) (pid flow : Nat) : State := s.mapSlu fun u => { u with act := u.act.map fun g => g.fresh pid flow }

/-- A partition in CLOSING opens no gate (R220). -/
def State.gateMay (s : State) (g : Gate) : Bool := s.gateActs g && s.locked && s.pstate g.pid = 1

/-- A gate window of an egress is open or begins within 313 ticks (R221 step 1). -/
def State.gateNear (s : State) (e : Nat) : Bool :=
  s.slu.act.any fun g => g.port = e && s.gateMay g && (g.isOpen || (match g.nextEdge s.frameTicks s.now with
    | some t => decide (t ≤ s.now + 313)
    | none => false))

/-! ### Look-ahead (R221 step 2) -/

/-- Usable lane groups of a fabric port (R279). -/
def State.groupsUp (s : State) (n : Nat) : Nat := (bitsSet (s.rd (K.fpGroups n)) 4).length

/-- Ticks that `n` cells take on an egress: 1.6 per cell and lane group on a fabric port (800 GB/s with four), 3.2 per cell and attach
port of the bond (100 GB/s), 1/12.5 on a station-die bridge (4 TB/s). Log entry 52 (DEDUCED). -/
def State.cellTicks (s : State) (egr n : Nat) : Nat :=
  if egr < 16 then cdiv (8 * n) (5 * max 1 (s.groupsUp egr))
  else if egr < 32 then cdiv (16 * n) (5 * max 1 (s.rd (K.apWidth (egr - 16)) / 8))
  else cdiv (2 * n) 25

/-- A frame of `n` cells started now ends before the next opening edge of the egress. Log entry 52 (DEDUCED). -/
def State.lookAhead (s : State) (egr n : Nat) : Bool :=
  (s.slu.act.filter fun g => g.port = egr && !g.isOpen && s.gateActs g).all fun g =>
    match g.nextEdge s.frameTicks s.now with
    | some e => decide (s.now + s.cellTicks egr n ≤ e)
    | none => true

/-! ### Lock state (R210 to R213) -/

/-- LOCK_STATE changes; it sends an EVENT (R357). -/
def State.setLock (s : State) (v : Nat) : State :=
  if s.rd K.lockState = v then s else (s.wr K.lockState v).event K.lockState

/-- R213: the module leaves LOCKED. -/
def State.loseLock (s : State) : State :=
  if s.rd K.lockState ≠ 2 then s
  else
    let s1 := ((s.setLock 0).bump K.lockLosses 1).mapTim fun t => { t with goodRun := 0, badRun := 0 }
    let open_ := (List.range s1.slu.act.length).filter fun i => match s1.slu.act[i]? with
      | some g => g.isOpen
      | none => false
    let s2 := s1.each open_ State.closeGate
    let armed := s2.stn.flows.filter fun f => f.fst = .armed
    let s3 := s2.each armed fun s f => s.failFlow f.pid f.flow Status.overrun noStation
    if s3.life.mstate = .shadow then s3.shadowRestart (s3.rd K.shadowPartner) else s3

/-- Peers through which an indirect estimate can run: reached directly, and LOCKED through a direct link to the root, as their
control symbols last said (R210). -/
def State.timePeers (s : State) : List Nat :=
  let r := s.rd K.rootMid
  s.peerMids.filter fun d => d ≠ r && s.linkUp d && s.tim.lockedPeers.contains d

/-- R210: the link to the root is masked and no peer gives an indirect estimate. -/
def State.judgeLock (s : State) : State :=
  let r := s.rd K.rootMid
  if r = s.mid || r = 31 then s
  else if !s.linkUp r && s.timePeers.isEmpty then s.loseLock
  else s

/-- Table TIM-2: UNLOCKED becomes ACQUIRING once a link to the root or to a locked peer is up. -/
def State.acquire (s : State) : State :=
  let r := s.rd K.rootMid
  if s.rd K.lockState = 0 && r ≠ 31 && r ≠ s.mid && (s.linkUp r || !s.timePeers.isEmpty) then
    (s.setLock 1).mapTim fun t => { t with goodRun := 0 }
  else s

/-! ### A link goes down (R261, R210, R229) -/

/-- Mask the link behind a fabric port, with everything that follows. -/
def State.portMasked (s : State) (p cause : Nat) : State :=
  if s.meshN ≤ p + 1 then s else ((s.maskLink (s.midAt p) cause).judgeLock).settleFlows

end Sys2Proof.Machine
end

