-- ==== Sys2Proof/Machine/Dark.lean ====
section
/-! DEFINITION. Ports that go down, contexts that detach, and the module in FAILED (R279, R308, R379, R383, Table ARC-6). -/

namespace Sys2Proof.Machine

open Sys2Proof

/-- Codes of FP_STATE and AP_STATE (Table LNK-9). -/
abbrev psDark : Nat := 0
abbrev psTraining : Nat := 1
abbrev psUp : Nat := 2
abbrev psDegraded : Nat := 3
abbrev psHeld : Nat := 4

/-- Fabric ports live in these states (Table ARC-6). -/
def State.fabricLive (s : State) : Bool :=
  s.inService || s.life.mstate = .training || s.life.mstate = .shadow || s.life.mstate = .maintenance

/-- Attach and CXL ports live in these states (Table ARC-6). -/
def State.attachLive (s : State) : Bool := s.inService || s.life.mstate = .training || s.life.mstate = .shadow

/-- A fabric port goes down with state `code`; its link is masked with `cause`. -/
def State.fpDown (s : State) (n code cause : Nat) (laser : Bool) : State :=
  let s1 := (s.wr (K.fpState n) code).setFp n fun p => { p with
    phase := 0, keyed := false, agreeing := false, oldKey := false, idle := false, laser := laser
    heldAt := s.now, dayTest := none }
  s1.portMasked n cause

/-- Flows with an attach endpoint at a context. -/
def State.ctxFlows (s : State) (ep n : Nat) : List Flow :=
  s.stn.flows.filter fun f => (s.strmsOf f.pid f.flow).any fun t =>
    (t.prod.isNone && t.pmid = s.mid && t.pep = ep && t.pctx = n) ||
      t.cons.any fun c => c.station.isNone && c.mid = s.mid && c.ep = ep && c.ctx = n

/-- R308: a context enters DETACHED; its open transactions end inside the EP without RSP, its flows abort.
Log entry 46 (DEDUCED). -/
def State.detachCtx (s : State) (ep n : Nat) : State :=
  let s1 := (s.setCtx ep n fun c => { c with cstate := .detached, discard := [] }).mapEp fun e => { e with
    waits := e.waits.filter fun w => !(w.ep = ep && w.ctx = n)
    buffered := e.buffered.filter fun b => !(b.m.ep = ep && b.m.ctx = n) }
  let mine := s1.req.txs.filter fun t => !t.closed && (match t.dest with
    | .cap e _ c _ => e = ep && c = n
    | _ => false)
  let s2 := s1.each mine State.haltTx
  s2.each (s2.ctxFlows ep n) fun s f => s.failFlow f.pid f.flow Status.homeLost noStation

/-- The daily check of an attach bond starts with lane 0, or waits until no context is bound (99) (R285). -/
def State.startApQual (s : State) (b : Nat) : State :=
  s.setAp b fun p => { p with dayTest := some (if s.ep.ctxs.any fun c => c.ep = epOfPort b && c.port = b then 99 else 0) }

/-- A check that waited starts when the bond's last context is gone. -/
def State.apQualDue (s : State) (b : Nat) : State :=
  if (s.aport b).dayTest = some 99 then s.startApQual b else s

/-- Contexts bound to the bond that starts at port `b`. -/
def State.bondCtxs (s : State) (b : Nat) : List Ctx := s.ep.ctxs.filter fun c => c.ep = epOfPort b && c.port = b

/-- An attach bond goes down with state `code` (R308). Messages in its port buffer are lost with the link. -/
def State.apDown (s : State) (b code : Nat) : State :=
  let was := (s.aport b).up
  let s1 := s.each ((List.range 16).filter fun a => s.bondOf a = b) fun s a =>
    ((s.wr (K.apState a) code).wr (K.apWidth a) 0).setAp a fun p => { p with
      up := false, phase := 0, idle := false, unacked := [], used := [0, 0, 0], owed := [0, 0, 0], send := [0, 0, 0], outq := [], nakSent := false
      heldAt := s.now, dayTest := none }
  let s2 := if was then s1.logFault 0x03 (16 + b) 0 0 Status.homeLost 0 0 else s1
  s2.each (s2.bondCtxs b) fun s c => s.detachCtx c.ep c.n

/-- A CXL port goes down: its host is lost, or its expander's region answers POISON (R288, R289). -/
def State.cpDown (s : State) (c : Nat) : State :=
  let s1 := (s.setCp c fun p => { p with up := false, memOn := false, backInval := false }).wr (K.cpLink c) 0
  if (s.cport c).up then
    let s2 := s1.logFault (if s.rd (K.cpMode c) = 2 then 0x05 else 0x04) c 0 0 0 0 0
    if s.rd (K.cpMode c) = 1 then s2.loseHost s.mid c 1 else s2
  else s1

/-- Attach and CXL ports dark (Table ARC-6). -/
def State.attachDark (s : State) : State :=
  let s1 := s.each ((List.range 16).filter fun a => s.bondOf a = a) fun s b => s.apDown b psDark
  s1.each (List.range 4) State.cpDown

/-- Fabric ports dark. -/
def State.fabricDark (s : State) : State := s.each (List.range 16) fun s n => s.fpDown n psDark 2 false

/-- R383: the module enters FAILED; every laser and driver stops and no home is served. -/
def State.enterFailed (s : State) (kind unit : Nat) : State :=
  let s1 := (s.logFault kind unit 0 8 Status.homeLost 0 0).enter .failed
  (s1.mapLife fun l => { l with heldReq := none }).fabricDark.attachDark

/-- R233: more than 1,024 retired cells of one quadrant are a fatal fault. -/
def State.settleCells (s : State) : State :=
  match (List.range 4).find? fun q => decide (1024 < nmGet s.sw.retired q 0) with
  | some q => if s.life.mstate = .failed || s.life.mstate = .off then s else s.enterFailed 0x0E q
  | none => s

/-- R391: the comparison fails: the module enters FAILED. -/
def State.settleShadow (s : State) : State :=
  if s.life.mstate = .shadow && s.rd K.shadowResult = 3 then s.enterFailed 0x0E 0 else s

/-- The instances of the stations of one die fail with `st`, and the die takes no more (R379, R380). -/
def State.dieFails (s : State) (sd st : Nat) : State :=
  let is := s.stn.insts.filter fun i => i.sd = sd
  let s1 := s.each is fun s i => s.failStation i.who st
  ((s1.mapStn fun x => { x with
    clusters := x.clusters.filter fun c => c.1 ≠ sd
    cores := x.cores.map fun c => if c.sd = sd then { c with out := true, hash := none, absorb := [], retiring := 0 } else c
    retiring := x.retiring.filter fun c => c.1 ≠ sd }).wr (K.sdActive0 + sd) 0)

end Sys2Proof.Machine
end

