-- ==== Sys2Proof/Machine/EpOps.lean ====
section
/-! DEFINITION. The end-point (R61 to R73, R77, R294 to R315): opening transactions, fences, INVAL, arrival counters,
copy queues, and the processing of CAP messages. -/

namespace Sys2Proof.Machine

open Sys2Proof

/-! ### Opening transactions (R71 to R73) -/

/-- Transactions whose values an acquire fence waits for: earlier loads, atomics and tile reads (R71).
Log entry 33 (DEDUCED). -/
def Acc.returns : Acc → Bool
  | .load => true
  | .atomic => true
  | .tileRead => true
  | _ => false

/-- Open accesses of an agent that return values. -/
def State.valueTxs (s : State) (a : Agent) : List Nat := ((s.txsOf a).filter fun t => t.acc.returns).map Tx.id

/-- Open accesses of an agent, for all of which a release waits (Table ORD-3). -/
def State.accessTxs (s : State) (a : Agent) : List Nat :=
  ((s.txsOf a).filter fun t => t.acc ≠ .fence && t.acc ≠ .inval && t.acc ≠ .hint && !t.closed).map Tx.id

/-- The write-backs that a RACK release starts (R77). -/
def State.rackBack (s : State) (pid : Nat) : State × List Nat := s.writeBackAll fun l => l.pid = pid

/-- A release waits for the write-backs it started, and counts them. Log entry 61 (DESIGN CHOICE). -/
def State.fenceBacks (s : State) (id : Nat) (ids : List Nat) : State :=
  let live := ids.filter fun i => (s.txOf i).isSome
  match s.txOf id with
  | none => s
  | some t => s.setTx { t with waits := t.waits ++ live, counted := t.counted ++ live, fails := t.fails ++ s.backFails ids }

/-- R73: an access that its release part withholds has not been issued; no release counts it. -/
def State.uncount (s : State) (i : Nat) : State :=
  s.mapReq fun r => { r with
    agents := r.agents.map fun a => { a with relOpen := removeAll a.relOpen [i] }
    txs := r.txs.map fun u => { u with counted := removeAll u.counted [i] } }

/-- A fence of an agent: a release waits for every earlier access and takes the agent's count, a RACK release writes the held
lines back, an acquire waits for earlier values. `dest` is internal for the release part of an access; `operand` is 1 for a fence that a route
drain holds at its source (R264). Log entry 33 (DEDUCED). -/
def State.openFence (s : State) (t0 : Tx) : State × Nat :=
  let s0 := s.needAgent t0.agent t0.pid t0.owner
  let id := s0.nextId + 1
  let rel := t0.ord = 2 || t0.ord = 3
  let ag := s0.agentOf t0.agent
  let counted := if rel then (ag.map AgentSt.relOpen).getD [] else []
  let opened := if rel then s0.accessTxs t0.agent else []
  let fails := if rel then (ag.map AgentSt.relFails).getD [] else []
  let tmo := rel && (ag.map AgentSt.relTmo).getD false
  let vals := if t0.ord = 1 || t0.ord = 3 then s0.valueTxs t0.agent else []
  let t := { t0 with
    id := id, acc := .fence, waits := (opened ++ vals).eraseDups, counted := counted, fails := fails, tmo := tmo, last := true
    operand := b2n (s0.rd K.routeState ≠ 0) }
  let s1 := s0.putTx t
  let s2 := if rel then s1.setAgent t.agent fun a => { a with relOpen := [], relFails := [], relTmo := false } else s1
  if rel && t.scope = 2 then
    let r := s2.rackBack t.pid
    (r.1.fenceBacks id r.2, id)
  else (s2, id)

/-- Open a transaction of an agent, with the release part of a release access as a fence of its own. -/
def State.openTx (s : State) (t0 : Tx) : State × Nat :=
  let s0 := s.needAgent t0.agent t0.pid t0.owner
  let bl := s0.blockers t0.agent t0.acc
  let rel := t0.acc ≠ .inval && (t0.ord = 2 || t0.ord = 3)
  let f : State × Nat := if rel then
      s0.openFence { Tx.blank with agent := t0.agent, pid := t0.pid, owner := t0.owner, scope := t0.scope, ord := 2 }
    else (s0, 0)
  let id := f.1.nextId + 1
  let t := { t0 with id := id, relTx := f.2, waits := bl }
  let s1 := f.1.putTx t
  if t.acc = .inval || t.acc = .hint || t.acc = .fence then (s1, id)
  else (s1.setAgent t.agent fun a => { a with relOpen := a.relOpen ++ [id] }, id)

/-- Every part of a transaction has been issued. -/
def Tx.allIssued (t : Tx) : Bool := t.xst = .ready && t.last && t.parts.all fun p => p.stage ≠ .ready

/-- R72: the status of a release fence. A failure with a status that the rule does not list leaves it OK.
Log entry 61 (DESIGN CHOICE). -/
def Tx.fenceStatus (t : Tx) : Nat :=
  if t.tmo then Status.timeout
  else
    match t.fails.find? fun c => [Status.homeLost, Status.closed, Status.aborted, Status.ownerConflict, Status.perm,
        Status.poison].contains c with
    | some c => c
    | none => Status.ok

/-- Table ORD-3: the fence's waiting condition is met. At CORE scope an access that returns no value needs only to have
been issued. Log entry 33 (DEDUCED). -/
def State.fenceMet (s : State) (t : Tx) : Bool :=
  t.waits.all fun i =>
    match s.txOf i with
    | none => true
    | some u => u.closed ||
        (t.scope = 0 && u.allIssued && !((t.ord = 1 || t.ord = 3) && u.acc.returns))

/-- The accesses whose release part was fence `fid`: they issue after OK and complete with its status otherwise
(R73). -/
def State.releaseEnds (s : State) (fid st : Nat) : State :=
  s.each (s.req.txs.filter fun u => u.relTx = fid && fid ≠ 0 && !u.closed) fun s u =>
    if st = Status.ok then s.setTx { u with relTx := 0 } else (s.uncount u.id).completeTx { u with relTx := 0 } st

/-- FENCE_COMPLETE of one fence, if its condition holds. A RACK release first writes back what is held by then. -/
def State.fenceEnd (s : State) (id : Nat) : State :=
  match s.txOf id with
  | none => s
  | some t =>
    if t.acc ≠ .fence || !t.last || t.closed || !s.fenceMet t || (t.operand = 1 && s.rd K.routeState ≠ 0) then s
    else
      let rel := t.ord = 2 || t.ord = 3
      let r : State × List Nat := if rel && t.scope = 2 then s.rackBack t.pid else (s, [])
      if (r.2.filter fun i => (r.1.txOf i).isSome).isEmpty then
        let t0 := (r.1.txOf id).getD t
        let t1 := { t0 with fails := t0.fails ++ r.1.backFails r.2 }
        let st := if s.pstate t.pid = 2 then Status.closed else if rel then t1.fenceStatus else Status.ok
        (r.1.completeTx t1 st).releaseEnds id st
      else r.1.fenceBacks id r.2

/-- INVAL_COMPLETE of one transaction: its agent's earlier loads have returned, and the lines are dropped (R68). -/
def State.invalEnd (s : State) (id : Nat) : State :=
  match s.txOf id with
  | none => s
  | some t =>
    if t.acc ≠ .inval || t.closed || !t.waits.all fun i => (s.txOf i).isNone then s
    else
      let ep := agentEp t.agent
      let s1 := if 1024 < cdiv (t.addr % 64 + t.len) 64 then s.reachClear ep t.pid else s.reachDropLines ep t.pid (linesOf t.addr t.len)
      s1.completeTx t Status.ok

/-- Open an INVAL: it waits for the agent's earlier loads. -/
def State.openInval (s : State) (t0 : Tx) : State × Nat :=
  let lds := ((s.txsOf t0.agent).filter fun u => u.acc = .load).map Tx.id
  let r := s.openTx { t0 with acc := .inval }
  (match r.1.txOf r.2 with
    | some t => r.1.setTx { t with waits := (t.waits ++ lds).eraseDups }
    | none => r.1, r.2)

/-- Open an access and translate it. -/
def State.openAccess (s : State) (t : Tx) : State :=
  let r := s.openTx t
  r.1.translate r.2 none

/-! ### Arrival counters (R313, R314) -/

def State.ctrOf (s : State) (ep n : Nat) : Option Counter := s.ep.ctrs.find? fun c => c.ep = ep && c.n = n

/-- R314: the status with which a wait ends now, if it does. -/
def Counter.judge (c : Counter) (target : Nat) : Option Nat :=
  if 2 ^ 31 ≤ (c.v + 2 ^ 32 - c.b) % 2 ^ 32 then some Status.counterWindow
  else if (c.v + 2 ^ 32 - target % 2 ^ 32) % 2 ^ 32 < 2 ^ 31 then some Status.ok
  else none

/-- End a wait: only an OK completion acts as an acquire. -/
def State.endWait (s : State) (w : CtrWait) (st : Nat) : State :=
  let s1 := s.mapEp fun e => { e with waits := e.waits.filter fun x => x.tx ≠ w.tx }
  match s1.txOf w.tx with
  | none => s1
  | some t => s1.completeTx { t with ord := if st = Status.ok then 1 else 0 } st

/-- Re-evaluate the waits on a counter. -/
def State.judgeWaits (s : State) (ep n : Nat) : State :=
  match s.ctrOf ep n with
  | none => s
  | some c =>
    s.each (s.ep.waits.filter fun w => w.ep = ep && w.ctr = n) fun s w =>
      match c.judge w.target with
      | some st => s.endWait w st
      | none => s

/-- R313: one advance from partition `pid` arrives. -/
def State.advanceCtr (s : State) (ep n pid : Nat) : State :=
  match s.ctrOf ep n with
  | some c =>
    if c.pid = pid then
      (s.mapEp fun e => { e with
        ctrs := mapIf (fun x => x.ep = ep && x.n = n) (fun x => { x with v := (x.v + 1) % 2 ^ 32 }) e.ctrs }).judgeWaits ep n
    else s.bump (K.ctrForeign ep) 1
  | none => s.bump (K.ctrForeign ep) 1

/-- Send an advance: to an EP of this module at once, else in TC0. -/
def State.sendAdvance (s : State) (mid ep ctr pid : Nat) : State :=
  if mid = s.mid then s.advanceCtr ep ctr pid else s.emit (.advance mid ep ctr pid)

/-! ### Copy queues (R309 to R312) -/

def State.queueOf (s : State) (ep q : Nat) : Option Queue := s.ep.queues.find? fun x => x.ep = ep && x.q = q

def State.setQueue (s : State) (ep q : Nat) (g : Queue → Queue) : State :=
  s.mapEp fun e => { e with queues := mapIf (fun x => x.ep = ep && x.q = q) g e.queues }

/-- Fields of a copy descriptor (Table EPT-6). -/
def descSsp (d : List Nat) : Nat := bits (d.getD 0 0) 63 62
def descDsp (d : List Nat) : Nat := bits (d.getD 0 0) 61 60
def descNotify (d : List Nat) : Bool := (d.getD 0 0).testBit 59
def descFence (d : List Nat) : Bool := (d.getD 0 0).testBit 58
def descLen (d : List Nat) : Nat := (bits (d.getD 0 0) 11 0 + 1) * 64
def descNmid (d : List Nat) : Nat := bits (d.getD 3 0) 63 59
def descNep (d : List Nat) : Nat := bits (d.getD 3 0) 58 57
def descNctr (d : List Nat) : Nat := bits (d.getD 3 0) 56 45

/-- Chunks of 4 KiB of a descriptor. -/
def descChunks (d : List Nat) : Nat := cdiv (descLen d) 4096

/-- Chunk `i` of the run's copy has completed, with any status (R313). Log entry 36 (DEDUCED). -/
def State.chunkDone (s : State) (r : CopyRun) (i : Nat) : Bool :=
  match s.txOf r.tx with
  | none => true
  | some t => t.closed || (t.xst = .ready && t.parts.all fun p => !p.mask.testBit i || p.stage = .done)

/-- Advances of a NOTIFY descriptor that have become due. Log entry 36 (DEDUCED). -/
def State.notifyRun (s : State) (q : Queue) (r : CopyRun) : State :=
  if !descNotify r.words then s
  else
    let n := ((List.range (descChunks r.words)).filter (s.chunkDone r)).length
    let s1 := s.setQueue q.ep q.q fun x => { x with
      runs := mapIf (fun y => y.idx = r.idx) (fun y => { y with notified := n }) x.runs }
    s1.each (List.range (n - r.notified)) fun s _ => s.sendAdvance (descNmid r.words) (descNep r.words) (descNctr r.words) q.pid

/-- Every advance that has become due is sent. Log entry 17 (DESIGN CHOICE). -/
def State.settleCopies (s : State) : State := s.each s.ep.queues fun s q => s.each q.runs fun s r => s.notifyRun q r

/-- STATUS, FIRST and FAILMAP of a run whose parts have ended (R302, R312). -/
def State.runResult (s : State) (r : CopyRun) : Nat × Nat × Nat :=
  if r.status ≠ Status.ok then (r.status, 0, 0)
  else
    match s.txOf r.tx with
    | none => (Status.ok, 0, 0)
    | some t =>
      let bad := t.parts.any fun p => !(p.stage = .done && p.status = Status.ok)
      if r.halted && (bad || t.parts.isEmpty) then
        (Status.partialSt, if t.firstFail = 0 then Status.aborted else t.firstFail,
          if t.parts.isEmpty then allOnes (descChunks r.words) else t.failmap)
      else
        let st := t.stop.getD t.result
        if st = Status.partialSt then (st, t.firstFail, t.failmap) else (st, 0, 0)

/-- A write of the EP into host memory: for a confidential host only through the session's rings (R319 to R321). -/
def State.hostWrite (s : State) (q : Queue) (addr : Nat) (data : List Byte) : State :=
  if s.rd (K.conf q.ep) = 1 then s else s.emit (.dma q.ep addr data)

/-- The session of a queue's PID on its CP (R319). -/
def State.bounceOf (s : State) (pid cp : Nat) : Option Bounce := s.ep.bounces.find? fun b => b.op.pid = pid && b.op.cp = cp

def State.setBounce (s : State) (pid cp : Nat) (g : Bounce → Bounce) : State :=
  s.mapEp fun e => { e with bounces := mapIf (fun b => b.op.pid = pid && b.op.cp = cp) g e.bounces }

/-- The header of a bounce slot (Table EPT-11) without its tag, which the session key makes. -/
def slotHeader (seq kind q keyId len dest user : Nat) : List Byte :=
  wordBytes [seq % 2 ^ 64, fld kind 2 62 ||| fld q 6 56 ||| fld keyId 16 16 ||| fld len 13 0, dest % 2 ^ 64, user % 2 ^ 64, 0, 0]

/-- One TX slot (R321): payload, header, TX_HEAD, in that order. The ciphertext and the tag come from AES-256-GCM under
a key that no state of the model holds, so they are free bytes. Log entry 19 (DESIGN CHOICE). -/
def State.bounceSlot (s : State) (b : Bounce) (q kind dest user : Nat) (data : List Byte) : State :=
  let i := b.txSeq % b.op.slots
  let cph := (List.range data.length).map fun k => Config.freeByte (s.free * 8192 + k)
  let tag := (List.range 16).map fun k => Config.freeByte (s.free * 8192 + 4096 + k)
  (((s.draw.emit (.dma b.op.cp (b.op.txPages + 4096 * i) cph)).emit
    (.dma b.op.cp (b.op.txHdr + 64 * i) (slotHeader b.txSeq kind q b.op.keyId data.length dest user ++ tag))).emit
    (.dma b.op.cp b.op.control (leBytes 8 (b.txSeq + 1)))).setBounce b.op.pid b.op.cp fun x => { x with txSeq := x.txSeq + 1 }

/-- A slot through the session, while one is active. Log entry 19 (DESIGN CHOICE). -/
def State.bounceOut (s : State) (q : Queue) (kind dest user : Nat) (data : List Byte) : State :=
  match s.bounceOf q.pid q.ep with
  | some b => s.bounceSlot b q.q kind dest user data
  | none => s

/-- The chunks of a host-destined copy that go out: a chunk with a failed source does not. Log entry 36 (DEDUCED). -/
def CopyRun.chunks (r : CopyRun) (t : Tx) : List Nat :=
  let fm := if r.halted then t.failmap else (if t.stop.isSome then allOnes 64 else t.failmap)
  (List.range (descChunks r.words)).filter fun i => !fm.testBit i

/-- The bytes of chunk `i`. -/
def Tx.chunk (t : Tx) (i : Nat) : List Byte :=
  ((if t.sub / 2 = 0 then t.readData else t.data).drop (4096 * i)).take 4096

/-- The bytes of a copy to a host that is not confidential, chunk by chunk. -/
def State.hostChunks (s : State) (q : Queue) (r : CopyRun) (t : Tx) : State :=
  if s.rd (K.conf q.ep) = 1 then s else s.each (r.chunks t) fun s i => s.emit (.dma q.ep (t.dst + 4096 * i) (t.chunk i))

/-- TX slots that are free for a queue: R320, a ring is full when HEAD − TAIL = SLOTS. -/
def State.txRoom (s : State) (q : Queue) : Nat :=
  match s.bounceOf q.pid q.ep with
  | some b => b.op.slots - (b.txSeq - b.txTail)
  | none => 2 ^ 32

/-- The guest's TX_TAIL, as the EP reads it from the control page (R320). -/
def State.takeTail (s : State) (q : Queue) (tail : Nat) : State :=
  s.setBounce q.pid q.ep fun b => if b.txTail ≤ tail && tail ≤ b.txSeq then { b with txTail := tail } else b

/-- The chunks that a run has still to put into the TX ring of a confidential host. -/
def State.ringChunks (s : State) (q : Queue) (r : CopyRun) : List Nat :=
  if s.rd (K.conf q.ep) ≠ 1 then []
  else
    match s.txOf r.tx with
    | some t => if t.sub % 2 = 1 then (r.chunks t).drop r.sent else []
    | none => []

/-- A run's chunks go into the TX ring as far as it has room (R320, R321). -/
def State.fillRing (s : State) (q : Queue) (r : CopyRun) : State :=
  let is := (s.ringChunks q r).take (s.txRoom q)
  let s1 := s.each is fun s i =>
    match s.txOf r.tx with
    | some t => s.bounceOut q 0 (t.dst + 4096 * i) (r.words.getD 4 0) (t.chunk i)
    | none => s
  s1.setQueue q.ep q.q fun x => { x with
    runs := mapIf (fun y => y.idx = r.idx) (fun y => { y with sent := y.sent + is.length }) x.runs }

/-- Whether the record of a queue is a KIND 1 slot of the TX ring (R321). -/
def State.recordInRing (s : State) (q : Queue) : Bool := q.hostSpace && s.rd (K.conf q.ep) = 1

/-- The completion record of a descriptor (Table EPT-7). -/
def copyRecord (phase : Bool) (st first idx failmap user time : Nat) : List Byte :=
  wordBytes [fld (b2n phase) 1 63 ||| fld st 4 59 ||| fld first 4 55 ||| fld idx 16 0, failmap, user, time]

/-- All runs of a stopped queue have ended: QUEUE_RESET completes and the queue is gone. -/
def State.queueSettle (s : State) (ep q : Nat) : State :=
  match s.queueOf ep q with
  | none => s
  | some x =>
    if x.stopped && x.runs.isEmpty then
      match x.reset with
      | some o => (s.mapEp fun e => { e with queues := e.queues.filter fun y => !(y.ep = ep && y.q = q) }).reply o Status.ok false []
      | none => s
    else s

/-- A run has ended: data towards a host, advances, the record (R311). -/
def State.finishRun (s : State) (q : Queue) (r : CopyRun) : State :=
  let res := s.runResult r
  let s0 := match s.txOf r.tx with
    | some t => if t.sub % 2 = 1 then s.hostChunks q r t else s
    | none => s
  let s1 := (s0.notifyRun q r).setQueue q.ep q.q fun x => { x with runs := x.runs.filter fun y => y.idx ≠ r.idx }
  let s2 := s1.dropTx r.tx
  let w := copyRecord r.phase res.1 res.2.1 r.idx res.2.2 (r.words.getD 4 0) s.now
  let s3 := if q.hostSpace then
      (if s.rd (K.conf q.ep) = 1 then s2.bounceOut q 1 0 (r.words.getD 4 0) w else s2.hostWrite q (q.compBase + 32 * r.idx) w)
    else s2.moduleStore q.pid (q.compBase + 32 * r.idx) q.owner (if res.1 = Status.ok then 2 else 0) w
  s3.queueSettle q.ep q.q

/-- A run whose copy has ended. -/
def State.runEnded (s : State) (r : CopyRun) : Bool :=
  r.tx = 0 || (match s.txOf r.tx with
    | none => true
    | some t => t.closed)

/-- A run goes on after its copy has ended: its chunks enter the TX ring, and its record follows once they are all there and it has
room. -/
def State.runOn (s : State) (q : Queue) (r : CopyRun) : State :=
  let s1 := s.fillRing q r
  if (s.ringChunks q r).length ≤ s.txRoom q && !(s1.recordInRing q && s1.txRoom q = 0) then s1.finishRun q r else s1

/-- R312: a queue stops: its descriptors in progress issue nothing more, the queued ones complete with ABORTED. -/
def State.queueStop (s : State) (ep q : Nat) : State :=
  match s.queueOf ep q with
  | none => s
  | some x =>
    let n := (x.tail + x.entries - x.head) % max 1 x.entries
    let more := (List.range n).map fun i =>
      let k := (x.head + i) % x.entries
      (⟨k, [], 0, Status.aborted, if x.head + i < x.entries then x.phase else !x.phase, 0, true, 0⟩ : CopyRun)
    let s1 := s.setQueue ep q fun y => { y with
      stopped := true, head := y.tail
      phase := if y.entries ≤ x.head + n then !y.phase else y.phase
      runs := y.runs.map (fun r => { r with halted := true }) ++ more }
    (s1.each x.runs fun s r =>
      match s.txOf r.tx with
      | some t => if t.closed then s else s.haltTx t
      | none => s).queueSettle ep q

/-- R310: a new tail. Refused past the ring; ignored unless it advances the ring in serial-number arithmetic. -/
def State.setTail (s : State) (ep q tail : Nat) : State × Nat :=
  match s.queueOf ep q with
  | none => (s, Status.refused)
  | some x =>
    if x.entries ≤ tail then (s, Status.refused)
    else
      let adv := (tail + x.entries - x.tail) % x.entries
      if 0 < adv && decide (2 * adv < x.entries) && !x.stopped then (s.setQueue ep q fun y => { y with tail := tail }, Status.ok)
      else (s, Status.ok)

/-! ### CAP messages: arrival (R294, R296, R298 to R301) -/

/-- MT codes of Table EPT-4. -/
abbrev mtLD : Nat := 0x01
abbrev mtST : Nat := 0x02
abbrev mtAT32 : Nat := 0x03
abbrev mtAT64 : Nat := 0x04
abbrev mtBLD : Nat := 0x05
abbrev mtBST : Nat := 0x06
abbrev mtTRD : Nat := 0x07
abbrev mtTWR : Nat := 0x08
abbrev mtTWD : Nat := 0x09
abbrev mtFENCE : Nat := 0x0A
abbrev mtINVAL : Nat := 0x0B
abbrev mtHINT : Nat := 0x0C
abbrev mtDOORBELL : Nat := 0x0D
abbrev mtCTRWAIT : Nat := 0x0E
abbrev mtCTRSET : Nat := 0x0F

/-- Payload units of a message. -/
def capUnits (m : CapMsg) : Nat := cdiv m.data.length 64

/-- The LEN limit of a type. -/
def capLimit (mt : Nat) : Nat :=
  if mt = mtST || mt = mtTRD || mt = mtTWR then 1
  else if mt = mtBST then 4
  else if mt = mtTWD || mt = 0x10 || mt = 0x12 || mt = 0x13 then 64
  else 0

/-- Credit pool of an A→M type: 0 REQ, 1 STRM, 2 MGMT; XRSP needs none (R295). -/
def capPool (mt : Nat) : Option Nat :=
  if mt = 0x13 then none else if mt = 0x12 then some 2 else if mt = 0x10 || mt = 0x11 then some 1 else some 0

/-- The port takes messages: trained, on an EP in service. -/
def State.apUp (s : State) (n : Nat) : Bool := (s.rd (K.apState n) = 2 || s.rd (K.apState n) = 3) && s.epUp (epOfPort n)

/-- Attach ports train from TRAINING to DRAINING (Table ARC-6). -/
def State.capOn (s : State) (port : Nat) : Bool :=
  s.apUp port && (s.inService || s.life.mstate = .training || s.life.mstate = .shadow)

/-- Units of a pool of a bond that buffered messages hold. -/
def State.capUsed (s : State) (bond pool : Nat) : Nat := (s.aport bond).used.getD pool 0

def State.capUse (s : State) (bond pool : Nat) (g : Nat → Nat) : State :=
  s.setAp bond fun p => { p with used := setAt p.used pool (g (p.used.getD pool 0)) }

/-- A message of `n` payload units leaves its port buffer: its units are returned with the next flits (R294). -/
def State.capReturn (s : State) (bond pool n : Nat) : State :=
  s.setAp bond fun p => { p with owed := setAt p.owed pool (p.owed.getD pool 0 + n + 1) }

/-- R299: an open transaction of a context with this tag. -/
def State.tagOpen (s : State) (ep n tag : Nat) : Option Tx :=
  s.req.txs.find? fun t => match t.dest with
    | .cap e _ c k => e = ep && c = n && k = tag && !t.closed
    | _ => false

/-- Open transactions of a context. -/
def State.ctxOpen (s : State) (ep n : Nat) : List Tx :=
  s.req.txs.filter fun t => !t.closed && (match t.dest with
    | .cap e _ c _ => e = ep && c = n
    | _ => false)

/-- R296, R41: the context's queue of 64 is full, or 256 misses of the EP wait for a walker. -/
def State.ctxFull (s : State) (ep n : Nat) : Bool :=
  decide (64 ≤ ((s.ctxOpen ep n).filter fun t => t.acc ≠ .fence && t.acc ≠ .inval && !t.allIssued).length) ||
    decide (256 ≤ s.missesWaiting ep)

/-- Table ORD-2. -/
def ordOk (mt ord scope : Nat) : Bool :=
  if scope = 3 then false
  else if mt = mtLD || mt = mtBLD || mt = mtTRD then ord = 0 || ord = 1
  else if mt = mtST || mt = mtBST || mt = mtTWR then ord = 0 || ord = 2
  else if mt = mtFENCE then 1 ≤ ord && ord ≤ 3
  else decide (ord ≤ 3)

/-- Kinds that carry SCOPE and ORD (R70). TWD carries the data of its TWR. -/
def carriesOrd (mt : Nat) : Bool :=
  (mt ≤ mtTWR) || mt = mtFENCE

/-- R300: SUB that the type does not allow, and OWN where it may not stand. -/
def subBad (mt : Nat) (m : CapMsg) : Bool :=
  ((mt = mtLD || mt = mtST) && decide (6 < m.sub)) || (mt = mtHINT && !(1 ≤ m.sub && m.sub ≤ 5)) ||
    ((mt = mtAT32 || mt = mtAT64) && decide (7 < m.sub)) || (m.own && !(mt = mtAT64 && m.sub = 7))

/-- Kinds whose ADDR is an FVA. -/
def hasFva (mt : Nat) : Bool := mt ≤ mtBST || mt = mtINVAL || mt = mtHINT

/-- A tile descriptor (Table STN-1). -/
def tdescOf (w0 w1 w2 w3 : Nat) : TDesc where
  fmt := bits w0 63 60
  base := bits w0 56 0
  rows := bits w1 63 56 + 1
  rbytes := (bits w1 55 50 + 1) * 64
  pitch := bits w1 31 0
  xbase := bits w2 56 0
  xpitch := bits w3 31 0

/-- R114: malformed tile descriptors. -/
def TDesc.bad (d : TDesc) (wr : Bool) : Bool :=
  decide (6 < d.fmt) || d.base % 64 ≠ 0 || d.pitch % 64 ≠ 0 || decide (262144 < d.rows * d.rbytes) ||
    (wr && decide (d.pitch < d.rbytes)) || (wr && expRow d.fmt d.rbytes ≠ 0 && decide (d.xpitch < expRow d.fmt d.rbytes))

/-- The transaction of a CAP request: agent, destination and header fields. -/
def capTx (c : Ctx) (m : CapMsg) : Tx :=
  { Tx.blank with
    agent := .ctx c.ep c.n, pid := c.pid, owner := c.owner, dest := .cap c.ep m.port c.n m.tag
    sub := m.sub, wide := m.wide, scope := m.scope, ord := m.ord, own := m.own, bulk := m.bulk
    addr := m.addr, operand := m.arg, compare := m.aux, poi := m.poi }

/-- A TWR that is answered at once: the TWD of the pair are discarded (R301). -/
def State.discardTwd (s : State) (ep n tag : Nat) : State :=
  s.setCtx ep n fun c => { c with discard := insertOnce c.discard tag }

/-- Answer a request at once. -/
def State.capAnswer (s : State) (mt : Nat) (m : CapMsg) (st : Nat) : State :=
  let s1 := if mt = mtTWR then s.discardTwd m.ep m.ctx m.tag else s
  s1.rsp m.ep m.ctx m.tag st 0 0 0 []

/-- R412, R75: the access is not aligned. -/
def capMisaligned (mt : Nat) (m : CapMsg) : Bool :=
  if mt = mtLD || mt = mtST then m.addr % 2 ^ m.sub ≠ 0
  else if mt = mtBLD || mt = mtBST then m.addr % 256 ≠ 0
  else if mt = mtAT32 then m.addr % 4 ≠ 0
  else if mt = mtAT64 then m.addr % 8 ≠ 0
  else false

/-- Tile descriptor in the message's payload. -/
def capDesc (m : CapMsg) : TDesc := tdescOf (word64 m.data 0) (word64 m.data 1) (word64 m.data 2) (word64 m.data 3)

/-- CTRWAIT (R314). A counter of another PID, or of none, is refused. Log entry 70 (DESIGN CHOICE). -/
def State.capWait (s : State) (c : Ctx) (m : CapMsg) : State :=
  let n := m.addr % 4096
  match s.ctrOf c.ep n with
  | none => s.capAnswer mtCTRWAIT m Status.refused
  | some k =>
    if k.pid ≠ c.pid then s.capAnswer mtCTRWAIT m Status.refused
    else if (s.ep.waits.filter fun w => w.ep = c.ep).length ≥ 256 && (k.judge m.arg).isNone then
      s.capAnswer mtCTRWAIT m Status.refused
    else
      let r := s.openTx { capTx c m with acc := .fence, ord := 0, scope := 2, last := false }
      let s0 := match r.1.txOf r.2 with
        | some t => r.1.setTx { t with ord := 1 }
        | none => r.1
      let s1 := s0.mapEp fun e => { e with
        waits := e.waits ++ [⟨c.ep, m.port, c.n, m.tag, n, m.arg % 2 ^ 32, if m.aux = 0 then 0 else s.now + m.aux, r.2⟩] }
      s1.judgeWaits c.ep n

/-- CTRSET (R313). A counter of another PID, or of none, is refused. Log entry 70 (DESIGN CHOICE). -/
def State.capSet (s : State) (c : Ctx) (m : CapMsg) : State :=
  let n := m.addr % 4096
  match s.ctrOf c.ep n with
  | none => s.capAnswer mtCTRSET m Status.refused
  | some k =>
    if k.pid ≠ c.pid then s.capAnswer mtCTRSET m Status.refused
    else
      let v := m.arg % 2 ^ 32
      ((s.mapEp fun e => { e with
        ctrs := mapIf (fun x => x.ep = c.ep && x.n = n) (fun x => { x with v := v, b := v }) e.ctrs }).judgeWaits c.ep n).capAnswer
        mtCTRSET m Status.ok

/-- DOORBELL (R310): from a context of the queue's PID. -/
def State.capBell (s : State) (c : Ctx) (m : CapMsg) : State :=
  match s.queueOf c.ep (m.addr % 64) with
  | none => s.capAnswer mtDOORBELL m Status.refused
  | some q =>
    if q.pid ≠ c.pid then s.capAnswer mtDOORBELL m Status.refused
    else
      let r := s.setTail c.ep (m.addr % 64) (m.arg % 2 ^ 32)
      r.1.capAnswer mtDOORBELL m r.2

/-- A request that passed every check of R299 and R300 is performed. -/
def State.capServe (s : State) (mt : Nat) (c : Ctx) (m : CapMsg) : State :=
  if capMisaligned mt m then s.capAnswer mt m Status.perm
  else if mt = mtLD then s.openAccess { capTx c m with acc := .load, len := 2 ^ m.sub }
  else if mt = mtST then s.openAccess { capTx c m with acc := .store, len := 2 ^ m.sub, data := fitTo (2 ^ m.sub) m.data }
  else if mt = mtBLD then s.openAccess { capTx c m with acc := .load, len := 256 }
  else if mt = mtBST then s.openAccess { capTx c m with acc := .store, len := 256, data := fitTo 256 m.data }
  else if mt = mtAT32 then s.openAccess { capTx c m with acc := .atomic, len := 4, wide := false }
  else if mt = mtAT64 then s.openAccess { capTx c m with acc := .atomic, len := 8, wide := true }
  else if mt = mtTRD then
    if (capDesc m).bad false then s.capAnswer mt m Status.refused
    else s.openAccess { capTx c m with
      acc := .tileRead, tile := some (capDesc m), len := tileBytes (capDesc m).rows (capDesc m).rbytes (capDesc m).fmt, addr := (capDesc m).base }
  else if mt = mtTWR then
    if (capDesc m).bad true then s.capAnswer mt m Status.refused
    else
      let n := tileBytes (capDesc m).rows (capDesc m).rbytes (capDesc m).fmt
      s.openAccess { capTx c m with
        acc := .tileWrite, tile := some (capDesc m), len := n, data := zeros n, addr := (capDesc m).base, last := false
        sub := 0, operand := 0, compare := 0, poi := false }
  else if mt = mtFENCE then (s.openFence (capTx c m)).1
  else if mt = mtINVAL then (s.openInval { capTx c m with len := m.arg, ord := 0, scope := 0 }).1
  else if mt = mtHINT then
    if m.addr % 4096 ≠ 0 then s.capAnswer mt m Status.refused
    else s.openAccess { capTx c m with acc := .hint, len := m.arg * 4096, ord := 0, scope := 0 }
  else if mt = mtDOORBELL then s.capBell c m
  else if mt = mtCTRWAIT then s.capWait c m
  else s.capSet c m

/-- R299, R300: the checks before translation, in their order. Log entry 44 (DEDUCED). -/
def State.capCheck (s : State) (mt : Nat) (m : CapMsg) : State :=
  if (s.tagOpen m.ep m.ctx m.tag).isSome then s.bump (K.tagErrors m.ep) 1
  else if !s.inService then s.capAnswer mt m Status.refused
  else
    match s.ctxOf m.ep m.ctx with
    | none => s.capAnswer mt m Status.refused
    | some c =>
      if c.port ≠ s.bondOf m.port || c.unbind.isSome then s.capAnswer mt m Status.refused
      else if c.cstate = .detached then s
      else if 4096 ≤ (s.ctxOpen m.ep m.ctx).length then s.capAnswer mt m Status.refused
      else if carriesOrd mt && !ordOk mt m.ord m.scope then s.capAnswer mt m Status.refused
      else if subBad mt m then s.capAnswer mt m Status.refused
      else if hasFva mt && decide (2 ^ 57 ≤ m.addr) then s.capAnswer mt m Status.refused
      else if s.pstate c.pid = 0 then s.capAnswer mt m Status.refused
      else if c.cstate = .closing || s.pstate c.pid ≠ 1 then (s.noteClosed c.pid).capAnswer mt m Status.closed
      else s.capServe mt c m

/-- TWD (R301): data of an open TWR. A byte that arrives twice or outside the tile makes the coverage inexact. -/
def State.capTwd (s : State) (m : CapMsg) : State :=
  match s.tagOpen m.ep m.ctx m.tag with
  | some t =>
    if t.acc ≠ .tileWrite || t.last then s.bump (K.tagErrors m.ep) 1
    else
      let us := linesOf m.arg m.data.length
      let odd := m.arg % 64 ≠ 0 || decide (64 * cdiv t.len 64 < m.arg + m.data.length) || us.any t.covered.testBit
      let t1 := { t with
        data := if odd then t.data else (patch t.data m.arg m.data).take t.len
        covered := if odd then t.covered else us.foldl setBit t.covered
        compare := if m.poi && !odd then us.foldl setBit t.compare else t.compare
        sub := if odd then 1 else t.sub, last := m.last }
      if !m.last then s.setTx t1
      else if t1.sub = 1 || t1.covered ≠ allOnes (cdiv t.len 64) then
        let t2 := { t1 with
          stop := some Status.refused
          parts := t1.parts.map fun p => if p.stage = .ready then { p with stage := .done, status := Status.refused } else p }
        if t2.finished || t2.xst ≠ .ready then s.completeTx t2 Status.refused else s.setTx t2
      else s.setTx t1
  | none =>
    match s.ctxOf m.ep m.ctx with
    | some c =>
      if c.discard.contains m.tag then
        (if m.last then
          s.setCtx m.ep m.ctx fun c => { c with discard := removeAll c.discard [m.tag] }
        else s)
      else s.bump (K.tagErrors m.ep) 1
    | none => s.bump (K.tagErrors m.ep) 1

/-- A message leaves its port buffer. -/
def State.capPerform (s : State) (mt : Nat) (m : CapMsg) : State :=
  if mt = mtTWD then s.capTwd m else (s.epEv m.ep 0x201 ((s.ctxOf m.ep m.ctx).map Ctx.pid |>.getD 64) 1).capCheck mt m

/-- The port buffer of a bond holds messages (R296). -/
def State.capBlocked (s : State) (bond : Nat) : Bool := s.ep.buffered.any fun b => s.bondOf b.m.port = bond

/-- R296: messages leave the port buffers while their context's queue has room; `fuel` bounds them.
Log entry 17 (DESIGN CHOICE). -/
def State.pumpCap (s : State) : Nat → State
  | 0 => s
  | n + 1 =>
    let firsts := s.ep.buffered.filter fun b =>
      ((s.ep.buffered.find? fun a => s.bondOf a.m.port = s.bondOf b.m.port) = some b) && !s.ctxFull b.m.ep b.m.ctx
    match firsts with
    | [] => s
    | b :: _ =>
      let s1 := s.mapEp fun e => { e with buffered := e.buffered.erase b }
      (((s1.capUse (s.bondOf b.m.port) 0 fun u => u - (capUnits b.m + 1)).capReturn (s.bondOf b.m.port) 0 (capUnits b.m)).capPerform
        b.mt b.m).pumpCap n

/-- A request of the REQ pool arrives at its port (R294, R296, R298). -/
def State.capRequest (s : State) (mt : Nat) (m : CapMsg) : State :=
  let bond := s.bondOf m.port
  if !s.capOn m.port || epOfPort m.port ≠ m.ep then s
  else if capLimit mt < capUnits m then s.bump (K.protocolErrors m.ep) 1
  else if (s.aport bond).granted.getD 0 0 < s.capUsed bond 0 + capUnits m + 1 then s.bump (K.protocolErrors m.ep) 1
  else if s.capBlocked bond || (mt ≠ mtTWD && s.ctxFull m.ep m.ctx) then
    (s.capUse bond 0 fun u => u + capUnits m + 1).mapEp fun e => { e with buffered := e.buffered ++ [⟨mt, m⟩] }
  else (s.capReturn bond 0 (capUnits m)).capPerform mt m

/-- What follows whatever may have completed accesses: completion records, advances, buffered messages, the end of a
failed shadow comparison. Log entry 17 (DESIGN CHOICE). -/
def State.settleAll (s : State) : State :=
  let s1 := s.settleFlows.settleCopies
  (s1.pumpCap s1.ep.buffered.length).settleShadow

end Sys2Proof.Machine
end

