-- ==== Sys2Proof/Machine/Home.lean ====
section
/-! DEFINITION. The commands of the home (chapters 3 and 4): requests that it serves, owner table, mirrors,
host coherence, host loss, the tier cache and the atomic buffers. -/

namespace Sys2Proof.Machine

open Sys2Proof

/-! ### The input queue -/

/-- An earlier request of the queue touches a line of this one: one line is served in home order (R59, R98). -/
def State.lineAhead (s : State) (pos : Nat) (f : Frame) : Bool :=
  (s.home.inq.take pos).any fun h => !h.f.retry && (reqLines h.f).any (reqLines f).contains

/-- The request at `pos`, when it is of the wanted kind and may be served now. -/
def State.atHome (s : State) (pos : Nat) (want : Frame → Bool) : Option HReq :=
  match s.home.inq[pos]? with
  | none => none
  | some h => if want h.f && s.servable h.f && !s.lineAhead pos h.f then some h else none

/-- A host's request to a HOSTCOH line (R98). -/
def hostCoh (f : Frame) : Bool := f.agentKind = 1 && f.mtype = mtHostcoh

/-- HOME_LOAD (R59): a load or read part is served. -/
def execHomeLoad (pos : Nat) (uncorrectable : Bool) (s : State) : Res :=
  .next (match s.atHome pos fun f => isRead f && !hostCoh f with
    | none => s
    | some h => (s.takeIn pos).homeRead h uncorrectable)

/-- HOME_STORE (R59, R32, R85): a store or write part is checked and performed. -/
def execHomeStore (pos : Nat) (s : State) : Res :=
  .next (match s.atHome pos fun f => isWrite f && !hostCoh f with
    | none => s
    | some h => (s.takeIn pos).homeWrite h)

/-- An atomic of one operation reaches its home (R75). -/
def State.homeAtomic (s : State) (pos sub : Nat) (own : Bool) : State :=
  match s.atHome pos fun f => isAtomic f && !hostCoh f && atomSub f = sub && (f.op = 0x48) = own with
  | none => s
  | some h => (s.takeIn pos).homeWrite h

/-! ### Hint commands (R89 to R92) -/

/-- Frames of 64 KiB that `[a, a + n)` touches. -/
def framesOf (a n : Nat) : List Nat :=
  if n = 0 then [] else (List.range ((a + n - 1) / 65536 - a / 65536 + 1)).map fun i => a / 65536 + i

def hintLen (f : Frame) : Nat := word64 f.payload 0
def hintSub (f : Frame) : Nat := word64 f.payload 1

/-- A resident frame takes a class. -/
def State.classify (s : State) (fr cls : Nat) : State :=
  (s.mapHome fun x => { x with tier := mapIf (fun t => t.frame = fr) (fun t => { t with cls := cls }) x.tier }).notePinned

/-- The demotions that COLD commands asked for start once no WARM frame moves any more: a demotion under way comes first
(Table POL-2). Log entry 35 (DEDUCED). -/
def State.startCold (s : State) : State :=
  if s.home.tier.any fun t => t.cls = 2 && t.moving ≠ 0 then s
  else (s.each s.home.cold State.demote).mapHome fun x => { x with cold := [] }

/-- Promote a frame, or reclass it when it is resident. -/
def State.promoteOr (s : State) (fr cls : Nat) : State :=
  if (s.tierOf fr).isSome then s.classify fr cls else s.promote fr cls

/-- A frame that COLD named waits for its demotion; any other command takes it off that list (R90). -/
def State.later (s : State) (fr : Nat) : State := s.mapHome fun x => { x with cold := insertOnce x.cold fr }
def State.notCold (s : State) (frs : List Nat) : State := s.mapHome fun x => { x with cold := removeAll x.cold frs }

/-- The hint commands over the frames of a span (Table POL-2): HOT, WARM, COLD, EVICT, PIN. -/
def State.hintFrames (s : State) (frs : List Nat) (sub : Nat) : State :=
  match sub with
  | 1 => s.each frs fun s fr => s.promoteOr fr 1
  | 2 => s.each frs fun s fr => s.classify fr 2
  | 3 => (s.each frs fun s fr => (s.classify fr 3).later fr).startCold
  | 4 => s.each frs State.demote
  | 5 => s.each frs fun s fr => s.promoteOr fr 4
  | _ => s

/-- R91: a PIN that would pin more than half of the tier cache. -/
def State.pinsTooMany (s : State) (frs : List Nat) : Bool :=
  let more := (frs.filter fun fr => match s.tierOf fr with
    | some t => t.cls ≠ 4
    | none => true).length
  decide (s.tierFrames / 2 < s.pinned + more)

/-- The partition owns every granule that `[a, a + n)` touches, at both ends of the span in it (R32). -/
def State.spanOwned (s : State) (pid a n : Nat) : Bool :=
  (List.range ((a + n - 1) / 65536 - a / 65536 + 1)).all fun i =>
    let g := a / 65536 + i
    s.ownerAt (max a (65536 * g)) = some pid && s.ownerAt (min (a + n - 1) (65536 * g + 65535)) = some pid

/-- The home refuses a hint whose span it does not own for the PID. -/
def State.hintRefuses (s : State) (f : Frame) : Option (Nat × Bool) :=
  let a := fpaLocal f.fpa
  if !s.homesServed then some (Status.homeLost, false)
  else if s.closedAtHome f.pid then some (Status.closed, false)
  else if s.spanOwned f.pid a (max 1 (hintLen f)) then none
  else some (Status.perm, true)

/-- The home acts on a hint and answers (R89 to R92). At a mirror that stands in for a lost home the data is in plain HBM, so
the hint has no effect (R93). -/
def State.homeHint (s : State) (h : HReq) : State :=
  let f := h.f
  match s.hintRefuses f with
  | some r => s.homeRefuse h r
  | none =>
    let idle := (s.bump (K.hintsNoeffect f.pid) 1).homeAnswer h Status.ok (s.loadIndicator h) []
    if f.retry then idle
    else
      match regionOf (fpaLocal f.fpa) with
      | .expander _ _ =>
        let frs := framesOf (fpaLocal f.fpa) (hintLen f)
        if hintSub f = 5 && s.pinsTooMany frs then s.homeAnswer h Status.refused (s.loadIndicator h) []
        else ((s.notCold frs).hintFrames frs (hintSub f)).homeAnswer h Status.ok (s.loadIndicator h) []
      | .hbm => idle
      | .export_ _ _ _ => idle
      | .reserved => s.homeAnswer h Status.perm (s.loadIndicator h) []

/-- HOME_HINT_COMMAND (R90). -/
def execHomeHintCommand (pos : Nat) (s : State) : Res :=
  .next (match s.atHome pos fun f => f.op = 0x52 with
    | none => s
    | some h => (s.takeIn pos).homeHint h)

/-! ### Owner table (R83, R85) -/

/-- OWNER_TABLE_READ (R85): a flag word is read at its home. -/
def execOwnerTableRead (pos : Nat) (s : State) : Res :=
  .next (match s.atHome pos fun f => f.op = 0x63 with
    | none => s
    | some h =>
      let s1 := s.takeIn pos
      let a := fpaLocal h.f.fpa
      if !s1.homesServed then s1.homeAnswer h Status.homeLost 0 []
      else
        if s1.spanPoisoned a 8 then s1.homeAnswer h Status.poison (s1.loadIndicator h) []
        else s1.homeAnswer h Status.ok (s1.loadIndicator h) (fitTo 64 (s1.peek a 8)))

/-- OWNER_READ_RESPONSE (R85): held writes are checked, or fail. -/
def execOwnerReadResponse (flag status word : Nat) (s : State) : Res :=
  .next (s.ownerAnswer flag (statusSeen status) word)

/-- OWNER_UPDATE (R83): the owner table takes the new owner, and the update is acknowledged. -/
def execOwnerUpdate (src seq flag owner gen : Nat) (s : State) : Res :=
  .next ((s.ownerNews flag owner gen).sendAck src (((s.peer src).inEpoch).getD 0) [seq])

/-! ### Mirrors (R93 to R95) -/

/-- The record that the mirror window holds of a write. -/
def State.mirrorOf (s : State) (src seq pepoch : Nat) : Option MirrorRec :=
  s.home.mirrorWin.find? fun m => m.src = src && m.seq = seq && m.pepoch = pepoch

/-- R93: the mirror window records a line of a write; it keeps 4,096 writes of a source. -/
def State.mirrorNote (s : State) (src seq pepoch line old : Nat) : State :=
  match s.mirrorOf src seq pepoch with
  | some _ => s.mapHome fun x => { x with
      mirrorWin := mapIf (fun m => m.src = src && m.seq = seq && m.pepoch = pepoch)
        (fun m => { m with lines := insertOnce m.lines line }) x.mirrorWin }
  | none => s.mapHome fun x =>
      let mine := x.mirrorWin.filter fun m => m.src = src
      let kept := if mine.length < 4096 then x.mirrorWin else
        match mine with
        | [] => x.mirrorWin
        | m :: _ => x.mirrorWin.erase m
      { x with mirrorWin := kept ++ [⟨src, seq, pepoch, [line], old⟩] }

/-- MIRROR_WRITE (R93): the mirror performs the write, records it and acknowledges. -/
def execMirrorWrite (pos : Nat) (s : State) : Res :=
  .next (match s.atHome pos fun f => f.op = 0x62 with
    | none => s
    | some h =>
      let f := h.f
      let s1 := s.takeIn pos
      match s1.homeRefuses f with
      | some r => s1.homeRefuse h r
      | none =>
        let s2 := s1.poke (reqBase f) (f.be % 2 ^ 64) (f.payload.take 64) (f.status = Status.poison)
        (s2.mirrorNote f.origSrc f.origSeq f.origPepoch (lineOf (reqBase f)) (leNat ((f.payload.drop 64).take 8))).homeAnswer h
          Status.ok (s2.loadIndicator h) [])

/-- MIRROR_ACK (R93): the home performs what the mirror has performed. -/
def execMirrorAck (hid status : Nat) (s : State) : Res := .next (s.mirrorAcked hid (statusSeen status)).settleAll

/-- Serve a request at once, whichever kind it is. -/
def State.serve (s : State) (h : HReq) : State := if isRead h.f then s.homeRead h false else s.homeWrite h

/-- What the mirror window holds of a reissued write (R95). A request whose ORIG fields are its own is new. -/
def State.mirrorDup (s : State) (f : Frame) : Option MirrorRec :=
  if isRead f || (f.origSrc = f.src && f.origSeq = f.seq && f.origPepoch = f.pepoch) then none
  else s.mirrorOf f.origSrc f.origSeq f.origPepoch

/-- The lines of a write that the mirror has not performed are performed, line by line (R95). -/
def State.performRest (s : State) (f : Frame) (done : List Nat) : State :=
  let a := reqBase f
  s.each ((linesOf a (reqBase f % 64 + reqBytes f)).filter fun l => !done.contains l) fun s l =>
    let off := 64 * l - a
    let be := if f.op = 0x51 then 2 ^ 64 - 1 else f.be % 2 ^ 64
    s.poke (64 * l) be (fitTo 64 ((f.payload.drop off).take 64)) (f.status = Status.poison)

/-- MIRROR_RETRY_REQUEST (R95): held until H is lost, then served; what the mirror window holds of a write is not
performed again. -/
def execMirrorRetryRequest (pos : Nat) (s : State) : Res :=
  .next (match s.home.inq[pos]? with
    | none => s
    | some h =>
      if !h.f.retry then s
      else if !s.peerLost h.f.origHome then (s.takeIn pos).hold h .retry
      else
        let f := { h.f with retry := false, mtype := mtNormal }
        let s1 := (s.takeIn pos).noteDegraded f.pid f.origHome
        if f.op = 0x52 then s1.homeHint h
        else if !s.servable f || s.lineAhead pos f || 0x52 < f.op then s
        else
          match s1.homeRefuses f, s1.mirrorDup h.f with
          | some r, _ => s1.homeRefuse h r
          | none, some m =>
            if isAtomic f then s1.homeAnswer h Status.ok (s1.loadIndicator h) (leBytes (atomBytes f) m.old)
            else (s1.performRest f m.lines).homeAnswer h Status.ok (s1.loadIndicator h) []
          | none, none => s1.serve { h with f := f })

/-- MIRROR_RETRY_HOLD_EXPIRY (R95): a request held for 1 ms completes with HOME_LOST. `pos` counts the held requests. -/
def execMirrorRetryHoldExpiry (pos : Nat) (s : State) : Res :=
  .next (match s.home.held[pos]? with
    | none => s
    | some e =>
      if e.why = .retry && decide (e.h.since + 1250000 ≤ s.now) then
        (s.dropHeld e.h.hid).homeAnswer e.h Status.homeLost (s.loadIndicator e.h) []
      else s)

/-! ### Host coherence (R98 to R101) -/

/-- R98: the host with bit `me` gets S, or M; a host that reads a line that it holds in M keeps it. Each grant is a use of the
entry (R99). -/
def State.dirGrant (s : State) (line me pid : Nat) (wantM : Bool) : State :=
  match s.dirOf line with
  | some e =>
    if wantM then s.useDir { e with dstate := 2, sharers := 1 <<< me }
    else if e.dstate = 2 && e.sharers = 1 <<< me then s.useDir e
    else s.useDir { e with dstate := 1, sharers := setBit e.sharers me }
  | none => s.useDir ⟨line, if wantM then 2 else 1, 1 <<< me, pid, 0⟩

/-- R99: a new line finds the directory full; the least recently used entry is the victim. -/
def State.dirFull (s : State) (line : Nat) : Option DirEntry :=
  if (s.dirOf line).isNone && decide (dirSize ≤ s.home.dir.length) then s.home.dir.head? else none

/-- R99, R101: make room for a new line: the victim's lookup resolves lost hosts first; if it still has sharers they are
recalled, and the request waits for that. Answers the recall that is needed. -/
def State.dirRoom (s : State) (line : Nat) : State × Option DirEntry :=
  match s.dirFull line with
  | none => (s, none)
  | some v =>
    let s1 := s.dirResolve v.line
    (s1, s1.dirOf v.line)

/-- HOST_COHERENT_REQUEST (R98): a host's request to a HOSTCOH line. A host that is lost is granted nothing.
Log entry 66 (DESIGN CHOICE). -/
def execHostCoherentRequest (pos : Nat) (s : State) : Res :=
  .next (match s.atHome pos hostCoh with
    | none => s
    | some h =>
      let f := h.f
      let s1 := s.takeIn pos
      let me := 4 * f.src + f.context % 4
      match s1.homeRefuses f with
      | some r => s1.homeRefuse h r
      | none =>
        if s1.home.lostHosts.testBit me then s1.homeAnswer h Status.refused (s1.loadIndicator h) []
        else if (s1.expanderDown (reqBase f)).isSome || isWrite f then
          (if isWrite f then s1.homeWrite h else s1.homeRead h false)
        else
          let line := lineOf (reqBase f)
          let s2 := s1.dirResolve line
          match s2.recallNeed line me f.lastPart with
          | some (hosts, inv) => s2.waitRecalls h [(line, hosts, inv)]
          | none =>
            match s2.dirRoom line with
            | (s3, some e) => s3.waitRecalls h [(e.line, e.sharers, true)]
            | (s3, none) => (s3.dirGrant line me f.pid f.lastPart).homeRead h false)

/-- DIRECTORY_RECALL (R98): a recall reaches the sharer's EP and goes to its host. `line` is FPA[55:6]. -/
def execDirectoryRecall (src cp line : Nat) (invalidate : Bool) (s : State) : Res :=
  .next (s.recallForHost { Frame.blank with
    kind := kReq, tc := 4, op := if invalidate then 0x60 else 0x61, src := src, dst := s.mid, context := cp % 4
    fpa := line * 64 })

/-- RECALL_RESPONSE (R98): a host has answered a snoop. -/
def execRecallResponse (line host : Nat) (data : List Byte) (s : State) : Res :=
  .next (s.snoopAnswered line host data)

/-- RECALL_TIMEOUT (R100): no answer for 50 µs. `line` is the local line. -/
def execRecallTimeout (line : Nat) (s : State) : Res :=
  .next (match s.home.recalls.find? fun r => r.line = line with
    | none => s
    | some r => if r.since + 62500 ≤ s.now then s.recallLate line else s)

/-- HOST_LOST (R101, R112): declared by the operator, by the CP link, or by the loss of its module. -/
def execHostLost (cause : HostLossCause) (mid cp : Nat) (s : State) : Res :=
  .next (match cause with
    | .write o => s.command o K.hostLost 0 fun s _ =>
        if mid < s.meshN && cp < 4 then (s.loseHost mid cp 0, Done.ok) else (s, Done.refused)
    | .link => s.loseHost mid cp 1
    | .moduleLost => s.loseHost mid cp 2)

/-- HOST_LOSS_SWEEP_END (R101): the sweep has ended and the report is written. -/
def execHostLossSweepEnd (mid cp : Nat) (s : State) : Res := .next (s.sweepEnd mid cp)

/-! ### Tier cache moves (R92) -/

/-- A frame leaves the tier cache, or stays and no longer moves. -/
def State.tierGone (s : State) (frame : Nat) : State :=
  s.mapHome fun x => { x with tier := x.tier.filter fun u => u.frame ≠ frame }
def State.tierStay (s : State) (frame : Nat) : State :=
  s.mapHome fun x => { x with tier := mapIf (fun u => u.frame = frame) (fun u => { u with moving := 0 }) x.tier }

/-- The promotion that waited for a victim starts, or is dropped with the victim's demotion. -/
def State.victimGone (s : State) (frame : Nat) : State :=
  s.mapHome fun x => { x with tier := mapIf (fun u => u.victim = some frame) (fun u => { u with victim := none }) x.tier }
def State.victimStays (s : State) (frame : Nat) : State :=
  s.mapHome fun x => { x with tier := x.tier.filter fun u => u.victim ≠ some frame }

/-- A write that waited for a frame goes on: one that its mirror has performed is performed, another is checked as it stands. -/
def State.resumeMoved (s : State) (e : Held) : State :=
  if e.h.f.mtype = mtMirrored then s.performAnswer e.h else s.writeChecked e.h

/-- The end of a move: the writes and the host write-backs that it held go on (R92), and so do the demotions that COLD asked
for. -/
def State.moveEnds (s : State) (frame : Nat) : State :=
  let hs := s.home.held.filter fun e => e.why = .moved frame
  let bs := s.home.backs.filter fun b => b.1 / 1024 = frame
  let s1 := s.mapHome fun x => { x with
    held := x.held.filter fun e => e.why ≠ .moved frame
    backs := x.backs.filter fun b => b.1 / 1024 ≠ frame }
  (((s1.each bs fun s b => s.recallData b.1 b.2.1 b.2.2).each hs State.resumeMoved).startCold).notePinned

/-- TIER_FRAME_MOVE_COMPLETE (R92): the copy of a frame ends; a move that met expander errors leaves the data at
its source, poisons the lines that could not be read, and is counted. -/
def execTierFrameMoveComplete (frame : Nat) (badLines : List Nat) (s : State) : Res :=
  .next (match s.tierOf frame with
    | none => s
    | some t =>
      if t.moving = 0 || t.victim.isSome then s
      else if badLines.isEmpty then
        ((if t.moving = 1 then s.tierStay frame else (s.tierGone frame).victimGone frame).moveEnds frame).settleAll
      else
        let mine := badLines.filter fun l => l / 1024 = frame
        let s1 := (s.each mine State.setPoison).bump K.tierMoveErrors 1
        ((if t.moving = 1 then s1.tierGone frame else (s1.tierStay frame).victimStays frame).moveEnds frame).settleAll)

/-! ### Atomic buffers (R77) -/

/-- A fetch of the module's own reader that has been issued for a line (FPA[55:6]). -/
def fetchesLine (line : Nat) (t : Tx) : Bool :=
  (match t.agent with
    | .reader _ => true
    | _ => false) && t.acc = .load && t.parts.any fun p => p.fpa / 64 = line && p.stage = .issued

/-- ATOMIC_BUFFER_FETCH_COMPLETE (R77): the fetch of a line ends; the waiting atomics are performed. -/
def execAtomicBufferFetchComplete (line status : Nat) (data : List Byte) (s : State) : Res :=
  .next (match s.req.txs.find? (fetchesLine line) with
    | some t => (s.respond t.id 0 (statusSeen status) 0 data false).settleAll
    | none => s)

end Sys2Proof.Machine
end

