-- ==== Sys2Proof/Machine/Flags.lean ====
section
/-! DEFINITION. Exact arithmetic, rounding, saturation and the flags of Table TIS-3 (R147 to R153, R174). Every function
answers its result and the flags it sets. -/

namespace Sys2Proof.Machine

open Sys2Proof

/-! ### Flag bits (Table TIS-3) -/

abbrev fSAT : Nat := 1
abbrev fINX : Nat := 2
abbrev fWRP : Nat := 4
abbrev fXCL : Nat := 8
abbrev fPOI : Nat := 16

/-- FLAGS with a new LAST. -/
def withLast (flags st : Nat) : Nat := flags % 256 ||| (st % 16) <<< 8

/-! ### Formats (Table TIS-1) -/

/-- Element bits of a format. -/
def fmtBits (f : Nat) : Nat :=
  match f with
  | 0 => 8 | 1 => 16 | 2 => 4 | 3 => 8 | 4 => 16 | 5 => 32 | _ => 64

def isQ (f : Nat) : Bool := f = 2 || f = 3 || f = 4
def isI (f : Nat) : Bool := f = 0 || f = 1 || f = 5 || f = 6

/-- R148: the elements of a row. -/
def rowInts (f : Nat) (bs : List Byte) : List Int :=
  let w := fmtBits f
  let v := leNat bs
  (List.range (bs.length * 8 / w)).map fun i => toSigned w (v >>> (w * i))

/-- The bytes of a row of elements. -/
def intsRow (f : Nat) (es : List Int) : List Byte :=
  let w := fmtBits f
  leBytes (es.length * w / 8) (es.foldr (fun e n => n <<< w ||| ofSigned w e) 0)

/-- R149: the block exponents of a row. -/
def rowExps (bs : List Byte) : List Int := bs.map fun b => toSigned 8 b.toNat

def expsRow (es : List Int) : List Byte := es.map fun e => BitVec.ofNat 8 (ofSigned 8 e)

/-! ### Rounding and range (R150) -/

/-- `rne_shift`: to nearest, ties to even. -/
def rneShift (v s : Int) : Int × Nat :=
  if s ≤ 0 then (v * (2 ^ (-s).toNat : Nat), 0)
  else
    let m : Int := (2 ^ s.toNat : Nat)
    let q := v / m
    let r := v - q * m
    let h : Int := (2 ^ (s.toNat - 1) : Nat)
    (if h < r || (r = h && q % 2 = 1) then q + 1 else q, if r = 0 then 0 else fINX)

def loOf (w : Nat) : Int := -(2 ^ (w - 1) : Nat)
def hiOf (w : Nat) : Int := (2 ^ (w - 1) : Nat) - 1

def inRange (w : Nat) (v : Int) : Bool := decide (loOf w ≤ v) && decide (v ≤ hiOf w)

/-- `fit`: saturates or wraps to `w` bits. -/
def fit (v : Int) (w : Nat) (sat : Bool) : Int × Nat :=
  if inRange w v then (v, 0)
  else if sat then (if v < loOf w then loOf w else hiOf w, fSAT)
  else (toSigned w (ofSigned w v), fWRP)

/-- `fit` after `rne_shift`. -/
def fitShift (v s : Int) (w : Nat) (sat : Bool) : Int × Nat :=
  let a := rneShift v s
  let b := fit a.1 w sat
  (b.1, a.2 ||| b.2)

/-! ### narrow_block (R152) -/

/-- The exponent search; `fuel` bounds it. -/
def narrowSearch (p : List Int) (w : Nat) : Nat → Nat → Nat
  | 0, s => s
  | n + 1, s => if p.all fun v => inRange w (rneShift v s).1 then s else narrowSearch p w n (s + 1)

/-- `narrow_block`: elements, exponent, flags. -/
def narrowBlock (p : List Int) (b : Int) (w : Nat) : List Int × Int × Nat :=
  let s0 : Int := (narrowSearch p w 1024 0 : Nat)
  let e0 := b + s0
  let r : Int × Int × Nat :=
    if e0 < -128 then (-128 - b, -128, fXCL)
    else if 127 < e0 then (127 - b, 127, fXCL)
    else (s0, e0, 0)
  let q := p.map fun v => fitShift v r.1 w true
  (q.map Prod.fst, r.2.1, q.foldl (fun f x => f ||| x.2) r.2.2)

/-- Cut a list into pieces of `n`; `fuel` bounds their number. -/
def chunksOf {α : Type} (n : Nat) : Nat → List α → List (List α)
  | 0, _ => []
  | k + 1, l => if l.isEmpty then [] else l.take n :: chunksOf n k (l.drop n)

/-- The blocks of 32 elements of a row. -/
def blocks (es : List Int) : List (List Int) := chunksOf 32 es.length es

/-! ### The exp2 table (R174) -/

def exp2T : List Nat :=
  [32768, 62757, 60097, 57549, 55109, 52773, 50535, 48393, 46341, 44376, 42495, 40693, 38968, 37316, 35734, 34219]

/-- s(f). -/
def exp2S (f : Nat) : Nat := if f = 0 then 0 else 1

end Sys2Proof.Machine
end

