-- ==== Sys2Proof/Machine/Operands.lean ====
section
/-! DEFINITION. The operand forms of a station instruction (R154 to R164): the fields of the word, scalar registers, row
masks, handles, instance SRAM and tile results; and the shared operation that runs one instruction. -/

namespace Sys2Proof.Machine

open Sys2Proof

/-! ### The instruction word (Table TIS-4) -/

def iOP (w : Nat) : Nat := bits w 127 120
def iPN (w : Nat) : Bool := w.testBit 119
def iPR (w : Nat) : Nat := bits w 118 116
def iFA (w : Nat) : Nat := bits w 115 112
def iFD (w : Nat) : Nat := bits w 111 108
def iSAT (w : Nat) : Bool := w.testBit 107
def iSUB (w : Nat) : Nat := bits w 106 104
def iHD (w : Nat) : Nat := bits w 103 100
def iHA (w : Nat) : Nat := bits w 99 96
def iHB (w : Nat) : Nat := bits w 95 92
def iHC (w : Nat) : Nat := bits w 91 88
def iXD (w : Nat) : Nat := bits w 87 83
def iXA (w : Nat) : Nat := bits w 82 78
def iXB (w : Nat) : Nat := bits w 77 73
def iSCOPE (w : Nat) : Nat := bits w 72 71
def iORD (w : Nat) : Nat := bits w 70 69
def iOWN (w : Nat) : Bool := w.testBit 68
def iNOFAIL (w : Nat) : Bool := w.testBit 67
def iIMM (w : Nat) : Nat := bits w 63 0

/-! ### Registers (R154) -/

/-- X0 reads as zero. -/
def Inst.xr (i : Inst) (n : Nat) : Nat := if n = 0 then 0 else nmGet i.x n 0

/-- Writes to X0 are discarded. -/
def Inst.xw (i : Inst) (n v : Nat) : Inst := if n = 0 then i else { i with x := mput i.x n (v % 2 ^ 64) }

/-- P0 reads as all ones. -/
def Inst.pr (i : Inst) (n : Nat) : Nat := if n = 0 then 2 ^ 256 - 1 else nmGet i.p n 0

/-- Writes to P0 are discarded. -/
def Inst.pw (i : Inst) (n v : Nat) : Inst := if n = 0 then i else { i with p := mput i.p n (v % 2 ^ 256) }

def Handle.unbound : Handle := ⟨0, false, 0, 0, 0, 0, 0, 0, 0, 0, false, 0, false, 0, 0⟩

def Inst.hget (i : Inst) (n : Nat) : Handle := i.h.getD n Handle.unbound

def Inst.hset (i : Inst) (n : Nat) (h : Handle) : Inst := { i with h := setAt i.h n h }

def Inst.flag (i : Inst) (f : Nat) : Inst := { i with flags := i.flags ||| f }

/-- A row is not masked (R163). -/
def Inst.rowOn (i : Inst) (w r : Nat) : Bool := (i.pr (iPR w)).testBit r != iPN w

/-- Bytes of the instance SRAM. -/
def Inst.ssize (i : Inst) : Nat := i.csram * 4096

/-- An SRAM span that lies inside. -/
def Inst.sramOk (i : Inst) (off n al : Nat) : Bool := off % al = 0 && decide (off + n ≤ i.ssize)

/-! ### Streams of an instance (R156) -/

/-- Stream and consumer of input `n`. -/
def State.inputOf (s : State) (i : Inst) (n : Nat) : Option (Strm × Cons) :=
  match i.ins[n]? with
  | none => none
  | some sid =>
    match s.strmGet i.who.pid i.who.flow sid with
    | none => none
    | some st => (st.cons.find? fun c => c.station = some i.who.index).map fun c => (st, c)

/-- Stream of output `n`. -/
def State.outputOf (s : State) (i : Inst) (n : Nat) : Option Strm :=
  match i.outs[n]? with
  | none => none
  | some sid => s.strmGet i.who.pid i.who.flow sid

/-! ### Tiles behind handles (R157) -/

/-- A row: element bytes and exponent bytes. -/
abbrev Row := List Byte × List Byte

/-- The element and exponent planes of an input handle's tile. -/
def State.inputPlanes (s : State) (i : Inst) (h : Handle) : List Byte × List Byte :=
  match s.inputOf i h.input with
  | none => ([], [])
  | some (_, c) =>
    match c.held.find? fun t => t.tnum = h.tnum with
    | none => ([], [])
    | some t => (t.elems, t.exps)

/-- The rows of a handle's tile. -/
def State.rowsOf (s : State) (i : Inst) (h : Handle) : List Row :=
  let xb := expRow h.fmt h.rbytes
  if h.kind = 1 then
    let p := s.inputPlanes i h
    (List.range h.rows).map fun r =>
      (fitTo h.rbytes (p.1.drop (h.base + r * h.pitch)), fitTo xb (p.2.drop (h.xbase + r * h.xpitch)))
  else (List.range h.rows).map fun r => (bytesAt i.sram (h.base + r * h.pitch) h.rbytes, bytesAt i.sram (h.xbase + r * h.xpitch) xb)

/-- The next 64-byte boundary. -/
def up64 (n : Nat) : Nat := cdiv n 64 * 64

/-- Bytes that a packed tile takes from its base. -/
def packedSize (fmt rows rbytes : Nat) : Nat :=
  if expRow fmt rbytes = 0 then rows * rbytes else up64 (rows * rbytes) + rows * expRow fmt rbytes

/-- Element and exponent rows packed (R117). -/
def packRows (rs : List Row) : List Byte := (rs.map Prod.fst).flatten ++ (rs.map Prod.snd).flatten

/-- The tile of a handle, as PUT sends it. -/
def State.tileOf (s : State) (i : Inst) (h : Handle) : Tile :=
  let rs := s.rowsOf i h
  ⟨0, false, h.poison, h.fmt, h.rows, h.rbytes, h.tag, (rs.map Prod.fst).flatten, (rs.map Prod.snd).flatten⟩

/-- A vector operand: an I tile in element order. -/
def State.vecOf (s : State) (i : Inst) (h : Handle) : List Int := ((s.rowsOf i h).map fun r => rowInts h.fmt r.1).flatten

/-- A handle that may be an operand (R160). -/
def Handle.usable (h : Handle) : Bool := h.kind ≠ 0 && !h.fin

/-- Write a result into handle `hd` (R157, R163): `none` rows keep the bytes in storage. Fails where the handle is not
local, the shape is not one, or the capacity is exceeded. -/
def Inst.writeTile (i : Inst) (hd fmt rbytes : Nat) (rows : List (Option Row)) (poi : Bool) (tag : Nat) : Option Inst :=
  let h := i.hget hd
  let n := rows.length
  if h.kind ≠ 2 || h.fin || n = 0 || decide (256 < n) || rbytes = 0 || rbytes % 64 ≠ 0 || decide (4096 < rbytes) ||
      decide (h.cap < packedSize fmt n rbytes) then none
  else
    let xb := expRow fmt rbytes
    let x0 := if xb = 0 then 0 else up64 (h.base + n * rbytes)
    let put := fun (m : Bytes) (e : Option Row × Nat) =>
      match e.1 with
      | none => m
      | some r => bytesSet (bytesSet m (h.base + e.2 * rbytes) r.1) (x0 + e.2 * xb) r.2
    some (({ i with sram := (rows.zip (List.range n)).foldl put i.sram }).hset hd
      { h with fmt := fmt, rows := n, rbytes := rbytes, pitch := rbytes, xbase := x0, xpitch := xb, poison := poi, tag := tag })

/-- Mask the rows of a result. -/
def Inst.maskRows (i : Inst) (w : Nat) (rs : List Row) : List (Option Row) :=
  (rs.zip (List.range rs.length)).map fun e => if i.rowOn w e.2 then some e.1 else none

/-- The word at the PC; beyond the program the instruction memory holds zero words. Log entry 32 (DEDUCED). -/
def Inst.word (i : Inst) : Nat := ((i.prog[i.pc]?).map BitVec.toNat).getD 0

/-! ### Counting slots (R137, R138, R369, R377) -/

/-- Row bytes are whole elements: those of a row. -/
def Handle.rowElems (h : Handle) : Nat := h.rbytes * 8 / fmtBits h.fmt

/-- Bytes of a handle's element rows. -/
def Handle.plane (h : Handle) : Nat := h.rows * h.rbytes

/-- Multiply-accumulates in one beat of MMA (R172). -/
def mmaBeat (fmt : Nat) : Nat := if fmt = 2 then 1024 else if fmt = 0 || fmt = 3 then 512 else 256

/-- Instructions that issue beats over HA's element rows. -/
def beatOp (op : Nat) : Bool :=
  op = 0x19 || (decide (0x30 ≤ op) && decide (op ≤ 0x3A)) || (decide (0x40 ≤ op) && decide (op ≤ 0x44)) || op = 0x50 || op = 0x51 ||
    op = 0x58 || op = 0x59

/-- The handle whose element rows give the beats: HD where rows are read into it or filled, else HA. -/
def beatHandle (w : Nat) : Nat := if iOP w = 0x18 || iOP w = 0x20 || iOP w = 0x22 || iOP w = 0x28 then iHD w else iHA w

/-- Instructions over the bytes of a tile (R137). -/
def tileOp (op : Nat) : Bool := beatOp op || op = 0x18 || op = 0x3B || op = 0x20 || op = 0x21 || op = 0x22 || op = 0x28

/-- The beats that an instruction issues (R137, the Beats columns of chapter 6). -/
def Inst.beats (i : Inst) (w : Nat) : Nat :=
  let a := i.hget (iHA w)
  if iOP w = 0x3B then max 1 (cdiv (a.rows * (i.hget (iHB w)).rows * a.rowElems) (mmaBeat (iFA w)))
  else if tileOp (iOP w) then max 1 (cdiv (i.hget (beatHandle w)).plane 512)
  else 1

/-- The result rows that row `r` of the operand goes to: its own, except where the instruction sums, selects, scatters, drops or
restores rows. -/
def State.rowTargets (s : State) (i : Inst) (w r : Nat) : List Nat :=
  let op := iOP w
  let ix := fun (_ : Unit) => (s.vecOf i (i.hget (iHB w))).map Int.toNat
  let n := iIMM w % 512
  if op = 0x3A then
    let ls := (ix ()).take n
    (List.range ls.length).filter fun k =>
      decide ((ls.take k).foldl (· + ·) 0 ≤ r) && decide (r < (ls.take (k + 1)).foldl (· + ·) 0)
  else if op = 0x58 then (List.range n).filter fun k => (ix ()).getD k 256 = r
  else if op = 0x59 then ((ix ())[r]?).toList
  else if op = 0x50 then
    let zero := fun (x : Row) => (x.1 ++ x.2).all fun b => b = 0
    let rs := s.rowsOf i (i.hget (iHA w))
    if zero (rs.getD r ([], [])) then [] else [((rs.take r).filter fun x => !zero x).length]
  else if op = 0x51 then
    ((List.range 256).filter fun k => (leNat (((s.rowsOf i (i.hget (iHC w))).map Prod.fst).flatten.take 32)).testBit k)[r]?.toList
  else [r]

/-- Every result row of the operand rows `lo` to `hi` is masked. -/
def State.rowsMasked (s : State) (i : Inst) (w lo hi : Nat) : Bool :=
  (List.range (hi + 1 - lo)).all fun k =>
    let ts := s.rowTargets i w (lo + k)
    !ts.isEmpty && ts.all fun r => !i.rowOn w r

/-- R163: beats whose lanes all lie in masked rows. A multiply-accumulate of MMA lies in the row of HA that it uses, rows
ascending. Log entry 29 (DEDUCED). -/
def State.squashed (s : State) (i : Inst) (w : Nat) : Nat :=
  if !tileOp (iOP w) then 0
  else
    let h := i.hget (beatHandle w)
    let per := if iOP w = 0x3B then (i.hget (iHB w)).rows * h.rowElems else h.rbytes
    let beat := if iOP w = 0x3B then mmaBeat (iFA w) else 512
    ((List.range (i.beats w)).filter fun k =>
      s.rowsMasked i w (beat * k / max 1 per) (min (h.rows - 1) ((beat * k + beat - 1) / max 1 per))).length

/-- An instruction has committed: its beats retire, those squashed by predication and those left empty in its last clock are
wasted; `j` is the instance after it, whose HD a read has shaped. Log entry 29 (DESIGN CHOICE). -/
def State.countRun (s : State) (i j : Inst) : State :=
  let w := i.word
  let k := if iOP w = 0x20 || iOP w = 0x22 || iOP w = 0x28 then j else i
  let n := k.beats w
  let q := s.squashed k w
  let ev := fun (s : State) e k => s.clusterEv i.sd i.cluster e i.who.pid k
  let s1 := ev (ev ((s.slots i 0 0 (n - q)).slots i 1 0x011 q) 0x030 1) 0x031 (n - q)
  let s2 := s1.slots i 1 0x014 ((4 - n % 4) % 4)
  let op := iOP w
  if op = 0x10 then ev s2 0x036 1
  else if op = 0x11 then ev s2 0x037 1
  else if op = 0x60 && iSUB w = 1 then ev s2 0x038 (j.sha.count / 128 - i.sha.count / 128)
  else s2

/-! ### Running one instruction -/

/-- How an instruction ends: the instance goes on at the next word or at another, waits, or fails. -/
inductive StnEnd where
  | go (s : State) (i : Inst)
  | jump (s : State) (i : Inst) (pc : Nat)
  | stay (s : State) (i : Inst)
  | fail (status : Nat)

abbrev StnEnd.bad : StnEnd := .fail Status.refused

/-- The core of an instance. -/
def State.coreOf (s : State) (i : Inst) : Option CoreSt :=
  s.stn.cores.find? fun c => c.sd = i.sd && c.cluster = i.cluster && c.core = i.core

def State.setCoreSt (s : State) (sd cl co : Nat) (g : CoreSt → CoreSt) : State :=
  s.mapStn fun x => { x with cores := mapIf (fun c => c.sd = sd && c.cluster = cl && c.core = co) g x.cores }

/-- A cap or the emergency throttle withholds the station clock of a flow (R399, R400): at measure 6 that of flows
without a sluice set, at stage 3 that of every flow, and every clock in the throttle. -/
def State.clockHeld (s : State) (who : InstRef) : Bool :=
  s.rd K.emergency = 1 || s.power.stage3 || (decide (6 ≤ s.power.measures) && s.setOf who.pid who.flow = 0)

/-- The core runs instructions: clocked, not zeroing, not retiring, in service. -/
def State.coreReady (s : State) (i : Inst) : Bool :=
  match s.coreOf i with
  | some c => !s.clockHeld i.who && !c.zeroing && c.retiring = 0 && !c.out && !(s.stn.retiring.contains (i.sd, i.cluster))
  | none => false

/-! ### What holds an instruction back, and the selected instance (R138, R139, R161, R178) -/

/-- The core's hash unit is free. -/
def State.hashFree (s : State) (i : Inst) : Bool :=
  match s.coreOf i with
  | some c => c.hash.isNone
  | none => false

/-- Every consumer has a credit, room and buffers for the tile; a shadow's outputs need none (R389). -/
def State.putReady (s : State) (st : Strm) (t : Tile) : Bool := s.life.mstate = .shadow || (s.canPut st t && s.roomHere st t)

/-- The tile that a PUT or PEND sends. -/
def State.putTileOf (s : State) (i : Inst) (w : Nat) : Tile := if iOP w = 0x11 then s.tileOf i (i.hget (iHA w)) else Tile.endMark 0

/-- The span entries from number `k` on that hold the positions of a SEQRD. -/
def Inst.spanAfter (i : Inst) (k t0 n layer plane : Nat) : Bool :=
  (List.range (i.spans.length / 2 - k)).any fun j =>
    let e := i.spans.getD (2 * (k + j)) 0
    decide (bits e 63 40 ≤ t0) && decide (t0 + n ≤ bits e 63 40 + bits e 39 16 + 1) && bits e 15 8 = layer && (bits e 7 6).testBit plane

/-- R136: a SEQRD of a sequence-mode GATHER waits until the span of its positions has been issued and checked. -/
def Inst.seqHeld (i : Inst) (w : Nat) : Bool :=
  let t0 := i.xr (iXB w)
  let n := iIMM w % 2 ^ 24 + 1
  let l := bits (iIMM w) 31 24
  let p := bits (iIMM w) 32 32
  match i.span with
  | some r =>
    if decide (r.t0 ≤ t0) && decide (t0 + n ≤ r.t0 + r.n) && r.layer = l && r.parts.any fun x => x.2 = p then r.tx.isSome
    else i.spanAfter i.spanAt t0 n l p
  | none => i.spanAfter i.spanAt t0 n l p

/-- The input whose next tile HALT waits for. -/
def State.haltInput (s : State) (i : Inst) : Option Nat :=
  (List.range i.ins.length).find? fun n => match s.inputOf i n with
    | some (_, c) => !c.finSeen && c.held.isEmpty && c.buf.isEmpty
    | none => false

/-- The input on which the instance is front-starved: a GET, or a HALT that has ended its outputs (Table STN-13). -/
def State.starvedOn (s : State) (i : Inst) : Option Nat :=
  let w := i.word
  if i.complete || i.wait ≠ .none then none
  else if i.halted then s.haltInput i
  else if iOP w = 0x10 then
    match s.inputOf i (iIMM w % 64) with
    | some (_, c) => if c.buf.isEmpty && !c.finSeen then some (iIMM w % 64) else none
    | none => none
  else none

/-- A halted instance can still end an output or release a tile. -/
def State.haltMoves (s : State) (i : Inst) : Bool :=
  (i.outs.any fun sid => match s.strmGet i.who.pid i.who.flow sid with
    | some st => !st.fin && s.putReady st (Tile.endMark 0)
    | none => false) ||
  ((List.range i.ins.length).any fun n => match s.inputOf i n with
    | some (_, c) => !(c.held ++ c.buf).isEmpty
    | none => false)

/-- The next instruction of an instance cannot bind. -/
def State.blocked (s : State) (i : Inst) : Bool :=
  let w := i.word
  let op := iOP w
  i.complete || i.wait ≠ .none ||
  (if i.halted then !s.haltMoves i
   else if op = 0x10 then (s.starvedOn i).isSome
   else if op = 0x11 || op = 0x12 then
     match s.outputOf i (iIMM w % 64) with
     | some st => !st.fin && !s.putReady st (s.putTileOf i w)
     | none => false
   else if op = 0x60 || op = 0x61 then !s.hashFree i
   else op = 0x28 && i.seqHeld w)

/-- An instance of a running flow whose next instruction can bind. -/
def State.ready (s : State) (i : Inst) : Bool := s.running i.who.pid i.who.flow && !s.blocked i

/-- Order of the instances of a core: by station index; equal indices of different flows by PID and FLOW_ID.
Log entry 29 (DEDUCED). -/
def stnOrder (w : InstRef) : Nat := (w.index * 64 + w.pid) * 65536 + w.flow

/-- The ready instance after `w` in the round of its core. -/
def State.nextReady (s : State) (i : Inst) (w : InstRef) : Option InstRef :=
  let rs := ((s.stn.insts.filter fun j => j.sd = i.sd && j.cluster = i.cluster && j.core = i.core && s.ready j).map Inst.who)
  let least := fun (l : List InstRef) => l.foldl (fun (m : Option InstRef) x => match m with
    | some y => if stnOrder x < stnOrder y then some x else m
    | none => some x) none
  (least (rs.filter fun x => decide (stnOrder w < stnOrder x))).or (least rs)

/-- R139: the instance is the selected one of its core, or the next ready one while the selected one cannot bind. -/
def State.mayRun (s : State) (i : Inst) : Bool :=
  match s.coreOf i with
  | none => false
  | some c =>
    match c.sel with
    | none => true
    | some w => w = i.who || (match s.instGet w with
      | some k => !s.ready k && s.nextReady i w = some i.who
      | none => true)

/-- The core selects the instance; a change of the selection costs 2 clocks (R139). -/
def State.selectInst (s : State) (i : Inst) : State :=
  let old := (s.coreOf i).bind CoreSt.sel
  if old = some i.who then s
  else
    let s1 := if old.isSome then (s.clusterEv i.sd i.cluster 0x032 i.who.pid 1).slots i 1 0x013 8 else s
    s1.setCoreSt i.sd i.cluster i.core fun c => { c with sel := some i.who }

/-- The instance takes its new value. -/
def State.commitInst (s : State) (i : Inst) (pc : Nat) : State :=
  s.setInst i.who fun _ => { i with pc := pc % 1024, mism := 0, starved := if pc = i.pc then i.starved else none }

/-- The SRAM spans of a handle's packed tile: element rows, exponent rows. -/
def Handle.packedSpans (h : Handle) : List (Nat × Nat) :=
  if expRow h.fmt h.rbytes = 0 then [(h.base, h.rows * h.rbytes)]
  else [(h.base, h.rows * h.rbytes), (up64 (h.base + h.rows * h.rbytes), h.rows * expRow h.fmt h.rbytes)]

/-- The SRAM spans that instruction `w` has written, `j` being the instance after it. -/
def Inst.wrote (i j : Inst) (w : Nat) : List (Nat × Nat) :=
  let op := iOP w
  if op = 0x05 then [((i.xr (iXA w) + iIMM w) % 2 ^ 64, 8)]
  else if op = 0x50 then (j.hget (iHC w)).packedSpans ++ (j.hget (iHD w)).packedSpans
  else if tileOp op && op ≠ 0x21 || (op = 0x60 && iSUB w = 2) then (j.hget (iHD w)).packedSpans
  else []

/-- R178: one of the spans is still being absorbed by the core's hash unit for this instance. -/
def State.absorbing (s : State) (i : Inst) (ws : List (Nat × Nat)) : Bool :=
  match s.coreOf i with
  | some c => c.hash = some i.who && c.absorb.any fun a => ws.any fun b => decide (a.1 < b.1 + b.2) && decide (b.1 < a.1 + a.2)
  | none => false

/-- The result of an instruction is committed; one that would write storage which the hash unit is still absorbing waits
(R178), and the slots after a taken branch are empty (R138). -/
def State.endStn (s : State) (i : Inst) (e : StnEnd) : State :=
  (match e with
    | .go s1 j => if s.absorbing i (i.wrote j i.word) then s else (s1.countRun i j).commitInst j (j.pc + 1)
    | .jump s1 j pc => ((s1.countRun i j).slots i 1 0x013 Config.branchSlots).commitInst j pc
    | .stay s1 j => s1.commitInst j j.pc
    | .fail st => s.failStation i.who st).settleAll

/-- The instruction that the command names stands at the PC of an instance that may take instructions. -/
def State.stnTakes (s : State) (i : Inst) (op : Nat) : Bool :=
  (s.inService || s.life.mstate = .shadow) && s.running i.who.pid i.who.flow && i.wait = .none && !i.complete && s.coreReady i &&
    iOP i.word = op && (!i.halted || op = 6)

/-- Run the instruction with opcode `op` at the PC of an instance, if that is what stands there and it may run. An instance
that is not its core's turn only begins to count that it is starved (R139, R199). -/
def State.station (s : State) (who : InstRef) (op : Nat) (f : State → Inst → Nat → StnEnd) : State :=
  match s.instGet who with
  | none => s
  | some i =>
    if !s.stnTakes i op then s
    else if s.mayRun i then
      let s0 := s.selectInst i
      s0.endStn i (f s0 i i.word)
    else
      match s.starvedOn i with
      | some n => s.setInst who fun i => { i with starved := i.starved.or (some (n, 0)) }
      | none => s

/-! ### Shapes of tile instructions -/

/-- Elements of a row of a handle. -/
def Handle.elems (h : Handle) : Nat := h.rbytes * 8 / fmtBits h.fmt

/-- Row bytes of `n` elements in a format. -/
def bytesFor (fmt n : Nat) : Nat := n * fmtBits fmt / 8

/-- The result of a row function: rows, and the flags that unmasked rows raise. -/
abbrev RowsOut := List (Row × Nat)

/-- Flags of the unmasked rows. -/
def Inst.rowFlags (i : Inst) (w : Nat) (rs : RowsOut) : Nat :=
  (rs.zip (List.range rs.length)).foldl (fun f e => if i.rowOn w e.2 then f ||| e.1.2 else f) 0

/-- Store a result and end the instruction: flags, POISON of the operands, the mask. A handle keeps its TAG unless the
instruction gives one (R157 names format and shape only). Log entry 32 (DEDUCED). -/
def finishTile (s : State) (i : Inst) (w fmt rbytes : Nat) (rs : RowsOut) (poi : Bool) (tag : Nat) : StnEnd :=
  match i.writeTile (iHD w) fmt rbytes (i.maskRows w (rs.map Prod.fst)) poi tag with
  | none => .bad
  | some j => .go s (j.flag (i.rowFlags w rs ||| if poi then fPOI else 0))

/-- The handle's tile has this format and is an operand. Log entry 32 (DEDUCED). -/
def Handle.isOf (h : Handle) (fmt : Nat) : Bool := h.usable && h.fmt = fmt

/-- Blocks of a Q row with their exponents. -/
def qBlocks (fmt : Nat) (r : Row) : List (List Int × Int) := (blocks (rowInts fmt r.1)).zip (rowExps r.2)

/-- A Q row out of narrowed blocks. -/
def qRow (fmt : Nat) (bs : List (List Int × Int × Nat)) : Row × Nat :=
  ((intsRow fmt (bs.map fun b => b.1).flatten, expsRow (bs.map fun b => b.2.1)), bs.foldl (fun f b => f ||| b.2.2) 0)

/-- An I row out of reduced elements. -/
def iRow (fmt : Nat) (es : List (Int × Nat)) : Row × Nat :=
  ((intsRow fmt (es.map Prod.fst), []), es.foldl (fun f e => f ||| e.2) 0)

/-- R171: an element-wise operation of two rows. `opI` forms an exact I result; a Q operation aligns both blocks first. -/
def binRow (fa fd : Nat) (sat : Bool) (opI : Int → Int → Int × Nat) (opQ : Int → Int → Int) (x y : Row) : Row × Nat :=
  if isQ fa then
    qRow fd (((qBlocks fa x).zip (qBlocks fa y)).map fun p =>
      let ea := p.1.2
      let eb := p.2.2
      let m := min ea eb
      narrowBlock ((p.1.1.zip p.2.1).map fun v => opQ (v.1 * (2 ^ (ea - m).toNat : Nat)) (v.2 * (2 ^ (eb - m).toNat : Nat))) m (fmtBits fd))
  else
    iRow fd (((rowInts fa x.1).zip (rowInts fa y.1)).map fun v =>
      let a := opI v.1 v.2
      let b := fit a.1 (fmtBits fd) sat
      (b.1, a.2 ||| b.2))

/-- A binary tile instruction over HA and HB. -/
def binTile (row : Nat → Nat → Nat → Row → Row → Row × Nat) (s : State) (i : Inst) (w : Nat) : StnEnd :=
  let a := i.hget (iHA w)
  let b := i.hget (iHB w)
  if !a.isOf (iFA w) || !b.isOf (iFA w) || a.rows ≠ b.rows || a.rbytes ≠ b.rbytes then .bad
  else
    finishTile s i w (iFD w) (bytesFor (iFD w) a.elems)
      (((s.rowsOf i a).zip (s.rowsOf i b)).map fun p => row w (iFA w) (iFD w) p.1 p.2) (a.poison || b.poison) (i.hget (iHD w)).tag

/-- A unary tile instruction over HA; the row function is given the row number. -/
def unTile (row : Nat → Nat → Nat → Row → Row × Nat) (s : State) (i : Inst) (w : Nat) : StnEnd :=
  let a := i.hget (iHA w)
  if !a.isOf (iFA w) then .bad
  else
    let rs := s.rowsOf i a
    finishTile s i w (iFD w) (bytesFor (iFD w) a.elems)
      ((rs.zip (List.range rs.length)).map fun e => row (iFA w) (iFD w) e.2 e.1) a.poison (i.hget (iHD w)).tag

/-- Signed value of a scalar register. -/
def Inst.xs (i : Inst) (n : Nat) : Int := toSigned 64 (i.xr n)

/-- IMM[5:0] as a shift. -/
def immShift (w : Nat) : Int := (iIMM w % 64 : Nat)

/-- A vector of at least `n` non-negative elements, as numbers. -/
def indexList (v : List Int) (n : Nat) : Option (List Nat) :=
  if n = 0 || decide (256 < n) || decide (v.length < n) || (v.take n).any fun e => decide (e < 0) then none
  else some ((v.take n).map Int.toNat)

end Sys2Proof.Machine
end

