-- ==== Sys2Proof/Machine/Collect.lean ====
section
/-! DEFINITION. What the stations of a collective do beside their programs (R184 to R188, R197): the counts of ALLTOALLV, the
routing rows of DISPATCH and COMBINE, the partials of MERGE, the parameters of GATHERSUM. GET and PUT call it. Where a rule
fixes a result, the tile that leaves is the rule's: a program that follows its template makes the same one.
Log entry 67 (DEDUCED). -/

namespace Sys2Proof.Machine

open Sys2Proof

/-! ### The header (Table COL-4) -/

/-- Word `n` of the header. -/
def Inst.colW (i : Inst) (n : Nat) : Nat := i.col.hdr.getD n 0

/-- The station is of type `t` in a collective. -/
def Inst.colIs (i : Inst) (t : Nat) : Bool := i.typ = t && !i.col.hdr.isEmpty

def Inst.colOp (i : Inst) : Nat := bits (i.colW 0) 63 60
def Inst.colSat (i : Inst) : Bool := (i.colW 0).testBit 52
def Inst.colMembers (i : Inst) : Nat := bits (i.colW 0) 51 43 + 1
def Inst.colOutExp (i : Inst) : Int := toSigned 8 (bits (i.colW 4) 63 56)
def Inst.colShift (i : Inst) : Nat := bits (i.colW 4) 55 50
def Inst.colKmax (i : Inst) : Nat := bits (i.colW 4) 49 46
def Inst.colExperts (i : Inst) : Nat := bits (i.colW 4) 45 34 + 1
def Inst.colCaps (i : Inst) : Nat := bits (i.colW 4) 33 18
def Inst.colOutFmt (i : Inst) : Nat := bits (i.colW 4) 17 14
def Inst.colRows (i : Inst) : Nat := bits (i.colW 5) 31 0 + 1

def Inst.mapCol (i : Inst) (g : ColSt → ColSt) : Inst := { i with col := g i.col }

/-! ### Routing rows (R185, Table COL-3) -/

/-- K of a routing row. -/
def routeK (r : List Byte) : Nat := ((r.drop 32).headD 0).toNat

/-- The expert of slot `j`. -/
def routeExp (r : List Byte) (j : Nat) : Nat := leNat ((r.drop (2 * j)).take 2) % 4096

/-- The weight of slot `j`. -/
def routeWt (r : List Byte) (j : Nat) : Int := toSigned 16 (leNat ((r.drop (16 + 2 * j)).take 2))

/-- A routing row that does not fail the station. -/
def Inst.routeOk (i : Inst) (r : List Byte) : Bool :=
  decide (1 ≤ routeK r) && decide (routeK r ≤ i.colKmax) &&
    (List.range (routeK r)).all fun j => decide (routeExp r j < i.colExperts)

/-- A kept slot goes behind those of experts up to its own, so the plan is in the order of R185: expert, token, slot. -/
def insertSlot (x : SlotRef) : List SlotRef → List SlotRef
  | [] => [x]
  | y :: r => if x.expert < y.expert then x :: y :: r else y :: insertSlot x r

/-- One slot of a token: kept while fewer than CAPS rows have gone to its expert, else dropped and counted. -/
def ColSt.slot (caps : Nat) (c : ColSt) (x : SlotRef) : ColSt :=
  let n := nmGet c.sent x.expert 0
  if n < caps then { c with sent := mput c.sent x.expert (n + 1), plan := insertSlot x c.plan } else { c with dropped := c.dropped + 1 }

/-- One routing row: the next token. -/
def ColSt.route (caps : Nat) (c : ColSt) (r : List Byte) : ColSt :=
  let t := c.tokens.length
  (List.range (routeK r)).foldl (fun c j => c.slot caps ⟨routeExp r j, t, j⟩) { c with tokens := c.tokens ++ [r] }

/-- A tile on the routing input. -/
def Inst.getRouting (i : Inst) (rows : List Row) : Option Inst :=
  if (rows.map Prod.fst).all i.routeOk then some (i.mapCol fun c => (rows.map Prod.fst).foldl (ColSt.route i.colCaps) c) else none

/-- R185: a tile of expert rows that DISPATCH sends; its TAG names the expert, whose next kept slots its rows are. The station
fails when there are no such slots. -/
def Inst.sendRows (i : Inst) (t : Tile) : Option (Inst × Tile) :=
  let e0 := t.tag % 4096
  let e := if i.col.plan.any fun x => x.expert = e0 then e0 else (i.col.plan.head?.map SlotRef.expert).getD e0
  let mine := i.col.plan.filter fun x => x.expert = e
  if mine.length < t.rows then none
  else some (i.mapCol fun c => { c with plan := c.plan.filter (fun x => !(mine.take t.rows).contains x), puts := c.puts + t.rows }, { t with tag := e })

/-- R185: a tile that an expert's member returns: one row for each row sent, in the same order. -/
def Inst.getReturned (i : Inst) (t : Tile) (rows : List Row) : Option Inst :=
  let mine := i.col.plan.filter fun x => x.expert = t.tag % 4096
  if mine.length < t.rows then none
  else some (i.mapCol fun c => { c with
    plan := c.plan.filter fun x => !(mine.take t.rows).contains x
    back := c.back ++ (mine.take t.rows).zip (rows.map fun r => rowInts t.fmt r.1) })

/-- R186: the row of a token: its kept slots in ascending order, each term rounded once, `fit` after each addition. -/
def Inst.combineRow (i : Inst) (n tok : Nat) : List Int :=
  let r := i.col.tokens.getD tok []
  (List.range (routeK r)).foldl (fun acc j =>
    match i.col.back.find? fun e => e.1.token = tok && e.1.slot = j with
    | none => acc
    | some e => (acc.zip e.2).map fun v => (fit (v.1 + (rneShift (routeWt r j * v.2) i.colShift).1) 32 i.colSat).1)
    (List.replicate n 0)

/-- COMBINE puts the rows of its next tokens, once every kept slot of them has come back. -/
def Inst.putTokens (i : Inst) (t : Tile) : Inst × Tile :=
  let toks := (List.range t.rows).map fun r => i.col.puts + r
  let j := i.mapCol fun c => { c with puts := c.puts + t.rows }
  if t.fmt = 5 && decide (i.col.puts + t.rows ≤ i.col.tokens.length) && !(i.col.plan.any fun x => toks.contains x.token) then
    (j, { t with elems := (toks.map fun k => intsRow 5 (i.combineRow (t.rbytes / 4) k)).flatten })
  else (j, t)

/-! ### MERGE (R196, R197) -/

/-- A tile of a partial: the next one of its input. The station fails when it and another input's tile of the same number
disagree in R, H, head or row group. -/
def Inst.getPartial (i : Inst) (n : Nat) (t : Tile) : Option Inst :=
  let m : MergeIn := ⟨n, nmGet i.col.gots n 0, t.rows, t.rbytes, t.tag⟩
  if i.col.merge.any fun x => x.k = m.k && !(x.rows = m.rows && x.rbytes = m.rbytes && x.tag % 65536 = m.tag % 65536) then none
  else some (i.mapCol fun c => { c with merge := c.merge ++ [m], gots := mput c.gots n (m.k + 1) })

/-- Positions that a TAG covers. -/
def tagPositions (tag : Nat) : Nat := bits tag 39 16 + 1

/-- A tile of the merged partial: the first position of input 0 and the sum of the positions. The station fails above
16,777,216. -/
def Inst.putPartial (i : Inst) (t : Tile) : Option (Inst × Tile) :=
  let ms := i.col.merge.filter fun x => x.k = i.col.puts
  let sum := ms.foldl (fun n x => n + tagPositions x.tag) 0
  let j := i.mapCol fun c => { c with puts := c.puts + 1, merge := c.merge.filter fun x => x.k ≠ c.puts }
  match ms.find? fun x => x.input = 0 with
  | none => some (j, t)
  | some x =>
    if ms.length < i.ins.length then some (j, t)
    else if 2 ^ 24 < sum then none
    else some (j, { t with tag := fld (bits x.tag 63 40) 24 40 ||| fld (sum - 1) 24 16 ||| x.tag % 65536 })

/-! ### ALLTOALLV (R184) -/

/-- The station writes a receiver's result buffer. -/
def Inst.receives (i : Inst) : Bool := i.colIs 1 && i.colOp = 5

/-- The counts of phase 1 have all arrived. -/
def Inst.countsIn (i : Inst) : Bool := decide (4 * i.colMembers ≤ i.col.counts.length)

/-- A tile of phase 1 on input 0. The receiver fails when the sum of all counts exceeds its result buffer. -/
def Inst.getCounts (i : Inst) (t : Tile) : Option Inst :=
  let j := i.mapCol fun c => { c with counts := c.counts ++ t.elems }
  let sum := ((List.range i.colMembers).map fun k => leNat ((j.col.counts.drop (4 * k)).take 4)).foldl (· + ·) 0
  if j.countsIn && decide (Config.resultCap i.who.pid i.who.flow i.who.index < 64 * sum) then none else some j

/-! ### GET and PUT of a station of a collective -/

/-- GET binds tile `t` of input `n`; none: the station fails with REFUSED. -/
def State.colGet (s : State) (i : Inst) (n : Nat) (h : Handle) (t : Tile) : Option Inst :=
  if t.fin then some i
  else
    let rows := s.rowsOf i h
    if i.colIs 7 && n = 1 then i.getRouting rows
    else if i.colIs 8 && n + 1 = i.ins.length then i.getRouting rows
    else if i.colIs 8 && !i.col.tokens.isEmpty then i.getReturned t rows
    else if i.colIs 3 then i.getPartial n t
    else if i.receives && n = 0 && !i.countsIn then i.getCounts t
    else some i

/-- PUT sends tile `t`; none: the station fails with REFUSED. -/
def Inst.colPut (i : Inst) (t : Tile) : Option (Inst × Tile) :=
  if t.fin then some (i, t)
  else if i.colIs 7 then i.sendRows t
  else if i.colIs 8 then some (i.putTokens t)
  else if i.colIs 3 then i.putPartial t
  else some (i, t)

/-! ### GATHERSUM (R187) -/

/-- The station's sums go on to another station that adds them. -/
def State.handsOn (s : State) (i : Inst) : Bool :=
  match s.flowGet i.who.pid i.who.flow with
  | none => false
  | some f => i.outs.any fun sid =>
    match s.strmGet i.who.pid i.who.flow sid with
    | none => false
    | some st => st.cons.any fun c => f.stns.any fun x => c.station = some x.index && (x.typ = 2 || x.typ = 9)

/-- The table's descriptor stands at parameter offset 64; its row count is TABLE_ROWS. -/
def Inst.tableRows (i : Inst) (off rows : Nat) : Nat := if i.colIs 9 && off = 64 then i.colRows else rows

end Sys2Proof.Machine
end

