-- ==== Sys2Proof/Machine/Scalar.lean ====
section
/-! DEFINITION. Control, scalar, stream and handle instructions of a station (R165 to R167). -/

namespace Sys2Proof.Machine

open Sys2Proof

/-! ### Control and scalar (Table TIS-5) -/

/-- NOP. -/
def execNop (who : InstRef) (s : State) : Res := .next (s.station who 0x00 fun s i _ => .go s i)

/-- LI. -/
def execLi (who : InstRef) (s : State) : Res := .next (s.station who 0x01 fun s i w => .go s (i.xw (iXD w) (iIMM w)))

/-- The operations of SALU; shift counts mod 64, sums mod 2^64. -/
def saluOp (sub a b : Nat) : Nat :=
  match sub with
  | 0 => (a + b) % 2 ^ 64
  | 1 => (a + 2 ^ 64 - b) % 2 ^ 64
  | 2 => a &&& b
  | 3 => a ||| b
  | 4 => a ^^^ b
  | 5 => (a <<< (b % 64)) % 2 ^ 64
  | 6 => a >>> (b % 64)
  | _ => ofSigned 64 (toSigned 64 a / (2 ^ (b % 64) : Nat))

/-- SALU. -/
def execSalu (who : InstRef) (s : State) : Res :=
  .next (s.station who 0x02 fun s i w =>
    .go s (i.xw (iXD w) (saluOp (iSUB w) (i.xr (iXA w)) ((i.xr (iXB w) + iIMM w) % 2 ^ 64))))

/-- The conditions of BR. -/
def brTaken (sub a b : Nat) : Bool :=
  match sub with
  | 0 => true
  | 1 => a = b
  | 2 => a ≠ b
  | 3 => decide (toSigned 64 a < toSigned 64 b)
  | 4 => decide (toSigned 64 b ≤ toSigned 64 a)
  | 5 => decide (a < b)
  | _ => decide (b ≤ a)

/-- BR. -/
def execBr (who : InstRef) (s : State) : Res :=
  .next (s.station who 0x03 fun s i w =>
    if brTaken (iSUB w) (i.xr (iXA w)) (i.xr (iXB w)) then .jump s i (iIMM w % 1024) else .go s i)

/-- XA + IMM, modulo 2^64. -/
def Inst.addr (i : Inst) (w : Nat) : Nat := (i.xr (iXA w) + iIMM w) % 2 ^ 64

/-- LDP: 8-byte aligned. -/
def execLdp (who : InstRef) (s : State) : Res :=
  .next (s.station who 0x04 fun s i w =>
    if i.sramOk (i.addr w) 8 8 then .go s (i.xw (iXD w) (leNat (bytesAt i.sram (i.addr w) 8))) else .bad)

/-- STP: at any offset; Table TIS-5 asks alignment of LDP only. -/
def execStp (who : InstRef) (s : State) : Res :=
  .next (s.station who 0x05 fun s i w =>
    if i.sramOk (i.addr w) 8 1 then .go s { i with sram := bytesSet i.sram (i.addr w) (leBytes 8 (i.xr (iXB w))) } else .bad)

/-- FLG: reads FLAGS and clears the bits of IMM[15:0]. -/
def execFlg (who : InstRef) (s : State) : Res :=
  .next (s.station who 0x07 fun s i w =>
    let j := i.xw (iXD w) i.flags
    .go s { j with flags := i.flags &&& (0xFFFF - iIMM w % 65536) })

/-- RDTIME. -/
def execRdtime (who : InstRef) (s : State) : Res :=
  .next (s.station who 0x08 fun s i w => .go s (i.xw (iXD w) s.now))

/-- WAITT: the instance waits until rack time reaches XA + IMM. -/
def execWaitt (who : InstRef) (s : State) : Res :=
  .next (s.station who 0x09 fun s i w =>
    if i.addr w ≤ s.now then .go s i else .stay s { i with wait := .time (i.addr w) })

/-- WAITT_EXPIRY: rack time has reached the target of a waiting WAITT. -/
def execWaittExpiry (who : InstRef) (s : State) : Res :=
  .next (match s.instGet who with
    | none => s
    | some i =>
      match i.wait with
      | .time t => if t ≤ s.now && s.running who.pid who.flow then (s.countRun i i).commitInst { i with wait := .none } (i.pc + 1) else s
      | .none => s
      | .mem _ => s
      | .paused => s)

/-- The rows of a mask `[a, a + n)`. -/
def rowSpan (a n : Nat) : Nat := ((List.range 256).filter fun r => decide (a ≤ r) && decide (r < a + n)).foldl setBit 0

/-- PMASK. -/
def execPmask (who : InstRef) (s : State) : Res :=
  .next (s.station who 0x0A fun s i w =>
    let k := iHD w % 8
    match iSUB w with
    | 0 => .go s (i.pw k (rowSpan (i.xr (iXA w)) (i.xr (iXB w))))
    | 1 =>
      let h := i.hget (iHA w)
      if !h.usable then .bad
      else
        let rs := s.rowsOf i h
        let m := ((rs.zip (List.range rs.length)).filter fun e => !allZero e.1.1).foldl (fun m e => setBit m e.2) 0
        .go s ((i.pw k m).flag (if h.poison then fPOI else 0))
    | 2 => if i.sramOk (i.xr (iXA w)) 32 1 then .go s (i.pw k (leNat (bytesAt i.sram (i.xr (iXA w)) 32))) else .bad
    | 3 => .go s (i.pw k (i.pr (iHA w % 8) &&& i.pr (iHB w % 8)))
    | _ => .go s (i.pw k (i.pr (iHA w % 8) ||| i.pr (iHB w % 8))))

/-! ### Streams (Table TIS-6, R116, R119, R167) -/

/-- Put END on every output that can take it. -/
def State.endOutputs (s : State) (i : Inst) : State :=
  s.each i.outs fun s sid =>
    match s.strmGet i.who.pid i.who.flow sid with
    | none => s
    | some st =>
      if st.fin || !s.putReady st (Tile.endMark 0) then s else s.stnPut i.who sid (Tile.endMark 0)

/-- Release one tile of an input: the first delivered one. END marks the input ended. -/
def State.drainOne (s : State) (i : Inst) (n : Nat) : State :=
  match s.inputOf i n with
  | none => s
  | some (st, c) =>
    match c.held ++ c.buf with
    | [] => s
    | t :: _ =>
      let s1 := s.setCons st.pid st.flow st.sid c.idx fun c => { c with
        held := c.held.filter fun u => u.tnum ≠ t.tnum, buf := c.buf.filter fun u => u.tnum ≠ t.tnum
        finSeen := c.finSeen || t.fin }
      (s1.creditBack st.pid st.flow st.sid c.idx t.bytes).pumpTransit st.pid st.flow st.sid c.idx 4097

/-- Drain an input; `fuel` bounds the tiles. -/
def State.drainInput (s : State) (i : Inst) (n : Nat) : Nat → State
  | 0 => s
  | k + 1 =>
    match s.inputOf i n with
    | none => s
    | some (_, c) => if (c.held ++ c.buf).isEmpty then s else (s.drainOne i n).drainInput i n k

/-- Every output is ended, every input's END has been released. -/
def State.haltDone (s : State) (i : Inst) : Bool :=
  (i.outs.all fun sid => match s.strmGet i.who.pid i.who.flow sid with
    | some st => st.fin
    | none => true) &&
  (List.range i.ins.length).all fun n => match s.inputOf i n with
    | some (_, c) => c.finSeen && c.held.isEmpty && c.buf.isEmpty
    | none => true

/-- HALT: ends outputs and drains inputs as far as they go; run again until the instance is complete. -/
def execHalt (who : InstRef) (s : State) : Res :=
  .next (s.station who 0x06 fun s i _ =>
    let s1 := s.endOutputs i
    let s2 := s1.each (List.range i.ins.length) fun s n => s.drainInput i n 8192
    let j := { i with halted := true, complete := s2.haltDone i, h := List.replicate 16 Handle.unbound }
    .stay s2 { j with starved := (s2.starvedOn j).map fun n => (n, (i.starved.filter fun e => e.1 = n).elim 0 Prod.snd) })

/-- The tile that GET binds. -/
def Handle.ofInput (n : Nat) (t : Tile) : Handle :=
  ⟨1, false, t.fmt, t.rows, t.rbytes, 0, t.rbytes, 0, expRow t.fmt t.rbytes, t.bytes, t.poison, t.tag, t.fin, n, t.tnum⟩

/-- The END handle of a GET after END has been taken: it holds no tile. -/
def Handle.ended (n : Nat) : Handle := { Handle.unbound with kind := 1, fin := true, input := n, tnum := 2 ^ 32 }

/-- GET: waits while the input is empty; a station of a collective looks at what arrives (R184, R185, R197). -/
def execGet (who : InstRef) (s : State) : Res :=
  .next (s.station who 0x10 fun s i w =>
    let n := iIMM w % 64
    match s.inputOf i n with
    | none => .bad
    | some (st, c) =>
      match c.buf with
      | [] =>
        if c.finSeen then .go s ((i.hset (iHD w) (Handle.ended n)).xw (iXD w) 1)
        else .stay s { i with starved := i.starved.or (some (n, 0)) }
      | t :: r =>
        let s1 := s.setCons st.pid st.flow st.sid c.idx fun c => { c with buf := r, held := c.held ++ [t], finSeen := c.finSeen || t.fin }
        match s1.colGet i n (Handle.ofInput n t) t with
        | none => .bad
        | some j => .go s1 ((j.hset (iHD w) (Handle.ofInput n t)).xw (iXD w) (b2n t.fin)))

/-- A put part of a sequence-mode GATHER's span: the head of its list, by TAG (R136). The span ends with its last part. -/
def Inst.spanPut (i : Inst) (now : Nat) (t : Tile) : Inst :=
  match i.span with
  | some r =>
    match r.parts with
    | p :: ps =>
      if !t.fin && t.tag = (p.1 <<< 40 ||| r.layer <<< 32 ||| p.2 <<< 31) then
        if ps.isEmpty then { i with span := none, spanEnd := now } else { i with span := some { r with parts := ps } }
      else i
    | [] => i
  | none => i

/-- Put a tile on output `n`, or wait for credit and space. -/
def putOn (s : State) (i : Inst) (n : Nat) (t : Tile) (j : Inst) : StnEnd :=
  match s.outputOf i n with
  | none => .bad
  | some st =>
    if st.fin then .bad
    else if s.putReady st t then
      match j.colPut t with
      | none => .bad
      | some (k, u) => .go (s.stnPut i.who st.sid u) (k.spanPut s.now u)
    else .stay s i

/-- PUT. -/
def execPut (who : InstRef) (s : State) : Res :=
  .next (s.station who 0x11 fun s i w =>
    let h := i.hget (iHA w)
    if !h.usable then .bad else putOn s i (iIMM w % 64) (s.tileOf i h) (i.flag (if h.poison then fPOI else 0)))

/-- PEND. -/
def execPend (who : InstRef) (s : State) : Res :=
  .next (s.station who 0x12 fun s i w => putOn s i (iIMM w % 64) (Tile.endMark 0) i)

/-- REL: the tile is released, its credit returns, the handle and its views become unbound. -/
def execRel (who : InstRef) (s : State) : Res :=
  .next (s.station who 0x13 fun s i w =>
    let h := i.hget (iHA w)
    if h.kind ≠ 1 || h.view then .bad
    else
      let j := { i with h := i.h.map fun x => if x.kind = 1 && x.input = h.input && x.tnum = h.tnum then Handle.unbound else x }
      match s.inputOf i h.input with
      | none => .bad
      | some (st, c) =>
        if c.held.any fun t => t.tnum = h.tnum then .go (s.releaseTile st.pid st.flow st.sid c.idx h.tnum) j else .go s j)

/-! ### Handles (Table TIS-6) -/

/-- TNEW. -/
def execTnew (who : InstRef) (s : State) : Res :=
  .next (s.station who 0x14 fun s i w =>
    let off := i.xr (iXA w)
    let cap := bits (iIMM w) 31 0
    let fmt := bits (iIMM w) 35 32
    let rows := bits (iIMM w) 43 36 + 1
    let rb := (bits (iIMM w) 49 44 + 1) * 64
    if !i.sramOk off cap 64 || cap % 64 ≠ 0 || decide (278592 < cap) || decide (6 < fmt) || decide (cap < packedSize fmt rows rb) then .bad
    else
      .go s (i.hset (iHD w) ⟨2, false, fmt, rows, rb, off, rb, if expRow fmt rb = 0 then 0 else up64 (off + rows * rb), expRow fmt rb,
        cap, false, 0, false, 0, 0⟩))

/-- TVIEW. -/
def execTview (who : InstRef) (s : State) : Res :=
  .next (s.station who 0x15 fun s i w =>
    let h := i.hget (iHA w)
    let r0 := bits (iIMM w) 7 0
    let n := bits (iIMM w) 15 8 + 1
    let c0 := bits (iIMM w) 21 16
    let rb := (bits (iIMM w) 27 22 + 1) * 64
    if !h.usable || decide (h.rows < r0 + n) || decide (h.rbytes < 64 * c0 + rb) then .bad
    else
      let off := r0 * h.pitch + 64 * c0
      .go s (i.hset (iHD w) { h with
        view := true, rows := n, rbytes := rb, base := h.base + off, xbase := h.xbase + r0 * h.xpitch + expRow h.fmt (64 * c0)
        cap := h.cap - off }))

/-- The handle with a new shape; a whole local tile stays packed. -/
def Handle.reshape (h : Handle) (rows rb : Nat) : Handle :=
  if h.view then { h with rows := rows, rbytes := rb }
  else { h with
    rows := rows, rbytes := rb, pitch := rb, xpitch := expRow h.fmt rb
    xbase := if expRow h.fmt rb = 0 then 0 else up64 (h.base + rows * rb) }

/-- TSET: local handles only; the shape must fit the capacity. Log entry 32 (DEDUCED). -/
def execTset (who : InstRef) (s : State) : Res :=
  .next (s.station who 0x16 fun s i w =>
    let h := i.hget (iHD w)
    let v := i.xr (iXB w)
    if h.kind ≠ 2 then .bad
    else
      match iSUB w with
      | 0 => .go s (i.hset (iHD w) { h with tag := v })
      | 1 => .go s (i.hset (iHD w) { h with poison := v.testBit 0 })
      | 2 =>
        let g := h.reshape (v % 256 + 1) h.rbytes
        if h.cap < packedSize g.fmt g.rows g.rbytes then .bad else .go s (i.hset (iHD w) g)
      | _ =>
        let g := h.reshape h.rows ((v % 64 + 1) * 64)
        if h.cap < packedSize g.fmt g.rows g.rbytes then .bad else .go s (i.hset (iHD w) g))

/-- TINFO. END may be read of an END handle. -/
def execTinfo (who : InstRef) (s : State) : Res :=
  .next (s.station who 0x17 fun s i w =>
    let h := i.hget (iHA w)
    if h.kind = 0 || (h.fin && iSUB w ≠ 5) then .bad
    else
      .go s (i.xw (iXD w) (match iSUB w with
        | 0 => h.rows
        | 1 => h.rbytes
        | 2 => h.fmt
        | 3 => h.tag
        | 4 => b2n h.poison
        | 5 => b2n h.fin
        | 6 => h.tnum
        | _ => h.cap)))

/-- TFILL: the handle keeps its shape and takes format FD. -/
def execTfill (who : InstRef) (s : State) : Res :=
  .next (s.station who 0x18 fun s i w =>
    let h := i.hget (iHD w)
    let fd := iFD w
    let v := fit (i.xs (iXB w)) (fmtBits fd) true
    let n := h.rbytes * 8 / fmtBits fd
    let row : Row × Nat := ((intsRow fd (List.replicate n v.1), List.replicate (expRow fd h.rbytes) (BitVec.ofNat 8 (i.xr (iXA w)))), v.2)
    if h.kind ≠ 2 then .bad else finishTile s i w fd h.rbytes (List.replicate h.rows row) false h.tag)

/-- TCOPY: rows, format, POISON and TAG of HA. -/
def execTcopy (who : InstRef) (s : State) : Res :=
  .next (s.station who 0x19 fun s i w =>
    let a := i.hget (iHA w)
    if !a.usable then .bad
    else finishTile s i w a.fmt a.rbytes ((s.rowsOf i a).map fun r => (r, 0)) a.poison a.tag)

end Sys2Proof.Machine
end

