-- ==== Sys2Proof/Machine/StnMem.lean ====
section
/-! DEFINITION. The memory instructions of a station (R140, R168, R169, Table TIS-7) and SEQRD (R106 to R110). Each opens a
transaction and the instance waits on it; MEMORY_INSTRUCTION_COMPLETE writes the result. -/

namespace Sys2Proof.Machine

open Sys2Proof

/-! ### Opening -/

/-- A transaction of the instruction `w` of an instance: the core is the agent, writes carry the instance's OWNER. -/
def stnTx (i : Inst) (w : Nat) : Tx :=
  { Tx.blank with
    agent := .core i.sd i.cluster i.core, pid := i.who.pid, owner := i.owner, dest := .stn i.who
    scope := if iOP w = 0x28 then 0 else iSCOPE w
    ord := if iOP w = 0x28 then 0 else iORD w }

/-- Open an access and wait for it. -/
def memOpen (s : State) (i : Inst) (t : Tx) : StnEnd :=
  let r := s.openTx t
  .stay (r.1.translate r.2 none) { i with wait := .mem r.2 }

/-- An outcome that NOFAIL decides (R169): the station fails with `first`, or goes on with `st` in LAST.
Log entry 32 (DEDUCED). -/
def memStop (s : State) (i : Inst) (w st first : Nat) : StnEnd :=
  if iNOFAIL w then .go s { i with flags := withLast i.flags st } else .fail first

/-- The tile descriptor at instance SRAM offset XA. -/
def descAt (i : Inst) (w : Nat) : Option TDesc :=
  let a := i.xr (iXA w)
  if i.sramOk a 32 1 then
    let d := bytesAt i.sram a 32
    some (tdescOf (word64 d 0) (word64 d 1) (word64 d 2) (word64 d 3))
  else none

/-- The result handle can take a tile of this shape. -/
def Inst.roomFor (i : Inst) (hd fmt rbytes rows : Nat) : Bool := (i.writeTile hd fmt rbytes (List.replicate rows none) false 0).isSome

/-- The spans that a result of this shape takes in handle `hd`. -/
def Inst.resultSpans (i : Inst) (hd fmt rbytes rows : Nat) : List (Nat × Nat) :=
  ({ i.hget hd with fmt := fmt, rows := rows, rbytes := rbytes }).packedSpans

/-- A tile read into HD: refused before issue where HD cannot take it (R160, R169); it waits while the hash unit absorbs HD's
storage (R178). -/
def readTile (s : State) (i : Inst) (w : Nat) (d : TDesc) (idx : List Nat) : StnEnd :=
  let n := if idx.isEmpty then d.rows else idx.length
  if !i.roomFor (iHD w) d.fmt d.rbytes n then memStop s i w Status.refused Status.refused
  else if s.absorbing i (i.resultSpans (iHD w) d.fmt d.rbytes n) then .stay s i
  else memOpen s i { stnTx i w with acc := .tileRead, tile := some d, idx := idx, len := tileBytes n d.rbytes d.fmt, addr := d.base }

/-- TLD. -/
def execTld (who : InstRef) (s : State) : Res :=
  .next (s.station who 0x20 fun s i w =>
    match descAt i w with
    | none => memStop s i w Status.refused Status.refused
    | some d => if d.bad false then memStop s i w Status.refused Status.refused else readTile s i w d [])

/-- TGATH: row r of HD is the row of the described tile that element r of vector HB names. A GATHERSUM's table has TABLE_ROWS
rows (R187). -/
def execTgath (who : InstRef) (s : State) : Res :=
  .next (s.station who 0x22 fun s i w =>
    let b := i.hget (iHB w)
    let stop := memStop s i w Status.refused Status.refused
    match descAt i w with
    | none => stop
    | some d =>
      if !b.usable || !isI b.fmt then stop
      else
        match indexList (s.vecOf i b) (iIMM w % 512) with
        | none => stop
        | some ix =>
          if d.bad false || ix.any fun k => decide (i.tableRows (i.xr (iXA w)) d.rows ≤ k) then stop
          else readTile s (i.flag (if b.poison then fPOI else 0)) w d ix)

/-- TST: the unmasked rows of HA are written; a poisoned tile is written poisoned (R120). An ALLTOALLV receiver writes nothing
before it has compared the counts (R184). Log entries 32 (DEDUCED), 67 (DEDUCED). -/
def execTst (who : InstRef) (s : State) : Res :=
  .next (s.station who 0x21 fun s i w =>
    let h := i.hget (iHA w)
    match descAt i w with
    | none => .bad
    | some d =>
      if !h.usable || h.fmt ≠ d.fmt || h.rows ≠ d.rows || h.rbytes ≠ d.rbytes then .bad
      else if d.bad true then memStop s i w Status.refused Status.refused
      else if i.receives && !i.countsIn then .stay s i
      else
        let on := (List.range d.rows).filter (i.rowOn w)
        let rs := s.rowsOf i h
        let data := packRows (on.map fun r => rs.getD r ([], []))
        let j := i.flag (if h.poison then fPOI else 0)
        if on.isEmpty then .go s { j with flags := withLast j.flags Status.ok }
        else memOpen s j { stnTx i w with
          acc := .tileWrite, tile := some d, idx := on, len := data.length, data := data, addr := d.base
          covered := allOnes (cdiv data.length 64), poi := h.poison })

/-- An access of `n` bytes at `a` may issue: naturally aligned, inside the FVA space. -/
def memAddr (s : State) (i : Inst) (w a n : Nat) (f : StnEnd) : StnEnd :=
  if 2 ^ 57 ≤ a then memStop s i w Status.refused Status.refused
  else if a % n ≠ 0 then memStop s i w Status.perm Status.perm
  else f

/-- LD: 2^SUB[1:0] bytes at XA + IMM. -/
def stnLd (s : State) (i : Inst) (w : Nat) : StnEnd :=
  let n := 2 ^ (iSUB w % 4)
  memAddr s i w (i.addr w) n (memOpen s i { stnTx i w with acc := .load, len := n, addr := i.addr w })

/-- ST: the low bytes of XB. -/
def stnSt (s : State) (i : Inst) (w : Nat) : StnEnd :=
  let n := 2 ^ (iSUB w % 4)
  memAddr s i w (i.addr w) n
    (memOpen s i { stnTx i w with acc := .store, len := n, addr := i.addr w, data := leBytes n (i.xr (iXB w)) })

/-- ATOM: operation SUB on INT32 or INT64 by FD; CAS compares with XD, and OWN makes it CAS.OWN. -/
def stnAtom (s : State) (i : Inst) (w : Nat) : StnEnd :=
  let wide := iFD w = 6
  let n := if wide then 8 else 4
  memAddr s i w (i.addr w) n
    (memOpen s i { stnTx i w with
      acc := .atomic, sub := iSUB w, wide := wide, len := n, addr := i.addr w, operand := i.xr (iXB w)
      compare := i.xr (iXD w), own := iOWN w && iSUB w = 7 })

/-- FENCE. -/
def stnFence (s : State) (i : Inst) (w : Nat) : StnEnd :=
  let r := s.openFence (stnTx i w)
  .stay r.1 { i with wait := .mem r.2 }

/-- INVAL of base XA for XB bytes. -/
def stnInval (s : State) (i : Inst) (w : Nat) : StnEnd :=
  let a := i.xr (iXA w)
  if 2 ^ 57 ≤ a then memStop s i w Status.refused Status.refused
  else
    let r := s.openInval { stnTx i w with addr := a, len := i.xr (iXB w), scope := 0, ord := 0 }
    .stay r.1 { i with wait := .mem r.2 }

/-! ### SEQRD (R106 to R110) -/

/-- Fields of a SEQRD word: count, layer, plane. -/
def seqCount (w : Nat) : Nat := iIMM w % 2 ^ 24 + 1
def seqLayer (imm : Nat) : Nat := bits imm 31 24
def seqPlane (imm : Nat) : Nat := bits imm 32 32

/-- Rows that the part delivers: to the end of the frame or of the count. -/
def seqRows (t0 n : Nat) : Nat := min n (256 - t0 % 256)

/-- Fields of a sequence descriptor (Table POL-4). -/
def seqFmt (d : List Byte) : Nat := bits (word64 d 0) 62 59
def seqMap (d : List Byte) : Nat := word64 d 1 % 2 ^ 57
def seqEbytes (d : List Byte) : Nat := bits (word64 d 2) 31 16
def seqXbytes (d : List Byte) : Nat := bits (word64 d 2) 15 0

/-- R110 on the descriptor: the status with which the gather ends, if it does. A descriptor whose V is 0 names no positions; the
spec gives no status for it, and the model takes FAULT_UNMAPPED. Log entry 69 (DESIGN CHOICE). -/
def seqCheck (d : List Byte) (t0 n layer : Nat) : Option Nat :=
  if decide (2 ^ 24 < t0 + n) || decide (bits (word64 d 0) 58 51 < layer) || decide (4 < seqFmt d) then some Status.refused
  else if !(word64 d 0).testBit 63 || decide (bits (word64 d 0) 24 0 < t0 + n) then some Status.unmapped
  else none

/-- R110 on the entry of the frame number `f`: every position of the span in the frame is below its FILL. -/
def entryOk (e t0 n f : Nat) : Bool := e.testBit 63 && decide (min (t0 + n) (256 * (f + 1)) - 256 * f ≤ bits e 62 54)

/-- The tile of a part in frame `entry` (R107). -/
def seqTile (d : List Byte) (entry t0 n layer plane : Nat) : TDesc :=
  let e := seqEbytes d
  let x := seqXbytes d
  let b := entry % 2 ^ 45 * 4096 + layer * bits (word64 d 2) 63 32
  let j := t0 % 256
  ⟨seqFmt d, b + plane * (256 * e) + j * e, seqRows t0 n, e, e, b + 512 * e + plane * (256 * x) + j * x, x⟩

/-- The descriptor's shape can be a tile: whole 64-byte steps, exponent rows of the format's width.
Log entry 32 (DEDUCED). -/
def seqShape (d : List Byte) : Bool :=
  let e := seqEbytes d
  decide (64 ≤ e) && decide (e ≤ 4096) && e % 64 = 0 && seqXbytes d = expRow (seqFmt d) e

/-- A load of the module's sequence reading: RACK scope, acquire (R109). Phase 1 reads the descriptor, 2 + k the entry of the
k-th frame of the span; the descriptor's bytes and the first entry travel in `data`. -/
def seqTx (i : Inst) (w a n phase : Nat) (d : List Byte) : Tx :=
  { stnTx i w with acc := .load, len := n, addr := a, scope := 2, ord := 1, operand := phase, data := d }

/-- What follows a read of a sequence: the span fails, another entry is read, or every position has passed R110, with the
descriptor and the first entry. -/
inductive SeqStep where
  | stop (status : Nat)
  | read (addr phase : Nat) (data : List Byte)
  | done (d : List Byte) (entry : Nat)
  deriving DecidableEq, Repr

/-- The next step for the span of `n` positions from `t0` in `layer`, after the read `t`. -/
def seqStep (t : Tx) (t0 n layer : Nat) : SeqStep :=
  if t.operand = 1 then
    match seqCheck t.readData t0 n layer with
    | some st => .stop st
    | none =>
      if !seqShape t.readData then .stop Status.refused
      else .read (seqMap t.readData + 8 * (t0 / 256)) 2 (fitTo 64 t.readData)
  else
    let f := t0 / 256 + (t.operand - 2)
    let d := if t.operand = 2 then t.data ++ fitTo 8 t.readData else t.data
    if !entryOk (word64 t.readData 0) t0 n f then .stop Status.unmapped
    else if 256 * (f + 1) < t0 + n then .read (seqMap (d.take 64) + 8 * (f + 1)) (t.operand + 1) d
    else .done (d.take 64) (word64 d 8)

/-- R110 fails: a span of a sequence-mode GATHER fails the station (R136), elsewhere NOFAIL decides. -/
def seqStop (s : State) (i : Inst) (w st : Nat) : StnEnd := if i.spans.isEmpty then memStop s i w st st else .fail st

/-- SEQRD starts with the descriptor at FVA XA; in sequence mode it waits for its span. -/
def execSeqrd (who : InstRef) (s : State) : Res :=
  .next (s.station who 0x28 fun s i w =>
    let a := i.xr (iXA w)
    if i.seqHeld w then .stay s i else memAddr s i w a 64 (memOpen s i (seqTx i w a 64 1 [])))

/-- The part of SEQRD after one of its reads returned. -/
def seqNext (s : State) (i : Inst) (w : Nat) (t : Tx) : StnEnd :=
  let t0 := i.xr (iXB w)
  let n := seqCount w
  match seqStep t t0 n (seqLayer (iIMM w)) with
  | .stop st => seqStop s i w st
  | .read a ph d => memOpen s i (seqTx i w a 8 ph d)
  | .done d e =>
    let td := seqTile d e t0 n (seqLayer (iIMM w)) (seqPlane (iIMM w))
    if td.bad false then memStop s i w Status.refused Status.refused else readTile s i w td []

/-! ### Spans of a sequence-mode GATHER (R135, R136) -/

/-- The parts of a span: one tile per frame touched and per plane, frames ascending, K before V. PLANES bit 0 is K. -/
def spanParts (t0 n planes : Nat) : List (Nat × Nat) :=
  ((List.range ((t0 + n - 1) / 256 - t0 / 256 + 1)).map fun k =>
    ([0, 1].filter planes.testBit).map fun p => (if k = 0 then t0 else 256 * (t0 / 256 + k), p)).flatten

/-- The span of an entry (Table STN-11). -/
def spanOf (e : Nat) : SpanRun := ⟨bits e 63 40, bits e 39 16 + 1, bits e 15 8, spanParts (bits e 63 40) (bits e 39 16 + 1) (bits e 7 6), none⟩

/-- A read of the span's check starts. -/
def State.spanRead (s : State) (who : InstRef) (t : Tx) : State :=
  let r := s.openTx t
  (r.1.setInst who fun i => { i with span := i.span.map fun x => { x with tx := some r.2 } }).translate r.2 none

/-- SPAN_ISSUE (R136): the next span starts no earlier than T + OFFSET and once the one before has finished; one whose time came
while that was still issuing is late. The descriptor and the entries are read and the span is checked. -/
def execSpanIssue (who : InstRef) (s : State) : Res :=
  .next (match s.instGet who, s.flowGet who.pid who.flow with
    | some i, some f =>
      let at_ := f.t + i.spans.getD (2 * i.spanAt + 1) 0
      if f.fst ≠ .running || i.complete || i.span.isSome || i.spans.length ≤ 2 * i.spanAt || s.now < at_ || !s.coreReady i then s
      else
        let s1 := if 0 < i.spanAt && at_ < i.spanEnd then s.bump (K.lateSpans who.pid) 1 else s
        let s2 := s1.setInst who fun i => { i with spanAt := i.spanAt + 1, span := some (spanOf (i.spans.getD (2 * i.spanAt) 0)) }
        (s2.spanRead who (seqTx i 0 i.seqDesc 64 1 [])).settleAll
    | _, _ => s)

/-- A read of the span's check has returned: the check goes on, fails the station, or is over. A read that failed after issue
leaves the check to the SEQRD of each part. -/
def State.spanNext (s : State) (i : Inst) (r : SpanRun) (t : Tx) (st : Nat) : State :=
  let s1 := s.dropTx t.id
  let ended := s1.setInst i.who fun i => { i with span := i.span.map fun x => { x with tx := none } }
  if st ≠ Status.ok then (if t.parts.isEmpty then s1.failStation i.who st else ended)
  else
    match seqStep t r.t0 r.n r.layer with
    | .stop e => s1.failStation i.who e
    | .read a ph d => s1.spanRead i.who (seqTx i 0 a 8 ph d)
    | .done _ _ => ended

/-! ### Completion (R169) -/

/-- A failed read: it was refused or faulted before issue when no part of it came to be. -/
def Tx.early (t : Tx) : Bool := t.parts.isEmpty

/-- The rows of a completed tile read: element rows, then exponent rows. -/
def tileRows (d : List Byte) (n rb xb : Nat) : List Row :=
  (List.range n).map fun r => ((d.drop (r * rb)).take rb, (d.drop (n * rb + r * xb)).take xb)

/-- The end of a tile read: the rows of HD, poisoned when a part failed after issue, or when TGATH's index tile is (R164). -/
def tileReadEnd (s : State) (i : Inst) (w : Nat) (t : Tx) (d : TDesc) (st : Nat) : StnEnd :=
  let n := if t.idx.isEmpty then d.rows else t.idx.length
  let poi := st ≠ Status.ok
  let mark := poi || (iOP w = 0x22 && (i.hget (iHB w)).poison)
  let seq := iOP w = 0x28
  let tag := if seq then i.xr (iXB w) <<< 40 ||| seqLayer (iIMM w) <<< 32 ||| seqPlane (iIMM w) <<< 31
    else (i.hget (iHD w)).tag
  match i.writeTile (iHD w) d.fmt d.rbytes (i.maskRows w (tileRows t.readData n d.rbytes (expRow d.fmt d.rbytes))) mark tag with
  | none => .bad
  | some j =>
    let k := if seq then j.xw (iXD w) n else j
    .go s { k with flags := withLast k.flags st ||| if poi then fPOI else 0 }

/-- A SEQRD whose descriptor or entry did not arrive delivers no rows and poisons HD, which must be one it may write (R160). -/
def seqFailed (s : State) (i : Inst) (w st : Nat) : StnEnd :=
  let h := i.hget (iHD w)
  if h.kind ≠ 2 || h.fin then .bad
  else
  let j := (i.hset (iHD w) { h with poison := true }).xw (iXD w) 0
  .go s { j with flags := withLast j.flags st ||| fPOI }

/-- The value of an LD. -/
def loadValue (w : Nat) (d : List Byte) : Nat :=
  let n := 2 ^ (iSUB w % 4)
  let v := leNat (d.take n)
  if (iSUB w).testBit 2 then ofSigned 64 (toSigned (8 * n) v) else v

/-- The end of the memory instruction `w`, whose transaction `t` has ended with `st`. -/
def memEnd (s : State) (i : Inst) (w : Nat) (t : Tx) (st : Nat) : StnEnd :=
  let parked := match t.xst with
    | .parked _ => true
    | _ => false
  let first := if st = Status.partialSt then t.firstFail else st
  let op := iOP w
  if parked && t.early then .fail st
  else if st ≠ Status.ok && (t.early || !(t.acc = .load || t.acc = .tileRead)) then memStop s i w st first
  else if op = 0x28 && t.acc = .load then
    if st = Status.ok then seqNext s i w t else seqFailed s i w st
  else
    match t.acc, t.tile with
    | .tileRead, some d => tileReadEnd s i w t d st
    | .load, _ =>
      let j := i.xw (iXD w) (if st = Status.ok then loadValue w t.readData else 0)
      .go s { j with flags := withLast j.flags st ||| if st = Status.ok then 0 else fPOI }
    | .atomic, _ => .go s { i.xw (iXD w) (leNat t.readData) with flags := withLast i.flags st }
    | _, _ => .go s { i with flags := withLast i.flags st }

/-- The transaction `id`, if it has ended. -/
def State.ended (s : State) (id : Nat) : Option Tx := (s.txOf id).filter Tx.closed

/-- MEMORY_INSTRUCTION_COMPLETE (R169): the transaction that the instance waits on has ended, or one of its span's check. -/
def execMemoryInstructionComplete (who : InstRef) (s : State) : Res :=
  .next (match s.instGet who with
    | none => s
    | some i =>
      if !s.running who.pid who.flow || !s.coreReady i then s
      else
        let own := match i.wait with
          | .mem id => s.ended id
          | .none => none
          | .time _ => none
          | .paused => none
        match own with
        | some t =>
          let s0 := (s.dropTx t.id).setInst who fun i => { i with wait := .none }
          let j := { i with wait := .none }
          s0.endStn j (memEnd s0 j i.word t (t.stop.getD Status.ok))
        | none =>
          match i.span with
          | none => s
          | some r =>
            match r.tx.bind s.ended with
            | none => s
            | some t => (s.spanNext i r t (t.stop.getD Status.ok)).settleAll)

end Sys2Proof.Machine
end

