-- ==== Sys2Proof/Machine/Access.lean ====
section
/-! DEFINITION. The memory commands that come from CAP, from a station, or, for atomics, from the home's input queue
(R58 to R84, R168). -/

namespace Sys2Proof.Machine

open Sys2Proof

/-- A memory command: a CAP message of type `mt`, or the station instruction `op` with meaning `f`. -/
def State.access (s : State) (src : Src) (mt op : Nat) (f : State → Inst → Nat → StnEnd) (fix : CapMsg → CapMsg) : State :=
  match src with
  | .cap m => (s.capRequest mt (fix m)).settleAll
  | .stn who => s.station who op f

/-- LD (R58, R60, R168). -/
def execLd (src : Src) (s : State) : Res := .next (s.access src mtLD 0x23 stnLd id)

/-- ST (R58, R60, R168). -/
def execSt (src : Src) (s : State) : Res := .next (s.access src mtST 0x24 stnSt id)

/-- A fence of one ORD: the station's word must carry it. -/
def State.fence (s : State) (src : Src) (ord : Nat) : State :=
  match src with
  | .cap m => (s.capRequest mtFENCE { m with ord := ord }).settleAll
  | .stn who =>
    match s.instGet who with
    | none => s
    | some i => if iORD i.word = ord then s.station who 0x26 stnFence else s

/-- FENCE with ORD ACQ (R71). -/
def execFenceAcquire (src : Src) (s : State) : Res := .next (s.fence src 1)

/-- FENCE with ORD REL (R72). -/
def execFenceRelease (src : Src) (s : State) : Res := .next (s.fence src 2)

/-- FENCE with ORD AR (R71, R72). -/
def execFenceAcqRel (src : Src) (s : State) : Res := .next (s.fence src 3)

/-- INVAL (R68). -/
def execInval (src : Src) (s : State) : Res := .next (s.access src mtINVAL 0x27 stnInval id)

/-- An atomic of operation `sub` (R75, R83): a CAP message of its width, a station's ATOM with that SUB and OWN, or the
request at place `pos` of the home's input queue. -/
def State.atomic (s : State) (src : ASrc) (sub : Nat) (own : Bool) : State :=
  match src with
  | .cap m => (s.capRequest (if m.wide then mtAT64 else mtAT32) { m with sub := sub, own := own }).settleAll
  | .stn who =>
    match s.instGet who with
    | none => s
    | some i =>
      if iSUB i.word = sub && (iOWN i.word && iSUB i.word = 7) = own then s.station who 0x25 stnAtom else s
  | .home pos => (s.homeAtomic pos sub own).settleAll

/-- ADD. -/
def execAtomicAdd (src : ASrc) (s : State) : Res := .next (s.atomic src 0 false)

/-- MIN. -/
def execAtomicMin (src : ASrc) (s : State) : Res := .next (s.atomic src 1 false)

/-- MAX. -/
def execAtomicMax (src : ASrc) (s : State) : Res := .next (s.atomic src 2 false)

/-- AND. -/
def execAtomicAnd (src : ASrc) (s : State) : Res := .next (s.atomic src 3 false)

/-- OR. -/
def execAtomicOr (src : ASrc) (s : State) : Res := .next (s.atomic src 4 false)

/-- XOR. -/
def execAtomicXor (src : ASrc) (s : State) : Res := .next (s.atomic src 5 false)

/-- SWAP. -/
def execAtomicSwap (src : ASrc) (s : State) : Res := .next (s.atomic src 6 false)

/-- CAS. -/
def execAtomicCas (src : ASrc) (s : State) : Res := .next (s.atomic src 7 false)

/-- CAS.OWN (R83). -/
def execCasOwn (src : ASrc) (s : State) : Res := .next (s.atomic src 7 true)

end Sys2Proof.Machine
end

