-- ==== Sys2Proof/Machine/Counters.lean ====
section
/-! DEFINITION. Performance counters (R365 to R377): control words, values, overflow, samples, snapshots. -/

namespace Sys2Proof.Machine

open Sys2Proof

/-- R368: the events listed for a bank's kind (Tables CNT-2 to CNT-4). -/
def eventListed (bank ev : Nat) : Bool :=
  ev = 0 ||
    (if bank < 16 then
      (decide (1 ≤ ev) && decide (ev ≤ 4)) || (decide (0x10 ≤ ev) && decide (ev ≤ 0x14)) || ev = 0x18 || ev = 0x19 ||
        (decide (0x20 ≤ ev) && decide (ev ≤ 0x26)) || (decide (0x30 ≤ ev) && decide (ev ≤ 0x38))
    else if bank < 20 then
      (decide (0x101 ≤ ev) && decide (ev ≤ 0x10D)) || (decide (0x110 ≤ ev) && decide (ev ≤ 0x119))
    else decide (0x201 ≤ ev) && decide (ev ≤ 0x212))

/-- COUNTER_CONTROL_WRITE (R367, R368): the counter keeps its value. -/
def execCounterControlWrite (o : Origin) (bank n v : Nat) (s : State) : Res :=
  .next (s.commandIf (decide (bank < 24) && decide (n < 8)) o (K.ctl bank n) 0 fun s p =>
    match s.settle o p (K.ctl bank n) 0 v with
    | (s1, v1, c) =>
      if eventListed bank (bits v1 11 0) then (s1.wr (K.ctl bank n) v1, .now Status.ok c [])
      else
        let v2 := v1 - bits v1 11 0
        ((s1.clampRec (K.ctl bank n) (originSource o) rsnEnum p v1 v2).wr (K.ctl bank n) v2, .now Status.ok true []))

/-- COUNTER_WRITE (R373): the value, which is the reload value too. -/
def execCounterWrite (o : Origin) (bank n v : Nat) (s : State) : Res :=
  .next (s.commandIf (decide (bank < 24) && decide (n < 8)) o (K.ctr bank n) 0 fun s p =>
    match s.settle o p (K.ctr bank n) 0 v with
    | (s1, v1, c) =>
      ((s1.wr (K.ctr bank n) v1).mapMgt fun m => { m with reload := mput m.reload (8 * bank + n) v1 }, .now Status.ok c []))

/-- OVF (R372): writing 1 to a bit clears it. -/
def execOvf (o : Origin) (bank v : Nat) (s : State) : Res :=
  .next (s.commandIf (decide (bank < 24)) o (K.ovf bank) 0 fun s _ =>
    (s.wr (K.ovf bank) (s.rd (K.ovf bank) - (s.rd (K.ovf bank) &&& v)), Done.ok))

/-- OVF_LAST: bank, counter mask, rack time (10 bytes). -/
def ovfBytes (bank mask time : Nat) : List Byte := leBytes 1 bank ++ leBytes 1 mask ++ leBytes 8 time

/-- R372: an overflow report; overflows of one bank within 1 ms share one. -/
def State.ovfReport (s : State) (bank n : Nat) : State :=
  let at_ := nmGet s.mgt.ovfAt bank 0
  let last := leBytes 10 (s.rd K.ovfLast)
  if (mfind s.mgt.ovfAt bank).isSome && decide (s.now < at_ + 1250000) then
    let mask := if (last.getD 0 0).toNat = bank then setBit (last.getD 1 0).toNat n else setBit 0 n
    (s.wr K.ovfLast (leNat (ovfBytes bank mask at_))).event K.ovfLast
  else
    (((s.wr K.ovfLast (leNat (ovfBytes bank (setBit 0 n) s.now))).mapMgt fun m => { m with ovfAt := mput m.ovfAt bank s.now }).report
      K.ovfReports).event K.ovfLast

/-- A sample record (Table CNT-5). -/
def sampleWords (phase : Bool) (bank n ev time : Nat) (c : Occurrence) : List Nat :=
  let w0 := b2n phase <<< 63 ||| (bank % 32) <<< 58 ||| (n % 8) <<< 55 ||| (c.pid % 64) <<< 49
  let w3 := (ev % 4096) <<< 52
  if bank < 16 then
    [w0 ||| (c.index % 4096) <<< 37 ||| (c.flow % 65536) <<< 21 ||| (c.pc % 1024) <<< 11 ||| (c.core % 8) <<< 8, time, 0, w3]
  else if bank < 20 then
    [w0, time, 0, w3 ||| (c.src % 32) <<< 47 ||| (c.dst % 32) <<< 42 ||| (c.tc % 8) <<< 39]
  else [w0, time, c.fva % 2 ^ 57, w3 ||| (c.context % 1024) <<< 29]

/-- Clocks that 64 clocks of a bank's domain take, in ticks. -/
def State.sampleGap (s : State) (bank : Nat) : Nat :=
  cdiv 6400 (if bank < 20 then 128 - 16 * min 4 (s.rd K.operatingPoint) else 128)

/-- The granule of an address belongs to PID 0. -/
def State.ownedByZero (s : State) (a : Nat) : Bool := s.ownerAt a = some 0

/-- R373, R374: one sample record, unless the bank wrote one less than 64 clocks ago, or the ring has no room.
Log entry 54 (DEDUCED). -/
def State.sample (s : State) (bank n ev : Nat) (c : Occurrence) : State :=
  let size := s.rd K.sampleRingEntries
  let head := s.rd K.sampleRingHead
  let a := s.rd K.sampleRingBase + 32 * head
  let soon := match mfind s.mgt.lastSample bank with
    | some t => decide (s.now < t + s.sampleGap bank)
    | none => false
  if soon || size = 0 || decide (size ≤ head) || (head + 1) % size = s.rd K.sampleRingTail || !s.ownedByZero a then s.bump K.samplesLost 1
  else
    let s1 := s.store a (wordBytes (sampleWords s.mgt.samplePhase bank n ev s.now c))
    let h := (head + 1) % size
    (s1.wr K.sampleRingHead h).mapMgt fun m => { m with
      samplePhase := if h = 0 then !m.samplePhase else m.samplePhase, lastSample := mput m.lastSample bank s.now }

/-- COUNTER_OVERFLOW (R372, R373): the report and the sample record of a counter that has carried.
Log entry 54 (DEDUCED). -/
def execCounterOverflow (bank n : Nat) (occ : Occurrence) (s : State) : Res :=
  .next (if s.mgt.ovfPend.contains (8 * bank + n) && decide (n < 8) then
      let c := s.rd (K.ctl bank n)
      let s1 := s.mapMgt fun m => { m with ovfPend := removeAll m.ovfPend [8 * bank + n] }
      let s2 := if c.testBit 30 then s1.ovfReport bank n else s1
      if c.testBit 29 then s2.sample bank n (bits c 11 0) occ else s2
    else s)

/-! ### Snapshots (R376) -/

/-- SNAP_AT (R376): Ts lies 20 µs to 10 s ahead, in LOCKED, with no snapshot pending. -/
def execSnapAt (o : Origin) (ts : Nat) (s : State) : Res :=
  .next (s.command o K.snapAt 0 fun s _ =>
    if !s.locked || decide (ts < s.now + 25000) || decide (s.now + 12500000000 < ts) || s.mgt.snapTs.isSome then (s, Done.refused)
    else ((s.mapMgt fun m => { m with snapTs := some ts }).wr K.snapState 1, Done.ok))

/-- One bank's copies. -/
def State.snapBank (s : State) (b : Nat) : State :=
  (s.wr (K.snapCycles b) (s.rd (K.cycles b))).each (List.range 8) fun s i => s.wr (K.snapCtr b i) (s.rd (K.ctr b i))

/-- SNAPSHOT_TAKEN (R376): the counter has reached Ts; SNAP_STATE tells whether the module is LOCKED. -/
def execSnapshotTaken (s : State) : Res :=
  .next (match s.mgt.snapTs with
    | none => s
    | some ts =>
      if ts ≤ s.now then
        (((s.each (List.range 24) State.snapBank).mapMgt fun m => { m with snapTs := none }).wr K.snapTime ts).wr
          K.snapState (if s.locked then 2 else 3)
      else s)

/-- SAMPLE_RING_BASE (R374): refused outside granules of PID 0. -/
def execSampleRingBase (o : Origin) (v : Nat) (s : State) : Res :=
  .next (s.command o K.sampleRingBase 0 fun s p =>
    let n := max 1 (cdiv (v % 65536 + 32 * s.rd K.sampleRingEntries) 65536)
    if (List.range n).all fun g => s.ownedByZero ((v / 65536 + g) * 65536) then s.writePlain o p K.sampleRingBase 0 v
    else (s, Done.refused))

end Sys2Proof.Machine
end

