-- ==== Sys2Proof/Machine/Timing.lean ====
section
/-! DEFINITION. The commands of rack time (chapter 8): references, timestamp exchanges, the root, gates. -/

namespace Sys2Proof.Machine

open Sys2Proof

/-! ### References (R204, R205) -/

def refKey (refB : Bool) : Nat := if refB then K.refbStatus else K.refaStatus

/-- REF_SELECT changes and is counted. -/
def State.selectRef (s : State) (v : Nat) : State :=
  if s.rd K.refSelect = v then s else (s.wr K.refSelect v).bump K.refSwitches 1

/-- 100 ms in ticks. -/
def refQuiet : Nat := 125000000

/-- When the last fault of a reference was, or since when it has been usable. -/
def State.refAt (s : State) (refB : Bool) : Nat := if refB then s.tim.refBAt else s.tim.refAAt

def State.setRefAt (s : State) (refB : Bool) : State :=
  s.mapTim fun t => if refB then { t with refBAt := s.now } else { t with refAAt := s.now }

/-- REFERENCE_LOST (R205): the other reference if it is usable, else the own oscillator. -/
def execReferenceLost (refB : Bool) (s : State) : Res :=
  .next (let s1 := (s.wr (refKey refB) 1).logFault 0x12 (b2n refB) 0 0 0 0 0
    let s2 := s1.setRefAt refB
    if s.rd K.refSelect = b2n refB then
      s2.selectRef (if s2.rd (refKey (!refB)) = 0 then b2n (!refB) else 2)
    else s2)

/-- REFERENCE_QUALIFIED (R204): the reference is OK. Before 100 ms without a fault have passed it is QUALIFYING; then it is usable,
and a module without a reference takes it. -/
def execReferenceQualified (refB : Bool) (s : State) : Res :=
  .next (if s.rd (refKey refB) = 0 then s
    else if s.now < s.refAt refB + refQuiet then s.wr (refKey refB) 2
    else
      let s1 := (s.wr (refKey refB) 0).setRefAt refB
      if s1.rd K.refSelect = 2 then s1.selectRef (b2n refB) else s1)

/-- REFERENCE_REVERT (R205): with REF_MODE 1 the module returns to REFA once REFA has been usable for 100 ms. -/
def execReferenceRevert (s : State) : Res :=
  .next (if s.rd K.refMode = 1 && s.rd K.refaStatus = 0 && decide (s.refAt false + refQuiet ≤ s.now) then s.selectRef 0 else s)

/-! ### Exchanges (R208, R210 to R212) -/

/-- The offset estimate of R208, or of R210 through a peer, in 1/16 tick. -/
def stampOffset (x : StampOp) : Int :=
  ((x.t2 - x.t1) - (x.t4 - x.t3)) / 2 + if x.direct then 0 else x.peerOff

/-- The exchange is one that this module can make: with the root over the direct link, or through the lowest peer of
R210 while the link to the root is masked. -/
def State.exchangeOk (s : State) (x : StampOp) : Bool :=
  let r := s.rd K.rootMid
  r ≠ 31 && r ≠ s.mid &&
    (if x.direct then s.linkUp r else !s.linkUp r && s.timePeers.head? = some x.peer)

/-- Two estimates in sixteenths of a tick: 1.5 ns and 2 ns (R211). -/
def goodOffset : Int := 30
def badOffset : Int := 40

def absInt (v : Int) : Int := if v < 0 then -v else v

/-- The link delay of R208, in 1/16 tick. -/
def stampDelay (x : StampOp) : Int := ((x.t2 - x.t1) + (x.t4 - x.t3)) / 2

/-- What an exchange leaves besides the lock state: the offset, the link delay, and the counters `good` and `bad` of R211. -/
def State.noteStamp (s : State) (x : StampOp) (good bad : Nat) : State :=
  (s.wr K.rootOffset (ofSigned 32 (stampOffset x))).mapTim fun t => { t with
    offset := stampOffset x, linkDelay := stampDelay x, goodRun := good, badRun := bad }

/-- TIMESTAMP_EXCHANGE (R208, R211): the estimate, the lock state, and the correction to slew. The first exchange after RESTORE loads
the counter. Log entry 43 (DESIGN CHOICE). -/
def execTimestampExchange (x : StampOp) (s : State) : Res :=
  .next (let s0 := (s.mapTim fun t => { t with lockedPeers := x.locked }).acquire
    if !s0.exchangeOk x then s0.judgeLock
    else
      let off := stampOffset x
      match s0.rd K.lockState with
      | 2 =>
        let n := if badOffset < absInt off then s0.tim.badRun + 1 else 0
        let s1 := s0.noteStamp x s0.tim.goodRun n
        if 4 ≤ n then s1.loseLock else s1
      | _ =>
        if !s0.tim.everLocked then
          (s0.noteStamp x 0 0).mapTim fun t => { t with now := x.rootTime, everLocked := true, offset := 0 }
        else
          let n := if absInt off ≤ goodOffset then s0.tim.goodRun + 1 else 0
          let s1 := s0.noteStamp x n 0
          if 16 ≤ n then s1.setLock 2 else s1)

/-- No module of the mesh is in MEMBER, in this module's view. -/
def State.noMember (s : State) : Bool :=
  s.life.mstate ≠ .member && s.peerMids.all fun d => (s.peer d).vstate ≠ 3 || s.peerLost d

/-- The present root still serves: after formation it keeps its role (R207). -/
def State.rootServes (s : State) : Bool :=
  let r := s.rd K.rootMid
  if r = 31 then false
  else if r = s.mid then s.life.mstate = .member
  else (s.peer r).vstate = 3 && !s.peerLost r

/-- This module has a usable reference. -/
def State.refUsable (s : State) : Bool := s.rd K.refaStatus = 0 || s.rd K.refbStatus = 0

/-- The module that R207 makes root. During formation: the lowest MID among the trained modules with a usable reference, else the lowest
trained MID. After it: the lowest MID in MEMBER that is LOCKED. `seen` names the other modules that have a usable reference, or that are
LOCKED. Log entry 43 (DESIGN CHOICE). -/
def State.rootChoice (s : State) (seen : List Nat) : Option Nat :=
  let all := List.range s.meshN
  if s.noMember then
    let trained := all.filter fun d => d = s.mid || s.linkUp d
    match trained.find? fun d => if d = s.mid then s.refUsable else seen.contains d with
    | some d => some d
    | none => trained.head?
  else
    all.find? fun d => if d = s.mid then s.life.mstate = .member && s.locked
      else (s.peer d).vstate = 3 && !s.peerLost d && seen.contains d

/-- ROOT_HANDOVER (R207, R214): the role passes to the module that R207 names; a root of formation starts its counter at RT_SET. -/
def execRootHandover (r : RootOp) (s : State) : Res :=
  let mid := r.mid
  .next (if s.rootServes || s.rootChoice r.seen ≠ some mid then s
    else
      let s1 := s.wr K.rootMid mid
      if mid = s.mid then
        let s2 := if s.noMember && !s.tim.everLocked then
            s1.mapTim fun t => { t with now := t.rtSet.getD 0, everLocked := true }
          else s1
        (s2.mapTim fun t => { t with offset := 0 }).setLock 2
      else s1.judgeLock.acquire)

/-- RT_SET (R214): accepted while no module of the mesh is in MEMBER. -/
def execRtSet (o : Origin) (v : Nat) (s : State) : Res :=
  .next (s.command o K.rtSet 0 fun s _ =>
    if s.noMember then (s.mapTim fun t => { t with rtSet := some v }, Done.ok) else (s, Done.refused))

/-! ### Sluice tables (R218 to R220) -/

/-- The gate entries of the check view (R219). -/
def State.checkView (s : State) : List Gate :=
  s.slu.act ++ (s.slu.pend.map fun e => match e.2 with
    | .load _ gs => gs
    | .remove _ => []).flatten

/-- SLUICE_LOAD (R218): the read of the image starts; SLUICE_LOAD_COMPLETE ends the command. -/
def execSluiceLoad (o : Origin) (pid fva len : Nat) (s : State) : Res :=
  .next (s.command o K.sluiceLoad pid fun s _ =>
    if s.pstate pid = 2 || s.pstate pid = 3 then (s, Done.st Status.closed)
    else if s.pstate pid ≠ 1 || fva % 4096 ≠ 0 || decide (2 ^ 57 ≤ fva) || s.lowEp.isNone || decide (len < 64) then
      (s, Done.refused)
    else
      let r := s.moduleRead pid fva len
      (r.1.mapSlu fun u => { u with loads := u.loads ++ [⟨o, pid, fva, len, r.2⟩] }, .later))

/-- A gate entry of an image (Table TIM-4). -/
def gateOf (pid set w0 w1 : Nat) : Gate where
  pid := pid
  set := set
  flow := bits w0 63 48
  sid := bits w0 47 32
  port := bits w0 31 26
  rep := bits w0 25 22
  phase := bits w0 21 14
  opn := bits w1 63 44
  lenm1 := bits w1 43 28
  tiles := bits w1 27 16
  strict := w1.testBit 15
  awake := false
  isOpen := false
  crossed := 0
  begun := false
  finished := []
  closeAt := 0

/-- R219: a PORT that an entry may name. -/
def State.gatePortOk (s : State) (p : Nat) : Bool :=
  if p < 16 then decide (p + 1 < s.meshN)
  else if p < 32 then s.bondOf (p - 16) = p - 16
  else if p < 36 then s.stn.clusters.any fun c => c.1 = p - 32
  else false

/-- Two entries of one PORT have overlapping windows and a frame in common. -/
def Gate.clash (a b : Gate) : Bool :=
  let m := 2 ^ min a.rep b.rep
  a.port = b.port && a.phase % m = b.phase % m &&
    decide (a.opn < b.opn + b.lenm1 + 1) && decide (b.opn < a.opn + a.lenm1 + 1)

/-- No two entries of a list clash. -/
def noClash : List Gate → Bool
  | [] => true
  | g :: r => (r.all fun h => !g.clash h) && noClash r

/-- The open time of a PORT, in 1/256 tick per frame: Σ (LENM1 + 1) / 2^REP. -/
def openTime (gs : List Gate) (p : Nat) : Nat :=
  (gs.filter fun g => g.port = p).foldl (fun n g => n + (g.lenm1 + 1) * 2 ^ (8 - g.rep)) 0

/-- R219: the checks of a load against the check view. -/
def State.sluiceOk (s : State) (gs : List Gate) : Bool :=
  let ft := s.frameTicks
  let view := s.checkView ++ gs
  (gs.all fun g => decide (g.lenm1 ≤ 32767) && decide (g.rep ≤ 8) && decide (g.phase < 2 ^ g.rep) && decide (g.opn + g.lenm1 + 1 ≤ ft) &&
    s.gatePortOk g.port && !(g.strict && g.tiles = 0)) &&
  noClash gs && (gs.all fun g => s.checkView.all fun h => !g.clash h) &&
  ((gs.map Gate.port).eraseDups.all fun p => decide (8 * openTime view p ≤ 7 * 256 * ft)) &&
  decide (view.length ≤ 65536)

/-- A measurement log entry of an accepted image (R128, R335): kind 0 flow image, 1 sluice image, 2 region. -/
def State.measure (s : State) (pid kind ident fva len : Nat) (digest : List Byte) : State :=
  let e : MeasEntry := ⟨kind, ident, fva, len, digest, s.now⟩
  let body := leBytes 4 kind ++ leBytes 4 ident ++ leBytes 8 fva ++ leBytes 8 len ++ fitTo 48 digest ++ leBytes 8 s.now
  s.mapSec fun x => { x with
    logs := if x.logs.any fun l => l.pid = pid then
        mapIf (fun l => l.pid = pid) (fun l => { l with
          digest := sha384 (l.digest ++ body), count := l.count + 1, entries := (e :: l.entries).take 64 }) x.logs
      else x.logs ++ [⟨pid, sha384 (zeros 48 ++ body), 1, [e]⟩] }

/-- The set of an image, when its header and entries pass R218 and R219. -/
def State.sluiceImage (s : State) (pid len : Nat) (d : List Byte) : Option (Nat × List Gate) :=
  let w0 := word64 d 0
  let w1 := word64 d 1
  let n := bits w1 16 0
  let set := bits w0 15 0
  let gs := (List.range n).map fun i => gateOf pid set (word64 d (8 + 2 * i)) (word64 d (9 + 2 * i))
  let known := (s.checkView.any fun g => g.set = set) || s.slu.pend.any fun e => match e.2 with
    | .load k _ => k = set
    | .remove _ => false
  if bits w0 63 32 = 0x4D39534C && bits w0 31 16 = 1 && 0 < set && bits w1 63 58 = pid &&
      bits w1 57 53 = s.rd K.frameLog2 && decide (1 ≤ n) && decide (n ≤ 65536) && decide (64 + 16 * n ≤ min len d.length) &&
      !known && s.sluiceOk gs then some (set, gs)
  else none

/-- SLUICE_LOAD_COMPLETE (R218): checked, measured, added to the pending list; or refused, or the read's status. A read that was
lost with its EP starts again (R126). -/
def execSluiceLoadComplete (pid fva len : Nat) (s : State) : Res :=
  .next (match s.slu.loads.find? fun l => l.pid = pid && l.fva = fva && l.len = len with
    | none => s
    | some l =>
      let s1 := (s.mapSlu fun u => { u with loads := u.loads.erase l }).dropTx l.tx
      match s.readEnd l.tx l.len with
      | .open_ => s
      | .lost =>
        if s.lowEp.isNone then s1.reply l.origin Status.refused false []
        else
          let r := s.moduleRead pid fva l.len
          r.1.mapSlu fun u => { u with loads := mapIf (fun y => y = l) (fun y => { y with tx := r.2 }) u.loads }
      | .failed st => s1.reply l.origin st false []
      | .ok d =>
        if s1.pstate pid ≠ 1 then s1.reply l.origin Status.closed false []
        else
          match s1.sluiceImage pid l.len d with
          | none => s1.reply l.origin Status.refused false []
          | some (set, gs) =>
            ((s1.mapSlu fun u => { u with pend := u.pend ++ [(pid, .load set gs)] }).measure pid 1 set fva l.len
              (sha384 d)).reply l.origin Status.ok false [])

/-- SLUICE_REMOVE (R220). -/
def execSluiceRemove (o : Origin) (pid set : Nat) (s : State) : Res :=
  .next (s.command o K.sluiceRemove pid fun s _ =>
    let isLoad := fun (e : Nat × PendOp) => e.1 = pid && (match e.2 with
      | .load k _ => k = set
      | .remove _ => false)
    if s.stn.flows.any fun f => f.pid = pid && f.set = set then (s, Done.refused)
    else if s.slu.pend.any isLoad then
      (s.mapSlu fun u => { u with pend := u.pend.filter fun e => !isLoad e }, Done.ok)
    else if (s.slu.act.any fun g => g.pid = pid && g.set = set) && !s.slu.pend.contains (pid, .remove set) then
      (s.mapSlu fun u => { u with pend := u.pend ++ [(pid, .remove set)] }, Done.ok)
    else (s, Done.refused))

/-- SLUICE_COMMIT (R220): Ts from 2 frames to 10 s ahead, no commit of the PID pending. -/
def execSluiceCommit (o : Origin) (pid ts : Nat) (s : State) : Res :=
  .next (s.command o K.sluiceCommit pid fun s _ =>
    if s.now + 2 * s.frameTicks ≤ ts && ts ≤ s.now + 12500000000 && !(s.slu.commits.any fun c => c.1 = pid) then
      (s.mapSlu fun u => { u with commits := u.commits ++ [(pid, ts)] }, Done.ok)
    else (s, Done.refused))

/-- SETS_ACTIVE and ENTRIES_ACTIVE. -/
def State.noteSets (s : State) : State :=
  (s.wr K.setsActive ((s.slu.act.map fun g => (g.pid, g.set)).eraseDups.length)).wr K.entriesActive s.slu.act.length

/-- One item of a pending list is applied to the active bank. -/
def applyPend (act : List Gate) (op : PendOp) (pid : Nat) : List Gate :=
  match op with
  | .load _ gs => act ++ gs
  | .remove set => act.filter fun g => !(g.pid = pid && g.set = set)

/-- The first frame boundary at or after `ts`. -/
def State.boundary (s : State) (ts : Nat) : Nat := cdiv ts s.frameTicks * s.frameTicks

/-- SLUICE_BANK_SWITCH (R220): the PID's pending list takes effect at the first frame boundary at or after Ts. -/
def execSluiceBankSwitch (pid : Nat) (s : State) : Res :=
  .next (match s.slu.commits.find? fun c => c.1 = pid with
    | none => s
    | some c =>
      if s.now < s.boundary c.2 then s
      else
        let mine := s.slu.pend.filter fun e => e.1 = pid
        let s1 := s.mapSlu fun u => { u with
          act := mine.foldl (fun a e => applyPend a e.2 pid) u.act
          pend := u.pend.filter fun e => e.1 ≠ pid
          commits := u.commits.filter fun e => e.1 ≠ pid }
        (s1.wr K.sluiceSwitched (s.boundary c.2)).noteSets)

/-! ### Gates at work (R221, R222) -/

/-- Bring the lanes of an egress out of electrical idle, unless the cap withholds them (R224). -/
def State.wakeEgress (s : State) (egr : Nat) : State :=
  if s.power.stage3 then s
  else if egr < 16 then s.setFp egr fun p => { p with idle := false }
  else if egr < 32 then
    s.each ((List.range 16).filter fun a => s.bondOf a = egr - 16) fun s a => s.setAp a fun p => { p with idle := false }
  else s

/-- GATE_WAKE (R221): at most 313 ticks before an opening edge. -/
def execGateWake (entry : Nat) (s : State) : Res :=
  .next (match s.slu.act[entry]? with
    | none => s
    | some g =>
      match g.nextEdge s.frameTicks s.now with
      | none => s
      | some e =>
        if s.gateMay g && !g.isOpen && decide (e ≤ s.now + 313) then
          (s.setGate entry fun g => { g with awake := true }).wakeEgress g.port
        else s)

/-- GATE_OPEN (R221): the window of a selected frame is on. -/
def execGateOpen (entry : Nat) (s : State) : Res :=
  .next (match s.slu.act[entry]? with
    | none => s
    | some g =>
      let k := s.now / s.frameTicks
      let e := g.edge s.frameTicks k
      let c := e + g.lenm1 + 1
      if s.gateMay g && g.selects k && decide (e ≤ s.now) && decide (s.now < c) && g.closeAt ≠ c then
        (s.setGate entry fun g => { g with isOpen := true, awake := true, crossed := 0, closeAt := c }).wakeEgress g.port
      else s)

/-- GATE_CLOSE (R222): the closing edge of an open window. -/
def execGateClose (entry : Nat) (s : State) : Res :=
  .next (match s.slu.act[entry]? with
    | none => s
    | some g => if g.isOpen && decide (g.closeAt ≤ s.now) then s.closeGate entry else s)

end Sys2Proof.Machine
end

