-- ==== Sys2Proof/Machine/PartOps.lean ====
section
/-! DEFINITION. Closing a partition and tearing it down (R325, R338 to R340), and the agreements of port secrets. -/

namespace Sys2Proof.Machine

open Sys2Proof

def State.setDown (s : State) (pid : Nat) (g : Teardown → Teardown) : State :=
  s.mapSec fun x => { x with downs := mapIf (fun d => d.pid = pid) g x.downs }

/-! ### Steps 1 and 2: close, and stop the queues -/

/-- Fences of the partition complete with CLOSED, and so do its CTRWAITs. -/
def State.closeFences (s : State) (pid : Nat) : State :=
  let s1 := s.each (s.ep.waits.filter fun w => match s.txOf w.tx with
    | some t => t.pid = pid
    | none => false) fun s w => s.endWait w Status.closed
  s1.each (s1.req.txs.filter fun t => t.pid = pid && t.acc = .fence && !t.closed) fun s t =>
    match s.txOf t.id with
    | some u => if u.closed then s else (s.completeTx u Status.closed).releaseEnds u.id Status.closed
    | none => s

/-- Parked faults complete with ABORTED, and every open fault record of the PID closes. -/
def State.closeFaults (s : State) (pid : Nat) : State :=
  let s1 := s.each (s.req.txs.filter fun t => t.pid = pid && !t.closed && (match t.xst with
    | .parked _ => true
    | .missWait _ => false
    | .walking _ => false
    | .ready => false)) fun s t => s.completeTx t Status.aborted
  s1.mapXl fun x => { x with recs := x.recs.filter fun r => r.pid ≠ pid }

/-- Descriptors that a queue's stop ends: those in progress and those queued. -/
def Queue.left (q : Queue) : Nat := q.runs.length + (q.tail + q.entries - q.head) % max 1 q.entries

/-- Requests that are open when the drain starts. -/
def State.openOf (s : State) (pid : Nat) : List Tx := s.req.txs.filter fun t => t.pid = pid && !t.closed

/-- A closing notice (CTRL 0x05) to every module in SHADOW, MEMBER or DRAINING. -/
def State.closingNotices (s : State) (pid : Nat) : State :=
  s.each (s.peerMids.filter fun d => [2, 3, 4].contains (s.peer d).vstate && !s.peerLost d) fun s d =>
    s.sendSeq { Frame.blank with kind := kCtrl, op := 5, tc := 0, dst := d, src := s.mid, payload := fitTo 64 (wordBytes [pid]) }
      0 0 none

/-- R338 steps 1 and 2, and the start of step 3: the PID enters CLOSING. Log entry 49 (DEDUCED). -/
def State.closePart (s : State) (pid : Nat) : State :=
  let qs := s.ep.queues.filter fun q => q.pid = pid && !q.stopped
  let d : Teardown := ⟨pid, s.now, s.now, 0, 0, 0, 0, (qs.map Queue.left).sum, 0, 0, 0, 0, 0, 0, 0, 0⟩
  let s1 := (s.setPart pid 2).mapSec fun x => { x with downs := x.downs.filter (fun e => e.pid ≠ pid) ++ [d] }
  let s2 := s1.mapEp fun e => { e with
    ctxs := mapIf (fun c => c.pid = pid && c.cstate = .bound) (fun c => { c with cstate := .closing }) e.ctxs }
  let s3 := (s2.closeFences pid).each (s2.stn.flows.filter fun f => f.pid = pid) fun s f => s.failFlow pid f.flow Status.closed noStation
  let s4 := (s3.closeFaults pid).each qs fun s q => s.queueStop q.ep q.q
  let r := s4.writeBackAll fun l => l.pid = pid
  let s5 := r.1.reachDrop fun _ p _ => p = pid
  (s5.setDown pid fun d => { d with atomics := r.2.length, drained := (s4.openOf pid).length }).settleAll

/-! ### Port secrets (R333, R334) -/

/-- A port starts an agreement; one that runs already meets the request. -/
def State.startAgreement (s : State) (n : Nat) : State :=
  if (s.fport n).agreeing then s
  else
    let pr := s.peer (s.midAt n)
    (s.setFp n fun p => { p with agreeing := true }).emit (.keyMsg n pr.outEpoch pr.outSeq (s.rd K.routeGen))

/-! ### Steps 3 to 6 -/

/-- Every request that the module's homes hold, from wherever it came. -/
def State.homeReqs (s : State) : List HReq :=
  s.home.inq ++ s.home.held.map Held.h ++ s.home.cas.map CasHold.h ++ s.home.exps.map ExportReq.h

/-- Step 3 has drained: no frame of the PID that this module sourced is open, none of its requests is on its way between an EP and a home of the module, and no home holds
one. -/
def State.drained (s : State) (pid : Nat) : Bool :=
  (s.dlv.peers.all fun p => (p.opens.all fun o => o.f.pid ≠ pid) && p.waitq.all fun w => w.1.pid ≠ pid) &&
    (s.homeReqs.all fun h => h.f.pid ≠ pid) &&
    !(s.sw.frames.any fun c => c.loc.isSome && c.f.pid = pid) && !(s.sw.srcq.any fun w => w.f.pid = pid)

/-- What is left at the bound: open frames are forgotten, open requests complete with ABORTED. -/
def State.abortLeft (s : State) (pid : Nat) : State :=
  let s1 := s.mapDlv fun v => { v with peers := v.peers.map fun p => { p with
    opens := p.opens.filter fun o => o.f.pid ≠ pid, waitq := p.waitq.filter fun w => w.1.pid ≠ pid } }
  let s2 := s1.mapHome fun x => { x with
    inq := x.inq.filter fun h => h.f.pid ≠ pid
    held := x.held.filter fun e => e.h.f.pid ≠ pid
    cas := x.cas.filter fun c => c.h.f.pid ≠ pid
    exps := x.exps.filter fun e => e.h.f.pid ≠ pid }
  let left := s2.openOf pid
  let s3 := s2.each left fun s t =>
    match s.txOf t.id with
    | some u => if u.closed then s else s.completeTx u Status.aborted
    | none => s
  ((s3.setDown pid fun d => { d with aborted := left.length, drained := d.drained - left.length }).mapReq fun r => { r with
    atoms := r.atoms.filter fun l => l.pid ≠ pid }).each s.peerMids State.pumpPair

/-- Lines that atomics have changed since the PID entered CLOSING are written back too (R77, R338 step 3). -/
def State.backLeft (s : State) (pid : Nat) : State :=
  let r := s.writeBackAll fun l => l.pid = pid
  r.1.setDown pid fun d => { d with atomics := d.atomics + r.2.length }

/-- Step 4: every slot of the PID is destroyed, its link keys too, and each port that is up agrees a new secret. A
bounce session without its key goes no further. -/
def State.retireKeys (s : State) (pid : Nat) : State :=
  let s1 := s.each (List.range 8) fun s i => s.wr (K.keySlot pid i) 0
  let s2 := (s1.mapLnk fun l => { l with fp := l.fp.map fun p => { p with deadPids := insertOnce p.deadPids pid } }).mapEp fun e => { e with
    bounces := mapIf (fun b => b.op.pid = pid) (fun b => { b with failed := true }) e.bounces }
  s2.each ((List.range 16).filter fun n => s2.rd (K.fpState n) = psUp || s2.rd (K.fpState n) = psDegraded) State.startAgreement

/-- The device of a granule (R328): 0 HBM, 1 + n the expander on CPn. -/
def granuleDev (g : Nat) : Nat :=
  match regionOf (g * 65536) with
  | .expander n _ => 1 + n
  | .hbm => 0
  | .export_ _ _ _ => 0
  | .reserved => 0

/-- Granules, ascending, as spans of one device each. -/
def fillSpans (pid : Option Nat) : List Nat → List FillSpan
  | [] => []
  | g :: r =>
    match fillSpans pid r with
    | [] => [⟨granuleDev g, g, g + 1, pid⟩]
    | f :: fs =>
      if f.next = g + 1 && f.dev = granuleDev g then { f with next := g } :: fs else ⟨granuleDev g, g, g + 1, pid⟩ :: f :: fs

/-- Granules that a PID owns, ascending. -/
def State.granulesOf (s : State) (pid : Nat) : List Nat := (s.own.filter fun e => e.2 = 0x40 + pid).map fun e => e.1

/-- Granules go to SCRUB and wait for zero-fill, one span after another. -/
def State.scrub (s : State) (gs : List Nat) (pid : Option Nat) : State :=
  let s1 := s.each gs fun s g => s.setGranule g 0x80
  s1.mapFills fun l => l ++ fillSpans pid gs

/-- The PID's frames in the core are dropped; their tile buffers are freed. -/
def State.dropPidFrames (s : State) (pid : Nat) : State :=
  let ids := (s.sw.frames.filter fun c => c.f.pid = pid && c.f.kind ≠ kMirror).map CoreFrame.id
  s.each ids fun s id => (s.setCore id fun c => { c with egr := [], started := [], mirr := [] }).coreOut id

/-- The teardown report (R340), 96 bytes: PID, PGEN, the rack time of the six steps, and the counts.
Log entries 21 (PRESUMED), 49 (DEDUCED). -/
def downBytes (d : Teardown) (gen now : Nat) : List Byte :=
  fitTo 96 (leBytes 1 d.pid ++ leBytes 1 0 ++ leBytes 2 gen ++
    ([d.closeAt, d.queuesAt, d.drainAt, d.retireAt, d.eraseAt, now].map (leBytes 8)).flatten ++
    ([d.refused, d.descs, d.drained, d.aborted, d.atomics, d.late, d.erased, d.zeroed, d.dirs].map (leBytes 4)).flatten)

/-- Step 6: the report is written and the PID becomes FREE. -/
def State.downEnd (s : State) (pid : Nat) : State :=
  match s.sec.downs.find? fun d => d.pid = pid with
  | none => s
  | some d =>
    let s1 := s.wr K.tdLast (leNat (downBytes d (s.rd (K.pgen pid)) s.now))
    (((s1.report K.teardownReports).event K.tdLast).mapSec fun x => { x with
      downs := x.downs.filter fun e => e.pid ≠ pid }).setPart pid 0

/-- Step 5: granules, directory entries, tile buffers, cores, streams and sluice sets. Log entry 49 (DEDUCED). -/
def State.erasePart (s : State) (pid : Nat) : State :=
  let gs := s.granulesOf pid
  let dirs := (s.home.dir.filter fun e => e.pid = pid).length
  let s1 := (s.scrub gs (some pid)).mapHome fun x => { x with dir := x.dir.filter fun e => e.pid ≠ pid }
  let s2 := s1.each (s1.stn.flows.filter fun f => f.pid = pid) fun s f => s.removeFlow pid f.flow
  let s3 := (s2.mapSlu fun u => { u with
    act := u.act.filter fun g => g.pid ≠ pid
    pend := u.pend.filter fun e => e.1 ≠ pid
    commits := u.commits.filter fun c => c.1 ≠ pid }).noteSets
  let s4 := (s3.dropPidFrames pid).setDown pid fun d => { d with
    eraseAt := s.now, erased := gs.length, dirs := dirs, filling := gs.length }
  if gs.isEmpty then s4.downEnd pid else s4

/-- R338 steps 3 to 5 for a PID whose drain has ended or reached its bound. Log entry 49 (DEDUCED). -/
def State.teardown (s : State) (pid : Nat) : State :=
  let s1 := s.abortLeft pid
  let s2 := (s1.retireKeys pid).setDown pid fun d => { d with drainAt := s.now, retireAt := s.now }
  ((s2.setPart pid 3).erasePart pid).settleAll

end Sys2Proof.Machine
end

