-- ==== Sys2Proof/Machine/Switch.lean ====
section
/-! DEFINITION. The commands of the switch core (chapter 9): header and tail, arbitration, tile-buffer cache, parking,
mirror sessions. -/

namespace Sys2Proof.Machine

open Sys2Proof

/-! ### Arrival (R227, R228, R233, R255) -/

/-- A fabric port that carries frames: trained, keyed, its link unmasked. -/
def State.fabricOn (s : State) (p : Nat) : Bool :=
  decide (p + 1 < s.meshN) && (s.rd (K.fpState p) = psUp || s.rd (K.fpState p) = psDegraded) && (s.fport p).keyed &&
    !s.masked (s.midAt p)

/-- Table ARC-6: the classes that a fabric port takes in; a shadow takes the copies of its partner in TC7. -/
def State.classIn (s : State) (tc : Nat) : Bool :=
  s.inService || tc = 0 || (s.life.mstate = .shadow && tc = 7)

/-- The classes that a fabric port sends. -/
def State.classOut (s : State) (tc : Nat) : Bool := s.inService || tc = 0

/-- The egresses of a frame for this module: home agents, an EP, the bridges of a stream's consumers, the controllers. -/
def State.localEgrs (s : State) (f : Frame) : List Nat :=
  if f.kind = kReq then (if f.op = 0x60 || f.op = 0x61 then [egEp (f.context % 4)] else [egHome])
  else if f.kind = kRsp then (if 0x60 ≤ f.op then [egHome] else [egEp (f.ep % 4)])
  else if f.kind = kStream then
    match s.strmGet f.pid f.flowOf f.sidOf with
    | none => [egCtrl]
    | some st =>
      let es := ((st.cons.filter fun c => c.mid = s.mid).map (s.consEgress f.pid f.flowOf)).eraseDups
      if es.isEmpty then [egCtrl] else es
  else [egCtrl]

/-- R255: where an arriving frame goes; none when it is misrouted. -/
def State.egrsFor (s : State) (f : Frame) : Option (List Nat) :=
  if f.dst = s.mid then some (s.localEgrs f)
  else if f.via = s.mid then some [s.portTo f.dst]
  else none

/-- FRAME_HEADER_ARRIVAL (R227, R228 step 3, R252, R255): a frame of a class that the module's state admits, within the credits
of its ingress, is looked up, and its copies are queued. A copy for a masked link is discarded (R229). `seen` gives what a read of
a popped cell pointer shows, where it shows another value (R233). Log entry 64 (DESIGN CHOICE). -/
def execFrameHeaderArrival (ingress : Nat) (f : Frame) (seen : NMap) (s : State) : Res :=
  .next (if !s.fabricOn ingress || !s.classIn f.tc || f.hchk ≠ f.hchkOf || !s.hasCredit ingress f.tc f.cells then s
    else
      let r := (s.setFp ingress fun p => { p with keyIn := p.keyIn + 1 }).mirSelectAll 0 ingress ingress f
      match r.1.egrsFor f with
      | none => r.1.bump K.staleDrops 1
      | some egrs =>
        let away := f.dst ≠ r.1.mid
        let out := if away && !r.1.fabricOn (r.1.portTo f.dst) then [] else egrs
        (((r.1.coreIn ingress f out 0 r.2 none seen).ungatedRaise f out)).settleCells)

/-- A frame whose link tag fails is counted, also in the teardown report of its PID (R334, R340). -/
def State.lateNote (s : State) (pid : Nat) : State :=
  (s.bump K.lateFrames 1).mapSec fun x => { x with
    downs := x.downs.map fun d => if d.pid = pid then { d with late := d.late + 1 } else d }

/-- FEC_UNCORRECTABLE counts a frame's uncorrectable codeword. -/
def State.fecNote (s : State) (c : CoreFrame) (fecOk : Bool) : State :=
  if fecOk || decide (16 ≤ c.ingress) then s else s.bump (K.fpFecUncorrectable c.ingress) 1

/-- LATE_FRAMES (R334): the PID has been torn down on the port since the sender encrypted the frame. -/
def State.lateFrame (s : State) (c : CoreFrame) : Bool :=
  decide (c.ingress < 16) && (s.fport c.ingress).deadPids.contains c.f.pid

/-- A frame leaves by a fabric port under its key (R334). -/
def State.sendOn (s : State) (e : Nat) (f : Frame) (bad : Bool) : State :=
  (s.setFp e fun p => { p with keyFrames := p.keyFrames + 1 }).emit (.frame e f bad)

/-- A frame of this module for this module that its die bridge reports bad, of which no egress has started a copy, enters the core
again: no pair resends it. Log entry 64 (DESIGN CHOICE). -/
def State.again (s : State) (c : CoreFrame) : State :=
  if 16 ≤ c.ingress && c.f.dst = s.mid then s.sourceFrame c.ingress c.f c.egr c.loc else s

/-- R228: a bad tail. Copies that no egress has started are discarded, those started are finished with a bad mark. -/
def State.badTail (s : State) (c : CoreFrame) : State :=
  let s1 := (s.bump K.badTailDiscards c.egr.length).bump K.badTailMarked c.started.length
  let s2 := (s1.setCore c.id fun d => { d with tail := 2, egr := [], started := [] }).quadEv c.quad 0x10D c.f.pid 1
  (((s2.each c.started fun s e => s.sendOn e c.f true).mirFlush c.id true).coreOut c.id).again c

/-- A good tail: a cut-through copy is finished; the others wait for their egresses. -/
def State.goodTail (s : State) (c : CoreFrame) : State :=
  let s1 := s.setCore c.id fun d => { d with tail := 1, started := [] }
  ((s1.each c.started fun s e => s.sendOn e c.f false).mirFlush c.id false).coreOut c.id

/-- A frame whose tail is still to be judged: at a fabric port one whose tail has not come; at a die bridge, which hands the
core whole frames, one of which no copy has started. Log entry 64 (DESIGN CHOICE). -/
def CoreFrame.unjudged (c : CoreFrame) : Bool :=
  c.tail = 0 || (c.tail = 1 && decide (16 ≤ c.ingress) && decide (c.ingress < 24) && c.started.isEmpty && !c.parked)

/-- FRAME_TAIL_ARRIVAL (R228): the verdict of the link layer or of a die bridge on a frame (`hop`, and its bad mark), and that of
the link tag (R334). Log entry 51 (DESIGN CHOICE). -/
def execFrameTailArrival (id : Nat) (hop : HopVerdict) (authOk marked : Bool) (s : State) : Res :=
  .next (match s.sw.frames.find? fun c => c.id = id with
    | none => s
    | some c =>
      if !c.unjudged then s
      else
        let late := s.lateFrame c
        if hop = .good && authOk && !late && !marked then s.goodTail c
        else (((if late || !authOk then s.lateNote c.f.pid else s).fecNote c (decide (hop ≠ .fec))).badTail c).settleCells)

/-! ### Arbitration at an egress (R230 to R232, R221) -/

/-- The first frame of every triple of an egress and class (R230). -/
def triples (e tc : Nat) : List CoreFrame → List Nat → List CoreFrame
  | [], _ => []
  | c :: r, seen =>
    if c.f.tc = tc && c.egr.contains e && !seen.contains c.ingress then c :: triples e tc r (c.ingress :: seen)
    else triples e tc r seen

/-- R227: the egress may start the frame: it is here whole, or enters at a fabric port and leaves at one that is no faster. -/
def State.mayStart (s : State) (c : CoreFrame) (e : Nat) : Bool :=
  !c.parked && (c.tail = 1 ||
    (c.tail = 0 && decide (c.ingress < 16) && decide (e < 16) && decide (s.groupsUp e ≤ s.groupsUp c.ingress)))

/-- The frames of a class that an egress may start now: those that the module's state lets out (Table ARC-6), and at a local
egress those that the stream's consumers can take (R142). -/
def State.heads (s : State) (e tc : Nat) : List CoreFrame :=
  (triples e tc s.sw.frames []).filter fun c =>
    s.mayStart c e && (if e < 16 then s.classOut tc || c.f.kind = kMirror else s.canLand c.f e)

/-- Round robin by ingress: the frame whose ingress comes first after `last`. -/
def pickRR (last : Nat) (l : List CoreFrame) : Option CoreFrame :=
  l.foldl (fun acc c =>
    match acc with
    | none => some c
    | some a => if (c.ingress + 64 - last - 1) % 64 < (a.ingress + 64 - last - 1) % 64 then some c else acc) none

/-- The frame of a class whose turn it is, among those that pass the look-ahead of R221. Log entry 52 (DEDUCED). -/
def State.turn (s : State) (e tc : Nat) : Option CoreFrame :=
  pickRR (nmGet s.sw.lastIn (8 * e + tc) 63) ((s.heads e tc).filter fun c => s.lookAhead e c.cells)

/-- The classes of rule 5, in their order. -/
def drrClass (i : Nat) : Nat := [2, 5, 6, 7].getD (i % 4) 7

/-- ARB_QUANTUM of the class. -/
def State.quantum (s : State) (i : Nat) : Nat := s.rd (K.arbQuantum2 + i % 4)

/-- The next class of the round is given its quantum. -/
def State.giveQuantum (s : State) (e i : Nat) : State :=
  let k := 8 * e + drrClass i
  if (s.turn e (drrClass i)).isSome then
    s.mapSw fun x => { x with deficit := mput x.deficit k (nmGet x.deficit k 0 + s.quantum i) }
  else s.mapSw fun x => { x with deficit := mdel x.deficit k }

/-- Deficit round robin: `i` is the class being served, which has its quantum. The last argument bounds the rounds.
Log entry 52 (DEDUCED). -/
def State.drr (s : State) (e i : Nat) : Nat → State × Option CoreFrame
  | 0 => (s, none)
  | n + 1 =>
    let k := 8 * e + drrClass i
    let d := nmGet s.sw.deficit k 0
    match (s.turn e (drrClass i)).filter fun c => decide (c.cells ≤ d) with
    | some c =>
      (s.mapSw fun x => { x with deficit := mput x.deficit k (d - c.cells), lastIn := mput x.lastIn (1000 + e) (i % 4) }, some c)
    | none => (s.giveQuantum e (i + 1)).drr e ((i + 1) % 4) n

/-- An entry passes a frame: partition, set, flow and stream (R221). -/
def State.gatePasses (s : State) (g : Gate) (f : Frame) : Bool :=
  f.kind = kStream && g.passes f.pid f.flowOf f.sidOf && g.set = s.setOf f.pid f.flowOf

/-- Rule 1: a matching frame that ends by the closing edge. -/
def State.gatePick (s : State) (g : Gate) (e : Nat) : Option CoreFrame :=
  (s.heads e 1).find? fun c => s.gatePasses g c.f && decide (s.now + s.cellTicks e c.cells ≤ g.closeAt)

/-- R280, Table PWR-4: a cap holds the egress in electrical idle for every class but TC0 and gates. -/
def State.capIdle (s : State) (e : Nat) : Bool :=
  (decide (e < 16) && decide (4 ≤ s.power.measures)) || (decide (16 ≤ e) && decide (e < 32) && decide (5 ≤ s.power.measures))

/-- R231: the frame that the egress starts, and the state of its round robin. Log entry 52 (DEDUCED). -/
def State.arbitrate (s : State) (e : Nat) : State × Option CoreFrame :=
  match s.openGate e with
  | some g => (s, if s.power.stage3 then none else s.gatePick g e)
  | none =>
    let first := (s.turn e 0).or (if gatedCode e then none else s.turn e 1)
    if first.isSome || s.capIdle e then (s, first)
    else
      match (s.turn e 3).or (s.turn e 4) with
      | some c => (s, some c)
      | none =>
        if [2, 5, 6, 7].any fun tc => (s.turn e tc).isSome then s.drr e (nmGet s.sw.lastIn (1000 + e) 0) 100
        else (s, none)

/-- The egress is free to start a frame: nothing in progress, a port out of idle (R281), and on a fabric port a link that is up. -/
def State.egressFree (s : State) (e : Nat) : Bool :=
  !(s.sw.frames.any fun c => c.tail = 0 && c.started.contains e) &&
    (if e < 16 then s.analysis = some e || (s.fabricOn e && !(s.fport e).idle)
     else if e < 32 then !(s.aport (e - 16)).idle else true)

/-- The END tile of a stream: one part whose header has FIN. -/
def endsStream (f : Frame) : Bool := f.part = 0 && f.lastPart && (word64 f.payload 0).testBit 31

/-- A tile that wholly crosses in an open window counts against its budget; a resend does not count again (R260). -/
def State.gateCross (s : State) (e : Nat) (f : Frame) : State :=
  if f.tc ≠ 1 || f.kind ≠ kStream || !f.lastPart then s
  else
    match s.slu.act.findIdx? fun g => g.port = e && g.isOpen && s.gatePasses g f with
    | none => s
    | some i => s.setGate i fun g => { g with
        crossed := if f.resend then g.crossed else g.crossed + 1
        begun := true
        finished := if endsStream f then insertOnce g.finished f.sidOf else g.finished }

/-- The CAP messages of a mirror copy for an attach analysis port, at most 4 KiB of it each (R306). -/
def mirrorMsgs (e : Nat) (d : List Byte) : List CapOut :=
  let n := max 1 (cdiv d.length 4096)
  (List.range n).map fun i => { CapOut.to (epOfPort (e - 16)) 0 0 0x2A with
    arg := 4096 * i, last := decide (i + 1 = n)
    data := fitTo (64 * cdiv (min 4096 (d.length - 4096 * i)) 64) ((d.drop (4096 * i)).take 4096) }

/-- A mirror copy leaves on the analysis port: as one frame on FP15 (R246), as MIRROR messages on an attach port, where it is
dropped without the MGMT credits (R245, R306). -/
def State.sendMirror (s : State) (e : Nat) (c : CoreFrame) : State :=
  if e < 16 then (s.emit (.mirror e c.f.tag c.f.payload)).bump (K.mirCopies c.f.tag) 1
  else
    let ms := mirrorMsgs e c.f.payload
    if (ms.foldl (fun n m => n + outCost m) 0) ≤ (s.aport (e - 16)).send.getD 2 0 then
      (s.each ms fun s m => s.capPush (e - 16) m).bump (K.mirCopies c.f.tag) 1
    else s.dropCopy c.f.tag c.quad c.f.pid

/-- A copy starts at its egress. A mirror copy leaves at once; a fabric copy whose tail is here too. `seen` as in R233's checks of
the cells that it frees. -/
def State.startCopy (s : State) (e : Nat) (c : CoreFrame) (seen : NMap) : State :=
  let s0 := ((s.quadEv c.quad 0x102 c.f.pid c.cells).quadEv c.quad (if c.tail = 0 then 0x10B else 0x10C) c.f.pid 1).quadEv
    c.quad (0x110 + c.f.tc % 8) c.f.pid 1
  let s1 := (s0.gateCross e c.f).mapSw fun x => { x with
    lastIn := mput x.lastIn (8 * e + c.f.tc) c.ingress, waitAt := mput x.waitAt e s.now }
  let r := s1.mirSelectAll 1 e c.ingress c.f
  let whole := c.tail = 1 && (decide (e < 16) || c.f.kind = kMirror)
  let s2 := r.1.setCore c.id fun d => { d with
    egr := removeAll d.egr [e], started := if whole then d.started else d.started ++ [e], mirr := d.mirr ++ r.2 }
  let s3 := if c.tail = 1 then s2.mirFlush c.id false else s2
  if c.f.kind = kMirror then (s3.sendMirror e c).coreOutSeen c.id seen
  else if whole then (s3.sendOn e c.f false).coreOutSeen c.id seen
  else s3

/-- EGRESS_ARBITRATION (R231): an egress that is free starts a frame. `seen` gives what a read of a pushed cell pointer shows, where
it shows another value (R233). -/
def execEgressArbitration (egress : Nat) (seen : NMap) (s : State) : Res :=
  .next (if !s.egressFree egress then s
    else
      match s.arbitrate egress with
      | (s1, none) => s1
      | (s1, some c) => (s1.startCopy egress c seen).settleCells)

/-! ### The tile-buffer cache (R236) -/

/-- Tiles that wait for a buffer are delivered (R142). Log entry 17 (DESIGN CHOICE). -/
def State.pumpAll (s : State) : State :=
  s.each s.stn.strms fun s t => s.each t.cons fun s c => s.pumpTransit t.pid t.flow t.sid c.idx 4097

/-- R237: a pointer from the ring goes into the cache when it passes the checks. -/
def State.cacheBuf (s : State) (v : Nat) : State :=
  match s.ringBuf v with
  | some b =>
    if s.bufRefs b = 0 && !s.sw.tbCache.contains b then s.mapSw fun x => { x with tbCache := x.tbCache ++ [b] } else s.tbufError b
  | none => s.tbufError (v / 4096)

/-- The ring entries of buffers `bs` are taken from the ring, or written anew. -/
def State.clearSeen (s : State) (bs : List Nat) : State :=
  s.mapSw fun x => { x with ringSeen := x.ringSeen.filter fun e => !bs.contains e.1 }

/-- TBUF_CACHE_REFILL (R236, R237): every entry taken is checked as it reads. -/
def execTbufCacheRefill (s : State) : Res :=
  .next (if s.sw.tbCache.length < 256 then
      let t := ringTake 256 s.sw.tbRing
      (((((s.mapSw fun x => { x with tbRing := t.2 }).clearSeen t.1).each t.1 fun y b => y.cacheBuf (s.ringRead b)).noteFree).pumpAll).settleAll
    else if 896 < s.sw.tbCache.length then
      (s.clearSeen (s.sw.tbCache.take 256)).mapSw fun x => { x with tbCache := x.tbCache.drop 256, tbRing := x.tbRing ++ (x.tbCache.take 256).map fun b => (b, 1) }
    else s)

/-! ### Parking (R239, R240) -/

/-- A frame that parking takes: TC1 or TC5, whole, not started, 1 µs old. -/
def CoreFrame.parkable (c : CoreFrame) (now : Nat) : Bool :=
  (c.f.tc = 1 || c.f.tc = 5) && c.tail = 1 && !c.parked && c.started.isEmpty && !c.egr.isEmpty && decide (c.at_ + 1250 ≤ now)

/-- FRAME_PARK (R239): the oldest such frame of a quadrant below WM1. A frame that finds the quota or the pool exhausted
stays; one that meets a bad buffer pointer is discarded (R237). -/
def execFramePark (id : Nat) (s : State) : Res :=
  .next (match s.sw.frames.find? fun c => c.id = id with
    | none => s
    | some c =>
      if s.belowMark c.quad 1 && (s.sw.frames.find? fun d => d.quad = c.quad && d.parkable s.now) = some c then
        match s.takeBufs c.f.pid (cdiv c.cells 16) with
        | .wait => s
        | .bad s1 => ((s1.setCore id fun d => { d with egr := [] }).coreOut id).settleCells
        | .got s1 bs =>
          let own := s1.ownCells c
          let s2 := s1.setCore id fun d => { d with parked := true, bufs := bs, ptrs := [] }
          let s3 := (s2.pushCells c.quad own []).returnCredit c.ingress c.f.tc own.length
          (((s3.bump K.framesParked 1).quadEv c.quad 0x109 c.f.pid 1).pumpSources).settleCells
      else s)

/-- R240: a parked frame may return: its gate opens within 2 µs, its egress can take it, or cells are free again. -/
def State.mayUnpark (s : State) (c : CoreFrame) : Bool :=
  decide (s.rd K.wm1 + s.rd K.wmHyst < s.freeCells c.quad) ||
    (c.f.tc = 1 && c.egr.any fun e => s.slu.act.any fun g => g.port = e && s.gatePasses g c.f && s.gateActs g &&
      (g.isOpen || (match g.nextEdge s.frameTicks s.now with
        | some t => decide (t ≤ s.now + 2500)
        | none => false))) ||
    (c.f.tc = 5 && c.egr.any fun e => s.egressFree e && (triples e 5 s.sw.frames []).contains c)

/-- FRAME_UNPARK (R240): only while the quadrant holds more than WM2 free cells. -/
def execFrameUnpark (id : Nat) (s : State) : Res :=
  .next (match s.sw.frames.find? fun c => c.id = id with
    | none => s
    | some c =>
      if c.parked && decide (s.rd K.wm2 < s.freeCells c.quad) && s.mayUnpark c then
        let s1 := (s.setCore id fun d => { d with parked := false, bufs := [] }).giveBufs c.f.pid c.bufs
        let r := s1.takeCells c.quad c.cells []
        ((r.1.setCore id fun d => { d with ptrs := r.2 }).quadEv c.quad 0x10A c.f.pid 1).settleCells
      else s)

/-! ### Mirroring (R244, R245) -/

/-- MIRROR_SESSION_MODE (R244): the sample counter starts at 0. -/
def execMirrorSessionMode (o : Origin) (n v : Nat) (s : State) : Res :=
  .next (s.commandIf (decide (n < 8)) o (K.mirMode n) 0 fun s p =>
    let r := s.writePlain o p (K.mirMode n) 0 v
    (r.1.mapSw fun x => { x with sample := mdel x.sample n }, r.2))

/-- R245: a port that may serve as analysis port. -/
def State.analysisOk (s : State) (v : Nat) : Bool :=
  if v = 0xFF then true
  else if v = 15 then decide (s.meshN ≤ 16)
  else s.bondOf (v - 16) = v - 16 && (s.bondCtxs (v - 16)).isEmpty

/-- R22, R246: FP15 transmits only while it is the analysis port of a module whose fabric ports are not dark. -/
def State.analysisLaser (s : State) : State :=
  if s.meshN ≤ 16 then s.setFp 15 fun x => { x with laser := decide (s.analysis = some 15) && s.fabricLive } else s

/-- ANALYSIS_PORT (R245, R246): FP15 transmits only while it is selected. Log entry 38 (DEDUCED). -/
def execAnalysisPort (o : Origin) (v : Nat) (s : State) : Res :=
  .next (s.command o K.analysisPort 0 fun s p =>
    match s.settle o p K.analysisPort 0 v with
    | (s1, v1, c) =>
      if s1.analysisOk v1 then
        ((s1.wr K.analysisPort v1).analysisLaser, .commit c)
      else (s, Done.refused))

end Sys2Proof.Machine
end

