-- ==== Sys2Proof/Machine/Deliver.lean ====
section
/-! DEFINITION. The commands of delivery and routing (chapter 10): frames at their destination, acknowledgements, timers,
masked links, lost peers, notices, and the change of route tables. -/

namespace Sys2Proof.Machine

open Sys2Proof

/-! ### Frames at their destination (R251, R252, R257, R264) -/

/-- A closing notice (R325): the PID enters CLOSING unless it is closing already. -/
def State.closingIn (s : State) (pid : Nat) : State :=
  if pid ≠ 0 && pid < 64 && s.pstate pid = 1 then s.closePart pid else s

/-- R264: GEN is checked on REQ, STREAM and CTRL frames of the classes that a drain holds. -/
def genChecked (f : Frame) : Bool :=
  (f.kind = kReq || f.kind = kStream || f.kind = kCtrl) && [2, 4, 5, 7].contains f.tc

/-- A frame is performed at egress `e`; `loc` as in CoreFrame. -/
def State.performFrame (s : State) (f : Frame) (e : Nat) (loc : Option (Nat × Nat)) : State :=
  let ack := fun (s : State) => if f.src = s.mid then s else s.sendAck f.src f.pepoch [f.seq]
  if f.kind = kReq then (if f.op = 0x60 || f.op = 0x61 then s.recallForHost f else s.homeIn f loc)
  else if f.kind = kRsp then
    match loc with
    | some l => s.homeRsp l.1 l.2 f.status f.li f.payload
    | none => s.rspIn f
  else if f.kind = kStream then ack (s.streamFrame f e)
  else if f.kind = kAck then s.acked f.src (ackSeqs f)
  else
    match f.op with
    | 1 => (s.noticeIn (noticeOf f)).judgeLock
    | 2 => ack (s.ownerNews (word64 f.payload 0) (bits (word64 f.payload 1) 31 16) (bits (word64 f.payload 1) 15 0))
    | 3 => ack (s.abortFlow (word64 f.payload 0) f.flowOf (statusSeen f.status) f.src (word64 f.payload 1) (word64 f.payload 2) false)
    | 4 => s.creditIn (word64 f.payload 2) f.flowOf f.sidOf (word64 f.payload 0) (word64 f.payload 1)
    | 5 => ack (s.closingIn (word64 f.payload 0))
    | _ => s

/-- A request is performed again (Table DLV-3). -/
def State.unfinish (s : State) (f : Frame) : State :=
  s.setPeer f.src fun p => { p with win := p.win.map fun w => if w.seq = f.seq then { w with finished := false } else w }

/-- A duplicate (Table DLV-3). -/
def State.dupFrame (s : State) (f : Frame) (e : Nat) (w : WinRec) : State :=
  if f.kind ≠ kReq || !w.finished then (s.bump K.dupDrops 1).sendAck f.src f.pepoch [f.seq]
  else if replays f.op then s.sendPlain (rspFrame f w.status w.li w.data)
  else (s.unfinish f).performFrame f e none

/-- Table DLV-3 for a frame that leaves the core at its first local egress `e`. -/
def State.targetFrame (s : State) (f : Frame) (e : Nat) (loc : Option (Nat × Nat)) : State :=
  if !f.sequenced || f.src = s.mid then s.performFrame f e loc
  else
    match (s.peer f.src).judge f with
    | .stale => s.bump K.staleDrops 1
    | .below => s.bump K.dupDrops 1
    | .fresh => (s.winAdd f (f.kind ≠ kReq)).performFrame f e none
    | .dup w => s.dupFrame f e w

/-- The frame is new to this module, or not sequenced, so its copies at later egresses are performed too. -/
def State.goesOn (s : State) (f : Frame) : Bool :=
  !f.sequenced || f.src = s.mid || (match (s.peer f.src).judge f with
    | .fresh => true
    | .stale => false
    | .below => false
    | .dup _ => false)

/-- Every copy of a frame is dropped. -/
def State.dropCopies (s : State) (id : Nat) : State :=
  (s.setCore id fun c => { c with egr := [], started := [] }).coreOut id

/-- FRAME_DELIVERY (R257): a frame that has started at a local egress, its tail good, is checked and performed. -/
def execFrameDelivery (id : Nat) (s : State) : Res :=
  .next (match s.sw.frames.find? fun c => c.id = id with
    | none => s
    | some c =>
      match (if c.tail = 1 then c.started.find? fun e => decide (16 ≤ e) else none) with
      | none => s
      | some e =>
        let f := c.f
        if f.ecrc ≠ f.ecrcOf then (s.bump K.e2eCrcFails 1).dropCopies id
        else if !f.opOk then (s.bump K.staleDrops 1).dropCopies id
        else
          let s1 := (s.setCore id fun d => { d with started := d.started.erase e, judged := true })
          if c.judged then (((s1.coreOut id).performFrame f e c.loc).settleAll).settleCells
          else if genChecked f && f.src ≠ s.mid && f.gen ≠ s.rd K.routeGen then (s.bump K.staleDrops 1).dropCopies id
          else if s1.goesOn f then (((s1.coreOut id).targetFrame f e c.loc).settleAll).settleCells
          else (((s1.dropCopies id).targetFrame f e c.loc).settleAll).settleCells)

/-! ### Acknowledgements and timers (R258 to R260) -/

/-- ACK_ARRIVAL (R258). -/
def execAckArrival (src : Nat) (seqs : List Nat) (s : State) : Res := .next (s.acked src seqs).settleAll

/-- A request is marked acknowledged wherever the home keeps it. -/
def State.markAcked (s : State) (hid : Nat) : State :=
  let g := fun (h : HReq) => if h.hid = hid then { h with acked := true } else h
  s.mapHome fun x => { x with
    inq := x.inq.map g
    held := x.held.map fun e => { e with h := g e.h }
    cas := x.cas.map fun c => { c with h := g c.h }
    exps := x.exps.map fun e => { e with h := g e.h } }

/-- HELD_REQUEST_ACK (R258): a REQ of another module held for 2 µs without a response. `pos` counts the home's requests:
queue, held, CAS.OWN, export. -/
def execHeldRequestAck (pos : Nat) (s : State) : Res :=
  .next (match s.homeReqs[pos]? with
    | none => s
    | some h =>
      if h.loc.isNone && h.f.src ≠ s.mid && !h.acked && decide (h.since + 2500 ≤ s.now) then
        (s.markAcked h.hid).sendAck h.f.src h.f.pepoch [h.f.seq]
      else s)

/-- The open frame of a pair with a sequence number. -/
def State.openFrame (s : State) (d seq : Nat) : Option OpenFrame := (s.peer d).opens.find? fun o => o.seq = seq

/-- ACKED_REQUEST_QUERY (R258): every 100 µs; a query uses up no attempt. -/
def execAckedRequestQuery (dst seq : Nat) (s : State) : Res :=
  .next (match s.openFrame dst seq with
    | none => s
    | some o =>
      if o.acked && o.f.kind = kReq && decide (o.sentAt + 125000 ≤ s.now) then
        let n := s.nextPath { o with tried := [] }
        let r := (s.bump K.resends 1).attempt { o with tries := max 1 o.tries, tried := [] } n.1
        r.1.setOpen dst { r.2 with tries := o.tries }
      else s)

/-- RESEND_TIMER_EXPIRY (R259, R260): no acknowledgement or response within 8 µs of the attempt. -/
def execResendTimerExpiry (dst seq : Nat) (s : State) : Res :=
  .next (match s.openFrame dst seq with
    | none => s
    | some o => if !o.acked && decide (o.sentAt + 10000 ≤ s.now) then (s.attemptFails o).settleAll else s)

/-! ### Links (R261) -/

/-- A port that is trained. -/
def State.fpTrained (s : State) (n : Nat) : Bool := s.rd (K.fpState n) = psUp || s.rd (K.fpState n) = psDegraded
def State.apTrained (s : State) (n : Nat) : Bool := s.rd (K.apState n) = psUp || s.rd (K.apState n) = psDegraded

/-- A keep-alive on a fabric port; a transmitter in idle leaves it by a burst (R281). -/
def State.keepFp (s : State) (n : Nat) : State :=
  let s1 := if (s.fport n).idle then s.emit (.symbol (.fp n) 2 0) else s
  (s1.emit (.symbol (.fp n) 0 0)).setFp n fun p => { p with idle := false, lastKeep := s.now }

/-- A keep-alive on an attach port. -/
def State.keepAp (s : State) (n : Nat) : State :=
  let s1 := if (s.aport n).idle then s.emit (.symbol (.ap n) 2 0) else s
  (s1.emit (.symbol (.ap n) 0 0)).setAp n fun p => { p with idle := false }

/-- FP15 as analysis port sends keep-alives too, and is in no other way a trained port (R246). -/
def State.analysisKeep (s : State) : State :=
  if s.analysis = some 15 then s.emit (.symbol (.fp 15) 0 0) else s

/-- KEEPALIVE_SEND (R261): on every trained port. -/
def execKeepaliveSend (s : State) : Res :=
  .next (((s.each ((List.range 16).filter s.fpTrained) State.keepFp).each ((List.range 16).filter s.apTrained) State.keepAp).analysisKeep)

/-- KEEPALIVE_TIMEOUT (R261): the link behind the port is masked. -/
def execKeepaliveTimeout (port : Nat) (s : State) : Res :=
  .next (if port < 16 && s.fpTrained port then (s.portMasked port 1).settleAll else s)

/-- LOSS_OF_LIGHT (R261): the link is masked and the port is dark; a held port stays held until light returns (R276). The
analysis port ignores its receive fibres (R246). -/
def execLossOfLight (port : Nat) (s : State) : Res :=
  .next (if 16 ≤ port || s.analysis = some port then s
    else
      let s1 := s.setFp port fun p => { p with light := false }
      if s1.rd (K.fpState port) = psHeld || s1.rd (K.fpState port) = psDark then s1
      else (s1.fpDown port psDark 0 (s1.fport port).laser).settleAll)

/-- A module of the mesh other than this one. -/
def State.isPeer (s : State) (d : Nat) : Bool := decide (d < s.meshN) && d ≠ s.mid

/-- LINK_STATE_NOTICE (R261 to R263, R413). -/
def execLinkStateNotice (n : Notice) (s : State) : Res :=
  .next (if s.isPeer n.src then ((s.noticeIn n).judgeLock).settleAll else s)

/-- PEER_LOSS_TIMEOUT (R262): 20 µs without a notice that reports a link to the peer as unmasked. -/
def execPeerLossTimeout (mid : Nat) (s : State) : Res :=
  .next (if s.isPeer mid && s.masked mid && !s.peerLost mid && decide ((s.peer mid).maskAt + 25000 ≤ s.now) &&
        decide ((s.peer mid).unmaskedAt + 25000 ≤ s.now) then
      ((s.declareLost mid).judgeLock).settleAll
    else s)

/-- CLOSING_NOTICE (R325). -/
def execClosingNotice (src pid : Nat) (s : State) : Res := .next (if s.isPeer src then s.closingIn pid else s)

/-- ABORT_NOTICE (R133). -/
def execAbortNotice (src pid flow status station time : Nat) (s : State) : Res :=
  .next (if s.isPeer src then (s.abortFlow pid flow (statusSeen status) src station time false).settleAll else s)

/-- CREDIT_RETURN (R116): the consumer's credit and its free bytes. -/
def execCreditReturn (src pid flow sid consumer free : Nat) (s : State) : Res :=
  .next (match (s.strmGet pid flow sid).bind fun t => t.cons? consumer with
    | none => s
    | some c => if s.isPeer src && c.mid = src then s.creditIn pid flow sid consumer free else s)

/-! ### Changing route tables (R253, R264) -/

/-- Held frames of every pair go on; `fuel` bounds the frames of one pair. -/
def State.pumpHeld (s : State) (d : Nat) : Nat → State
  | 0 => s
  | n + 1 =>
    match (s.peer d).waitq with
    | [] => s
    | w :: _ => if 4096 ≤ (s.peer d).opens.length || s.drainHeld w.1.tc then s else (s.pumpPair d).pumpHeld d n

/-- Traffic that a drain held resumes. -/
def State.resumeHeld (s : State) : State :=
  s.each s.peerMids fun s d => s.pumpHeld d (s.peer d).waitq.length

/-- ROUTE_STATE reads ACTIVE again; the table is the old one. -/
def State.endDrain (s : State) : State :=
  ((s.wr K.routeState 0).mapDlv fun v => { v with drainBy := none, swapAt := none }).resumeHeld

/-- ROUTE_DRAIN (R264 step 2): FALSE, and a write while a drain runs, have no effect. -/
def execRouteDrain (o : Origin) (v : Nat) (s : State) : Res :=
  .next (s.command o K.routeDrain 0 fun s p =>
    match s.settle o p K.routeDrain 0 v with
    | (s1, v1, c) =>
      if v1 = 0 || s1.rd K.routeState ≠ 0 then (s1, .now Status.ok c [])
      else ((s1.wr K.routeState 1).mapDlv fun x => { x with drainAt := s1.now, drainBy := some o }, .later))

/-- No frame of this module is open, and no fence that was counting when the drain began. -/
def State.drainDone (s : State) : Bool :=
  (s.dlv.peers.all fun p => p.opens.isEmpty) &&
    s.req.txs.all fun t => !(t.acc = .fence && t.last && !t.closed && t.operand = 0)

/-- ROUTE_DRAINED (R264 step 4): the command answers OK. -/
def execRouteDrained (s : State) : Res :=
  .next (if s.rd K.routeState = 1 && s.drainDone then
      let s1 := (s.wr K.routeState 2).mapDlv fun v => { v with drainedAt := s.now, drainBy := none }
      match s.dlv.drainBy with
      | some o => s1.reply o Status.ok false []
      | none => s1
    else s)

/-- ROUTE_DRAIN_TIMEOUT (R264): not drained within 40 µs. -/
def execRouteDrainTimeout (s : State) : Res :=
  .next (if s.rd K.routeState = 1 && decide (s.dlv.drainAt + 50000 ≤ s.now) then
      match s.dlv.drainBy with
      | some o => (s.endDrain).reply o Status.timeout false []
      | none => s.endDrain
    else s)

/-- ROUTE_SWAP (R264 step 5): Ts from 100 µs to 10 ms ahead, on a DRAINED module; a shadow takes it once it has passed
(R393). -/
def execRouteSwap (o : Origin) (ts : Nat) (s : State) : Res :=
  .next (s.command o K.routeSwap 0 fun s _ =>
    let drained := s.rd K.routeState = 2 && (s.life.mstate ≠ .shadow || s.rd K.shadowResult = 2)
    if drained && decide (s.now + 125000 ≤ ts) && decide (ts ≤ s.now + 12500000) then
      (s.mapDlv fun v => { v with swapAt := some ts }, Done.ok)
    else (s, Done.refused))

/-- R360: on every entry into MEMBER, JOIN_MODE becomes SHADOW and is committed; the owner table starts empty (R83). The
flows of a comparison end with it. Log entry 59 (DESIGN CHOICE). -/
def State.enterMember (s : State) : State :=
  let s1 := if s.life.mstate = .shadow then
      (s.each s.stn.flows fun s f => s.removeFlow f.pid f.flow).mapShd fun h => { h with running := false }
    else s
  (((s1.enter .member).wr K.joinMode 0).touchRetained).clearOwners

/-- The pending bank becomes active. -/
def State.swapBanks (s : State) : State :=
  s.each (List.range 17) fun s d =>
    (s.wr (K.via1Active d) (s.viaRd (K.via1Pending d) d false)).wr (K.via2Active d) (s.viaRd (K.via2Pending d) d true)

/-- ROUTE_SWITCH (R264 step 6, R393): at Ts the pending bank becomes active, GEN inverts, held traffic resumes, and a
shadow that has passed enters MEMBER. -/
def execRouteSwitch (s : State) : Res :=
  .next (match s.dlv.swapAt with
    | none => s
    | some ts =>
      if s.now < ts then s
      else
        let s1 := (s.swapBanks).wr K.routeGen (1 - s.rd K.routeGen % 2)
        let s2 := if s1.life.mstate = .shadow && s1.rd K.shadowResult = 2 then s1.enterMember else s1
        ((s2.endDrain).notices).settleAll)

/-- ROUTE_SWAP_TIMEOUT (R264): no ROUTE_SWAP within 1 ms of DRAINED. -/
def execRouteSwapTimeout (s : State) : Res :=
  .next (if s.rd K.routeState = 2 && s.dlv.swapAt.isNone && decide (s.dlv.drainedAt + 1250000 ≤ s.now) then s.endDrain else s)

/-- The defaults of R253 in the pending bank. -/
def State.defaultVias (s : State) : State :=
  s.each (List.range 17) fun s d =>
    (s.wr (K.via1Pending d) (s.viaDef d false)).wr (K.via2Pending d) (s.viaDef d true)

/-- ROUTE_DEFAULT (R253). -/
def execRouteDefault (o : Origin) (v : Nat) (s : State) : Res :=
  .next (s.command o K.routeDefault 0 fun s p =>
    match s.settle o p K.routeDefault 0 v with
    | (s1, v1, c) => (if v1 = 1 then (s1.defaultVias).touchRetained else s1, .now Status.ok c []))

end Sys2Proof.Machine
end

