-- ==== Sys2Proof/Machine/Xlat.lean ====
section
/-! DEFINITION. The commands of translation and host access (chapter 2): walks, faults, RTC_INVAL, fault rings, CXL
windows, ATS, and what issues and answers requests (chapters 3 and 4). -/

namespace Sys2Proof.Machine

open Sys2Proof

/-! ### Issue and answer -/

/-- REQUEST_ISSUE (R105): part `part` of a waiting request issues, once its weir bucket holds bytes and its window has
room. -/
def execRequestIssue (tx part : Nat) (s : State) : Res := .next (s.tryIssue tx part).settleAll

/-- RESPONSE_ARRIVAL (R105): a response of the own home, or a RSP frame, closes its request. -/
def execResponseArrival (r : RspSrc) (s : State) : Res :=
  .next (match r with
    | .local pos =>
      match s.home.rsp[pos]? with
      | none => s
      | some a =>
        let s1 := s.mapHome fun x => { x with rsp := delAt x.rsp pos }
        (if a.tx = 0 then s1.ownerAnswer a.part a.status (flagWord a.data)
         else s1.respond a.tx a.part (statusSeen a.status) a.li a.data false).settleAll
    | .remote f => if f.kind = kRsp && f.dst = s.mid then (s.rspIn f).settleAll else s)

/-- FENCE_COMPLETE (R72). -/
def execFenceComplete (tx : Nat) (s : State) : Res := .next (s.fenceEnd tx).settleAll

/-- INVAL_COMPLETE (R68). -/
def execInvalComplete (tx : Nat) (s : State) : Res := .next (s.invalEnd tx).settleAll

/-! ### Walks (R41, R42, R44) -/

/-- The oldest miss of an EP that waits for a walker. -/
def State.nextMiss (s : State) (ep : Nat) : Option (Tx × Nat) :=
  s.req.txs.findSome? fun t =>
    if agentEp t.agent = ep then (match t.xst with
      | .missWait slot => some (t, slot)
      | _ => none)
    else none

/-- Let every waiting miss of a slot and partition join its walk. -/
def State.joinWalk (s : State) (ep pid slot : Nat) : State :=
  let p := fun (t : Tx) => agentEp t.agent = ep && t.pid = pid && t.xst = .missWait slot
  s.mapReq fun r => { r with txs := mapIf p (fun t => { t with xst := .walking slot }) r.txs }

/-- WALKER_FREE (R41): a free walker takes the next waiting miss. -/
def execWalkerFree (ep : Nat) (s : State) : Res :=
  .next (match s.nextMiss ep with
    | none => s
    | some (t, slot) =>
      if s.walkersBusy ep < 16 then
        ((s.mapXl fun x => { x with walks := x.walks ++ [⟨ep, t.pid, slot, false⟩] }).joinWalk ep t.pid slot).settleAll
      else s)

/-- The requests that a walk serves. -/
def State.onWalk (s : State) (ep pid slot : Nat) : List Nat :=
  (s.req.txs.filter fun t => agentEp t.agent = ep && t.pid = pid && t.xst = .walking slot).map Tx.id

/-- R382: an uncorrectable HBM error at `a` poisons the line and is logged. -/
def State.hbmError (s : State) (a pid : Nat) : State :=
  (s.setPoison (lineOf a)).logFault 0x0C (pseudoChannel a / 32) (pseudoChannel a) 5 Status.poison pid (s.mid * 2 ^ 51 + a)

/-- RTC_WALK_COMPLETE (R42, R44): the walk has read the tables; every request that waits on it goes on or faults. A walk
that an RTC_INVAL has caught starts afresh (R45). -/
def execRtcWalkComplete (ep pid slot : Nat) (uncorrectable : Bool) (s : State) : Res :=
  .next (match s.xl.walks.find? fun w => w.ep = ep && w.pid = pid && w.slot = slot with
    | none => s
    | some w =>
      if w.restart then
        s.mapXl fun x => { x with walks := mapIf (fun v => v = w) (fun v => { v with restart := false }) x.walks }
      else
        let e := s.walk ep pid (slot * 2 ^ 21)
        let s0 := if uncorrectable && e.leaf ≠ rootLeaf then s.hbmError e.leaf pid else s
        let s1 := s0.mapXl fun x => { x with walks := x.walks.erase w }
        let s2 := s1.each (s1.onWalk ep pid slot) fun s i => s.translate i (some slot)
        let s3 := if s2.xl.rtc.any fun r => r.ep = ep && r.pid = pid && r.slot = slot then s2.nodeFill ep pid e.path else s2
        s3.settleAll)

/-! ### Faults (R51, R52) -/

/-- Requests parked on a record. -/
def State.parkedOn (s : State) (rid pid : Nat) : List Tx :=
  s.req.txs.filter fun t => t.xst = .parked rid && t.pid = pid && !t.closed

/-- Take an open record of a partition away. -/
def State.closeRec (s : State) (rid pid : Nat) : State :=
  s.mapXl fun x => { x with recs := x.recs.filter fun r => !(r.rid = rid && r.pid = pid) }

def State.openRec (s : State) (rid pid : Nat) : Option FaultRec := s.xl.recs.find? fun r => r.rid = rid && r.pid = pid

/-- FAULT_RESOLVE with RETRY (R51): every parked request is translated again. -/
def execFaultResolveRetry (o : Origin) (pid recId : Nat) (s : State) : Res :=
  .next (s.mailCommand o pid false fun s _ =>
    match s.openRec recId pid with
    | none => (s, Done.refused)
    | some _ =>
      let ts := s.parkedOn recId pid
      (((s.closeRec recId pid).each ts fun s t => (s.setTx { t with xst := .ready }).translate t.id none).settleAll, Done.ok))

/-- FAULT_RESOLVE with FAIL (R51): every parked request completes with the record's STATUS. -/
def execFaultResolveFail (o : Origin) (pid recId : Nat) (s : State) : Res :=
  .next (s.mailCommand o pid false fun s _ =>
    match s.openRec recId pid with
    | none => (s, Done.refused)
    | some r =>
      let ts := s.parkedOn recId pid
      (((s.closeRec recId pid).each ts fun s t => s.completeTx t r.status).settleAll, Done.ok))

/-- FAULT_RING_BASE or FAULT_RING_ENTRIES (sub-index 1 or 2) is written (R52): the ring starts anew. -/
def execFaultRingReset (o : Origin) (pid sub v : Nat) (s : State) : Res :=
  .next (let k := if sub = 1 then K.faultRingBase pid else K.faultRingEntries pid
    s.command o k pid fun s p =>
      match s.settle o p k 0 v with
      | (s1, v1, c) =>
        let s2 := ((s1.wr k v1).wr (K.faultRingHead pid) 0).wr (K.faultRingTail pid) 0
        (s2.mapXl fun x => { x with
          phase := mput x.phase pid 1
          recs := x.recs.map fun r => if r.pid = pid then { r with inRing := false } else r }, .now 0 c []))

/-- R52: TAIL has moved; W4 of a record whose slot it has passed is never written again, whatever the slot holds later. -/
def State.ringConsumed (s : State) (pid : Nat) : State :=
  s.mapXl fun x => { x with
    recs := x.recs.map fun r => if r.pid = pid then { r with inRing := r.inRing && s.unconsumed pid r.slot } else r }

/-- FAULT_RING_TAIL is written (R52): records are consumed. -/
def execFaultRingTail (o : Origin) (pid v : Nat) (s : State) : Res :=
  .next (s.command o (K.faultRingTail pid) pid fun s p =>
    let r := s.writePlain o p (K.faultRingTail pid) (s.rd (K.faultRingEntries pid) - 1) v
    (r.1.ringConsumed pid, r.2))

/-! ### RTC_INVAL (R45) -/

/-- The span names this partition. -/
def invNames (i : InvalOp) (pid : Nat) : Bool := i.span = .all || pid = i.pid

/-- The span overlaps `[lo, hi)`. -/
def invMeets (i : InvalOp) (lo hi : Nat) : Bool :=
  match i.span with
  | .range b n => decide (lo < b + n * 4096) && decide (b < hi)
  | .pidAll => true
  | .all => true

/-- A request of these EPs that has been translated through an invalidated entry: one whose descriptor overlaps the span. -/
def invTouches (i : InvalOp) (t : Tx) : Bool :=
  i.epmask.testBit (agentEp t.agent) && (invNames i) t.pid && !t.closed &&
    t.parts.any fun p => p.spans.any fun d => invMeets i d.1 d.2

/-- R45 steps 1 and 2: what is dropped at once, and which walks must end. -/
def State.invalApply (s : State) (i : InvalOp) : State :=
  let on := fun ep pid => i.epmask.testBit ep && (invNames i) pid
  let s1 := s.mapXl fun x => { x with
    rtc := x.rtc.filter fun e => !(on e.ep e.pid && (invMeets i) (e.d.start * 4096) ((e.d.start + e.d.len) * 4096))
    nodes := x.nodes.filter fun e => !on e.ep e.pid
    walks := x.walks.map fun w =>
      if on w.ep w.pid && (invMeets i) (w.slot * 2 ^ 21) ((w.slot + 1) * 2 ^ 21) then { w with restart := true } else w }
  s1.reachDrop fun ep pid l => on ep pid && (invMeets i) (64 * l) (64 * l + 64)

/-- RTC_INVAL (R45). R30 refuses a base beyond FVA[56:0]. For a base that is not 4 KiB-aligned the spec gives no outcome; the
model refuses it (log entry 63, DESIGN CHOICE). -/
def execRtcInval (o : Origin) (i : InvalOp) (s : State) : Res :=
  .next (s.mailCommand o i.pid false fun s p =>
    let bad := match i.span with
      | .range b _ => b % 4096 ≠ 0 || decide (2 ^ 57 ≤ b)
      | .pidAll => false
      | .all => false
    if (i.span = .all && p ≠ 0) || bad then (s, Done.refused)
    else
      let ts := (s.req.txs.filter (invTouches i)).map Tx.id
      let iss := (s.req.txs.filter fun t => (invTouches i) t && !t.allIssued).map Tx.id
      let run : InvalRun := ⟨s.nextId, o, i, iss, if i.drain then ts else []⟩
      ((s.invalApply i).fresh.mapXl fun x => { x with invals := x.invals ++ [run] }, .later))

/-- A transaction has ended. -/
def State.txEnded (s : State) (id : Nat) : Bool :=
  match s.txOf id with
  | none => true
  | some t => t.closed

/-- A transaction has ended or has been issued whole. -/
def State.txIssued (s : State) (id : Nat) : Bool :=
  match s.txOf id with
  | none => true
  | some t => t.closed || t.allIssued

/-- RTC_INVAL_COMPLETE (R45). -/
def execRtcInvalComplete (id : Nat) (s : State) : Res :=
  .next (match s.xl.invals.find? fun r => r.id = id with
    | none => s
    | some r =>
      let walking := s.xl.walks.any fun w => w.restart && r.op.epmask.testBit w.ep && (invNames r.op) w.pid
      if !walking && r.issueWait.all s.txIssued && r.doneWait.all s.txEnded then
        (s.mapXl fun x => { x with invals := x.invals.filter fun v => v.id ≠ id }).reply r.origin Status.ok false []
      else s)

/-! ### Host windows (R54, R55, R63) -/

/-- The window of a CP takes requests: host mode, link up, CXL.mem enabled, a partition assigned, not confidential. -/
def State.windowOn (s : State) (cp : Nat) : Bool :=
  s.rd (K.cpMode cp) = 1 && (s.cport cp).up && (s.cport cp).memOn && s.rd (K.conf cp) = 0 && s.rd (K.winPid cp) ≠ 0 &&
    s.epUp cp && s.inService

/-- The FVA of an HPA in the window (R55). -/
def State.windowFva (s : State) (cp hpa : Nat) : Option Nat :=
  let b := s.rd (K.hdmBase cp)
  if b ≤ hpa && hpa < b + s.hdmCapacity cp then some (s.rd (K.winFva cp) + (hpa - b)) else none

/-- CXL_MEM_REQUEST (R63): a relaxed access of RACK scope by the window's agent. An FVA that leaves FVA[56:0] is not translated
(R30). -/
def execCxlMemRequest (cp : Nat) (wr wantM : Bool) (hpa : Nat) (data : List Byte) (s : State) : Res :=
  .next (match if s.windowOn cp then s.windowFva cp (hpa / 64 * 64) else none with
    | none => s
    | some fva =>
      if 2 ^ 57 ≤ fva then s.hostAnswer cp hpa wr Status.refused []
      else
      let pid := s.rd (K.winPid cp)
      let own := s.rd (K.winOwner cp)
      let s0 := match s.agentOf (.window cp) with
        | some a => if a.pid = pid then s else s.addAgent (.window cp) pid own
        | none => s.addAgent (.window cp) pid own
      ((s0.epEv cp 0x201 pid 1).openAccess { Tx.blank with
        agent := .window cp, pid := pid, owner := own, dest := .host cp hpa, acc := if wr then .store else .load
        wide := wantM, scope := 2, fromHost := true, addr := fva, len := 64
        data := if wr then fitTo 64 data else [] }).settleAll)

/-! ### ATS (R56, R57) -/

/-- A descriptor in progress of an EP uses host addresses of the range: its reads until the copy has ended, its writes until
they have gone out with the completion of the descriptor. -/
def State.dmaUses (s : State) (cp base len : Nat) : Bool :=
  s.ep.queues.any fun q => q.ep = cp && q.runs.any fun r =>
    (!s.runEnded r && descSsp r.words = 1 && decide (r.words.getD 1 0 < base + len) &&
        decide (base < r.words.getD 1 0 + descLen r.words)) ||
      (descDsp r.words = 1 && decide (r.words.getD 2 0 < base + len) && decide (base < r.words.getD 2 0 + descLen r.words))

/-- Complete every ATS invalidation whose DMA have ended. -/
def State.atsSettle (s : State) : State :=
  s.each s.req.atsInv fun s a =>
    if s.dmaUses a.cp a.base a.len then s
    else (s.mapReq fun r => { r with atsInv := r.atsInv.erase a }).emit (.atsDone a.cp a.base)

/-- ATS_INVALIDATION (R57): the translation is dropped; the request completes once no DMA uses it. -/
def execAtsInvalidation (cp base len : Nat) (s : State) : Res :=
  .next (if s.epUp cp then
    (s.mapReq fun r => { r with
      ats := r.ats.filter fun e => !(e.cp = cp && decide (e.base < base + len) && decide (base < e.base + e.len))
      atsInv := r.atsInv ++ [⟨cp, base, len, false, false⟩] }).atsSettle
  else s)

end Sys2Proof.Machine
end

