-- ==== Sys2Proof/Machine/Ep.lean ====
section
/-! DEFINITION. The commands of the end-point (chapter 12): CAP messages, contexts, copy queues, counters, export memory,
attach streams and bounce sessions. -/

namespace Sys2Proof.Machine

open Sys2Proof

/-! ### CAP requests (R297 to R302, R412) -/

/-- BLD (R412): a 256-byte burst load. -/
def execBld (m : CapMsg) (s : State) : Res := .next (s.capRequest mtBLD m).settleAll

/-- BST (R412): a 256-byte burst store. -/
def execBst (m : CapMsg) (s : State) : Res := .next (s.capRequest mtBST m).settleAll

/-- TRD (R301): a tile read. -/
def execTrd (m : CapMsg) (s : State) : Res := .next (s.capRequest mtTRD m).settleAll

/-- TWR (R301): the descriptor of a tile write. -/
def execTwr (m : CapMsg) (s : State) : Res := .next (s.capRequest mtTWR m).settleAll

/-- TWD (R301): data of a tile write. -/
def execTwd (m : CapMsg) (s : State) : Res := .next (s.capRequest mtTWD m).settleAll

/-- HINT HOT (R89). -/
def execHintHot (m : CapMsg) (s : State) : Res := .next (s.capRequest mtHINT { m with sub := 1 }).settleAll

/-- HINT WARM (R89). -/
def execHintWarm (m : CapMsg) (s : State) : Res := .next (s.capRequest mtHINT { m with sub := 2 }).settleAll

/-- HINT COLD (R89). Log entry 35 (DEDUCED). -/
def execHintCold (m : CapMsg) (s : State) : Res := .next (s.capRequest mtHINT { m with sub := 3 }).settleAll

/-- HINT EVICT (R90). -/
def execHintEvict (m : CapMsg) (s : State) : Res := .next (s.capRequest mtHINT { m with sub := 4 }).settleAll

/-- HINT PIN (R91). -/
def execHintPin (m : CapMsg) (s : State) : Res := .next (s.capRequest mtHINT { m with sub := 5 }).settleAll

/-- DOORBELL (R310). -/
def execDoorbell (m : CapMsg) (s : State) : Res := .next (s.capRequest mtDOORBELL m).settleAll

/-- CTRWAIT (R314). -/
def execCtrwait (m : CapMsg) (s : State) : Res := .next (s.capRequest mtCTRWAIT m).settleAll

/-- CTRSET (R313). -/
def execCtrset (m : CapMsg) (s : State) : Res := .next (s.capRequest mtCTRSET m).settleAll

/-- CTRWAIT_TIMEOUT (R314): the timeout of a pending wait has passed. -/
def execCtrwaitTimeout (ep ctx tag : Nat) (s : State) : Res :=
  .next (match s.ep.waits.find? fun w => w.ep = ep && w.ctx = ctx && w.tag = tag with
    | none => s
    | some w => if w.deadline ≠ 0 && w.deadline ≤ s.now then (s.endWait w Status.timeout).settleAll else s)

/-! ### Attach streams (R304, R305) -/

def capFlow (m : CapMsg) : Nat := bits m.addr 63 48
def capSid (m : CapMsg) : Nat := bits m.addr 47 32

/-- The port takes a message of the STRM pool, which leaves its buffer at once. -/
def State.strmBack (s : State) (m : CapMsg) (limit : Nat) : State :=
  if s.capOn m.port && epOfPort m.port = m.ep && decide (capUnits m ≤ limit) then s.capReturn (s.bondOf m.port) 1 (capUnits m) else s

/-- A message of the STRM pool from a context that may send it. -/
def State.strmCtx (s : State) (m : CapMsg) (limit : Nat) : Option Ctx :=
  if s.capOn m.port && s.inService && epOfPort m.port = m.ep && decide (capUnits m ≤ limit) then
    (s.ctxOf m.ep m.ctx).filter fun c => c.port = s.bondOf m.port && c.cstate = .bound && s.pstate c.pid = 1
  else none

/-- R119, R304: an SPUT that may not come is dropped and counted, and its flow aborts with REFUSED. -/
def State.strayPut (s : State) (pid flow : Nat) : State :=
  (s.bump (K.strayTiles pid) 1).failFlow pid flow Status.refused noStation

/-- SPUT (R304): part of a tile from an attach producer. An offset out of order counts as an SPUT that may not come.
Log entry 70 (DESIGN CHOICE). -/
def execSput (m : CapMsg) (s0 : State) : Res :=
  let s := s0.strmBack m 64
  .next (match s.strmCtx m 64 with
    | none => if 64 < capUnits m then s.bump (K.protocolErrors m.ep) 1 else s
    | some c =>
      let fl := capFlow m
      let sd := capSid m
      match s.flowGet c.pid fl, s.strmGet c.pid fl sd with
      | some f, some st =>
        if f.fst = .done || f.fst = .aborted then s.bump (K.strayTiles c.pid) 1
        else if st.prod.isSome || st.pmid ≠ s.mid || st.pep ≠ c.ep || st.pctx ≠ c.n || st.pcredits = 0 || st.fin ||
            m.arg ≠ st.putBuf.length then
          (s.strayPut c.pid fl).settleAll
        else
          let buf := st.putBuf ++ m.data
          if !m.last then s.setStrm c.pid fl sd fun t => { t with putBuf := buf }
          else
            let t := Tile.ofPacked buf
            let s1 := s.setStrm c.pid fl sd fun t => { t with putBuf := [], pcredits := t.pcredits - 1 }
            (s1.putTile c.pid fl sd { t with poison := t.poison || m.poi }).settleAll
      | _, _ => s.bump (K.strayTiles c.pid) 1)

/-- SCRED (R305): an attach consumer grants credits. The first DEPTH open the stream; each later one returns a tile's
credit. -/
def execScred (m : CapMsg) (s0 : State) : Res :=
  let s := s0.strmBack m 0
  .next (match s.strmCtx m 0 with
    | none => if 0 < capUnits m then s.bump (K.protocolErrors m.ep) 1 else s
    | some c =>
      let fl := capFlow m
      let sd := capSid m
      match s.strmGet c.pid fl sd with
      | none => s
      | some st =>
        match st.cons.find? fun k => k.station.isNone && k.mid = s.mid && k.ep = c.ep && k.ctx = c.n with
        | none => s
        | some k =>
          let n := m.arg % 2 ^ 16
          let first := min n (st.depth - k.got)
          let s1 := s.setCons c.pid fl sd k.idx fun k => { k with grant := k.grant + n, got := k.got + first }
          let s2 := s1.each (List.range (n - first)) fun s _ => s.creditBack c.pid fl sd k.idx 0
          (s2.pumpAttach c.pid fl sd k.idx n).settleAll)

/-! ### Export memory (R303) -/

/-- XRSP (R303): the attach design answers an export request; a late answer is dropped. -/
def execXrsp (m : CapMsg) (s : State) : Res :=
  .next (if !s.capOn m.port || epOfPort m.port ≠ m.ep then s
    else if 64 < capUnits m then s.bump (K.protocolErrors m.ep) 1
    else match s.home.exps.find? fun e => e.ep = m.ep && e.ctx = m.ctx && e.xid % 65536 = m.tag with
    | none => s
    | some e =>
      let s1 := s.mapHome fun x => { x with exps := x.exps.erase e }
      let st := statusSeen m.status
      let st1 := if st = Status.ok && m.poi && !isWrite e.h.f then Status.poison else st
      (s1.homeAnswer e.h st1 (s1.loadIndicator e.h) (if isWrite e.h.f then [] else if isAtomic e.h.f then m.data.take (atomBytes e.h.f)
        else m.data)).settleAll)

/-- EXPORT_TIMEOUT (R303): no answer for 20 µs. -/
def execExportTimeout (xid : Nat) (s : State) : Res :=
  .next (match s.home.exps.find? fun e => e.xid = xid with
    | none => s
    | some e =>
      if e.since + 25000 ≤ s.now then
        (((s.mapHome fun x => { x with exps := x.exps.erase e }).bump (K.exportTimeouts e.ep) 1).homeAnswer e.h Status.timeout
          (s.loadIndicator e.h) []).settleAll
      else s)

/-! ### Contexts (R307, R308) -/

/-- CTX_BOUND of an EP. -/
def State.noteBound (s : State) (ep : Nat) : State :=
  s.wr (K.ctxBound ep) (s.ep.ctxs.filter fun c => c.ep = ep).length

/-- CTX_BIND (R307): from PID 0 only, and not on the analysis port (R245). A daily check of the port waits (R285). -/
def execCtxBind (o : Origin) (b : BindOp) (s : State) : Res :=
  .next (s.mailCommand o b.pid true fun s _ =>
    if 4 ≤ b.ep || 1024 ≤ b.ctx || 16 ≤ b.port || epOfPort b.port ≠ b.ep || s.bondOf b.port ≠ b.port || 63 < b.pid ||
        2 ^ 38 < b.expSize || b.expSize % 2 ^ 21 ≠ 0 || (s.ctxOf b.ep b.ctx).isSome || s.pstate b.pid ≠ 1 || !s.epUp b.ep ||
        s.analysis = some (16 + b.port) then
      (s, Done.refused)
    else
      let c : Ctx := ⟨b.ep, b.ctx, b.port, b.pid, b.owner % 65536, b.expSize,
        if s.apUp b.port then .bound else .detached, none, []⟩
      ((((s.setAp b.port fun p => { p with dayTest := p.dayTest.map fun _ => 99 }).mapEp fun e => { e with ctxs := e.ctxs ++ [c] }).addAgent (.ctx b.ep b.ctx) b.pid (b.owner % 65536)).noteBound b.ep,
        Done.ok))

/-- CTX_UNBIND (R308). -/
def execCtxUnbind (o : Origin) (ep ctx : Nat) (s : State) : Res :=
  .next (s.mailCommand o 0 true fun s _ =>
    match s.ctxOf ep ctx with
    | none => (s, Done.refused)
    | some c =>
      if c.unbind.isSome then (s, Done.refused)
      else (s.setCtx ep ctx fun c => { c with unbind := some o }, .later))

/-- Forget a context. -/
def State.dropCtx (s : State) (ep ctx : Nat) : State :=
  let s1 := s.mapEp fun e => { e with
    ctxs := e.ctxs.filter fun c => !(c.ep = ep && c.n = ctx), mbxCtx := e.mbxCtx.filter fun c => c ≠ (ep, ctx) }
  (s1.mapReq fun r => { r with agents := r.agents.filter fun a => a.agent ≠ .ctx ep ctx }).noteBound ep

/-- CTX_UNBIND_COMPLETE (R308): no transaction of the context is open. Log entry 46 (DEDUCED). -/
def execCtxUnbindComplete (ep ctx : Nat) (s : State) : Res :=
  .next (match s.ctxOf ep ctx with
    | none => s
    | some c =>
      match c.unbind with
      | none => s
      | some o => if (s.ctxOpen ep ctx).isEmpty then ((s.reply o Status.ok false []).dropCtx ep ctx).apQualDue c.port else s)

/-! ### Copy queues (R309 to R313) -/

/-- QUEUE_SETUP (R309, R30). -/
def execQueueSetup (o : Origin) (q : QueueOp) (s : State) : Res :=
  .next (s.mailCommand o q.pid false fun s _ =>
    if 4 ≤ q.ep || 64 ≤ q.q || 63 < q.pid || !([16, 32, 64, 128, 256, 512, 1024, 2048, 4096, 8192, 16384, 32768, 65536].contains q.entries) ||
        (!q.hostSpace && (decide (2 ^ 57 ≤ q.descBase) || decide (2 ^ 57 ≤ q.compBase))) ||
        (s.queueOf q.ep q.q).isSome || s.pstate q.pid ≠ 1 || !s.epUp q.ep then (s, Done.refused)
    else
      let x : Queue := ⟨q.ep, q.q, q.pid, q.owner % 65536, q.hostSpace, q.descBase, q.entries, q.compBase, 0, 0, true, false, none, []⟩
      ((s.mapEp fun e => { e with queues := e.queues ++ [x] }).addAgent (.queue q.ep q.q) q.pid (q.owner % 65536), Done.ok))

/-- The PID that a queue serves, 64 when there is none. -/
def State.queuePid (s : State) (ep q : Nat) : Nat := ((s.queueOf ep q).map Queue.pid).getD 64

/-- QUEUE_RESET (R317): the queue stops; the command completes when its descriptors have. -/
def execQueueReset (o : Origin) (ep q : Nat) (s : State) : Res :=
  .next (s.mailCommand o (s.queuePid ep q) false fun s _ =>
    match s.queueOf ep q with
    | none => (s, Done.refused)
    | some x =>
      if x.reset.isSome then (s, Done.refused)
      else (((s.setQueue ep q fun y => { y with reset := some o }).queueStop ep q).settleAll, .later))

/-- QUEUE_TAIL (R310). -/
def execQueueTail (o : Origin) (ep q tail : Nat) (s : State) : Res :=
  .next (s.mailCommand o (s.queuePid ep q) false fun s _ =>
    let r := s.setTail ep q tail
    (r.1, Done.st r.2))

/-- Copy descriptors in progress on an EP. -/
def State.epRuns (s : State) (ep : Nat) : Nat :=
  (s.ep.queues.filter fun q => q.ep = ep).foldl (fun n q => n + (q.runs.filter fun r => !r.halted).length) 0

/-- The descriptor at the head: read from local memory where the ring lies there, else as `desc` brings it. -/
def State.headDesc (s : State) (q : Queue) (desc : List Nat) : List Nat :=
  let a := q.descBase + 64 * q.head
  if q.hostSpace then desc
  else
    match (s.walk q.ep q.pid a).got with
    | some d => if fpaHome (d.map a) = s.mid then (List.range 8).map fun i => s.word (fpaLocal (d.map a) + 8 * i) else desc
    | none => desc

/-- What stops a descriptor before it moves a byte: malformed, host space without a session, a failed or worn-out session,
an RX slot out of order. -/
def State.descStop (s : State) (q : Queue) (d : List Nat) (dma : ReadBack) : Option Nat :=
  let host := descSsp d = 1 || descDsp d = 1
  if 1 < descSsp d || 1 < descDsp d || d.getD 2 0 % 64 ≠ 0 ||
      (d.getD 1 0 % 64 ≠ 0 && !(descSsp d = 1 && s.rd (K.conf q.ep) = 1)) then some Status.refused
  else if (descSsp d = 0 && decide (2 ^ 57 ≤ d.getD 1 0)) || (descDsp d = 0 && decide (2 ^ 57 ≤ d.getD 2 0)) then some Status.refused
  else if host && s.rd (K.conf q.ep) = 1 then
    match s.bounceOf q.pid q.ep with
    | none => some Status.refused
    | some b =>
      if b.failed then some Status.checkFail
      else if 2 ^ 32 ≤ b.txSeq || 2 ^ 32 ≤ b.rxSeq then some Status.refused
      else if descSsp d = 1 && (d.getD 1 0 ≠ b.rxSeq || (match dma with
          | .failed _ => true
          | .ok _ => false)) then some Status.checkFail
      else none
  else if descSsp d = 1 then
    match dma with
    | .failed st => some (statusSeen st)
    | .ok _ => none
  else none

/-- A page size and alignment of ATS (R56): 4 KiB to 1 GiB. -/
def atsOk (p : AtsPage) : Bool :=
  ((List.range 19).any fun i => p.len = 4096 * 2 ^ i) && p.base % p.len = 0

/-- The EP holds a translation, in place of any it holds for the same addresses; past 1,024 it gives up the oldest.
Log entry 63 (DESIGN CHOICE). -/
def State.atsHold (s : State) (cp : Nat) (p : AtsPage) : State :=
  s.mapReq fun r =>
    let keep := r.ats.filter fun e => !(e.cp = cp && decide (e.base < p.base + p.len) && decide (p.base < e.base + e.len))
    let mine := keep.filter fun e => e.cp = cp
    let old := if 1024 ≤ mine.length then mine.take 1 else []
    { r with ats := (keep.filter fun e => !old.contains e) ++ [⟨cp, p.base, p.len, p.rd, p.wr⟩] }

/-- The status of an access to host addresses through the translations held (R56), none when each page is held with the
permission. -/
def State.atsStatus (s : State) (cp base len : Nat) (wr : Bool) : Option Nat :=
  let first := base / 4096
  ((List.range ((base + len - 1) / 4096 + 1 - first)).map fun i => first + i).findSome? fun k =>
    match s.req.ats.find? fun e => e.cp = cp && decide (e.base ≤ 4096 * k) && decide (4096 * k < e.base + e.len) with
    | none => some Status.unmapped
    | some e => if (if wr then e.wr else e.rd) then none else some Status.perm

/-- The host side of a descriptor: start and whether it is written. A confidential host is reached through its session alone. -/
def State.hostSpans (s : State) (q : Queue) (d : List Nat) : List (Nat × Bool) :=
  if s.rd (K.conf q.ep) = 1 || !(s.cport q.ep).atsOn then []
  else (if descSsp d = 1 then [(d.getD 1 0, false)] else []) ++ (if descDsp d = 1 then [(d.getD 2 0, true)] else [])

/-- R56: the EP asks the host for the translations that it needs; `ats` are the pages that the host answers with. A refused one
stops the descriptor. With ATS disabled it asks for none. -/
def State.descAts (s : State) (q : Queue) (d : List Nat) (ats : List AtsPage) : State × Option Nat :=
  let spans := s.hostSpans q d
  let asked := fun (p : AtsPage) => spans.any fun x => atsOk p && decide (p.base < x.1 + descLen d) && decide (x.1 < p.base + p.len) &&
    (s.atsStatus q.ep x.1 (descLen d) x.2).isSome
  let s1 := s.each (ats.filter asked) fun s p => s.atsHold q.ep p
  (s1, spans.findSome? fun x => s1.atsStatus q.ep x.1 (descLen d) x.2)

/-- R321: a bad RX slot fails the session; good ones advance it. -/
def State.noteRx (s : State) (q : Queue) (d : List Nat) (stop : Option Nat) : State :=
  if s.rd (K.conf q.ep) = 1 && descSsp d = 1 then
    match s.bounceOf q.pid q.ep with
    | none => s
    | some b =>
      if stop = some Status.checkFail && !b.failed then
        (s.bump (K.bounceAuthFails q.ep) 1).setBounce q.pid q.ep fun x => { x with failed := true }
      else if stop.isNone then
        (s.setBounce q.pid q.ep fun x => { x with rxSeq := x.rxSeq + descChunks d }).emit
          (.dma b.op.cp (b.op.control + 24) (leBytes 8 (b.rxSeq + descChunks d)))
      else s
  else s

/-- COPY_DESCRIPTOR_START (R310): the next descriptor of a queue is read, with an acquire of RACK scope, and its source and
destination are translated whole. `desc` gives the words that a read outside this module brings, `host` the bytes
that a read of host memory brings and the pages that the host's translation unit answers with (R56). -/
def execCopyDescriptorStart (ep q : Nat) (desc : List Nat) (host : HostAnswer) (s : State) : Res :=
  .next (match s.queueOf ep q with
    | none => s
    | some x =>
      if x.stopped || x.head = x.tail || !s.inService || !s.epUp ep || decide (8 ≤ x.runs.length) || decide (256 ≤ s.epRuns ep) then s
      else
        let d := s.headDesc x desc
        if descFence d && !x.runs.isEmpty then s
        else
          let s0 := s.reachClear ep x.pid
          let at_ := if (s0.descStop x d (.ok [])).isNone then s0.descAts x d host.ats else (s0, none)
          let stop := at_.2.or (s0.descStop x d host.rd)
          let nh := (x.head + 1) % x.entries
          let run := fun tx st => (⟨x.head, d, tx, st, x.phase, 0, false, 0⟩ : CopyRun)
          let adv := fun (s : State) (r : CopyRun) => s.setQueue ep q fun y => { y with
            head := nh, phase := if nh = 0 then !y.phase else y.phase, runs := y.runs ++ [r] }
          let s1 := at_.1.noteRx x d stop
          match stop with
          | some st => adv s1 (run 0 st)
          | none =>
            let r := (s1.epEv ep 0x201 x.pid 1).openTx { Tx.blank with
              agent := .queue ep q, pid := x.pid, owner := x.owner, dest := .copyQ ep q x.head, acc := .copy
              sub := 2 * descSsp d + descDsp d, scope := 2, addr := d.getD 1 0, dst := d.getD 2 0, len := descLen d
              data := match host.rd with
                | .ok b => if descSsp d = 1 then fitTo (descLen d) b else []
                | .failed _ => [] }
            ((adv r.1 (run r.2 0)).translate r.2 none).settleAll)

/-- COPY_DESCRIPTOR_COMPLETE (R311, R320, R321): the record of a descriptor whose parts have all ended. Towards a confidential host its
chunks go through the TX ring first, as far as the guest's TX_TAIL (`e.tail`) leaves room. Log entry 19 (DESIGN CHOICE). -/
def execCopyDescriptorComplete (ep q : Nat) (e : CopyEnd) (s : State) : Res :=
  .next (match s.queueOf ep q with
    | none => s
    | some x =>
      match x.runs.find? fun r => r.idx = e.idx with
      | none => s
      | some r => if s.runEnded r then (((s.takeTail x e.tail).runOn x r).atsSettle).settleAll else s)

/-! ### Arrival counters (R313) -/

/-- COUNTER_ADVANCE (R313): an advance of another module arrives in TC0. -/
def execCounterAdvance (ep ctr pid : Nat) (s : State) : Res :=
  .next (if s.epUp ep then (s.advanceCtr ep ctr pid).settleAll else s)

/-- CTR_BIND (R313, R317): from PID 0 only. -/
def execCtrBind (o : Origin) (ep ctr pid : Nat) (s : State) : Res :=
  .next (s.mailCommand o pid true fun s _ =>
    if 4 ≤ ep || 4096 ≤ ctr || 63 < pid then (s, Done.refused)
    else if (s.ctrOf ep ctr).isSome then
      (s.mapEp fun e => { e with ctrs := mapIf (fun c => c.ep = ep && c.n = ctr) (fun c => { c with pid := pid }) e.ctrs }, Done.ok)
    else (s.mapEp fun e => { e with ctrs := e.ctrs ++ [⟨ep, ctr, pid, 0, 0⟩] }, Done.ok))

/-! ### Bounce sessions (R319, R320) -/

/-- The key slot of a partition that holds a KEY_ID of kind HOSTBUS. -/
def State.hasHostKey (s : State) (pid keyId : Nat) : Bool :=
  (List.range 8).any fun i => decide (2 ≤ i) && bits (s.rd (K.keySlot pid i)) 15 12 = 3 && bits (s.rd (K.keySlot pid i)) 31 16 = keyId

/-- SESSION_SETUP (R320): a bounce session of a confidential host, under a key that no session has used yet (R321). -/
def execSessionSetup (o : Origin) (b : BounceOp) (s : State) : Res :=
  .next (s.mailCommand o b.pid false fun s _ =>
    if 4 ≤ b.cp || s.rd (K.conf b.cp) ≠ 1 || s.pstate b.pid ≠ 1 || !s.hasHostKey b.pid b.keyId || s.ep.usedKeys.contains b.keyId ||
        !([16, 32, 64, 128, 256, 512, 1024, 2048, 4096].contains b.slots) then (s, Done.refused)
    else (s.mapEp fun e => { e with
      bounces := (e.bounces.filter fun x => !(x.op.pid = b.pid && x.op.cp = b.cp)) ++ [⟨b, 0, 0, false, 0⟩]
      usedKeys := e.usedKeys ++ [b.keyId] }, Done.ok))

end Sys2Proof.Machine
end

