-- ==== Sys2Proof/Machine/Links.lean ====
section
/-! DEFINITION. The commands of ports (chapter 11, and R291 to R294 of chapter 12): training, keys, lanes, idle, test
patterns, qualification, CXL ports, flits. -/

namespace Sys2Proof.Machine

open Sys2Proof

/-! ### Training (R21, R274 to R277) -/

/-- Hold reasons (Table LNK-9). -/
abbrev hrNone : Nat := 0
abbrev hrMiswired : Nat := 1
abbrev hrIdentity : Nat := 2
abbrev hrStepping : Nat := 3
abbrev hrDuplicate : Nat := 4
abbrev hrTrainFail : Nat := 5
abbrev hrOperator : Nat := 6

/-- A fabric port that may train: used in this mesh, not held by the operator, on a working optical die, while no qualification run has
the lanes. Without the light of a peer it stays dark (R21). -/
def State.fpMayTrain (s : State) (n : Nat) : Bool :=
  s.fabricLive && decide (n + 1 < s.meshN) && decide (n < 16) && s.rd (K.fpAdmin n) = 1 && !s.lnk.oeDead.contains (n / 2) &&
    !s.lnk.qualRun && (s.fport n).light

/-- W0 and W1 of an identity record (Table LNK-5). -/
def idWords (r : IdRecord) : Nat × Nat :=
  (fld r.mid 5 59 ||| fld r.meshN 5 54 ||| fld r.port 4 50 ||| fld r.order 2 48 ||| fld r.stepping 8 40 |||
    fld r.mstate 4 36, fld r.idhash 48 16 ||| fld r.chk 16 0)

/-- CHK of a record: CRC-16 over W0, then bytes 2 to 7 of W1. -/
def recordChk (w0 w1 : Nat) : Nat := crc16 (leBytes 8 w0 ++ (leBytes 8 w1).drop 2)

/-- The first 48 bits of the SHA-384 of the attestation public key. -/
def ownIdHash : Nat := ((sha384 deviceKeyBytes).take 6).foldl (fun n b => 256 * n + b.toNat) 0

/-- The record that this module sends on port `n` (R275, R3, R4): its order code and stepping B0 among the fields. -/
def State.ownIdentity (s : State) (n : Nat) : Nat × Nat :=
  let r : IdRecord := ⟨s.mid, s.meshN, n, b2n s.life.order768, 0xB0, s.life.mstate.code, ownIdHash, 0, 0⟩
  let w := idWords r
  (w.1, w.2 ||| fld (recordChk w.1 w.2) 16 0)

/-- A port begins the phases of Table LNK-4, and repeats its identity record in phase 3. Lanes that a crossed fibre reported are judged
anew. Log entry 20 (DEDUCED). -/
def State.fpStart (s : State) (n phase : Nat) : State :=
  let s1 := if s.rd (K.fpHoldReason n) = hrMiswired then s.wr (K.fpLaneFailed n) 0 else s
  let w := s.ownIdentity n
  (((s1.wr (K.fpState n) psTraining).wr (K.fpHoldReason n) hrNone).setFp n fun p => { p with
    phase := phase, laser := true, keyed := false, agreeing := false, dayTest := none, idle := false }).emit (.identity n w.1 w.2)

/-- An attach bond may train: its lowest port is named, its EP works, it is not the analysis port. -/
def State.apMayTrain (s : State) (b : Nat) : Bool :=
  s.attachLive && decide (b < 16) && s.bondOf b = b && s.epUp (epOfPort b) && s.analysis ≠ some (16 + b) && !s.lnk.qualRun

/-- Ports of a bond. -/
def State.bondMembers (s : State) (b : Nat) : List Nat := (List.range 16).filter fun a => s.bondOf a = b

/-- Every lane of an attach port is good: none failed (R279), none has a DC fault (R272). -/
def State.apSound (s : State) (a : Nat) : Bool := s.rd (K.apLaneFailed a) = 0 && s.rd (K.apDcFault a) = 0

/-- The members of a bond that form its widest whole width (R18, R279). -/
def State.widest (s : State) (b : Nat) : List Nat :=
  let ok := (s.bondMembers b).filter s.apSound
  if ok.length = 4 then ok
  else
    match ok.find? fun a => a % 2 = 0 && ok.contains (a + 1) with
    | some a => [a, a + 1]
    | none => ok.take 1

/-- W0 and W1 of the parameter record that the module sends on a bond (Table EPT-2), with the credits that it grants (R294). -/
def State.ownParams (s : State) (b : Nat) : Nat × Nat :=
  let g := (s.aport b).granted
  let w0 := fld 1 8 56 ||| fld 1 1 55 ||| fld (g.getD 0 0) 14 34 ||| fld (g.getD 1 0) 14 20 ||| fld (g.getD 2 0) 14 6
  let w1 := fld s.mid 5 59 ||| fld (epOfPort b) 2 57 ||| fld b 4 53
  (w0, w1 ||| fld (recordChk w0 w1) 16 0)

/-- A bond begins the phases, and repeats its parameters in phase 3 (R293); a port with a lane that takes no part has left it (R272,
R279). -/
def State.apStart (s : State) (b phase : Nat) : State :=
  let s1 := s.each ((s.bondMembers b).filter s.apSound) fun s a =>
    (s.wr (K.apState a) psTraining).wr (K.apHoldReason a) hrNone
  let w := s.ownParams b
  (s1.setAp b fun p => { p with phase := phase, dayTest := none, idle := false }).emit (.capParams b w.1 w.2)

/-- The laser of a port that does not train: on for the peer to see, off on a free port, but for the analysis port (R22). -/
def State.fpLit (s : State) (n : Nat) : Bool := s.fabricLive && (decide (n + 1 < s.meshN) || s.analysis = some n)

/-- A held fabric port. -/
def State.fpHold (s : State) (n reason : Nat) : State :=
  ((s.fpDown n psHeld 2 (s.fpLit n)).wr (K.fpHoldReason n) reason)

/-- A held bond. -/
def State.apHold (s : State) (b reason : Nat) : State :=
  (s.each (s.bondMembers b) fun s a => (s.wr (K.apState a) psHeld).wr (K.apHoldReason a) reason).setAp b fun p => { p with
    phase := 0, heldAt := s.now }

/-- The DC check of a bond (R272): `dc` gives AP_DC_FAULT of each port of the bond, in order. -/
def State.dcCheck (s : State) (b : Nat) (dc : List Nat) : State :=
  s.each (s.bondMembers b) fun s a => s.wr (K.apDcFault a) (dc.getD (a - b) 0)

/-- PORT_TRAINING_START (R274): a dark port, or one whose link is masked while it reads UP. A fabric port that sees no light sends its
own and stays dark (R21). `dc` is what the DC check of an attach bond finds (R272); later starts find the same. -/
def execPortTrainingStart (p : TrainOp) (s : State) : Res :=
  .next (match p with
    | .fp n =>
      let st := s.rd (K.fpState n)
      if s.fpMayTrain n && (st = psDark || (s.fpTrained n && s.masked (s.midAt n))) then
        (s.fpStart n 1).setFp n fun q => { q with fails := 0 }
      else if n < 16 && st = psDark && s.fpLit n && !s.lnk.qualRun then s.setFp n fun q => { q with laser := true }
      else s
    | .ap n dc =>
      if s.apMayTrain n && s.rd (K.apState n) = psDark then
        let s1 := s.dcCheck n dc
        if (s1.widest n).isEmpty then s1 else (s1.apStart n 1).setAp n fun q => { q with fails := 0 }
      else s
    | .cp _ => s)

/-- TRAINING_PHASE_FAIL (R274): from phase 1 again; after three failures the port is held. A port without light goes dark (R21). -/
def execTrainingPhaseFail (p : PortRef) (s : State) : Res :=
  .next (match p with
    | .fp n =>
      if n < 16 && s.rd (K.fpState n) = psTraining then
        if !(s.fport n).light then (s.fpDown n psDark 2 (s.fpLit n)).setFp n fun q => { q with fails := 0 }
        else if 2 ≤ (s.fport n).fails then (s.fpHold n hrTrainFail).setFp n fun q => { q with fails := 0 }
        else s.setFp n fun q => { q with fails := q.fails + 1, phase := 1 }
      else s
    | .ap n =>
      if n < 16 && s.bondOf n = n && s.rd (K.apState n) = psTraining then
        if 2 ≤ (s.aport n).fails then (s.apHold n hrTrainFail).setAp n fun q => { q with fails := 0 }
        else s.setAp n fun q => { q with fails := q.fails + 1, phase := 1 }
      else s
    | .cp _ => s)

/-- Ten seconds in ticks. -/
def tenSeconds : Nat := 12500000000

/-- TRAIN_FAIL_RETRY (R274): every 10 s. -/
def execTrainFailRetry (p : PortRef) (s : State) : Res :=
  .next (match p with
    | .fp n =>
      if s.fpMayTrain n && s.rd (K.fpState n) = psHeld && s.rd (K.fpHoldReason n) = hrTrainFail &&
          decide ((s.fport n).heldAt + tenSeconds ≤ s.now) then s.fpStart n 1
      else s
    | .ap n =>
      if s.apMayTrain n && s.rd (K.apState n) = psHeld && s.rd (K.apHoldReason n) = hrTrainFail &&
          decide ((s.aport n).heldAt + tenSeconds ≤ s.now) then s.apStart n 1
      else s
    | .cp _ => s)

/-- The hold reason of a record, the first that applies in the order of R276. Log entry 44 (DEDUCED). -/
def State.idReason (s : State) (n : Nat) (r : IdRecord) : Nat :=
  if r.crossed ≠ 0 then hrMiswired
  else if r.stepping ≠ 0xB0 then hrStepping
  else if r.mid = s.mid then hrDuplicate
  else if r.mid ≠ s.midAt n || r.meshN ≠ s.meshN || r.port ≠ (s.mid + 2 * s.meshN - r.mid - 1) % s.meshN then hrIdentity
  else hrNone

/-- IDENTITY_RECORD (R275, R276): a record with a good CHK. -/
def execIdentityRecord (port : Nat) (r : IdRecord) (s : State) : Res :=
  .next (
    let w := idWords r
    if 16 ≤ port || s.rd (K.fpState port) ≠ psTraining || decide (3 < (s.fport port).phase) || r.chk ≠ recordChk w.1 w.2 then s
    else
      let s1 := (s.wr (K.fpNeighbour port) (leNat (wordBytes [w.1, w.2]))).setFp port fun p => { p with
        light := true, peerState := r.mstate }
      match s1.idReason port r with
      | 0 => s1.setFp port fun p => { p with phase := 4 }
      | k => (if k = hrMiswired then s1.wr (K.fpLaneFailed port) (r.crossed % 2 ^ 17) else s1).fpHold port k)

/-- W0 of a parameter record (Table EPT-2). -/
def capWord (r : CapParams) : Nat :=
  fld r.capver 8 56 ||| fld r.role 1 55 ||| fld r.creq 14 34 ||| fld r.cstrm 14 20 ||| fld r.cmgmt 14 6

/-- R277: the lane numbers that a port's lanes 0 to 7 received, in order or wholly reversed. -/
def laneOrderOk (l : List Nat) : Bool := l = List.range 8 || l = (List.range 8).reverse

/-- The lane orders and polarities (bit per lane) that the ports of a bond learned, corrected from now on (R277). -/
def State.takeLanes (s : State) (b : Nat) (r : CapParams) : State :=
  s.each (s.bondMembers b) fun s a =>
    let l := r.lanes.getD (a - b) (List.range 8, 0)
    s.setAp a fun p => { p with order := l.1, flipped := l.2 % 256 }

/-- CAP_LINK_PARAMETERS (R277, R293): the lane orders of phase 2, then version, role and the minimum credits of R294; the design's
credits are taken. -/
def execCapLinkParameters (port : Nat) (r : CapParams) (s : State) : Res :=
  .next (if 16 ≤ port || s.bondOf port ≠ port || s.rd (K.apState port) ≠ psTraining || decide (3 < (s.aport port).phase) ||
        r.chk ≠ recordChk (capWord r) (r.w1 / 65536 * 65536) then s
    else if r.lanes.any fun l => !laneOrderOk l.1 then s.apHold port hrMiswired
    else if r.capver ≠ 1 || r.role ≠ 0 || decide (r.creq < 130) || decide (r.cstrm < 130) || decide (r.cmgmt < 65) then
      s.apHold port hrIdentity
    else (s.takeLanes port r).setAp port fun p => { p with phase := 4, send := [r.creq, r.cstrm, r.cmgmt], outq := [] })

/-! ### Link-up (R263, R274, R278) -/

/-- Physical lanes of a fabric port that have not failed. -/
def State.goodLanes (s : State) (n : Nat) : List Nat := (List.range 17).filter fun i => !(s.rd (K.fpLaneFailed n)).testBit i

/-- Logical lanes take the lowest good physical lanes; what is over is the spare; groups that lack a lane are disabled.
Log entry 47 (DEDUCED). -/
def State.placeLanes (s : State) (n : Nat) : State :=
  let g := s.goodLanes n
  let groups := (List.range 4).foldl (fun m i => if 4 * i + 4 ≤ g.length then setBit m i else m) 0
  ((s.wr (K.fpGroups n) groups).wr (K.fpSpareMap n) (if 17 ≤ g.length then 0x1F else 0x1E)).setFp n fun p => { p with lanes := g.take 16 }

/-- A fabric port comes up: its link is unmasked, the ends start a key agreement, and an unlocked module may begin to lock (R211). -/
def State.fpUp (s : State) (n : Nat) : State :=
  let s1 := s.placeLanes n
  if s1.groupsUp n < 2 then s1.fpDown n psDark 2 true
  else
    let s2 := (s1.wr (K.fpState n) (if s1.groupsUp n = 4 then psUp else psDegraded)).setFp n fun p => { p with
      phase := 0, fails := 0, lastKeep := s.now }
    (((s2.emit (.symbol (.fp n) 0 0)).unmaskLink (s.midAt n)).startAgreement n).acquire

/-- An attach bond comes up; its contexts return to BOUND (R308), or to CLOSING with their partition.
Log entries 20 (DEDUCED), 46 (DEDUCED). -/
def State.apBondUp (s : State) (b : Nat) : State :=
  let w := s.widest b
  let s1 := s.each (s.bondMembers b) fun s a => s.wr (K.apState a) (if w.contains a then psUp else psDark)
  let s2 := (s1.wr (K.apWidth b) (8 * w.length)).setAp b fun p => { p with
    up := true, phase := 0, fails := 0, txSeq := 0, rxExpect := 0, nakSent := false, unacked := [], used := [0, 0, 0], owed := [0, 0, 0] }
  let s3 := s2.emit (.symbol (.ap b) 0 0)
  s3.mapEp fun e => { e with
    ctxs := mapIf (fun c => c.ep = epOfPort b && c.port = b && c.cstate = .detached)
      (fun c => { c with cstate := if s.pstate c.pid = 1 then .bound else .closing }) e.ctxs }

/-- PORT_LINK_UP (R274): the phases after the identity have passed. -/
def execPortLinkUp (p : PortRef) (s : State) : Res :=
  .next (match p with
    | .fp n => if n < 16 && s.rd (K.fpState n) = psTraining && 4 ≤ (s.fport n).phase then (s.fpUp n).settleAll else s
    | .ap n =>
      if n < 16 && s.bondOf n = n && s.rd (K.apState n) = psTraining && 4 ≤ (s.aport n).phase then
        (if (s.widest n).isEmpty then s.apDown n psDark else s.apBondUp n).settleAll
      else s
    | .cp _ => s)

/-! ### Link keys (R333, R334) -/

/-- LINK_KEY_AGREEMENT (R333, R263, R413): the neighbour's key matches PEER_KEYS, or the port is held with IDENTITY.
Log entry 51 (DESIGN CHOICE). -/
def execLinkKeyAgreement (port keyHash pepoch nextSeq gen mstate : Nat) (s : State) : Res :=
  .next (if 16 ≤ port || !s.fpTrained port || !(s.fport port).agreeing then s
    else
      let d := s.midAt port
      if keyHash ≠ s.rd (K.peerKeys d) then (s.fpHold port hrIdentity).settleAll
      else
        let s1 := s.setFp port fun p => { p with
          keyed := true, agreeing := false, oldKey := p.keyed, keyAt := s.now, keyFrames := 0, keyIn := 0
          keyEpoch := p.keyEpoch + 1, deadPids := [] }
        ((((s1.peerStateIs d mstate).takeGen mstate gen).adopt d pepoch nextSeq).peerReturns d).settleAll)

/-- 24 hours in ticks. -/
def oneDay : Nat := 108000000000000

/-- PORT_SECRET_RENEWAL (R334): after 2^40 frames in a direction, or 24 h. -/
def execPortSecretRenewal (port : Nat) (s : State) : Res :=
  .next (
    let p := s.fport port
    if port < 16 && s.fpTrained port && p.keyed &&
        (decide (2 ^ 40 ≤ p.keyFrames) || decide (2 ^ 40 ≤ p.keyIn) || decide (p.keyAt + oneDay ≤ s.now)) then s.startAgreement port
    else s)

/-- LINK_KEY_GRACE_EXPIRY (R334): 100 µs after a renewal. -/
def execLinkKeyGraceExpiry (port : Nat) (s : State) : Res :=
  .next (if (s.fport port).oldKey && decide ((s.fport port).keyAt + 125000 ≤ s.now) then
      s.setFp port fun p => { p with oldKey := false }
    else s)

/-- LIGHT_RETURN (R276): a held port retrains; an operator's hold stays. -/
def execLightReturn (port : Nat) (s : State) : Res :=
  .next (if 16 ≤ port || s.analysis = some port then s
    else
      let s1 := s.setFp port fun p => { p with light := true, fails := 0 }
      if s1.rd (K.fpState port) = psHeld && s1.fpMayTrain port then s1.fpStart port 1 else s1)

/-- FP_ADMIN (R276): 0 holds the port with OPERATOR; 1 releases it and retrains it, when its peer's light is there. -/
def execFpAdmin (o : Origin) (port v : Nat) (s : State) : Res :=
  .next (s.commandIf (decide (port < 16)) o (K.fpAdmin port) 0 fun s p =>
    let r := s.writePlain o p (K.fpAdmin port) 0 v
    let on := r.1.rd (K.fpAdmin port) = 1
    if on then
      (if r.1.rd (K.fpState port) ≠ psHeld then r.1
        else if r.1.fpMayTrain port then (r.1.fpStart port 1).setFp port fun p => { p with fails := 0 }
        else (r.1.wr (K.fpState port) psDark).wr (K.fpHoldReason port) hrNone, r.2)
    else (((r.1.fpHold port hrOperator).settleAll), r.2))

/-! ### Spare lanes (R278, R279, R286) -/

/-- The physical lane that carries no logical lane. -/
def State.freeLane (s : State) (n : Nat) : Option Nat :=
  (List.range 17).find? fun i => !(s.fport n).lanes.contains i

/-- Logical lane `k` moves to physical lane `i`: both ends move it at one codeword boundary. -/
def State.moveLane (s : State) (n k i : Nat) : State :=
  ((s.emit (.symbol (.fp n) 3 k)).setFp n fun p => { p with lanes := setAt p.lanes k i }).bump (K.fpRemaps n) 1

/-- Log entry 20 (DEDUCED). -/
def State.markLane (s : State) (n lane : Nat) : State := s.wr (K.fpLaneFailed n) (setBit (s.rd (K.fpLaneFailed n)) lane)

/-- One byte of QUAL_STATUS; fabric ports 0 to 15, attach ports 16 to 31. -/
def State.qualStatusIs (s : State) (port v : Nat) : State :=
  s.wr K.qualStatus (leNat (patch (leBytes 32 (s.rd K.qualStatus)) port [BitVec.ofNat 8 v]))

/-- QUAL_LAST of a port: lanes failed and lanes UNTESTED, 7 bits each. -/
def State.qualLastIs (s : State) (port failed untested : Nat) : State :=
  let v := s.rd K.qualLast
  let sh := 64 + 14 * port
  let old := bits v (sh + 13) sh
  s.wr K.qualLast (v - old <<< sh + (failed ||| untested <<< 7) <<< sh)

/-- The rotation of a fabric port ends with `untested` lanes not reached. -/
def State.endRotation (s : State) (n failed untested : Nat) : State :=
  ((s.setFp n fun p => { p with dayTest := none }).qualLastIs n failed untested).qualStatusIs n (if failed = 0 then 0 else 1)

/-- What asks for a remap (R278): a pre-FEC BER above 10^−`b` over 1 s, with `b` at most REMAP_BER, or loss of signal. -/
def State.remapDue (s : State) : RemapCause → Bool
  | .ber b => decide (b ≤ s.rd K.remapBer)
  | .signal => true
  | .daily => false

/-- A fabric port's rotation starts with its spare. -/
def State.startFpQual (s : State) (n : Nat) : State := (s.setFp n fun p => { p with dayTest := some 16 }).qualStatusIs n 3

/-- A fabric port that can rotate its lanes. -/
def State.fpCanRotate (s : State) (n : Nat) : Bool :=
  s.fpTrained n && s.rd (K.fpSpareMap n) = 0x1F && (s.fport n).dayTest.isNone

/-- LANE_REMAP (R278, R286): to the spare; while the daily rotation uses the spare, to the freed lane under test. The daily check of
R285 begins with the spare at the peer that has the lower MID, and this module follows. Log entry 16 (DESIGN CHOICE). -/
def execLaneRemap (p : PortRef) (lane : Nat) (cause : RemapCause) (s : State) : Res :=
  .next (match p with
    | .fp n =>
      if cause = .daily then if n < 16 && decide (lane = 16) && s.fpCanRotate n && decide (s.midAt n < s.mid) then s.startFpQual n else s
      else if 16 ≤ n || decide (16 < lane) || !s.fpTrained n || !s.remapDue cause then s
      else
        match (s.fport n).lanes.findIdx? fun i => i = lane with
        | none =>
          if s.rd (K.fpSpareMap n) = 0x1F && s.freeLane n = some lane then
            let s1 := (s.markLane n lane).wr (K.fpSpareMap n) 0x1E
            if (s.fport n).dayTest.isSome then s1.endRotation n 1 16 else s1
          else s
        | some k =>
          match s.freeLane n with
          | none => s
          | some i =>
            match (s.fport n).dayTest with
            | some t =>
              let s1 := ((s.markLane n lane).moveLane n k i)
              if t < 16 then s1.endRotation n 1 (15 - t) else (s1.wr (K.fpSpareMap n) k).endRotation n 1 16
            | none =>
              if s.rd (K.fpSpareMap n) = 0x1F then ((s.markLane n lane).moveLane n k i).wr (K.fpSpareMap n) k
              else s
    | .ap _ => s
    | .cp _ => s)

/-- LANE_GROUP_DISABLE (R279): no spare is left. An attach port leaves its bond, which retrains. -/
def execLaneGroupDisable (p : PortRef) (lane : Nat) (s : State) : Res :=
  .next (match p with
    | .fp n =>
      match (if n < 16 && s.fpTrained n && s.rd (K.fpSpareMap n) ≠ 0x1F then (s.fport n).lanes.findIdx? fun i => i = lane else none) with
      | none => s
      | some k =>
        let s1 := (s.markLane n lane).wr (K.fpGroups n) (clrBit (s.rd (K.fpGroups n)) (k / 4))
        if s1.groupsUp n < 2 then (s1.fpDown n psDark 2 true).settleAll else s1.wr (K.fpState n) psDegraded
    | .ap n =>
      if 16 ≤ n || decide (7 < lane) || !s.apTrained n then s
      else
        let b := s.bondOf n
        let s1 := (s.wr (K.apLaneFailed n) (setBit (s.rd (K.apLaneFailed n)) lane)).wr (K.apGroups n)
          (clrBit (s.rd (K.apGroups n)) (lane / 4))
        let s2 := s1.apDown b psDark
        (if (s2.widest b).isEmpty then s2 else s2.apStart b 1).settleAll
    | .cp _ => s)

/-! ### Electrical idle (R280, R281) -/

/-- Frames wait for an egress. -/
def State.framesFor (s : State) (e : Nat) : Bool := s.sw.frames.any fun c => c.egr.contains e || c.started.contains e

/-- R280: no frame has waited for egress `e` for IDLE_AFTER ticks, and no gate window is near. -/
def State.mayIdle (s : State) (e : Nat) : Bool :=
  !s.framesFor e && decide (nmGet s.sw.waitAt e 0 + s.rd K.idleAfter ≤ s.now) && !s.gateNear e

/-- IDLE_ENTRY (R280), announced by a control symbol. -/
def execIdleEntry (p : PortRef) (s : State) : Res :=
  .next (match p with
    | .fp n =>
      if n < 16 && s.fpTrained n && !(s.fport n).idle && s.mayIdle n then
        (s.emit (.symbol p 1 0)).setFp n fun q => { q with idle := true }
      else s
    | .ap n =>
      if n < 16 && s.apTrained n && !(s.aport n).idle && s.mayIdle (16 + s.bondOf n) then
        (s.emit (.symbol p 1 0)).setAp n fun q => { q with idle := true }
      else s
    | .cp _ => s)

/-- R281: what starts an exit: a frame, of TC0 where a cap holds the port, or a gate window. -/
def State.mayWake (s : State) (e : Nat) : Bool :=
  (if s.capIdle e then s.sw.frames.any fun c => c.f.tc = 0 && c.egr.contains e else s.framesFor e) ||
    (s.gateNear e && !s.power.stage3)

/-- R281: on a fabric port a keep-alive that is due, and the timestamps on a link to the root, start an exit too. -/
def State.mayWakeFp (s : State) (n : Nat) : Bool :=
  s.mayWake n || decide ((s.fport n).lastKeep + 12500 ≤ s.now) || s.rd K.rootMid = s.mid || s.rd K.rootMid = s.midAt n

/-- IDLE_EXIT (R281): a burst of PRBS13. -/
def execIdleExit (p : PortRef) (s : State) : Res :=
  .next (match p with
    | .fp n =>
      if n < 16 && (s.fport n).idle && s.mayWakeFp n then (s.emit (.symbol p 2 0)).setFp n fun q => { q with idle := false } else s
    | .ap n =>
      if n < 16 && (s.aport n).idle && s.mayWake (16 + s.bondOf n) then
        (s.emit (.symbol p 2 0)).setAp n fun q => { q with idle := false }
      else s
    | .cp _ => s)

/-! ### Taps, patterns, injection (R273, R282, R283) -/

/-- The taps lie in the ranges of Table LNK-3 and their magnitudes add to 64. -/
def tapsOk (v : Nat) : Bool :=
  let a := toSigned 8 (bits v 23 16)
  let m := bits v 15 8
  let c := toSigned 8 (bits v 7 0)
  decide (-16 ≤ a) && decide (a ≤ 0) && decide (24 ≤ m) && decide (m ≤ 64) && decide (-24 ≤ c) && decide (c ≤ 0) &&
    decide ((-a) + m + (-c) = 64)

/-- The key of a port's entry and whether the port exists. -/
def portEntry (p : PortRef) (fk ak : Nat → Nat) : Nat × Bool :=
  match p with
  | .fp n => (fk n, decide (n < 16))
  | .ap n => (ak n, decide (n < 16))
  | .cp _ => (0, false)

/-- Lanes of a port. -/
def portLanes : PortRef → Nat
  | .fp _ => 17
  | .ap _ => 8
  | .cp _ => 0

/-- TX_TAPS (R273): refused where the sum rule breaks. -/
def execTxTaps (o : Origin) (p : PortRef) (lane v : Nat) (s : State) : Res :=
  .next (
    let k := portEntry p (fun n => K.fpTxTaps n lane) fun n => K.apTxTaps n lane
    s.commandIf (k.2 && decide (lane < portLanes p)) o k.1 0 fun s q =>
      if tapsOk v then s.writePlain o q k.1 0 v else (s, Done.refused))

/-- A physical lane carries a logical lane: the port is in use, and the lane's group is not disabled. -/
def State.laneInUse (s : State) (p : PortRef) (lane : Nat) : Bool :=
  match p with
  | .fp n =>
    (s.rd (K.fpState n) = psTraining || s.fpTrained n) && (match (s.fport n).lanes.findIdx? fun i => i = lane with
      | some k => (s.rd (K.fpGroups n)).testBit (k / 4)
      | none => false)
  | .ap n => (s.rd (K.apState n) = psTraining || s.apTrained n) && (s.rd (K.apGroups n)).testBit (lane / 4)
  | .cp _ => false

/-- A checker that ran keeps the count it has reached (R282). Log entry 8 (DESIGN CHOICE). -/
def State.keepPrbs (s : State) (ctrl errors : Nat) : State :=
  if (s.rd ctrl).testBit 28 then (s.wr errors (Config.measured s.free % 2 ^ 64)).draw else s

/-- PRBS_CTRL (R282): a pattern starts only on a lane that carries no logical lane; CHK clears the error count.
Log entry 47 (DEDUCED). -/
def execPrbsCtrl (o : Origin) (p : PortRef) (v : Nat) (s : State) : Res :=
  .next (
    let k := portEntry p K.fpPrbsCtrl K.apPrbsCtrl
    s.commandIf k.2 o k.1 0 fun s q =>
      let lane := bits v 27 23
      if decide (portLanes p ≤ lane) || (bits v 31 30 ≠ 0 && s.laneInUse p lane) then (s, Done.refused)
      else
        let e := (portEntry p K.fpPrbsErrors K.apPrbsErrors).1
        let s1 := s.keepPrbs k.1 e
        (if v.testBit 28 then s1.wr e 0 else s1).writePlain o q k.1 0 v)

/-- BURST and RATE below their ranges are raised to 1 (R351, Table LNK-7). -/
def injectClamp (v : Nat) : Nat :=
  let v1 := if bits v 24 20 = 0 then v + 2 ^ 20 else v
  if bits v1 19 0 = 0 then v1 + 1 else v1

/-- INJECT (R283): outside MAINTENANCE only errors that stay correctable. Log entries 22 (DEDUCED), 47 (DEDUCED). -/
def execInject (o : Origin) (p : PortRef) (v : Nat) (s : State) : Res :=
  .next (
    let k := portEntry p K.fpInject K.apInject
    s.commandIf k.2 o k.1 0 fun s q =>
      let v1 := injectClamp v
      let strong := bits v1 31 30 = 3 || decide (15 < bits v1 24 20)
      if decide (portLanes p ≤ bits v1 29 25) || (strong && s.life.mstate ≠ .maintenance) then (s, Done.refused)
      else if v1 = v then s.writePlain o q k.1 0 v
      else
        let r := (s.clampRec k.1 (originSource o) rsnLow q v v1).writePlain o q k.1 0 v1
        (r.1, .now Status.ok true []))

/-! ### Qualification (R284 to R286) -/

/-- R284: for a run every fabric lane is lit. -/
def State.lightAll (s : State) : State := s.each (List.range 16) fun s n => s.setFp n fun p => { p with laser := true }

/-- QUAL_NOW (R284): in MAINTENANCE only; all lanes run the pattern at once, and TC0 stops. Log entry 38 (DEDUCED). -/
def execQualNow (o : Origin) (v : Nat) (s : State) : Res :=
  .next (s.command o K.qualNow 0 fun s p =>
    match s.settle o p K.qualNow 0 v with
    | (s1, v1, c) =>
      if s1.life.mstate ≠ .maintenance then (s, Done.refused)
      else if v1 = 0 || s1.lnk.qualRun then (s1, .now Status.ok c [])
      else
        let s2 := s1.each ((List.range 16).filter fun n => decide (n + 1 < s1.meshN)) fun s n => s.fpDown n psDark 2 true
        let s3 := (s2.wr K.qualStatus (leNat (List.replicate 32 3))).wr K.qualLast (s.now % 2 ^ 64)
        (((s3.mapLnk fun l => { l with qualRun := true }).lightAll).settleAll, .now Status.ok c []))

/-- 47.06 s, the length of a run: 10^13 bits at 212.5 Gb/s. -/
def qualTicks : Nat := 58823529412

/-- The ports that the failed lanes (32 × port + lane; fabric ports 0 to 15, attach ports 16 to 31) belong to.
Log entry 21 (PRESUMED). -/
def failedOf (port : Nat) (failed : List Nat) : List Nat := (failed.filter fun x => x / 32 = port).map fun x => x % 32

/-- One port's result. -/
def State.qualResult (s : State) (failed : List Nat) (port : Nat) : State :=
  let fs := failedOf port failed
  let key := if port < 16 then K.fpLaneFailed port else K.apLaneFailed (port - 16)
  ((s.wr key (fs.foldl setBit (s.rd key))).qualLastIs port fs.length 0).qualStatusIs port (if fs.isEmpty then 0 else 1)

/-- QUALIFICATION_END (R284): results are recorded, fabric ports retrain (one whose peer is absent stays dark, R21; free ones lose their
light, R22), attach ports stay dark. -/
def execQualificationEnd (failed : List Nat) (s : State) : Res :=
  .next (if !s.lnk.qualRun || decide (s.now < s.rd K.qualLast % 2 ^ 64 + qualTicks) then s
    else
      let s1 := (s.mapLnk fun l => { l with qualRun := false }).each (List.range 32) fun s p => s.qualResult failed p
      let s2 := s1.each (List.range 16) fun s n => s.setFp n fun p => { p with laser := s1.fpLit n }
      s2.each ((List.range 16).filter s2.fpMayTrain) fun s n => (s.fpStart n 1).setFp n fun p => { p with fails := 0 })

/-- A port's daily check that found contexts bound reads OVERDUE after 24 h without a check. -/
def State.apOverdue (s : State) (b : Nat) : State :=
  if (s.aport b).dayTest = some 99 && (s.aport b).lastQual + oneDay ≤ s.now then s.qualStatusIs (16 + b) 2 else s

/-- The second of the TAI day (R285): EPOCH_TAI in ns, plus 0.8 ns a tick. -/
def State.taiSecond (s : State) : Nat := (s.rd K.epochTai + s.now * 4 / 5) / 1000000000 % 86400

/-- DAILY_QUALIFICATION (R285). At QUAL_PHASE the module leads on the fabric ports whose peer has a higher MID, and checks the attach
ports that no context uses. On the others it follows its peer (LANE_REMAP). -/
def execDailyQualification (s : State) : Res :=
  .next (if s.taiSecond ≠ s.rd K.qualPhase then s
    else
      let fs := (List.range 16).filter fun n => s.fpCanRotate n && decide (s.mid < s.midAt n)
      let s1 := s.each fs State.startFpQual
      let bs := (List.range 16).filter fun b => s1.bondOf b = b && s1.apTrained b && ((s1.aport b).dayTest = none || (s1.aport b).dayTest = some 99)
      s1.each bs fun s b =>
        let s2 := s.startApQual b
        if (s2.aport b).dayTest = some 0 then s2.qualStatusIs (16 + b) 3 else s2.apOverdue b)

/-- The rotation goes on with logical lane `k`, remapped to the spare. -/
def State.testLane (s : State) (n k : Nat) : State :=
  match s.freeLane n with
  | none => s.endRotation n 0 (16 - k)
  | some i => (((s.moveLane n k i).wr (K.fpSpareMap n) k).setFp n fun p => { p with dayTest := some k })

/-- QUAL_LANE_TEST_END (R285): more than 10 errors fail the lane. -/
def execQualLaneTestEnd (p : PortRef) (errors : Nat) (s : State) : Res :=
  .next (match p with
    | .fp n =>
      if 16 ≤ n then s
      else
        match (s.fport n).dayTest, s.freeLane n with
        | some t, some i =>
          if 10 < errors then
            if t < 16 then (s.markLane n i).endRotation n 1 (15 - t)
            else ((s.markLane n i).wr (K.fpSpareMap n) 0x1E).endRotation n 1 16
          else if t = 16 then s.testLane n 0
          else
            let s1 := (s.moveLane n t i).wr (K.fpSpareMap n) 0x1F
            if t = 15 then s1.endRotation n 0 0 else s1.testLane n (t + 1)
        | _, _ => s
    | .ap n =>
      if 16 ≤ n then s
      else
        match (s.aport n).dayTest with
        | some t =>
          if 8 ≤ t then s
          else
            let s1 := if 10 < errors then s.wr (K.apLaneFailed n) (setBit (s.rd (K.apLaneFailed n)) t) else s
            if t < 7 then s1.setAp n fun q => { q with dayTest := some (t + 1) }
            else
              let bad := (bitsSet (s1.rd (K.apLaneFailed n)) 8).length
              ((s1.setAp n fun q => { q with dayTest := none, lastQual := s.now }).qualLastIs (16 + n) bad 0).qualStatusIs (16 + n)
                (if bad = 0 then 0 else 1)
        | none => s
    | .cp _ => s)

/-! ### CXL ports (R54, R288, R289) -/

/-- CP_LINK_DOWN (R288, R289). -/
def execCpLinkDown (cp : Nat) (s : State) : Res := .next (if cp < 4 then (s.cpDown cp).settleAll else s)

/-- SCRUB granules of an expander that have not been queued for zero-fill yet (R328). -/
def State.fillExpander (s : State) (c old bytes : Nat) : State :=
  if old < bytes then
    s.mapFills fun l => l ++ [⟨1 + c, (expBase c + old) / 65536, (expBase c + bytes) / 65536, none⟩]
  else s

/-- CP_LINK_UP (R289, R101, R54): expander service resumes with the same serial number; a lost host rejoins, one of another module
as its module reports it, and one of this module is told its HDM capacity. -/
def execCpLinkUp (p : CpRef) (serial bytes link : Nat) (s : State) : Res :=
  let mid := p.mid
  let cp := p.cp
  .next (if 4 ≤ cp then s
    else if mid ≠ s.mid then (if s.home.lostHosts.testBit (4 * mid + cp) then (s.hostBack mid cp).settleAll else s)
    else if s.rd (K.cpMode cp) = 0 || !s.attachLive || (s.cport cp).up then s
    else
      let s1 := (s.setCp cp fun p => { p with up := true }).wr (K.cpLink cp) (link % 2 ^ 32)
      if s.rd (K.cpMode cp) = 1 then (s1.hostBack s.mid cp).advertise cp
      else
        let n := min bytes (2 ^ 41)
        let known := s.rd (K.expSerial cp)
        ((s1.wr (K.expSerial cp) serial).setCp cp fun p => { p with
          expOff := p.expOff || (known ≠ 0 && known ≠ serial), expBytes := n }).fillExpander cp (s.cport cp).expBytes n)

/-- EXP_ENABLE (R289). -/
def execExpEnable (o : Origin) (cp v : Nat) (s : State) : Res :=
  .next (s.commandIf (decide (cp < 4)) o (K.expEnable cp) 0 fun s p =>
    match s.settle o p (K.expEnable cp) 0 v with
    | (s1, v1, c) => (if v1 = 1 then s1.setCp cp fun q => { q with expOff := false } else s1, .now Status.ok c []))

/-- CXL_MEM_ENABLE (R54, R56, R288): what a host configures on its port. -/
def execCxlMemEnable (cp : Nat) (cfg : HostCfg) (s : State) : Res :=
  .next (if 4 ≤ cp || s.rd (K.cpMode cp) ≠ 1 || !(s.cport cp).up then s
    else
      match cfg with
      | .hdmBase v => s.wr (K.hdmBase cp) (v % 2 ^ 64)
      | .memOn b => (s.setCp cp fun p => { p with memOn := b }).advertise cp
      | .ats b => (s.setCp cp fun p => { p with atsOn := b }).mapReq fun r => { r with
          ats := if b then r.ats else r.ats.filter fun e => e.cp ≠ cp }
      | .backInval b =>
        (s.setCp cp fun p => { p with backInval := b }).wr (K.cpLink cp) (s.rd (K.cpLink cp) % 2 ^ 24 + b2n b * 2 ^ 24))

/-! ### Flits (R291, R292, R294) -/

/-- Sequence numbers are compared modulo 4,096. -/
def seqAge (a b : Nat) : Nat := (a + 4096 - b) % 4096

/-- FCRC of a flit: over bytes 0 to 247. -/
def flitCrc (f : Flit) : Nat := crc32c (leBytes 8 f.head ++ fitTo 240 f.body)

/-- Flits up to `a` are acknowledged. -/
def State.flitAck (s : State) (b a : Nat) : State :=
  s.setAp b fun p => { p with unacked := p.unacked.filter fun u => 2048 ≤ seqAge a u.1 }

/-- R292 rules 3 and 5: the flits after `a` are sent again in order; one resent 8 times without acknowledgement makes the
port retrain from phase 2. Log entry 47 (DEDUCED). -/
def State.flitResend (s : State) (b : Nat) : State :=
  let us := (s.aport b).unacked
  let ep := epOfPort b
  if us.any fun u => decide (8 ≤ u.2.2) then
    ((s.bump (K.linkRetrains ep) 1).apDown b psDark).apStart b 2
  else
    let s1 := (s.setAp b fun p => { p with unacked := us.map fun u => (u.1, u.2.1, u.2.2 + 1) }).each us fun s u =>
      s.emit (.flit b u.1 (bits u.2.1.head 51 40) false)
    (s1.bump (K.flitReplays ep) us.length).epEv ep 0x212 64 us.length

/-- The pools with units to return, each with as many as a return field holds. -/
def APort.returns (p : APort) : List (Nat × Nat) :=
  (((List.range 3).map fun k => (k, min 16383 (p.owed.getD k 0))).filter fun x => 0 < x.2).take 2

/-- A flit of the module: IDLE, with the acknowledgement of what it has accepted and two credit returns. The 513th unacknowledged one
waits. Log entry 18 (DESIGN CHOICE). -/
def State.flitSend (s : State) (b : Nat) : State :=
  let p := s.aport b
  if 512 ≤ p.unacked.length then s
  else
    let a := (p.rxExpect + 4095) % 4096
    let back := p.returns
    let cr := fun (i : Nat) => match back[i]? with
      | some x => fld x.1 2 14 ||| fld x.2 14 0
      | none => 0xC000
    let h := fld p.txSeq 12 52 ||| fld a 12 40 ||| fld 1 1 39 ||| fld 1 2 36 ||| fld (cr 0) 16 16 ||| fld (cr 1) 16 0
    let f : Flit := ⟨h, zeros 240, 0⟩
    (s.setAp b fun p => { p with
      txSeq := (p.txSeq + 1) % 4096, unacked := p.unacked ++ [(p.txSeq, { f with fcrc := flitCrc f }, 0)]
      owed := back.foldl (fun o x => setAt o x.1 (o.getD x.1 0 - x.2)) p.owed }).emit (.flit b p.txSeq a false)

/-- A credit return field: pool and units. -/
def State.flitCredit (s : State) (b v : Nat) : State :=
  let pool := bits v 15 14
  if pool = 3 then s
  else (s.setAp b fun p => { p with send := setAt p.send pool (p.send.getD pool 0 + bits v 13 0) }).pumpOut b

/-- FLIT_RECEIVED (R292): accepted in order, or discarded with one NAK per loss. Log entry 18 (DESIGN CHOICE). -/
def execFlitReceived (port : Nat) (f : Flit) (s : State) : Res :=
  .next (if 16 ≤ port || s.bondOf port ≠ port || !s.apTrained port then s
    else
      let p := s.aport port
      if f.fcrc ≠ flitCrc f || bits f.head 63 52 ≠ p.rxExpect then
        if p.nakSent then s
        else (s.setAp port fun q => { q with nakSent := true }).emit (.flit port p.txSeq ((p.rxExpect + 4095) % 4096) true)
      else
        let s1 := s.setAp port fun q => { q with rxExpect := (q.rxExpect + 1) % 4096, nakSent := false }
        let s2 := if f.head.testBit 39 then s1.flitAck port (bits f.head 51 40) else s1
        let s3 := if f.head.testBit 38 then s2.flitResend port else s2
        (((s3.flitCredit port (bits f.head 31 16)).flitCredit port (bits f.head 15 0)).flitSend port).settleAll)

/-- FLIT_REPLAY (R292): on a NAK the flits after ACKSEQ are sent again. -/
def execFlitReplay (port ackseq : Nat) (s : State) : Res :=
  .next (if 16 ≤ port || s.bondOf port ≠ port || !s.apTrained port then s
    else ((s.flitAck port (ackseq % 4096)).flitResend port).settleAll)

/-- ATTACH_LINK_DOWN (R308). -/
def execAttachLinkDown (port : Nat) (s : State) : Res :=
  .next (if port < 16 then (s.apDown (s.bondOf port) psDark).settleAll else s)

end Sys2Proof.Machine
end

