-- ==== Sys2Proof/Machine/Nvram.lean ====
section
/-! DEFINITION. The non-volatile store (R347, R358, R359): the retained entries, commits, and the rebuild in RESTORE. -/

namespace Sys2Proof.Machine

open Sys2Proof

/-! ### Retained entries (R347) -/

/-- Retained keys of a table of fixed entries. -/
def retFixed (t : List (Nat × Nat × Entry)) : List Nat := (t.filter fun e => e.2.2.ret).map fun e => 256 * e.1 + e.2.1

/-- Retained keys of one index of a family. -/
def retSubs (ix : Nat) (t : List (Nat × Nat × Entry)) : List Nat :=
  ((t.filter fun e => e.2.2.ret).map fun e => (List.range (e.2.1 + 1 - e.1)).map fun i => 256 * ix + e.1 + i).flatten

/-- Every retained key. -/
def retainedKeys : List Nat :=
  ([fixed1, fixed2, fixed4, fixed5, fixed6, fixed7, fixed8, fixed9, fixedA].map retFixed).flatten ++
    (families.map fun f => ((List.range f.2.1).map fun i => retSubs (f.1 + i * f.2.2.1) f.2.2.2).flatten).flatten ++
    (List.range 64).map K.pgen

/-- An entry is retained. -/
def isRetained (k : Nat) : Bool :=
  match entryOf (k / 256) (k % 256) with
  | some e => e.ret
  | none => false

/-- The current retained image. -/
def State.image (s : State) : NMap := s.od.filter fun e => isRetained e.1

/-! ### Commits (R358) -/

/-- Header and trailer are both good. -/
def Bank.complete (b : Bank) : Bool := b.headerOk && b.trailerOk

/-- A whole bank. -/
def Bank.whole (gen : Nat) (recs : NMap) : Bank := ⟨gen, true, true, recs, [], [], [], []⟩

/-- Bank B holds the newest complete generation. -/
def Nv.newestB (n : Nv) : Bool := n.b.complete && (!n.a.complete || decide (n.a.gen < n.b.gen))

/-- The newest complete generation, 0 when no bank is complete. -/
def Nv.newest (n : Nv) : Nat := max (if n.a.complete then n.a.gen else 0) (if n.b.complete then n.b.gen else 0)

/-- The whole image becomes the next generation of the bank that does not hold the newest complete one. COMMITS counts it,
and is itself in the image. -/
def State.commitImage (s : State) : State :=
  let s1 := s.bump K.commits 1
  let w := Bank.whole ((s.nv.newest + 1) % 2 ^ 32) s1.image
  s1.mapNv fun n => { n with
    a := if n.newestB then w else n.a
    b := if n.newestB then n.b else w
    dirty := false }

/-- R27, R358: the save on loss of input power: a commit in progress ends, then the image is committed once more. Before the
end of RESTORE there is nothing to save (R408). -/
def State.saveRetained (s : State) : State :=
  if s.managed then ((if s.nv.dirty then s.commitImage else s).commitImage).bump K.inputLosses 1 else s

/-! ### RESTORE (R359) -/

/-- What a bank holds for an entry; `none` is a good record of the default. -/
inductive RecState where
  | good (v : Option Nat)
  | badCrc (v : Nat)
  | badLength (v : Nat)
  | missing
  deriving DecidableEq, Repr

/-- The record of an entry in a bank. The image lists only values that differ from the defaults.
Log entry 50 (DEDUCED). -/
def Bank.look (b : Bank) (k : Nat) : RecState :=
  let v := nmGet b.recs k (dfltOf k)
  if !b.headerOk || b.missing.contains k then .missing
  else if b.bad.contains k then .badCrc v
  else if b.badLen.contains k then .badLength v
  else .good (mfind b.recs k)

/-- R359 step 4: one taken value is checked against its type, its reserved bits and its range.
Log entry 50 (DEDUCED). -/
def State.restoreField (s : State) (k v0 : Nat) : State :=
  match entryOf (k / 256) (k % 256) with
  | none => s
  | some e =>
    let v := v0 % 2 ^ (8 * e.size)
    let v1 := v - (v &&& e.rsv)
    let s1 := if v1 = v then s else s.clampRec k 0 rsnReserved 0 v v1
    match clampVal s1 e 0 v1 with
    | (v2, none) => s1.wr k v2
    | (v2, some r) => (s1.clampRec k 0 r 0 v1 v2).wr k v2

/-- Reasons of Table ODP-5 that only RESTORE gives. -/
abbrev rsnCrc : Nat := 5
abbrev rsnOther : Nat := 6
abbrev rsnCross : Nat := 7
abbrev rsnMissing : Nat := 8
abbrev rsnUnknown : Nat := 9
abbrev rsnLength : Nat := 10

/-- A good record is taken; one of the default leaves the entry at its default. -/
def State.restoreGood (s : State) (k : Nat) : Option Nat → State
  | none => s
  | some v => s.restoreField k v

/-- An entry takes its default, with a record. -/
def State.restoreDefault (s : State) (k reason given : Nat) : State := 
  let s1 := s.clampRec k 0 reason 0 given (dfltOf k)
  s1.unset k

/-- R359 steps 2 to 4 for one entry: primary `p`, other bank `o`. -/
def State.restoreEntry (p o : Bank) (s : State) (k : Nat) : State :=
  match p.look k with
  | .good v => s.restoreGood k v
  | .badLength v => s.restoreDefault k rsnLength v
  | .badCrc v =>
    match o.look k with
    | .good u => (s.clampRec k 0 rsnOther 0 (u.getD (dfltOf k)) (u.getD (dfltOf k))).restoreGood k u
    | _ => s.restoreDefault k rsnCrc v
  | .missing =>
    match o.look k with
    | .good u => (s.clampRec k 0 rsnOther 0 (u.getD (dfltOf k)) (u.getD (dfltOf k))).restoreGood k u
    | _ => s.restoreDefault k rsnMissing 0

/-- R359 step 5: the entries of a broken rule take their defaults. -/
def State.jointRule (s : State) (ok : Bool) (ks : List Nat) : State :=
  if ok then s else s.each ks fun s k => s.restoreDefault k rsnCross (s.rd k)

/-- The watermark spacing of R241. -/
def marksOk (m1 m2 m3 : Nat) : Bool := decide (11264 ≤ m3) && decide (m3 + 4096 ≤ m2) && decide (m2 + 4096 ≤ m1)

/-- Every TX_TAPS entry. -/
def tapKeys : List Nat :=
  ((List.range 16).map fun n => (List.range 17).map (K.fpTxTaps n)).flatten ++
    ((List.range 16).map fun n => (List.range 8).map (K.apTxTaps n)).flatten

/-- A VIA of the pending bank that a write would not refuse (R253). -/
def State.viaOk (s : State) (d v : Nat) : Bool := v = 31 || (v ≠ s.mid && v ≠ d && decide (v < s.meshN))

/-- The joint rules: R241, R273, MID below MESH_N (R19), the tile-buffer pool within the HBM (Table SWC-5), R253.
Log entry 50 (DEDUCED). -/
def State.jointRules (s : State) : State :=
  let s1 := s.jointRule (marksOk (s.rd K.wm1) (s.rd K.wm2) (s.rd K.wm3)) [K.wm1, K.wm2, K.wm3]
  let s2 := s1.each tapKeys fun s k => s.jointRule (tapsOk (s.rd k)) [k]
  let s3 := s2.jointRule (decide (s2.mid < s2.meshN)) [K.mid, K.meshN]
  let s4 := s3.jointRule (decide (s3.rd K.tbufBase + s3.tbufBytes ≤ hbmBytes s3)) [K.tbufBase, K.tbufCount]
  s4.each (List.range 17) fun s d =>
    (s.jointRule (s.viaOk d (s.viaRd (K.via1Pending d) d false)) [K.via1Pending d]).jointRule (s.viaOk d (s.viaRd (K.via2Pending d) d true))
      [K.via2Pending d]

/-- The primary bank and the other one, and whether B is the primary; none when no header is good. -/
def Nv.primary (n : Nv) : Option (Bank × Bank × Bool) :=
  if n.a.complete || n.b.complete then
    if n.newestB then some (n.b, n.a, true) else some (n.a, n.b, false)
  else if n.b.headerOk && (!n.a.headerOk || decide (n.a.gen < n.b.gen)) then some (n.b, n.a, true)
  else if n.a.headerOk then some (n.a, n.b, false)
  else none

/-- R359 step 6: the result is committed into the bank that was not primary, and RESTORE_GEN names its generation. -/
def State.restoreCommit (s : State) (gen : Nat) (intoA : Bool) : State :=
  let s1 := s.bump K.commits 1
  let w := Bank.whole (gen % 2 ^ 32) s1.image
  (s1.mapNv fun n => { n with a := if intoA then w else n.a, b := if intoA then n.b else w, dirty := false, waiting := [] }).wr
    K.restoreGen (gen % 2 ^ 32)

/-- R359: the whole rebuild. RESTORE_RESULT: 0 CLEAN, 1 PARTIAL, 2 DEFAULTS. -/
def State.rebuild (s : State) : State :=
  match s.nv.primary with
  | none => (s.wr K.restoreResult 2).restoreCommit 1 true
  | some (p, o, isB) =>
    let s1 := s.each retainedKeys (State.restoreEntry p o)
    let s2 := s1.each p.unknown fun s k => s.clampRec k 0 rsnUnknown 0 0 0
    let s3 := s2.jointRules
    (s3.wr K.restoreResult (if s3.rd K.clampCount = s.rd K.clampCount then 0 else 1)).restoreCommit (p.gen + 1) isB

end Sys2Proof.Machine
end

