-- ==== Sys2Proof/Machine/Parts.lean ====
section
/-! DEFINITION. The commands of partitions and security (chapter 13): creation, closing, ownership, zero-fill, keys,
attestation, registered regions. -/

namespace Sys2Proof.Machine

open Sys2Proof

/-! ### Partitions (R323 to R325, R338) -/

/-- A key slot takes the next KEY_ID (R331). -/
def State.fillSlot (s : State) (pid slot kind : Nat) : State :=
  (s.wr (K.keySlot pid slot) (s.sec.keyNext <<< 16 ||| kind <<< 12)).mapSec fun x => { x with keyNext := (x.keyNext + 1) % 65536 }

/-- PART_CREATE (R324): a FREE PID becomes ACTIVE, its generation rises, and it gets its REST and LINK keys. A module that
drains admits no partition (Table ARC-6). -/
def execPartCreate (o : Origin) (pid : Nat) (s : State) : Res :=
  .next (s.command o K.partCreate 0 fun s _ =>
    if pid = 0 || decide (63 < pid) || s.pstate pid ≠ 0 || s.life.mstate = .draining then (s, Done.refused)
    else
      let s1 := (s.wr (K.pgen pid) ((s.rd (K.pgen pid) + 1) % 65536)).touchRetained
      let s2 := (s1.fillSlot pid 0 1).fillSlot pid 1 2
      let s3 := s2.each (List.range 4) fun s i => s.wr (K.partSlots pid i) 0
      ((s3.mapSec fun x => { x with logs := x.logs.filter fun l => l.pid ≠ pid }).setPart pid 1, Done.ok))

/-- PART_CLOSE (R325): the PID enters CLOSING, and the rack is told. A later write has no effect. The entry's range is 1 to
63 (R351). -/
def execPartClose (o : Origin) (pid : Nat) (s : State) : Res :=
  .next (s.command o K.partClose 0 fun s p =>
    match s.settle o p K.partClose 0 pid with
    | (s1, v, c) => (if s1.pstate v = 1 then (s1.closePart v).closingNotices v else s1, .now Status.ok c []))

/-- TEARDOWN_DRAIN_END (R338 steps 3 to 5): the drain has ended, or 50 µs have passed since CLOSING. The drain has not ended while
an atomic buffer holds a line: it is written back first. -/
def execTeardownDrainEnd (pid : Nat) (s : State) : Res :=
  .next (match s.sec.downs.find? fun d => d.pid = pid with
    | none => s
    | some d =>
      if s.pstate pid ≠ 2 then s
      else if d.closeAt + 62500 ≤ s.now then s.teardown pid
      else if !s.drained pid then s
      else if s.req.atoms.any fun l => l.pid = pid && !l.fetching then (s.backLeft pid).settleAll
      else s.teardown pid)

/-! ### Ownership and zero-fill (R326 to R328) -/

/-- The `n` granules from `g` satisfy `p`; the last one is looked at first. -/
def allGranules (p : Nat → Bool) (g : Nat) : Nat → Bool
  | 0 => true
  | n + 1 => p (g + n) && allGranules p g n

/-- OWN_GRANT (R327). -/
def execOwnGrant (o : Origin) (base count pid : Nat) (s : State) : Res :=
  .next (s.command o K.ownGrant 0 fun s _ =>
    if base % 65536 ≠ 0 || decide (63 < pid) || s.pstate pid ≠ 1 ||
        !allGranules (fun g => s.grantable (g * 65536) && bits (s.granule g) 7 6 = 0) (base / 65536) count then (s, Done.refused)
    else (s.each (List.range count) fun s i => s.setGranule (base / 65536 + i) (0x40 + pid), Done.ok))

/-- OWN_RELEASE (R327): the span belongs to one PID; it goes to SCRUB. -/
def execOwnRelease (o : Origin) (base count : Nat) (s : State) : Res :=
  .next (s.command o K.ownRelease 0 fun s _ =>
    let g0 := base / 65536
    let v := s.granule g0
    if base % 65536 ≠ 0 || bits v 7 6 ≠ 1 || !allGranules (fun g => s.grantable (g * 65536) && s.granule g = v) g0 count then
      (s, Done.refused)
    else (s.scrub ((List.range count).map fun i => g0 + i) none, Done.ok))

/-- The lines of a granule read zero, and none is poisoned. -/
def State.zeroGranule (s : State) (g : Nat) : State :=
  { s with
    mem := bytesDrop s.mem (g * 65536) (g * 65536 + 65536)
    poison := s.poison.filter fun l => l / 1024 ≠ g
    written := s.written.filter fun l => l / 1024 ≠ g }

/-- Zero-fill runs: not in OFF, not while a cap pauses TC7 work, and on an expander only while its link is up. -/
def State.fills? (s : State) (dev : Nat) : Bool :=
  s.life.mstate ≠ .off && s.life.mstate ≠ .restore && s.life.mstate ≠ .selftest && s.power.measures = 0 && (dev = 0 || (s.rd (K.cpMode (dev - 1)) = 2 && (s.cport (dev - 1)).up))

/-- ZERO_FILL_GRANULE_DONE (R328): the granule that the device fills becomes unowned; the last one of a teardown ends it.
Log entry 49 (DEDUCED). -/
def execZeroFillGranuleDone (dev : Nat) (s : State) : Res :=
  .next (match s.fills.find? fun f => f.dev = dev with
    | none => s
    | some f =>
      if !s.fills? dev then s
      else
        let rest := if f.next + 1 < f.stop then [{ f with next := f.next + 1 }] else []
        let k := s.fills.findIdx fun e => e.dev = dev
        let s1 := ((s.mapFills fun l => l.take k ++ rest ++ l.drop (k + 1)).zeroGranule f.next).setGranule f.next 0
        match f.teardown with
        | none => s1
        | some pid =>
          let s2 := s1.setDown pid fun d => { d with zeroed := d.zeroed + 1, filling := d.filling - 1 }
          if s2.sec.downs.any fun d => d.pid = pid && d.filling = 0 then s2.downEnd pid else s2)

/-! ### Keys and attestation (R332, R337) -/

/-- A slot that an active bounce session, or a flow mirror session of the PID, uses. -/
def State.slotInUse (s : State) (pid slot : Nat) : Bool :=
  let v := s.rd (K.keySlot pid slot)
  (bits v 15 12 = 3 && s.ep.bounces.any fun b => b.op.pid = pid && b.op.keyId = v / 65536 && !b.failed) ||
    (bits v 15 12 = 4 && s.mirKey pid = some (v / 65536) &&
      (List.range 8).any fun n => s.rd (K.mirMode n) = 4 && s.rd (K.mirPid n) = pid)

/-- KEY_AGREE (R332): from the slot's PID only. -/
def execKeyAgree (o : Origin) (pid slot kind : Nat) (pub nonce : List Byte) (s : State) : Res :=
  .next (s.commandIf (decide (pid < 64)) o (K.keyAgree pid) 0 fun s p =>
    if p ≠ pid || s.pstate pid ≠ 1 || decide (slot < 2) || decide (7 < slot) || !(kind = 3 || kind = 4) ||
        pub.length ≠ 97 || nonce.length ≠ 48 || s.slotInUse pid slot then (s, Done.refused)
    else
      let id := s.sec.keyNext
      ((s.fillSlot pid slot kind).mapSec fun x => { x with
        keyReplies := (x.keyReplies.filter fun k => k.pid ≠ pid) ++ [⟨pid, id, pub, nonce⟩] }, Done.ok))

/-- ATTEST (R337): one pending nonce for PID 0 and one for the partition. -/
def execAttest (o : Origin) (pid : Nat) (nonce : List Byte) (s : State) : Res :=
  .next (s.commandIf (decide (pid < 64)) o (K.attest pid) 0 fun s p =>
    if nonce.length ≠ 48 then (s, Done.refused)
    else
      (s.mapSec fun x => { x with
        nonces := (x.nonces.filter fun e => !(e.1 = pid && e.2.1 = decide (p = 0))) ++ [(pid, decide (p = 0), nonce)] }, Done.ok))

/-! ### Registered regions (R336) -/

/-- REGION_REGISTER (R336): one at a time; REGION_REGISTER_COMPLETE ends the command. -/
def execRegionRegister (o : Origin) (pid fva len : Nat) (s : State) : Res :=
  .next (s.commandIf (decide (pid < 64)) o (K.regionRegister pid) 0 fun s _ =>
    if s.pstate pid = 2 || s.pstate pid = 3 then (s, Done.st Status.closed)
    else if s.pstate pid ≠ 1 || decide (2 ^ 57 ≤ fva) || fva % 4096 ≠ 0 || decide (len < 4096) || decide (2 ^ 40 < len) || s.lowEp.isNone || s.sec.region.isSome then
      (s, Done.refused)
    else
      let r := s.moduleRead pid fva len
      (r.1.mapSec fun x => { x with region := some ⟨o, pid, fva, len, r.2⟩ }, .later))

/-- REGION_REGISTER_COMPLETE (R336): the digest of the bytes as read is appended, or the read's status ends the command. A read
that was lost with its EP starts again (R126). -/
def execRegionRegisterComplete (pid : Nat) (s : State) : Res :=
  .next (match s.sec.region.filter fun r => r.pid = pid with
    | none => s
    | some r =>
      let s1 := (s.mapSec fun x => { x with region := none }).dropTx r.tx
      match s.readEnd r.tx r.len with
      | .open_ => s
      | .lost =>
        if s.lowEp.isNone then s1.reply r.origin Status.refused false []
        else
          let n := s.moduleRead r.pid r.fva r.len
          n.1.mapSec fun x => { x with region := some { r with tx := n.2 } }
      | .failed st => s1.reply r.origin st false []
      | .ok d =>
        if s1.pstate r.pid ≠ 1 then s1.reply r.origin Status.closed false []
        else (s1.measure r.pid 2 0 r.fva r.len (sha384 d)).reply r.origin Status.ok false [])

end Sys2Proof.Machine
end

