-- ==== Sys2Proof/Machine/Power.lean ====
section
/-! DEFINITION. Module states, input power, start-up, and caps (R25 to R27, R364, R383 to R386, R395 to R408). -/

namespace Sys2Proof

/-- The result of one die; a die that was not reported has no active cluster. -/
def SelfTest.die (r : SelfTest) (sd : Nat) : DieTest := r.dies.getD sd ⟨0, 0, 0, 0⟩

/-- The fault code and unit of a failed SELFTEST (R383). -/
def SelfTest.fatal (r : SelfTest) : Option Nat :=
  if !r.xdOk then some 0x0E else if !r.hbmOk then some 0x0D else if !r.epOk then some 0x0A else if !r.oeOk then some 0x0B else none

end Sys2Proof

namespace Sys2Proof.Machine

open Sys2Proof

/-! ### Input power -/

/-- The module in OFF: what outlives power is the non-volatile store, the input's own state and the part's order code. The
model's queue, its list of what was sent and its counters of free values go on. -/
def State.poweredDown (s : State) : State :=
  { State.reset with
    pending := s.pending, out := s.out, nv := { s.nv with dirty := false, waiting := [] }
    life := { State.reset.life with order768 := s.life.order768 }
    power := { State.reset.power with inputOn := s.power.inputOn, fuseOpen := s.power.fuseOpen
                                      redLight := s.power.redLight, standby := s.power.standby }
    nextId := s.nextId, free := s.free }

/-- R27: the retained state is saved within the hold-up, and the module enters OFF. Fault 0x10 is logged (Table FLT-1). -/
def State.powerLost (s : State) : State :=
  if s.life.mstate = .off then s else ((s.logFault 0x10 0 0 0 0 0 0).saveRetained).poweredDown

/-- Input is gone: what the converter waits for in standby is a new application of power (R364). -/
def State.inputGone (s : State) : State := s.powerLost.mapPower fun p => { p with inputOn := false, standby := false }

/-- INPUT_LOSS (R27, R395): input below 240 V for more than 50 µs. -/
def execInputLoss (s : State) : Res := .next s.inputGone

/-- PRESENT_LOOP_OPEN (R402): handled as input loss. -/
def execPresentLoopOpen (s : State) : Res := .next s.inputGone

/-- INPUT_OVERVOLTAGE (R397): conversion stops; handled as input loss. -/
def execInputOvervoltage (s : State) : Res := .next s.inputGone

/-- INPUT_OVERCURRENT (R397): the fuse opens and latches; the trip is counted and committed, and the module saves its
retained state as on input loss. -/
def execInputOvercurrent (s : State) : Res :=
  .next (if s.power.fuseOpen then s
    else
      let s1 := if s.managed then (s.bump K.fuseTrips 1).touchRetained else s
      s1.inputGone.mapPower fun p => { p with fuseOpen := true })

/-- FUSE_RELEASE (R397): input has been removed for 1 s. -/
def execFuseRelease (s : State) : Res :=
  .next (if s.power.fuseOpen then s.mapPower fun p => { p with fuseOpen := false, inputOn := false, standby := false } else s)

/-- REVERSED_POLARITY (R397): the input is blocked at connection; the red indicator lights and the module stays OFF. -/
def execReversedPolarity (s : State) : Res :=
  .next (if s.life.mstate = .off then s.mapPower fun p => { p with redLight := 1, inputOn := false } else s)

/-- INPUT_RESTART (R398): input has been at or above 255 V for 100 ms; an open fuse blocks it. -/
def execInputRestart (s : State) : Res :=
  .next (if s.life.mstate = .off && !s.power.fuseOpen then s.mapPower fun p => { p with inputOn := true, redLight := 0 } else s)

/-- POWER_GOOD (R408): the local counter starts at 0 and the module enters RESTORE. Without protective earth it stays in OFF
and the red indicator flashes (Table PWR-3). -/
def execPowerGood (peOk : Bool) (s : State) : Res :=
  .next (if s.life.mstate ≠ .off || !s.power.inputOn || s.power.fuseOpen || s.power.standby then s
    else if !peOk then s.mapPower fun p => { p with redLight := 2 }
    else ((s.poweredDown).mapPower fun p => { p with redLight := 0 }).enter .restore)

/-! ### A cap takes effect (R399) -/

/-- POWER_STAGE changes; it sends an EVENT (R357). -/
def State.setStage (s : State) (v : Nat) : State := if s.rd K.powerStage = v then s else (s.wr K.powerStage v).event K.powerStage

/-- Measures 4 and 5: the trained ports enter electrical idle, but for those that an active gate entry needs (R224). -/
def State.idlePorts (s : State) (m : Nat) : State :=
  if m = 4 then
    s.each ((List.range 16).filter fun n => s.fpTrained n && !(s.fport n).idle && !s.gateNear n) fun s n =>
      (s.emit (.symbol (.fp n) 1 0)).setFp n fun q => { q with idle := true }
  else if m = 5 then
    s.each ((List.range 16).filter fun n => s.apTrained n && !(s.aport n).idle && !s.gateNear (16 + s.bondOf n)) fun s n =>
      (s.emit (.symbol (.ap n) 1 0)).setAp n fun q => { q with idle := true }
  else s

/-- The next measure of Table PWR-4 is taken. -/
def State.nextMeasure (s : State) : State :=
  (s.mapPower fun p => { p with measures := p.measures + 1 }).idlePorts (s.power.measures + 1)

/-- INPUT_POWER is measured: a free value, since only the physical part supplies it. Log entry 8 (DESIGN CHOICE). -/
def State.measurePower (s : State) : State := (s.wr K.inputPower (Config.measured s.free % 2 ^ 32)).draw

/-- Stage 1: measures are taken in order, each only while INPUT_POWER still exceeds the cap; `n` are left.
Log entry 42 (DEDUCED). -/
def State.takeMeasures : Nat → State → State
  | 0, s => s
  | n + 1, s =>
    let s1 := s.measurePower
    if s1.rd K.powerCap < s1.rd K.inputPower then State.takeMeasures n s1.nextMeasure else s1

/-- One step of the release: the withheld gates, then the operating point, then the measures in reverse order.
Log entry 42 (DEDUCED). -/
def State.releaseStep (s : State) : State :=
  if s.power.stage3 then s.mapPower fun p => { p with stage3 := false }
  else if 0 < s.rd K.operatingPoint then
    let s1 := s.wr K.operatingPoint (s.rd K.operatingPoint - 1)
    s1.setStage (if s1.rd K.operatingPoint = 0 then 1 else 2)
  else
    let s1 := s.mapPower fun p => { p with measures := p.measures - 1 }
    if s1.power.measures = 0 then s1.setStage 0 else s1

/-- A new cap takes effect: below INPUT_POWER stage 1 starts or goes on, above it a release starts. In an emergency throttle
the cap waits for its end (R400). Log entry 42 (DEDUCED). -/
def State.applyCap (s : State) (old : Nat) : State :=
  let s1 := s.measurePower
  if s1.rd K.emergency = 1 then s1
  else if s1.rd K.powerCap < s1.rd K.inputPower then
    (if s1.rd K.powerStage = 0 then s1.setStage 1 else s1).takeMeasures (7 - s1.power.measures)
  else if old < s1.rd K.powerCap then s1.releaseStep
  else s1

/-! ### RESTORE, SELFTEST, TRAINING -/

/-- What RESTORE leaves besides the retained entries (R408, R328, R263, Section on PID 0 in chapter 13): POWER_CAP, every
link masked, the HBM's granules as one span for zero-fill, and the REST and LINK slots of PID 0. The restored cap applies at once (R27). -/
def State.afterRestore (s : State) : State :=
  let s1 := s.wr K.powerCap (s.rd K.capAtRestore)
  let s2 := s1.wr K.peerMask (s1.peerMids.foldl setBit 0)
  let s3 := (s2.mapOwn fun _ => []).mapFills fun _ => [⟨0, 0, hbmBytes s2 / 65536, none⟩]
  (((s3.fillSlot 0 0 1).fillSlot 0 1 2).mapLife fun l => { l with restoredAt := s.now }).applyCap (s.rd K.capAtRestore)

/-- RESTORE_COMPLETE (R359): the rebuild of the retained entries, then SELFTEST. Log entry 50 (DEDUCED). -/
def execRestoreComplete (s : State) : Res :=
  .next (if s.life.mstate = .restore then ((s.rebuild).afterRestore).enter .selftest else s)

/-- Physical clusters of a die after SELFTEST, in physical order: the spare, physical cluster 4, stands in for 3.
Log entry 31 (DEDUCED). -/
def dieClusters (t : DieTest) : List Nat :=
  if t.cluster = 0 then (List.range 4).take t.active
  else if t.active = 0 then []
  else (List.range 4).take (min 3 (t.active - 1)) ++ [4]

/-- Physical cores of a cluster: the spare, physical core 8, stands in for 7. -/
def clusterCores (spare : Bool) : List Nat := if spare then [0, 1, 2, 3, 4, 5, 6, 8] else List.range 8

/-- The cores of a die: its first `cores` clusters use their spare core, its first `engines` cores their spare engine.
Log entry 31 (DEDUCED). -/
def dieCores (sd : Nat) (t : DieTest) : List CoreSt :=
  let cs := dieClusters t
  let places := ((cs.zip (List.range cs.length)).map fun c => (clusterCores (decide (c.2 < t.cores))).map fun k => (c.1, k)).flatten
  (places.zip (List.range places.length)).map fun p =>
    ⟨sd, p.1.1, p.1.2, 64, none, false, none, [], b2n (decide (p.2 < t.engines)), 0, false, 0⟩

/-- R386, R235: the spare map is built afresh, and the ring takes every tile buffer. Log entry 31 (DEDUCED). -/
def State.afterSelftest (s : State) (r : SelfTest) : State :=
  let s1 := s.mapStn fun x => { x with
    flows := [], insts := [], strms := [], loads := [], retiring := []
    cores := ((List.range 4).map fun d => dieCores d (r.die d)).flatten
    clusters := ((List.range 4).map fun d => (dieClusters (r.die d)).map fun c => (d, c)).flatten
    banks := ((List.range 4).map fun d => (dieClusters (r.die d)).map fun c => (d, c)).flatten
    clSpare := (List.range 4).filter fun d => decide (0 < (r.die d).cluster) }
  let s2 := s1.each (List.range 4) fun s d => s.wr (K.sdActive0 + d) (min 4 (dieClusters (r.die d)).length)
  let n := s2.rd K.tbufCount
  let s3 := s2.mapSw fun x => { x with tbCache := [], tbRef := [], tbRing := if n = 0 then [] else [(0, n)] }
  (((s3.wr K.tbufFree n).wr K.flowsLoaded 0).mapEp fun e => { e with dead := [] }).mapLnk fun l => { l with oeDead := [] }

/-- SELFTEST_COMPLETE (R383, R386): TRAINING, where a retained analysis port transmits again (R246), or FAILED on a fatal result. -/
def execSelftestComplete (r : SelfTest) (s : State) : Res :=
  .next (if s.life.mstate ≠ .selftest then s
    else
      match r.fatal with
      | some kind => (s.enterFailed kind 0).settleAll
      | none => ((s.afterSelftest r).enter .training).analysisLaser)

/-- Expected peers that are present, that is whose light arrives, have trained and agreed keys. -/
def State.presentTrained (s : State) : Bool :=
  s.peerMids.all fun d =>
    let p := s.portTo d
    !(s.fport p).light || (s.fpTrained p && (s.fport p).keyed)

/-- TRAINING_EXIT (R26): rack time has been loaded (R212); MEMBER under the three conditions, otherwise SHADOW. At formation
the route tables hold their defaults (R253). -/
def execTrainingExit (s : State) : Res :=
  .next (if s.life.mstate ≠ .training || !(s.tim.everLocked || s.locked) then s
    else if s.rd K.joinMode = 1 && s.locked && s.presentTrained then
      (((s.defaultVias.swapBanks).enterMember).notices).settleAll
    else s.enter .shadow)

/-! ### Fatal faults (R383, R385) -/

/-- A fatal fault: from SELFTEST on, and not in FAILED already (Table ARC-6). -/
def State.fatal (s : State) (kind unit : Nat) : State :=
  if s.managed && s.life.mstate ≠ .failed then s.enterFailed kind unit else s

/-- FATAL_FAULT (R383). -/
def execFatalFault (code unit : Nat) (s : State) : Res := .next (s.fatal (code % 256) (unit % 256)).settleAll

/-- FAULT_DECLARE (R385): a write of 1 from PID 0, whatever the module's state. -/
def execFaultDeclare (o : Origin) (v : Nat) (s : State) : Res :=
  .next (s.command o K.faultDeclare 0 fun s p =>
    match s.settle o p K.faultDeclare 0 v with
    | (s1, v1, c) => (if v1 = 1 then (s1.fatal 0x13 0).settleAll else s1, .now Status.ok c []))

/-! ### State requests (R364) -/

/-- No request, flow or copy descriptor of the module is in flight. -/
def State.quiet (s : State) : Bool :=
  (s.req.txs.all Tx.closed) && (s.stn.flows.all fun f => f.fst ≠ .armed && f.fst ≠ .running) &&
    (s.ep.queues.all fun q => q.runs.isEmpty && q.head = q.tail) && s.homeReqs.isEmpty && s.ep.buffered.isEmpty &&
    s.dlv.peers.all fun p => p.opens.isEmpty && p.waitq.isEmpty

/-- R364: drained. Log entry 45 (DEDUCED). -/
def State.isDrained (s : State) : Bool := s.life.mstate = .draining && s.life.homesMoved && s.quiet

/-- A POWER_OFF or MAINTAIN takes effect: the retained image is committed, then the converter goes to standby, or the module
enters MAINTENANCE with its attach and CXL ports dark. Log entry 45 (DEDUCED). -/
def State.leaveDraining (s : State) (r : HeldReq) (o : Origin) : State :=
  let s1 := s.commitImage.mapLife fun l => { l with heldReq := none }
  let s2 := (s1.each s1.nv.waiting fun s w => s.reply w.origin Status.ok w.clamped []).mapNv fun n => { n with waiting := [] }
  match r with
  | .powerOff => ((s2.reply o Status.ok false []).poweredDown).mapPower fun p => { p with standby := true }
  | .maintain => ((s2.enter .maintenance).attachDark).reply o Status.ok false []

/-- POWER_OFF and MAINTAIN: at once when drained, else held; a later request replaces the one that waits.
Log entry 45 (DEDUCED). -/
def State.askLeave (s : State) (r : HeldReq) (o : Origin) : State × Done :=
  if s.life.mstate ≠ .draining then (s, Done.refused)
  else if s.isDrained then (s.leaveDraining r o, .later)
  else
    let s1 := match s.life.heldReq with
      | some (_, o1) => s.reply o1 Status.aborted false []
      | none => s
    (s1.mapLife fun l => { l with heldReq := some (r, o) }, .later)

/-- DRAIN (R364): MEMBER to DRAINING; held atomic lines are written back (R77); peers learn of it so that they leave the module out of every path set (Table ARC-6),
and a shadow loses its partner (R392). Log entries 15 (DEDUCED), 45 (DEDUCED), 59 (DESIGN CHOICE). -/
def execDrain (o : Origin) (s : State) : Res :=
  .next (s.command o K.stateRequest 0 fun s _ =>
    if s.life.mstate = .draining then (s, Done.ok)
    else if s.life.mstate = .member then
      let s1 := ((s.mapLife fun l => { l with homesMoved := false, heldReq := none }).enter .draining).wr K.shadowFeed 31
      ((s1.notices.writeBackAll fun _ => true).1.settleAll, Done.ok)
    else (s, Done.refused))

/-- RESTART (R364): MAINTENANCE to SELFTEST, where every port is dark. -/
def execRestart (o : Origin) (s : State) : Res :=
  .next (s.command o K.stateRequest 0 fun s _ =>
    if s.life.mstate = .maintenance then (((s.enter .selftest).fabricDark).attachDark.settleAll, Done.ok) else (s, Done.refused))

/-- RECOVER (Table ODP-7): FAILED to MAINTENANCE. -/
def execRecover (o : Origin) (s : State) : Res :=
  .next (s.command o K.stateRequest 0 fun s _ =>
    if s.life.mstate = .failed then ((s.enter .maintenance).analysisLaser, Done.ok) else (s, Done.refused))

/-- POWER_OFF (R364). -/
def execPowerOff (o : Origin) (s : State) : Res :=
  .next (s.command o K.stateRequest 0 fun s _ => s.askLeave .powerOff o)

/-- MAINTAIN (R364). -/
def execMaintain (o : Origin) (s : State) : Res :=
  .next (s.command o K.stateRequest 0 fun s _ => s.askLeave .maintain o)

/-- HOMES_MOVED (R364): 1 records, in DRAINING, that the homed ranges have moved. -/
def execHomesMoved (o : Origin) (v : Nat) (s : State) : Res :=
  .next (s.command o K.homesMoved 0 fun s p =>
    match s.settle o p K.homesMoved 0 v with
    | (s1, v1, c) =>
      (if v1 = 1 && s1.life.mstate = .draining then s1.mapLife fun l => { l with homesMoved := true } else s1, .now Status.ok c []))

/-- MODULE_DRAINED (R364): the request that waits takes effect. -/
def execModuleDrained (s : State) : Res :=
  .next (if s.isDrained then
      match s.life.heldReq with
      | some (r, o) => s.leaveDraining r o
      | none => s
    else s)

/-! ### Caps (R399) -/

/-- POWER_CAP_WRITE (R399, R351). -/
def execPowerCapWrite (o : Origin) (v : Nat) (s : State) : Res :=
  .next (s.command o K.powerCap 0 fun s p =>
    match s.settle o p K.powerCap 0 v with
    | (s1, v1, c) =>
      let s2 := if v < 950 then s1.bump K.capsBelowFloor 1 else s1
      ((s2.wr K.powerCap v1).applyCap (s.rd K.powerCap), .now Status.ok c []))

/-- CAP_STAGE_2 (R399): `watts`, the INPUT_POWER, still exceeds the cap, in whatever state (R27); the rest of stage 1 is taken and the next
operating point follows. Log entry 42 (DEDUCED). -/
def execCapStage2 (watts : Nat) (s : State) : Res :=
  .next (if s.life.mstate = .off || watts ≤ s.rd K.powerCap || s.rd K.emergency = 1 || s.rd K.operatingPoint = 4 then s
    else
      let s1 := (s.wr K.inputPower watts).each (List.range (7 - s.power.measures)) fun s _ => s.nextMeasure
      (s1.wr K.operatingPoint (s1.rd K.operatingPoint + 1)).setStage 2)

/-- Every trained port enters electrical idle, those that gate entries need too. -/
def State.idleAll (s : State) : State :=
  let s1 := s.each ((List.range 16).filter fun n => s.fpTrained n && !(s.fport n).idle) fun s n =>
    (s.emit (.symbol (.fp n) 1 0)).setFp n fun q => { q with idle := true }
  s1.each ((List.range 16).filter fun n => s.apTrained n && !(s.aport n).idle) fun s n =>
    (s.emit (.symbol (.ap n) 1 0)).setAp n fun q => { q with idle := true }

/-- CAP_STAGE_3 (R399, R224): at OP4, with every measure taken, the lanes, bridges and station clocks of active gate entries
are withheld. Log entry 42 (DEDUCED). -/
def execCapStage3 (watts : Nat) (s : State) : Res :=
  .next (if s.life.mstate ≠ .off && s.rd K.powerStage = 2 && decide (s.rd K.powerCap < watts) && s.rd K.emergency = 0 &&
      s.rd K.operatingPoint = 4 && s.power.measures = 7 then
      ((s.wr K.inputPower watts).mapPower fun p => { p with stage3 := true }).idleAll
    else s)

/-- CAP_RELEASE (R399): INPUT_POWER is below the cap, and the next step of the release follows.
Log entry 42 (DEDUCED). -/
def execCapRelease (watts : Nat) (s : State) : Res :=
  .next (if s.life.mstate ≠ .off && s.rd K.powerStage ≠ 0 && decide (watts < s.rd K.powerCap) && s.rd K.emergency = 0 then
      ((s.wr K.inputPower watts).releaseStep).settleAll
    else s)

/-! ### Emergency throttle (R400) -/

/-- EMERGENCY_THROTTLE: input current above 17.0 A, or a junction at 105 °C or more: OP4, and no station clock runs. -/
def execEmergencyThrottle (overCurrent : Bool) (tempDeci : Nat) (s : State) : Res :=
  .next (if s.life.mstate = .off || s.rd K.emergency = 1 || !(overCurrent || decide (1050 ≤ tempDeci)) then s
    else
      (((s.mapPower fun p => { p with opBefore := s.rd K.operatingPoint }).wr K.emergency 1).bump K.emergencyEvents 1).wr
        K.operatingPoint 4)

/-- EMERGENCY_THROTTLE_END: the cause has been absent for 10 ms; the cap sequence governs again. -/
def execEmergencyThrottleEnd (s : State) : Res :=
  .next (if s.rd K.emergency = 1 then ((s.wr K.emergency 0).wr K.operatingPoint s.power.opBefore).settleAll else s)

/-- THERMAL_SHUTDOWN: a junction at 115 °C; the converter stops, handled as input loss with code 0x10. The module restarts
only under R398. -/
def execThermalShutdown (tempDeci : Nat) (s : State) : Res :=
  .next (if 1150 ≤ tempDeci then s.inputGone else s)

end Sys2Proof.Machine
end

