-- ==== Sys2Proof/Machine/Faults.lean ====
section
/-! DEFINITION. Die faults and the management ports (R379 to R381, R384, R387). -/

namespace Sys2Proof.Machine

open Sys2Proof

/-- STATION_DIE_FAULT (R379): every instance of the die fails with CHECK_FAIL; the module stays in its state.
Log entry 55 (DEDUCED). -/
def execStationDieFault (sd : Nat) (s : State) : Res :=
  .next (if s.managed && decide (sd < 4) then
      ((s.logFault 0x09 sd 0 4 Status.checkFail 0 0).dieFails sd Status.checkFail).settleAll
    else s)

/-! ### End-point dies (R380) -/

/-- The transactions of an EP's agents other than its contexts and the cores of its SD. -/
def State.epTxs (s : State) (ep : Nat) : List Tx :=
  s.req.txs.filter fun t => match t.agent with
    | .queue e _ => e = ep
    | .window c => c = ep
    | .reader e => e = ep
    | .ctx _ _ => false
    | .core _ _ _ => false

/-- Copy descriptors and arrival counters of an EP are lost: no completion record is written. A QUEUE_RESET that waits on
one of its queues ends with ABORTED. -/
def State.loseQueues (s : State) (ep : Nat) : State :=
  let qs := s.ep.queues.filter fun q => q.ep = ep
  let s1 := s.mapEp fun e => { e with
    queues := e.queues.filter fun q => q.ep ≠ ep
    ctrs := e.ctrs.filter fun c => c.ep ≠ ep
    waits := e.waits.filter fun w => w.ep ≠ ep
    bounces := e.bounces.filter fun b => b.op.cp ≠ ep
    buffered := e.buffered.filter fun b => b.m.ep ≠ ep
    mbxHost := e.mbxHost.filter fun r => r.cp ≠ ep }
  let s2 := s1.each qs fun s q => match q.reset with
    | some o => s.reply o Status.aborted false []
    | none => s
  (s2.each (s2.epTxs ep) fun s t => s.dropTx t.id).mapReq fun r => { r with
    ats := r.ats.filter fun a => a.cp ≠ ep, atsInv := r.atsInv.filter fun a => a.cp ≠ ep }

/-- Translation and reach caches of an EP are gone; its parked requests complete nowhere, and their records stay open. -/
def State.loseXlate (s : State) (ep : Nat) : State :=
  s.mapXl fun x => { x with
    rtc := x.rtc.filter fun e => e.ep ≠ ep
    nodes := x.nodes.filter fun e => e.ep ≠ ep
    walks := x.walks.filter fun w => w.ep ≠ ep
    reach := x.reach.filter fun l => l.ep ≠ ep
    filling := x.filling.filter fun f => f.ep ≠ ep }

/-- The lines that the EP's atomic buffer held and that had updates. -/
def State.linesHeld (s : State) (ep : Nat) : Nat := (s.req.atoms.filter fun l => l.ep = ep && l.mods ≠ 0).length

/-- Updates held in the EP's atomic buffer are lost; an atomic that waits for a fetch there completes with HOME_LOST. -/
def State.loseAtoms (s : State) (ep : Nat) : State :=
  let gone := s.req.atoms.filter fun l => l.ep = ep
  let s1 := s.mapReq fun r => { r with atoms := r.atoms.filter fun l => l.ep ≠ ep }
  s1.each (gone.map ALine.waiters).flatten fun s i => match s.txOf i with
    | some t => if t.closed then s else s.completeTx t Status.homeLost
    | none => s

/-- EP_DIE_FAULT (R380). DETAIL of the log entry is the number of lost atomic lines; the SD of the same index fails too.
Log entry 55 (DEDUCED). -/
def execEpDieFault (ep : Nat) (s : State) : Res :=
  .next (if s.managed && decide (ep < 4) && s.epUp ep then
      let s1 := s.logFault 0x0A ep 0 4 Status.homeLost 0 (s.linesHeld ep)
      let s2 := s1.each ((List.range 16).filter fun a => epOfPort a = ep && s1.bondOf a = a) fun s b => s.apDown b psDark
      let s3 := ((s2.cpDown ep).dieFails ep Status.homeLost).loseAtoms ep
      (((s3.loseQueues ep).loseXlate ep).mapEp fun e => { e with dead := insertOnce e.dead ep }).settleAll
    else s)

/-! ### Optical dies (R381) -/

/-- OE_DIE_FAULT: the lasers go off and both fabric ports go down until the next SELFTEST. Log entry 55 (DEDUCED). -/
def execOeDieFault (oe : Nat) (s : State) : Res :=
  .next (if s.managed && decide (oe < 8) && !s.lnk.oeDead.contains oe then
      let s1 := (s.logFault 0x0B oe 0 4 0 0 0).mapLnk fun l => { l with oeDead := insertOnce l.oeDead oe }
      ((s1.fpDown (2 * oe) psDark 0 false).fpDown (2 * oe + 1) psDark 0 false).settleAll
    else s)

/-! ### Management ports (R384) -/

/-- The link entry of MA or MB. -/
def mgmtKey (portB : Bool) : Nat := if portB then K.mbLink else K.maLink

/-- MANAGEMENT_LINK_DOWN: the port reads 0; everything else stays as it is. Log entry 55 (DEDUCED). -/
def execManagementLinkDown (portB : Bool) (s : State) : Res :=
  .next (if s.life.mstate = .off || s.rd (mgmtKey portB) = 0 then s
    else (s.wr (mgmtKey portB) 0).logFault 0x11 (b2n portB) 0 4 0 0 0)

/-- MANAGEMENT_LINK_UP. -/
def execManagementLinkUp (portB : Bool) (s : State) : Res :=
  .next (if s.life.mstate = .off then s else s.wr (mgmtKey portB) 1)

end Sys2Proof.Machine
end

