-- ==== Sys2Proof/Machine/Image.lean ====
section
/-! DEFINITION. Flow images (R121 to R127, R135, R159, R188): parsing, the checks of a load, placement on cores, and the
state that a loaded flow starts with. -/

namespace Sys2Proof.Machine

open Sys2Proof

/-! ### Parsing (Tables STN-4 to STN-7) -/

/-- 64-bit word at byte offset `o`. -/
def wordAt (d : List Byte) (o : Nat) : Nat := leNat ((d.drop o).take 8)

/-- The image header. -/
structure ImgHead where
  flow : Nat
  bytes : Nat
  nStn : Nat
  nStr : Nat
  stnOff : Nat
  strOff : Nat
  consOff : Nat
  nCons : Nat
  doneFva : Nat
  set : Nat
  deriving DecidableEq, Repr

def imgHead (d : List Byte) : ImgHead where
  flow := bits (wordAt d 0) 15 0
  bytes := bits (wordAt d 8) 63 32
  nStn := bits (wordAt d 8) 31 16
  nStr := bits (wordAt d 8) 15 0
  stnOff := bits (wordAt d 16) 63 32
  strOff := bits (wordAt d 16) 31 0
  consOff := bits (wordAt d 24) 63 32
  nCons := bits (wordAt d 24) 31 0
  doneFva := bits (wordAt d 32) 56 0
  set := bits (wordAt d 40) 63 48

/-- A station entry. -/
structure ImgStn where
  typ : Nat
  mid : Nat
  lcl : Nat
  owner : Nat
  index : Nat
  progOff : Nat
  progLen : Nat
  parOff : Nat
  parLen : Nat
  csram : Nat
  deriving DecidableEq, Repr

def imgStn (d : List Byte) (o : Nat) : ImgStn where
  typ := bits (wordAt d o) 63 60
  mid := bits (wordAt d o) 59 55
  lcl := bits (wordAt d o) 54 50
  owner := bits (wordAt d o) 31 16
  index := bits (wordAt d o) 11 0
  progOff := bits (wordAt d (o + 8)) 63 32
  progLen := bits (wordAt d (o + 8)) 10 0
  parOff := bits (wordAt d (o + 16)) 63 32
  parLen := bits (wordAt d (o + 16)) 16 0
  csram := bits (wordAt d (o + 24)) 40 32

/-- A stream entry. -/
structure ImgStr where
  sid : Nat
  pattach : Bool
  tc : Nat
  producer : Nat
  depth : Nat
  nCons : Nat
  first : Nat
  pmid : Nat
  pep : Nat
  pctx : Nat
  spill : Bool
  sram : Nat
  deriving DecidableEq, Repr

def imgStr (d : List Byte) (o : Nat) : ImgStr where
  sid := bits (wordAt d o) 63 48
  pattach := (wordAt d o).testBit 47
  tc := bits (wordAt d o) 46 44
  producer := bits (wordAt d o) 43 32
  depth := bits (wordAt d o) 31 20 + 1
  nCons := bits (wordAt d o) 19 15 + 1
  first := bits (wordAt d (o + 8)) 63 32
  pmid := bits (wordAt d (o + 8)) 30 26
  pep := bits (wordAt d (o + 8)) 25 24
  pctx := bits (wordAt d (o + 8)) 23 14
  spill := (wordAt d (o + 16)).testBit 63
  sram := bits (wordAt d (o + 16)) 47 32

/-- A consumer entry. -/
structure ImgCons where
  attach : Bool
  mid : Nat
  ep : Nat
  ctx : Nat
  station : Nat
  deriving DecidableEq, Repr

def imgCons (d : List Byte) (o : Nat) : ImgCons :=
  let w := leNat ((d.drop o).take 4)
  ⟨w.testBit 31, bits w 30 26, bits w 25 24, bits w 23 14, bits w 11 0⟩

/-- A whole image. -/
structure Img where
  head : ImgHead
  stns : List ImgStn
  strs : List ImgStr
  cons : List ImgCons
  raw : List Byte
  deriving DecidableEq, Repr

/-- The tables lie inside the image, on 64-byte boundaries, within the limits of Tables STN-4 and STN-8. The spec does not
relate IMAGE_BYTES to the length of the load; the model asks that it is not above it. Log entry 69 (DESIGN CHOICE). -/
def headOk (d : List Byte) (len : Nat) : Bool :=
  let h := imgHead d
  bits (wordAt d 0) 63 32 = 0x4D39464C && bits (wordAt d 0) 31 16 = 1 && decide (64 ≤ h.bytes) &&
    decide (h.bytes ≤ min len d.length) && decide (h.bytes ≤ 4194304) &&
    decide (1 ≤ h.nStn) && decide (h.nStn ≤ 4096) && decide (1 ≤ h.nStr) && decide (h.nStr ≤ 8192) &&
    h.stnOff % 64 = 0 && h.strOff % 64 = 0 && h.consOff % 64 = 0 &&
    decide (h.stnOff + 64 * h.nStn ≤ h.bytes) && decide (h.strOff + 32 * h.nStr ≤ h.bytes) &&
    decide (h.consOff + 4 * h.nCons ≤ h.bytes) && h.doneFva % 64 = 0

/-- Parse an image whose header passes. -/
def parseImg (d : List Byte) (len : Nat) : Option Img :=
  if headOk d len then
    let h := imgHead d
    some ⟨h, (List.range h.nStn).map fun i => imgStn d (h.stnOff + 64 * i),
      (List.range h.nStr).map fun i => imgStr d (h.strOff + 32 * i),
      (List.range h.nCons).map fun i => imgCons d (h.consOff + 4 * i), d.take h.bytes⟩
  else none

/-- The consumer entries of a stream. -/
def Img.consOf (m : Img) (t : ImgStr) : List ImgCons := (m.cons.drop t.first).take t.nCons

/-- Streams in table order that name station `i` as a consumer, or as the producer (R156). -/
def Img.inputs (m : Img) (i : Nat) : List Nat :=
  (m.strs.filter fun t => (m.consOf t).any fun c => !c.attach && c.station = i).map ImgStr.sid

def Img.outputs (m : Img) (i : Nat) : List Nat :=
  (m.strs.filter fun t => !t.pattach && t.producer = i).map ImgStr.sid

/-! ### Programs (R159) -/

/-- Opcodes and SUB codes of Tables TIS-5 to TIS-9 and after. -/
def opSubOk (op sub : Nat) : Bool :=
  if op ≤ 0x0A then (op ≠ 0x03 || sub ≤ 6) && (op ≠ 0x0A || sub ≤ 4)
  else if 0x10 ≤ op && op ≤ 0x19 then op ≠ 0x16 || sub ≤ 3
  else if 0x20 ≤ op && op ≤ 0x28 then true
  else if 0x30 ≤ op && op ≤ 0x3B then
    (op ≠ 0x36 || sub ≤ 2) && (op ≠ 0x37 || sub ≤ 3) && ((op ≠ 0x38 && op ≠ 0x39) || sub ≤ 1)
  else if 0x40 ≤ op && op ≤ 0x44 then op ≠ 0x43 || sub ≤ 2
  else if op = 0x50 || op = 0x51 || op = 0x58 || op = 0x59 then true
  else if op = 0x60 then decide (sub ≤ 2)
  else if op = 0x61 then decide (sub ≤ 1)
  else false

/-- FA and FD codes that an opcode allows. OWN counts for CAS only (R158), whose word is then an ownership flag of 8 bytes. -/
def opFmtOk (op sub fa fd : Nat) (own : Bool) : Bool :=
  let ii := isI fa && isI fd
  let qq := isQ fa && isQ fd
  if op = 0x18 then decide (fd ≤ 6)
  else if op = 0x25 then fd = 6 || (fd = 5 && !(own && sub = 7))
  else if op = 0x30 || op = 0x31 || op = 0x32 || op = 0x34 || op = 0x35 then ii || qq
  else if op = 0x33 then (fa = 0 || fa = 1 || fa = 5 || isQ fa) && (fd = 5 || fd = 6)
  else if op = 0x36 then ii || (qq && sub ≠ 2)
  else if op = 0x37 then ii && fmtBits fa = fmtBits fd
  else if op = 0x38 || op = 0x39 then ii
  else if op = 0x3A then (isI fa || isQ fa) && (fd = 5 || fd = 6)
  else if op = 0x3B then (fa = 0 || fa = 1 || isQ fa) && fd = 5
  else if op = 0x40 then ii
  else if op = 0x41 then isI fa && isQ fd
  else if op = 0x42 then isQ fa && isI fd
  else if op = 0x43 then qq
  else if op = 0x44 then (ii || qq) && fa = fd
  else true

/-- ORD and SCOPE of the memory instructions (Table ORD-2). -/
def opOrdOk (op ord scope : Nat) : Bool :=
  if op = 0x20 || op = 0x22 || op = 0x23 then (ord = 0 || ord = 1) && scope ≠ 3
  else if op = 0x21 || op = 0x24 then (ord = 0 || ord = 2) && scope ≠ 3
  else if op = 0x25 then scope ≠ 3
  else if op = 0x26 then ord ≠ 0 && scope ≠ 3
  else true

/-- R159: one word of a program of `len` words, in a station with `nIn` inputs and `nOut` outputs. -/
def instrOk (w len nIn nOut : Nat) : Bool :=
  let op := iOP w
  opSubOk op (iSUB w) && opFmtOk op (iSUB w) (iFA w) (iFD w) (iOWN w) && opOrdOk op (iORD w) (iSCOPE w) &&
    (op ≠ 0x03 || decide (iIMM w % 1024 < len)) && (op ≠ 0x10 || decide (iIMM w % 64 < nIn)) &&
    ((op ≠ 0x11 && op ≠ 0x12) || decide (iIMM w % 64 < nOut))

/-- The words of a station's program. -/
def Img.prog (m : Img) (t : ImgStn) : List IWord :=
  (List.range t.progLen).map fun i => BitVec.ofNat 128 (leNat ((m.raw.drop (t.progOff + 16 * i)).take 16))

/-- The parameter block of a station. -/
def Img.params (m : Img) (t : ImgStn) : List Byte := (m.raw.drop t.parOff).take t.parLen

/-! ### Sequence mode (R135) -/

/-- A GATHER in sequence mode. -/
def seqMode (typ : Nat) (par : List Byte) : Bool := typ = 0 && decide (16 ≤ par.length) && (wordAt par 0).testBit 63

/-- The span entries of a sequence-mode GATHER, two words each. -/
def spanWords (par : List Byte) : List Nat :=
  (List.range (2 * (bits (wordAt par 8) 11 0 + 1))).map fun i => wordAt par (16 + 8 * i)

/-- The span list lies in the parameter block, and every entry names a plane. -/
def spansOk (typ : Nat) (par : List Byte) : Bool :=
  !seqMode typ par ||
    (decide (16 + 16 * (bits (wordAt par 8) 11 0 + 1) ≤ par.length) &&
      (List.range (bits (wordAt par 8) 11 0 + 1)).all fun i => bits (wordAt par (16 + 16 * i)) 7 6 ≠ 0)

/-! ### Checks of stations and streams (R122 to R125, R155) -/

/-- A station entry and its program. The numbers of inputs and outputs of Table STN-3 are the template's; the spec states no check
of them at load, and the model makes none. Log entry 69 (DESIGN CHOICE). -/
def Img.stnOk (m : Img) (n i : Nat) (t : ImgStn) : Bool :=
  let ins := (m.inputs i).length
  let outs := (m.outputs i).length
  t.index = i && decide (t.typ ≤ 0xC) && decide (t.mid < n) && (decide (t.lcl ≤ 15) || t.lcl = 31) &&
    t.progOff % 16 = 0 && decide (1 ≤ t.progLen) && decide (t.progLen ≤ 1024) &&
    decide (t.progOff + 16 * t.progLen ≤ m.head.bytes) && decide (t.parLen ≤ 65536) &&
    decide (t.parOff + t.parLen ≤ m.head.bytes) && decide (t.csram ≤ 256) && decide (t.parLen ≤ 4096 * t.csram) &&
    decide (ins ≤ 64) && decide (outs ≤ 64) && spansOk t.typ (m.params t) &&
    (m.prog t).all fun w => instrOk w.toNat t.progLen ins outs

/-- A stream entry. -/
def Img.strOk (m : Img) (n : Nat) (t : ImgStr) : Bool :=
  let cs := m.consOf t
  decide (t.sid ≤ 65534) && (t.tc = 1 || t.tc = 5) && decide (t.first + t.nCons ≤ m.head.nCons) &&
    (if t.pattach then decide (t.pmid < n) else decide (t.producer < m.head.nStn)) &&
    (cs.all fun c => if c.attach then decide (c.mid < n) else decide (c.station < m.head.nStn)) &&
    (cs.all (fun c => c.attach) || (decide (1 ≤ t.sram) && decide (t.sram ≤ 2048)))

/-- Every check that needs the image alone. -/
def Img.ok (m : Img) (n : Nat) : Bool :=
  ((m.stns.zip (List.range m.stns.length)).all fun e => m.stnOk n e.2 e.1) && (m.strs.all (m.strOk n)) &&
    (m.strs.map ImgStr.sid).eraseDups.length = m.strs.length

/-! ### What this module instantiates (R127, R389) -/

/-- The MID whose stations this module runs: its own, or in SHADOW the partner's. -/
def State.stnMid (s : State) : Nat := if s.life.mstate = .shadow then s.rd K.shadowPartner else s.mid

/-- A station that a shadow skips. -/
def Img.skips (m : Img) (t : ImgStn) : Bool :=
  t.typ = 0 || t.typ = 1 || t.typ = 9 ||
    (m.prog t).any fun w => decide (0x20 ≤ iOP w.toNat) && decide (iOP w.toNat ≤ 0x28)

/-- The stations to instantiate. -/
def State.ownStns (s : State) (m : Img) : List ImgStn :=
  m.stns.filter fun t => t.mid = s.stnMid && !(s.life.mstate = .shadow && m.skips t)

/-- The module of a station of the image, as this module counts modules: on a shadow, the partner's are its own. -/
def State.midOf (s : State) (m : Img) (i : Nat) : Nat :=
  let d := ((m.stns[i]?).map ImgStn.mid).getD 31
  if d = s.stnMid then s.mid else d

/-- A stream touches a station of the module or one of its attach contexts. -/
def State.touchesStr (s : State) (m : Img) (t : ImgStr) : Bool :=
  let own := s.life.mstate ≠ .shadow
  (if t.pattach then own && t.pmid = s.mid else s.midOf m t.producer = s.mid) ||
    (m.consOf t).any fun c => if c.attach then own && c.mid = s.mid else s.midOf m c.station = s.mid

/-! ### Placement (R127) -/

/-- A place: die, physical cluster, core. -/
abbrev Place := Nat × Nat × Nat

/-- Cores of a cluster. -/
def State.clusterCores (s : State) (c : Nat × Nat) : List CoreSt :=
  s.stn.cores.filter fun k => k.sd = c.1 && k.cluster = c.2 && !k.out

/-- One element of a list of equals. -/
def pick {α : Type} (s : State) : List α → Option α
  | [] => none
  | [a] => some a
  | a :: l => (a :: l)[Config.tie s.free % (l.length + 1)]?

/-- Work of placement: the places taken so far by this load, with words and SRAM units. -/
structure Placing where
  taken : List (Place × Nat × Nat)
  deriving DecidableEq, Repr

/-- Instances, words and SRAM units on a core. -/
def State.coreLoad (s : State) (p : Placing) (c : CoreSt) : Nat × Nat × Nat :=
  let is := s.stn.insts.filter fun i => i.sd = c.sd && i.cluster = c.cluster && i.core = c.core
  let ts := p.taken.filter fun e => e.1 = (c.sd, c.cluster, c.core)
  (is.length + ts.length, is.foldl (fun n i => n + i.prog.length) 0 + ts.foldl (fun n e => n + e.2.1) 0,
    is.foldl (fun n i => n + i.csram) 0 + ts.foldl (fun n e => n + e.2.2) 0)

/-- A core that no partition holds; one that is still being zeroed makes the load wait. -/
def State.freeCores (s : State) (p : Placing) (c : Nat × Nat) : List CoreSt :=
  (s.clusterCores c).filter fun k => k.pid = 64 && !(p.taken.any fun e => e.1 = (k.sd, k.cluster, k.core))

/-- How the placement of a station ends. -/
inductive Placed where
  | at_ (p : Place)
  | wait
  | no
  deriving DecidableEq, Repr

/-- Steps 1 and 2: the cluster, then a free core, or the partition's core with the fewest instances and room. -/
def State.placeOne (s : State) (pid : Nat) (t : ImgStn) (p : Placing) : Placed :=
  let cl : Option (Nat × Nat) :=
    if t.lcl = 31 then
      let best := s.stn.clusters.foldl (fun n c => max n (s.freeCores p c).length) 0
      pick s (s.stn.clusters.filter fun c => (s.freeCores p c).length = best)
    else s.stn.clusters[t.lcl]?
  match cl with
  | none => .no
  | some c =>
    let free := s.freeCores p c
    match free.filter fun k => !k.zeroing with
    | k :: _ => .at_ (k.sd, k.cluster, k.core)
    | [] =>
      if !free.isEmpty then .wait
      else
        let mine := (s.clusterCores c).filter fun k =>
          (k.pid = pid || p.taken.any fun e => e.1 = (k.sd, k.cluster, k.core)) &&
            (let l := s.coreLoad p k
             decide (l.1 < 8) && decide (l.2.1 + t.progLen ≤ 1024) && decide (l.2.2 + t.csram ≤ 256))
        let low := mine.foldl (fun n k => min n (s.coreLoad p k).1) 8
        match pick s (mine.filter fun k => (s.coreLoad p k).1 = low) with
        | some k => .at_ (k.sd, k.cluster, k.core)
        | none => .no

/-- Place the stations in table order. -/
def State.placeAll (s : State) (pid : Nat) : List ImgStn → Placing → Option (List (ImgStn × Place)) × Bool
  | [], _ => (some [], false)
  | t :: r, p =>
    match s.placeOne pid t p with
    | .no => (none, false)
    | .wait => (none, true)
    | .at_ q =>
      match s.placeAll pid r ⟨p.taken ++ [(q, t.progLen, t.csram)]⟩ with
      | (some l, w) => (some ((t, q) :: l), w)
      | x => x

/-- Step 3: SRAM units of stream buffers in a cluster, with those of this load. -/
def State.clusterSram (s : State) (m : Img) (pl : List (ImgStn × Place)) (c : Nat × Nat) : Nat :=
  let old := s.stn.strms.foldl (fun n t => n + t.cons.foldl (fun k x => match x.station with
    | some j => if s.stn.insts.any fun i => i.who = ⟨t.pid, t.flow, j⟩ && i.sd = c.1 && i.cluster = c.2 then k + t.sram else k
    | none => k) 0) 0
  let new := m.strs.foldl (fun n t => n + (m.consOf t).foldl (fun k x =>
    if !x.attach && pl.any fun e => e.1.index = x.station && e.2.1 = c.1 && e.2.2.1 = c.2 then k + t.sram else k) 0) 0
  old + new

/-- Step 4: cores that the partition would hold. -/
def State.coresHeld (s : State) (pid : Nat) (pl : List (ImgStn × Place)) : Nat :=
  (((s.stn.cores.filter fun c => c.pid = pid && !c.out).map fun c => (c.sd, c.cluster, c.core)) ++ pl.map Prod.snd).eraseDups.length

/-- Placement as a whole: the places, or whether the load waits for a core that is being zeroed. -/
def State.place (s : State) (pid : Nat) (m : Img) : Option (List (ImgStn × Place)) × Bool :=
  match s.placeAll pid (s.ownStns m) ⟨[]⟩ with
  | (none, w) => (none, w)
  | (some pl, _) =>
    if (s.stn.clusters.all fun c => decide (s.clusterSram m pl c ≤ 2048)) && decide (s.coresHeld pid pl ≤ s.rd (K.stationCores pid)) then
      (some pl, false)
    else (none, false)

/-! ### The collective header (Table COL-4, R183, R188, R189) -/

/-- Nodes left after the levels of a tree: `fs` are the fan-ins. Log entry 56 (DEDUCED). -/
def treeNodes : List Nat → Nat → Nat
  | [], n => n
  | f :: r, n => treeNodes r (cdiv n (max 1 f))

/-- Formats that an operation allows (Table COL-2). Log entry 56 (DEDUCED). -/
def colFmtOk (op red fmt : Nat) : Bool :=
  if op ≤ 1 then
    if red = 0 then [0, 1, 3, 4, 5, 6].contains fmt else [0, 1, 5, 6].contains fmt
  else if op = 7 then [0, 1, 3, 4, 5].contains fmt
  else if op = 8 then [0, 1, 5].contains fmt
  else if op = 9 then fmt = 1 || fmt = 4
  else true

/-- R188: a malformed collective header: reserved codes, the limits of Table COL-1, the formats of Table COL-2, and a tree that
does not end in one node. -/
def colBad (h : List Byte) : Bool :=
  let w0 := wordAt h 0
  let w3 := wordAt h 24
  let w4 := wordAt h 32
  let op := bits w0 63 60
  let red := bits w0 59 58
  let fmt := bits w0 57 54
  let p := bits w0 51 43 + 1
  let depth := bits w0 33 30
  let fans := (List.range depth).map fun l => bits (wordAt h 8) (6 * l + 5) (6 * l) + 1
  decide (h.length < 64) || decide (9 < op) || red = 3 || decide (6 < fmt) || !colFmtOk op red fmt || decide (p < 2) ||
    (w0.testBit 53 && !(fmt = 5 && red = 0)) ||
    decide (depth < 1) || decide (9 < depth) || (fans.any fun f => decide (f < 2)) || treeNodes fans p ≠ 1 ||
    decide (bits w3 63 32 < 4096) || decide (268435456 < bits w3 63 32) || bits w3 63 32 % 64 ≠ 0 ||
    decide (1000 < bits w3 31 16) || (op = 3 && decide (p ≤ bits w0 42 34)) ||
    ((op = 7 || op = 8) && (decide (bits w4 49 46 < 1) || decide (8 < bits w4 49 46) || bits w4 33 18 = 0)) ||
    (op = 6 && !(bits w4 17 14 = 5 || bits w4 17 14 = 6))

/-- Station types whose work chapter 7 describes. -/
def colType (t : Nat) : Bool := t = 2 || t = 3 || t = 7 || t = 8 || t = 9

/-- The words of a header that every station of a collective holds alike (R188). -/
def colKey (h : List Byte) : List Nat := [wordAt h 0, wordAt h 8, wordAt h 24, wordAt h 32]

/-- The image is that of a collective: a station of a type of chapter 7 holds a header, or all stations hold the same one. A
GATHER in sequence mode has its own block and none. Log entry 56 (DEDUCED). -/
def Img.collective (m : Img) : Bool :=
  let hs := (m.stns.filter fun t => !seqMode t.typ (m.params t)).map fun t => (t.typ, m.params t)
  (hs.any fun e => colType e.1 && decide (64 ≤ e.2.length)) ||
    match hs with
    | [] => false
    | e :: _ => wordAt e.2 0 ≠ 0 && hs.all fun x => decide (64 ≤ x.2.length) && colKey x.2 = colKey e.2

/-- The parameter block of a station that holds a collective header. -/
def Img.colBlock (m : Img) (t : ImgStn) : Option (List Byte) :=
  if m.collective && !seqMode t.typ (m.params t) then some (m.params t) else none

/-- The eight words of a well-formed header; none otherwise. -/
def Img.colWords (m : Img) (t : ImgStn) : List Nat :=
  match m.colBlock t with
  | some h => if colBad h then [] else (List.range 8).map fun i => wordAt h (8 * i)
  | none => []

/-- A station outside a collective, or one at launch. -/
def ColSt.init (hdr : List Nat) : ColSt := ⟨hdr, [], [], [], [], 0, 0, [], [], []⟩

/-! ### A loaded flow -/

/-- The instance of a placed station: parameter block at offset 0, every other byte zero (R155). -/
def instOf (m : Img) (pid : Nat) (t : ImgStn) (p : Place) : Inst where
  who := ⟨pid, m.head.flow, t.index⟩
  typ := t.typ
  owner := t.owner
  sd := p.1
  cluster := p.2.1
  core := p.2.2
  prog := m.prog t
  csram := t.csram
  sram := bytesSet [] 0 (m.params t)
  pc := 0
  x := []
  p := []
  h := List.replicate 16 Handle.unbound
  flags := 0
  sha := ⟨shaInit, [], 0, false⟩
  wait := .none
  halted := false
  complete := false
  mism := 0
  ins := m.inputs t.index
  outs := m.outputs t.index
  spans := if seqMode t.typ (m.params t) then spanWords (m.params t) else []
  spanAt := 0
  seqDesc := bits (wordAt (m.params t) 0) 56 0
  span := none
  spanEnd := 0
  starved := none
  watch := bits ((m.colWords t).getD 3 0) 31 16
  badHead := (m.colBlock t).any colBad
  col := ColSt.init (m.colWords t)

/-- A consumer as the module sees it at load: DEPTH credits, the whole buffer free (R116). Log entry 34 (DEDUCED). -/
def State.consInit (s : State) (m : Img) (t : ImgStr) (ci : Nat) (c : ImgCons) : Cons where
  idx := ci
  station := if c.attach then none else some c.station
  mid := if c.attach then c.mid else s.midOf m c.station
  ep := c.ep
  ctx := c.ctx
  credits := t.depth
  room := if c.attach then 0 else 4096 * t.sram
  expect := 0
  grant := 0
  got := 0
  buf := []
  spilled := []
  held := []
  finSeen := false

/-- A stream endpoint at load. -/
def State.strmInit (s : State) (pid : Nat) (m : Img) (t : ImgStr) : Strm where
  pid := pid
  flow := m.head.flow
  sid := t.sid
  tc := t.tc
  depth := t.depth
  spill := t.spill
  sram := t.sram
  prod := if t.pattach then none else some t.producer
  pmid := if t.pattach then t.pmid else s.midOf m t.producer
  pep := t.pep
  pctx := t.pctx
  pcredits := t.depth
  tnum := 0
  fin := false
  cons := ((m.consOf t).zip (List.range t.nCons)).map fun e => s.consInit m t e.2 e.1
  asm := []
  putBuf := []
  transit := []

/-- The flow record of a load. -/
def flowInit (pid : Nat) (m : Img) : Flow where
  pid := pid
  flow := m.head.flow
  fst := .loaded
  doneFva := m.head.doneFva
  set := m.head.set
  t := 0
  tiles := 0
  stns := m.stns.map fun t => ⟨t.index, t.mid, t.typ⟩
  attachMids := ((m.strs.filter fun t => t.pattach).map ImgStr.pmid ++
    (m.strs.map fun t => ((m.consOf t).filter fun c => c.attach).map ImgCons.mid).flatten).eraseDups
  recDone := false
  cause := 0
  origin := 0
  failing := noStation
  endedAt := 0
  unloading := false

/-- The flow becomes LOADED; attach producers of this module get DEPTH credits by SCRED (R304). -/
def State.install (s : State) (pid : Nat) (m : Img) (pl : List (ImgStn × Place)) : State :=
  let strs := m.strs.filter (s.touchesStr m)
  let used := fun (c : CoreSt) => pl.any fun e => e.2 = (c.sd, c.cluster, c.core)
  let s1 := s.mapStn fun x => { x with
    flows := x.flows ++ [flowInit pid m]
    insts := x.insts ++ pl.map fun e => instOf m pid e.1 e.2
    strms := x.strms ++ strs.map (s.strmInit pid m)
    cores := x.cores.map fun c => if used c then { c with pid := pid } else c }
  let s2 := s1.wr K.flowsLoaded s1.stn.flows.length
  s2.each (strs.filter fun t => t.pattach && t.pmid = s.mid && s.life.mstate ≠ .shadow) fun s t =>
    s.capSend { CapOut.to t.pep t.pctx 0 0x11 with addr := m.head.flow <<< 48 ||| t.sid <<< 32, arg := t.depth }

end Sys2Proof.Machine
end

