-- ==== Sys2Proof/Machine/Flows.lean ====
section
/-! DEFINITION. The commands of flows and station cores (R16, R118, R126 to R145, R199, R215, R216, R330). -/

namespace Sys2Proof.Machine

open Sys2Proof

/-! ### Loading (R126 to R128) -/

/-- A load ends without a flow; a refused one is counted. -/
def State.loadEnds (s : State) (o : Origin) (st : Nat) : State :=
  (if st = Status.refused then s.bump K.flowLoadsRefused 1 else s).reply o st false []

/-- FLOW_LOAD: the read of the image through the lowest EP in service starts; FLOW_LOAD_COMPLETE ends the command.
Log entry 57 (DEDUCED). -/
def execFlowLoad (o : Origin) (pid fva len : Nat) (s : State) : Res :=
  .next (s.command o K.flowLoad pid fun s _ =>
    let refuse := (s.bump K.flowLoadsRefused 1, Done.refused)
    if !(s.life.mstate = .member || s.life.mstate = .shadow) then refuse
    else if s.pstate pid = 2 || s.pstate pid = 3 then (s, Done.st Status.closed)
    else if s.pstate pid ≠ 1 || fva % 4096 ≠ 0 || decide (2 ^ 57 ≤ fva) || s.lowEp.isNone || decide (len < 64) ||
        decide (4194304 < len) then refuse
    else
      let r := s.moduleRead pid fva len
      (r.1.mapStn fun x => { x with loads := x.loads ++ [⟨o, pid, fva, len, r.2⟩] }, .later))

/-- A TC1 stream needs its set installed; a shadow does not check (R126, R389). -/
def State.setOk (s : State) (pid : Nat) (m : Img) : Bool :=
  s.life.mstate = .shadow || !(m.strs.any fun t => t.tc = 1) ||
    (m.head.set ≠ 0 && s.slu.act.any fun g => g.pid = pid && g.set = m.head.set)

/-- Table STN-4: this module's 16-byte record at DONE_FVA + 16 × MID lies in a FLAG range, as the lowest EP in service finds
it. A shadow, which writes no record, does not look. Log entry 57 (DEDUCED). -/
def State.doneOk (s : State) (pid : Nat) (m : Img) : Bool :=
  s.life.mstate = .shadow ||
    match s.lowEp with
    | none => false
    | some ep => ((s.walk ep pid (m.head.doneFva + 16 * s.mid)).got).any fun d => d.mtype = mtFlag

/-- The checks of a load that need the module. -/
def State.loadOk (s : State) (pid : Nat) (m : Img) : Bool :=
  m.ok s.meshN && s.setOk pid m && s.doneOk pid m && (s.flowGet pid m.head.flow).isNone && decide (s.stn.flows.length < 256) &&
    (m.strs.any (s.touchesStr m) || !(s.ownStns m).isEmpty)

/-- A load whose image has been read: checked, placed, measured, LOADED; or refused. One whose core is still being zeroed
waits (R330). -/
def State.loadImage (s : State) (l : ImageLoad) (d : List Byte) : State :=
  let s1 := (s.mapStn fun x => { x with loads := x.loads.erase l }).dropTx l.tx
  if s.pstate l.pid ≠ 1 then s1.loadEnds l.origin Status.closed
  else
    match parseImg d l.len with
    | none => s1.loadEnds l.origin Status.refused
    | some m =>
      if !s.loadOk l.pid m then s1.loadEnds l.origin Status.refused
      else
        match s.place l.pid m with
        | (none, true) => s
        | (none, false) => s1.loadEnds l.origin Status.refused
        | (some pl, _) =>
          ((s1.install l.pid m pl).measure l.pid 0 m.head.flow l.fva m.head.bytes (sha384 m.raw)).loadEnds l.origin Status.ok

/-- FLOW_LOAD_COMPLETE: the read of the image has ended. One that was lost with its EP starts again at the next EP in service
(R126). -/
def execFlowLoadComplete (pid fva len : Nat) (s : State) : Res :=
  .next (match s.stn.loads.find? fun l => l.pid = pid && l.fva = fva && l.len = len with
    | none => s
    | some l =>
      let ends := fun (st : Nat) => ((s.mapStn fun x => { x with loads := x.loads.erase l }).dropTx l.tx).loadEnds l.origin st
      match s.readEnd l.tx l.len with
      | .open_ => s
      | .lost =>
        if s.lowEp.isNone then ends Status.refused
        else
          let r := s.moduleRead pid fva l.len
          r.1.mapStn fun x => { x with loads := mapIf (fun y => y = l) (fun y => { y with tx := r.2 }) x.loads }
      | .failed st => ends st
      | .ok d => s.loadImage l d)

/-! ### Launch and end (R129 to R134, R215, R216) -/

/-- The gate entries that a PID's set has at rack time `t`: after its pending list, where a commit switches at or before `t`. -/
def State.actAt (s : State) (pid t : Nat) : List Gate :=
  if s.slu.commits.any fun c => c.1 = pid && decide (s.boundary c.2 ≤ t) then
    (s.slu.pend.filter fun e => e.1 = pid).foldl (fun a e => applyPend a e.2 pid) s.slu.act
  else s.slu.act

/-- R216: T lies on a frame boundary, and the set is active, or pending under a commit that switches at or before T. -/
def State.setAt (s : State) (f : Flow) (t : Nat) : Bool :=
  f.set = 0 || s.life.mstate = .shadow ||
    (t % s.frameTicks = 0 && (s.actAt f.pid t).any fun g => g.pid = f.pid && g.set = f.set)

/-- FLOW_LAUNCH (R129, R216). Log entry 57 (DEDUCED). -/
def execFlowLaunch (o : Origin) (pid flow t : Nat) (s : State) : Res :=
  .next (s.command o K.flowLaunch pid fun s _ =>
    match s.flowGet pid flow with
    | none => (s, Done.refused)
    | some f =>
      if s.pstate pid = 2 then (s, Done.st Status.closed)
      else if (s.life.mstate = .member || s.life.mstate = .shadow) && s.locked && decide (s.now + 25000 ≤ t) &&
          decide (t ≤ s.now + 12500000000) && f.fst = .loaded && !f.unloading && s.setAt f t then
        (s.setFlow pid flow fun f => { f with fst := .armed, t := t }, Done.ok)
      else (s, Done.refused))

/-- R154: the registers of an instance at launch: X1 MID, X2 INDEX, X3 T. -/
def State.startInst (s : State) (t : Nat) (i : Inst) : Inst :=
  { i with pc := 0, x := [(1, s.stnMid), (2, i.who.index), (3, t)].filter fun e => e.2 ≠ 0 }

/-- FLOW_START (R215, R391): at T every local station issues; one whose collective header is malformed fails (R188).
Log entry 56 (DEDUCED). -/
def execFlowStart (pid flow : Nat) (s : State) : Res :=
  .next (match s.flowGet pid flow with
    | none => s
    | some f =>
      if f.fst ≠ .armed || s.now < f.t || !(s.inService || s.life.mstate = .shadow) then s
      else
        let mine := fun (i : Inst) => i.who.pid = pid && i.who.flow = flow
        let s0 := ((s.setFlow pid flow fun f => { f with fst := .running }).mapStn fun x => { x with
          insts := mapIf mine (s.startInst f.t) x.insts }).freshGates pid flow
        let s1 := s0.mapShd fun h => { h with
          startAt := if h.running then h.startAt.or (some s.now) else h.startAt
          outs := h.outs.filter fun w => !(w.pid = pid && w.flow = flow) }
        match s1.stn.insts.find? fun i => mine i && i.badHead with
        | some i => (s1.failStation i.who Status.refused).settleAll
        | none => s1)

/-- FLOW_ABORT (Table STN-9). Log entry 57 (DEDUCED). -/
def execFlowAbort (o : Origin) (pid flow : Nat) (s : State) : Res :=
  .next (s.command o K.flowAbort pid fun s _ =>
    match s.flowGet pid flow with
    | none => (s, Done.refused)
    | some _ => ((s.failFlow pid flow Status.aborted noStation).settleAll, Done.ok))

/-- FLOW_UNLOAD (Table STN-9): an ended flow goes once its completion record is written. -/
def execFlowUnload (o : Origin) (pid flow : Nat) (s : State) : Res :=
  .next (s.command o K.flowUnload pid fun s _ =>
    match s.flowGet pid flow with
    | none => (s, Done.refused)
    | some f =>
      if f.fst = .running then (s, Done.refused)
      else if (f.fst = .done || f.fst = .aborted) && !f.recDone then
        (s.setFlow pid flow fun f => { f with unloading := true }, Done.ok)
      else (s.removeFlow pid flow, Done.ok))

/-- Every attach endpoint of this module has had END: delivered to a consumer, or put by a producer.
Log entry 34 (DEDUCED). -/
def State.endsSeen (s : State) (pid flow : Nat) : Bool :=
  (s.strmsOf pid flow).all fun t =>
    (t.prod.isSome || t.pmid ≠ s.mid || t.fin) &&
      t.cons.all fun c => c.station.isSome || c.mid ≠ s.mid || c.finSeen

/-- FLOW_DONE: every local station is complete and its writes have ended; a module without stations of the flow waits for END at
its attach endpoints. Log entry 34 (DEDUCED). -/
def execFlowDone (pid flow : Nat) (s : State) : Res :=
  .next (match s.flowGet pid flow with
    | none => s
    | some f =>
      let is := s.stn.insts.filter fun i => i.who.pid = pid && i.who.flow = flow
      if f.fst = .running && (is.all fun i => i.complete) && (s.flowTxs pid flow).isEmpty &&
          (s.life.mstate = .shadow || !is.isEmpty || s.endsSeen pid flow) then
        (s.setFlow pid flow fun f => { f with fst := .done, endedAt := s.now }).settleAll
      else s)

/-! ### Tiles and spans (R118, R131, R136, R141) -/

/-- STREAM_TILE_ARRIVAL: an assembled tile for one consumer. -/
def execStreamTileArrival (pid flow sid consumer : Nat) (t : Tile) (src : Nat) (s : State) : Res :=
  .next (if s.inService && decide (pid ≤ 63) then (s.tileArrive pid flow sid consumer t src).settleAll else s)

/-- SPILL_READBACK. -/
def execSpillReadback (pid flow sid consumer : Nat) (s : State) : Res :=
  .next (s.readBack pid flow sid consumer).settleAll

/-- WATCHDOG_EXPIRY (R199): the station has been front-starved on one input, which is still empty, for longer than WATCHDOG.
Log entry 56 (DEDUCED). -/
def execWatchdogExpiry (who : InstRef) (input : Nat) (s : State) : Res :=
  .next (match s.instGet who with
    | none => s
    | some i =>
      match i.starved with
      | some (k, t) =>
        if s.running who.pid who.flow && k = input && s.starvedOn i = some input && i.watch ≠ 0 && decide (1250 * i.watch < t) then
          (s.failStation who Status.timeout).settleAll
        else s
      | none => s)

/-! ### Residues and spares (R16, R144, R145) -/

/-- SUBUNIT of a station unit (Table FLT-2). -/
def subunit (cluster core : Nat) : Nat := cluster <<< 11 ||| core <<< 7

/-- SD_ACTIVE_CLUSTERS of a die. -/
def State.noteClusters (s : State) (sd : Nat) : State :=
  s.wr (K.sdActive0 + sd) (s.stn.clusters.filter fun c => c.1 = sd).length

/-- The cluster's spare core, physical core 8, is not in use. -/
def State.spareCore (s : State) (sd cl : Nat) : Bool := !s.stn.cores.any fun c => c.sd = sd && c.cluster = cl && c.core = 8

/-- Another retirement of the cluster is in progress. -/
def State.retiringIn (s : State) (sd cl : Nat) : Bool :=
  s.stn.retiring.contains (sd, cl) || s.stn.cores.any fun c => c.sd = sd && c.cluster = cl && (c.retiring = 1 || c.retiring = 2)

/-- The die's spare cluster is in use, or a cluster is moving to it (Table ARC-2). -/
def State.spareTaken (s : State) (sd : Nat) : Bool := s.stn.clSpare.contains sd || s.stn.retiring.any fun c => c.1 = sd

/-- R144 steps 2 to 5: engine to the core's spare, core to the cluster's, cluster to the die's, or CHECK_FAIL. `retiring` of
a core: 1 an engine of it, 2 the core, 3 it waits for another retirement of its cluster. Log entry 31 (DEDUCED). -/
def State.startRetire (s : State) (sd cl co : Nat) : State :=
  match s.stn.cores.find? fun c => c.sd = sd && c.cluster = cl && c.core = co with
  | none => s
  | some c =>
    let set := fun n => s.setCoreSt sd cl co fun c => { c with retiring := n }
    if s.retiringIn sd cl then set 3
    else if c.engUsed = 0 then set 1
    else if s.spareCore sd cl then set 2
    else if !s.spareTaken sd then (set 0).mapStn fun x => { x with retiring := x.retiring ++ [(sd, cl)] }
    else
      let is := s.stn.insts.filter fun i => i.sd = sd && i.cluster = cl
      let s1 := (s.logFault 0x08 sd (subunit cl 0) 4 Status.checkFail 0 0).each is fun s i => s.failStation i.who Status.checkFail
      (s1.mapStn fun x => { x with
        clusters := x.clusters.filter fun k => k ≠ (sd, cl)
        cores := mapIf (fun k => k.sd = sd && k.cluster = cl) (fun k => { k with out := true, hash := none, absorb := [], retiring := 0 }) x.cores }).noteClusters sd

/-- A retirement that waited for another one of its cluster starts. -/
def State.nextRetire (s : State) (sd cl : Nat) : State :=
  match s.stn.cores.find? fun c => c.sd = sd && c.cluster = cl && c.retiring = 3 with
  | some c => s.startRetire sd cl c.core
  | none => s

/-- Instructions whose sums the residue check covers (R179): those marked Res, and of the digests the hash unit's duplicate. -/
def covered (op : Nat) : Bool := (decide (0x30 ≤ op) && decide (op ≤ 0x3B) && op ≠ 0x37) || (decide (0x40 ≤ op) && decide (op ≤ 0x44))

/-- R144 steps 1 and 2: the first mismatch squashes `n` beats and retries, the second one retires a unit. -/
def State.mismatch (s : State) (i : Inst) (n : Nat) : State :=
  let s1 := ((s.logFault 0x06 i.sd (subunit i.cluster i.core) 1 0 i.who.pid 0).clusterEv i.sd i.cluster 0x033 i.who.pid 1).slots
    i 1 0x010 n
  if i.mism = 0 then (s1.bump K.residueRetries 1).setInst i.who fun i => { i with mism := 1 }
  else ((s1.setInst i.who fun i => { i with mism := 0 }).startRetire i.sd i.cluster i.core).settleAll

/-- R179: an uncorrectable error of the SRAM that holds the operand tile HA: the tile is poisoned, and the error is counted. -/
def State.sramError (s : State) (i : Inst) : State :=
  let h := i.hget (iHA i.word)
  let s1 := (s.setInst i.who fun i => i.hset (iHA i.word) { h with poison := true }).setCoreSt i.sd i.cluster i.core fun c =>
    { c with sramErrors := c.sramErrors + 1 }
  if h.kind = 1 then
    match s.inputOf i h.input with
    | some (st, c) => s1.setCons st.pid st.flow st.sid c.idx fun c => { c with
        held := mapIf (fun t => t.tnum = h.tnum) (fun t => { t with poison := true }) c.held }
    | none => s1
  else s1

/-- RESIDUE_MISMATCH (R144, R145, R178, R179): of the hash unit, which repeats the current tile's SHA; of a beat of a covered
instruction; or, where the next instruction is one that only moves a tile, an error that its SRAM's code cannot correct.
Log entry 31 (DEDUCED). -/
def execResidueMismatch (who : InstRef) (s : State) : Res :=
  .next (match s.instGet who with
    | none => s
    | some i =>
      if !s.running who.pid who.flow || !s.coreReady i then s
      else if (s.coreOf i).any fun c => c.hash = some who then s.mismatch i 1
      else if covered (iOP i.word) then s.mismatch i (i.beats i.word)
      else if tileOp (iOP i.word) && (i.hget (iHA i.word)).kind ≠ 0 then s.sramError i
      else s)

/-- A retirement has ended: counted and logged. -/
def State.retired (s : State) (kind sd cl co : Nat) : State :=
  (s.bump K.retirements 1).logFault kind sd (subunit cl co) 3 0 0 0

/-- ENGINE_RETIREMENT_COMPLETE. -/
def execEngineRetirementComplete (sd cluster core : Nat) (s : State) : Res :=
  .next (if s.stn.cores.any fun c => c.sd = sd && c.cluster = cluster && c.core = core && c.retiring = 1 then
      ((s.setCoreSt sd cluster core fun c => { c with retiring := 0, engUsed := 1 }).retired 0x06 sd cluster core).nextRetire sd cluster
    else s)

/-- An agent on a core that has moved. -/
def moveAgent (g : Nat → Nat → Nat → Place) (a : Agent) : Agent :=
  match a with
  | .core sd cl co => .core (g sd cl co).1 (g sd cl co).2.1 (g sd cl co).2.2
  | x => x

/-- Everything on cores moves to the places that `g` gives. -/
def State.moveCores (s : State) (g : Nat → Nat → Nat → Place) : State :=
  (s.mapStn fun x => { x with
    insts := x.insts.map fun i =>
      let p := g i.sd i.cluster i.core
      { i with sd := p.1, cluster := p.2.1, core := p.2.2 }
    cores := x.cores.map fun c =>
      let p := g c.sd c.cluster c.core
      { c with sd := p.1, cluster := p.2.1, core := p.2.2 } }).mapReq fun r => { r with
    txs := r.txs.map fun t => { t with agent := moveAgent g t.agent }
    agents := r.agents.map fun a => { a with agent := moveAgent g a.agent } }

/-- CORE_RETIREMENT_COMPLETE: the core's state has been copied to the cluster's spare core, physical core 8. -/
def execCoreRetirementComplete (sd cluster core : Nat) (s : State) : Res :=
  .next (if s.stn.cores.any fun c => c.sd = sd && c.cluster = cluster && c.core = core && c.retiring = 2 then
      (((s.setCoreSt sd cluster core fun c => { c with retiring := 0, engUsed := 0 }).moveCores fun a b c =>
        if (a, b, c) = (sd, cluster, core) then (sd, cluster, 8) else (a, b, c)).retired 0x07 sd cluster core).nextRetire sd cluster
    else s)

/-- CLUSTER_RETIREMENT_COMPLETE: the cluster has moved to the die's spare, physical cluster 4, in the same logical place;
its cores stand there on physical cores 0 to 7. A retirement that waited for this one starts (R145). -/
def execClusterRetirementComplete (sd cluster : Nat) (s : State) : Res :=
  .next (if s.stn.retiring.contains (sd, cluster) then
      let old := (s.stn.cores.filter fun c => c.sd = sd && c.cluster = cluster).map CoreSt.core
      let s1 := s.mapStn fun x => { x with
        retiring := x.retiring.filter fun c => c ≠ (sd, cluster)
        clSpare := insertOnce x.clSpare sd
        clusters := x.clusters.map fun c => if c = (sd, cluster) then (sd, 4) else c
        banks := x.banks.map fun c => if c = (sd, cluster) then (sd, 4) else c
        cores := mapIf (fun c => c.sd = sd && c.cluster = cluster) (fun c => { c with
          engUsed := 0, retiring := if c.retiring = 3 then 3 else 0 }) x.cores }
      ((s1.moveCores fun a b c => if a = sd && b = cluster then (sd, 4, old.findIdx fun k => k = c) else (a, b, c)).retired
        0x08 sd cluster 0).nextRetire sd 4
    else s)

/-- CORE_ZEROING_COMPLETE (R330): the core may be given to another partition. -/
def execCoreZeroingComplete (sd cluster core : Nat) (s : State) : Res :=
  .next (s.setCoreSt sd cluster core fun c => { c with zeroing := false })

end Sys2Proof.Machine
end

