-- ==== Sys2Proof/Machine/Reads.lean ====
section
/-! DEFINITION. Reading the object dictionary (R344 to R348, R353, R361, R394): the bytes of every entry. -/

namespace Sys2Proof.Machine

open Sys2Proof

/-! ### Records as bytes -/

/-- A clamp record (Table ODP-5). -/
def clampBytes (r : ClampRec) : List Byte :=
  wordBytes [r.time, (r.key / 256) <<< 48 ||| (r.key % 256) <<< 40 ||| r.source <<< 36 ||| r.reason <<< 32 ||| r.pid <<< 26,
    r.given, r.applied]

/-- A fault log entry (Table FLT-2). -/
def faultBytes (e : FaultLog) : List Byte :=
  wordBytes [e.time, e.kind <<< 56 ||| e.unit <<< 48 ||| e.subunit <<< 32 ||| e.action <<< 28 ||| e.status <<< 24 ||| e.pid <<< 18 |||
    e.count, e.detail, e.last]

/-- A flow record (20 bytes): PID, FLOW_ID, the record of Table STN-10. -/
def flowRecBytes (r : FlowRec) : List Byte :=
  leBytes 2 r.pid ++ leBytes 2 r.flow ++ wordBytes (flowRecWords r.status r.origin r.station r.tiles r.time)

/-- A measurement log entry (80 bytes). -/
def measBytes (e : MeasEntry) : List Byte :=
  leBytes 4 e.kind ++ leBytes 4 e.ident ++ leBytes 8 e.fva ++ leBytes 8 e.len ++ fitTo 48 e.digest ++ leBytes 8 e.time

/-- SPARES_USED: per die, engine spares (U16), core spares, cluster spare. -/
def State.sparesBytes (s : State) : List Byte :=
  ((List.range 4).map fun d =>
    let cs := s.stn.cores.filter fun c => c.sd = d
    leBytes 2 (cs.foldl (fun n c => n + c.engUsed) 0) ++ leBytes 1 (cs.filter fun c => c.core = 8).length ++
      leBytes 1 (b2n (s.stn.clSpare.contains d))).flatten

/-- SHADOW_STATS (40 bytes): start time, tiles compared, tiles skipped, STATIONS_SKIPPED, mismatches, the first mismatch.
Log entry 21 (PRESUMED). -/
def State.shadowBytes (s : State) : List Byte :=
  let k : TileKey := s.shd.first.getD ⟨0, 0, 0, 0, 0⟩
  fitTo 40 (leBytes 8 (s.shd.startAt.getD 0) ++ leBytes 8 s.shd.compared ++ leBytes 4 s.shd.skipped ++ leBytes 4 s.shd.stnSkipped ++
    leBytes 4 s.shd.mismatches ++ leBytes 1 k.pid ++ leBytes 1 k.port ++ leBytes 2 k.flow ++ leBytes 2 k.index ++ leBytes 4 k.tnum)

/-- Bytes that the source does not state. -/
def State.freeBytes (s : State) (n : Nat) : List Byte := (List.range n).map fun i => Config.freeByte (4096 * s.free + i)

/-! ### Keys and attestation -/

/-- KEY_AGREE reads as the module's public key, the KEY_ID and a signature (195 bytes); before any agreement the source states
no value. -/
def State.keyAgreeBytes (s : State) (pid : Nat) : List Byte :=
  match s.sec.keyReplies.find? fun r => r.pid = pid with
  | some r => fitTo 97 (Config.secretBytes secEphemeral r.keyId) ++ leBytes 2 r.keyId ++ fitTo 96 (Config.secretBytes secSign r.keyId)
  | none => s.freeBytes 195

/-- The retained entries in index order (CONFIG_DIGEST). Log entry 23 (DEDUCED). -/
def State.configBytes (s : State) : List Byte :=
  let ks := retainedKeys.foldl (fun (m : NMap) k => mput m k (s.rd k)) []
  (ks.map fun e => match entryOf (e.1 / 256) (e.1 % 256) with
    | some x => leBytes x.size e.2
    | none => []).flatten

/-- Bytes 0 to 271 of the attestation report (Table SEC-5). Log entry 23 (DEDUCED). -/
def State.attestBody (s : State) (pid : Nat) (nonce : List Byte) : List Byte :=
  let log := s.sec.logs.find? fun l => l.pid = pid
  leBytes 4 0x4D394154 ++ leBytes 2 1 ++ leBytes 1 (b2n s.life.order768) ++ leBytes 1 0xB0 ++ leBytes 1 s.mid ++ leBytes 1 pid ++
    leBytes 2 (s.rd (K.pgen pid)) ++ leBytes 4 ((log.map MeasLog.count).getD 0) ++ leBytes 8 s.now ++ fitTo 48 nonce ++
    sha384 deviceKeyBytes ++ leBytes 48 (Config.digest 0) ++ sha384 s.configBytes ++ fitTo 48 ((log.map MeasLog.digest).getD []) ++
    leBytes 8 (s.life.mstate.code <<< 60 ||| s.pstate pid <<< 56 ||| s.rd K.lockState <<< 52)

/-- ATTEST reads as the report for the sender's latest nonce (R337); with none written yet, the nonce is not stated. -/
def State.attestBytes (s : State) (p pid : Nat) : List Byte :=
  let nonce := match s.sec.nonces.find? fun e => e.1 = pid && e.2.1 = decide (p = 0) with
    | some e => e.2.2
    | none => s.freeBytes 48
  s.attestBody pid nonce ++ fitTo 96 (Config.secretBytes secSign (65536 + s.free))

/-! ### One entry -/

/-- Entries that only the physical part can measure (voltages, temperatures, corrected symbols). Log entry 8 (DESIGN CHOICE). -/
def isMeasured (k : Nat) : Bool :=
  [K.inputPower, K.inputVoltage, K.tJunctionMax, K.coolantIn, K.coolantOut].contains k ||
    (List.range 16).any fun n => [K.fpFecCorrected n, K.apFecCorrected n, K.apFecUncorrectable n].contains k

/-- PRBS_ERRORS while the checker of its port runs (R282): the bit errors counted so far. Log entry 8 (DESIGN CHOICE). -/
def State.prbsCounts (s : State) (k : Nat) : Bool :=
  (List.range 16).any fun n => (k = K.fpPrbsErrors n && (s.rd (K.fpPrbsCtrl n)).testBit 28) ||
    (k = K.apPrbsErrors n && (s.rd (K.apPrbsCtrl n)).testBit 28)

/-- Entries whose number is computed from other state. -/
def State.computed (s : State) (k : Nat) : Option Nat :=
  if k = K.orderCode then some (b2n s.life.order768)
  else if k = K.moduleState then some s.life.mstate.code
  else if k = K.sessionsOpen then some s.mgt.sessions.length
  else if k = K.rtNow then some (s.now % 2 ^ 64)
  else if isMeasured k || s.prbsCounts k then some (Config.measured s.free)
  else
    match (List.range 17).find? fun d => decide (K.via1Pending d ≤ k) && decide (k ≤ K.via2Active d) with
    | some d => some (s.viaRd k d (decide ((k - K.via1Pending d) % 2 = 1)))
    | none =>
      match (List.range 4).find? fun n => k = K.winSize n with
      | some n => if s.rd (K.conf n) = 1 then some 0 else none
      | none => if k = K.partState 0 then some (s.pstate 0) else none

/-- Entries that are records, strings or reports. -/
def State.recordBytes (s : State) (p ix sub : Nat) : Option (List Byte) :=
  let k := 256 * ix + sub
  let pid := (ix - 0x3000) / 0x40
  if k = K.serial then some ((Config.secretBytes secSerial 0).take 32)
  else if k = K.fwVersion then some ((Config.secretBytes secFirmware 0).take 32)
  else if k = K.deviceCert then some (fitTo 2048 (Config.secretBytes secCert 0))
  else if k = K.deviceKey then some deviceKeyBytes
  else if k = K.sparesUsed then some s.sparesBytes
  else if k = K.shadowStats then some s.shadowBytes
  else if ix = 0x5012 then some ((s.mgt.flowRecs[sub - 1]?.map flowRecBytes).getD (zeros 20))
  else if ix = 0xA001 then some ((s.mgt.clampLog[sub - 1]?.map clampBytes).getD (zeros 32))
  else if ix = 0xA061 then some ((s.mgt.faultLog[sub - 1]?.map faultBytes).getD (zeros 32))
  else if ix / 4096 = 3 && k = K.keyAgree pid then some (s.keyAgreeBytes pid)
  else if ix / 4096 = 3 && k = K.attest pid then some (s.attestBytes p pid)
  else if ix / 4096 = 3 && ix % 0x40 = 0x24 then
    some (((s.sec.logs.find? fun l => l.pid = pid).bind fun l => l.entries[sub - 1]?.map measBytes).getD (zeros 80))
  else none

/-- The bytes of an entry, as sender `p` reads it (R345). -/
def State.entryBytes (s : State) (p ix sub : Nat) : List Byte :=
  let k := 256 * ix + sub
  if sub = 0 then leBytes 1 ((maxSub ix).getD 0)
  else
    match s.recordBytes p ix sub with
    | some b => b
    | none =>
      match entryOf ix sub with
      | some e => leBytes e.size ((s.computed k).getD (s.rd k))
      | none => []

/-- The entry exists (R344): it is tabled, or it is sub-index 0 of an index in use. -/
def dictHas (ix sub : Nat) : Bool := if sub = 0 then (maxSub ix).isSome else (entryOf ix sub).isSome

/-- The entry can not be read (R346). -/
def writeOnly (ix sub : Nat) : Bool :=
  match entryOf ix sub with
  | some e => e.acs = .wo
  | none => false

/-- Why a read fails: existence, sender, access kind, and the rule of a limited session (R344, R346, R348, R355). -/
def State.readGate (s : State) (o : Origin) (ix sub : Nat) : Option Nat :=
  if !dictHas ix sub then some Status.unmapped
  else
    match s.senderPid o with
    | none => some Status.refused
    | some p =>
      if (p ≠ 0 && !tenantReads p ix (256 * ix + sub)) || writeOnly ix sub ||
          (s.limited o && !(decide (0x1000 ≤ ix) && decide (ix ≤ 0x100F))) then some Status.refused
      else none

/-- A read: STATUS and the value. -/
def State.dictGet (s : State) (o : Origin) (ix sub : Nat) : Nat × List Byte :=
  match s.readGate o ix sub with
  | some st => (st, [])
  | none => (Status.ok, s.entryBytes ((s.senderPid o).getD 0) ix sub)

/-- DICT_READ by a mailbox (R348, R349). -/
def execDictRead (o : Origin) (ix sub : Nat) (s : State) : Res :=
  .next (if s.managed then
      let r := s.dictGet o ix sub
      s.draw.reply o r.1 false r.2
    else s)

end Sys2Proof.Machine
end

