-- ==== Sys2Proof/Machine/Shadow.lean ====
section
/-! DEFINITION. The shadow comparison (R388 to R392). -/

namespace Sys2Proof.Machine

open Sys2Proof

/-- SHADOW_PARTNER (R388): refused unless the module is a LOCKED shadow and the partner is in MEMBER; 31 names none. Writing
it again restarts the comparison (R392). Log entry 28 (DESIGN CHOICE). -/
def execShadowPartner (o : Origin) (v : Nat) (s : State) : Res :=
  .next (s.command o K.shadowPartner 0 fun s p =>
    if s.life.mstate ≠ .shadow || !s.locked || !(v = 31 || (s.peer v).vstate = 3) then (s, Done.refused)
    else
      match s.settle o p K.shadowPartner 0 v with
      | (s1, v1, c) => ((s1.wr K.shadowPartner v1).shadowRestart v1, .now Status.ok c []))

/-- R390: a dropped feed copy takes its station out of the comparison for the rest of the run.
Log entry 27 (DEDUCED). -/
def State.stationOut (s : State) (who : InstRef) : State :=
  let mine := fun (e : TileKey × Nat) => e.1.pid = who.pid && e.1.flow = who.flow && e.1.index = who.index
  s.mapShd fun h => { h with
    stnSkipped := h.stnSkipped + 1, outs := who :: h.outs
    own := h.own.filter fun e => !mine e, theirs := h.theirs.filter fun e => !mine e }

/-- SHADOW_FEED_TILE (R389, R390): the copy goes into the input's buffer. A gap in TNUM shows a dropped copy; a copy that
the shadow has no room for is dropped as well. -/
def execShadowFeedTile (pid flow index input : Nat) (t : Tile) (s : State) : Res :=
  let who : InstRef := ⟨pid, flow, index⟩
  .next (if s.life.mstate ≠ .shadow || !s.shd.running || !s.running pid flow || s.shd.outs.contains who then s
    else
      match (s.instGet who).bind fun i => i.ins[input]? with
      | none => s
      | some sid =>
        match (s.strmGet pid flow sid).bind fun st => st.cons.find? fun c => c.station = some index with
        | none => s
        | some c =>
          if t.tnum = c.expect then
            let r := s.intoBuf pid flow sid c.idx t
            if r.2 = .done then (r.1.setCons pid flow sid c.idx fun c => { c with expect := (c.expect + 1) % 2 ^ 32 }).settleAll
            else s.stationOut who
          else if (t.tnum + 2 ^ 32 - c.expect) % 2 ^ 32 < 2 ^ 31 then s.stationOut who
          else s)

/-- Two tile keys name the same output. -/
def samePort (a b : TileKey) : Bool := a.pid = b.pid && a.flow = b.flow && a.index = b.index && a.port = b.port

/-- Own tiles of the same output before `k`, which the partner has not digested: they are skipped (R390).
Log entry 27 (DEDUCED). -/
def State.skipBefore (s : State) (k : TileKey) : State :=
  let early := fun (e : TileKey × Nat) => samePort e.1 k && e.1.tnum ≠ k.tnum && decide ((k.tnum + 2 ^ 32 - e.1.tnum) % 2 ^ 32 < 2 ^ 31)
  s.mapShd fun h => { h with
    own := h.own.filter fun e => !early e, skipped := h.skipped + (h.own.filter early).length }

/-- SHADOW_DIGEST (R391): the partner's digest meets the shadow's own, or waits for it. A mismatch fails the comparison and
the module enters FAILED. Log entry 27 (DEDUCED). -/
def execShadowDigest (k : TileKey) (digest : Nat) (s : State) : Res :=
  .next (if s.life.mstate ≠ .shadow || !s.shd.running || s.shd.outs.contains ⟨k.pid, k.flow, k.index⟩ then s
    else
      let s1 := s.skipBefore k
      match s1.shd.own.find? fun e => e.1 = k with
      | some e => ((s1.mapShd fun h => { h with own := h.own.erase e }).comparePair k e.2 digest).settleAll
      | none => s1.mapShd fun h => { h with theirs := h.theirs ++ [(k, digest)] })

/-- SHADOW_PASS (R391): SHADOW_PERIOD has elapsed with no mismatch and enough tiles. Log entry 27 (DEDUCED). -/
def execShadowPass (s : State) : Res :=
  .next (match s.shd.startAt with
    | none => s
    | some t =>
      if s.life.mstate = .shadow && s.shd.running && decide (t + 1250000000 * s.rd K.shadowPeriod ≤ s.now) &&
          s.shd.mismatches = 0 && decide (s.rd K.shadowMinTiles ≤ s.shd.compared) then
        (s.mapShd fun h => { h with running := false }).wr K.shadowResult 2
      else s)

end Sys2Proof.Machine
end

