-- ==== Sys2Proof/Machine/Writes.lean ====
section
/-! DEFINITION. Writing the object dictionary (R345 to R351): the checks in their order, entries whose write is a command of
its own, and the entries that just hold a value. The source gives the operands of an OCTETS command their order and the
entry's length; each operand takes its natural width (log entry 40). -/

namespace Sys2Proof.Machine

open Sys2Proof

/-- The state after a command; every meaning answers a next state. -/
def afterOf (r : Res) (s : State) : State :=
  match r with
  | .next t => t
  | .fault _ => s
  | .refused _ => s

/-- `n` bytes of an operand string, from byte `i`, little-endian. -/
def opnd (v : List Byte) (i n : Nat) : Nat := leNat ((v.drop i).take n)

/-! ### Entries whose write is a command of its own -/

/-- RTC_INVAL as an OCTETS value: PID, EPMASK, SPAN (0 PID_ALL, 1 RANGE, 2 ALL), DRAIN, a reserved word, base, length in 4 KiB
units (8 + 8 + 8 bytes). Log entry 40 (PRESUMED). -/
def invalOf (v : List Byte) : Option InvalOp :=
  if 2 < opnd v 2 1 then none
  else some ⟨opnd v 0 1, opnd v 1 1 % 16,
    if opnd v 2 1 = 0 then .pidAll else if opnd v 2 1 = 1 then .range (opnd v 8 8) (opnd v 16 8) else .all, opnd v 3 1 % 2 = 1⟩

/-- A command that has no such code is refused. -/
def refuseRow (o : Origin) (s : State) : Res := .next (s.reply o Status.refused false [])

/-- FAULT_RESOLVE by action. R51 gives the actions no codes; the model takes 0 RETRY and 1 FAIL. Log entry 63 (DESIGN CHOICE). -/
def resolveRow (o : Origin) (pid rec act : Nat) (s : State) : Res :=
  if act = 0 then execFaultResolveRetry o pid rec s
  else if act = 1 then execFaultResolveFail o pid rec s
  else refuseRow o s

/-- Commands in the PB of a partition. -/
def pbRow (o : Origin) (pid off sub : Nat) (v : List Byte) : Option (State → Res) :=
  if off = 0x09 && (sub = 1 || sub = 2) then some (execFaultRingReset o pid sub (leNat v))
  else if off = 0x09 && sub = 4 then some (execFaultRingTail o pid (leNat v))
  else if off = 0x0C then
    match invalOf v with
    | some i => some (if i.pid = pid then execRtcInval o i else refuseRow o)
    | none => some (refuseRow o)
  else if off = 0x0D then some (resolveRow o pid (opnd v 0 2) (opnd v 2 2))
  else if off = 0x21 then some (execKeyAgree o pid (opnd v 0 1) (opnd v 1 1) ((v.drop 2).take 97) (v.drop 99))
  else if off = 0x22 then some (execAttest o pid v)
  else if off = 0x23 then some (execRegionRegister o pid (opnd v 0 8) (opnd v 8 8))
  else none

/-- STATE_REQUEST by code (Table ODP-7). -/
def stateRow (o : Origin) (v : Nat) : State → Res :=
  if v = 1 then execDrain o else if v = 2 then execRestart o else if v = 3 then execRecover o
  else if v = 4 then execPowerOff o else if v = 5 then execMaintain o else refuseRow o

/-- MGR_KEY_HASH (R355): every open session closes; the entry is retained. -/
def execMgrKeyHash (o : Origin) (val : List Byte) (s : State) : Res :=
  .next (s.command o K.mgrKeyHash 0 fun s _ =>
    if val.length ≠ 48 then (s, Done.refused)
    else ((s.wr K.mgrKeyHash (leNat val)).mapMgt fun m => { m with sessions := [] }, .commit false))

/-- Commands in area 0x2000. -/
def row2 (o : Origin) (ix sub v : Nat) : Option (State → Res) :=
  let k := 256 * ix + sub
  if k = K.stateRequest then some (stateRow o v)
  else if k = K.homesMoved then some (execHomesMoved o v)
  else if k = K.analysisPort then some (execAnalysisPort o v)
  else if k = K.shadowPartner then some (execShadowPartner o v)
  else if k = K.faultDeclare then some (execFaultDeclare o v)
  else if 0x2030 ≤ ix && ix < 0x2038 && sub = 1 then some (execMirrorSessionMode o (ix - 0x2030) v)
  else none

/-- Commands of a port's entries in area 0x4000. -/
def portRow (o : Origin) (p : PortRef) (sub v : Nat) : Option (State → Res) :=
  if sub = 10 then some (execPrbsCtrl o p v)
  else if sub = 12 then some (execInject o p v)
  else if 16 ≤ sub then some (execTxTaps o p (sub - 16) v)
  else none

/-- Commands in area 0x4000. -/
def row4 (o : Origin) (ix sub v : Nat) : Option (State → Res) :=
  let k := 256 * ix + sub
  if k = K.qualNow then some (execQualNow o v)
  else if k = K.routeDrain then some (execRouteDrain o v)
  else if k = K.routeSwap then some (execRouteSwap o v)
  else if k = K.routeDefault then some (execRouteDefault o v)
  else if ix < 0x4010 then (if sub = 13 then some (execFpAdmin o (ix - 0x4000) v) else portRow o (.fp (ix - 0x4000)) sub v)
  else if ix < 0x4020 then portRow o (.ap (ix - 0x4010)) sub v
  else if ix < 0x4024 && sub = 4 then some (execExpEnable o (ix - 0x4020) v)
  else none

/-- Commands in area 0x5000. -/
def row5 (o : Origin) (ix sub : Nat) (v : List Byte) : Option (State → Res) :=
  let k := 256 * ix + sub
  if k = K.flowLoad then some (execFlowLoad o (opnd v 0 2) (opnd v 2 8) (opnd v 10 6))
  else if k = K.flowLaunch then some (execFlowLaunch o (opnd v 0 2) (opnd v 2 2) (opnd v 4 8))
  else if k = K.flowAbort then some (execFlowAbort o (opnd v 0 2) (opnd v 2 2))
  else if k = K.flowUnload then some (execFlowUnload o (opnd v 0 2) (opnd v 2 2))
  else none

/-- Commands in area 0x6000. -/
def row6 (o : Origin) (ix sub v : Nat) : Option (State → Res) :=
  let k := 256 * ix + sub
  let b := (ix - 0x6000) / 16
  if k = K.snapAt then some (execSnapAt o v)
  else if k = K.sampleRingBase then some (execSampleRingBase o v)
  else if 24 ≤ b then none
  else if 2 ≤ sub && sub ≤ 9 then some (execCounterWrite o b (sub - 2) v)
  else if 10 ≤ sub && sub ≤ 17 then some (execCounterControlWrite o b (sub - 10) v)
  else if sub = 18 then some (execOvf o b v)
  else none

/-- Commands in area 0x7000. -/
def row7 (o : Origin) (ix sub : Nat) (v : List Byte) : Option (State → Res) :=
  let k := 256 * ix + sub
  if k = K.rtSet then some (execRtSet o (leNat v))
  else if k = K.sluiceLoad then some (execSluiceLoad o (opnd v 0 2) (opnd v 2 8) (opnd v 10 6))
  else if k = K.sluiceRemove then some (execSluiceRemove o (opnd v 0 1) (opnd v 1 2))
  else if k = K.sluiceCommit then some (execSluiceCommit o (opnd v 0 1) (opnd v 1 8))
  else none

/-- Commands in areas 0x1000, 0x8000, 0x9000 and 0xA000. -/
def rowRest (o : Origin) (ix sub : Nat) (v : List Byte) : Option (State → Res) :=
  let k := 256 * ix + sub
  if k = K.mgrKeyHash then some (execMgrKeyHash o v)
  else if k = K.powerCap then some (execPowerCapWrite o (leNat v))
  else if k = K.partCreate then some (execPartCreate o (leNat v))
  else if k = K.partClose then some (execPartClose o (leNat v))
  else if k = K.ownGrant then some (execOwnGrant o (opnd v 0 8) (opnd v 8 4) (opnd v 12 1))
  else if k = K.ownRelease then some (execOwnRelease o (opnd v 0 8) (opnd v 8 4))
  else if k = K.hostLost then some (execHostLost (.write o) (opnd v 0 1) (opnd v 1 1))
  else none

/-- The command that a write of an entry performs, when it has a row of its own. -/
def ownRow (o : Origin) (ix sub : Nat) (v : List Byte) : Option (State → Res) :=
  if ix / 4096 = 2 then row2 o ix sub (leNat v)
  else if ix / 4096 = 3 then pbRow o ((ix - 0x3000) / 0x40) (ix % 0x40) sub v
  else if ix / 4096 = 4 then row4 o ix sub (leNat v)
  else if ix / 4096 = 5 then row5 o ix sub v
  else if ix / 4096 = 6 then row6 o ix sub (leNat v)
  else if ix / 4096 = 7 then row7 o ix sub v
  else rowRest o ix sub v

/-! ### Rules of other chapters that refuse a write (R350 step 3) -/

/-- R54: a host window is fixed while the host has CXL.mem enabled. -/
def State.windowFixed (s : State) (ix sub : Nat) : Bool :=
  decide (0x2100 ≤ ix) && decide (ix < 0x2104) && (sub = 1 || sub = 2 || sub = 3) && (s.cport (ix - 0x2100)).memOn

/-- R18: AP_BOND is written at the lowest port of a bond of its width. -/
def State.bondBad (s : State) (ix sub v : Nat) : Bool :=
  decide (0x4010 ≤ ix) && decide (ix < 0x4020) && sub = 13 &&
    (let a := ix - 0x4010
     s.bondOf a ≠ a || (v = 1 && a % 2 ≠ 0) || (v = 2 && a % 4 ≠ 0))

/-- R253: a VIA that names this module, the destination, or no module. -/
def State.viaBad (s : State) (ix sub v : Nat) : Bool :=
  decide (0x4100 ≤ ix) && decide (ix < 0x4111) && sub ≤ 2 && decide (v ≤ 31) && !s.viaOk (ix - 0x4100) v

/-- The rules for entries without a row of their own. -/
def State.ruleRefuses (s : State) (ix sub v : Nat) : Bool :=
  let k := 256 * ix + sub
  if k = K.wm1 then !marksOk v (s.rd K.wm2) (s.rd K.wm3)
  else if k = K.wm2 then !marksOk (s.rd K.wm1) v (s.rd K.wm3)
  else if k = K.wm3 then !marksOk (s.rd K.wm1) (s.rd K.wm2) v
  else if k = K.frameLog2 then !s.slu.act.isEmpty || !s.slu.pend.isEmpty
  else if k = K.tbufCount then decide (v ≤ 4194304) && decide (hbmBytes s < s.rd K.tbufBase + v * 4108)
  else s.windowFixed ix sub || s.bondBad ix sub v || s.viaBad ix sub v

/-! ### The write -/

/-- Upper bound of a ring's TAIL entry. -/
def State.tailMax (s : State) (k : Nat) : Nat := if k = K.sampleRingTail then s.rd K.sampleRingEntries - 1 else 0

/-- Room that a raised SPILL_QUOTA gives to waiting tiles. -/
def State.pumpPid (s : State) (pid : Nat) : State :=
  s.each (s.stn.strms.filter fun t => t.pid = pid) fun s t => s.each t.cons fun s c => s.pumpTransit pid t.flow t.sid c.idx 4097

/-- What follows a write at once: a watermark is judged anew (R241), a quota lets tiles through (R142). -/
def State.wrote (s : State) (ix sub : Nat) : State :=
  let k := 256 * ix + sub
  if [K.wm1, K.wm2, K.wm3, K.wmHyst].contains k then s.each (List.range 4) State.marks
  else if ix / 4096 = 3 && k = K.spillQuota ((ix - 0x3000) / 0x40) then (s.pumpPid ((ix - 0x3000) / 0x40)).settleAll
  else s

/-- The PID operand of a write that Table ODP-3 judges by it. -/
def opPidOf (ix sub : Nat) (v : List Byte) : Nat :=
  if ix = 0x5010 || (ix = 0x7005 && sub = 1) then opnd v 0 2 else opnd v 0 1

/-- A write (R350): existence, sender, access; type and length; the rules of the entry; reserved bits and range.
Log entries 15 (DEDUCED), 38 (DEDUCED), 44 (DEDUCED), 58 (DEDUCED). -/
def State.dictSet (s : State) (o : Origin) (ix sub ty : Nat) (val : List Byte) : State :=
  let k := 256 * ix + sub
  match s.writeGate o k (opPidOf ix sub val) with
  | some st => s.reply o (if sub = 0 && (maxSub ix).isSome then Status.refused else st) false []
  | none =>
    match entryOf ix sub with
    | none => s
    | some e =>
      if ty ≠ e.ty || val.length ≠ e.size then s.reply o Status.refused false []
      else
        match ownRow o ix sub val with
        | some f => afterOf (f s) s
        | none =>
          if s.ruleRefuses ix sub (leNat val) then s.reply o Status.refused false []
          else
            let r := s.writePlain o ((s.senderPid o).getD 0) k (s.tailMax k) (leNat val)
            (r.1.wrote ix sub).finish o r.2

/-- DICT_WRITE by a mailbox (R350). -/
def execDictWrite (o : Origin) (ix sub ty : Nat) (val : List Byte) (s : State) : Res :=
  .next (if s.managed then s.dictSet o ix sub ty val else s)

end Sys2Proof.Machine
end

