-- ==== Sys2Proof/Machine/Mgmt.lean ====
section
/-! DEFINITION. Mailboxes (R316 to R318), MDP sessions and requests (R352 to R356), and commits of the retained image
(R358). -/

namespace Sys2Proof

/-- OPC of a mailbox command (Table EPT-9). -/
def MbxCmd.opc : MbxCmd → Nat
  | .dictRead _ _ => 0x0001
  | .dictWrite _ _ _ _ => 0x0002
  | .ctxBind _ => 0x0010
  | .ctxUnbind _ _ => 0x0011
  | .queueSetup _ => 0x0020
  | .queueReset _ _ => 0x0021
  | .queueTail _ _ _ => 0x0022
  | .ctrBind _ _ _ => 0x0030
  | .rtcInval _ => 0x0040
  | .faultResolve _ _ _ => 0x0041
  | .sessionSetup _ => 0x0050
  | .other n => n

end Sys2Proof

namespace Sys2Proof.Machine

open Sys2Proof

/-! ### Mailboxes -/

/-- The command of a mailbox message. An OPC that is not in Table EPT-9 is refused. -/
def runMbx (o : Origin) (c : MbxCmd) (s : State) : Res :=
  match c with
  | .dictRead ix sub => execDictRead o ix sub s
  | .dictWrite ix sub ty val => execDictWrite o ix sub ty val s
  | .ctxBind b => execCtxBind o b s
  | .ctxUnbind ep ctx => execCtxUnbind o ep ctx s
  | .queueSetup q => execQueueSetup o q s
  | .queueReset ep q => execQueueReset o ep q s
  | .queueTail ep q tail => execQueueTail o ep q tail s
  | .ctrBind ep ctr pid => execCtrBind o ep ctr pid s
  | .rtcInval i => execRtcInval o i s
  | .faultResolve pid rec act => resolveRow o pid rec act s
  | .sessionSetup b => execSessionSetup o b s
  | .other _ => refuseRow o s

/-- R317: accepted when the sender's PID is 0 or is the PID field of the header. -/
def State.mailRun (s : State) (o : Origin) (pid : Nat) (c : MbxCmd) : State :=
  match s.senderPid o with
  | none => s.reply o Status.refused false []
  | some p => if p = 0 || p = pid then afterOf (runMbx o c s) s else s.reply o Status.refused false []

/-- MBXQ (R296, R299, R317, R318): the command of a context. A second one while the first is open is ignored.
Log entry 26 (DEDUCED). -/
def execMbxq (m : CapMsg) (pid : Nat) (cmd : MbxCmd) (s0 : State) : Res :=
  .next (
    let s := if s0.capOn m.port && epOfPort m.port = m.ep && decide (capUnits m ≤ 64) then s0.capReturn (s0.bondOf m.port) 2 (capUnits m) else s0
    let bond := s.bondOf m.port
    let o := Origin.ctx m.ep m.ctx
    if !s.capOn m.port || epOfPort m.port ≠ m.ep then s
    else if 64 < capUnits m || (s.aport bond).granted.getD 2 0 < s.capUsed bond 2 + capUnits m + 1 then s.bump (K.protocolErrors m.ep) 1
    else if s.ep.mbxCtx.contains (m.ep, m.ctx) then s
    else
      match s.ctxOf m.ep m.ctx with
      | none => s.reply o Status.refused false []
      | some c =>
        if c.port ≠ bond || c.unbind.isSome || !s.inService then s.reply o Status.refused false []
        else if c.cstate = .detached then s
        else if s.pstate c.pid = 0 then s.reply o Status.refused false []
        else if c.cstate = .closing || s.pstate c.pid ≠ 1 then (s.noteClosed c.pid).reply o Status.closed false []
        else (s.mapEp fun e => { e with mbxCtx := e.mbxCtx ++ [(m.ep, m.ctx)] }).mailRun o pid cmd)

/-- The registers of a host mailbox. -/
def State.mbxReg (s : State) (cp : Nat) : MbxReg := (s.ep.mbxHost.find? fun r => r.cp = cp).getD ⟨cp, false, 0, []⟩

/-- MBX_DOORBELL (R318): ignored and counted while BUSY. The command's operands arrive decoded, so MBX_HEADER takes OPC and PID.
Log entry 48 (DEDUCED). -/
def execMbxDoorbell (cp pid : Nat) (cmd : MbxCmd) (s : State) : Res :=
  .next (if !s.managed || decide (4 ≤ cp) || s.rd (K.cpMode cp) ≠ 1 || !(s.cport cp).up || !s.epUp cp then s
    else if (s.mbxReg cp).busy then s.bump (K.mbxBusyDrops cp) 1
    else
      let r : MbxReg := ⟨cp, true, (cmd.opc % 65536) <<< 48 ||| (pid % 64) <<< 26, []⟩
      (s.mapEp fun e => { e with mbxHost := (e.mbxHost.filter fun x => x.cp ≠ cp) ++ [r] }).mailRun (.host cp) (pid % 64) cmd)

/-! ### Sessions (R354, R355) -/

/-- The session that has been idle for longest. -/
def idlest : List Session → Option Session
  | [] => none
  | n :: r =>
    match idlest r with
    | none => some n
    | some m => if n.lastUse ≤ m.lastUse then some n else some m

/-- Close a session: the commands it waits for go on, and are not answered. -/
def State.closeSession (s : State) (id : Nat) : State :=
  s.mapMgt fun m => { m with sessions := m.sessions.filter fun n => n.id ≠ id }

/-- R355: a ninth session takes the place of the one idle for longest. -/
def State.roomForSession (s : State) : State :=
  if s.mgt.sessions.length < 8 then s
  else
    match idlest s.mgt.sessions with
    | some n => s.closeSession n.id
    | none => s

/-- R354, R357: SESSION_ACCEPT, and then an EVENT that names RESTORE_RESULT and the time at which RESTORE ended.
Log entries 10 (DESIGN CHOICE), 26 (DEDUCED). -/
def State.openSession (s : State) (op : SessionOpenOp) : State :=
  let s1 := s.roomForSession
  let id := unusedFrom (2 ^ 32) (0 :: s1.mgt.sessions.map Session.id) 9 (Config.freshId s1.free % 2 ^ 32)
  let body := leBytes 4 id ++ fitTo 97 (Config.secretBytes secEphemeral (65536 + s1.free)) ++
    fitTo 96 (Config.secretBytes secSign (131072 + s1.free))
  let s2 := s1.draw.mapMgt fun m => { m with
    sessions := m.sessions ++ [⟨id, s1.rd K.mgrKeyHash = 0, 0, [], 1, 1, s1.now⟩] }
  (s2.emit (.accept id op.portB body)).emit (.event id K.restoreResult s1.life.restoredAt)

/-- The signature of SESSION_OPEN is good, and the static key is the manager's (R354, R355). -/
def State.managerOk (s : State) (op : SessionOpenOp) : Bool :=
  Config.ecdsaOk op.staticKey (op.staticKey ++ op.ephemeral ++ op.nonce) op.sig &&
    (s.rd K.mgrKeyHash = 0 || s.rd K.mgrKeyHash = leNat (sha384 op.staticKey))

/-- The header of a datagram with `n` value bytes is as R352 states it. -/
def mdpSound (h : MdpHead) (n : Nat) : Bool := h.magic = 0x4D44 && h.version = 1 && h.len = n && decide (n ≤ 1024)

/-- A datagram that came in fragments is dropped; one that fails a check of R352 is dropped and counted in MDP_DROPS.
Log entry 26 (DEDUCED). -/
def State.datagram (s : State) (h : MdpHead) (ok : Bool) (take : State) : State :=
  if !s.managed || h.fragment then s else if ok then take else s.bump K.mdpDrops 1

/-- SESSION_OPEN: a datagram of the wrong length is dropped (R352), one that fails a check is dropped and counted (R354). -/
def execSessionOpen (op : SessionOpenOp) (s : State) : Res :=
  .next (s.datagram op.head (mdpSound op.head 338 && op.staticKey.length = 97 && op.ephemeral.length = 97 && op.nonce.length = 48 &&
      op.sig.length = 96)
    (if s.managerOk op then s.openSession op else s.bump K.mdpAuthFails 1))

/-- SESSION_CLOSE (R352). -/
def execSessionClose (op : SessionCloseOp) (s : State) : Res :=
  .next (s.datagram op.head (mdpSound op.head 0 && op.head.tagOk && s.mgt.sessions.any fun n => n.id = op.session)
    (s.closeSession op.session))

/-- SESSION_IDLE_TIMEOUT (R355): 60 s without a datagram. -/
def execSessionIdleTimeout (session : Nat) (s : State) : Res :=
  .next (if s.mgt.sessions.any fun n => n.id = session && decide (n.lastUse + 75000000000 ≤ s.now) then s.closeSession session else s)

/-! ### Requests (R356) -/

def State.setSession (s : State) (id : Nat) (f : Session → Session) : State :=
  s.mapMgt fun m => { m with sessions := mapIf (fun n => n.id = id) f m.sessions }

/-- How a request's SEQ stands to the session's window. -/
inductive SeqCase where
  | fresh
  | seen (d : DupRec)
  | below
  deriving DecidableEq, Repr

/-- The 64 numbers from the highest one downward (R356). Log entry 26 (DEDUCED). -/
def Session.seqCase (n : Session) (seq : Nat) : SeqCase :=
  if n.high < seq then .fresh
  else if seq + 64 ≤ n.high then .below
  else
    match n.win.find? fun d => d.seq = seq with
    | some d => .seen d
    | none => .fresh

/-- A request is received: the window moves up, its response is not known yet. -/
def Session.receive (n : Session) (d : MdpReq) (now : Nat) : Session :=
  let high := max n.high d.seq
  { n with high := high, win := (n.win.filter fun r => decide (high < r.seq + 64)) ++ [⟨d.seq, none, now, d.portB, false⟩] }

/-- A repeat gets the recorded response on the port of the copy, under the next NONCE; while the command runs, its response
goes to the latest copy's port. -/
def State.repeated (s : State) (d : MdpReq) (r : DupRec) : State :=
  let s1 := s.bump K.mdpDuplicates 1
  match r.answer with
  | some a => (s1.setSession d.session fun n => { n with nonce := n.nonce + 1 }).emit
      (.reply (.mdp d.session d.seq) d.portB a.1 a.2.1 false a.2.2)
  | none => s1.setSession d.session fun n => { n with
      win := mapIf (fun w => w.seq = d.seq) (fun w => { w with portB := d.portB }) n.win }

/-- The checks of a session datagram (R352), the duplicate rules (R356), and then the request itself. -/
def State.mdpRequest (s : State) (d : MdpReq) (perform : State → Origin → State) : State :=
  match s.mgt.sessions.find? fun n => n.id = d.session with
  | none => s.datagram d.head false s
  | some n =>
    s.datagram d.head (mdpSound d.head d.val.length && d.head.tagOk)
      (let s1 := s.setSession d.session fun n => { n with lastUse := s.now }
      match n.seqCase d.seq with
      | .below => s1
      | .seen r => s1.repeated d r
      | .fresh => perform (s1.setSession d.session fun n => n.receive d s.now) (.mdp d.session d.seq))

/-- R353: a long value is read in pieces of at most 1,024 bytes, by OFFSET. -/
def piece (v : List Byte) (offset : Nat) : List Byte := (v.drop offset).take 1024

/-- READ (R353, R356). -/
def execRead (d : MdpReq) (s : State) : Res :=
  .next (s.mdpRequest d fun s o =>
    let r := s.dictGet o d.ix d.sub
    s.draw.reply o r.1 false (piece r.2 d.offset))

/-- WRITE (R350, R353, R356): the whole value at OFFSET 0; no type has code 0. -/
def execWrite (d : MdpReq) (s : State) : Res :=
  .next (s.mdpRequest d fun s o => s.dictSet o d.ix d.sub (if d.offset = 0 then d.ty else 0) d.val)

/-- A command of the session that has run for 200 ms without a response. Log entry 26 (DEDUCED). -/
def Session.overdue (n : Session) (seq now : Nat) : Bool :=
  n.win.any fun r => r.seq = seq && r.answer.isNone && !r.interim && decide (r.at_ + 250000000 ≤ now)

/-- MDP_INTERIM_RESPONSE (R356): MORE = 1. Log entry 26 (DEDUCED). -/
def execMdpInterimResponse (session seq : Nat) (s : State) : Res :=
  .next (match s.mgt.sessions.find? fun n => n.id = session with
    | none => s
    | some n =>
      if n.overdue seq s.now then
        (s.setSession session fun n => { n with
          nonce := n.nonce + 1, win := mapIf (fun r => r.seq = seq) (fun r => { r with interim := true }) n.win }).emit
          (.reply (.mdp session seq) (s.replyPort session seq) Status.ok false true [])
      else s)

/-! ### Commits (R358) -/

/-- RETAINED_COMMIT: 10 ms after the first write that it covers, the image is committed and every covered write answers OK.
Log entry 25 (DEDUCED). -/
def execRetainedCommit (s : State) : Res :=
  .next (if s.managed && s.nv.dirty && decide (s.nv.since + 12500000 ≤ s.now) then
      let ws := s.nv.waiting
      (s.commitImage.mapNv fun n => { n with waiting := [] }).each ws fun s w => s.reply w.origin Status.ok w.clamped []
    else s)

end Sys2Proof.Machine
end

