-- ==== Sys2Proof/Machine/TileOps.lean ====
section
/-! DEFINITION. Arithmetic, format, compression and digest instructions of a station (R170 to R178). -/

namespace Sys2Proof.Machine

open Sys2Proof

/-! ### Arithmetic (Table TIS-8) -/

/-- An exact I result that sets no flag of its own. -/
def exactI (f : Int → Int → Int) (a b : Int) : Int × Nat := (f a b, 0)

/-- ADD. -/
def execAdd (who : InstRef) (s : State) : Res :=
  .next (s.station who 0x30 fun s i w => binTile (fun w fa fd => binRow fa fd (iSAT w) (exactI (· + ·)) (· + ·)) s i w)

/-- SUB. -/
def execSub (who : InstRef) (s : State) : Res :=
  .next (s.station who 0x31 fun s i w => binTile (fun w fa fd => binRow fa fd (iSAT w) (exactI (· - ·)) (· - ·)) s i w)

/-- MUL of two rows: Q products take the base ea + ec and no alignment (R171). -/
def mulRow (w fa fd : Nat) (x y : Row) : Row × Nat :=
  if isQ fa then
    qRow fd (((qBlocks fa x).zip (qBlocks fa y)).map fun p =>
      narrowBlock ((p.1.1.zip p.2.1).map fun v => v.1 * v.2) (p.1.2 + p.2.2) (fmtBits fd))
  else iRow fd (((rowInts fa x.1).zip (rowInts fa y.1)).map fun v => fitShift (v.1 * v.2) (immShift w) (fmtBits fd) (iSAT w))

/-- MUL. -/
def execMul (who : InstRef) (s : State) : Res := .next (s.station who 0x32 fun s i w => binTile mulRow s i w)

/-- Elements of a row as integers with their exponents (0 for I). -/
def rowVals (fmt : Nat) (r : Row) : List (Int × Int) :=
  if isQ fmt then ((qBlocks fmt r).map fun b => b.1.map fun q => (q, b.2)).flatten else (rowInts fmt r.1).map fun v => (v, 0)

/-- MAC: HD + rne_shift(a × c × 2^(ea + ec − XB), IMM[5:0]), exactly, then `fit`. The two shifts are one, since the first is
exact. -/
def macElem (fd : Nat) (sat : Bool) (xb sh acc : Int) (x y : Int × Int) : Int × Nat :=
  let p := rneShift (x.1 * y.1) (sh - (x.2 + y.2 - xb))
  let r := fit (acc + p.1) (fmtBits fd) sat
  (r.1, p.2 ||| r.2)

/-- MAC. -/
def execMac (who : InstRef) (s : State) : Res :=
  .next (s.station who 0x33 fun s i w =>
    let a := i.hget (iHA w)
    let b := i.hget (iHB w)
    let d := i.hget (iHD w)
    let xb := if isQ (iFA w) then i.xs (iXB w) else 0
    if !a.isOf (iFA w) || !b.isOf (iFA w) || !d.isOf (iFD w) || a.rows ≠ b.rows || a.rbytes ≠ b.rbytes || d.rows ≠ a.rows ||
        d.elems ≠ a.elems then .bad
    else
      finishTile s i w (iFD w) d.rbytes
        (((s.rowsOf i d).zip ((s.rowsOf i a).zip (s.rowsOf i b))).map fun e =>
          iRow (iFD w) (((rowInts (iFD w) e.1.1).zip ((rowVals (iFA w) e.2.1).zip (rowVals (iFA w) e.2.2))).map fun v =>
            macElem (iFD w) (iSAT w) xb (immShift w) v.1 v.2.1 v.2.2))
        (a.poison || b.poison || d.poison) d.tag)

/-- MIN. -/
def execMin (who : InstRef) (s : State) : Res :=
  .next (s.station who 0x34 fun s i w => binTile (fun w fa fd => binRow fa fd (iSAT w) (exactI min) min) s i w)

/-- MAX. -/
def execMax (who : InstRef) (s : State) : Res :=
  .next (s.station who 0x35 fun s i w => binTile (fun w fa fd => binRow fa fd (iSAT w) (exactI max) max) s i w)

/-- UNARY on one row: negate, magnitude, clamp. -/
def unaryRow (sub : Nat) (sat : Bool) (lo hi : Int) (fa fd : Nat) (x : Row) : Row × Nat :=
  let f := fun (a : Int) =>
    match sub with
    | 0 => -a
    | 1 => if a < 0 then -a else a
    | _ => min (max a lo) hi
  if isQ fa then qRow fd ((qBlocks fa x).map fun b => narrowBlock (b.1.map f) b.2 (fmtBits fd))
  else iRow fd ((rowInts fa x.1).map fun a => fit (f a) (fmtBits fd) sat)

/-- UNARY: the clamp is for I formats only. -/
def execUnary (who : InstRef) (s : State) : Res :=
  .next (s.station who 0x36 fun s i w =>
    if iSUB w = 2 && isQ (iFA w) then .bad
    else unTile (fun fa fd _ x => unaryRow (iSUB w) (iSAT w) (i.xs (iXA w)) (i.xs (iXB w)) fa fd x) s i w)

/-- LOGIC on the bytes of two rows. -/
def logicByte (sub : Nat) (a b : Byte) : Byte :=
  match sub with
  | 0 => a &&& b
  | 1 => a ||| b
  | 2 => a ^^^ b
  | _ => a &&& ~~~b

/-- LOGIC: formats of the same width. -/
def execLogic (who : InstRef) (s : State) : Res :=
  .next (s.station who 0x37 fun s i w =>
    if fmtBits (iFA w) ≠ fmtBits (iFD w) then .bad
    else binTile (fun w _ _ x y => (((x.1.zip y.1).map fun p => logicByte (iSUB w) p.1 p.2, []), 0)) s i w)

/-- SHIFT: right with rounding, or left. -/
def execShift (who : InstRef) (s : State) : Res :=
  .next (s.station who 0x38 fun s i w =>
    let sh := if iSUB w = 0 then immShift w else -(immShift w)
    unTile (fun fa fd _ x => iRow fd ((rowInts fa x.1).map fun a => fitShift a sh (fmtBits fd) (iSAT w))) s i w)

/-- SCALE: by the signed XB[31:0], or by element r of vector HB. -/
def execScale (who : InstRef) (s : State) : Res :=
  .next (s.station who 0x39 fun s i w =>
    let a := i.hget (iHA w)
    let b := i.hget (iHB w)
    let vec := if iSUB w = 0 then List.replicate 256 (toSigned 32 (i.xr (iXB w))) else s.vecOf i b
    if iSUB w ≠ 0 && (!b.usable || !isI b.fmt || decide (vec.length < a.rows)) then .bad
    else if !a.isOf (iFA w) then .bad
    else
      let rs := s.rowsOf i a
      finishTile s i w (iFD w) (bytesFor (iFD w) a.elems)
        ((rs.zip vec).map fun e =>
          iRow (iFD w) ((rowInts (iFA w) e.1.1).map fun x => fitShift (x * e.2) (immShift w) (fmtBits (iFD w)) (iSAT w)))
        (a.poison || (iSUB w ≠ 0 && b.poison)) (i.hget (iHD w)).tag)

/-- RSUM: the sum of a bag of rows, element by element, in units of 2^XB; only the total passes through `fit` (R172). -/
def bagSum (fd : Nat) (sat : Bool) (xb : Int) (n : Nat) (bag : List (List (Int × Int))) : List (Int × Nat) :=
  let sums := bag.foldl (fun acc r => (acc.zip r).map fun e =>
    let t := rneShift e.2.1 (xb - e.2.2)
    (e.1.1 + t.1, e.1.2 ||| t.2)) (List.replicate n ((0 : Int), 0))
  sums.map fun v =>
    let r := fit v.1 (fmtBits fd) sat
    (r.1, v.2 ||| r.2)

/-- The bags of RSUM: lengths cut the rows in order. -/
def cutBags {α : Type} : List Nat → List α → List (List α)
  | [], _ => []
  | n :: r, l => l.take n :: cutBags r (l.drop n)

/-- The exact sums of a bag lie in the INT64 range. -/
def bagFits (xb : Int) (n : Nat) (bag : List (List (Int × Int))) : Bool :=
  (bag.foldl (fun acc r => (acc.zip r).map fun e => e.1 + (rneShift e.2.1 (xb - e.2.2)).1) (List.replicate n (0 : Int))).all (inRange 64)

/-- RSUM. A GATHERSUM station sums in units of 2^OUTEXP under the header's SAT; a sum in INT64 that it hands on to another
station must lie in the INT64 range (R187). -/
def execRsum (who : InstRef) (s : State) : Res :=
  .next (s.station who 0x3A fun s i w =>
    let a := i.hget (iHA w)
    let b := i.hget (iHB w)
    let gs := i.colIs 9
    let xb := if gs then i.colOutExp else i.xs (iXB w)
    let sat := if gs then i.colSat else iSAT w
    if !a.isOf (iFA w) || !b.usable || !isI b.fmt then .bad
    else
      match indexList (s.vecOf i b) (iIMM w % 512) with
      | none => .bad
      | some ls =>
        if a.rows < ls.foldl (· + ·) 0 then .bad
        else
          let bags := cutBags ls ((s.rowsOf i a).map (rowVals (iFA w)))
          if gs && iFD w = 6 && s.handsOn i && !bags.all (bagFits xb a.elems) then .bad
          else
            finishTile s i w (iFD w) (bytesFor (iFD w) a.elems)
              (bags.map fun g => iRow (iFD w) (bagSum (iFD w) sat xb a.elems g)) (a.poison || b.poison) (i.hget (iHD w)).tag)

/-- The exact addend of one entry of MMA, with the flags of its roundings: per block pair for Q, whole for I. -/
def mmaDot (fa : Nat) (xb : Int) (x y : Row) : Int × Nat :=
  if isQ fa then
    ((qBlocks fa x).zip (qBlocks fa y)).foldl (fun acc p =>
      let d := (p.1.1.zip p.2.1).foldl (fun n v => n + v.1 * v.2) (0 : Int)
      let t := rneShift d (xb - p.1.2 - p.2.2)
      (acc.1 + t.1, acc.2 ||| t.2)) ((0 : Int), 0)
  else (((rowInts fa x.1).zip (rowInts fa y.1)).foldl (fun n v => n + v.1 * v.2) (0 : Int), 0)

/-- MMA: HD := HD + HA × HBᵀ. -/
def execMma (who : InstRef) (s : State) : Res :=
  .next (s.station who 0x3B fun s i w =>
    let a := i.hget (iHA w)
    let b := i.hget (iHB w)
    let d := i.hget (iHD w)
    if !a.isOf (iFA w) || !b.isOf (iFA w) || a.rbytes ≠ b.rbytes || !d.isOf 5 || d.rows ≠ a.rows || d.elems ≠ b.rows then .bad
    else
      let bs := s.rowsOf i b
      finishTile s i w 5 d.rbytes
        (((s.rowsOf i d).zip (s.rowsOf i a)).map fun e =>
          iRow 5 (((rowInts 5 e.1.1).zip bs).map fun v =>
            let t := mmaDot (iFA w) (i.xs (iXB w)) e.2 v.2
            let r := fit (v.1 + t.1) 32 (iSAT w)
            (r.1, t.2 ||| r.2)))
        (a.poison || b.poison || d.poison) d.tag)

/-! ### Format and scale (Table TIS-9) -/

/-- CVT. -/
def execCvt (who : InstRef) (s : State) : Res :=
  .next (s.station who 0x40 fun s i w =>
    unTile (fun fa fd _ x => iRow fd ((rowInts fa x.1).map fun a => fitShift a (immShift w) (fmtBits fd) (iSAT w))) s i w)

/-- The signed XB[7:0]. -/
def Inst.xb8 (i : Inst) (w : Nat) : Int := toSigned 8 (i.xr (iXB w))

/-- QSQ. -/
def execQsq (who : InstRef) (s : State) : Res :=
  .next (s.station who 0x41 fun s i w =>
    unTile (fun fa fd _ x => qRow fd ((blocks (rowInts fa x.1)).map fun p => narrowBlock p (i.xb8 w) (fmtBits fd))) s i w)

/-- DQSQ. -/
def execDqsq (who : InstRef) (s : State) : Res :=
  .next (s.station who 0x42 fun s i w =>
    unTile (fun fa fd _ x => iRow fd ((rowVals fa x).map fun v => fitShift v.1 (i.xb8 w - v.2) (fmtBits fd) (iSAT w))) s i w)

/-- A block re-expressed at exponent `t`. -/
def blockAt (t : Int) (w : Nat) (b : List Int × Int) : List Int × Int × Nat :=
  let q := b.1.map fun v => fitShift v (t - b.2) w true
  (q.map Prod.fst, t, q.foldl (fun f x => f ||| x.2) 0)

/-- ALIGN of one row. -/
def alignRow (sub : Nat) (t : Int) (fa fd : Nat) (x : Row) : Row × Nat :=
  let bs := qBlocks fa x
  match sub with
  | 0 => qRow fd (bs.map (blockAt t (fmtBits fd)))
  | 1 => qRow fd (bs.map (blockAt (bs.foldl (fun m b => max m b.2) (-128)) (fmtBits fd)))
  | _ => qRow fd (bs.map fun b => narrowBlock b.1 b.2 (fmtBits fd))

/-- ALIGN. -/
def execAlign (who : InstRef) (s : State) : Res :=
  .next (s.station who 0x43 fun s i w => unTile (fun fa fd _ x => alignRow (iSUB w) (i.xb8 w) fa fd x) s i w)

/-- EXPSC of one row by `d` sixteenths (R174). -/
def expscRow (fmt : Nat) (sat : Bool) (d0 : Int) (x : Row) : Row × Nat :=
  let d := if 0 < d0 then 0 else d0
  let fl := if 0 < d0 then fXCL else 0
  let k : Int := (-d) / 16
  let f := ((-d) % 16).toNat
  let t : Int := (exp2T.getD f 0 : Nat)
  let sh : Int := 15 + (exp2S f : Nat)
  if isQ fmt then
    let r := qRow fmt ((qBlocks fmt x).map fun b =>
      let e2 := b.2 - k
      let c := e2 < -128
      let sx : Int := if c then -128 - e2 else 0
      let q := b.1.map fun v => rneShift (v * t) (sh + sx)
      (q.map Prod.fst, if c then -128 else e2, q.foldl (fun g v => g ||| v.2) (if c then fXCL else 0)))
    (r.1, r.2 ||| fl)
  else
    let r := iRow fmt ((rowInts fmt x.1).map fun a => fitShift (a * t) (sh + k) (fmtBits fmt) sat)
    (r.1, r.2 ||| fl)

/-- EXPSC: row r of HA by element r of vector HB. -/
def execExpsc (who : InstRef) (s : State) : Res :=
  .next (s.station who 0x44 fun s i w =>
    let a := i.hget (iHA w)
    let b := i.hget (iHB w)
    let ds := s.vecOf i b
    if !a.isOf (iFA w) || iFA w ≠ iFD w || !b.isOf 1 || decide (ds.length < a.rows) then .bad
    else
      finishTile s i w a.fmt a.rbytes (((s.rowsOf i a).zip ds).map fun e => expscRow a.fmt (iSAT w) e.2 e.1) (a.poison || b.poison)
        (i.hget (iHD w)).tag)

/-! ### Compression and routing (Table TIS-11) -/

/-- A row all of whose element and exponent bytes are zero (R177). -/
def rowZero (r : Row) : Bool := allZero r.1 && allZero r.2

/-- The mask tile of ZELIDE: one row of 64 bytes. -/
def maskTile (mask fmt rows rbytes : Nat) : List Byte :=
  fitTo 64 (leBytes 32 mask ++ [BitVec.ofNat 8 fmt, BitVec.ofNat 8 (rows - 1), BitVec.ofNat 8 (rbytes / 64 - 1)])

/-- ZELIDE. -/
def execZelide (who : InstRef) (s : State) : Res :=
  .next (s.station who 0x50 fun s i w =>
    let a := i.hget (iHA w)
    if !a.usable then .bad
    else
      let rs := s.rowsOf i a
      let kept := (rs.zip (List.range rs.length)).filter fun e => !rowZero e.1
      let mask := kept.foldl (fun m e => setBit m e.2) 0
      match i.writeTile (iHC w) 0 64 [some (maskTile mask a.fmt a.rows a.rbytes, [])] a.poison (i.hget (iHC w)).tag with
      | none => .bad
      | some j =>
        let j1 := (j.xw (iXD w) kept.length).flag (if a.poison then fPOI else 0)
        if kept.isEmpty then .go s j1
        else finishTile s j1 w a.fmt a.rbytes (kept.map fun e => (e.1, 0)) a.poison (i.hget (iHD w)).tag)

/-- The rows of a tile restored from kept rows and a mask. -/
def expandRows (mask rb xb : Nat) : Nat → Nat → List Row → List Row
  | _, 0, _ => []
  | r, n + 1, kept =>
    if mask.testBit r then (kept.headD (zeros rb, zeros xb)) :: expandRows mask rb xb (r + 1) n kept.tail
    else (zeros rb, zeros xb) :: expandRows mask rb xb (r + 1) n kept

/-- ZEXPAND: HA is not read when the mask is all zero. -/
def execZexpand (who : InstRef) (s : State) : Res :=
  .next (s.station who 0x51 fun s i w =>
    let c := i.hget (iHC w)
    let a := i.hget (iHA w)
    let m := (((s.rowsOf i c).map Prod.fst).flatten)
    let mask := leNat (m.take 32)
    let fmt := ((m.drop 32).headD 0).toNat
    let rows := ((m.drop 33).headD 0).toNat + 1
    let rb := (((m.drop 34).headD 0).toNat % 64 + 1) * 64
    let n := (bitsSet mask 256).length
    if !c.usable || c.fmt ≠ 0 || decide (6 < fmt) || decide (2 ^ rows ≤ mask) then .bad
    else if mask ≠ 0 && (!a.usable || a.fmt ≠ fmt || a.rbytes ≠ rb || decide (a.rows < n)) then .bad
    else
      let kept := if mask = 0 then [] else s.rowsOf i a
      finishTile s i w fmt rb ((expandRows mask rb (expRow fmt rb) 0 rows kept).map fun r => (r, 0))
        (c.poison || (mask ≠ 0 && a.poison)) (i.hget (iHD w)).tag)

/-- RSEL. -/
def execRsel (who : InstRef) (s : State) : Res :=
  .next (s.station who 0x58 fun s i w =>
    let a := i.hget (iHA w)
    let b := i.hget (iHB w)
    if !a.usable || !b.usable || !isI b.fmt then .bad
    else
      match indexList (s.vecOf i b) (iIMM w % 512) with
      | none => .bad
      | some ix =>
        let rs := s.rowsOf i a
        if ix.any fun k => decide (a.rows ≤ k) then .bad
        else finishTile s i w a.fmt a.rbytes (ix.map fun k => (rs.getD k ([], []), 0)) (a.poison || b.poison) (i.hget (iHD w)).tag)

/-- RSCAT: HD takes the format and row bytes of HA and keeps its rows; rows that no index names hold the bytes that stand there,
read in the result format (R157, R163). It is a result, not an operand (log entry 32). -/
def execRscat (who : InstRef) (s : State) : Res :=
  .next (s.station who 0x59 fun s i w =>
    let a := i.hget (iHA w)
    let b := i.hget (iHB w)
    let d := i.hget (iHD w)
    if !a.usable || !b.usable || !isI b.fmt then .bad
    else
      match indexList (s.vecOf i b) a.rows with
      | none => .bad
      | some ix =>
        if ix.any fun k => decide (d.rows ≤ k) then .bad
        else
          let rows := ((s.rowsOf i a).zip ix).foldl (fun (l : List (Option Row)) e => if i.rowOn w e.2 then setAt l e.2 (some e.1) else l)
            (List.replicate d.rows none)
          let poi := a.poison || b.poison
          match i.writeTile (iHD w) a.fmt a.rbytes rows poi d.tag with
          | none => .bad
          | some j => .go s (j.flag (if poi then fPOI else 0)))

/-! ### Digests (R178) -/

/-- The hash unit starts on the tiles of the handles `hs`; the storage of local ones is not to be written meanwhile. -/
def State.hashTake (s : State) (i : Inst) (hs : List Handle) : State :=
  s.setCoreSt i.sd i.cluster i.core fun c => { c with
    hash := some i.who
    absorb := ((hs.filter fun h => h.kind = 2).map fun h =>
      [(h.base, (h.rows - 1) * h.pitch + h.rbytes), (h.xbase, (h.rows - 1) * h.xpitch + expRow h.fmt h.rbytes)]).flatten }

/-- A reset SHA-384 state. -/
def ShaState.init : ShaState := ⟨shaInit, [], 0, false⟩

/-- Absorb bytes. Log entry 6 (PRESUMED). -/
def ShaState.absorb (h : ShaState) (d : List Byte) (poi : Bool) : ShaState :=
  let b := h.buf ++ d
  let r := shaBlocks (b.length / 128) h.h b
  ⟨r.1, r.2, h.count + d.length, h.poi || poi⟩

/-- SHA: reset, absorb, digest; it waits for the hash unit. A digest of a poisoned tile is poisoned (R120). -/
def execSha (who : InstRef) (s : State) : Res :=
  .next (s.station who 0x60 fun s i w =>
    if !s.hashFree i then .stay s i
    else
      match iSUB w with
      | 0 => .go s { i with sha := ShaState.init }
      | 1 =>
        let h := i.hget (iHA w)
        if !h.usable then .bad
        else .go (s.hashTake i [h]) ({ i with sha := i.sha.absorb (packRows (s.rowsOf i h)) h.poison }.flag (if h.poison then fPOI else 0))
      | _ => finishTile s i w 0 64 [((fitTo 64 (shaFinish i.sha.h i.sha.buf i.sha.count), []), 0)] i.sha.poi (i.hget (iHD w)).tag)

/-- DCMP: bytes 0 to 47 of HA and HB. -/
def execDcmp (who : InstRef) (s : State) : Res :=
  .next (s.station who 0x61 fun s i w =>
    let a := i.hget (iHA w)
    let b := i.hget (iHB w)
    if !s.hashFree i then .stay s i
    else if !a.usable || !b.usable then .bad
    else
      let bytes := fun h => (((s.rowsOf i h).map Prod.fst).flatten).take 48
      let same := decide (bytes a = bytes b)
      let j := i.flag (if a.poison || b.poison then fPOI else 0)
      if iSUB w = 0 then (if same then .go (s.hashTake i [a, b]) j else .fail Status.checkFail)
      else .go (s.hashTake i [a, b]) (j.xw (iXD w) (b2n same)))

/-- HASH_UNIT_DONE (R178): the unit of a core has absorbed its tile. -/
def execHashUnitDone (sd cluster core : Nat) (s : State) : Res :=
  .next (s.setCoreSt sd cluster core fun c => { c with hash := none, absorb := [] })

end Sys2Proof.Machine
end

