-- ==== Sys2Proof/Machine/Dispatch.lean ====
section
/-! DEFINITION. One arm per command: a direct call of its meaning, or a rejection by name. -/

namespace Sys2Proof.Machine

open Sys2Proof

def exec (i : Instr) (s : State) : Host.Outcome State Fault Refusal :=
  match i with
  | .powerGood peOk => Sys2Proof.Machine.execPowerGood peOk s
  | .restoreComplete => Sys2Proof.Machine.execRestoreComplete s
  | .selftestComplete r => Sys2Proof.Machine.execSelftestComplete r s
  | .trainingExit => Sys2Proof.Machine.execTrainingExit s
  | .inputLoss => Sys2Proof.Machine.execInputLoss s
  | .presentLoopOpen => Sys2Proof.Machine.execPresentLoopOpen s
  | .inputOvervoltage => Sys2Proof.Machine.execInputOvervoltage s
  | .inputOvercurrent => Sys2Proof.Machine.execInputOvercurrent s
  | .fuseRelease => Sys2Proof.Machine.execFuseRelease s
  | .reversedPolarity => Sys2Proof.Machine.execReversedPolarity s
  | .inputRestart => Sys2Proof.Machine.execInputRestart s
  | .fatalFault code unit => Sys2Proof.Machine.execFatalFault code unit s
  | .drain o => Sys2Proof.Machine.execDrain o s
  | .restart o => Sys2Proof.Machine.execRestart o s
  | .recover o => Sys2Proof.Machine.execRecover o s
  | .powerOff o => Sys2Proof.Machine.execPowerOff o s
  | .maintain o => Sys2Proof.Machine.execMaintain o s
  | .homesMoved o v => Sys2Proof.Machine.execHomesMoved o v s
  | .moduleDrained => Sys2Proof.Machine.execModuleDrained s
  | .faultDeclare o v => Sys2Proof.Machine.execFaultDeclare o v s
  | .powerCapWrite o v => Sys2Proof.Machine.execPowerCapWrite o v s
  | .capStage2 watts => Sys2Proof.Machine.execCapStage2 watts s
  | .capStage3 watts => Sys2Proof.Machine.execCapStage3 watts s
  | .capRelease watts => Sys2Proof.Machine.execCapRelease watts s
  | .emergencyThrottle overCurrent tempDeci => Sys2Proof.Machine.execEmergencyThrottle overCurrent tempDeci s
  | .emergencyThrottleEnd => Sys2Proof.Machine.execEmergencyThrottleEnd s
  | .thermalShutdown tempDeci => Sys2Proof.Machine.execThermalShutdown tempDeci s
  | .ld src => Sys2Proof.Machine.execLd src s
  | .st src => Sys2Proof.Machine.execSt src s
  | .bld m => Sys2Proof.Machine.execBld m s
  | .bst m => Sys2Proof.Machine.execBst m s
  | .atomicAdd src => Sys2Proof.Machine.execAtomicAdd src s
  | .atomicMin src => Sys2Proof.Machine.execAtomicMin src s
  | .atomicMax src => Sys2Proof.Machine.execAtomicMax src s
  | .atomicAnd src => Sys2Proof.Machine.execAtomicAnd src s
  | .atomicOr src => Sys2Proof.Machine.execAtomicOr src s
  | .atomicXor src => Sys2Proof.Machine.execAtomicXor src s
  | .atomicSwap src => Sys2Proof.Machine.execAtomicSwap src s
  | .atomicCas src => Sys2Proof.Machine.execAtomicCas src s
  | .casOwn src => Sys2Proof.Machine.execCasOwn src s
  | .trd m => Sys2Proof.Machine.execTrd m s
  | .twr m => Sys2Proof.Machine.execTwr m s
  | .twd m => Sys2Proof.Machine.execTwd m s
  | .fenceAcquire src => Sys2Proof.Machine.execFenceAcquire src s
  | .fenceRelease src => Sys2Proof.Machine.execFenceRelease src s
  | .fenceAcqRel src => Sys2Proof.Machine.execFenceAcqRel src s
  | .fenceComplete tx => Sys2Proof.Machine.execFenceComplete tx s
  | .inval src => Sys2Proof.Machine.execInval src s
  | .invalComplete tx => Sys2Proof.Machine.execInvalComplete tx s
  | .hintHot m => Sys2Proof.Machine.execHintHot m s
  | .hintWarm m => Sys2Proof.Machine.execHintWarm m s
  | .hintCold m => Sys2Proof.Machine.execHintCold m s
  | .hintEvict m => Sys2Proof.Machine.execHintEvict m s
  | .hintPin m => Sys2Proof.Machine.execHintPin m s
  | .doorbell m => Sys2Proof.Machine.execDoorbell m s
  | .ctrwait m => Sys2Proof.Machine.execCtrwait m s
  | .ctrwaitTimeout ep ctx tag => Sys2Proof.Machine.execCtrwaitTimeout ep ctx tag s
  | .ctrset m => Sys2Proof.Machine.execCtrset m s
  | .sput m => Sys2Proof.Machine.execSput m s
  | .scred m => Sys2Proof.Machine.execScred m s
  | .mbxq m pid cmd => Sys2Proof.Machine.execMbxq m pid cmd s
  | .xrsp m => Sys2Proof.Machine.execXrsp m s
  | .exportTimeout xid => Sys2Proof.Machine.execExportTimeout xid s
  | .requestIssue tx part => Sys2Proof.Machine.execRequestIssue tx part s
  | .walkerFree ep => Sys2Proof.Machine.execWalkerFree ep s
  | .rtcWalkComplete ep pid slot uncorrectable => Sys2Proof.Machine.execRtcWalkComplete ep pid slot uncorrectable s
  | .faultResolveRetry o pid recId => Sys2Proof.Machine.execFaultResolveRetry o pid recId s
  | .faultResolveFail o pid recId => Sys2Proof.Machine.execFaultResolveFail o pid recId s
  | .rtcInval o op => Sys2Proof.Machine.execRtcInval o op s
  | .rtcInvalComplete id => Sys2Proof.Machine.execRtcInvalComplete id s
  | .faultRingReset o pid sub v => Sys2Proof.Machine.execFaultRingReset o pid sub v s
  | .faultRingTail o pid v => Sys2Proof.Machine.execFaultRingTail o pid v s
  | .cxlMemRequest cp wr wantM hpa data => Sys2Proof.Machine.execCxlMemRequest cp wr wantM hpa data s
  | .atsInvalidation cp base len => Sys2Proof.Machine.execAtsInvalidation cp base len s
  | .homeLoad pos uncorrectable => Sys2Proof.Machine.execHomeLoad pos uncorrectable s
  | .homeStore pos => Sys2Proof.Machine.execHomeStore pos s
  | .homeHintCommand pos => Sys2Proof.Machine.execHomeHintCommand pos s
  | .ownerTableRead pos => Sys2Proof.Machine.execOwnerTableRead pos s
  | .ownerReadResponse flag status word => Sys2Proof.Machine.execOwnerReadResponse flag status word s
  | .ownerUpdate src seq flag owner gen => Sys2Proof.Machine.execOwnerUpdate src seq flag owner gen s
  | .mirrorWrite pos => Sys2Proof.Machine.execMirrorWrite pos s
  | .mirrorAck hid status => Sys2Proof.Machine.execMirrorAck hid status s
  | .mirrorRetryRequest pos => Sys2Proof.Machine.execMirrorRetryRequest pos s
  | .mirrorRetryHoldExpiry pos => Sys2Proof.Machine.execMirrorRetryHoldExpiry pos s
  | .hostCoherentRequest pos => Sys2Proof.Machine.execHostCoherentRequest pos s
  | .directoryRecall src cp line invalidate => Sys2Proof.Machine.execDirectoryRecall src cp line invalidate s
  | .recallResponse line host data => Sys2Proof.Machine.execRecallResponse line host data s
  | .recallTimeout line => Sys2Proof.Machine.execRecallTimeout line s
  | .hostLost cause mid cp => Sys2Proof.Machine.execHostLost cause mid cp s
  | .hostLossSweepEnd mid cp => Sys2Proof.Machine.execHostLossSweepEnd mid cp s
  | .tierFrameMoveComplete frame badLines => Sys2Proof.Machine.execTierFrameMoveComplete frame badLines s
  | .atomicBufferFetchComplete line status data => Sys2Proof.Machine.execAtomicBufferFetchComplete line status data s
  | .responseArrival r => Sys2Proof.Machine.execResponseArrival r s
  | .frameHeaderArrival ingress f seen => Sys2Proof.Machine.execFrameHeaderArrival ingress f seen s
  | .frameTailArrival id hop authOk marked => Sys2Proof.Machine.execFrameTailArrival id hop authOk marked s
  | .frameDelivery id => Sys2Proof.Machine.execFrameDelivery id s
  | .egressArbitration egress seen => Sys2Proof.Machine.execEgressArbitration egress seen s
  | .tbufCacheRefill => Sys2Proof.Machine.execTbufCacheRefill s
  | .framePark id => Sys2Proof.Machine.execFramePark id s
  | .frameUnpark id => Sys2Proof.Machine.execFrameUnpark id s
  | .mirrorSessionMode o n v => Sys2Proof.Machine.execMirrorSessionMode o n v s
  | .analysisPort o v => Sys2Proof.Machine.execAnalysisPort o v s
  | .ackArrival src seqs => Sys2Proof.Machine.execAckArrival src seqs s
  | .heldRequestAck pos => Sys2Proof.Machine.execHeldRequestAck pos s
  | .ackedRequestQuery dst seq => Sys2Proof.Machine.execAckedRequestQuery dst seq s
  | .resendTimerExpiry dst seq => Sys2Proof.Machine.execResendTimerExpiry dst seq s
  | .keepaliveSend => Sys2Proof.Machine.execKeepaliveSend s
  | .keepaliveTimeout port => Sys2Proof.Machine.execKeepaliveTimeout port s
  | .lossOfLight port => Sys2Proof.Machine.execLossOfLight port s
  | .linkStateNotice n => Sys2Proof.Machine.execLinkStateNotice n s
  | .peerLossTimeout mid => Sys2Proof.Machine.execPeerLossTimeout mid s
  | .closingNotice src pid => Sys2Proof.Machine.execClosingNotice src pid s
  | .abortNotice src pid flow status station time => Sys2Proof.Machine.execAbortNotice src pid flow status station time s
  | .creditReturn src pid flow sid consumer free => Sys2Proof.Machine.execCreditReturn src pid flow sid consumer free s
  | .routeDrain o v => Sys2Proof.Machine.execRouteDrain o v s
  | .routeDrained => Sys2Proof.Machine.execRouteDrained s
  | .routeDrainTimeout => Sys2Proof.Machine.execRouteDrainTimeout s
  | .routeSwap o ts => Sys2Proof.Machine.execRouteSwap o ts s
  | .routeSwitch => Sys2Proof.Machine.execRouteSwitch s
  | .routeSwapTimeout => Sys2Proof.Machine.execRouteSwapTimeout s
  | .routeDefault o v => Sys2Proof.Machine.execRouteDefault o v s
  | .portTrainingStart p => Sys2Proof.Machine.execPortTrainingStart p s
  | .trainFailRetry p => Sys2Proof.Machine.execTrainFailRetry p s
  | .identityRecord port r => Sys2Proof.Machine.execIdentityRecord port r s
  | .capLinkParameters port r => Sys2Proof.Machine.execCapLinkParameters port r s
  | .portLinkUp p => Sys2Proof.Machine.execPortLinkUp p s
  | .linkKeyAgreement port keyHash pepoch nextSeq gen mstate => Sys2Proof.Machine.execLinkKeyAgreement port keyHash pepoch nextSeq gen mstate s
  | .portSecretRenewal port => Sys2Proof.Machine.execPortSecretRenewal port s
  | .linkKeyGraceExpiry port => Sys2Proof.Machine.execLinkKeyGraceExpiry port s
  | .lightReturn port => Sys2Proof.Machine.execLightReturn port s
  | .fpAdmin o port v => Sys2Proof.Machine.execFpAdmin o port v s
  | .laneRemap p lane cause => Sys2Proof.Machine.execLaneRemap p lane cause s
  | .laneGroupDisable p lane => Sys2Proof.Machine.execLaneGroupDisable p lane s
  | .idleEntry p => Sys2Proof.Machine.execIdleEntry p s
  | .idleExit p => Sys2Proof.Machine.execIdleExit p s
  | .txTaps o p lane v => Sys2Proof.Machine.execTxTaps o p lane v s
  | .prbsCtrl o p v => Sys2Proof.Machine.execPrbsCtrl o p v s
  | .inject o p v => Sys2Proof.Machine.execInject o p v s
  | .qualNow o v => Sys2Proof.Machine.execQualNow o v s
  | .qualificationEnd failed => Sys2Proof.Machine.execQualificationEnd failed s
  | .dailyQualification => Sys2Proof.Machine.execDailyQualification s
  | .qualLaneTestEnd p errors => Sys2Proof.Machine.execQualLaneTestEnd p errors s
  | .cpLinkDown cp => Sys2Proof.Machine.execCpLinkDown cp s
  | .cpLinkUp p serial bytes link => Sys2Proof.Machine.execCpLinkUp p serial bytes link s
  | .expEnable o cp v => Sys2Proof.Machine.execExpEnable o cp v s
  | .flitReceived port f => Sys2Proof.Machine.execFlitReceived port f s
  | .flitReplay port ackseq => Sys2Proof.Machine.execFlitReplay port ackseq s
  | .attachLinkDown port => Sys2Proof.Machine.execAttachLinkDown port s
  | .ctxBind o b => Sys2Proof.Machine.execCtxBind o b s
  | .ctxUnbind o ep ctx => Sys2Proof.Machine.execCtxUnbind o ep ctx s
  | .ctxUnbindComplete ep ctx => Sys2Proof.Machine.execCtxUnbindComplete ep ctx s
  | .queueSetup o q => Sys2Proof.Machine.execQueueSetup o q s
  | .queueReset o ep q => Sys2Proof.Machine.execQueueReset o ep q s
  | .queueTail o ep q tail => Sys2Proof.Machine.execQueueTail o ep q tail s
  | .copyDescriptorStart ep q desc host => Sys2Proof.Machine.execCopyDescriptorStart ep q desc host s
  | .copyDescriptorComplete ep q e => Sys2Proof.Machine.execCopyDescriptorComplete ep q e s
  | .counterAdvance ep ctr pid => Sys2Proof.Machine.execCounterAdvance ep ctr pid s
  | .ctrBind o ep ctr pid => Sys2Proof.Machine.execCtrBind o ep ctr pid s
  | .mbxDoorbell cp pid cmd => Sys2Proof.Machine.execMbxDoorbell cp pid cmd s
  | .dictRead o ix sub => Sys2Proof.Machine.execDictRead o ix sub s
  | .dictWrite o ix sub ty val => Sys2Proof.Machine.execDictWrite o ix sub ty val s
  | .sessionSetup o b => Sys2Proof.Machine.execSessionSetup o b s
  | .flowLoad o pid fva len => Sys2Proof.Machine.execFlowLoad o pid fva len s
  | .flowLoadComplete pid fva len => Sys2Proof.Machine.execFlowLoadComplete pid fva len s
  | .flowLaunch o pid flow t => Sys2Proof.Machine.execFlowLaunch o pid flow t s
  | .flowStart pid flow => Sys2Proof.Machine.execFlowStart pid flow s
  | .flowAbort o pid flow => Sys2Proof.Machine.execFlowAbort o pid flow s
  | .flowUnload o pid flow => Sys2Proof.Machine.execFlowUnload o pid flow s
  | .flowDone pid flow => Sys2Proof.Machine.execFlowDone pid flow s
  | .streamTileArrival pid flow sid consumer t src => Sys2Proof.Machine.execStreamTileArrival pid flow sid consumer t src s
  | .spillReadback pid flow sid consumer => Sys2Proof.Machine.execSpillReadback pid flow sid consumer s
  | .spanIssue who => Sys2Proof.Machine.execSpanIssue who s
  | .watchdogExpiry who input => Sys2Proof.Machine.execWatchdogExpiry who input s
  | .residueMismatch who => Sys2Proof.Machine.execResidueMismatch who s
  | .coreRetirementComplete sd cluster core => Sys2Proof.Machine.execCoreRetirementComplete sd cluster core s
  | .clusterRetirementComplete sd cluster => Sys2Proof.Machine.execClusterRetirementComplete sd cluster s
  | .engineRetirementComplete sd cluster core => Sys2Proof.Machine.execEngineRetirementComplete sd cluster core s
  | .memoryInstructionComplete who => Sys2Proof.Machine.execMemoryInstructionComplete who s
  | .nop who => Sys2Proof.Machine.execNop who s
  | .li who => Sys2Proof.Machine.execLi who s
  | .salu who => Sys2Proof.Machine.execSalu who s
  | .br who => Sys2Proof.Machine.execBr who s
  | .ldp who => Sys2Proof.Machine.execLdp who s
  | .stp who => Sys2Proof.Machine.execStp who s
  | .halt who => Sys2Proof.Machine.execHalt who s
  | .flg who => Sys2Proof.Machine.execFlg who s
  | .rdtime who => Sys2Proof.Machine.execRdtime who s
  | .waitt who => Sys2Proof.Machine.execWaitt who s
  | .waittExpiry who => Sys2Proof.Machine.execWaittExpiry who s
  | .pmask who => Sys2Proof.Machine.execPmask who s
  | .get who => Sys2Proof.Machine.execGet who s
  | .put who => Sys2Proof.Machine.execPut who s
  | .pend who => Sys2Proof.Machine.execPend who s
  | .rel who => Sys2Proof.Machine.execRel who s
  | .tnew who => Sys2Proof.Machine.execTnew who s
  | .tview who => Sys2Proof.Machine.execTview who s
  | .tset who => Sys2Proof.Machine.execTset who s
  | .tinfo who => Sys2Proof.Machine.execTinfo who s
  | .tfill who => Sys2Proof.Machine.execTfill who s
  | .tcopy who => Sys2Proof.Machine.execTcopy who s
  | .tld who => Sys2Proof.Machine.execTld who s
  | .tst who => Sys2Proof.Machine.execTst who s
  | .tgath who => Sys2Proof.Machine.execTgath who s
  | .seqrd who => Sys2Proof.Machine.execSeqrd who s
  | .add who => Sys2Proof.Machine.execAdd who s
  | .sub who => Sys2Proof.Machine.execSub who s
  | .mul who => Sys2Proof.Machine.execMul who s
  | .mac who => Sys2Proof.Machine.execMac who s
  | .min who => Sys2Proof.Machine.execMin who s
  | .max who => Sys2Proof.Machine.execMax who s
  | .unary who => Sys2Proof.Machine.execUnary who s
  | .logic who => Sys2Proof.Machine.execLogic who s
  | .shift who => Sys2Proof.Machine.execShift who s
  | .scale who => Sys2Proof.Machine.execScale who s
  | .rsum who => Sys2Proof.Machine.execRsum who s
  | .mma who => Sys2Proof.Machine.execMma who s
  | .cvt who => Sys2Proof.Machine.execCvt who s
  | .qsq who => Sys2Proof.Machine.execQsq who s
  | .dqsq who => Sys2Proof.Machine.execDqsq who s
  | .align who => Sys2Proof.Machine.execAlign who s
  | .expsc who => Sys2Proof.Machine.execExpsc who s
  | .zelide who => Sys2Proof.Machine.execZelide who s
  | .zexpand who => Sys2Proof.Machine.execZexpand who s
  | .rsel who => Sys2Proof.Machine.execRsel who s
  | .rscat who => Sys2Proof.Machine.execRscat who s
  | .sha who => Sys2Proof.Machine.execSha who s
  | .dcmp who => Sys2Proof.Machine.execDcmp who s
  | .referenceLost refB => Sys2Proof.Machine.execReferenceLost refB s
  | .referenceQualified refB => Sys2Proof.Machine.execReferenceQualified refB s
  | .referenceRevert => Sys2Proof.Machine.execReferenceRevert s
  | .timestampExchange x => Sys2Proof.Machine.execTimestampExchange x s
  | .rootHandover r => Sys2Proof.Machine.execRootHandover r s
  | .rtSet o v => Sys2Proof.Machine.execRtSet o v s
  | .sluiceLoad o pid fva len => Sys2Proof.Machine.execSluiceLoad o pid fva len s
  | .sluiceRemove o pid set => Sys2Proof.Machine.execSluiceRemove o pid set s
  | .sluiceCommit o pid ts => Sys2Proof.Machine.execSluiceCommit o pid ts s
  | .sluiceBankSwitch pid => Sys2Proof.Machine.execSluiceBankSwitch pid s
  | .gateWake entry => Sys2Proof.Machine.execGateWake entry s
  | .gateOpen entry => Sys2Proof.Machine.execGateOpen entry s
  | .gateClose entry => Sys2Proof.Machine.execGateClose entry s
  | .partCreate o pid => Sys2Proof.Machine.execPartCreate o pid s
  | .partClose o pid => Sys2Proof.Machine.execPartClose o pid s
  | .teardownDrainEnd pid => Sys2Proof.Machine.execTeardownDrainEnd pid s
  | .ownGrant o base count pid => Sys2Proof.Machine.execOwnGrant o base count pid s
  | .ownRelease o base count => Sys2Proof.Machine.execOwnRelease o base count s
  | .zeroFillGranuleDone dev => Sys2Proof.Machine.execZeroFillGranuleDone dev s
  | .coreZeroingComplete sd cluster core => Sys2Proof.Machine.execCoreZeroingComplete sd cluster core s
  | .keyAgree o pid slot kind pub nonce => Sys2Proof.Machine.execKeyAgree o pid slot kind pub nonce s
  | .attest o pid nonce => Sys2Proof.Machine.execAttest o pid nonce s
  | .regionRegister o pid fva len => Sys2Proof.Machine.execRegionRegister o pid fva len s
  | .regionRegisterComplete pid => Sys2Proof.Machine.execRegionRegisterComplete pid s
  | .sessionOpen op => Sys2Proof.Machine.execSessionOpen op s
  | .sessionClose op => Sys2Proof.Machine.execSessionClose op s
  | .sessionIdleTimeout session => Sys2Proof.Machine.execSessionIdleTimeout session s
  | .read d => Sys2Proof.Machine.execRead d s
  | .write d => Sys2Proof.Machine.execWrite d s
  | .mdpInterimResponse session seq => Sys2Proof.Machine.execMdpInterimResponse session seq s
  | .mgrKeyHash o val => Sys2Proof.Machine.execMgrKeyHash o val s
  | .retainedCommit => Sys2Proof.Machine.execRetainedCommit s
  | .counterControlWrite o bank n v => Sys2Proof.Machine.execCounterControlWrite o bank n v s
  | .counterWrite o bank n v => Sys2Proof.Machine.execCounterWrite o bank n v s
  | .ovf o bank v => Sys2Proof.Machine.execOvf o bank v s
  | .counterOverflow bank n occ => Sys2Proof.Machine.execCounterOverflow bank n occ s
  | .snapAt o ts => Sys2Proof.Machine.execSnapAt o ts s
  | .snapshotTaken => Sys2Proof.Machine.execSnapshotTaken s
  | .sampleRingBase o v => Sys2Proof.Machine.execSampleRingBase o v s
  | .stationDieFault sd => Sys2Proof.Machine.execStationDieFault sd s
  | .epDieFault ep => Sys2Proof.Machine.execEpDieFault ep s
  | .oeDieFault oe => Sys2Proof.Machine.execOeDieFault oe s
  | .managementLinkDown portB => Sys2Proof.Machine.execManagementLinkDown portB s
  | .shadowPartner o v => Sys2Proof.Machine.execShadowPartner o v s
  | .shadowFeedTile pid flow index input t => Sys2Proof.Machine.execShadowFeedTile pid flow index input t s
  | .shadowDigest k digest => Sys2Proof.Machine.execShadowDigest k digest s
  | .shadowPass => Sys2Proof.Machine.execShadowPass s
  | .trainingPhaseFail p => Sys2Proof.Machine.execTrainingPhaseFail p s
  | .managementLinkUp portB => Sys2Proof.Machine.execManagementLinkUp portB s
  | .sluiceLoadComplete pid fva len => Sys2Proof.Machine.execSluiceLoadComplete pid fva len s
  | .hashUnitDone sd cluster core => Sys2Proof.Machine.execHashUnitDone sd cluster core s
  | .cxlMemEnable cp cfg => Sys2Proof.Machine.execCxlMemEnable cp cfg s

end Sys2Proof.Machine
end

