-- ==== Sys2Proof/Machine/Tick.lean ====
section
/-! DEFINITION. What one tick of rack time does by itself (log entry 2): the counter advances and is slewed (R206), the weir
buckets fill (R103), and the counter banks count the clocks that their domains run (R365, R369 to R371). -/

namespace Sys2Proof.Machine

open Sys2Proof

/-! ### The counter -/

/-- Ticks between two corrections: 4,096 while LOCKED, 256 otherwise (R206). -/
def State.slewEvery (s : State) : Nat := if s.locked then 4096 else 256

/-- R206: the counter advances by one; a correction of a whole tick makes it advance by two, or stand still.
Log entries 2 (DESIGN CHOICE), 43 (DESIGN CHOICE). -/
def State.advance (s : State) : State :=
  let due := s.tim.everLocked && decide (s.slewEvery ≤ s.tim.slew + 1)
  if due && decide (16 ≤ s.tim.offset) then
    s.mapTim fun t => { t with now := t.now + 2, offset := t.offset - 16, slew := 0 }
  else if due && decide (s.tim.offset ≤ -16) then
    s.mapTim fun t => { t with offset := t.offset + 16, slew := 0 }
  else s.mapTim fun t => { t with now := t.now + 1, slew := if due then t.slew else t.slew + 1 }

/-- R103: a bucket takes WEIR_RATE MB/s for 0.8 ns, in 1/10,000 byte, up to WEIR_DEPTH. Log entry 2 (DESIGN CHOICE). -/
def State.weirFill (s : State) : State :=
  s.mapReq fun r => { r with agents := r.agents.map fun a =>
    { a with bucket := min (a.bucket + (8 * s.rd (K.weirRate a.pid) : Nat)) (s.rd (K.weirDepth a.pid) * 10000 : Nat) } }

/-! ### Clocks -/

/-- Clocks of the XD and the station dies per tick, in hundredths (Table PWR-5). -/
def State.clockRate (s : State) : Nat := 128 - 16 * min 4 (s.rd K.operatingPoint)

/-- No station clock runs in the emergency throttle, nor where a cap has withheld all of them. -/
def State.stationsStopped (s : State) : Bool := s.rd K.emergency = 1 || s.power.stage3

/-- A frame of the stream waits in the core for its gate (R221). -/
def State.gateHolds (s : State) (st : Strm) : Bool :=
  st.tc = 1 && s.sw.frames.any fun c => inFlow c.f st.pid st.flow && c.f.sidOf = st.sid && c.egr.any gatedCode

/-- What the slots of a waiting instance are, as class and sub-event (Tables STN-13, CNT-2). A put that waits while a frame of its
stream stands at a gate waits for the gate; a SEQRD that waits for its span's time is as WAITT is. An operand never waits for
an earlier instruction, since an instruction of the model commits before the next begins. Log entry 29 (DEDUCED). -/
def State.waitSlot (s : State) (i : Inst) : Option (Nat × Nat) :=
  match i.wait with
  | .time _ => some (2, 0x019)
  | .mem id =>
    match s.txOf id with
    | some t => (match t.xst with
      | .parked _ => some (3, 0x024)
      | _ => some (3, 0x023))
    | none => none
  | .paused => none
  | .none =>
    let w := i.word
    if (s.starvedOn i).isSome then some (2, 0x018)
    else if i.halted then none
    else if iOP w = 0x11 || iOP w = 0x12 then
      match s.outputOf i (iIMM w % 64) with
      | some st =>
        let t := s.putTileOf i w
        if !s.canPut st t then some (3, if s.gateHolds st then 0x022 else 0x020)
        else if !s.roomHere st t then some (3, 0x021) else none
      | none => none
    else if iOP w = 0x60 || iOP w = 0x61 then (if s.hashFree i then none else some (3, 0x026))
    else if iOP w = 0x28 && i.seqHeld w then some (2, 0x019)
    else none

/-- The waiting slots of the selected instances in `n` clocks, four per clock and core. -/
def State.waitSlots (s : State) (n : Nat) : State :=
  s.each s.stn.cores fun s c =>
    match c.sel.bind s.instGet with
    | none => s
    | some i =>
      if i.complete || !s.running i.who.pid i.who.flow || !s.coreReady i then s
      else
        match s.waitSlot i with
        | some (cls, ev) => s.slots i cls ev (4 * n)
        | none => s

/-- The cluster banks in `n` clocks: a bank whose cluster is out of service has stopped (R366). -/
def State.clusterClocks (s : State) (n : Nat) : State :=
  if s.stationsStopped then s
  else
    (s.each (List.range s.stn.banks.length) fun s b =>
      match s.stn.banks[b]? with
      | some c => if s.stn.clusters.contains c then s.bump64 (K.cycles b) n else s
      | none => s).waitSlots n

/-- The quadrant banks in `n` clocks: cycles, free cells, clocks below each watermark. -/
def State.quadClocks (s : State) (n : Nat) : State :=
  s.each (List.range 4) fun s q =>
    let s1 := (s.bump64 (K.cycles (16 + q)) n).quadEv q 0x103 64 (s.freeCells q * n)
    s1.each [1, 2, 3] fun s m => s.quadEv q (0x103 + m) 64 (if s.belowMark q m then n else 0)

/-- Parts of an EP's agents that only the weir, or only the window, holds back. -/
def State.stalled (s : State) (ep : Nat) (open_ : State → Tx → Part → Bool) : Bool :=
  s.req.txs.any fun t => agentEp t.agent = ep && t.parts.any fun p => s.partReady t p && !open_ s t p

/-- The EP banks in `n` clocks of 1.6 GHz: cycles, busy walkers, clocks stalled on a weir or a window.
Log entry 30 (DEDUCED). -/
def State.epClocks (s : State) (n : Nat) : State :=
  s.each ((List.range 4).filter s.epUp) fun s ep =>
    let s1 := s.bump64 (K.cycles (20 + ep)) n
    let s2 := s1.each (s1.xl.walks.filter fun w => w.ep = ep) fun s w => s.epEv ep 0x204 w.pid n
    let s3 := s2.epEv ep 0x208 64 (if s2.stalled ep fun s t p => s.weirOpen t p then n else 0)
    s3.epEv ep 0x209 64 (if s3.stalled ep fun s t p => s.windowOpen t.agent (s.homeFor p) (txClass t p) then n else 0)

/-- The clocks that one tick brings to each domain. Log entries 2 (DESIGN CHOICE), 29 (DESIGN CHOICE). -/
def State.clocks (s : State) : State :=
  let a := s.tim.clkAcc + s.clockRate
  let e := s.tim.epAcc + 128
  (((s.mapTim fun t => { t with clkAcc := a % 100, epAcc := e % 100 }).clusterClocks (a / 100)).quadClocks (a / 100)).epClocks (e / 100)

/-- R199: one more tick of each station that is front-starved on an input; time withheld under a cap does not count. -/
def State.starveTick (s : State) : State :=
  s.mapStn fun x => { x with insts := mapIf (fun i => s.running i.who.pid i.who.flow && !s.clockHeld i.who) (fun i =>
    { i with starved := (s.starvedOn i).map fun n => (n, 1 + (i.starved.filter fun e => e.1 = n).elim 0 Prod.snd) }) x.insts }

/-- One tick: none in OFF; the banks count from SELFTEST on. Log entries 2 (DESIGN CHOICE), 29 (DESIGN CHOICE). -/
def State.tick (s : State) : State :=
  if s.life.mstate = .off then s
  else
    let s1 := s.advance.weirFill.starveTick
    if s1.managed then s1.clocks else s1

end Sys2Proof.Machine
end

