-- ==== Sys2Proof/WellFormed.lean ====
section
/-! DEFINITION. Well-formed commands: every unit a command names exists on the module (Chapter 1: 16 fabric
ports, 16 attach ports, 4 CXL ports, 4 end-points, 17 MIDs, 64 PIDs, 4 station dies). A command that names
a unit the part does not have can not be given to it. -/

namespace Sys2Proof

/-- A port that exists (R17). -/
def PortRef.wf : PortRef → Bool
  | .fp n => decide (n < 16)
  | .ap n => decide (n < 16)
  | .cp n => decide (n < 4)

/-- A training start of a port that exists, with DC faults of Table LNK-9's codes. -/
def TrainOp.wf : TrainOp → Bool
  | .fp n => decide (n < 16)
  | .ap n dc => decide (n < 16) &&
      dc.all fun v => decide (v < 2 ^ 24) && (List.range 8).all fun k => decide (bits v (3 * k + 2) (3 * k) ≤ 4)
  | .cp n => decide (n < 4)

/-- An origin that exists: a context of an EP, or one of the four host mailboxes. -/
def Origin.wf : Origin → Bool
  | .mdp _ _ => true
  | .ctx ep n => decide (ep < 4) && decide (n < 1024)
  | .host cp => decide (cp < 4)

/-- A CAP message arrives on an attach port of its EP, for one of 1,024 contexts. -/
def CapMsg.wf (m : CapMsg) : Bool :=
  decide (m.ep < 4) && decide (m.port < 16) && decide (m.port / 4 = m.ep) && decide (m.ctx < 1024) &&
    decide (m.tag < 65536)

def Src.wf : Src → Bool
  | .cap m => m.wf
  | .stn w => decide (w.pid < 64)

def ASrc.wf : ASrc → Bool
  | .cap m => m.wf
  | .stn w => decide (w.pid < 64)
  | .home _ => true

/-- The command names only units and numbers that exist. -/
def Instr.wf : Instr → Bool
  | .powerGood _ => true
  | .restoreComplete => true
  | .selftestComplete _ => true
  | .trainingExit => true
  | .inputLoss => true
  | .presentLoopOpen => true
  | .inputOvervoltage => true
  | .inputOvercurrent => true
  | .fuseRelease => true
  | .reversedPolarity => true
  | .inputRestart => true
  | .fatalFault _ _ => true
  | .drain o => o.wf
  | .restart o => o.wf
  | .recover o => o.wf
  | .powerOff o => o.wf
  | .maintain o => o.wf
  | .homesMoved o _ => o.wf
  | .moduleDrained => true
  | .faultDeclare o _ => o.wf
  | .powerCapWrite o _ => o.wf
  | .capStage2 _ => true
  | .capStage3 _ => true
  | .capRelease _ => true
  | .emergencyThrottle _ _ => true
  | .emergencyThrottleEnd => true
  | .thermalShutdown _ => true
  | .ld r => r.wf
  | .st r => r.wf
  | .bld m => m.wf
  | .bst m => m.wf
  | .atomicAdd r => r.wf
  | .atomicMin r => r.wf
  | .atomicMax r => r.wf
  | .atomicAnd r => r.wf
  | .atomicOr r => r.wf
  | .atomicXor r => r.wf
  | .atomicSwap r => r.wf
  | .atomicCas r => r.wf
  | .casOwn r => r.wf
  | .trd m => m.wf
  | .twr m => m.wf
  | .twd m => m.wf
  | .fenceAcquire r => r.wf
  | .fenceRelease r => r.wf
  | .fenceAcqRel r => r.wf
  | .fenceComplete _ => true
  | .inval r => r.wf
  | .invalComplete _ => true
  | .hintHot m => m.wf
  | .hintWarm m => m.wf
  | .hintCold m => m.wf
  | .hintEvict m => m.wf
  | .hintPin m => m.wf
  | .doorbell m => m.wf
  | .ctrwait m => m.wf
  | .ctrwaitTimeout ep ctx _ => decide (ep < 4) && decide (ctx < 1024)
  | .ctrset m => m.wf
  | .sput m => m.wf
  | .scred m => m.wf
  | .mbxq m pid _ => m.wf && decide (pid < 64)
  | .xrsp m => m.wf
  | .exportTimeout _ => true
  | .requestIssue _ _ => true
  | .walkerFree ep => decide (ep < 4)
  | .rtcWalkComplete ep pid _ _ => decide (ep < 4) && decide (pid < 64)
  | .faultResolveRetry o _ _ => o.wf
  | .faultResolveFail o _ _ => o.wf
  | .rtcInval o _ => o.wf
  | .rtcInvalComplete _ => true
  | .faultRingReset o _ _ _ => o.wf
  | .faultRingTail o _ _ => o.wf
  | .cxlMemRequest cp _ _ _ _ => decide (cp < 4)
  | .atsInvalidation cp _ _ => decide (cp < 4)
  | .homeLoad _ _ => true
  | .homeStore _ => true
  | .homeHintCommand _ => true
  | .ownerTableRead _ => true
  | .ownerReadResponse _ _ _ => true
  | .ownerUpdate src _ _ _ _ => decide (src < 17)
  | .mirrorWrite _ => true
  | .mirrorAck _ _ => true
  | .mirrorRetryRequest _ => true
  | .mirrorRetryHoldExpiry _ => true
  | .hostCoherentRequest _ => true
  | .directoryRecall src cp _ _ => decide (src < 17) && decide (cp < 4)
  | .recallResponse _ _ _ => true
  | .recallTimeout _ => true
  | .hostLost _ mid cp => decide (mid < 17) && decide (cp < 4)
  | .hostLossSweepEnd mid cp => decide (mid < 17) && decide (cp < 4)
  | .tierFrameMoveComplete _ _ => true
  | .atomicBufferFetchComplete _ _ _ => true
  | .responseArrival _ => true
  | .frameHeaderArrival ingress f _ => decide (ingress < 33) && decide (f.kind < 5) && decide (f.tc < 8)
  | .frameTailArrival _ _ _ _ => true
  | .frameDelivery _ => true
  | .egressArbitration egress _ => decide (egress < 44)
  | .tbufCacheRefill => true
  | .framePark _ => true
  | .frameUnpark _ => true
  | .mirrorSessionMode o _ _ => o.wf
  | .analysisPort o _ => o.wf
  | .ackArrival src _ => decide (src < 17)
  | .heldRequestAck _ => true
  | .ackedRequestQuery dst _ => decide (dst < 17)
  | .resendTimerExpiry dst _ => decide (dst < 17)
  | .keepaliveSend => true
  | .keepaliveTimeout port => decide (port < 16)
  | .lossOfLight port => decide (port < 16)
  | .linkStateNotice _ => true
  | .peerLossTimeout mid => decide (mid < 17)
  | .closingNotice src pid => decide (src < 17) && decide (pid < 64)
  | .abortNotice src pid _ _ _ _ => decide (src < 17) && decide (pid < 64)
  | .creditReturn src pid _ _ _ _ => decide (src < 17) && decide (pid < 64)
  | .routeDrain o _ => o.wf
  | .routeDrained => true
  | .routeDrainTimeout => true
  | .routeSwap o _ => o.wf
  | .routeSwitch => true
  | .routeSwapTimeout => true
  | .routeDefault o _ => o.wf
  | .portTrainingStart p => p.wf
  | .trainFailRetry p => p.wf
  | .identityRecord port _ => decide (port < 16)
  | .capLinkParameters port _ => decide (port < 16)
  | .portLinkUp p => p.wf
  | .linkKeyAgreement port _ _ _ _ _ => decide (port < 16)
  | .portSecretRenewal port => decide (port < 16)
  | .linkKeyGraceExpiry port => decide (port < 16)
  | .lightReturn port => decide (port < 16)
  | .fpAdmin o port _ => o.wf && decide (port < 16)
  | .laneRemap p _ _ => p.wf
  | .laneGroupDisable p _ => p.wf
  | .idleEntry p => p.wf
  | .idleExit p => p.wf
  | .txTaps o p _ _ => o.wf && p.wf
  | .prbsCtrl o p _ => o.wf && p.wf
  | .inject o p _ => o.wf && p.wf
  | .qualNow o _ => o.wf
  | .qualificationEnd _ => true
  | .dailyQualification => true
  | .qualLaneTestEnd p _ => p.wf
  | .cpLinkDown cp => decide (cp < 4)
  | .cpLinkUp p _ _ _ => decide (p.cp < 4) && decide (p.mid < 17)
  | .expEnable o _ _ => o.wf
  | .flitReceived port _ => decide (port < 16)
  | .flitReplay port _ => decide (port < 16)
  | .attachLinkDown port => decide (port < 16)
  | .ctxBind o _ => o.wf
  | .ctxUnbind o _ _ => o.wf
  | .ctxUnbindComplete ep ctx => decide (ep < 4) && decide (ctx < 1024)
  | .queueSetup o _ => o.wf
  | .queueReset o _ _ => o.wf
  | .queueTail o _ _ _ => o.wf
  | .copyDescriptorStart ep _ _ _ => decide (ep < 4)
  | .copyDescriptorComplete ep _ _ => decide (ep < 4)
  | .counterAdvance ep _ pid => decide (ep < 4) && decide (pid < 64)
  | .ctrBind o _ _ _ => o.wf
  | .mbxDoorbell cp pid _ => decide (cp < 4) && decide (pid < 64)
  | .dictRead o _ _ => o.wf
  | .dictWrite o _ _ _ _ => o.wf
  | .sessionSetup o _ => o.wf
  | .flowLoad o _ _ _ => o.wf
  | .flowLoadComplete pid _ _ => decide (pid < 64)
  | .flowLaunch o _ _ _ => o.wf
  | .flowStart pid _ => decide (pid < 64)
  | .flowAbort o _ _ => o.wf
  | .flowUnload o _ _ => o.wf
  | .flowDone pid _ => decide (pid < 64)
  | .streamTileArrival pid _ _ _ _ src => decide (pid < 64) && decide (src < 17)
  | .spillReadback pid _ _ _ => decide (pid < 64)
  | .spanIssue w => decide (w.pid < 64)
  | .watchdogExpiry w _ => decide (w.pid < 64)
  | .residueMismatch w => decide (w.pid < 64)
  | .coreRetirementComplete sd cluster core => decide (sd < 4) && decide (cluster < 5) && decide (core < 9)
  | .clusterRetirementComplete sd cluster => decide (sd < 4) && decide (cluster < 5)
  | .engineRetirementComplete sd cluster core => decide (sd < 4) && decide (cluster < 5) && decide (core < 9)
  | .memoryInstructionComplete w => decide (w.pid < 64)
  | .nop w => decide (w.pid < 64)
  | .li w => decide (w.pid < 64)
  | .salu w => decide (w.pid < 64)
  | .br w => decide (w.pid < 64)
  | .ldp w => decide (w.pid < 64)
  | .stp w => decide (w.pid < 64)
  | .halt w => decide (w.pid < 64)
  | .flg w => decide (w.pid < 64)
  | .rdtime w => decide (w.pid < 64)
  | .waitt w => decide (w.pid < 64)
  | .waittExpiry w => decide (w.pid < 64)
  | .pmask w => decide (w.pid < 64)
  | .get w => decide (w.pid < 64)
  | .put w => decide (w.pid < 64)
  | .pend w => decide (w.pid < 64)
  | .rel w => decide (w.pid < 64)
  | .tnew w => decide (w.pid < 64)
  | .tview w => decide (w.pid < 64)
  | .tset w => decide (w.pid < 64)
  | .tinfo w => decide (w.pid < 64)
  | .tfill w => decide (w.pid < 64)
  | .tcopy w => decide (w.pid < 64)
  | .tld w => decide (w.pid < 64)
  | .tst w => decide (w.pid < 64)
  | .tgath w => decide (w.pid < 64)
  | .seqrd w => decide (w.pid < 64)
  | .add w => decide (w.pid < 64)
  | .sub w => decide (w.pid < 64)
  | .mul w => decide (w.pid < 64)
  | .mac w => decide (w.pid < 64)
  | .min w => decide (w.pid < 64)
  | .max w => decide (w.pid < 64)
  | .unary w => decide (w.pid < 64)
  | .logic w => decide (w.pid < 64)
  | .shift w => decide (w.pid < 64)
  | .scale w => decide (w.pid < 64)
  | .rsum w => decide (w.pid < 64)
  | .mma w => decide (w.pid < 64)
  | .cvt w => decide (w.pid < 64)
  | .qsq w => decide (w.pid < 64)
  | .dqsq w => decide (w.pid < 64)
  | .align w => decide (w.pid < 64)
  | .expsc w => decide (w.pid < 64)
  | .zelide w => decide (w.pid < 64)
  | .zexpand w => decide (w.pid < 64)
  | .rsel w => decide (w.pid < 64)
  | .rscat w => decide (w.pid < 64)
  | .sha w => decide (w.pid < 64)
  | .dcmp w => decide (w.pid < 64)
  | .referenceLost _ => true
  | .referenceQualified _ => true
  | .referenceRevert => true
  | .timestampExchange _ => true
  | .rootHandover r => decide (r.mid < 17)
  | .rtSet o _ => o.wf
  | .sluiceLoad o _ _ _ => o.wf
  | .sluiceRemove o _ _ => o.wf
  | .sluiceCommit o _ _ => o.wf
  | .sluiceBankSwitch pid => decide (pid < 64)
  | .gateWake _ => true
  | .gateOpen _ => true
  | .gateClose _ => true
  | .partCreate o _ => o.wf
  | .partClose o _ => o.wf
  | .teardownDrainEnd pid => decide (pid < 64)
  | .ownGrant o _ _ _ => o.wf
  | .ownRelease o _ _ => o.wf
  | .zeroFillGranuleDone dev => decide (dev < 5)
  | .coreZeroingComplete sd cluster core => decide (sd < 4) && decide (cluster < 5) && decide (core < 9)
  | .keyAgree o _ _ _ _ _ => o.wf
  | .attest o _ _ => o.wf
  | .regionRegister o _ _ _ => o.wf
  | .regionRegisterComplete pid => decide (pid < 64)
  | .sessionOpen _ => true
  | .sessionClose _ => true
  | .sessionIdleTimeout _ => true
  | .read _ => true
  | .write _ => true
  | .mdpInterimResponse _ _ => true
  | .mgrKeyHash o _ => o.wf
  | .retainedCommit => true
  | .counterControlWrite o _ _ _ => o.wf
  | .counterWrite o _ _ _ => o.wf
  | .ovf o _ _ => o.wf
  | .counterOverflow bank _ _ => decide (bank < 24)
  | .snapAt o _ => o.wf
  | .snapshotTaken => true
  | .sampleRingBase o _ => o.wf
  | .stationDieFault sd => decide (sd < 4)
  | .epDieFault ep => decide (ep < 4)
  | .oeDieFault oe => decide (oe < 8)
  | .managementLinkDown _ => true
  | .shadowPartner o _ => o.wf
  | .shadowFeedTile pid _ _ _ _ => decide (pid < 64)
  | .shadowDigest _ _ => true
  | .shadowPass => true
  | .trainingPhaseFail p => p.wf
  | .managementLinkUp _ => true
  | .sluiceLoadComplete pid _ _ => decide (pid < 64)
  | .hashUnitDone sd cluster core => decide (sd < 4) && decide (cluster < 5) && decide (core < 9)
  | .cxlMemEnable cp _ => decide (cp < 4)

end Sys2Proof
end

