-- ==== Sys2Proof/Safety.lean ====
section
/-! DEFINITION. What a safe state of the block is, in the terms the statements use: the invariants that every
step keeps, the relation of one step, and what it means for a state to have nothing left to settle. -/

namespace Sys2Proof.Machine

open Sys2Proof

/-- One step leads from `s` to `t`. -/
def State.steps (s t : State) : Prop := step s = .next t

/-- The memory is in its canonical form. -/
def State.memOk (s : State) : Prop := Memory.wf s.mem = true

/-- The module has its 16 fabric ports, 16 attach ports, 4 CXL ports and a pair for each of 17 MIDs, each under its
own number (R17, R18, R256). -/
def State.unitsOk (s : State) : Prop :=
  s.lnk.fp.map FPort.n = List.range 16 ∧ s.lnk.ap.map APort.n = List.range 16 ∧ s.lnk.cp.map CPort.n = List.range 4 ∧
    s.dlv.peers.map Peer.mid = List.range 17

/-- A management command that comes now from `o` for the entry `k` passes the sender and access checks of R350. -/
def State.allows (s : State) (o : Origin) (k opPid : Nat) : Bool := s.managed && (s.writeGate o k opPid).isNone

/-- A mailbox command that is no dictionary write is accepted from `o` (R317). -/
def State.mailOk (s : State) (o : Origin) (pid : Nat) (onlyZero : Bool) : Bool :=
  s.managed && !s.limited o && (s.senderPid o).any fun p => p = 0 || (!onlyZero && p = pid)

/-- Nothing waits to follow from what has already happened: no completion record of a flow is due, no copy runs, no message
waits in a port buffer, no shadow comparison has failed. -/
def State.settled (s : State) : Bool :=
  (s.stn.flows.all fun f => f.recDone || !(f.fst = .done || f.fst = .aborted)) && (s.ep.queues.all fun q => q.runs.isEmpty) &&
    s.ep.buffered.isEmpty && !(s.life.mstate = .shadow && s.rd K.shadowResult = 3)

/-- The instance `i` of station `who` stands before an instruction with opcode `op` that may run now (R139, R154): it is the selected
one of its core, or the next in the round of one that cannot bind. -/
def State.canRun (s : State) (who : InstRef) (op : Nat) (i : Inst) : Prop :=
  s.instGet who = some i ∧ (s.inService || s.life.mstate = .shadow) = true ∧ s.running who.pid who.flow = true ∧ i.wait = .none ∧
    i.complete = false ∧ s.coreReady i = true ∧ iOP i.word = op ∧ (i.halted = false ∨ op = 6) ∧ s.mayRun i = true

/-- The state after an instruction whose instance is `j` afterwards and goes on at `pc`: its slots are counted, the instance
and its core's selection take their new values, and what follows from it happens. -/
def State.ran (s : State) (i j : Inst) (pc : Nat) : State := ((s.countRun i j).commitInst j pc).settleAll

/-- The state after an instruction that stays at its PC. -/
def State.stayed (s : State) (j : Inst) : State := (s.commitInst j j.pc).settleAll

/-- A CAP request of type `mt` comes from context `c` to a port that takes it, within its credits and with room in the
context's queue, and passes every check of R299 and R300. -/
def State.capAccepts (s : State) (mt : Nat) (m : CapMsg) (c : Ctx) : Prop :=
  (m.wf && s.capOn m.port && decide (capUnits m ≤ capLimit mt) &&
    decide (s.capUsed (s.bondOf m.port) 0 + capUnits m + 1 ≤ (s.aport (s.bondOf m.port)).granted.getD 0 0) &&
    !s.capBlocked (s.bondOf m.port) && !s.ctxFull m.ep m.ctx && (s.tagOpen m.ep m.ctx m.tag).isNone && s.inService) = true ∧
  s.ctxOf m.ep m.ctx = some c ∧
  (decide (c.port = s.bondOf m.port) && c.unbind.isNone && decide (c.cstate = .bound) && decide (c.pid < 64) &&
    decide (s.pstate c.pid = 1) && decide ((s.ctxOpen m.ep m.ctx).length < 4096) && (!carriesOrd mt || ordOk mt m.ord m.scope) &&
    !subBad mt m && (!hasFva mt || decide (m.addr < 2 ^ 57))) = true

/-- The state in which an accepted request is performed: the EP bank has counted it. -/
def State.capSeen (s : State) (m : CapMsg) (c : Ctx) : State := s.epEv m.ep 0x201 c.pid 1

/-- The home serves the request `h` at `pos` now and performs it at once: it refuses nothing, and the request names HBM in a
range that is NORMAL or FLAG. -/
def State.servesHere (s : State) (pos : Nat) (want : Frame → Bool) (h : HReq) : Prop :=
  s.atHome pos want = some h ∧ (s.takeIn pos).homeRefuses h.f = none ∧ regionOf (reqBase h.f) = .hbm ∧ h.f.mtype ≤ mtFlag

/-- The core's hash unit absorbs nothing of what the instruction of `i` writes, which leaves the instance as `j` (R178). -/
def State.clear (s : State) (i j : Inst) : Prop := s.absorbing i (i.wrote j i.word) = false

/-- The result rows `rs` go into the handle HD of the instruction (R157, R163), which no hash unit absorbs: afterwards the instance is
`j`. -/
def State.takes (s : State) (i : Inst) (fmt rbytes : Nat) (rs : RowsOut) (poi : Bool) (j : Inst) : Prop :=
  (∃ k, i.writeTile (iHD i.word) fmt rbytes (i.maskRows i.word (rs.map Prod.fst)) poi (i.hget (iHD i.word)).tag = some k ∧
    j = k.flag (i.rowFlags i.word rs ||| if poi then fPOI else 0)) ∧ s.clear i j

/-- A row by row operation of the tiles `a` and `b` gives HD its rows, as for `takes`. -/
def State.takesPair (s : State) (i : Inst) (a b : Handle) (row : Row → Row → Row × Nat) (j : Inst) : Prop :=
  s.takes i (iFD i.word) (bytesFor (iFD i.word) a.elems) (((s.rowsOf i a).zip (s.rowsOf i b)).map fun r => row r.1 r.2)
    (a.poison || b.poison) j

/-- A row by row operation of the tile `a` gives HD its rows, as for `takes`. -/
def State.takesOne (s : State) (i : Inst) (a : Handle) (row : Row → Row × Nat) (j : Inst) : Prop :=
  s.takes i (iFD i.word) (bytesFor (iFD i.word) a.elems) ((s.rowsOf i a).map row) a.poison j

/-- The home performs the atomic `h` of a NORMAL or FLAG range at once: operation `sub`, not CAS.OWN, on a word without poison. -/
def State.servesAtomic (s : State) (pos sub : Nat) (h : HReq) : Prop :=
  s.servesHere pos (fun f => isAtomic f && !hostCoh f && atomSub f = sub && (f.op = 0x48) = false) h ∧
    (s.takeIn pos).spanPoisoned (fpaLocal h.f.fpa) (atomBytes h.f) = false

/-- The state after the home has performed the atomic `h` and answered with the old value. -/
def State.atomicServed (s : State) (pos : Nat) (h : HReq) : State :=
  (((s.takeIn pos).performAtomic h.f).homeAnswer h Status.ok ((s.takeIn pos).loadIndicator h)
    (leBytes (atomBytes h.f) (s.atomOld h.f))).settleAll

/-- A context's atomic with operation `sub` is accepted and aligned. -/
def State.capAtomic (s : State) (m : CapMsg) (c : Ctx) (sub : Nat) : Prop :=
  s.capAccepts (if m.wide then mtAT64 else mtAT32) { m with sub := sub, own := false } c ∧ m.addr % (if m.wide then 8 else 4) = 0

/-- The state after a context's atomic with operation `sub` has opened its transaction. -/
def State.capAtomicOpened (s : State) (m : CapMsg) (c : Ctx) (sub : Nat) : State :=
  ((s.capSeen m c).openAccess { capTx c m with sub := sub, own := false, acc := .atomic, len := if m.wide then 8 else 4 }).settleAll

/-- The state after a context's HINT of kind `sub` has opened its transaction. -/
def State.capHintOpened (s : State) (m : CapMsg) (c : Ctx) (sub : Nat) : State :=
  ((s.capSeen m c).openAccess { capTx c m with sub := sub, acc := .hint, len := m.arg * 4096, ord := 0, scope := 0 }).settleAll

/-- The state after a context's fence with ordering `ord` has opened. -/
def State.capFenceOpened (s : State) (m : CapMsg) (c : Ctx) (ord : Nat) : State :=
  ((s.capSeen m c).openFence { capTx c m with ord := ord }).1.settleAll

/-- A station's ATOM with operation `sub`, not CAS.OWN, stands at an aligned address in the address space. -/
def State.stnAtomic (s : State) (who : InstRef) (i : Inst) (sub : Nat) : Prop :=
  s.canRun who 0x25 i ∧ iSUB i.word = sub ∧ iOWN i.word = false ∧ i.addr i.word < 2 ^ 57 ∧
    i.addr i.word % (if iFD i.word = 6 then 8 else 4) = 0

/-- The state after a station's ATOM with operation `sub` has opened its transaction, on which the instance waits. -/
def State.stnAtomicOpened (s : State) (i : Inst) (sub : Nat) : State :=
  let r := s.openTx { stnTx i i.word with
    acc := .atomic, sub := sub, wide := decide (iFD i.word = 6), len := if iFD i.word = 6 then 8 else 4, addr := i.addr i.word
    operand := i.xr (iXB i.word), compare := i.xr (iXD i.word), own := false }
  (r.1.translate r.2 none).stayed { i with wait := .mem r.2 }

/-- The state after a station's FENCE has opened, on which the instance waits. -/
def State.stnFenceOpened (s : State) (i : Inst) : State :=
  (s.openFence (stnTx i i.word)).1.stayed { i with wait := .mem (s.openFence (stnTx i i.word)).2 }

/-- The operands HA and HB of the instruction are tiles of format FA and of one shape. -/
def Inst.pair (i : Inst) (a b : Handle) : Prop :=
  a = i.hget (iHA i.word) ∧ b = i.hget (iHB i.word) ∧ a.isOf (iFA i.word) = true ∧ b.isOf (iFA i.word) = true ∧ a.rows = b.rows ∧
    a.rbytes = b.rbytes

/-- The operand HA of the instruction is a tile of format FA. -/
def Inst.one (i : Inst) (a : Handle) : Prop := a = i.hget (iHA i.word) ∧ a.isOf (iFA i.word) = true

/-- The sections of the state that a frame speaks of: the fields of `State`, with the banks of the non-volatile store
(`nv`) apart from the writes that wait for their commit (`nvq`). The waiting commands and the model's own counters are no
section. -/
inductive Sect where
  | out | life | power | od | nv | nvq | mem | poison | written | own | fills | xl | req | home | ep | stn | sw | dlv | lnk
  | tim | slu | sec | mgt | shd
  deriving DecidableEq, Repr

/-- What an access that completes may reach through what follows it (stations, flows, the shadow): all but the input power,
the non-volatile store, the ownership map and its zero-fill. -/
abbrev Sect.wide : List Sect := [.out, .life, .od, .mem, .poison, .written, .xl, .req, .home, .ep, .stn, .sw, .dlv, .lnk, .tim,
  .slu, .sec, .mgt, .shd]

/-- The same for a management command, whose retained write may wait for its commit. -/
abbrev Sect.wideQ : List Sect := [.out, .life, .od, .nvq, .mem, .poison, .written, .xl, .req, .home, .ep, .stn, .sw, .dlv, .lnk,
  .tim, .slu, .sec, .mgt, .shd]

/-- Every section. -/
abbrev Sect.all : List Sect := [.out, .life, .power, .od, .nv, .nvq, .mem, .poison, .written, .own, .fills, .xl, .req, .home, .ep,
  .stn, .sw, .dlv, .lnk, .tim, .slu, .sec, .mgt, .shd]

/-- What a request served at the home may change. -/
abbrev Sect.served : List Sect := [.out, .od, .mem, .poison, .written, .home, .sw, .dlv, .mgt]

/-- What the answer of a management command may change. -/
abbrev Sect.told : List Sect := [.out, .nvq, .ep, .mgt]

/-- The same for a command that sets dictionary entries. -/
abbrev Sect.toldOd : List Sect := [.out, .od, .nvq, .ep, .mgt]

/-- Two states agree on a section. -/
def State.agree (s t : State) : Sect → Prop
  | .out => t.out = s.out
  | .life => t.life = s.life
  | .power => t.power = s.power
  | .od => t.od = s.od
  | .nv => t.nv.a = s.nv.a ∧ t.nv.b = s.nv.b
  | .nvq => t.nv.dirty = s.nv.dirty ∧ t.nv.waiting = s.nv.waiting ∧ t.nv.since = s.nv.since
  | .mem => t.mem = s.mem
  | .poison => t.poison = s.poison
  | .written => t.written = s.written
  | .own => t.own = s.own
  | .fills => t.fills = s.fills
  | .xl => t.xl = s.xl
  | .req => t.req = s.req
  | .home => t.home = s.home
  | .ep => t.ep = s.ep
  | .stn => t.stn = s.stn
  | .sw => t.sw = s.sw
  | .dlv => t.dlv = s.dlv
  | .lnk => t.lnk = s.lnk
  | .tim => t.tim = s.tim
  | .slu => t.slu = s.slu
  | .sec => t.sec = s.sec
  | .mgt => t.mgt = s.mgt
  | .shd => t.shd = s.shd

/-- The states agree on every section that is not listed. -/
def State.sameBut (l : List Sect) (s t : State) : Prop := ∀ x, x ∉ l → s.agree t x

/-- What no command and no tick may change or break: the waiting commands, the order code that was manufactured into
the part (R2), the canonical form of the memory, the units. -/
def State.Keeps (s t : State) : Prop :=
  t.pending = s.pending ∧ t.life.order768 = s.life.order768 ∧ (s.memOk → t.memOk) ∧ (s.unitsOk → t.unitsOk)

/-- The sections that a command may change: the frame of every command. -/
def mayChange (c : Instr) : List Sect :=
  match c with
  | .powerGood _ => [.out, .life, .power, .od, .nvq, .mem, .poison, .written, .own, .fills, .xl, .req, .home, .ep, .stn, .sw, .dlv, .lnk, .tim, .slu, .sec, .mgt, .shd]
  | .restoreComplete => [.out, .life, .power, .od, .nv, .nvq, .own, .fills, .lnk, .sec, .mgt]
  | .selftestComplete _ => Sect.wide
  | .trainingExit => Sect.wideQ
  | .inputLoss => [.life, .power, .od, .nv, .nvq, .mem, .poison, .written, .own, .fills, .xl, .req, .home, .ep, .stn, .sw, .dlv, .lnk, .tim, .slu, .sec, .mgt, .shd]
  | .presentLoopOpen => [.life, .power, .od, .nv, .nvq, .mem, .poison, .written, .own, .fills, .xl, .req, .home, .ep, .stn, .sw, .dlv, .lnk, .tim, .slu, .sec, .mgt, .shd]
  | .inputOvervoltage => [.life, .power, .od, .nv, .nvq, .mem, .poison, .written, .own, .fills, .xl, .req, .home, .ep, .stn, .sw, .dlv, .lnk, .tim, .slu, .sec, .mgt, .shd]
  | .inputOvercurrent => [.life, .power, .od, .nv, .nvq, .mem, .poison, .written, .own, .fills, .xl, .req, .home, .ep, .stn, .sw, .dlv, .lnk, .tim, .slu, .sec, .mgt, .shd]
  | .fuseRelease => [.power]
  | .reversedPolarity => [.power]
  | .inputRestart => [.power]
  | .fatalFault _ _ => Sect.wide
  | .drain _ => Sect.wideQ
  | .restart _ => Sect.wideQ
  | .recover _ => [.out, .life, .nvq, .ep, .lnk, .mgt]
  | .powerOff _ => Sect.all
  | .maintain _ => Sect.all
  | .homesMoved _ _ => [.out, .life, .od, .nvq, .ep, .mgt]
  | .moduleDrained => Sect.all
  | .faultDeclare _ _ => Sect.wideQ
  | .powerCapWrite _ _ => [.out, .power, .od, .nvq, .ep, .lnk, .mgt]
  | .capStage2 _ => [.out, .power, .od, .lnk, .mgt]
  | .capStage3 _ => [.out, .power, .od, .lnk]
  | .capRelease _ => [.out, .life, .power, .od, .mem, .poison, .written, .xl, .req, .home, .ep, .stn, .sw, .dlv, .lnk, .tim, .slu, .sec, .mgt, .shd]
  | .emergencyThrottle _ _ => [.power, .od]
  | .emergencyThrottleEnd => Sect.wide
  | .thermalShutdown _ => [.life, .power, .od, .nv, .nvq, .mem, .poison, .written, .own, .fills, .xl, .req, .home, .ep, .stn, .sw, .dlv, .lnk, .tim, .slu, .sec, .mgt, .shd]
  | .ld _ => Sect.wide
  | .st _ => Sect.wide
  | .bld _ => Sect.wide
  | .bst _ => Sect.wide
  | .atomicAdd _ => Sect.wide
  | .atomicMin _ => Sect.wide
  | .atomicMax _ => Sect.wide
  | .atomicAnd _ => Sect.wide
  | .atomicOr _ => Sect.wide
  | .atomicXor _ => Sect.wide
  | .atomicSwap _ => Sect.wide
  | .atomicCas _ => Sect.wide
  | .casOwn _ => Sect.wide
  | .trd _ => Sect.wide
  | .twr _ => Sect.wide
  | .twd _ => Sect.wide
  | .fenceAcquire _ => Sect.wide
  | .fenceRelease _ => Sect.wide
  | .fenceAcqRel _ => Sect.wide
  | .fenceComplete _ => Sect.wide
  | .inval _ => Sect.wide
  | .invalComplete _ => Sect.wide
  | .hintHot _ => Sect.wide
  | .hintWarm _ => Sect.wide
  | .hintCold _ => Sect.wide
  | .hintEvict _ => Sect.wide
  | .hintPin _ => Sect.wide
  | .doorbell _ => Sect.wide
  | .ctrwait _ => Sect.wide
  | .ctrwaitTimeout _ _ _ => Sect.wide
  | .ctrset _ => Sect.wide
  | .sput _ => Sect.wide
  | .scred _ => Sect.wide
  | .mbxq _ _ _ => Sect.all
  | .xrsp _ => Sect.wide
  | .exportTimeout _ => Sect.wide
  | .requestIssue _ _ => Sect.wide
  | .walkerFree _ => Sect.wide
  | .rtcWalkComplete _ _ _ _ => Sect.wide
  | .faultResolveRetry _ _ _ => Sect.wideQ
  | .faultResolveFail _ _ _ => Sect.wideQ
  | .rtcInval _ _ => [.out, .od, .nvq, .xl, .ep, .mgt]
  | .rtcInvalComplete _ => [.out, .xl, .ep, .mgt]
  | .faultRingReset _ _ _ _ => [.out, .od, .nvq, .xl, .ep, .mgt]
  | .faultRingTail _ _ _ => [.out, .od, .nvq, .xl, .ep, .mgt]
  | .cxlMemRequest _ _ _ _ _ => Sect.wide
  | .atsInvalidation _ _ _ => [.out, .req]
  | .homeLoad _ _ => [.out, .od, .poison, .home, .sw, .dlv, .lnk, .sec, .mgt]
  | .homeStore _ => [.out, .od, .mem, .poison, .written, .home, .sw, .dlv, .lnk, .sec, .mgt]
  | .homeHintCommand _ => [.out, .od, .home, .sw, .dlv, .lnk, .sec, .mgt]
  | .ownerTableRead _ => [.out, .od, .home, .sw, .dlv, .lnk, .mgt]
  | .ownerReadResponse _ _ _ => [.out, .od, .mem, .poison, .written, .home, .sw, .dlv, .lnk, .mgt]
  | .ownerUpdate _ _ _ _ _ => [.out, .od, .home, .sw, .dlv, .mgt]
  | .mirrorWrite _ => [.out, .od, .mem, .poison, .written, .home, .sw, .dlv, .lnk, .sec, .mgt]
  | .mirrorAck _ _ => Sect.wide
  | .mirrorRetryRequest _ => [.out, .od, .mem, .poison, .written, .home, .sw, .dlv, .lnk, .sec, .mgt]
  | .mirrorRetryHoldExpiry _ => [.out, .od, .home, .sw, .dlv, .lnk, .mgt]
  | .hostCoherentRequest _ => [.out, .od, .mem, .poison, .written, .home, .sw, .dlv, .lnk, .sec, .mgt]
  | .directoryRecall _ _ _ _ => [.out, .home]
  | .recallResponse _ _ _ => [.out, .od, .mem, .poison, .written, .home, .sw, .dlv, .lnk, .mgt]
  | .recallTimeout _ => [.out, .od, .home, .sw, .dlv, .lnk, .mgt]
  | .hostLost _ _ _ => [.out, .nvq, .poison, .home, .ep, .mgt]
  | .hostLossSweepEnd _ _ => [.out, .od, .poison, .home, .mgt]
  | .tierFrameMoveComplete _ _ => Sect.wide
  | .atomicBufferFetchComplete _ _ _ => Sect.wide
  | .responseArrival _ => Sect.wide
  | .frameHeaderArrival _ _ _ => [.out, .life, .od, .mem, .poison, .written, .xl, .req, .home, .ep, .stn, .sw, .dlv, .lnk, .tim, .slu, .mgt, .shd]
  | .frameTailArrival _ _ _ _ => Sect.wide
  | .frameDelivery _ => Sect.wide
  | .egressArbitration _ _ => [.out, .life, .od, .mem, .poison, .written, .xl, .req, .home, .ep, .stn, .sw, .dlv, .lnk, .tim, .slu, .mgt, .shd]
  | .tbufCacheRefill => Sect.wide
  | .framePark _ => [.out, .life, .od, .mem, .poison, .written, .xl, .req, .home, .ep, .stn, .sw, .dlv, .lnk, .tim, .slu, .mgt, .shd]
  | .frameUnpark _ => [.out, .life, .od, .mem, .poison, .written, .xl, .req, .home, .ep, .stn, .sw, .dlv, .lnk, .tim, .slu, .mgt, .shd]
  | .mirrorSessionMode _ _ _ => [.out, .od, .nvq, .ep, .sw, .mgt]
  | .analysisPort _ _ => [.out, .od, .nvq, .ep, .lnk, .mgt]
  | .ackArrival _ _ => Sect.wide
  | .heldRequestAck _ => [.out, .od, .home, .sw, .dlv, .lnk, .mgt]
  | .ackedRequestQuery _ _ => [.out, .od, .home, .sw, .dlv, .lnk, .mgt]
  | .resendTimerExpiry _ _ => Sect.wide
  | .keepaliveSend => [.out, .lnk]
  | .keepaliveTimeout _ => Sect.wide
  | .lossOfLight _ => Sect.wide
  | .linkStateNotice _ => Sect.wide
  | .peerLossTimeout _ => Sect.wide
  | .closingNotice _ _ => Sect.wide
  | .abortNotice _ _ _ _ _ _ => Sect.wide
  | .creditReturn _ _ _ _ _ _ => [.out, .stn, .lnk]
  | .routeDrain _ _ => [.out, .od, .nvq, .ep, .dlv, .mgt]
  | .routeDrained => [.out, .od, .ep, .dlv, .mgt]
  | .routeDrainTimeout => [.out, .od, .ep, .sw, .dlv, .mgt]
  | .routeSwap _ _ => [.out, .nvq, .ep, .dlv, .mgt]
  | .routeSwitch => Sect.wideQ
  | .routeSwapTimeout => [.out, .od, .sw, .dlv, .mgt]
  | .routeDefault _ _ => Sect.toldOd
  | .portTrainingStart _ => [.out, .od, .lnk]
  | .trainFailRetry _ => [.out, .od, .lnk]
  | .identityRecord _ _ => [.out, .od, .mem, .poison, .written, .xl, .req, .home, .ep, .stn, .sw, .dlv, .lnk, .tim, .slu, .mgt, .shd]
  | .capLinkParameters _ _ => [.od, .lnk]
  | .portLinkUp _ => Sect.wide
  | .linkKeyAgreement _ _ _ _ _ _ => Sect.wide
  | .portSecretRenewal _ => [.out, .lnk]
  | .linkKeyGraceExpiry _ => [.lnk]
  | .lightReturn _ => [.out, .od, .lnk]
  | .fpAdmin _ _ _ => Sect.wideQ
  | .laneRemap _ _ _ => [.out, .od, .lnk]
  | .laneGroupDisable _ _ => Sect.wide
  | .idleEntry _ => [.out, .lnk]
  | .idleExit _ => [.out, .lnk]
  | .txTaps _ _ _ _ => Sect.toldOd
  | .prbsCtrl _ _ _ => Sect.toldOd
  | .inject _ _ _ => Sect.toldOd
  | .qualNow _ _ => Sect.wideQ
  | .qualificationEnd _ => [.out, .od, .lnk]
  | .dailyQualification => [.od, .lnk]
  | .qualLaneTestEnd _ _ => [.out, .od, .lnk]
  | .cpLinkDown _ => Sect.wide
  | .cpLinkUp _ _ _ _ => [.out, .life, .od, .mem, .poison, .written, .fills, .xl, .req, .home, .ep, .stn, .sw, .dlv, .lnk, .tim, .slu, .sec, .mgt, .shd]
  | .expEnable _ _ _ => [.out, .od, .nvq, .ep, .lnk, .mgt]
  | .flitReceived _ _ => Sect.wide
  | .flitReplay _ _ => Sect.wide
  | .attachLinkDown _ => Sect.wide
  | .ctxBind _ _ => [.out, .od, .nvq, .req, .ep, .lnk, .mgt]
  | .ctxUnbind _ _ _ => Sect.told
  | .ctxUnbindComplete _ _ => [.out, .od, .req, .ep, .lnk, .mgt]
  | .queueSetup _ _ => [.out, .nvq, .req, .ep, .mgt]
  | .queueReset _ _ _ => Sect.wideQ
  | .queueTail _ _ _ _ => Sect.told
  | .copyDescriptorStart _ _ _ _ => Sect.wide
  | .copyDescriptorComplete _ _ _ => Sect.wide
  | .counterAdvance _ _ _ => Sect.wide
  | .ctrBind _ _ _ _ => Sect.told
  | .mbxDoorbell _ _ _ => Sect.all
  | .dictRead _ _ _ => [.out, .ep, .mgt]
  | .dictWrite _ _ _ _ _ => Sect.all
  | .sessionSetup _ _ => Sect.told
  | .flowLoad _ _ _ _ => [.out, .od, .nvq, .mem, .poison, .written, .xl, .req, .ep, .stn, .lnk, .mgt]
  | .flowLoadComplete _ _ _ => [.out, .od, .mem, .poison, .written, .xl, .req, .ep, .stn, .lnk, .sec, .mgt]
  | .flowLaunch _ _ _ _ => [.out, .nvq, .ep, .stn, .mgt]
  | .flowStart _ _ => Sect.wide
  | .flowAbort _ _ _ => Sect.wideQ
  | .flowUnload _ _ _ => [.out, .od, .nvq, .req, .ep, .stn, .sw, .mgt]
  | .flowDone _ _ => Sect.wide
  | .streamTileArrival _ _ _ _ _ _ => Sect.wide
  | .spillReadback _ _ _ _ => Sect.wide
  | .spanIssue _ => Sect.wide
  | .watchdogExpiry _ _ => Sect.wide
  | .residueMismatch _ => Sect.wide
  | .coreRetirementComplete _ _ _ => [.out, .od, .xl, .req, .home, .ep, .stn, .sw, .dlv, .lnk, .mgt]
  | .clusterRetirementComplete _ _ => [.out, .od, .xl, .req, .home, .ep, .stn, .sw, .dlv, .lnk, .mgt]
  | .engineRetirementComplete _ _ _ => [.out, .od, .xl, .req, .home, .ep, .stn, .sw, .dlv, .lnk, .mgt]
  | .memoryInstructionComplete _ => Sect.wide
  | .nop _ => Sect.wide
  | .li _ => Sect.wide
  | .salu _ => Sect.wide
  | .br _ => Sect.wide
  | .ldp _ => Sect.wide
  | .stp _ => Sect.wide
  | .halt _ => Sect.wide
  | .flg _ => Sect.wide
  | .rdtime _ => Sect.wide
  | .waitt _ => Sect.wide
  | .waittExpiry _ => [.od, .stn, .mgt]
  | .pmask _ => Sect.wide
  | .get _ => Sect.wide
  | .put _ => Sect.wide
  | .pend _ => Sect.wide
  | .rel _ => Sect.wide
  | .tnew _ => Sect.wide
  | .tview _ => Sect.wide
  | .tset _ => Sect.wide
  | .tinfo _ => Sect.wide
  | .tfill _ => Sect.wide
  | .tcopy _ => Sect.wide
  | .tld _ => Sect.wide
  | .tst _ => Sect.wide
  | .tgath _ => Sect.wide
  | .seqrd _ => Sect.wide
  | .add _ => Sect.wide
  | .sub _ => Sect.wide
  | .mul _ => Sect.wide
  | .mac _ => Sect.wide
  | .min _ => Sect.wide
  | .max _ => Sect.wide
  | .unary _ => Sect.wide
  | .logic _ => Sect.wide
  | .shift _ => Sect.wide
  | .scale _ => Sect.wide
  | .rsum _ => Sect.wide
  | .mma _ => Sect.wide
  | .cvt _ => Sect.wide
  | .qsq _ => Sect.wide
  | .dqsq _ => Sect.wide
  | .align _ => Sect.wide
  | .expsc _ => Sect.wide
  | .zelide _ => Sect.wide
  | .zexpand _ => Sect.wide
  | .rsel _ => Sect.wide
  | .rscat _ => Sect.wide
  | .sha _ => Sect.wide
  | .dcmp _ => Sect.wide
  | .referenceLost _ => [.od, .tim, .mgt]
  | .referenceQualified _ => [.od, .tim]
  | .referenceRevert => [.od]
  | .timestampExchange _ => [.out, .od, .xl, .req, .home, .ep, .stn, .sw, .dlv, .lnk, .tim, .slu, .mgt, .shd]
  | .rootHandover _ => [.out, .od, .xl, .req, .home, .ep, .stn, .sw, .dlv, .lnk, .tim, .slu, .mgt, .shd]
  | .rtSet _ _ => [.out, .nvq, .ep, .tim, .mgt]
  | .sluiceLoad _ _ _ _ => [.out, .od, .nvq, .mem, .poison, .written, .xl, .req, .ep, .lnk, .slu, .mgt]
  | .sluiceRemove _ _ _ => [.out, .nvq, .ep, .slu, .mgt]
  | .sluiceCommit _ _ _ => [.out, .nvq, .ep, .slu, .mgt]
  | .sluiceBankSwitch _ => [.od, .slu]
  | .gateWake _ => [.lnk, .slu]
  | .gateOpen _ => [.lnk, .slu]
  | .gateClose _ => [.out, .od, .xl, .req, .home, .ep, .stn, .sw, .dlv, .lnk, .slu, .mgt]
  | .partCreate _ _ => [.out, .od, .nvq, .ep, .sec, .mgt]
  | .partClose _ _ => Sect.wideQ
  | .teardownDrainEnd _ => [.out, .life, .od, .mem, .poison, .written, .own, .fills, .xl, .req, .home, .ep, .stn, .sw, .dlv, .lnk, .tim, .slu, .sec, .mgt, .shd]
  | .ownGrant _ _ _ _ => [.out, .nvq, .own, .ep, .mgt]
  | .ownRelease _ _ _ => [.out, .nvq, .own, .fills, .ep, .mgt]
  | .zeroFillGranuleDone _ => [.out, .life, .od, .mem, .poison, .written, .own, .fills, .xl, .req, .home, .ep, .stn, .sw, .dlv, .lnk, .tim, .slu, .sec, .mgt, .shd]
  | .coreZeroingComplete _ _ _ => [.stn]
  | .keyAgree _ _ _ _ _ _ => [.out, .od, .nvq, .ep, .sec, .mgt]
  | .attest _ _ _ => [.out, .nvq, .ep, .sec, .mgt]
  | .regionRegister _ _ _ _ => [.out, .od, .nvq, .mem, .poison, .written, .xl, .req, .ep, .lnk, .sec, .mgt]
  | .regionRegisterComplete _ => [.out, .od, .mem, .poison, .written, .xl, .req, .ep, .lnk, .sec, .mgt]
  | .sessionOpen _ => [.out, .od, .mgt]
  | .sessionClose _ => [.od, .mgt]
  | .sessionIdleTimeout _ => [.mgt]
  | .read _ => [.out, .od, .ep, .mgt]
  | .write _ => Sect.all
  | .mdpInterimResponse _ _ => [.out, .mgt]
  | .mgrKeyHash _ _ => Sect.toldOd
  | .retainedCommit => [.out, .od, .nv, .nvq, .ep, .mgt]
  | .counterControlWrite _ _ _ _ => Sect.toldOd
  | .counterWrite _ _ _ _ => Sect.toldOd
  | .ovf _ _ _ => Sect.toldOd
  | .counterOverflow _ _ _ => [.out, .od, .mem, .poison, .written, .mgt]
  | .snapAt _ _ => Sect.toldOd
  | .snapshotTaken => [.od, .mgt]
  | .sampleRingBase _ _ => Sect.toldOd
  | .stationDieFault _ => Sect.wide
  | .epDieFault _ => Sect.wide
  | .oeDieFault _ => Sect.wide
  | .managementLinkDown _ => [.od, .mgt]
  | .shadowPartner _ _ => [.out, .od, .nvq, .ep, .mgt, .shd]
  | .shadowFeedTile _ _ _ _ _ => Sect.wide
  | .shadowDigest _ _ => Sect.wide
  | .shadowPass => [.od, .shd]
  | .trainingPhaseFail _ => [.out, .od, .mem, .poison, .written, .xl, .req, .home, .ep, .stn, .sw, .dlv, .lnk, .tim, .slu, .mgt, .shd]
  | .managementLinkUp _ => [.od]
  | .sluiceLoadComplete _ _ _ => [.out, .od, .mem, .poison, .written, .xl, .req, .ep, .lnk, .slu, .sec, .mgt]
  | .hashUnitDone _ _ _ => [.stn]
  | .cxlMemEnable _ _ => [.out, .od, .req, .lnk]

end Sys2Proof.Machine
end

