-- ==== Sys2Proof/Certificates/Slice0/Obligations.lean ====
section
/-! DEFINITION. The statements about the block: each names what a command, the queue or a shared operation does. Commands are
named by the constructors of `Instr`; an event whose enabling condition does not hold leaves the state as it is. -/

open Sys2Proof Sys2Proof.Machine

/-- A step takes the command at the front of the queue and performs it on the state whose queue is the rest. -/
def Obligations.StepPerformsFront : Prop :=
  ∀ (c : Instr) (rest : List Instr) (s : State), s.pending = c :: rest → step s = exec c { s with pending := rest }

/-- No command and no tick ends in a fault or a refusal, and a step takes exactly the front command off the queue: with an empty
queue one tick passes (log entry 2) and the queue stays empty. -/
def Obligations.EveryStepAnswers : Prop :=
  ∀ s : State, ∃ t, step s = .next t ∧ t.pending = s.pending.tail

/-- Every step keeps the memory in its canonical form. -/
def Obligations.StepKeepsMemory : Prop :=
  ∀ s t : State, step s = .next t → s.memOk → t.memOk

/-- Every step keeps the units of the module: 16 fabric ports, 16 attach ports, 4 CXL ports and 17 pairs, each under its own
number. The order code that was manufactured into the part is the same after every step. -/
def Obligations.StepKeepsUnits : Prop :=
  (∀ s t : State, step s = .next t → s.unitsOk → t.unitsOk) ∧
  (∀ s t : State, step s = .next t → t.life.order768 = s.life.order768)

/-- The invariants hold after reset: the memory is canonical, the units are there, nothing waits; the module is OFF, lists no
memory and has no dictionary entry apart from its default. -/
def Obligations.ResetHolds : Prop :=
  State.reset.memOk ∧ State.reset.unitsOk ∧ State.reset.pending = [] ∧ State.reset.life.mstate = .off ∧ State.reset.mem = [] ∧
    State.reset.od = [] ∧ (∀ g, State.reset.granule g = 0x80) ∧ ∀ k, State.reset.rd k = dfltOf k

/-- The frame of every command: it changes no section of the state but those that `mayChange` names for it. -/
def Obligations.CommandFrame : Prop :=
  ∀ (c : Instr) (s t : State), exec c s = .next t → s.sameBut (mayChange c) t

/-- Input loss, whatever brings it, puts the module into OFF from every other state: the retained image is saved first, and
nothing else is left of the state but what the part itself keeps. The input stage: an overcurrent opens the fuse and takes the
input away; an open fuse keeps a restart from having effect; FUSE_RELEASE closes it; reversed polarity lights the red
indicator of a module in OFF. -/
def Obligations.InputPowerAndStage : Prop :=
  (∀ s t : State, s.life.mstate ≠ .off → t = s.inputGone →
    exec .inputLoss s = .next t ∧
    exec .presentLoopOpen s = .next t ∧
    exec .inputOvervoltage s = .next t ∧
    (∀ d, 1150 ≤ d → exec (.thermalShutdown d) s = .next t) ∧
      t.life.mstate = .off ∧ t.power.inputOn = false ∧ t.mem = [] ∧ t.od = [] ∧ t.own = [] ∧
      t.nv.a = (s.logFault 0x10 0 0 0 0 0 0).saveRetained.nv.a ∧ t.nv.b = (s.logFault 0x10 0 0 0 0 0 0).saveRetained.nv.b ∧
      t.life.order768 = s.life.order768 ∧ t.out = s.out) ∧
  (∀ s : State,
    (s.power.fuseOpen = false → ∃ t, exec .inputOvercurrent s = .next t ∧ t.power.fuseOpen = true ∧ t.life.mstate = .off ∧
      t.power.inputOn = false) ∧
    (s.power.fuseOpen = true → exec .inputRestart s = .next s) ∧
    (s.power.fuseOpen = true → exec .fuseRelease s =
      .next { s with power := { s.power with fuseOpen := false, inputOn := false, standby := false } }) ∧
    (s.life.mstate = .off → exec .reversedPolarity s = .next { s with power := { s.power with redLight := 1, inputOn := false } }) ∧
    (s.life.mstate = .off → s.power.fuseOpen = false →
      exec .inputRestart s = .next { s with power := { s.power with inputOn := true, redLight := 0 } }))

/-- Start-up: power-good leads from OFF to RESTORE with rack time at 0 and the dictionary at its defaults (without protective
earth the module stays in OFF and the red indicator flashes), the end of RESTORE to SELFTEST with every granule in SCRUB and
POWER_CAP at CAP_AT_RESTORE, a good SELFTEST to TRAINING and a fatal one to FAILED, and TRAINING ends in MEMBER where
JOIN_MODE is 1, the module is locked and every present neighbour has trained, and else in SHADOW. -/
def Obligations.StartUp : Prop :=
  ∀ s : State,
    (s.life.mstate = .off → s.power.inputOn = true → s.power.fuseOpen = false → s.power.standby = false →
      (∃ t, exec (.powerGood true) s = .next t ∧ t.life.mstate = .restore ∧ t.now = 0 ∧ t.od = [] ∧ t.mem = [] ∧ t.nv.a = s.nv.a ∧
        t.nv.b = s.nv.b) ∧
      exec (.powerGood false) s = .next { s with power := { s.power with redLight := 2 } }) ∧
    (s.life.mstate = .restore → ∃ t, exec .restoreComplete s = .next t ∧ t.life.mstate = .selftest ∧ (∀ g, t.granule g = 0x80) ∧
      t.rd K.powerCap = (s.rebuild).rd K.capAtRestore ∧ t.life.restoredAt = s.now) ∧
    (∀ r, s.life.mstate = .selftest →
      (r.fatal = none → ∃ t, exec (.selftestComplete r) s = .next t ∧ t.life.mstate = .training ∧ t.stn.flows = [] ∧
        t.sw.tbRing = (if s.rd K.tbufCount = 0 then [] else [(0, s.rd K.tbufCount)])) ∧
      (r.fatal ≠ none → ∃ t, exec (.selftestComplete r) s = .next t ∧ t.life.mstate = .failed)) ∧
    (s.life.mstate = .training → s.tim.everLocked = true → ¬(s.rd K.joinMode = 1 ∧ s.locked = true ∧ s.presentTrained = true) →
      ∃ t, exec .trainingExit s = .next t ∧ t.life.mstate = .shadow ∧ s.sameBut [.out, .life, .mgt] t) ∧
    (s.life.mstate = .training → s.rd K.joinMode = 1 → s.locked = true → s.presentTrained = true →
      exec .trainingExit s = .next (s.defaultVias.swapBanks.enterMember.notices).settleAll ∧ s.enterMember.life.mstate = .member)

/-- Fatal faults and the requests of the rack manager: from a managed state a fatal fault leads to FAILED, and so does a
FAULT_DECLARE of 1; RECOVER leads from FAILED to MAINTENANCE, RESTART from MAINTENANCE to SELFTEST, DRAIN from MEMBER to
DRAINING; POWER_OFF of a drained module leads to OFF and MAINTAIN to MAINTENANCE, and before that they wait for
MODULE_DRAINED. -/
def Obligations.StateRequests : Prop :=
  ∀ (s : State) (o : Origin),
    (∀ code unit, s.managed = true → s.life.mstate ≠ .failed →
      ∃ t, exec (.fatalFault code unit) s = .next t ∧ t.life.mstate = .failed ∧ t.life.heldReq = none) ∧
    (s.allows o K.faultDeclare 0 = true → s.life.mstate ≠ .failed →
      ∃ t, exec (.faultDeclare o 1) s = .next t ∧ t.life.mstate = .failed) ∧
    (s.allows o K.stateRequest 0 = true → s.life.mstate = .failed →
      exec (.recover o) s = .next ((s.enter .maintenance).reply o Status.ok false [])) ∧
    (s.allows o K.stateRequest 0 = true → s.life.mstate = .maintenance →
      ∃ t, exec (.restart o) s = .next t ∧ t.life.mstate = .selftest) ∧
    (s.allows o K.stateRequest 0 = true → s.life.mstate = .member →
      ∃ t, exec (.drain o) s = .next t ∧ t.life.mstate = .draining ∧ t.life.homesMoved = false) ∧
    (s.allows o K.stateRequest 0 = true → s.life.mstate = .draining → exec (.drain o) s = .next (s.reply o Status.ok false [])) ∧
    (s.allows o K.homesMoved 0 = true → s.life.mstate = .draining →
      ∃ t, exec (.homesMoved o 1) s = .next t ∧ t.life.homesMoved = true ∧ t.life.mstate = .draining) ∧
    (s.allows o K.stateRequest 0 = true → s.life.mstate = .draining → s.isDrained = false → s.life.heldReq = none →
      exec (.powerOff o) s = .next { s with life := { s.life with heldReq := some (.powerOff, o) } } ∧
      exec (.maintain o) s = .next { s with life := { s.life with heldReq := some (.maintain, o) } }) ∧
    (s.allows o K.stateRequest 0 = true → s.isDrained = true →
      (∃ t, exec (.powerOff o) s = .next t ∧ t.life.mstate = .off ∧ t.power.standby = true) ∧
      (∃ t, exec (.maintain o) s = .next t ∧ t.life.mstate = .maintenance)) ∧
    (s.isDrained = true → s.life.heldReq = some (.powerOff, o) →
      ∃ t, exec .moduleDrained s = .next t ∧ t.life.mstate = .off ∧ t.power.standby = true) ∧
    (s.isDrained = true → s.life.heldReq = some (.maintain, o) →
      ∃ t, exec .moduleDrained s = .next t ∧ t.life.mstate = .maintenance)

/-- Power caps and the emergency throttle: POWER_CAP takes the value that the range 950 W to 4,200 W leaves of the value written,
stage 2 lowers the operating point by one step, stage 3 withholds the gates' clocks and puts every trained port into electrical
idle, a release undoes stage 3 first, and the
throttle goes to OP4 and back. -/
def Obligations.CapsAndThrottle : Prop :=
  ∀ (s : State) (w : Nat),
    (∀ o v, s.allows o K.powerCap 0 = true →
      ∃ t, exec (.powerCapWrite o v) s = .next t ∧ t.rd K.powerCap = (if v < 950 then 950 else if 4200 < v then 4200 else v) ∧
        t.life = s.life) ∧
    (s.managed = true → s.rd K.powerStage ≠ 0 → s.rd K.powerCap < w → s.rd K.emergency = 0 → s.rd K.operatingPoint < 4 →
      ∃ t, exec (.capStage2 w) s = .next t ∧ t.rd K.powerStage = 2 ∧ t.rd K.operatingPoint = s.rd K.operatingPoint + 1 ∧
        t.life = s.life) ∧
    (s.managed = true → s.rd K.powerStage = 2 → s.rd K.powerCap < w → s.rd K.emergency = 0 → s.rd K.operatingPoint = 4 →
      s.power.measures = 7 →
      ∃ t, exec (.capStage3 w) s = .next t ∧ t.power.stage3 = true ∧ t.rd K.inputPower = w ∧
        (∀ n < 16, t.fpTrained n = true → (t.fport n).idle = true) ∧ (∀ n < 16, t.apTrained n = true → (t.aport n).idle = true) ∧
        s.sameBut [.out, .power, .od, .lnk] t) ∧
    (s.managed = true → s.rd K.powerStage ≠ 0 → w < s.rd K.powerCap → s.rd K.emergency = 0 → s.power.stage3 = true →
      s.settled = true →
      exec (.capRelease w) s = .next { s.wr K.inputPower w with power := { s.power with stage3 := false } }) ∧
    (∀ oc d, s.life.mstate ≠ .off → s.rd K.emergency ≠ 1 → (oc = true ∨ 1050 ≤ d) →
      ∃ t, exec (.emergencyThrottle oc d) s = .next t ∧ t.rd K.emergency = 1 ∧ t.rd K.operatingPoint = 4 ∧
        t.rd K.emergencyEvents = (s.rd K.emergencyEvents + 1) % 2 ^ 32 ∧ t.power.opBefore = s.rd K.operatingPoint ∧
        s.sameBut [.od, .power] t) ∧
    (s.rd K.emergency = 1 → s.settled = true →
      ∃ t, exec .emergencyThrottleEnd s = .next t ∧ t.rd K.emergency = 0 ∧ t.rd K.operatingPoint = s.power.opBefore ∧
        s.sameBut [.od] t)

/-- Loads, stores, bursts and tile accesses of a context: an accepted, aligned request opens its transaction, which is translated,
with the length its type has. The atomics of a context: an accepted, aligned request opens an atomic of 4 or 8 bytes with the
operation that the command names; only CAS.OWN carries OWN. Data of a tile write: a part that is aligned, lies in the tile and
repeats nothing is put into the open tile write, whose covered units grow by it. -/
def Obligations.CapRequests : Prop :=
  (∀ (s : State) (c : Ctx) (m : CapMsg),
    (s.capAccepts mtLD m c → capMisaligned mtLD m = false →
      exec (.ld (.cap m)) s = .next ((s.capSeen m c).openAccess { capTx c m with acc := .load, len := 2 ^ m.sub }).settleAll) ∧
    (s.capAccepts mtST m c → capMisaligned mtST m = false →
      exec (.st (.cap m)) s = .next ((s.capSeen m c).openAccess { capTx c m with
        acc := .store, len := 2 ^ m.sub, data := fitTo (2 ^ m.sub) m.data }).settleAll) ∧
    (s.capAccepts mtBLD m c → m.addr % 256 = 0 →
      exec (.bld m) s = .next ((s.capSeen m c).openAccess { capTx c m with acc := .load, len := 256 }).settleAll) ∧
    (s.capAccepts mtBST m c → m.addr % 256 = 0 →
      exec (.bst m) s = .next ((s.capSeen m c).openAccess { capTx c m with acc := .store, len := 256, data := fitTo 256 m.data }).settleAll) ∧
    (s.capAccepts mtTRD m c → (capDesc m).bad false = false →
      exec (.trd m) s = .next ((s.capSeen m c).openAccess { capTx c m with
        acc := .tileRead, tile := some (capDesc m), len := tileBytes (capDesc m).rows (capDesc m).rbytes (capDesc m).fmt
        addr := (capDesc m).base }).settleAll) ∧
    (s.capAccepts mtTWR m c → (capDesc m).bad true = false →
      exec (.twr m) s = .next ((s.capSeen m c).openAccess { capTx c m with
        acc := .tileWrite, tile := some (capDesc m), len := tileBytes (capDesc m).rows (capDesc m).rbytes (capDesc m).fmt
        data := zeros (tileBytes (capDesc m).rows (capDesc m).rbytes (capDesc m).fmt), addr := (capDesc m).base, last := false
        sub := 0, operand := 0, compare := 0, poi := false }).settleAll)) ∧
  (∀ (s : State) (c : Ctx) (m : CapMsg),
    (s.capAtomic m c 0 → exec (.atomicAdd (.cap m)) s = .next (s.capAtomicOpened m c 0)) ∧
    (s.capAtomic m c 1 → exec (.atomicMin (.cap m)) s = .next (s.capAtomicOpened m c 1)) ∧
    (s.capAtomic m c 2 → exec (.atomicMax (.cap m)) s = .next (s.capAtomicOpened m c 2)) ∧
    (s.capAtomic m c 3 → exec (.atomicAnd (.cap m)) s = .next (s.capAtomicOpened m c 3)) ∧
    (s.capAtomic m c 4 → exec (.atomicOr (.cap m)) s = .next (s.capAtomicOpened m c 4)) ∧
    (s.capAtomic m c 5 → exec (.atomicXor (.cap m)) s = .next (s.capAtomicOpened m c 5)) ∧
    (s.capAtomic m c 6 → exec (.atomicSwap (.cap m)) s = .next (s.capAtomicOpened m c 6)) ∧
    (s.capAtomic m c 7 → exec (.atomicCas (.cap m)) s = .next (s.capAtomicOpened m c 7)) ∧
    (s.capAccepts mtAT64 { m with sub := 7, own := true } c → m.wide = true → m.addr % 8 = 0 →
      exec (.casOwn (.cap m)) s = .next ((s.capSeen m c).openAccess { capTx c m with
        sub := 7, own := true, acc := .atomic, len := 8 }).settleAll)) ∧
  (∀ (s : State) (m : CapMsg) (t : Tx),
    m.wf = true → s.capOn m.port = true → capUnits m ≤ 64 →
    s.capUsed (s.bondOf m.port) 0 + capUnits m + 1 ≤ (s.aport (s.bondOf m.port)).granted.getD 0 0 →
    s.capBlocked (s.bondOf m.port) = false → s.tagOpen m.ep m.ctx m.tag = some t → t.acc = .tileWrite → t.last = false →
    m.arg % 64 = 0 → m.arg + m.data.length ≤ 64 * cdiv t.len 64 → (linesOf m.arg m.data.length).any t.covered.testBit = false →
    m.last = false → m.poi = false →
    exec (.twd m) s = .next (s.setTx { t with
      data := (patch t.data m.arg m.data).take t.len, covered := (linesOf m.arg m.data.length).foldl setBit t.covered }).settleAll)

/-- Fences, INVAL and HINT of a context: a fence of the ordering that the command names opens, an INVAL waits for the context's
earlier loads, and a HINT of the command's kind goes to the home with the number of 4 KiB pages in ARG. Doorbells, counters
and waits of a context whose partition has the queue or the counter: DOORBELL sets the tail and answers OK, CTRSET sets value
and base and answers OK, CTRWAIT joins the waits with its deadline; and a wait whose deadline has passed ends with TIMEOUT. -/
def Obligations.CapOrderingAndCounters : Prop :=
  (∀ (s : State) (c : Ctx) (m : CapMsg),
    (s.capAccepts mtFENCE { m with ord := 1 } c → exec (.fenceAcquire (.cap m)) s = .next (s.capFenceOpened m c 1)) ∧
    (s.capAccepts mtFENCE { m with ord := 2 } c → exec (.fenceRelease (.cap m)) s = .next (s.capFenceOpened m c 2)) ∧
    (s.capAccepts mtFENCE { m with ord := 3 } c → exec (.fenceAcqRel (.cap m)) s = .next (s.capFenceOpened m c 3)) ∧
    (s.capAccepts mtINVAL m c →
      exec (.inval (.cap m)) s = .next ((s.capSeen m c).openInval { capTx c m with len := m.arg, ord := 0, scope := 0 }).1.settleAll) ∧
    (m.addr % 4096 = 0 →
      (s.capAccepts mtHINT { m with sub := 1 } c → exec (.hintHot m) s = .next (s.capHintOpened m c 1)) ∧
      (s.capAccepts mtHINT { m with sub := 2 } c → exec (.hintWarm m) s = .next (s.capHintOpened m c 2)) ∧
      (s.capAccepts mtHINT { m with sub := 3 } c → exec (.hintCold m) s = .next (s.capHintOpened m c 3)) ∧
      (s.capAccepts mtHINT { m with sub := 4 } c → exec (.hintEvict m) s = .next (s.capHintOpened m c 4)) ∧
      (s.capAccepts mtHINT { m with sub := 5 } c → exec (.hintPin m) s = .next (s.capHintOpened m c 5)))) ∧
  (∀ (s : State) (c : Ctx) (m : CapMsg),
    (∀ q, s.capAccepts mtDOORBELL m c → s.queueOf c.ep (m.addr % 64) = some q → q.pid = c.pid → m.arg % 2 ^ 32 < q.entries →
      exec (.doorbell m) s = .next (((s.capSeen m c).setTail c.ep (m.addr % 64) (m.arg % 2 ^ 32)).1.capAnswer mtDOORBELL m
        Status.ok).settleAll) ∧
    (∀ k, s.capAccepts mtCTRSET m c → s.ctrOf c.ep (m.addr % 4096) = some k → k.pid = c.pid →
      exec (.ctrset m) s = .next (((((s.capSeen m c).mapEp fun e => { e with
        ctrs := mapIf (fun x => x.ep = c.ep && x.n = m.addr % 4096) (fun x => { x with v := m.arg % 2 ^ 32, b := m.arg % 2 ^ 32 })
          e.ctrs }).judgeWaits c.ep (m.addr % 4096)).capAnswer mtCTRSET m Status.ok).settleAll)) ∧
    (∀ k, s.capAccepts mtCTRWAIT m c → s.ctrOf c.ep (m.addr % 4096) = some k → k.pid = c.pid →
      (s.ep.waits.filter fun w => w.ep = c.ep).length < 256 →
      exec (.ctrwait m) s = .next ((s.capSeen m c).capWait c m).settleAll) ∧
    (∀ ep ctx tag w, (s.ep.waits.find? fun w => w.ep = ep && w.ctx = ctx && w.tag = tag) = some w → w.deadline ≠ 0 →
      w.deadline ≤ s.now → exec (.ctrwaitTimeout ep ctx tag) s = .next (s.endWait w Status.timeout).settleAll))

/-- The serial-number comparison of a wait on an arrival counter: it fails with COUNTER_WINDOW once the counter is 2^31 or more
past its base, and else ends with OK exactly when the target is not ahead of the counter. -/
def Obligations.CounterJudgement : Prop :=
  ∀ (k : Counter) (target : Nat), k.v < 2 ^ 32 → k.b < 2 ^ 32 → target < 2 ^ 32 →
    (k.judge target = some Status.counterWindow ↔ 2 ^ 31 ≤ ((k.v : Int) - k.b) % 2 ^ 32) ∧
    (k.judge target = some Status.ok ↔ ((k.v : Int) - k.b) % 2 ^ 32 < 2 ^ 31 ∧ ((k.v : Int) - target) % 2 ^ 32 < 2 ^ 31) ∧
    (k.judge target = none ↔ ((k.v : Int) - k.b) % 2 ^ 32 < 2 ^ 31 ∧ 2 ^ 31 ≤ ((k.v : Int) - target) % 2 ^ 32)

/-- Attach streams and export memory: an accepted message of the STRM pool takes its units of the pool, which the port owes back;
the last part of a tile enters its stream and takes a producer credit, an earlier part is
kept, an SCRED grants credits to its consumer, an XRSP answers its export request, and after 20 µs the request ends with
TIMEOUT and is counted. -/
def Obligations.StreamsAndExports : Prop :=
  ∀ (s0 : State) (m : CapMsg) (c : Ctx),
    (∀ s f st, s = s0.strmBack m 64 → s.strmCtx m 64 = some c → s.flowGet c.pid (capFlow m) = some f → s.strmGet c.pid (capFlow m) (capSid m) = some st →
      f.fst ≠ .done → f.fst ≠ .aborted → st.prod = none → st.pmid = s.mid → st.pep = c.ep → st.pctx = c.n → st.pcredits ≠ 0 →
      st.fin = false → m.arg = st.putBuf.length →
      (m.last = false → exec (.sput m) s0 = .next (s.setStrm c.pid (capFlow m) (capSid m) fun t => { t with putBuf := st.putBuf ++ m.data })) ∧
      (m.last = true → exec (.sput m) s0 = .next (((s.setStrm c.pid (capFlow m) (capSid m) fun t => { t with
        putBuf := [], pcredits := t.pcredits - 1 }).putTile c.pid (capFlow m) (capSid m) { Tile.ofPacked (st.putBuf ++ m.data) with
          poison := (Tile.ofPacked (st.putBuf ++ m.data)).poison || m.poi }).settleAll))) ∧
    (∀ s st k, s = s0.strmBack m 0 → s.strmCtx m 0 = some c → s.strmGet c.pid (capFlow m) (capSid m) = some st →
      (st.cons.find? fun k => k.station.isNone && k.mid = s.mid && k.ep = c.ep && k.ctx = c.n) = some k → m.arg < 2 ^ 16 →
      m.arg + k.got ≤ st.depth →
      exec (.scred m) s0 = .next ((s.setCons c.pid (capFlow m) (capSid m) k.idx fun k => { k with
        grant := k.grant + m.arg, got := k.got + m.arg }).pumpAttach c.pid (capFlow m) (capSid m) k.idx m.arg).settleAll) ∧
    (∀ e s, s0.capOn m.port = true → epOfPort m.port = m.ep → capUnits m ≤ 64 →
      (s0.home.exps.find? fun e => e.ep = m.ep && e.ctx = m.ctx && e.xid % 65536 = m.tag) = some e → m.status = Status.ok →
      m.poi = false → isWrite e.h.f = false → isAtomic e.h.f = false →
      s = (s0.mapHome fun x => { x with exps := x.exps.erase e }) →
      exec (.xrsp m) s0 = .next (s.homeAnswer e.h Status.ok (s.loadIndicator e.h) m.data).settleAll) ∧
    (∀ xid e, (s0.home.exps.find? fun e => e.xid = xid) = some e → e.since + 25000 ≤ s0.now →
      exec (.exportTimeout xid) s0 = .next (((s0.mapHome fun x => { x with exps := x.exps.erase e }).bump (K.exportTimeouts e.ep) 1).homeAnswer
        e.h Status.timeout (s0.loadIndicator e.h) []).settleAll)

/-- Issue and answer: a request part issues as `tryIssue` says, a response of the own home or a RSP frame closes its part, a fence
and an INVAL whose conditions are met end, a free walker takes the oldest waiting miss, and a walk that nothing has caught
lets every request that waits on it go on. -/
def Obligations.IssueAndAnswer : Prop :=
  ∀ s : State,
    (∀ tx part, exec (.requestIssue tx part) s = .next (s.tryIssue tx part).settleAll) ∧
    (∀ pos a, s.home.rsp[pos]? = some a → a.tx ≠ 0 →
      exec (.responseArrival (.local pos)) s = .next ((s.mapHome fun x => { x with rsp := delAt x.rsp pos }).respond a.tx a.part
        (statusSeen a.status) a.li a.data false).settleAll) ∧
    (∀ f, f.kind = kRsp → f.dst = s.mid → exec (.responseArrival (.remote f)) s = .next (s.rspIn f).settleAll) ∧
    (∀ id t, s.txOf id = some t → t.acc = .fence → t.last = true → t.closed = false → s.fenceMet t = true → t.operand = 0 →
      (t.ord = 1 ∨ t.scope ≠ 2) →
      exec (.fenceComplete id) s = .next ((s.completeTx t (if s.pstate t.pid = 2 then Status.closed
        else if t.ord = 2 ∨ t.ord = 3 then t.fenceStatus else Status.ok)).releaseEnds id (if s.pstate t.pid = 2 then Status.closed
        else if t.ord = 2 ∨ t.ord = 3 then t.fenceStatus else Status.ok)).settleAll) ∧
    (∀ id t, s.txOf id = some t → t.acc = .inval → t.closed = false → (∀ i ∈ t.waits, s.txOf i = none) →
      exec (.invalComplete id) s = .next ((if 1024 < cdiv (t.addr % 64 + t.len) 64 then s.reachClear (agentEp t.agent) t.pid
        else s.reachDropLines (agentEp t.agent) t.pid (linesOf t.addr t.len)).completeTx t Status.ok).settleAll) ∧
    (∀ ep t slot, s.nextMiss ep = some (t, slot) → s.walkersBusy ep < 16 →
      exec (.walkerFree ep) s = .next ((s.mapXl fun x => { x with walks := x.walks ++ [⟨ep, t.pid, slot, false⟩] }).joinWalk ep t.pid
        slot).settleAll) ∧
    (∀ ep pid slot bad w, (s.xl.walks.find? fun w => w.ep = ep && w.pid = pid && w.slot = slot) = some w → w.restart = true →
      exec (.rtcWalkComplete ep pid slot bad) s = .next (s.mapXl fun x => { x with
        walks := mapIf (fun v => v = w) (fun v => { v with restart := false }) x.walks })) ∧
    (∀ ep pid slot w s1 s2, (s.xl.walks.find? fun w => w.ep = ep && w.pid = pid && w.slot = slot) = some w → w.restart = false →
      s1 = (s.mapXl fun x => { x with walks := x.walks.erase w }) →
      s2 = (s1.each (s1.onWalk ep pid slot) fun s i => s.translate i (some slot)) →
      exec (.rtcWalkComplete ep pid slot false) s = .next (if s2.xl.rtc.any fun r => r.ep = ep && r.pid = pid && r.slot = slot then
        s2.nodeFill ep pid (s.walk ep pid (slot * 2 ^ 21)).path else s2).settleAll)

/-- An open fault record is resolved: RETRY translates every parked request again, FAIL completes each with the record's status;
both answer OK, and a record that is not open answers REFUSED. A write of the base or the size of a fault ring empties the
ring: HEAD and TAIL read 0, the phase is 1, and no open record counts as in the ring; a write of TAIL within the ring is
taken, and after it only a record whose slot TAIL has not passed counts as in the ring. -/
def Obligations.TranslationFaults : Prop :=
  (∀ (s : State) (o : Origin) (pid rid : Nat), s.mailOk o pid false = true →
    (∀ r, s.openRec rid pid = some r →
      exec (.faultResolveRetry o pid rid) s = .next (((s.closeRec rid pid).each (s.parkedOn rid pid) fun s t =>
        (s.setTx { t with xst := .ready }).translate t.id none).settleAll.reply o Status.ok false []) ∧
      exec (.faultResolveFail o pid rid) s = .next (((s.closeRec rid pid).each (s.parkedOn rid pid) fun s t =>
        s.completeTx t r.status).settleAll.reply o Status.ok false [])) ∧
    (s.openRec rid pid = none →
      exec (.faultResolveRetry o pid rid) s = .next (s.reply o Status.refused false []) ∧
      exec (.faultResolveFail o pid rid) s = .next (s.reply o Status.refused false []))) ∧
  (∀ (s : State) (o : Origin) (pid v : Nat), pid < 64 →
    (s.allows o (K.faultRingBase pid) pid = true → ∃ t, exec (.faultRingReset o pid 1 v) s = .next t ∧
      t.rd (K.faultRingHead pid) = 0 ∧ t.rd (K.faultRingTail pid) = 0 ∧ nmGet t.xl.phase pid 0 = 1 ∧
      ∀ r ∈ t.xl.recs, r.pid = pid → r.inRing = false) ∧
    (s.allows o (K.faultRingEntries pid) pid = true → ∃ t, exec (.faultRingReset o pid 2 v) s = .next t ∧
      t.rd (K.faultRingHead pid) = 0 ∧ t.rd (K.faultRingTail pid) = 0 ∧ nmGet t.xl.phase pid 0 = 1 ∧
      ∀ r ∈ t.xl.recs, r.pid = pid → r.inRing = false) ∧
    (s.allows o (K.faultRingTail pid) pid = true → v < s.rd (K.faultRingEntries pid) →
      exec (.faultRingTail o pid v) s = .next (((s.wr (K.faultRingTail pid) v).ringConsumed pid).reply o Status.ok false [])) ∧
    (∀ r ∈ (s.ringConsumed pid).xl.recs, r.pid = pid → r.inRing = true → s.unconsumed pid r.slot = true))

/-- RTC_INVAL drops what it names at once and is remembered with the requests it waits for; it completes, with OK, once no caught
walk runs and those requests have issued or, with DRAIN, ended. Host requests: a request that the window of a CP takes opens a
RACK-scope access of 64 bytes at the FVA that the host address stands for, by the window's agent; a window advertises its size,
and nothing while it has no partition, and its FVA leads back to the host address; an ATS invalidation drops
the translations of its range and completes at once when no DMA uses it. -/
def Obligations.InvalidationsAndHosts : Prop :=
  (∀ s : State,
    (∀ (o : Origin) (i : InvalOp), s.mailOk o i.pid false = true → (i.span = .all → s.senderPid o = some 0) →
      (∀ b n, i.span = .range b n → b % 4096 = 0 ∧ b < 2 ^ 57) →
      ∃ t, exec (.rtcInval o i) s = .next t ∧
        t.xl.invals = (s.invalApply i).xl.invals ++ [⟨s.nextId, o, i,
          (s.req.txs.filter fun t => invTouches i t && !t.allIssued).map Tx.id,
          if i.drain then (s.req.txs.filter (invTouches i)).map Tx.id else []⟩] ∧
        t.xl.rtc = (s.invalApply i).xl.rtc ∧ t.xl.reach = (s.invalApply i).xl.reach ∧ t.out = s.out) ∧
    (∀ (e : RtcEntry) (i : InvalOp), e ∈ (s.invalApply i).xl.rtc ↔ e ∈ s.xl.rtc ∧
      ¬(i.epmask.testBit e.ep = true ∧ invNames i e.pid = true ∧ invMeets i (e.d.start * 4096) ((e.d.start + e.d.len) * 4096) = true)) ∧
    (∀ id r, (s.xl.invals.find? fun r => r.id = id) = some r →
      (s.xl.walks.any fun w => w.restart && r.op.epmask.testBit w.ep && (invNames r.op) w.pid) = false →
      (∀ i ∈ r.issueWait, s.txIssued i = true) → (∀ i ∈ r.doneWait, s.txEnded i = true) →
      exec (.rtcInvalComplete id) s = .next ((s.mapXl fun x => { x with
        invals := x.invals.filter fun v => v.id ≠ id }).reply r.origin Status.ok false []))) ∧
  (∀ s : State,
    (∀ cp wr wantM hpa data fva a, s.windowOn cp = true → s.windowFva cp (hpa / 64 * 64) = some fva →
      fva < 2 ^ 57 → s.agentOf (.window cp) = some a → a.pid = s.rd (K.winPid cp) →
      exec (.cxlMemRequest cp wr wantM hpa data) s = .next ((s.epEv cp 0x201 (s.rd (K.winPid cp)) 1).openAccess { Tx.blank with
        agent := .window cp, pid := s.rd (K.winPid cp), owner := s.rd (K.winOwner cp), dest := .host cp hpa
        acc := if wr then .store else .load, wide := wantM, scope := 2, fromHost := true, addr := fva, len := 64
        data := if wr then fitTo 64 data else [] }).settleAll) ∧
    (∀ cp hpa, s.rd (K.hdmBase cp) ≤ hpa → hpa < s.rd (K.hdmBase cp) + s.hdmCapacity cp →
      ∃ fva, s.windowFva cp hpa = some fva ∧ fva = s.rd (K.winFva cp) + (hpa - s.rd (K.hdmBase cp)) ∧ s.windowHpa cp fva = some hpa) ∧
    (∀ cp, (s.rd (K.winPid cp) = 0 → s.hdmCapacity cp = 0) ∧ (s.rd (K.winPid cp) ≠ 0 → s.rd (K.cpMode cp) = 1 → s.rd (K.conf cp) = 0 →
      s.hdmCapacity cp = s.rd (K.winSize cp))) ∧
    (∀ cp base len, s.epUp cp = true → s.req.atsInv = [] → s.dmaUses cp base len = false →
      ∃ t, exec (.atsInvalidation cp base len) s = .next t ∧ t.out = s.out ++ [.atsDone cp base] ∧ t.req.atsInv = [] ∧
        (∀ e ∈ t.req.ats, e.cp = cp → e.base < base + len → ¬base < e.base + e.len)) ∧
    (∀ cp base len, s.epUp cp = true → s.req.atsInv = [] → s.dmaUses cp base len = true →
      ∃ t, exec (.atsInvalidation cp base len) s = .next t ∧ t.out = s.out ∧ t.req.atsInv = [⟨cp, base, len, false, false⟩]))

/-- Contexts: a bind that names free, existing units adds the context, BOUND when its port is up, and its agent; an unbind waits
for the context's transactions, and then answers OK and forgets it. Copy queues: QUEUE_SETUP adds an empty queue of an allowed
size, QUEUE_TAIL moves the tail forward by less than half the ring, QUEUE_RESET stops the queue. -/
def Obligations.ContextsAndQueues : Prop :=
  (∀ s : State,
    (∀ (o : Origin) (b : BindOp), s.mailOk o b.pid true = true → b.ep < 4 → b.ctx < 1024 → b.port < 16 → epOfPort b.port = b.ep →
      s.bondOf b.port = b.port → b.pid ≤ 63 → b.expSize ≤ 2 ^ 38 → b.expSize % 2 ^ 21 = 0 → s.ctxOf b.ep b.ctx = none →
      s.pstate b.pid = 1 → s.epUp b.ep = true → s.analysis ≠ some (16 + b.port) →
      ∃ t, exec (.ctxBind o b) s = .next t ∧ ∃ c, t.ctxOf b.ep b.ctx = some c ∧ c.pid = b.pid ∧ c.owner = b.owner % 65536 ∧
        c.port = b.port ∧ c.expSize = b.expSize ∧ c.unbind = none ∧ c.cstate = (if s.apUp b.port then .bound else .detached)) ∧
    (∀ (o : Origin) ep ctx c, s.mailOk o 0 true = true → s.ctxOf ep ctx = some c → c.unbind = none →
      exec (.ctxUnbind o ep ctx) s = .next (s.setCtx ep ctx fun c => { c with unbind := some o })) ∧
    (∀ ep ctx c o, s.ctxOf ep ctx = some c → c.unbind = some o → s.ctxOpen ep ctx = [] →
      exec (.ctxUnbindComplete ep ctx) s = .next (((s.reply o Status.ok false []).dropCtx ep ctx).apQualDue c.port))) ∧
  (∀ (s : State) (o : Origin),
    (∀ q : QueueOp, s.mailOk o q.pid false = true → q.ep < 4 → q.q < 64 → q.pid ≤ 63 → (∃ n, 4 ≤ n ∧ n ≤ 16 ∧ q.entries = 2 ^ n) →
      (q.hostSpace = true ∨ q.descBase < 2 ^ 57 ∧ q.compBase < 2 ^ 57) → s.queueOf q.ep q.q = none → s.pstate q.pid = 1 →
      s.epUp q.ep = true →
      ∃ t, exec (.queueSetup o q) s = .next t ∧ ∃ x, t.queueOf q.ep q.q = some x ∧ x.pid = q.pid ∧ x.owner = q.owner % 65536 ∧
        x.entries = q.entries ∧ x.head = 0 ∧ x.tail = 0 ∧ x.phase = true ∧ x.stopped = false ∧ x.runs = []) ∧
    (∀ ep q x tail, s.queueOf ep q = some x → s.mailOk o x.pid false = true → tail < x.entries → x.stopped = false →
      0 < (tail + x.entries - x.tail) % x.entries → 2 * ((tail + x.entries - x.tail) % x.entries) < x.entries →
      exec (.queueTail o ep q tail) s = .next ((s.setQueue ep q fun y => { y with tail := tail }).reply o Status.ok false [])) ∧
    (∀ ep q x, s.queueOf ep q = some x → s.mailOk o x.pid false = true → x.reset = none →
      exec (.queueReset o ep q) s = .next ((s.setQueue ep q fun y => { y with reset := some o }).queueStop ep q).settleAll))

/-- Copy descriptors: the next descriptor of a running queue starts, in the order of the ring, with an acquire of RACK scope, and
the phase turns when the ring wraps; one that is malformed, or whose host pages are refused, moves nothing and its run ends with
that status; a run that has ended gives its
completion record. A copy run that has ended leaves its queue through its completion record; towards a confidential host its
chunks enter the TX ring first, as far as the guest's TX_TAIL leaves room. Arrival counters: an advance of
the partition that has the counter adds 1 modulo 2^32 and judges the waits, one of another partition only counts as foreign;
CTR_BIND gives a counter to a partition and lets a bound one keep its value; SESSION_SETUP opens a bounce session under a key
that none has used. -/
def Obligations.CopiesAndCounters : Prop :=
  (∀ (s : State) (ep q : Nat) (x : Queue) (desc : List Nat) (dma : ReadBack) (ats : List AtsPage),
    s.queueOf ep q = some x → x.stopped = false → x.head ≠ x.tail → s.inService = true → s.epUp ep = true → x.runs.length < 8 →
    s.epRuns ep < 256 → (descFence (s.headDesc x desc) = true → x.runs = []) →
    (∀ a st, a = (if ((s.reachClear ep x.pid).descStop x (s.headDesc x desc) (.ok [])).isNone then
        (s.reachClear ep x.pid).descAts x (s.headDesc x desc) ats else (s.reachClear ep x.pid, none)) →
      a.2.or ((s.reachClear ep x.pid).descStop x (s.headDesc x desc) dma) = some st →
      exec (.copyDescriptorStart ep q desc ⟨dma, ats⟩) s =
        .next ((a.1.noteRx x (s.headDesc x desc) (some st)).setQueue ep q fun y => { y with
          head := (x.head + 1) % x.entries, phase := if (x.head + 1) % x.entries = 0 then !y.phase else y.phase
          runs := y.runs ++ [⟨x.head, s.headDesc x desc, 0, st, x.phase, 0, false, 0⟩] })) ∧
    ((s.reachClear ep x.pid).descStop x (s.headDesc x desc) dma = none → descSsp (s.headDesc x desc) = 0 →
      descDsp (s.headDesc x desc) = 0 → ∃ r, r = (((s.reachClear ep x.pid).epEv ep 0x201 x.pid 1).openTx { Tx.blank with
        agent := .queue ep q, pid := x.pid, owner := x.owner, dest := .copyQ ep q x.head, acc := .copy, scope := 2
        addr := (s.headDesc x desc).getD 1 0, dst := (s.headDesc x desc).getD 2 0, len := descLen (s.headDesc x desc) }) ∧
      exec (.copyDescriptorStart ep q desc ⟨dma, ats⟩) s = .next ((r.1.setQueue ep q fun y => { y with
        head := (x.head + 1) % x.entries, phase := if (x.head + 1) % x.entries = 0 then !y.phase else y.phase
        runs := y.runs ++ [⟨x.head, s.headDesc x desc, r.2, 0, x.phase, 0, false, 0⟩] }).translate r.2 none).settleAll)) ∧
  (∀ (s : State) (ep q idx tail : Nat) (x : Queue) (r : CopyRun), s.queueOf ep q = some x → (x.runs.find? fun r => r.idx = idx) = some r →
    (s.runEnded r = true → s.rd (K.conf x.ep) ≠ 1 →
      exec (.copyDescriptorComplete ep q ⟨idx, tail⟩) s = .next (((s.takeTail x tail).fillRing x r).finishRun x r).atsSettle.settleAll) ∧
    (s.runEnded r = true → exec (.copyDescriptorComplete ep q ⟨idx, tail⟩) s = .next ((s.takeTail x tail).runOn x r).atsSettle.settleAll) ∧
    (s.runEnded r = false → exec (.copyDescriptorComplete ep q ⟨idx, tail⟩) s = .next s)) ∧
  (∀ s : State,
    (∀ ep ctr c, s.epUp ep = true → s.ctrOf ep ctr = some c →
      exec (.counterAdvance ep ctr c.pid) s = .next ((s.mapEp fun e => { e with
        ctrs := mapIf (fun x => x.ep = ep && x.n = ctr) (fun x => { x with v := (x.v + 1) % 2 ^ 32 }) e.ctrs }).judgeWaits ep ctr).settleAll) ∧
    (∀ ep ctr c pid, s.epUp ep = true → s.ctrOf ep ctr = some c → pid ≠ c.pid →
      exec (.counterAdvance ep ctr pid) s = .next (s.bump (K.ctrForeign ep) 1).settleAll) ∧
    (∀ (o : Origin) ep ctr pid, s.mailOk o pid true = true → ep < 4 → ctr < 4096 → pid ≤ 63 →
      ∃ t, exec (.ctrBind o ep ctr pid) s = .next t ∧ ∃ c, t.ctrOf ep ctr = some c ∧ c.pid = pid ∧
        (∀ c0, s.ctrOf ep ctr = some c0 → c.v = c0.v ∧ c.b = c0.b) ∧ (s.ctrOf ep ctr = none → c.v = 0 ∧ c.b = 0)) ∧
    (∀ (o : Origin) (b : BounceOp), s.mailOk o b.pid false = true → b.cp < 4 → s.rd (K.conf b.cp) = 1 → s.pstate b.pid = 1 →
      s.hasHostKey b.pid b.keyId = true → s.ep.usedKeys.contains b.keyId = false → (∃ n, 4 ≤ n ∧ n ≤ 12 ∧ b.slots = 2 ^ n) →
      ∃ t, exec (.sessionSetup o b) s = .next t ∧ t.bounceOf b.pid b.cp = some ⟨b, 0, 0, false, 0⟩ ∧ b.keyId ∈ t.ep.usedKeys))

/-- A read of an entry that exists, from a sender that may read it, answers OK with the entry's bytes; every other read answers
with the status of its failed check. Neither changes an entry. A write of an entry that only holds a value, of its type and
length, within its range and with no reserved bit set: the entry takes the value, and the command answers OK, for a retained
entry once it is committed. -/
def Obligations.DictionaryEntries : Prop :=
  (∀ (s : State) (o : Origin) (ix sub : Nat), s.managed = true →
    (s.readGate o ix sub = none → exec (.dictRead o ix sub) s =
      .next (s.draw.reply o Status.ok false (s.entryBytes ((s.senderPid o).getD 0) ix sub))) ∧
    (∀ st, s.readGate o ix sub = some st → exec (.dictRead o ix sub) s = .next (s.draw.reply o st false [])) ∧
    (∀ t, exec (.dictRead o ix sub) s = .next t → t.od = s.od)) ∧
  (∀ (s : State) (o : Origin) (ix sub ty : Nat) (val : List Byte) (e : Entry), s.managed = true → sub < 256 →
    s.writeGate o (256 * ix + sub) (opPidOf ix sub val) = none → entryOf ix sub = some e → ty = e.ty → val.length = e.size →
    (ownRow o ix sub val).isNone = true → s.ruleRefuses ix sub (leNat val) = false → (leNat val) &&& e.rsv = 0 →
    clampVal s e (s.tailMax (256 * ix + sub)) (leNat val) = (leNat val, none) →
    exec (.dictWrite o ix sub ty val) s = .next (((s.wr (256 * ix + sub) (leNat val)).wrote ix sub).finish o
      (if e.ret then .commit false else .now 0 false [])))

/-- An entry or a sub-index that does not exist answers FAULT_UNMAPPED to a read and to a write, and nothing else changes.
Sub-index 0 of every index in use reads as the highest sub-index in use, one byte, and is not written. -/
def Obligations.UnmappedEntries : Prop :=
  ∀ (s : State) (o : Origin) (ix sub ty : Nat) (val : List Byte), s.managed = true → sub < 256 →
    ((if sub = 0 then maxSub ix = none else entryOf ix sub = none) →
      exec (.dictRead o ix sub) s = .next (s.draw.reply o Status.unmapped false []) ∧
      exec (.dictWrite o ix sub ty val) s = .next (s.reply o Status.unmapped false [])) ∧
    (∀ m, maxSub ix = some m →
      (s.senderPid o = some 0 → s.limited o = false →
        exec (.dictRead o ix 0) s = .next (s.draw.reply o Status.ok false (leBytes 1 m))) ∧
      exec (.dictWrite o ix 0 ty val) s = .next (s.reply o Status.refused false []) ∧ (entryOf ix m).isSome = true ∧
      ∀ j, j ≤ 64 → (entryOf ix j).isSome = true → j ≤ m)

/-- A write to an RWM entry in any state but MAINTENANCE answers REFUSED and changes no entry. -/
def Obligations.MaintenanceEntries : Prop :=
  ∀ (s : State) (o : Origin) (ix sub ty : Nat) (val : List Byte) (e : Entry), s.managed = true → sub < 256 → sub ≠ 0 →
    entryOf ix sub = some e → e.acs = .rwm → s.life.mstate ≠ .maintenance →
    ∃ t, exec (.dictWrite o ix sub ty val) s = .next t ∧ t = s.reply o Status.refused false [] ∧ t.od = s.od

/-- Clamping: the value that takes effect lies in the range of the entry and is the value written when that lies in it; for a
range with two bounds it is the bound that was passed, for one with steps the next step below. -/
def Obligations.ClampedValues : Prop :=
  ∀ (s : State) (e : Entry) (tm v lo hi st : Nat), lo ≤ hi → 0 < st →
    (e.rng = .le lo hi → (clampVal s e tm v).1 = max lo (min v hi) ∧ ((clampVal s e tm v).2 = none ↔ lo ≤ v ∧ v ≤ hi)) ∧
    (e.rng = .step lo hi st → (hi - lo) % st = 0 →
      lo ≤ (clampVal s e tm v).1 ∧ (clampVal s e tm v).1 ≤ hi ∧ ((clampVal s e tm v).1 - lo) % st = 0 ∧
      ((clampVal s e tm v).2 = none ↔ lo ≤ v ∧ v ≤ hi ∧ (v - lo) % st = 0) ∧
      (lo ≤ v → v ≤ hi → (clampVal s e tm v).1 ≤ v ∧ v < (clampVal s e tm v).1 + st)) ∧
    (∀ n, e.rng = .enum n → (v < n → clampVal s e tm v = (v, none)) ∧ (n ≤ v → (clampVal s e tm v).1 = e.dflt)) ∧
    (e.rng = .mbxPid → (clampVal s e tm v).1 ≤ 63 ∨ (clampVal s e tm v).1 = 0xFF)

/-- A context's mailbox and a host's run the command they are given: from the addressed PID or PID 0 it is performed, and the
mailbox counts as open until the answer; a host mailbox that is busy ignores the doorbell and counts it. -/
def Obligations.Mailboxes : Prop :=
  ∀ (s : State) (pid : Nat) (cmd : MbxCmd),
    (∀ (m : CapMsg) (c : Ctx), m.wf = true → s.capOn m.port = true → capUnits m ≤ 64 →
      s.capUsed (s.bondOf m.port) 2 + capUnits m + 1 ≤ (s.aport (s.bondOf m.port)).granted.getD 2 0 →
      s.ep.mbxCtx.contains (m.ep, m.ctx) = false → s.ctxOf m.ep m.ctx = some c → c.port = s.bondOf m.port → c.unbind = none →
      s.inService = true → c.cstate = .bound → s.pstate c.pid = 1 → (c.pid = 0 ∨ c.pid = pid) →
      ∃ s1, s1 = (s.mapEp fun e => { e with mbxCtx := e.mbxCtx ++ [(m.ep, m.ctx)] }) ∧
        exec (.mbxq m pid cmd) s = .next (afterOf (runMbx (.ctx m.ep m.ctx) cmd s1) s1)) ∧
    (∀ cp, s.managed = true → cp < 4 → s.rd (K.cpMode cp) = 1 → (s.cport cp).up = true → s.epUp cp = true →
      (s.mbxReg cp).busy = true → exec (.mbxDoorbell cp pid cmd) s = .next (s.bump (K.mbxBusyDrops cp) 1)) ∧
    (∀ cp, s.managed = true → cp < 4 → s.rd (K.cpMode cp) = 1 → (s.cport cp).up = true → s.epUp cp = true →
      (s.mbxReg cp).busy = false → pid < 64 → s.rd (K.mbxPid cp) ≤ 63 → (s.rd (K.mbxPid cp) = 0 ∨ s.rd (K.mbxPid cp) = pid) →
      ∃ s1, s1 = (s.mapEp fun e => { e with mbxHost := (e.mbxHost.filter fun x => x.cp ≠ cp) ++
          [⟨cp, true, (cmd.opc % 65536) <<< 48 ||| (pid % 64) <<< 26, []⟩] }) ∧
        exec (.mbxDoorbell cp pid cmd) s = .next (afterOf (runMbx (.host cp) cmd s1) s1))

/-- A load or read part of a NORMAL range in HBM is answered with the bytes of the memory, or with POISON when a line of it is
poisoned; an uncorrectable error poisons its line first. The memory stays as it is. A store of a NORMAL range in HBM changes
exactly the bytes of its line whose byte enable is set, a write part every byte it carries, and no other byte of memory; the
request is answered with OK. -/
def Obligations.HomeReadsAndStores : Prop :=
  (∀ (s : State) (pos : Nat) (h : HReq) (z : Nat), z = (if h.f.op = 0x50 then 64 * h.f.part else 64) →
    s.servesHere pos (fun f => isRead f && !hostCoh f) h →
    ((s.takeIn pos).spanPoisoned (reqBase h.f) z = false →
      exec (.homeLoad pos false) s = .next ((s.takeIn pos).homeAnswer h Status.ok ((s.takeIn pos).loadIndicator h)
        (s.peek (reqBase h.f) z))) ∧
    ((s.takeIn pos).spanPoisoned (reqBase h.f) z = true →
      exec (.homeLoad pos false) s = .next ((s.takeIn pos).homeAnswer h Status.poison ((s.takeIn pos).loadIndicator h) [])) ∧
    (0 < z → ∃ t, exec (.homeLoad pos true) s = .next t ∧ t.poisoned (lineOf (reqBase h.f)) = true ∧ t.mem = s.mem)) ∧
  (∀ (s : State) (pos : Nat) (h : HReq), s.memOk → s.servesHere pos (fun f => isWrite f && !hostCoh f) h →
    (h.f.op ≠ 0x51 → h.f.payload.length = 64 → ∃ t, exec (.homeStore pos) s = .next t ∧
      ∀ x, byteAt t.mem x = if reqBase h.f ≤ x ∧ x < reqBase h.f + 64 ∧ h.f.be.testBit (x - reqBase h.f) = true
        then h.f.payload.getD (x - reqBase h.f) 0 else byteAt s.mem x) ∧
    (h.f.op = 0x51 → ∃ t, exec (.homeStore pos) s = .next t ∧
      ∀ x, byteAt t.mem x = if reqBase h.f ≤ x ∧ x < reqBase h.f + h.f.payload.length
        then h.f.payload.getD (x - reqBase h.f) 0 else byteAt s.mem x) ∧
    (∃ t, exec (.homeStore pos) s = .next t ∧ t = ((s.takeIn pos).performWrite h.f).homeAnswer h Status.ok ((s.takeIn pos).loadIndicator h) []))

/-- An atomic of a NORMAL range in HBM whose word is not poisoned replaces the word by the new value of its operation, leaves
every other byte, and is answered with OK and the old value. CAS.OWN at the home of its flag: with another old value it
answers that value and changes no byte; with the compare value it writes the word, enters the new owner into the owner table
(a read of the flag that is under way is repeated), and tells every serving peer before it answers. -/
def Obligations.HomeAtomics : Prop :=
  (∀ (s : State) (pos : Nat) (h : HReq),
    (s.servesAtomic pos 0 h → exec (.atomicAdd (.home pos)) s = .next (s.atomicServed pos h)) ∧
    (s.servesAtomic pos 1 h → exec (.atomicMin (.home pos)) s = .next (s.atomicServed pos h)) ∧
    (s.servesAtomic pos 2 h → exec (.atomicMax (.home pos)) s = .next (s.atomicServed pos h)) ∧
    (s.servesAtomic pos 3 h → exec (.atomicAnd (.home pos)) s = .next (s.atomicServed pos h)) ∧
    (s.servesAtomic pos 4 h → exec (.atomicOr (.home pos)) s = .next (s.atomicServed pos h)) ∧
    (s.servesAtomic pos 5 h → exec (.atomicXor (.home pos)) s = .next (s.atomicServed pos h)) ∧
    (s.servesAtomic pos 6 h → exec (.atomicSwap (.home pos)) s = .next (s.atomicServed pos h)) ∧
    (s.servesAtomic pos 7 h → exec (.atomicCas (.home pos)) s = .next (s.atomicServed pos h))) ∧
  (∀ (s : State) (pos : Nat) (h : HReq) (sub : Nat), s.memOk → sub ≤ 7 → s.servesAtomic pos sub h →
    ∀ x, byteAt ((s.takeIn pos).performAtomic h.f).mem x =
      if fpaLocal h.f.fpa ≤ x ∧ x < fpaLocal h.f.fpa + atomBytes h.f
      then (leBytes (atomBytes h.f) (atomNew sub (8 * atomBytes h.f) (s.atomOld h.f) (atomOperand h.f) (atomCompare h.f))).getD
        (x - fpaLocal h.f.fpa) 0
      else byteAt s.mem x) ∧
  (∀ (s : State) (pos : Nat) (h : HReq), s.servesHere pos (fun f => isAtomic f && !hostCoh f && atomSub f = 7 && (f.op = 0x48) = true) h →
    (s.takeIn pos).spanPoisoned (fpaLocal h.f.fpa) 8 = false →
    (s.atomOld h.f ≠ atomCompare h.f → exec (.casOwn (.home pos)) s = .next ((s.takeIn pos).homeAnswer h Status.ok
      ((s.takeIn pos).loadIndicator h) (leBytes 8 (s.atomOld h.f))).settleAll) ∧
    (s.atomOld h.f = atomCompare h.f → ∃ t u, exec (.casOwn (.home pos)) s = .next u.settleAll ∧
      t = ((s.takeIn pos).performAtomic h.f).ownerNews h.f.fpa (bits (atomOperand h.f) 31 16) (bits (atomOperand h.f) 15 0) ∧
      u = ((t.each (s.takeIn pos).servingPeers fun t d => t.ownerUpdateTo d h.f.fpa (atomOperand h.f)).mapHome fun x => { x with
        cas := x.cas ++ [⟨h, s.atomOld h.f, (s.takeIn pos).servingPeers⟩] }).casSettle))

/-- The new values of the atomics, on words of 32 and 64 bits: ADD wraps, MIN and MAX compare as two's complement, AND, OR and XOR
work bit by bit, SWAP takes the operand, CAS takes it when the old value equals the compare value. -/
def Obligations.AtomicNewValues : Prop :=
  ∀ (w : Nat), w = 32 ∨ w = 64 → ∀ a b c : BitVec w,
    atomNew 0 w a.toNat b.toNat c.toNat = (a + b).toNat ∧
    atomNew 1 w a.toNat b.toNat c.toNat = (if b.slt a then b else a).toNat ∧
    atomNew 2 w a.toNat b.toNat c.toNat = (if a.slt b then b else a).toNat ∧
    atomNew 3 w a.toNat b.toNat c.toNat = (a &&& b).toNat ∧
    atomNew 4 w a.toNat b.toNat c.toNat = (a ||| b).toNat ∧
    atomNew 5 w a.toNat b.toNat c.toNat = (a ^^^ b).toNat ∧
    atomNew 6 w a.toNat b.toNat c.toNat = b.toNat ∧
    atomNew 7 w a.toNat b.toNat c.toNat = (if a = c then b else a).toNat

/-- Hints, the owner table and mirrors at their home: a HINT of owned HBM has no effect, is counted and answers OK, one of an
expander acts on its frames; a flag word is answered to an owner-table read; the response of that read goes to the held
writes; an owner update enters the table and is acknowledged; a mirror write is performed, noted and acknowledged; its
acknowledgement lets the home perform. Requests reissued to a mirror: one whose original home is not lost is held, for 1 ms at
most, and then answered with HOME_LOST; once the home is lost, of a write only the lines that the mirror has not performed are
performed, an atomic that it has performed answers the old value that it holds, and another request is served. Moves of
tier-cache frames: a promotion that succeeds makes the frame resident, a demotion that succeeds takes it out and lets a
promotion that waited for the room begin; one that met errors leaves the data at its source, poisons the lines and is counted.
The fetch of an atomic buffer answers its request. -/
def Obligations.HomeServices : Prop :=
  (∀ (s : State) (pos : Nat) (h : HReq),
    (s.atHome pos (fun f => f.op = 0x52) = some h → (s.takeIn pos).hintRefuses h.f = none →
      (regionOf (fpaLocal h.f.fpa) = .hbm → exec (.homeHintCommand pos) s =
        .next (((s.takeIn pos).bump (K.hintsNoeffect h.f.pid) 1).homeAnswer h Status.ok ((s.takeIn pos).loadIndicator h) [])) ∧
      (∀ n off, regionOf (fpaLocal h.f.fpa) = .expander n off → hintSub h.f ≠ 5 → exec (.homeHintCommand pos) s =
        .next ((((s.takeIn pos).notCold (framesOf (fpaLocal h.f.fpa) (hintLen h.f))).hintFrames (framesOf (fpaLocal h.f.fpa) (hintLen h.f)) (hintSub h.f)).homeAnswer h Status.ok
          ((s.takeIn pos).loadIndicator h) []))) ∧
    (s.atHome pos (fun f => f.op = 0x63) = some h → s.homesServed = true → (s.takeIn pos).spanPoisoned (fpaLocal h.f.fpa) 8 = false →
      exec (.ownerTableRead pos) s = .next ((s.takeIn pos).homeAnswer h Status.ok ((s.takeIn pos).loadIndicator h)
        (fitTo 64 (s.peek (fpaLocal h.f.fpa) 8)))) ∧
    (∀ flag word, (s.home.ownerReads.filter fun a => a = flag).length = 1 →
      exec (.ownerReadResponse flag Status.ok word) s = .next (((s.mapHome fun x => { x with
        ownerReads := x.ownerReads.filter fun a => a ≠ flag, held := x.held.filter fun e => e.why ≠ .ownerRead flag }).ownerPut flag
          (bits word 31 16) (bits word 15 0)).each (s.heldOn flag) fun s e => s.ownerCheck e.h)) ∧
    (∀ src seq flag owner gen, ∃ t : State, exec (.ownerUpdate src seq flag owner gen) s = .next (t.sendAck src
        (((s.peer src).inEpoch).getD 0) [seq]) ∧ t.ownerGet flag = some ⟨flag, owner, gen⟩) ∧
    (s.atHome pos (fun f => f.op = 0x62) = some h → (s.takeIn pos).homeRefuses h.f = none → ∃ t, t = (s.takeIn pos).poke (reqBase h.f)
        (h.f.be % 2 ^ 64) (h.f.payload.take 64) (h.f.status = Status.poison) ∧
      exec (.mirrorWrite pos) s = .next ((t.mirrorNote h.f.origSrc h.f.origSeq h.f.origPepoch (lineOf (reqBase h.f))
        (leNat ((h.f.payload.drop 64).take 8))).homeAnswer h Status.ok (t.loadIndicator h) [])) ∧
    (∀ hid e old, (s.home.held.find? fun e => e.h.hid = hid) = some e → e.why = .mirror old 1 Status.ok →
      exec (.mirrorAck hid Status.ok) s = .next ((s.dropHeld hid).performAnswer e.h).settleAll)) ∧
  (∀ (s : State) (pos : Nat),
    (∀ h, s.home.inq[pos]? = some h → h.f.retry = true → s.peerLost h.f.origHome = false →
      exec (.mirrorRetryRequest pos) s = .next ((s.takeIn pos).hold h .retry)) ∧
    (∀ h t, s.home.inq[pos]? = some h → h.f.retry = true → s.peerLost h.f.origHome = true → h.f.op < 0x52 →
      s.servable { h.f with retry := false, mtype := mtNormal } = true →
      s.lineAhead pos { h.f with retry := false, mtype := mtNormal } = false →
      t = (s.takeIn pos).noteDegraded h.f.pid h.f.origHome →
      t.homeRefuses { h.f with retry := false, mtype := mtNormal } = none →
      (∀ m, t.mirrorDup h.f = some m → isAtomic h.f = false → exec (.mirrorRetryRequest pos) s =
        .next ((t.performRest { h.f with retry := false, mtype := mtNormal } m.lines).homeAnswer h Status.ok (t.loadIndicator h) [])) ∧
      (∀ m, t.mirrorDup h.f = some m → isAtomic h.f = true → exec (.mirrorRetryRequest pos) s =
        .next (t.homeAnswer h Status.ok (t.loadIndicator h) (leBytes (atomBytes h.f) m.old)))) ∧
    (∀ h t, s.home.inq[pos]? = some h → h.f.retry = true → s.peerLost h.f.origHome = true → h.f.op < 0x52 →
      s.servable { h.f with retry := false, mtype := mtNormal } = true →
      s.lineAhead pos { h.f with retry := false, mtype := mtNormal } = false →
      t = (s.takeIn pos).noteDegraded h.f.pid h.f.origHome → t.mirrorDup h.f = none →
      t.homeRefuses { h.f with retry := false, mtype := mtNormal } = none →
      exec (.mirrorRetryRequest pos) s = .next (t.serve { h with f := { h.f with retry := false, mtype := mtNormal } })) ∧
    (∀ e, s.home.held[pos]? = some e → e.why = .retry → e.h.since + 1250000 ≤ s.now →
      exec (.mirrorRetryHoldExpiry pos) s = .next ((s.dropHeld e.h.hid).homeAnswer e.h Status.homeLost (s.loadIndicator e.h) [])) ∧
    (∀ e, s.home.held[pos]? = some e → s.now < e.h.since + 1250000 → exec (.mirrorRetryHoldExpiry pos) s = .next s)) ∧
  (∀ s : State,
    (∀ frame t, s.tierOf frame = some t → t.moving ≠ 0 → t.victim = none →
      exec (.tierFrameMoveComplete frame []) s = .next ((if t.moving = 1 then s.tierStay frame
        else (s.tierGone frame).victimGone frame).moveEnds frame).settleAll ∧
      ((∀ e ∈ s.home.held, e.why ≠ .moved frame) → (∀ b ∈ s.home.backs, b.1 / 1024 ≠ frame) → s.home.cold = [] →
        (∃ u : State, exec (.tierFrameMoveComplete frame []) s = .next u.settleAll ∧ u.mem = s.mem ∧ u.poison = s.poison ∧
          (t.moving = 1 → ∀ v ∈ u.home.tier, v.frame = frame → v.moving = 0) ∧
          (t.moving = 2 → ∀ v ∈ u.home.tier, v.frame ≠ frame ∧ v.victim ≠ some frame)) ∧
        (∀ l bad, l / 1024 = frame → l ∈ bad → ∃ u : State, exec (.tierFrameMoveComplete frame bad) s = .next u.settleAll ∧
          u.poisoned l = true ∧ u.rd K.tierMoveErrors = (s.rd K.tierMoveErrors + 1) % 2 ^ 32 ∧
          (t.moving = 1 → ∀ v ∈ u.home.tier, v.frame ≠ frame)))) ∧
    (∀ line st data t, s.req.txs.find? (fetchesLine line) = some t →
      exec (.atomicBufferFetchComplete line st data) s = .next (s.respond t.id 0 (statusSeen st) 0 data false).settleAll))

/-- Host-coherent lines: a host's read of a line that no other host holds takes S, or M when it asks for it, and is then read;
when the directory calls for a recall the request waits on it; a recall that reaches a sharer's module becomes a snoop of its
host, under the HPA by which it knows the line; the last answer of a snoop ends the recall with the line's data; after 50 µs
every access that waits on the line ends with TIMEOUT, which is counted, and the entry stays. A host is declared lost by the operator, its link or the loss of its module, once; its recalls
end and a sweep begins, whose end writes the report and counts it. -/
def Obligations.HostsAtTheHome : Prop :=
  (∀ s : State,
    (∀ pos h t, s.atHome pos hostCoh = some h → isRead h.f = true → (s.takeIn pos).homeRefuses h.f = none →
      s.home.lostHosts.testBit (4 * h.f.src + h.f.context % 4) = false →
      (s.takeIn pos).expanderDown (reqBase h.f) = none → t = (s.takeIn pos).dirResolve (lineOf (reqBase h.f)) →
      (t.recallNeed (lineOf (reqBase h.f)) (4 * h.f.src + h.f.context % 4) h.f.lastPart = none → t.dirFull (lineOf (reqBase h.f)) = none →
        exec (.hostCoherentRequest pos) s = .next ((t.dirGrant (lineOf (reqBase h.f)) (4 * h.f.src + h.f.context % 4) h.f.pid
          h.f.lastPart).homeRead h false)) ∧
      (∀ hosts inv, t.recallNeed (lineOf (reqBase h.f)) (4 * h.f.src + h.f.context % 4) h.f.lastPart = some (hosts, inv) →
        exec (.hostCoherentRequest pos) s = .next (t.waitRecalls h [(lineOf (reqBase h.f), hosts, inv)]))) ∧
    (∀ src cp line inv, ∃ t, exec (.directoryRecall src cp line inv) s = .next t ∧
      t.out = s.out ++ [.snoop (cp % 4) line (s.snoopHpa (cp % 4) line) inv]) ∧
    (∀ line host data r, line / 2 ^ 45 = s.mid → (s.home.recalls.find? fun r => r.line = line % 2 ^ 45) = some r →
      r.hosts.testBit host = true → clrBit r.hosts host = 0 → data.length = 64 → s.frameMoving (line % 2 ^ 45 * 64) = false →
      ∃ t, exec (.recallResponse line host data) s = .next t ∧ t.mem = (s.store (line % 2 ^ 45 * 64) data).mem ∧
        (∀ r ∈ t.home.recalls, r.line ≠ line % 2 ^ 45) ∧ ∀ e ∈ t.home.held, e.awaits (line % 2 ^ 45) = false) ∧
    (∀ line r, (s.home.recalls.find? fun r => r.line = line) = some r → r.since + 62500 ≤ s.now →
      exec (.recallTimeout line) s = .next (((s.mapHome fun x => { x with
        recalls := x.recalls.filter fun r => r.line ≠ line, held := x.held.filter fun e => !e.awaits line
        backs := x.backs.filter fun b => b.1 ≠ line }).bump K.recallTimeouts 1).each (s.home.held.filter fun e => e.awaits line)
          fun s e => s.homeAnswer e.h Status.timeout (s.loadIndicator e.h) []) ∧
      ∀ t, exec (.recallTimeout line) s = .next t → t.home.dir = s.home.dir ∧ t.mem = s.mem)) ∧
  (∀ (s : State) (mid cp : Nat),
    (s.home.lostHosts.testBit (4 * mid + cp) = false →
      (∀ c, c = .link ∨ c = .moduleLost → ∃ t, exec (.hostLost c mid cp) s = .next t ∧ t.home.lostHosts.testBit (4 * mid + cp) = true ∧
        t.home.sweeps.length = s.home.sweeps.length + 1) ∧
      (∀ o, s.allows o K.hostLost 0 = true → mid < s.meshN → cp < 4 →
        exec (.hostLost (.write o) mid cp) s = .next ((s.loseHost mid cp 0).reply o Status.ok false []))) ∧
    (s.home.lostHosts.testBit (4 * mid + cp) = true → exec (.hostLost .link mid cp) s = .next s) ∧
    (∀ w, (s.home.sweeps.find? fun w => w.mid = mid && w.cp = cp) = some w → ∃ t, exec (.hostLossSweepEnd mid cp) s = .next t ∧
      t.rd K.hlReports = (s.rd K.hlReports + 1) % 2 ^ 32 ∧ t.rd K.hlLast = leNat (sweepReport w s.now) ∧
      (∀ v ∈ t.home.sweeps, ¬(v.mid = mid ∧ v.cp = cp)) ∧ t.mem = s.mem))

/-- Frames in the switch core: a header that passes its check, of a class that the module's state admits and within the credits of
its ingress, is looked up and its copies enter the core; another has no effect. A good tail finishes the copies that run; one with
a failed FEC, hop check, link tag or a bad mark discards those that have not started, also at a die bridge. A frame at its destination:
one whose payload check fails is counted and dropped, one of an undefined operation is counted and dropped, and one that
passes its checks and that the window takes as new is performed. Arbitration: an egress that is free starts the frame whose
turn it is; class 0 comes before all others where no gate is open; in an open gate only frames that the gate passes, and that
end by its closing edge, start. -/
def Obligations.HeadersAndFrames : Prop :=
  (∀ s : State,
    (∀ ingress f seen r egrs, s.fabricOn ingress = true → s.classIn f.tc = true → f.hchk = f.hchkOf →
      s.hasCredit ingress f.tc f.cells = true →
      r = (s.setFp ingress fun p => { p with keyIn := p.keyIn + 1 }).mirSelectAll 0 ingress ingress f → r.1.egrsFor f = some egrs →
      (f.dst = r.1.mid ∨ r.1.fabricOn (r.1.portTo f.dst) = true) →
      exec (.frameHeaderArrival ingress f seen) s =
        .next (((r.1.coreIn ingress f egrs 0 r.2 none seen).ungatedRaise f egrs)).settleCells) ∧
    (∀ ingress f seen, f.hchk ≠ f.hchkOf ∨ s.classIn f.tc = false ∨ s.hasCredit ingress f.tc f.cells = false →
      exec (.frameHeaderArrival ingress f seen) s = .next s) ∧
    (∀ id c, (s.sw.frames.find? fun c => c.id = id) = some c → c.tail = 0 →
      (s.lateFrame c = false → exec (.frameTailArrival id .good true false) s = .next (s.goodTail c)) ∧
      (∀ marked, s.lateFrame c = false → exec (.frameTailArrival id .fec true marked) s =
        .next ((s.fecNote c false).badTail c).settleCells) ∧
      (∀ marked, s.lateFrame c = false → exec (.frameTailArrival id .check true marked) s = .next (s.badTail c).settleCells) ∧
      (s.lateFrame c = false → exec (.frameTailArrival id .good true true) s = .next (s.badTail c).settleCells) ∧
      (∀ hop marked, exec (.frameTailArrival id hop false marked) s =
        .next (((s.lateNote c.f.pid).fecNote c (decide (hop ≠ .fec))).badTail c).settleCells)) ∧
    (∀ id c, (s.sw.frames.find? fun c => c.id = id) = some c → c.tail = 1 → 16 ≤ c.ingress → c.ingress < 24 → c.started = [] →
      c.parked = false → exec (.frameTailArrival id .good true true) s = .next (s.badTail c).settleCells)) ∧
  (∀ (s : State) (id e : Nat) (c : CoreFrame), (s.sw.frames.find? fun c => c.id = id) = some c → c.tail = 1 →
    (c.started.find? fun e => decide (16 ≤ e)) = some e →
    (c.f.ecrc ≠ c.f.ecrcOf → exec (.frameDelivery id) s = .next ((s.bump K.e2eCrcFails 1).dropCopies id)) ∧
    (c.f.ecrc = c.f.ecrcOf → c.f.opOk = false → exec (.frameDelivery id) s = .next ((s.bump K.staleDrops 1).dropCopies id)) ∧
    (c.f.ecrc = c.f.ecrcOf → c.f.opOk = true → c.judged = false →
      (genChecked c.f = true → c.f.src ≠ s.mid → c.f.gen = s.rd K.routeGen) →
      (s.setCore id fun d => { d with started := d.started.erase e, judged := true }).goesOn c.f = true →
      exec (.frameDelivery id) s = .next ((((s.setCore id fun d => { d with started := d.started.erase e, judged := true }).coreOut
        id).targetFrame c.f e c.loc).settleAll).settleCells)) ∧
  (∀ (s : State) (e : Nat) (seen : NMap),
    (∀ s1 c, s.egressFree e = true → s.arbitrate e = (s1, some c) →
      exec (.egressArbitration e seen) s = .next (s1.startCopy e c seen).settleCells) ∧
    (∀ s1, s.egressFree e = true → s.arbitrate e = (s1, none) → exec (.egressArbitration e seen) s = .next s1) ∧
    (s.openGate e = none → ∀ c, s.turn e 0 = some c → s.arbitrate e = (s, some c)) ∧
    (∀ g s1 c, s.openGate e = some g → s.arbitrate e = (s1, some c) → s1 = s ∧ s.gatePasses g c.f = true ∧ c.f.tc = 1 ∧
      s.now + s.cellTicks e c.cells ≤ g.closeAt ∧ c ∈ s.sw.frames))

/-- The duplicate window: a frame of another epoch is stale; one that is at most 2^23 - 1 numbers ahead of the highest is new; one
that lies 4,096 or more behind it is below the window; else it is a duplicate exactly when its number is recorded. -/
def Obligations.DuplicateWindow : Prop :=
  ∀ (p : Peer) (f : Frame), p.high < 2 ^ 24 → f.seq < 2 ^ 24 →
    (p.inEpoch ≠ some f.pepoch → p.judge f = .stale) ∧
    (p.inEpoch = some f.pepoch → ∀ k, 0 < k → k < 2 ^ 23 → f.seq = (p.high + k) % 2 ^ 24 → p.judge f = .fresh) ∧
    (p.inEpoch = some f.pepoch → ∀ k, 4096 ≤ k → k ≤ 2 ^ 23 → p.high = (f.seq + k) % 2 ^ 24 → p.judge f = .below) ∧
    (p.inEpoch = some f.pepoch → ∀ k, k < 4096 → p.high = (f.seq + k) % 2 ^ 24 →
      (∀ w, (p.win.find? fun w => w.seq = f.seq) = some w → p.judge f = .dup w) ∧
      ((p.win.find? fun w => w.seq = f.seq) = none → p.judge f = .fresh))

/-- The tile-buffer cache takes 256 pointers from the ring below 256, each of which is checked, and gives 256 back above 896; parking
moves a frame's cells into buffers of its partition's quota and frees the cells that it alone holds, unparking takes cells and
gives the buffers back. Mirror sessions and the analysis port: a new mode
starts the session's sample counter at 0; the port takes a port that may serve, and none other, once it is committed. -/
def Obligations.BuffersAndMirrors : Prop :=
  (∀ s : State,
    (s.sw.tbCache.length < 256 → exec .tbufCacheRefill s =
      .next ((((((s.mapSw fun x => { x with tbRing := (ringTake 256 s.sw.tbRing).2 }).clearSeen (ringTake 256 s.sw.tbRing).1).each
        (ringTake 256 s.sw.tbRing).1 fun y b => y.cacheBuf (s.ringRead b)).noteFree).pumpAll).settleAll)) ∧
    (∀ b, (∀ e ∈ s.sw.ringSeen, e.1 ≠ b) → s.ringRead b = s.rd K.tbufBase + 4096 * b) ∧
    (∀ v b, s.ringBuf v = some b → s.bufRefs b = 0 → s.sw.tbCache.contains b = false →
      s.cacheBuf v = s.mapSw fun x => { x with tbCache := x.tbCache ++ [b] }) ∧
    (∀ v, s.ringBuf v = none → s.cacheBuf v = s.tbufError (v / 4096)) ∧
    (896 < s.sw.tbCache.length → exec .tbufCacheRefill s = .next ((s.clearSeen (s.sw.tbCache.take 256)).mapSw fun x => { x with
      tbCache := x.tbCache.drop 256, tbRing := x.tbRing ++ (x.tbCache.take 256).map fun b => (b, 1) })) ∧
    (256 ≤ s.sw.tbCache.length → s.sw.tbCache.length ≤ 896 → exec .tbufCacheRefill s = .next s) ∧
    (∀ id c s1 bs s2, (s.sw.frames.find? fun c => c.id = id) = some c → s.belowMark c.quad 1 = true →
      (s.sw.frames.find? fun d => d.quad = c.quad && d.parkable s.now) = some c →
      s.takeBufs c.f.pid (cdiv c.cells 16) = .got s1 bs →
      s2 = (s1.setCore id fun d => { d with parked := true, bufs := bs, ptrs := [] }).pushCells c.quad (s1.ownCells c) [] →
      exec (.framePark id) s = .next (((((s2.returnCredit c.ingress c.f.tc (s1.ownCells c).length).bump K.framesParked 1).quadEv c.quad
        0x109 c.f.pid 1).pumpSources).settleCells)) ∧
    (∀ id c, (s.sw.frames.find? fun c => c.id = id) = some c → s.takeBufs c.f.pid (cdiv c.cells 16) = .wait →
      exec (.framePark id) s = .next s) ∧
    (∀ id c s1 r, (s.sw.frames.find? fun c => c.id = id) = some c → c.parked = true → s.rd K.wm2 < s.freeCells c.quad →
      s.mayUnpark c = true → s1 = (s.setCore id fun d => { d with parked := false, bufs := [] }).giveBufs c.f.pid c.bufs →
      r = s1.takeCells c.quad c.cells [] →
      exec (.frameUnpark id) s = .next (((r.1.setCore id fun d => { d with ptrs := r.2 }).quadEv c.quad 0x10A c.f.pid 1).settleCells)) ∧
    (∀ n l, n ≤ (l.map Prod.snd).sum → (ringTake n l).1.length = n)) ∧
  (∀ (s : State) (o : Origin),
    (∀ n v, n < 8 → v < 5 → s.allows o (K.mirMode n) 0 = true → ∃ t, exec (.mirrorSessionMode o n v) s = .next t ∧
      t.rd (K.mirMode n) = v ∧ t.sw.sample = mdel s.sw.sample n) ∧
    (∀ v s1 c, s.allows o K.analysisPort 0 = true → s.settle o ((s.senderPid o).getD 0) K.analysisPort 0 v = (s1, v, c) →
      (s1.analysisOk v = true → ∃ t, exec (.analysisPort o v) s = .next t ∧ t.rd K.analysisPort = v ∧
        (s.meshN ≤ 16 → (s.lnk.fp.map FPort.n = List.range 16) → (t.fport 15).laser = (decide (v = 15) && t.fabricLive))) ∧
      (s1.analysisOk v = false → exec (.analysisPort o v) s = .next (s.reply o Status.refused false []))))

/-- Acknowledgements and timers: an ACK closes what it names; a request that has been held for 2 µs is acknowledged once; an
acknowledged request asks again every 100 µs and uses up no attempt; an attempt without an answer after 8 µs fails, and the
fourth failure exhausts the frame's budget. The resend order of a frame: its original path first, then the others of 0, 1 and
2 in ascending order, each once. -/
def Obligations.Redelivery : Prop :=
  (∀ s : State,
    (∀ src seqs, exec (.ackArrival src seqs) s = .next (s.acked src seqs).settleAll) ∧
    (∀ pos h, s.homeReqs[pos]? = some h → h.loc = none → h.f.src ≠ s.mid → h.acked = false → h.since + 2500 ≤ s.now →
      exec (.heldRequestAck pos) s = .next ((s.markAcked h.hid).sendAck h.f.src h.f.pepoch [h.f.seq])) ∧
    (∀ dst seq o, s.openFrame dst seq = some o → o.acked = true → o.f.kind = kReq → o.sentAt + 125000 ≤ s.now → ∃ (t : State) (u : OpenFrame),
      exec (.ackedRequestQuery dst seq) s = .next (t.setOpen dst u) ∧ u.tries = o.tries ∧ u.seq = o.seq ∧ u.sentAt = s.now) ∧
    (∀ dst seq o, s.openFrame dst seq = some o → o.acked = false → o.sentAt + 10000 ≤ s.now →
      (o.tries < 3 → exec (.resendTimerExpiry dst seq) s = .next (s.resend o).settleAll) ∧
      (3 ≤ o.tries → exec (.resendTimerExpiry dst seq) s = .next (s.exhausted o).settleAll))) ∧
  (∀ orig, orig < 3 → (resendOrder orig).head? = some orig ∧ (resendOrder orig).length = 3 ∧ (∀ p, p ∈ resendOrder orig ↔ p < 3) ∧
    (resendOrder orig).tail.Pairwise (· < ·))

/-- Links between modules: keep-alives go out on every trained port, a port without one and a port without light take their link
out, a notice of a peer is taken, a peer that stays masked for 20 µs without a better report is declared lost. Notices of
peers: a closing notice closes an ACTIVE partition other than PID 0, an abort notice aborts the flow, a credit return gives
the producer its credit. A change of route tables: ROUTE_DRAIN starts a drain and is answered when it is complete, OK, or
after 40 µs, TIMEOUT; a ROUTE_SWAP of a drained module, 100 µs to 10 ms ahead, is taken and any other is refused; at its time
the pending bank becomes active and GEN inverts; without a swap the drain ends after 1 ms; ROUTE_DEFAULT loads the defaults. -/
def Obligations.PeersAndRoutes : Prop :=
  (∀ s : State,
    exec .keepaliveSend s = .next (((s.each ((List.range 16).filter s.fpTrained) State.keepFp).each ((List.range 16).filter s.apTrained)
      State.keepAp).analysisKeep) ∧
    (∀ port, port < 16 → s.fpTrained port = true → exec (.keepaliveTimeout port) s = .next (s.portMasked port 1).settleAll) ∧
    (∀ port s1, port < 16 → s.analysis ≠ some port → s1 = (s.setFp port fun p => { p with light := false }) →
      (s.rd (K.fpState port) = psHeld ∨ s.rd (K.fpState port) = psDark → exec (.lossOfLight port) s = .next s1) ∧
      (s.rd (K.fpState port) ≠ psHeld → s.rd (K.fpState port) ≠ psDark →
        exec (.lossOfLight port) s = .next (s1.fpDown port psDark 0 (s1.fport port).laser).settleAll)) ∧
    (∀ n, s.isPeer n.src = true → exec (.linkStateNotice n) s = .next ((s.noticeIn n).judgeLock).settleAll) ∧
    (∀ mid, s.isPeer mid = true → s.masked mid = true → s.peerLost mid = false → (s.peer mid).maskAt + 25000 ≤ s.now →
      (s.peer mid).unmaskedAt + 25000 ≤ s.now → exec (.peerLossTimeout mid) s = .next ((s.declareLost mid).judgeLock).settleAll)) ∧
  (∀ (s : State) (src pid flow : Nat), s.isPeer src = true →
    (pid ≠ 0 → pid < 64 → s.pstate pid = 1 → exec (.closingNotice src pid) s = .next (s.closePart pid)) ∧
    (∀ status station time, exec (.abortNotice src pid flow status station time) s =
      .next (s.abortFlow pid flow (statusSeen status) src station time false).settleAll) ∧
    (∀ sid consumer free c, ((s.strmGet pid flow sid).bind fun t => t.cons? consumer) = some c → c.mid = src →
      exec (.creditReturn src pid flow sid consumer free) s = .next (s.creditIn pid flow sid consumer free))) ∧
  (∀ (s : State) (o : Origin),
    (s.allows o K.routeDrain 0 = true → s.rd K.routeState = 0 → ∃ t, exec (.routeDrain o 1) s = .next t ∧ t.rd K.routeState = 1 ∧
      t.dlv.drainAt = s.now ∧ t.dlv.drainBy = some o ∧ s.sameBut [.od, .dlv] t) ∧
    (s.rd K.routeState = 1 → s.drainDone = true → s.dlv.drainBy = some o → exec .routeDrained s =
      .next (((s.wr K.routeState 2).mapDlv fun v => { v with drainedAt := s.now, drainBy := none }).reply o Status.ok false [])) ∧
    (s.rd K.routeState = 1 → s.dlv.drainAt + 50000 ≤ s.now → s.dlv.drainBy = some o →
      exec .routeDrainTimeout s = .next (s.endDrain.reply o Status.timeout false [])) ∧
    (∀ ts, s.allows o K.routeSwap 0 = true →
      (s.rd K.routeState = 2 ∧ (s.life.mstate ≠ .shadow ∨ s.rd K.shadowResult = 2) ∧ s.now + 125000 ≤ ts ∧ ts ≤ s.now + 12500000 →
        exec (.routeSwap o ts) s = .next ((s.mapDlv fun v => { v with swapAt := some ts }).reply o Status.ok false [])) ∧
      (¬(s.rd K.routeState = 2 ∧ s.now + 125000 ≤ ts ∧ ts ≤ s.now + 12500000) →
        exec (.routeSwap o ts) s = .next (s.reply o Status.refused false []))) ∧
    (∀ ts s1, s.dlv.swapAt = some ts → ts ≤ s.now → s.life.mstate ≠ .shadow →
      s1 = (s.swapBanks).wr K.routeGen (1 - s.rd K.routeGen % 2) →
      exec .routeSwitch s = .next ((s1.endDrain).notices).settleAll ∧ s1.rd K.routeGen = 1 - s.rd K.routeGen % 2 ∧
      ∀ d, d < 17 → s1.rd (K.via1Active d) = s.viaRd (K.via1Pending d) d false ∧ s1.rd (K.via2Active d) = s.viaRd (K.via2Pending d) d true) ∧
    (s.rd K.routeState = 2 → s.dlv.swapAt = none → s.dlv.drainedAt + 1250000 ≤ s.now → exec .routeSwapTimeout s = .next s.endDrain) ∧
    (s.allows o K.routeDefault 0 = true → exec (.routeDefault o 1) s = .next ((s.defaultVias.touchRetained).reply o Status.ok false [])) ∧
    (s.allows o K.routeDefault 0 = true → exec (.routeDefault o 0) s = .next (s.reply o Status.ok false [])))

/-- Training: a dark port that may train begins phase 1 and sends its own record; one without the light of a peer stays dark and sends
its light; an attach bond trains after its DC check on the lanes that are sound. The third failed phase holds a port with
TRAIN_FAIL, an earlier one starts it again from phase 1; a port so held tries again after 10 s; when the phases have passed the port comes up. The record of the
neighbour: one with a good check value that names the module and port which the cabling demands lets the training go on;
another holds the port with the first reason of the list MISWIRED, STEPPING, DUPLICATE, IDENTITY that applies. The lanes of an
attach port may come in order or wholly reversed, any other order is MISWIRED; a design's link parameters must name version 1,
its role and the minimum credits. -/
def Obligations.PortsTrain : Prop :=
  (∀ (s : State) (n : Nat), n < 16 →
    (s.fpMayTrain n = true → s.rd (K.fpState n) = psDark →
      exec (.portTrainingStart (.fp n)) s = .next ((s.fpStart n 1).setFp n fun q => { q with fails := 0 })) ∧
    (s.rd (K.fpState n) = psDark → (s.fport n).light = false → s.fpLit n = true → s.lnk.qualRun = false →
      exec (.portTrainingStart (.fp n)) s = .next (s.setFp n fun q => { q with laser := true })) ∧
    (∃ t : State, s.fpStart n 1 = t.emit (.identity n (s.ownIdentity n).1 (s.ownIdentity n).2) ∧ t.rd (K.fpState n) = psTraining) ∧
    (∀ dc, s.apMayTrain n = true → s.rd (K.apState n) = psDark →
      ((s.dcCheck n dc).widest n ≠ [] → exec (.portTrainingStart (.ap n dc)) s =
        .next (((s.dcCheck n dc).apStart n 1).setAp n fun q => { q with fails := 0 })) ∧
      ((s.dcCheck n dc).widest n = [] → exec (.portTrainingStart (.ap n dc)) s = .next (s.dcCheck n dc))) ∧
    (s.rd (K.fpState n) = psTraining → (s.fport n).light = true → (s.fport n).fails < 2 →
      exec (.trainingPhaseFail (.fp n)) s = .next (s.setFp n fun q => { q with fails := q.fails + 1, phase := 1 })) ∧
    (s.rd (K.fpState n) = psTraining → (s.fport n).light = true → 2 ≤ (s.fport n).fails →
      exec (.trainingPhaseFail (.fp n)) s = .next ((s.fpHold n hrTrainFail).setFp n fun q => { q with fails := 0 })) ∧
    (s.rd (K.fpState n) = psTraining → (s.fport n).light = false →
      exec (.trainingPhaseFail (.fp n)) s = .next ((s.fpDown n psDark 2 (s.fpLit n)).setFp n fun q => { q with fails := 0 })) ∧
    (s.bondOf n = n → s.rd (K.apState n) = psTraining → 2 ≤ (s.aport n).fails →
      exec (.trainingPhaseFail (.ap n)) s = .next ((s.apHold n hrTrainFail).setAp n fun q => { q with fails := 0 })) ∧
    (s.fpMayTrain n = true → s.rd (K.fpState n) = psHeld → s.rd (K.fpHoldReason n) = hrTrainFail →
      (s.fport n).heldAt + tenSeconds ≤ s.now → exec (.trainFailRetry (.fp n)) s = .next (s.fpStart n 1)) ∧
    (s.apMayTrain n = true → s.rd (K.apState n) = psHeld → s.rd (K.apHoldReason n) = hrTrainFail →
      (s.aport n).heldAt + tenSeconds ≤ s.now → exec (.trainFailRetry (.ap n)) s = .next (s.apStart n 1)) ∧
    (s.rd (K.fpState n) = psTraining → 4 ≤ (s.fport n).phase → exec (.portLinkUp (.fp n)) s = .next (s.fpUp n).settleAll) ∧
    (s.bondOf n = n → s.rd (K.apState n) = psTraining → 4 ≤ (s.aport n).phase → s.widest n ≠ [] →
      exec (.portLinkUp (.ap n)) s = .next (s.apBondUp n).settleAll)) ∧
  (∀ (s : State) (n : Nat), n < 16 →
    (∀ (r : IdRecord) s1, s.rd (K.fpState n) = psTraining → (s.fport n).phase ≤ 3 → r.chk = recordChk (idWords r).1 (idWords r).2 →
      s1 = (s.wr (K.fpNeighbour n) (leNat (wordBytes [(idWords r).1, (idWords r).2]))).setFp n (fun p => { p with
        light := true, peerState := r.mstate }) →
      (r.crossed = 0 → r.stepping = 0xB0 → r.mid ≠ s1.mid → r.mid = s1.midAt n → r.meshN = s1.meshN →
        r.port = (s1.mid + 2 * s1.meshN - r.mid - 1) % s1.meshN →
        exec (.identityRecord n r) s = .next (s1.setFp n fun p => { p with phase := 4 })) ∧
      (r.crossed = 0 → r.stepping ≠ 0xB0 → exec (.identityRecord n r) s = .next (s1.fpHold n hrStepping)) ∧
      (r.crossed = 0 → r.stepping = 0xB0 → r.mid = s1.mid → exec (.identityRecord n r) s = .next (s1.fpHold n hrDuplicate)) ∧
      (r.crossed ≠ 0 → exec (.identityRecord n r) s = .next ((s1.wr (K.fpLaneFailed n) (r.crossed % 2 ^ 17)).fpHold n hrMiswired))) ∧
    (∀ r : CapParams, s.bondOf n = n → s.rd (K.apState n) = psTraining → (s.aport n).phase ≤ 3 →
      r.chk = recordChk (capWord r) (r.w1 / 65536 * 65536) →
      ((∃ l ∈ r.lanes, l.1 ≠ List.range 8 ∧ l.1 ≠ (List.range 8).reverse) →
        exec (.capLinkParameters n r) s = .next (s.apHold n hrMiswired)) ∧
      ((∀ l ∈ r.lanes, l.1 = List.range 8 ∨ l.1 = (List.range 8).reverse) →
        (r.capver = 1 → r.role = 0 → 130 ≤ r.creq → 130 ≤ r.cstrm → 65 ≤ r.cmgmt → exec (.capLinkParameters n r) s =
          .next ((s.takeLanes n r).setAp n fun p => { p with phase := 4, send := [r.creq, r.cstrm, r.cmgmt], outq := [] })) ∧
        (r.capver ≠ 1 ∨ r.role ≠ 0 ∨ r.creq < 130 ∨ r.cstrm < 130 ∨ r.cmgmt < 65 →
          exec (.capLinkParameters n r) s = .next (s.apHold n hrIdentity)))))

/-- Link keys: an agreement with the key on record keys the port, another holds it with IDENTITY; the secret is renewed after 2^40
frames or 24 hours, and the old key goes 100 µs after a renewal. Light that returns retrains a held port; the operator holds
and releases one. Lanes: a failed lane is replaced by the spare, which is then used up; without a spare its group goes, and
the port runs degraded with the rest. A port enters idle when nothing has waited for it for IDLE_AFTER ticks and leaves it with a burst. -/
def Obligations.LinksAtWork : Prop :=
  (∀ (s : State) (n : Nat), n < 16 →
    (∀ h pe ns gen ms, s.fpTrained n = true → (s.fport n).agreeing = true →
      (h = s.rd (K.peerKeys (s.midAt n)) → exec (.linkKeyAgreement n h pe ns gen ms) s = .next (((((s.setFp n fun p => { p with
        keyed := true, agreeing := false, oldKey := p.keyed, keyAt := s.now, keyFrames := 0, keyIn := 0, keyEpoch := p.keyEpoch + 1
        deadPids := [] }).peerStateIs (s.midAt n) ms).takeGen ms gen).adopt (s.midAt n) pe ns).peerReturns (s.midAt n)).settleAll) ∧
      (h ≠ s.rd (K.peerKeys (s.midAt n)) → exec (.linkKeyAgreement n h pe ns gen ms) s = .next (s.fpHold n hrIdentity).settleAll)) ∧
    (s.fpTrained n = true → (s.fport n).keyed = true →
      (2 ^ 40 ≤ (s.fport n).keyFrames ∨ 2 ^ 40 ≤ (s.fport n).keyIn ∨ (s.fport n).keyAt + oneDay ≤ s.now) →
      exec (.portSecretRenewal n) s = .next (s.startAgreement n)) ∧
    ((s.fport n).oldKey = true → (s.fport n).keyAt + 125000 ≤ s.now →
      exec (.linkKeyGraceExpiry n) s = .next (s.setFp n fun p => { p with oldKey := false })) ∧
    (∀ s1, s.analysis ≠ some n → s1 = (s.setFp n fun p => { p with light := true, fails := 0 }) →
      (s1.rd (K.fpState n) = psHeld → s1.fpMayTrain n = true → exec (.lightReturn n) s = .next (s1.fpStart n 1)) ∧
      (s1.rd (K.fpState n) ≠ psHeld → exec (.lightReturn n) s = .next s1)) ∧
    (∀ o, s.allows o (K.fpAdmin n) 0 = true →
      exec (.fpAdmin o n 0) s = .next (((s.wr (K.fpAdmin n) 0).fpHold n hrOperator).settleAll.awaitCommit o false) ∧
      (s.rd (K.fpState n) ≠ psHeld → exec (.fpAdmin o n 1) s = .next ((s.wr (K.fpAdmin n) 1).awaitCommit o false)))) ∧
  (∀ (s : State) (n : Nat), n < 16 →
    (∀ lane k i cause, s.fpTrained n = true → lane ≤ 16 → cause = .signal ∨ (∃ b, cause = .ber b ∧ b ≤ s.rd K.remapBer) →
      ((s.fport n).lanes.findIdx? fun i => i = lane) = some k → s.freeLane n = some i →
      (s.fport n).dayTest = none → s.rd (K.fpSpareMap n) = 0x1F →
      exec (.laneRemap (.fp n) lane cause) s = .next (((s.markLane n lane).moveLane n k i).wr (K.fpSpareMap n) k)) ∧
    (∀ lane k s1, s.fpTrained n = true → s.rd (K.fpSpareMap n) ≠ 0x1F → ((s.fport n).lanes.findIdx? fun i => i = lane) = some k →
      s1 = (s.markLane n lane).wr (K.fpGroups n) (clrBit (s.rd (K.fpGroups n)) (k / 4)) →
      (2 ≤ s1.groupsUp n → exec (.laneGroupDisable (.fp n) lane) s = .next (s1.wr (K.fpState n) psDegraded)) ∧
      (s1.groupsUp n < 2 → exec (.laneGroupDisable (.fp n) lane) s = .next (s1.fpDown n psDark 2 true).settleAll)) ∧
    (s.fpTrained n = true → (s.fport n).idle = false → s.framesFor n = false → s.gateNear n = false →
      nmGet s.sw.waitAt n 0 + s.rd K.idleAfter ≤ s.now →
      exec (.idleEntry (.fp n)) s = .next ((s.emit (.symbol (.fp n) 1 0)).setFp n fun q => { q with idle := true })) ∧
    (s.apTrained n = true → (s.aport n).idle = false → s.mayIdle (16 + s.bondOf n) = true →
      exec (.idleEntry (.ap n)) s = .next ((s.emit (.symbol (.ap n) 1 0)).setAp n fun q => { q with idle := true })) ∧
    ((s.fport n).idle = true → s.mayWakeFp n = true →
      exec (.idleExit (.fp n)) s = .next ((s.emit (.symbol (.fp n) 2 0)).setFp n fun q => { q with idle := false })) ∧
    ((s.aport n).idle = true → s.mayWake (16 + s.bondOf n) = true →
      exec (.idleExit (.ap n)) s = .next ((s.emit (.symbol (.ap n) 2 0)).setAp n fun q => { q with idle := false })))

/-- Transmit taps, test patterns, injection: taps that keep the sum rule are taken, others are refused; a pattern starts only on a
lane that carries no logical lane; injection beyond what stays correctable is refused outside MAINTENANCE. Qualification:
QUAL_NOW in MAINTENANCE takes the fabric ports down and starts a run on all lanes, elsewhere it is refused; the run ends after
its time; the daily check starts at QUAL_PHASE on the spare of every trained fabric port that the module leads, and on the others
with its peer; a lane with more than 10 errors fails. -/
def Obligations.LinkTests : Prop :=
  (∀ (s : State) (o : Origin) (n lane v : Nat), n < 16 → lane < 17 → v < 2 ^ 32 →
    (s.allows o (K.fpTxTaps n lane) 0 = true →
      (tapsOk v = true → v &&& 0x7F000000 = 0 → exec (.txTaps o (.fp n) lane v) s = .next ((s.wr (K.fpTxTaps n lane) v).awaitCommit o false)) ∧
      (tapsOk v = false → exec (.txTaps o (.fp n) lane v) s = .next (s.reply o Status.refused false []))) ∧
    (s.allows o (K.fpPrbsCtrl n) 0 = true → v &&& 0x7FFFFF = 0 → bits v 27 23 < 17 → v.testBit 28 = false →
      (bits v 31 30 = 0 ∨ s.laneInUse (.fp n) (bits v 27 23) = false →
        exec (.prbsCtrl o (.fp n) v) s = .next (((s.keepPrbs (K.fpPrbsCtrl n) (K.fpPrbsErrors n)).wr (K.fpPrbsCtrl n) v).reply o
          Status.ok false [])) ∧
      (bits v 31 30 ≠ 0 → s.laneInUse (.fp n) (bits v 27 23) = true →
        exec (.prbsCtrl o (.fp n) v) s = .next (s.reply o Status.refused false []))) ∧
    (s.allows o (K.fpInject n) 0 = true → bits v 29 25 < 17 → bits v 24 20 ≠ 0 → bits v 19 0 ≠ 0 →
      (s.life.mstate = .maintenance ∨ (bits v 31 30 ≠ 3 ∧ bits v 24 20 ≤ 15) →
        exec (.inject o (.fp n) v) s = .next ((s.wr (K.fpInject n) v).reply o Status.ok false [])) ∧
      (s.life.mstate ≠ .maintenance → (bits v 31 30 = 3 ∨ 15 < bits v 24 20) →
        exec (.inject o (.fp n) v) s = .next (s.reply o Status.refused false [])))) ∧
  (∀ (s : State) (o : Origin),
    (s.allows o K.qualNow 0 = true →
      (s.life.mstate ≠ .maintenance → exec (.qualNow o 1) s = .next (s.reply o Status.refused false [])) ∧
      (s.life.mstate = .maintenance → s.lnk.qualRun = false → ∃ t : State, exec (.qualNow o 1) s = .next ((t.mapLnk fun l => { l with
        qualRun := true }).lightAll.settleAll.reply o Status.ok false []) ∧ t.rd K.qualLast = s.now % 2 ^ 64 ∧
        t.rd K.qualStatus = leNat (List.replicate 32 3))) ∧
    (∀ failed, s.lnk.qualRun = true → s.rd K.qualLast % 2 ^ 64 + qualTicks ≤ s.now → ∃ t, exec (.qualificationEnd failed) s = .next t ∧
      t.lnk.qualRun = false) ∧
    (∀ n, s.unitsOk → n < 16 → s.fpTrained n = true → s.rd (K.fpSpareMap n) = 0x1F → (s.fport n).dayTest = none →
      (s.mid < s.midAt n → s.taiSecond = s.rd K.qualPhase →
        ∃ t, exec .dailyQualification s = .next t ∧ (t.fport n).dayTest = some 16) ∧
      (s.midAt n < s.mid → exec (.laneRemap (.fp n) 16 .daily) s = .next (s.startFpQual n))) ∧
    (s.taiSecond ≠ s.rd K.qualPhase → exec .dailyQualification s = .next s) ∧
    (∀ n i errors, n < 16 → (s.fport n).dayTest = some 16 → s.freeLane n = some i →
      (errors ≤ 10 → exec (.qualLaneTestEnd (.fp n) errors) s = .next (s.testLane n 0)) ∧
      (10 < errors → exec (.qualLaneTestEnd (.fp n) errors) s = .next (((s.markLane n i).wr (K.fpSpareMap n) 0x1E).endRotation n 1 16))) ∧
    (∀ n t errors, n < 16 → (s.aport n).dayTest = some t → t < 7 → errors ≤ 10 →
      exec (.qualLaneTestEnd (.ap n) errors) s = .next (s.setAp n fun q => { q with dayTest := some (t + 1) })))

/-- CXL ports: the link goes down and comes up, a host rejoins, an expander resumes with the serial number it had and stays off
with another until EXP_ENABLE; the host sets its window, its use of CXL.mem, which tells it the capacity, its address translation
service, which holds nothing while it is off, and its back-invalidation. Flits: one with a good check and the number
that is due is accepted, its acknowledgement and credits are taken, and the next number is due; the first bad one of a loss is
answered by a NAK and later ones are dropped; a NAK sends the later flits again; an attach link that goes down takes its bond
down. -/
def Obligations.CxlAndFlits : Prop :=
  (∀ (s : State) (cp : Nat), cp < 4 →
    exec (.cpLinkDown cp) s = .next (s.cpDown cp).settleAll ∧
    (∀ serial bytes link, s.rd (K.cpMode cp) = 1 → s.attachLive = true → (s.cport cp).up = false →
      exec (.cpLinkUp ⟨s.mid, cp⟩ serial bytes link) s = .next ((((s.setCp cp fun p => { p with up := true }).wr (K.cpLink cp)
        (link % 2 ^ 32)).hostBack s.mid cp).advertise cp)) ∧
    (∀ mid serial bytes link, mid ≠ s.mid → s.home.lostHosts.testBit (4 * mid + cp) = true →
      exec (.cpLinkUp ⟨mid, cp⟩ serial bytes link) s = .next (s.hostBack mid cp).settleAll) ∧
    (∀ serial bytes link, s.unitsOk → s.rd (K.cpMode cp) = 2 → s.attachLive = true → (s.cport cp).up = false → serial ≠ 0 →
      ∃ t, exec (.cpLinkUp ⟨s.mid, cp⟩ serial bytes link) s = .next t ∧ (t.cport cp).up = true ∧ t.rd (K.expSerial cp) = serial ∧
        (t.cport cp).expOff = ((s.cport cp).expOff || (s.rd (K.expSerial cp) ≠ 0 && s.rd (K.expSerial cp) ≠ serial))) ∧
    (∀ o, s.allows o (K.expEnable cp) 0 = true →
      exec (.expEnable o cp 1) s = .next ((s.setCp cp fun q => { q with expOff := false }).reply o Status.ok false [])) ∧
    (s.rd (K.cpMode cp) = 1 → (s.cport cp).up = true →
      (∀ v, exec (.cxlMemEnable cp (.hdmBase v)) s = .next (s.wr (K.hdmBase cp) (v % 2 ^ 64))) ∧
      (∀ b, exec (.cxlMemEnable cp (.memOn b)) s = .next ((s.setCp cp fun p => { p with memOn := b }).advertise cp)) ∧
      (∀ b, ∃ t, exec (.cxlMemEnable cp (.ats b)) s = .next t ∧ ∀ e ∈ t.req.ats, e ∈ s.req.ats ∧ (b = false → e.cp ≠ cp)) ∧
      (∀ b, ∃ t, exec (.cxlMemEnable cp (.backInval b)) s = .next t ∧ (t.rd (K.cpLink cp)).testBit 24 = b))) ∧
  (∀ (s : State) (n : Nat) (f : Flit), n < 16 →
    (s.bondOf n = n → s.apTrained n = true →
      (f.fcrc = flitCrc f → bits f.head 63 52 = (s.aport n).rxExpect → f.head.testBit 39 = false → f.head.testBit 38 = false →
        exec (.flitReceived n f) s = .next (((((s.setAp n fun q => { q with rxExpect := (q.rxExpect + 1) % 4096, nakSent := false }).flitCredit
          n (bits f.head 31 16)).flitCredit n (bits f.head 15 0)).flitSend n).settleAll)) ∧
      (f.fcrc ≠ flitCrc f ∨ bits f.head 63 52 ≠ (s.aport n).rxExpect →
        ((s.aport n).nakSent = true → exec (.flitReceived n f) s = .next s) ∧
        ((s.aport n).nakSent = false → exec (.flitReceived n f) s = .next ((s.setAp n fun q => { q with nakSent := true }).emit
          (.flit n (s.aport n).txSeq (((s.aport n).rxExpect + 4095) % 4096) true)))) ∧
      (∀ a, exec (.flitReplay n a) s = .next ((s.flitAck n (a % 4096)).flitResend n).settleAll)) ∧
    exec (.attachLinkDown n) s = .next (s.apDown (s.bondOf n) psDark).settleAll)

/-- Control and scalar instructions: each writes its register, mask, FLAGS, SRAM word or PC and nothing else of the station, and
its slots are counted, after a taken branch also the empty ones; a store into SRAM that the hash unit still absorbs waits;
WAITT waits for its time, and goes on once the time has come. The core first selects the instance (`s`); one whose turn it is
not runs nothing. -/
def Obligations.ScalarInstructions : Prop :=
  ∀ (s0 s : State) (who : InstRef) (i : Inst) (w : Nat), s = s0.selectInst i → w = i.word →
    (s0.canRun who 0x00 i → exec (.nop who) s0 = .next (s.ran i i (i.pc + 1))) ∧
    (s0.canRun who 0x01 i → exec (.li who) s0 = .next (s.ran i (i.xw (iXD w) (iIMM w)) (i.pc + 1))) ∧
    (s0.canRun who 0x02 i → exec (.salu who) s0 = .next (s.ran i (i.xw (iXD w) (saluOp (iSUB w) (i.xr (iXA w))
      ((i.xr (iXB w) + iIMM w) % 2 ^ 64))) (i.pc + 1))) ∧
    (s0.canRun who 0x03 i →
      (brTaken (iSUB w) (i.xr (iXA w)) (i.xr (iXB w)) = false → exec (.br who) s0 = .next (s.ran i i (i.pc + 1))) ∧
      (brTaken (iSUB w) (i.xr (iXA w)) (i.xr (iXB w)) = true → exec (.br who) s0 =
        .next (((s.countRun i i).slots i 1 0x013 Config.branchSlots).commitInst i (iIMM w % 1024)).settleAll)) ∧
    (s0.canRun who 0x04 i → i.sramOk (i.addr w) 8 8 = true →
      exec (.ldp who) s0 = .next (s.ran i (i.xw (iXD w) (leNat (bytesAt i.sram (i.addr w) 8))) (i.pc + 1))) ∧
    (∀ j, s0.canRun who 0x05 i → i.sramOk (i.addr w) 8 1 = true →
      j = { i with sram := bytesSet i.sram (i.addr w) (leBytes 8 (i.xr (iXB w))) } →
      (s.clear i j → exec (.stp who) s0 = .next (s.ran i j (i.pc + 1))) ∧
      (¬s.clear i j → exec (.stp who) s0 = .next s.settleAll)) ∧
    (s0.canRun who 0x07 i → exec (.flg who) s0 = .next (s.ran i { i.xw (iXD w) i.flags with
      flags := i.flags &&& (0xFFFF - iIMM w % 65536) } (i.pc + 1))) ∧
    (s0.canRun who 0x08 i → exec (.rdtime who) s0 = .next (s.ran i (i.xw (iXD w) s.now) (i.pc + 1))) ∧
    (s0.canRun who 0x09 i →
      (i.addr w ≤ s.now → exec (.waitt who) s0 = .next (s.ran i i (i.pc + 1))) ∧
      (s.now < i.addr w → exec (.waitt who) s0 = .next (s.stayed { i with wait := .time (i.addr w) }))) ∧
    (∀ t, s0.instGet who = some i → i.wait = .time t → t ≤ s0.now → s0.running who.pid who.flow = true →
      exec (.waittExpiry who) s0 = .next ((s0.countRun i i).commitInst { i with wait := .none } (i.pc + 1))) ∧
    (s0.canRun who 0x0A i →
      (iSUB w = 0 → exec (.pmask who) s0 = .next (s.ran i (i.pw (iHD w % 8) (rowSpan (i.xr (iXA w)) (i.xr (iXB w)))) (i.pc + 1))) ∧
      (iSUB w = 1 → (i.hget (iHA w)).usable = true → exec (.pmask who) s0 = .next (s.ran i ((i.pw (iHD w % 8)
        ((((s.rowsOf i (i.hget (iHA w))).zip (List.range (s.rowsOf i (i.hget (iHA w))).length)).filter fun e => !allZero e.1.1).foldl
          (fun m e => setBit m e.2) 0)).flag (if (i.hget (iHA w)).poison then fPOI else 0)) (i.pc + 1))) ∧
      (iSUB w = 2 → i.sramOk (i.xr (iXA w)) 32 1 = true →
        exec (.pmask who) s0 = .next (s.ran i (i.pw (iHD w % 8) (leNat (bytesAt i.sram (i.xr (iXA w)) 32))) (i.pc + 1))) ∧
      (iSUB w = 3 → exec (.pmask who) s0 = .next (s.ran i (i.pw (iHD w % 8) (i.pr (iHA w % 8) &&& i.pr (iHB w % 8))) (i.pc + 1))) ∧
      (iSUB w = 4 → exec (.pmask who) s0 = .next (s.ran i (i.pw (iHD w % 8) (i.pr (iHA w % 8) ||| i.pr (iHB w % 8))) (i.pc + 1)))) ∧
    (s0.instGet who = some i → s0.mayRun i = false → s0.starvedOn i = none → exec (.nop who) s0 = .next s0)

/-- What an instruction that goes on leaves, where nothing follows from it: its station has its new values, stands at the new PC
and waits for nothing, and the frame is that of a station: counters, stations and pending counter overflows alone. -/
def Obligations.InstructionFrame : Prop :=
  ∀ (s : State) (i j : Inst) (pc : Nat), s.instGet i.who = some i → j.who = i.who → pc ≠ j.pc → s.settled = true →
    (s.ran i j pc).instGet i.who = some { j with pc := pc % 1024, mism := 0, starved := none } ∧
    s.sameBut [.od, .stn, .mgt] (s.ran i j pc) ∧
    (∀ who, who ≠ i.who → (s.ran i j pc).instGet who = s.instGet who) ∧
    (s.ran i j pc).stn.flows = s.stn.flows ∧ (s.ran i j pc).stn.strms = s.stn.strms

/-- SALU and BR on 64-bit words: sums and differences wrap, shift counts are taken modulo 64, the right shift of code 7 copies the
sign, and the comparisons are signed or unsigned as their names say. Registers of a station: X0 reads 0 and P0 all ones
whatever is written to them; every other register reads what was written, modulo its width, and a write to one leaves the
others. -/
def Obligations.ScalarValues : Prop :=
  (∀ a b : BitVec 64,
    saluOp 0 a.toNat b.toNat = (a + b).toNat ∧ saluOp 1 a.toNat b.toNat = (a - b).toNat ∧
    saluOp 2 a.toNat b.toNat = (a &&& b).toNat ∧ saluOp 3 a.toNat b.toNat = (a ||| b).toNat ∧
    saluOp 4 a.toNat b.toNat = (a ^^^ b).toNat ∧ saluOp 5 a.toNat b.toNat = (a <<< (b.toNat % 64)).toNat ∧
    saluOp 6 a.toNat b.toNat = (a >>> (b.toNat % 64)).toNat ∧ saluOp 7 a.toNat b.toNat = (a.sshiftRight (b.toNat % 64)).toNat ∧
    (brTaken 1 a.toNat b.toNat = true ↔ a = b) ∧ (brTaken 2 a.toNat b.toNat = true ↔ a ≠ b) ∧
    (brTaken 3 a.toNat b.toNat = true ↔ a.toInt < b.toInt) ∧ (brTaken 4 a.toNat b.toNat = true ↔ b.toInt ≤ a.toInt) ∧
    (brTaken 5 a.toNat b.toNat = true ↔ a.toNat < b.toNat) ∧ (brTaken 6 a.toNat b.toNat = true ↔ b.toNat ≤ a.toNat)) ∧
  (∀ (i : Inst) (n m v : Nat),
    (i.xw 0 v = i ∧ i.xr 0 = 0 ∧ i.pw 0 v = i ∧ i.pr 0 = 2 ^ 256 - 1) ∧
    (n ≠ 0 → (i.xw n v).xr n = v % 2 ^ 64 ∧ (i.pw n v).pr n = v % 2 ^ 256) ∧
    (m ≠ n → (i.xw n v).xr m = i.xr m ∧ (i.pw n v).pr m = i.pr m) ∧
    (i.xw n v).pr m = i.pr m ∧ (i.pw n v).xr m = i.xr m ∧ (i.xw n v).sram = i.sram ∧ (i.xw n v).h = i.h)

/-- Streams of a station: GET binds the next tile, or END once it has been taken, or waits; PUT and PEND put a tile or END where
the consumers have credit and room, and wait else; in a station of a collective GET and PUT look at the tile by its rules,
and fail the station with REFUSED where those do; REL gives the tile's credit back and unbinds its handles; HALT ends the
outputs, drains the inputs and is complete when nothing is left. Handles: TNEW makes a local tile of a shape that fits, TVIEW
a part of a tile that lies in it, TSET changes the tag, the poison or a shape that fits, TINFO reads a field, TFILL and TCOPY
write rows. -/
def Obligations.StreamsAndHandles : Prop :=
  (∀ (s0 s : State) (who : InstRef) (i : Inst) (w : Nat), s = s0.selectInst i → w = i.word →
    (∀ st c, s0.canRun who 0x10 i → s.inputOf i (iIMM w % 64) = some (st, c) →
      (∀ t r s1, c.buf = t :: r → s1 = (s.setCons st.pid st.flow st.sid c.idx fun c => { c with
          buf := r, held := c.held ++ [t], finSeen := c.finSeen || t.fin }) →
        (∀ j, s1.colGet i (iIMM w % 64) (Handle.ofInput (iIMM w % 64) t) t = some j → exec (.get who) s0 =
          .next (s1.ran i ((j.hset (iHD w) (Handle.ofInput (iIMM w % 64) t)).xw (iXD w) (b2n t.fin)) (i.pc + 1))) ∧
        (s1.colGet i (iIMM w % 64) (Handle.ofInput (iIMM w % 64) t) t = none →
          exec (.get who) s0 = .next (s.failStation who Status.refused).settleAll) ∧
        (i.col.hdr = [] → s1.colGet i (iIMM w % 64) (Handle.ofInput (iIMM w % 64) t) t = some i)) ∧
      (c.buf = [] → c.finSeen = true → exec (.get who) s0 = .next (s.ran i ((i.hset (iHD w) (Handle.ended (iIMM w % 64))).xw (iXD w) 1)
        (i.pc + 1))) ∧
      (c.buf = [] → c.finSeen = false → i.starved = none →
        exec (.get who) s0 = .next (s.stayed { i with starved := some (iIMM w % 64, 0) }))) ∧
    (∀ st t, s0.canRun who 0x11 i → (i.hget (iHA w)).usable = true → s.outputOf i (iIMM w % 64) = some st → st.fin = false →
      t = s.tileOf i (i.hget (iHA w)) →
      (∀ j k u, s.life.mstate = .shadow ∨ (s.canPut st t = true ∧ s.roomHere st t = true) →
        j = i.flag (if (i.hget (iHA w)).poison then fPOI else 0) →
        (j.colPut t = some (k, u) → exec (.put who) s0 = .next ((s.stnPut i.who st.sid u).ran i (k.spanPut s.now u) (i.pc + 1))) ∧
        (j.colPut t = none → exec (.put who) s0 = .next (s.failStation who Status.refused).settleAll) ∧
        (i.col.hdr = [] → i.span = none → j.colPut t = some (j, t) ∧ j.spanPut s.now t = j)) ∧
      (s.life.mstate ≠ .shadow → s.canPut st t = false ∨ s.roomHere st t = false → exec (.put who) s0 = .next (s.stayed i))) ∧
    (∀ st, s0.canRun who 0x12 i → s.outputOf i (iIMM w % 64) = some st → st.fin = false →
      s.putReady st (Tile.endMark 0) = true → exec (.pend who) s0 = .next ((s.stnPut i.who st.sid (Tile.endMark 0)).ran i i (i.pc + 1))) ∧
    (∀ st c h, s0.canRun who 0x13 i → h = i.hget (iHA w) → h.kind = 1 → h.view = false → s.inputOf i h.input = some (st, c) →
      (c.held.any fun t => t.tnum = h.tnum) = true →
      exec (.rel who) s0 = .next ((s.releaseTile st.pid st.flow st.sid c.idx h.tnum).ran i { i with h := i.h.map fun x =>
        if x.kind = 1 && x.input = h.input && x.tnum = h.tnum then Handle.unbound else x } (i.pc + 1))) ∧
    (∀ t, s0.canRun who 0x06 i → t = ((s.endOutputs i).each (List.range i.ins.length) fun s n => s.drainInput i n 8192) →
      ∃ j, j = { i with halted := true, complete := t.haltDone i, h := List.replicate 16 Handle.unbound } ∧ exec (.halt who) s0 =
        .next (t.stayed { j with starved := (t.starvedOn j).map fun n => (n, (i.starved.filter fun e => e.1 = n).elim 0 Prod.snd) }))) ∧
  (∀ (s0 s : State) (who : InstRef) (i : Inst) (w : Nat) (h : Handle), s = s0.selectInst i → w = i.word →
    (∀ fmt rows rb cap, s0.canRun who 0x14 i → fmt = bits (iIMM w) 35 32 → rows = bits (iIMM w) 43 36 + 1 → rb = (bits (iIMM w) 49 44 + 1) * 64 →
      cap = bits (iIMM w) 31 0 → i.sramOk (i.xr (iXA w)) cap 64 = true → cap % 64 = 0 → cap ≤ 278592 → fmt ≤ 6 →
      packedSize fmt rows rb ≤ cap →
      exec (.tnew who) s0 = .next (s.ran i (i.hset (iHD w) ⟨2, false, fmt, rows, rb, i.xr (iXA w), rb,
        if expRow fmt rb = 0 then 0 else up64 (i.xr (iXA w) + rows * rb), expRow fmt rb, cap, false, 0, false, 0, 0⟩) (i.pc + 1))) ∧
    (∀ r0 n c0 rb, s0.canRun who 0x15 i → h = i.hget (iHA w) → h.usable = true → r0 = bits (iIMM w) 7 0 → n = bits (iIMM w) 15 8 + 1 →
      c0 = bits (iIMM w) 21 16 → rb = (bits (iIMM w) 27 22 + 1) * 64 → r0 + n ≤ h.rows → 64 * c0 + rb ≤ h.rbytes →
      exec (.tview who) s0 = .next (s.ran i (i.hset (iHD w) { h with
        view := true, rows := n, rbytes := rb, base := h.base + (r0 * h.pitch + 64 * c0)
        xbase := h.xbase + r0 * h.xpitch + expRow h.fmt (64 * c0), cap := h.cap - (r0 * h.pitch + 64 * c0) }) (i.pc + 1))) ∧
    (s0.canRun who 0x16 i → h = i.hget (iHD w) → h.kind = 2 →
      (iSUB w = 0 → exec (.tset who) s0 = .next (s.ran i (i.hset (iHD w) { h with tag := i.xr (iXB w) }) (i.pc + 1))) ∧
      (iSUB w = 1 → exec (.tset who) s0 = .next (s.ran i (i.hset (iHD w) { h with poison := (i.xr (iXB w)).testBit 0 }) (i.pc + 1))) ∧
      (∀ g, iSUB w = 2 → g = h.reshape (i.xr (iXB w) % 256 + 1) h.rbytes → packedSize g.fmt g.rows g.rbytes ≤ g.cap →
        exec (.tset who) s0 = .next (s.ran i (i.hset (iHD w) g) (i.pc + 1))) ∧
      (∀ g, iSUB w = 3 → g = h.reshape h.rows ((i.xr (iXB w) % 64 + 1) * 64) → packedSize g.fmt g.rows g.rbytes ≤ g.cap →
        exec (.tset who) s0 = .next (s.ran i (i.hset (iHD w) g) (i.pc + 1)))) ∧
    (s0.canRun who 0x17 i → h = i.hget (iHA w) → h.usable = true →
      ∀ p ∈ [(0, h.rows), (1, h.rbytes), (2, h.fmt), (3, h.tag), (4, b2n h.poison), (5, b2n h.fin), (6, h.tnum), (7, h.cap)],
        iSUB w = p.1 → exec (.tinfo who) s0 = .next (s.ran i (i.xw (iXD w) p.2) (i.pc + 1))) ∧
    (∀ j v, s0.canRun who 0x18 i → h = i.hget (iHD w) → h.kind = 2 → v = fit (i.xs (iXB w)) (fmtBits (iFD w)) true →
      s.takes i (iFD w) h.rbytes (List.replicate h.rows ((intsRow (iFD w) (List.replicate (h.rbytes * 8 / fmtBits (iFD w)) v.1),
        List.replicate (expRow (iFD w) h.rbytes) (BitVec.ofNat 8 (i.xr (iXA w)))), v.2)) false j →
      exec (.tfill who) s0 = .next (s.ran i j (i.pc + 1))) ∧
    (∀ k, s0.canRun who 0x19 i → h = i.hget (iHA w) → h.usable = true →
      i.writeTile (iHD w) h.fmt h.rbytes (i.maskRows w (s.rowsOf i h)) h.poison h.tag = some k →
      s.clear i (k.flag (if h.poison then fPOI else 0)) → exec (.tcopy who) s0 = .next (s.ran i (k.flag (if h.poison then fPOI else 0)) (i.pc + 1))))

/-- Element-wise instructions of two tiles: ADD, SUB, MIN, MAX and MUL apply their operation row by row to tiles of one shape,
LOGIC byte by byte between formats of one width, MAC adds the scaled products to HD; the result goes into HD under the mask.
Instructions of one tile: UNARY, SHIFT, CVT, QSQ, DQSQ and ALIGN convert row by row, SCALE and EXPSC with a factor or
exponent, one per instruction or one per row. -/
def Obligations.TileArithmetic : Prop :=
  (∀ (s0 s : State) (who : InstRef) (i j : Inst) (w : Nat) (a b : Handle), s = s0.selectInst i → w = i.word → i.pair a b →
    (s0.canRun who 0x30 i → s.takesPair i a b (binRow (iFA w) (iFD w) (iSAT w) (exactI (· + ·)) (· + ·)) j →
      exec (.add who) s0 = .next (s.ran i j (i.pc + 1))) ∧
    (s0.canRun who 0x31 i → s.takesPair i a b (binRow (iFA w) (iFD w) (iSAT w) (exactI (· - ·)) (· - ·)) j →
      exec (.sub who) s0 = .next (s.ran i j (i.pc + 1))) ∧
    (s0.canRun who 0x32 i → s.takesPair i a b (mulRow w (iFA w) (iFD w)) j →
      exec (.mul who) s0 = .next (s.ran i j (i.pc + 1))) ∧
    (s0.canRun who 0x34 i → s.takesPair i a b (binRow (iFA w) (iFD w) (iSAT w) (exactI min) min) j →
      exec (.min who) s0 = .next (s.ran i j (i.pc + 1))) ∧
    (s0.canRun who 0x35 i → s.takesPair i a b (binRow (iFA w) (iFD w) (iSAT w) (exactI max) max) j →
      exec (.max who) s0 = .next (s.ran i j (i.pc + 1))) ∧
    (s0.canRun who 0x37 i → fmtBits (iFA w) = fmtBits (iFD w) →
      s.takes i (iFD w) (bytesFor (iFD w) a.elems) (((s.rowsOf i a).zip (s.rowsOf i b)).map fun r =>
        (((r.1.1.zip r.2.1).map fun p => logicByte (iSUB w) p.1 p.2, []), 0)) (a.poison || b.poison) j →
      exec (.logic who) s0 = .next (s.ran i j (i.pc + 1))) ∧
    (∀ d, s0.canRun who 0x33 i → d = i.hget (iHD w) → d.isOf (iFD w) = true → d.rows = a.rows → d.elems = a.elems →
      s.takes i (iFD w) d.rbytes (((s.rowsOf i d).zip ((s.rowsOf i a).zip (s.rowsOf i b))).map fun e =>
          iRow (iFD w) (((rowInts (iFD w) e.1.1).zip ((rowVals (iFA w) e.2.1).zip (rowVals (iFA w) e.2.2))).map fun v =>
            macElem (iFD w) (iSAT w) (if isQ (iFA w) then i.xs (iXB w) else 0) (immShift w) v.1 v.2.1 v.2.2))
        (a.poison || b.poison || d.poison) j →
      exec (.mac who) s0 = .next (s.ran i j (i.pc + 1)))) ∧
  (∀ (s0 s : State) (who : InstRef) (i j : Inst) (w : Nat) (a : Handle), s = s0.selectInst i → w = i.word → i.one a →
    (s0.canRun who 0x36 i → ¬(iSUB w = 2 ∧ isQ (iFA w) = true) → s.takesOne i a (unaryRow (iSUB w) (iSAT w) (i.xs (iXA w)) (i.xs (iXB w)) (iFA w) (iFD w)) j →
      exec (.unary who) s0 = .next (s.ran i j (i.pc + 1))) ∧
    (s0.canRun who 0x38 i → s.takesOne i a (fun x => iRow (iFD w) ((rowInts (iFA w) x.1).map fun v =>
        fitShift v (if iSUB w = 0 then immShift w else -(immShift w)) (fmtBits (iFD w)) (iSAT w))) j →
      exec (.shift who) s0 = .next (s.ran i j (i.pc + 1))) ∧
    (s0.canRun who 0x40 i → s.takesOne i a (fun x => iRow (iFD w) ((rowInts (iFA w) x.1).map fun v => fitShift v (immShift w) (fmtBits (iFD w)) (iSAT w))) j →
      exec (.cvt who) s0 = .next (s.ran i j (i.pc + 1))) ∧
    (s0.canRun who 0x41 i → s.takesOne i a (fun x => qRow (iFD w) ((blocks (rowInts (iFA w) x.1)).map fun b => narrowBlock b (i.xb8 w) (fmtBits (iFD w)))) j →
      exec (.qsq who) s0 = .next (s.ran i j (i.pc + 1))) ∧
    (s0.canRun who 0x42 i → s.takesOne i a (fun x => iRow (iFD w) ((rowVals (iFA w) x).map fun v => fitShift v.1 (i.xb8 w - v.2) (fmtBits (iFD w)) (iSAT w))) j →
      exec (.dqsq who) s0 = .next (s.ran i j (i.pc + 1))) ∧
    (s0.canRun who 0x43 i → s.takesOne i a (alignRow (iSUB w) (i.xb8 w) (iFA w) (iFD w)) j →
      exec (.align who) s0 = .next (s.ran i j (i.pc + 1))) ∧
    (s0.canRun who 0x39 i → iSUB w = 0 →
      s.takes i (iFD w) (bytesFor (iFD w) a.elems) (((s.rowsOf i a).zip (List.replicate 256 (toSigned 32 (i.xr (iXB w))))).map fun e =>
        iRow (iFD w) ((rowInts (iFA w) e.1.1).map fun x => fitShift (x * e.2) (immShift w) (fmtBits (iFD w)) (iSAT w))) a.poison j →
      exec (.scale who) s0 = .next (s.ran i j (i.pc + 1))) ∧
    (∀ b, s0.canRun who 0x39 i → iSUB w ≠ 0 → b = i.hget (iHB w) → b.usable = true → isI b.fmt = true → a.rows ≤ (s.vecOf i b).length →
      s.takes i (iFD w) (bytesFor (iFD w) a.elems) (((s.rowsOf i a).zip (s.vecOf i b)).map fun e =>
        iRow (iFD w) ((rowInts (iFA w) e.1.1).map fun x => fitShift (x * e.2) (immShift w) (fmtBits (iFD w)) (iSAT w)))
        (a.poison || b.poison) j →
      exec (.scale who) s0 = .next (s.ran i j (i.pc + 1))) ∧
    (∀ b, s0.canRun who 0x44 i → iFA w = iFD w → b = i.hget (iHB w) → b.isOf 1 = true → a.rows ≤ (s.vecOf i b).length →
      s.takes i a.fmt a.rbytes (((s.rowsOf i a).zip (s.vecOf i b)).map fun e => expscRow a.fmt (iSAT w) e.2 e.1) (a.poison || b.poison) j →
      exec (.expsc who) s0 = .next (s.ran i j (i.pc + 1))))

/-- Reductions, products, selection and digests: RSUM sums bags of rows, MMA adds the products of rows, ZELIDE drops zero rows and
ZEXPAND puts them back, RSEL gathers and RSCAT scatters rows, SHA takes a tile into the digest and DCMP compares digests,
while the core's hash unit is free; it is free again when its work is done; an instruction that writes what it still absorbs
waits. In a GATHERSUM station RSUM takes OUTEXP and SAT from the header. Memory instructions of a station: one whose
address is aligned and in the address space opens its transaction with the instance as destination and its OWNER, and the
instance waits on it; a misaligned one fails with FAULT_PERM, or goes on with it in LAST under NOFAIL; the end of a load
writes XD and LAST. -/
def Obligations.ReducingAndMemory : Prop :=
  (∀ (s0 s : State) (who : InstRef) (i j : Inst) (w : Nat) (a b d : Handle), s = s0.selectInst i → w = i.word → a = i.hget (iHA w) → b = i.hget (iHB w) →
    d = i.hget (iHD w) →
    (∀ ls xb sat, s0.canRun who 0x3A i → a.isOf (iFA w) = true → b.usable = true → isI b.fmt = true →
      xb = (if i.colIs 9 then i.colOutExp else i.xs (iXB w)) → sat = (if i.colIs 9 then i.colSat else iSAT w) →
      indexList (s.vecOf i b) (iIMM w % 512) = some ls → ls.foldl (· + ·) 0 ≤ a.rows →
      (i.colIs 9 = true → iFD w = 6 → s.handsOn i = true →
        ∀ g ∈ cutBags ls ((s.rowsOf i a).map (rowVals (iFA w))), bagFits xb a.elems g = true) →
      s.takes i (iFD w) (bytesFor (iFD w) a.elems) ((cutBags ls ((s.rowsOf i a).map (rowVals (iFA w)))).map fun g =>
        iRow (iFD w) (bagSum (iFD w) sat xb a.elems g)) (a.poison || b.poison) j →
      exec (.rsum who) s0 = .next (s.ran i j (i.pc + 1))) ∧
    (s0.canRun who 0x3B i → a.isOf (iFA w) = true → b.isOf (iFA w) = true → a.rbytes = b.rbytes → d.isOf 5 = true → d.rows = a.rows →
      d.elems = b.rows →
      s.takes i 5 d.rbytes (((s.rowsOf i d).zip (s.rowsOf i a)).map fun e => iRow 5 (((rowInts 5 e.1.1).zip (s.rowsOf i b)).map fun v =>
        ((fit (v.1 + (mmaDot (iFA w) (i.xs (iXB w)) e.2 v.2).1) 32 (iSAT w)).1,
          (mmaDot (iFA w) (i.xs (iXB w)) e.2 v.2).2 ||| (fit (v.1 + (mmaDot (iFA w) (i.xs (iXB w)) e.2 v.2).1) 32 (iSAT w)).2)))
        (a.poison || b.poison || d.poison) j →
      exec (.mma who) s0 = .next (s.ran i j (i.pc + 1))) ∧
    (∀ kept k k1, s0.canRun who 0x50 i → a.usable = true →
      kept = ((s.rowsOf i a).zip (List.range (s.rowsOf i a).length)).filter (fun e => !rowZero e.1) →
      i.writeTile (iHC w) 0 64 [some (maskTile (kept.foldl (fun m e => setBit m e.2) 0) a.fmt a.rows a.rbytes, [])] a.poison
        (i.hget (iHC w)).tag = some k → k1 = (k.xw (iXD w) kept.length).flag (if a.poison then fPOI else 0) →
      (kept = [] → s.clear i k1 → exec (.zelide who) s0 = .next (s.ran i k1 (i.pc + 1))) ∧
      (∀ m, kept ≠ [] → k1.writeTile (iHD w) a.fmt a.rbytes (k1.maskRows w (kept.map Prod.fst)) a.poison d.tag = some m →
        s.clear i (m.flag (if a.poison then fPOI else 0)) → exec (.zelide who) s0 = .next (s.ran i (m.flag (if a.poison then fPOI else 0)) (i.pc + 1)))) ∧
    (∀ c m mask fmt rows rb, s0.canRun who 0x51 i → c = i.hget (iHC w) → c.usable = true → c.fmt = 0 →
      m = ((s.rowsOf i c).map Prod.fst).flatten → mask = leNat (m.take 32) → fmt = ((m.drop 32).headD 0).toNat → fmt ≤ 6 →
      rows = ((m.drop 33).headD 0).toNat + 1 → rb = (((m.drop 34).headD 0).toNat % 64 + 1) * 64 → mask < 2 ^ rows →
      (mask ≠ 0 → a.usable = true ∧ a.fmt = fmt ∧ a.rbytes = rb ∧ (bitsSet mask 256).length ≤ a.rows) →
      s.takes i fmt rb ((expandRows mask rb (expRow fmt rb) 0 rows (if mask = 0 then [] else s.rowsOf i a)).map fun r => (r, 0))
        (c.poison || (mask ≠ 0 && a.poison)) j →
      exec (.zexpand who) s0 = .next (s.ran i j (i.pc + 1))) ∧
    (∀ ix, a.usable = true → b.usable = true → isI b.fmt = true →
      (s0.canRun who 0x58 i → indexList (s.vecOf i b) (iIMM w % 512) = some ix → (∀ k ∈ ix, k < a.rows) →
        s.takes i a.fmt a.rbytes (ix.map fun k => ((s.rowsOf i a).getD k ([], []), 0)) (a.poison || b.poison) j →
        exec (.rsel who) s0 = .next (s.ran i j (i.pc + 1))) ∧
      (∀ k, s0.canRun who 0x59 i → indexList (s.vecOf i b) a.rows = some ix →
        (∀ n ∈ ix, n < d.rows) →
        i.writeTile (iHD w) a.fmt a.rbytes (((s.rowsOf i a).zip ix).foldl (fun (l : List (Option Row)) e =>
          if i.rowOn w e.2 then setAt l e.2 (some e.1) else l) (List.replicate d.rows none)) (a.poison || b.poison) d.tag = some k →
        s.clear i (k.flag (if a.poison || b.poison then fPOI else 0)) →
        exec (.rscat who) s0 = .next (s.ran i (k.flag (if a.poison || b.poison then fPOI else 0)) (i.pc + 1)))) ∧
    (s0.canRun who 0x60 i →
      (s.hashFree i = false → exec (.sha who) s0 = .next (s.stayed i)) ∧
      (s.hashFree i = true → iSUB w = 0 → exec (.sha who) s0 = .next (s.ran i { i with sha := ShaState.init } (i.pc + 1))) ∧
      (s.hashFree i = true → iSUB w = 1 → a.usable = true → exec (.sha who) s0 = .next ((s.hashTake i [a]).ran i ({ i with
        sha := i.sha.absorb (packRows (s.rowsOf i a)) a.poison }.flag (if a.poison then fPOI else 0)) (i.pc + 1))) ∧
      (s.hashFree i = true → iSUB w = 2 →
        s.takes i 0 64 [((fitTo 64 (shaFinish i.sha.h i.sha.buf i.sha.count), []), 0)] i.sha.poi j →
        exec (.sha who) s0 = .next (s.ran i j (i.pc + 1)))) ∧
    (∀ same, s0.canRun who 0x61 i → s.hashFree i = true → a.usable = true → b.usable = true →
      same = decide (((s.rowsOf i a).map Prod.fst).flatten.take 48 = ((s.rowsOf i b).map Prod.fst).flatten.take 48) →
      (iSUB w ≠ 0 → exec (.dcmp who) s0 = .next ((s.hashTake i [a, b]).ran i ((i.flag (if a.poison || b.poison then fPOI else 0)).xw (iXD w)
        (b2n same)) (i.pc + 1))) ∧
      (iSUB w = 0 → same = true → exec (.dcmp who) s0 = .next ((s.hashTake i [a, b]).ran i (i.flag (if a.poison || b.poison then fPOI else 0))
        (i.pc + 1))) ∧
      (iSUB w = 0 → same = false → exec (.dcmp who) s0 = .next (s.failStation who Status.checkFail).settleAll)) ∧
    (∀ s1 k, s.absorbing i (i.wrote k w) = true → s.endStn i (.go s1 k) = s.settleAll) ∧
    (∀ sd cl co, exec (.hashUnitDone sd cl co) s = .next (s.setCoreSt sd cl co fun c => { c with hash := none, absorb := [] }))) ∧
  (∀ (s0 s : State) (who : InstRef) (i : Inst) (w : Nat), s = s0.selectInst i → w = i.word →
    (∀ n, n = 2 ^ (iSUB w % 4) → i.addr w < 2 ^ 57 →
      (s0.canRun who 0x23 i → i.addr w % n = 0 → ∃ r, r = s.openTx { stnTx i w with acc := .load, len := n, addr := i.addr w } ∧
        exec (.ld (.stn who)) s0 = .next ((r.1.translate r.2 none).stayed { i with wait := .mem r.2 })) ∧
      (s0.canRun who 0x24 i → i.addr w % n = 0 → ∃ r, r = s.openTx { stnTx i w with
          acc := .store, len := n, addr := i.addr w, data := leBytes n (i.xr (iXB w)) } ∧
        exec (.st (.stn who)) s0 = .next ((r.1.translate r.2 none).stayed { i with wait := .mem r.2 })) ∧
      (s0.canRun who 0x23 i → i.addr w % n ≠ 0 →
        (iNOFAIL w = true → exec (.ld (.stn who)) s0 = .next (s.ran i { i with flags := withLast i.flags Status.perm } (i.pc + 1))) ∧
        (iNOFAIL w = false → exec (.ld (.stn who)) s0 = .next (s.failStation who Status.perm).settleAll))) ∧
    (s0.stnAtomic who i 0 → exec (.atomicAdd (.stn who)) s0 = .next (s.stnAtomicOpened i 0)) ∧
    (s0.stnAtomic who i 1 → exec (.atomicMin (.stn who)) s0 = .next (s.stnAtomicOpened i 1)) ∧
    (s0.stnAtomic who i 2 → exec (.atomicMax (.stn who)) s0 = .next (s.stnAtomicOpened i 2)) ∧
    (s0.stnAtomic who i 3 → exec (.atomicAnd (.stn who)) s0 = .next (s.stnAtomicOpened i 3)) ∧
    (s0.stnAtomic who i 4 → exec (.atomicOr (.stn who)) s0 = .next (s.stnAtomicOpened i 4)) ∧
    (s0.stnAtomic who i 5 → exec (.atomicXor (.stn who)) s0 = .next (s.stnAtomicOpened i 5)) ∧
    (s0.stnAtomic who i 6 → exec (.atomicSwap (.stn who)) s0 = .next (s.stnAtomicOpened i 6)) ∧
    (s0.stnAtomic who i 7 → exec (.atomicCas (.stn who)) s0 = .next (s.stnAtomicOpened i 7)) ∧
    (s0.canRun who 0x25 i → iSUB w = 7 → iOWN w = true → i.addr w < 2 ^ 57 → i.addr w % (if iFD w = 6 then 8 else 4) = 0 →
      ∃ r, r = s.openTx { stnTx i w with
        acc := .atomic, sub := 7, wide := decide (iFD w = 6), len := if iFD w = 6 then 8 else 4, addr := i.addr w
        operand := i.xr (iXB w), compare := i.xr (iXD w), own := true } ∧
      exec (.casOwn (.stn who)) s0 = .next ((r.1.translate r.2 none).stayed { i with wait := .mem r.2 })) ∧
    (s0.canRun who 0x26 i → iORD w = 1 → exec (.fenceAcquire (.stn who)) s0 = .next (s.stnFenceOpened i)) ∧
    (s0.canRun who 0x26 i → iORD w = 2 → exec (.fenceRelease (.stn who)) s0 = .next (s.stnFenceOpened i)) ∧
    (s0.canRun who 0x26 i → iORD w = 3 → exec (.fenceAcqRel (.stn who)) s0 = .next (s.stnFenceOpened i)) ∧
    (s0.canRun who 0x27 i → i.xr (iXA w) < 2 ^ 57 → ∃ r, r = s.openInval { stnTx i w with
        addr := i.xr (iXA w), len := i.xr (iXB w), scope := 0, ord := 0 } ∧
      exec (.inval (.stn who)) s0 = .next (r.1.stayed { i with wait := .mem r.2 })) ∧
    (∀ t d r, s0.canRun who 0x20 i → descAt i w = some d → d.bad false = false → i.roomFor (iHD w) d.fmt d.rbytes d.rows = true →
      s.absorbing i (i.resultSpans (iHD w) d.fmt d.rbytes d.rows) = false →
      t = { stnTx i w with acc := .tileRead, tile := some d, idx := [], len := tileBytes d.rows d.rbytes d.fmt, addr := d.base } →
      r = s.openTx t → exec (.tld who) s0 = .next ((r.1.translate r.2 none).stayed { i with wait := .mem r.2 })) ∧
    (∀ t d ix r j, s0.canRun who 0x22 i → descAt i w = some d → (i.hget (iHB w)).usable = true → isI (i.hget (iHB w)).fmt = true →
      j = i.flag (if (i.hget (iHB w)).poison then fPOI else 0) →
      indexList (s.vecOf i (i.hget (iHB w))) (iIMM w % 512) = some ix → d.bad false = false →
      (∀ k ∈ ix, k < i.tableRows (i.xr (iXA w)) d.rows) → j.roomFor (iHD w) d.fmt d.rbytes ix.length = true →
      s.absorbing j (j.resultSpans (iHD w) d.fmt d.rbytes ix.length) = false →
      t = { stnTx j w with acc := .tileRead, tile := some d, idx := ix, len := tileBytes ix.length d.rbytes d.fmt, addr := d.base } →
      r = s.openTx t → exec (.tgath who) s0 = .next ((r.1.translate r.2 none).stayed { j with wait := .mem r.2 })) ∧
    (∀ d h, s0.canRun who 0x21 i → h = i.hget (iHA w) → descAt i w = some d → h.usable = true → h.fmt = d.fmt → h.rows = d.rows →
      h.rbytes = d.rbytes → d.bad true = false → (i.receives = false ∨ i.countsIn = true) →
      (List.range d.rows).filter (i.rowOn w) ≠ [] → ∃ r t data j, j = i.flag (if h.poison then fPOI else 0) ∧ data = packRows (((List.range d.rows).filter (i.rowOn w)).map fun r => (s.rowsOf i h).getD r ([], [])) ∧
        t = { stnTx i w with
          acc := .tileWrite, tile := some d, idx := (List.range d.rows).filter (i.rowOn w), len := data.length, data := data
          addr := d.base, covered := allOnes (cdiv data.length 64), poi := h.poison } ∧ r = s.openTx t ∧
        exec (.tst who) s0 = .next ((r.1.translate r.2 none).stayed { j with wait := .mem r.2 })) ∧
    (∀ h, s0.canRun who 0x21 i → h = i.hget (iHA w) → h.usable = true → i.receives = true → i.countsIn = false →
      ∀ d, descAt i w = some d → h.fmt = d.fmt → h.rows = d.rows → h.rbytes = d.rbytes → d.bad true = false →
      exec (.tst who) s0 = .next (s.stayed i)) ∧
    (s0.canRun who 0x28 i → i.seqHeld w = true → exec (.seqrd who) s0 = .next (s.stayed i)) ∧
    (s0.canRun who 0x28 i → i.seqHeld w = false → i.xr (iXA w) < 2 ^ 57 → i.xr (iXA w) % 64 = 0 → ∃ r, r = s.openTx { stnTx i w with
        acc := .load, len := 64, addr := i.xr (iXA w), scope := 2, ord := 1, operand := 1, data := [] } ∧
      exec (.seqrd who) s0 = .next ((r.1.translate r.2 none).stayed { i with wait := .mem r.2 }))) ∧
  (∀ (s : State) (who : InstRef) (i : Inst) (w : Nat), w = i.word →
    (∀ id t, s.instGet who = some i → i.who = who → i.wait = .mem id → s.txOf id = some t → t.closed = true →
      s.running who.pid who.flow = true → s.coreReady i = true → (s.inService || s.life.mstate = .shadow) = true → i.complete = false →
      i.halted = false → iOP w = 0x23 → t.acc = .load → t.tile = none → t.stop = none → (∀ r, t.xst ≠ .parked r) →
      exec (.memoryInstructionComplete who) s = .next (((s.dropTx id).setInst who fun i => { i with wait := .none }).ran
        { i with wait := .none } { (i.xw (iXD w) (loadValue w t.readData)) with
          wait := .none, flags := withLast i.flags Status.ok } (i.pc + 1))))

/-- Rounding and range: `rneShift` multiplies exactly for a shift of 0 or less; else its result is a nearest integer, an even one
at a tie, and INX is set exactly when bits were lost; `fit` leaves what lies in range, saturates to the nearer bound and sets
SAT, or wraps modulo 2^w into the range and sets WRP. -/
def Obligations.RoundingAndRange : Prop :=
  (∀ v s : Int, s ≤ 0 → rneShift v s = (v * 2 ^ (-s).toNat, 0)) ∧
  (∀ (v : Int) (n : Nat), 0 < n →
    2 * (v - (rneShift v n).1 * 2 ^ n) ≤ 2 ^ n ∧ -(2 ^ n) ≤ 2 * (v - (rneShift v n).1 * 2 ^ n) ∧
    (2 * (v - (rneShift v n).1 * 2 ^ n) = 2 ^ n ∨ 2 * (v - (rneShift v n).1 * 2 ^ n) = -(2 ^ n) → (rneShift v n).1 % 2 = 0) ∧
    (rneShift v n).2 = (if v % 2 ^ n = 0 then 0 else fINX)) ∧
  (∀ (v : Int) (w : Nat), 0 < w →
    (∀ sat, -(2 ^ (w - 1)) ≤ v → v ≤ 2 ^ (w - 1) - 1 → fit v w sat = (v, 0)) ∧
    (v < -(2 ^ (w - 1)) → fit v w true = (-(2 ^ (w - 1)), fSAT)) ∧ (2 ^ (w - 1) - 1 < v → fit v w true = (2 ^ (w - 1) - 1, fSAT)) ∧
    (v < -(2 ^ (w - 1)) ∨ 2 ^ (w - 1) - 1 < v → fit v w false = ((v + 2 ^ (w - 1)) % 2 ^ w - 2 ^ (w - 1), fWRP)))

/-- Elements of a row: two's complement, little-endian, element i at byte offset i × bits / 8; in SQ4 two to a byte, the even one
in the low half; and a row of elements in range reads back as it was written. -/
def Obligations.ElementsOfRows : Prop :=
  ∀ (f : Nat) (bs : List Byte), f ≤ 6 →
    (rowInts f bs).length = bs.length * 8 / fmtBits f ∧
    (f ≠ 2 → ∀ k, k < bs.length * 8 / fmtBits f →
      (rowInts f bs)[k]? = some (toSigned (fmtBits f) (leNat ((bs.drop (k * fmtBits f / 8)).take (fmtBits f / 8))))) ∧
    (f = 2 → ∀ k, k < bs.length * 2 →
      (rowInts f bs)[k]? = some (toSigned 4 ((bs.getD (k / 2) 0).toNat / (if k % 2 = 0 then 1 else 16) % 16))) ∧
    (∀ es : List Int, (∀ e ∈ es, inRange (fmtBits f) e = true) → es.length * fmtBits f % 8 = 0 → rowInts f (intsRow f es) = es)

/-- The exponent that `narrow_block` chooses is the smallest for which every element fits, and each element then lies within half
a unit of its exact value; no saturation occurs unless the range of exponents clamps it. An element-wise operation on integer
formats: element k of the result is the operation on the elements k, reduced by `fit` to the width of the result. -/
def Obligations.BlocksAndRows : Prop :=
  (∀ (p : List Int) (b : Int) (w : Nat), 2 ≤ w → (∀ v ∈ p, -(2 ^ 1000) < v ∧ v < 2 ^ 1000) → ∃ s : Nat,
    (∀ v ∈ p, inRange w (rneShift v s).1 = true) ∧ (∀ k, k < s → ∃ v ∈ p, inRange w (rneShift v k).1 = false) ∧
    (-128 ≤ b + s → b + s ≤ 127 → (narrowBlock p b w).2.1 = b + s ∧ (narrowBlock p b w).1 = p.map fun v => (rneShift v s).1) ∧
    (b + s < -128 → (narrowBlock p b w).2.1 = -128) ∧ (127 < b + s → (narrowBlock p b w).2.1 = 127) ∧
    ((b + s < -128 ∨ 127 < b + s) ↔ (narrowBlock p b w).2.2 &&& fXCL ≠ 0)) ∧
  (∀ (fa fd : Nat) (sat : Bool) (op opQ : Int → Int → Int) (x y : List Byte × List Byte), isI fa = true → isI fd = true →
    rowInts fd (binRow fa fd sat (exactI op) opQ x y).1.1 =
      List.zipWith (fun a b => (fit (op a b) (fmtBits fd) sat).1) (rowInts fa x.1) (rowInts fa y.1) ∧
    rowInts fd (mulRow 0 fa fd x y).1.1 = List.zipWith (fun a b => (fit (a * b) (fmtBits fd) false).1) (rowInts fa x.1) (rowInts fa y.1))

/-- A tile that an instruction has written reads back through its handle as the rows that were written. The frame of a tile
result: the SRAM outside the handle's capacity, every register, mask and flag, the PC and every other handle stay; a masked
row keeps its bytes. -/
def Obligations.TilesInSram : Prop :=
  (∀ (s : State) (i j : Inst) (hd fmt rb tag : Nat) (rows : List (List Byte × List Byte)) (poi : Bool), Memory.wf i.sram = true →
    hd < i.h.length → (∀ r ∈ rows, r.1.length = rb ∧ r.2.length = expRow fmt rb) →
    i.writeTile hd fmt rb (rows.map some) poi tag = some j →
    s.rowsOf j (j.hget hd) = rows ∧ (j.hget hd).poison = poi ∧ (j.hget hd).tag = tag ∧ (j.hget hd).rows = rows.length) ∧
  (∀ (i j : Inst) (hd fmt rb tag : Nat) (rows : List (Option (List Byte × List Byte))) (poi : Bool),
    (∀ r, some r ∈ rows → r.1.length = rb ∧ r.2.length = expRow fmt rb) → (i.hget hd).base % 64 = 0 →
    i.writeTile hd fmt rb rows poi tag = some j →
    (∀ a, a < (i.hget hd).base ∨ (i.hget hd).base + (i.hget hd).cap ≤ a → byteAt j.sram a = byteAt i.sram a) ∧
    (∀ k a, rows[k]? = some none → (i.hget hd).base + k * rb ≤ a → a < (i.hget hd).base + k * rb + rb →
      byteAt j.sram a = byteAt i.sram a) ∧
    j.x = i.x ∧ j.p = i.p ∧ j.flags = i.flags ∧ j.pc = i.pc ∧ j.who = i.who ∧ j.sha = i.sha ∧ ∀ m, m ≠ hd → j.hget m = i.hget m)

/-- FLOW_LOAD starts the read of the image and remembers the load; its completion with an image that passes every check and finds
its places installs the flow as LOADED, measures the image and answers OK; a failed read ends it with the read's status. FLOW_LAUNCH of a loaded flow, in
LOCKED, for a time from 20 µs to 10 s ahead, arms it, and any other time is refused. FLOW_START at that time makes it RUNNING,
every local station at PC 0 with its MID in X1, its INDEX in X2 and T in X3, and its gate entries begin anew. The end of a flow: FLOW_DONE of a running flow
whose stations are complete and whose writes have ended makes it DONE (where it has no station here, once END has been seen); FLOW_ABORT stops it with ABORTED; FLOW_UNLOAD is
refused while it runs, waits for the completion record of one that has ended, and else forgets it, and afterwards the flow is
not there; a watchdog whose station has been front-starved beyond its limit, and still is, fails the station with TIMEOUT. -/
def Obligations.FlowLife : Prop :=
  (∀ (s : State) (o : Origin) (pid flow fva len T : Nat),
    (∀ r, s.allows o K.flowLoad pid = true → s.life.mstate = .member → s.pstate pid = 1 → fva % 4096 = 0 → fva < 2 ^ 57 →
      s.lowEp.isSome = true → 64 ≤ len → len ≤ 4194304 → r = s.moduleRead pid fva len →
      exec (.flowLoad o pid fva len) s = .next (r.1.mapStn fun x => { x with loads := x.loads ++ [⟨o, pid, fva, len, r.2⟩] })) ∧
    (∀ (l : ImageLoad) (s1 : State), (s.stn.loads.find? fun l => l.pid = pid && l.fva = fva && l.len = len) = some l →
      s1 = (s.mapStn fun x => { x with loads := x.loads.erase l }).dropTx l.tx →
      (s.readEnd l.tx l.len = .open_ → exec (.flowLoadComplete pid fva len) s = .next s) ∧
      (∀ d m pl w, s.readEnd l.tx l.len = .ok d → s.pstate l.pid = 1 → parseImg d l.len = some m → s.loadOk l.pid m = true →
        s.place l.pid m = (some pl, w) →
        exec (.flowLoadComplete pid fva len) s = .next (((s1.install l.pid m pl).measure l.pid 0 m.head.flow l.fva m.head.bytes
          (sha384 m.raw)).reply l.origin Status.ok false [])) ∧
      (∀ st, s.readEnd l.tx l.len = .failed st → st ≠ Status.refused →
        exec (.flowLoadComplete pid fva len) s = .next (s1.reply l.origin st false []))) ∧
    (∀ f, s.allows o K.flowLaunch pid = true → s.flowGet pid flow = some f → s.pstate pid ≠ 2 →
      (s.life.mstate = .member → s.locked = true → s.now + 25000 ≤ T → T ≤ s.now + 12500000000 → f.fst = .loaded →
        f.unloading = false → s.setAt f T = true →
        exec (.flowLaunch o pid flow T) s =
          .next ((s.setFlow pid flow fun f => { f with fst := .armed, t := T }).reply o Status.ok false [])) ∧
      (T < s.now + 25000 ∨ s.now + 12500000000 < T →
        exec (.flowLaunch o pid flow T) s = .next (s.reply o Status.refused false []))) ∧
    (∀ f, s.flowGet pid flow = some f → f.fst = .armed → f.t ≤ s.now → s.inService = true →
      (∀ i ∈ s.stn.insts, i.who.pid = pid → i.who.flow = flow → i.badHead = false) →
      ∃ t, exec (.flowStart pid flow) s = .next t ∧ t.flowGet pid flow = some { f with fst := .running } ∧
        (∀ i ∈ t.stn.insts, i.who.pid = pid → i.who.flow = flow →
          i.pc = 0 ∧ nmGet i.x 1 0 = s.stnMid ∧ nmGet i.x 2 0 = i.who.index ∧ nmGet i.x 3 0 = f.t) ∧
        (∀ g ∈ t.slu.act, g.pid = pid → g.flow = flow → g.isOpen = false ∧ g.begun = false ∧ g.finished = []) ∧
        s.sameBut [.stn, .shd, .slu] t)) ∧
  (∀ (s : State) (o : Origin) (pid flow : Nat) (f : Flow), s.flowGet pid flow = some f →
    (f.fst = .running → (∀ i ∈ s.stn.insts, i.who.pid = pid → i.who.flow = flow → i.complete = true) → s.flowTxs pid flow = [] →
      (∃ i ∈ s.stn.insts, i.who.pid = pid ∧ i.who.flow = flow) ∨ s.endsSeen pid flow = true →
      exec (.flowDone pid flow) s = .next (s.setFlow pid flow fun f => { f with fst := .done, endedAt := s.now }).settleAll) ∧
    (s.allows o K.flowAbort pid = true → exec (.flowAbort o pid flow) s =
      .next ((s.failFlow pid flow Status.aborted noStation).settleAll.reply o Status.ok false [])) ∧
    (s.allows o K.flowUnload pid = true →
      (f.fst = .running → exec (.flowUnload o pid flow) s = .next (s.reply o Status.refused false [])) ∧
      (f.fst = .done ∨ f.fst = .aborted → f.recDone = false → exec (.flowUnload o pid flow) s =
        .next ((s.setFlow pid flow fun f => { f with unloading := true }).reply o Status.ok false [])) ∧
      (f.fst = .loaded ∨ f.fst = .armed ∨ ((f.fst = .done ∨ f.fst = .aborted) ∧ f.recDone = true) →
        exec (.flowUnload o pid flow) s = .next ((s.removeFlow pid flow).reply o Status.ok false []))) ∧
    (s.removeFlow pid flow).flowGet pid flow = none ∧
    (∀ who i k t, s.instGet who = some i → i.starved = some (k, t) → s.starvedOn i = some k → s.running who.pid who.flow = true →
      i.watch ≠ 0 → 1250 * i.watch < t → exec (.watchdogExpiry who k) s = .next (s.failStation who Status.timeout).settleAll))

/-- Tiles: one for a flow that is not here, or that has ended, is stray and only counted; the next tile of a consumer with room
goes into its buffer and the following number is expected; a later one waits; one that lies behind fails the flow with
COUNTER_WINDOW. A spilled tile comes back when the buffer has room. The next span of a GATHER in sequence mode starts at T +
OFFSET or later, with the read of its descriptor, and counts as late where the one before ended after that time. A residue
mismatch of a covered instruction, or of the hash unit, is squashed and retried once, and counted; the second one of a station
starts the retirement of an engine, and where the core's spare engine is in use, of the core. An error of the SRAM under a tile
that is only moved poisons the tile. An engine's retirement ends on the core's
spare engine; a core moves, with its instances, to physical core 8 of its cluster, a cluster to physical cluster 4 of its die;
each end counts one retirement, and one that waited for a cluster's starts. Zeroing ends. -/
def Obligations.TilesAndRetirements : Prop :=
  (∀ (s : State) (pid flow sid ci : Nat) (x : Tile) (src : Nat), s.inService = true → pid ≤ 63 →
    (s.flowGet pid flow = none → src = s.mid →
      exec (.streamTileArrival pid flow sid ci x src) s = .next (s.bump (K.strayTiles pid) 1).settleAll) ∧
    (∀ f, s.flowGet pid flow = some f → (f.fst = .done ∨ f.fst = .aborted) →
      exec (.streamTileArrival pid flow sid ci x src) s = .next (s.bump (K.strayTiles pid) 1).settleAll) ∧
    (∀ f st c, s.flowGet pid flow = some f → f.fst ≠ .done → f.fst ≠ .aborted → s.strmGet pid flow sid = some st →
      st.cons? ci = some c →
      exec (.streamTileArrival pid flow sid ci x src) s = .next (s.tileArrive pid flow sid ci x src).settleAll ∧
      (x.tnum = c.expect → c.expect < 2 ^ 32 → c.station.isSome = true → c.grant = 0 → c.spilled = [] → x.bytes ≤ st.free c →
        st.transit = [] → ∃ st' c', (s.tileArrive pid flow sid ci x src).strmGet pid flow sid = some st' ∧ st'.cons? ci = some c' ∧
          c'.buf = c.buf ++ [x] ∧ c'.expect = (c.expect + 1) % 2 ^ 32 ∧ st'.transit = []) ∧
      (x.tnum ≠ c.expect → (x.tnum + 2 ^ 32 - c.expect) % 2 ^ 32 < 2 ^ 31 →
        (st.transit.any fun e => e.1 = ci && e.2.tnum = c.expect) = false →
        s.tileArrive pid flow sid ci x src = s.setStrm pid flow sid fun st => { st with transit := st.transit ++ [(ci, x)] }) ∧
      (2 ^ 31 ≤ (x.tnum + 2 ^ 32 - c.expect) % 2 ^ 32 → s.tileArrive pid flow sid ci x src =
        s.failFlow pid flow Status.counterWindow (c.station.getD noStation))) ∧
    (∀ st c t bs r, s.strmGet pid flow sid = some st → st.cons? ci = some c → c.spilled = (t, bs) :: r →
      (t.bytes ≤ st.free c → exec (.spillReadback pid flow sid ci) s = .next ((((s.setCons pid flow sid ci fun c => { c with
        buf := c.buf ++ [t], spilled := r }).giveBufs pid bs).consEv pid flow c 0x035 bs.length).pumpTransit pid flow sid ci
          4097).settleAll) ∧
      (st.free c < t.bytes → exec (.spillReadback pid flow sid ci) s = .next s.settleAll)) ∧
    (∀ who i f at_, s.instGet who = some i → s.flowGet who.pid who.flow = some f → f.fst = .running → i.complete = false →
      i.span = none → 2 * i.spanAt < i.spans.length → s.coreReady i = true → at_ = f.t + i.spans.getD (2 * i.spanAt + 1) 0 →
      (s.now < at_ → exec (.spanIssue who) s = .next s) ∧
      (at_ ≤ s.now → ∀ s1, s1 = (if 0 < i.spanAt ∧ at_ < i.spanEnd then s.bump (K.lateSpans who.pid) 1 else s) →
        exec (.spanIssue who) s = .next ((s1.setInst who fun i => { i with
          spanAt := i.spanAt + 1, span := some (spanOf (i.spans.getD (2 * i.spanAt) 0)) }).spanRead who
            (seqTx i 0 i.seqDesc 64 1 [])).settleAll)) ∧
    (∀ who i r id t, s.instGet who = some i → i.wait = .none → i.span = some r → r.tx = some id → s.txOf id = some t →
      t.closed = true → s.running who.pid who.flow = true → s.coreReady i = true →
      exec (.memoryInstructionComplete who) s = .next (s.spanNext i r t (t.stop.getD Status.ok)).settleAll)) ∧
  (∀ (s : State) (sd cl co : Nat),
    (∀ who i, s.instGet who = some i → s.running who.pid who.flow = true → s.coreReady i = true →
      ((s.coreOf i).any (fun c => c.hash = some who) = true → exec (.residueMismatch who) s = .next (s.mismatch i 1)) ∧
      ((s.coreOf i).any (fun c => c.hash = some who) = false → covered (iOP i.word) = false → tileOp (iOP i.word) = true →
        (i.hget (iHA i.word)).kind ≠ 0 → exec (.residueMismatch who) s = .next (s.sramError i))) ∧
    (∀ who i, s.instGet who = some i → who.pid < 64 → s.running who.pid who.flow = true → s.coreReady i = true →
      (s.coreOf i).any (fun c => c.hash = some who) = false → covered (iOP i.word) = true →
      (i.mism = 0 → ∃ t, exec (.residueMismatch who) s = .next t ∧ t.instGet who = some { i with mism := 1 } ∧
        t.rd K.residueRetries = (s.rd K.residueRetries + 1) % 2 ^ 32 ∧ t.stn.cores = s.stn.cores) ∧
      (i.mism ≠ 0 → s.settled = true → ∀ c, (s.stn.cores.find? fun c => c.sd = i.sd && c.cluster = i.cluster && c.core = i.core) = some c →
        s.retiringIn i.sd i.cluster = false → (c.engUsed = 0 ∨ s.spareCore i.sd i.cluster = true) →
        ∃ t, exec (.residueMismatch who) s = .next t ∧ t.instGet who = some { i with mism := 0 } ∧
          (t.stn.cores.find? fun c => c.sd = i.sd && c.cluster = i.cluster && c.core = i.core) =
            some { c with retiring := if c.engUsed = 0 then 1 else 2 })) ∧
    (∀ c, (s.stn.cores.find? fun c => c.sd = sd && c.cluster = cl && c.core = co) = some c → c.retiring = 1 →
      (∀ k ∈ s.stn.cores, k.sd = sd → k.cluster = cl → k.retiring ≠ 3) →
      ∃ t, exec (.engineRetirementComplete sd cl co) s = .next t ∧ t.rd K.retirements = (s.rd K.retirements + 1) % 2 ^ 32 ∧
        (t.stn.cores.find? fun c => c.sd = sd && c.cluster = cl && c.core = co) = some { c with retiring := 0, engUsed := 1 }) ∧
    (∀ c, (s.stn.cores.find? fun c => c.sd = sd && c.cluster = cl && c.core = co) = some c → c.retiring = 2 →
      (∀ k ∈ s.stn.cores, k.sd = sd → k.cluster = cl → k.retiring ≠ 3) →
      ∃ t, exec (.coreRetirementComplete sd cl co) s = .next t ∧ t.rd K.retirements = (s.rd K.retirements + 1) % 2 ^ 32 ∧
        t.stn.insts = s.stn.insts.map fun i => if (i.sd, i.cluster, i.core) = (sd, cl, co) then { i with core := 8 } else i) ∧
    (s.stn.retiring.contains (sd, cl) = true →
      ∃ t : State, exec (.clusterRetirementComplete sd cl) s = .next (t.nextRetire sd 4) ∧
        ((∀ k ∈ s.stn.cores, k.sd = sd → k.cluster = cl ∨ k.cluster = 4 → k.retiring ≠ 3) → t.nextRetire sd 4 = t) ∧
        t.rd K.retirements = (s.rd K.retirements + 1) % 2 ^ 32 ∧ t.stn.clusters = (s.stn.clusters.map fun c => if c = (sd, cl) then (sd, 4) else c) ∧ sd ∈ t.stn.clSpare ∧
        (sd, cl) ∉ t.stn.retiring ∧ (∀ i ∈ t.stn.insts, cl ≠ 4 → ¬(i.sd = sd ∧ i.cluster = cl))) ∧
    exec (.coreZeroingComplete sd cl co) s = .next (s.setCoreSt sd cl co fun c => { c with zeroing := false }))

/-- A tick: nothing in OFF; else rack time advances by one, by two or not at all, and by exactly one unless a correction of a
whole tick is due; with nothing pending a step is one tick. References: the loss of the selected one selects the other if that
is usable and else the own oscillator, the loss of the other changes no selection; a reference is QUALIFYING until it has been
without a fault for 100 ms, and then it is taken where none is; a revert goes back to REFA in REF_MODE 1 once REFA has been
usable for 100 ms. Lock: a module that is UNLOCKED and can exchange is ACQUIRING; its first exchange sets its counter to the
root's; the 16th estimate in a row within 1.5 ns locks; the fourth in a row beyond 2 ns loses the lock
and is counted; the estimate over the direct link is half the difference of the two transit times, the link delay half their sum. The root:
where the present root no longer serves the role passes to the module that R207 names, and to no other; the root of a mesh that forms starts its counter at RT_SET, or 0, and is LOCKED.
RT_SET is taken only while no module of the mesh is a member. -/
def Obligations.RackTime : Prop :=
  (∀ s : State,
    (s.pending = [] → step s = .next s.tick) ∧ (s.life.mstate = .off → s.tick = s) ∧
    (s.life.mstate ≠ .off →
      (s.tick.now = s.now ∨ s.tick.now = s.now + 1 ∨ s.tick.now = s.now + 2) ∧
      (-16 < s.tim.offset → s.tim.offset < 16 → s.tick.now = s.now + 1) ∧
      (s.tim.slew + 1 < (if s.locked then 4096 else 256) → s.tick.now = s.now + 1) ∧
      (s.tim.everLocked = true → (if s.locked then 4096 else 256) ≤ s.tim.slew + 1 →
        (16 ≤ s.tim.offset → s.tick.now = s.now + 2 ∧ s.tick.tim.offset = s.tim.offset - 16) ∧
        (s.tim.offset ≤ -16 → s.tick.now = s.now ∧ s.tick.tim.offset = s.tim.offset + 16)))) ∧
  (∀ (s : State) (b : Bool),
    (∃ t, exec (.referenceLost b) s = .next t ∧ t.rd (refKey b) = 1 ∧
      t.rd K.refSelect = (if s.rd K.refSelect ≠ b2n b then s.rd K.refSelect else if s.rd (refKey (!b)) = 0 then b2n (!b) else 2) ∧
      s.sameBut [.od, .tim, .mgt] t) ∧
    (s.rd (refKey b) ≠ 0 → s.now < s.refAt b + 125000000 → exec (.referenceQualified b) s = .next (s.wr (refKey b) 2)) ∧
    (s.rd (refKey b) ≠ 0 → s.refAt b + 125000000 ≤ s.now →
      ∃ t, exec (.referenceQualified b) s = .next t ∧ t.rd (refKey b) = 0 ∧ t.refAt b = s.now ∧
        t.rd K.refSelect = (if s.rd K.refSelect = 2 then b2n b else s.rd K.refSelect) ∧ s.sameBut [.od, .tim] t) ∧
    (s.refAt false + 125000000 > s.now → exec .referenceRevert s = .next s) ∧
    (s.rd K.refMode = 1 → s.rd K.refaStatus = 0 → s.refAt false + 125000000 ≤ s.now → s.rd K.refSelect ≠ 0 →
      exec .referenceRevert s = .next ((s.wr K.refSelect 0).bump K.refSwitches 1)) ∧
    (s.rd K.refMode ≠ 1 → exec .referenceRevert s = .next s)) ∧
  (∀ (s0 s : State) (x : StampOp), s = (s0.mapTim fun t => { t with lockedPeers := x.locked }).acquire →
    (s.exchangeOk x = false → exec (.timestampExchange x) s0 = .next s.judgeLock) ∧
    (s.exchangeOk x = true →
      (s0.rd K.lockState = 0 → s.rd K.lockState = 1) ∧
      (s.rd K.lockState = 1 → s.tim.everLocked = false →
        ∃ t, exec (.timestampExchange x) s0 = .next t ∧ t.rd K.lockState = 1 ∧ t.now = x.rootTime ∧ t.tim.everLocked = true ∧
          t.tim.offset = 0) ∧
      (s.rd K.lockState = 1 → s.tim.everLocked = true → -30 ≤ stampOffset x → stampOffset x ≤ 30 →
        ∃ t, exec (.timestampExchange x) s0 = .next t ∧ t.rd K.lockState = (if 15 ≤ s.tim.goodRun then 2 else 1) ∧
          t.tim.goodRun = s.tim.goodRun + 1 ∧ t.tim.offset = stampOffset x ∧
          t.tim.linkDelay = ((x.t2 - x.t1) + (x.t4 - x.t3)) / 2) ∧
      (s.rd K.lockState = 1 → s.tim.everLocked = true → (stampOffset x < -30 ∨ 30 < stampOffset x) →
        ∃ t, exec (.timestampExchange x) s0 = .next t ∧ t.rd K.lockState = 1 ∧ t.tim.goodRun = 0) ∧
      (s.rd K.lockState = 2 → (stampOffset x < -40 ∨ 40 < stampOffset x) → s.life.mstate ≠ .shadow →
        (∀ f ∈ s.stn.flows, f.fst ≠ .armed) → (∀ g ∈ s.slu.act, g.isOpen = false) →
        ∃ t, exec (.timestampExchange x) s0 = .next t ∧ t.rd K.lockState = (if 3 ≤ s.tim.badRun then 0 else 2) ∧
          t.rd K.lockLosses = (if 3 ≤ s.tim.badRun then (s.rd K.lockLosses + 1) % 2 ^ 32 else s.rd K.lockLosses)) ∧
      (s.rd K.lockState = 2 → -40 ≤ stampOffset x → stampOffset x ≤ 40 →
        ∃ t, exec (.timestampExchange x) s0 = .next t ∧ t.rd K.lockState = 2 ∧ t.tim.badRun = 0) ∧
      (x.direct = true → stampOffset x = ((x.t2 - x.t1) - (x.t4 - x.t3)) / 2))) ∧
  (∀ (s : State) (o : Origin) (mid v : Nat) (seen : List Nat),
    (s.rootServes = true ∨ s.rootChoice seen ≠ some mid → exec (.rootHandover ⟨mid, seen⟩) s = .next s) ∧
    (s.rootServes = false → s.rootChoice seen = some mid → mid ≠ s.mid →
      exec (.rootHandover ⟨mid, seen⟩) s = .next (s.wr K.rootMid mid).judgeLock.acquire) ∧
    (s.rootServes = false → s.rootChoice seen = some s.mid → s.noMember = true → s.tim.everLocked = false →
      ∃ t, exec (.rootHandover ⟨s.mid, seen⟩) s = .next t ∧ t.rd K.rootMid = s.mid ∧ t.now = s.tim.rtSet.getD 0 ∧ t.rd K.lockState = 2) ∧
    (s.allows o K.rtSet 0 = true → exec (.rtSet o v) s = .next (if s.noMember then
      (s.mapTim fun t => { t with rtSet := some v }).reply o Status.ok false [] else s.reply o Status.refused false [])))

/-- Sluice tables: SLUICE_LOAD starts the read of the image and remembers the load; its completion with a good image appends the set to the pending list, measures
it and answers OK; SLUICE_REMOVE takes back a load that is pending, or appends the removal of an active set; SLUICE_COMMIT is
taken from 2 frames to 10 s ahead, one at a time for a PID; at the first frame boundary at or after Ts the PID's list takes
effect, in its order. Gates, in LOCKED, for a running flow of an active partition: a gate wakes its egress up to 313 ticks
before the next edge; it opens in the window [k × frame + OPEN, + LENM1 + 1) of a frame k with k mod 2^REP = PHASE, with its
count at 0; it closes at the closing edge. A partition that is not ACTIVE opens none. -/
def Obligations.Sluice : Prop :=
  (∀ (s : State) (o : Origin) (pid : Nat),
    (∀ fva len r, s.allows o K.sluiceLoad pid = true → s.pstate pid = 1 → fva % 4096 = 0 → fva < 2 ^ 57 → s.lowEp.isSome = true →
      64 ≤ len → r = s.moduleRead pid fva len →
      exec (.sluiceLoad o pid fva len) s = .next (r.1.mapSlu fun u => { u with loads := u.loads ++ [⟨o, pid, fva, len, r.2⟩] })) ∧
    (∀ (fva len : Nat) (l : ImageLoad) (s1 : State), (s.slu.loads.find? fun l => l.pid = pid && l.fva = fva && l.len = len) = some l →
      s1 = (s.mapSlu fun u => { u with loads := u.loads.erase l }).dropTx l.tx →
      (s.readEnd l.tx l.len = .open_ → exec (.sluiceLoadComplete pid fva len) s = .next s) ∧
      (∀ st, s.readEnd l.tx l.len = .failed st → exec (.sluiceLoadComplete pid fva len) s = .next (s1.reply l.origin st false [])) ∧
      (∀ d set gs, s.readEnd l.tx l.len = .ok d → s1.pstate pid = 1 → s1.sluiceImage pid l.len d = some (set, gs) →
        exec (.sluiceLoadComplete pid fva len) s = .next (((s1.mapSlu fun u => { u with
          pend := u.pend ++ [(pid, .load set gs)] }).measure pid 1 set fva l.len (sha384 d)).reply l.origin Status.ok
            false [])) ∧
      (∀ d, s.readEnd l.tx l.len = .ok d → s1.pstate pid = 1 → s1.sluiceImage pid l.len d = none →
        exec (.sluiceLoadComplete pid fva len) s = .next (s1.reply l.origin Status.refused false []))) ∧
    (∀ set, s.allows o K.sluiceRemove pid = true → (∀ f ∈ s.stn.flows, f.pid = pid → f.set ≠ set) →
      (∀ e ∈ s.slu.pend, e.1 ≠ pid) → (∃ g ∈ s.slu.act, g.pid = pid ∧ g.set = set) →
      exec (.sluiceRemove o pid set) s =
        .next ((s.mapSlu fun u => { u with pend := u.pend ++ [(pid, .remove set)] }).reply o Status.ok false [])) ∧
    (∀ set, s.allows o K.sluiceRemove pid = true → (∃ f ∈ s.stn.flows, f.pid = pid ∧ f.set = set) →
      exec (.sluiceRemove o pid set) s = .next (s.reply o Status.refused false [])) ∧
    (∀ ts, s.allows o K.sluiceCommit pid = true → exec (.sluiceCommit o pid ts) s =
      .next (if s.now + 2 * s.frameTicks ≤ ts ∧ ts ≤ s.now + 12500000000 ∧ ∀ c ∈ s.slu.commits, c.1 ≠ pid then
        (s.mapSlu fun u => { u with commits := u.commits ++ [(pid, ts)] }).reply o Status.ok false []
      else s.reply o Status.refused false [])) ∧
    (∀ ts, s.boundary ts % s.frameTicks = 0 ∧ ts ≤ s.boundary ts ∧ s.boundary ts < ts + s.frameTicks) ∧
    (∀ c, (s.slu.commits.find? fun c => c.1 = pid) = some c →
      (s.now < s.boundary c.2 → exec (.sluiceBankSwitch pid) s = .next s) ∧
      (s.boundary c.2 ≤ s.now → ∃ t, exec (.sluiceBankSwitch pid) s = .next t ∧
        t.slu.act = (s.slu.pend.filter fun e => e.1 = pid).foldl (fun a e => applyPend a e.2 pid) s.slu.act ∧
        t.slu.pend = (s.slu.pend.filter fun e => e.1 ≠ pid) ∧ t.slu.commits = (s.slu.commits.filter fun e => e.1 ≠ pid) ∧
        t.rd K.sluiceSwitched = s.boundary c.2 ∧ t.rd K.entriesActive = t.slu.act.length ∧ s.sameBut [.od, .slu] t))) ∧
  (∀ (s : State) (n : Nat) (g : Gate), s.slu.act[n]? = some g →
    (s.running g.pid g.flow = true → s.locked = true → s.pstate g.pid = 1 →
      (∀ e, g.nextEdge s.frameTicks s.now = some e → g.isOpen = false → e ≤ s.now + 313 →
        ∃ t, exec (.gateWake n) s = .next t ∧ t.slu.act[n]? = some { g with awake := true } ∧ s.sameBut [.slu, .lnk] t) ∧
      (∀ k, k = s.now / s.frameTicks → k % 2 ^ g.rep = g.phase → k * s.frameTicks + g.opn ≤ s.now →
        s.now < k * s.frameTicks + g.opn + g.lenm1 + 1 → g.closeAt ≠ k * s.frameTicks + g.opn + g.lenm1 + 1 →
        ∃ t, exec (.gateOpen n) s = .next t ∧ t.slu.act[n]? = some { g with
          isOpen := true, awake := true, crossed := 0, closeAt := k * s.frameTicks + g.opn + g.lenm1 + 1 } ∧
          s.sameBut [.slu, .lnk] t)) ∧
    (s.pstate g.pid ≠ 1 → exec (.gateOpen n) s = .next s) ∧
    (s.now < g.closeAt → exec (.gateClose n) s = .next s) ∧
    (g.isOpen = true → g.closeAt ≤ s.now →
      (g.strict = false ∨ g.begun = false ∨ g.tiles ≤ g.crossed →
        exec (.gateClose n) s = .next (s.setGate n fun g => { g with isOpen := false, awake := false })) ∧
      (g.strict = true → g.begun = true → g.crossed < g.tiles → s.running g.pid g.flow = true → s.gateStreams g = [] →
        exec (.gateClose n) s = .next ((s.setGate n fun g => { g with isOpen := false, awake := false }).overrun g.pid g.set g.flow
          g.sid g.port s.now g.crossed g.tiles))))

/-- PART_CREATE of a free PID makes it ACTIVE, raises its generation and fills its REST and LINK slots with the next two KEY_IDs;
any other PID is refused. PART_CLOSE of an active PID starts the closing; of any other it answers OK and changes nothing.
Teardown goes on once the drain has ended, or 50 µs after CLOSING. Ownership: OWN_GRANT of granules that are grantable and
unowned gives exactly these to the PID; OWN_RELEASE of a span that one PID owns puts it into SCRUB and appends it to the spans
to fill; when the device has filled the next granule, that reads zero, has no poisoned line and is unowned, and the span goes
on with the granule after it. Keys, nonces, regions: KEY_AGREE from the PID fills a free slot from 2 to 7 with the next KEY_ID
and remembers the peer's share; ATTEST keeps a nonce of 48 bytes in place of the sender's last one; REGION_REGISTER starts the
read of one region, and its completion appends the digest of the bytes as read to the log and answers OK. -/
def Obligations.PartitionsAndKeys : Prop :=
  (∀ (s : State) (o : Origin) (pid : Nat),
    (s.allows o K.partCreate 0 = true →
      (0 < pid → pid ≤ 63 → s.pstate pid = 0 → s.life.mstate ≠ .draining →
        ∃ t, exec (.partCreate o pid) s = .next t ∧ t.pstate pid = 1 ∧ t.rd (K.pgen pid) = (s.rd (K.pgen pid) + 1) % 65536 ∧
          t.rd (K.keySlot pid 0) = (s.sec.keyNext <<< 16 ||| 1 <<< 12) ∧
          t.rd (K.keySlot pid 1) = (((s.sec.keyNext + 1) % 65536) <<< 16 ||| 2 <<< 12) ∧
          ∀ p, p < 64 → p ≠ pid → t.pstate p = s.pstate p) ∧
      (pid = 0 ∨ 63 < pid ∨ s.pstate pid ≠ 0 ∨ s.life.mstate = .draining →
        exec (.partCreate o pid) s = .next (s.reply o Status.refused false []))) ∧
    (s.allows o K.partClose 0 = true → 0 < pid → pid ≤ 63 →
      (s.pstate pid = 1 → exec (.partClose o pid) s = .next (((s.closePart pid).closingNotices pid).reply o Status.ok false [])) ∧
      (s.pstate pid ≠ 1 → exec (.partClose o pid) s = .next (s.reply o Status.ok false []))) ∧
    (∀ d, (s.sec.downs.find? fun d => d.pid = pid) = some d → s.pstate pid = 2 →
      (s.drained pid = true ∨ d.closeAt + 62500 ≤ s.now → exec (.teardownDrainEnd pid) s = .next (s.teardown pid)) ∧
      (s.drained pid = false → s.now < d.closeAt + 62500 → exec (.teardownDrainEnd pid) s = .next s))) ∧
  (∀ (s : State) (o : Origin) (base count pid : Nat),
    (s.allows o K.ownGrant 0 = true → base % 65536 = 0 → pid ≤ 63 → s.pstate pid = 1 →
      (∀ g, base / 65536 ≤ g → g < base / 65536 + count → s.grantable (g * 65536) = true ∧ bits (s.granule g) 7 6 = 0) →
      ∃ t, exec (.ownGrant o base count pid) s = .next t ∧ ∀ g, t.granule g =
        if base / 65536 ≤ g ∧ g < base / 65536 + count then 0x40 + pid else s.granule g) ∧
    (s.allows o K.ownRelease 0 = true → base % 65536 = 0 → 0 < count → bits (s.granule (base / 65536)) 7 6 = 1 →
      (∀ g, base / 65536 ≤ g → g < base / 65536 + count →
        s.grantable (g * 65536) = true ∧ s.granule g = s.granule (base / 65536)) →
      exec (.ownRelease o base count) s = .next ((s.scrub ((List.range count).map fun i => base / 65536 + i) none).reply o Status.ok
        false [])) ∧
    (∀ dev f, (s.fills.find? fun f => f.dev = dev) = some f → f.teardown = none → s.fills? dev = true →
      ∃ t, exec (.zeroFillGranuleDone dev) s = .next t ∧ t.granule f.next = 0 ∧
        (∀ a, f.next * 65536 ≤ a → a < f.next * 65536 + 65536 → byteAt t.mem a = 0) ∧
        (∀ a, a < f.next * 65536 ∨ f.next * 65536 + 65536 ≤ a → byteAt t.mem a = byteAt s.mem a) ∧
        (∀ l ∈ t.poison, l / 1024 ≠ f.next) ∧
        (f.next + 1 < f.stop → { f with next := f.next + 1 } ∈ t.fills) ∧
        s.sameBut [.mem, .poison, .written, .own, .fills] t)) ∧
  (∀ (s : State) (o : Origin) (pid : Nat), pid < 64 →
    (∀ slot kind pub nonce, s.allows o (K.keyAgree pid) 0 = true → s.senderPid o = some pid → s.pstate pid = 1 → 2 ≤ slot → slot ≤ 7 →
      (kind = 3 ∨ kind = 4) → pub.length = 97 → nonce.length = 48 → s.slotInUse pid slot = false →
      ∃ t, exec (.keyAgree o pid slot kind pub nonce) s = .next t ∧
        t.rd (K.keySlot pid slot) = (s.sec.keyNext <<< 16 ||| kind <<< 12) ∧ t.sec.keyNext = (s.sec.keyNext + 1) % 65536 ∧
        t.sec.keyReplies = (s.sec.keyReplies.filter fun k => k.pid ≠ pid) ++ [⟨pid, s.sec.keyNext, pub, nonce⟩]) ∧
    (∀ slot kind pub nonce, s.allows o (K.keyAgree pid) 0 = true → (slot < 2 ∨ 7 < slot) →
      exec (.keyAgree o pid slot kind pub nonce) s = .next (s.reply o Status.refused false [])) ∧
    (∀ nonce p, s.allows o (K.attest pid) 0 = true → s.senderPid o = some p → nonce.length = 48 →
      exec (.attest o pid nonce) s = .next ((s.mapSec fun x => { x with
        nonces := (x.nonces.filter fun e => !(e.1 = pid && e.2.1 = decide (p = 0))) ++ [(pid, decide (p = 0), nonce)] }).reply o
          Status.ok false [])) ∧
    (∀ fva len n, s.allows o (K.regionRegister pid) 0 = true → s.pstate pid = 1 → fva % 4096 = 0 → fva < 2 ^ 57 → 4096 ≤ len →
      len ≤ 2 ^ 40 → s.lowEp.isSome = true → n = s.moduleRead pid fva len →
      (s.sec.region = none →
        exec (.regionRegister o pid fva len) s = .next (n.1.mapSec fun x => { x with region := some ⟨o, pid, fva, len, n.2⟩ })) ∧
      (s.sec.region ≠ none → exec (.regionRegister o pid fva len) s = .next (s.reply o Status.refused false []))) ∧
    (∀ r s1, s.sec.region = some r → s1 = (s.mapSec fun x => { x with region := none }).dropTx r.tx →
      (∀ d, s.readEnd r.tx r.len = .ok d → s1.pstate r.pid = 1 → exec (.regionRegisterComplete r.pid) s =
        .next ((s1.measure r.pid 2 0 r.fva r.len (sha384 d)).reply r.origin Status.ok false [])) ∧
      (∀ st, s.readEnd r.tx r.len = .failed st →
        exec (.regionRegisterComplete r.pid) s = .next (s1.reply r.origin st false []))))

/-- Sessions: a SESSION_OPEN that passes its checks opens one and emits SESSION_ACCEPT and an EVENT, and there are at most eight;
one whose signature or key is wrong is dropped and counted, one of a wrong length or header too, a fragment is only dropped; a
session closes on request and after
60 s without a datagram; a new manager key closes them all. Requests of a session: a fresh one is performed and answered, and
the window records it; a repeat of one that has been answered is not performed again and gets the recorded answer; one below
the window of 64 only counts as use; one with a bad tag, a wrong magic, version or length, or a value above 1,024 bytes is
dropped and counted. A command that runs for 200 ms gets
one interim response. A commit, 10 ms after the first write that it covers: the image goes, whole, to the bank that does not
hold the newest one, under the next generation, the other bank stays, the commit is counted, and no write waits any more. -/
def Obligations.ManagementSessions : Prop :=
  (∀ (s : State) (op : SessionOpenOp), s.managed = true →
    (mdpSound op.head 338 = true → op.head.fragment = false → op.staticKey.length = 97 → op.ephemeral.length = 97 →
      op.nonce.length = 48 → op.sig.length = 96 → exec (.sessionOpen op) s = .next (if s.managerOk op then s.openSession op else s.bump K.mdpAuthFails 1) ∧
      (s.mgt.sessions.length ≤ 8 → (s.openSession op).mgt.sessions.length ≤ 8) ∧
      ∃ a b, (s.openSession op).out = s.out ++ [a, b]) ∧
    (op.head.fragment = false → op.staticKey.length ≠ 97 ∨ op.ephemeral.length ≠ 97 ∨ op.nonce.length ≠ 48 ∨ op.sig.length ≠ 96 ∨
      op.head.magic ≠ 0x4D44 ∨ op.head.version ≠ 1 ∨ op.head.len ≠ 338 → exec (.sessionOpen op) s = .next (s.bump K.mdpDrops 1)) ∧
    (∀ h : MdpHead, h.fragment = true → exec (.sessionOpen { op with head := h }) s = .next s) ∧
    (∀ n ∈ s.mgt.sessions,
      (∀ h : MdpHead, h = ⟨0x4D44, 1, 0, true, false⟩ → exec (.sessionClose ⟨h, n.id⟩) s = .next (s.closeSession n.id)) ∧
      (∀ h : MdpHead, h.fragment = false → h.magic ≠ 0x4D44 ∨ h.version ≠ 1 ∨ h.len ≠ 0 ∨ h.tagOk = false →
        exec (.sessionClose ⟨h, n.id⟩) s = .next (s.bump K.mdpDrops 1)) ∧
      (n.lastUse + 75000000000 ≤ s.now → exec (.sessionIdleTimeout n.id) s = .next (s.closeSession n.id))) ∧
    (∀ id, (∀ n ∈ s.mgt.sessions, n.id ≠ id) → (∀ h : MdpHead, h.fragment = false → exec (.sessionClose ⟨h, id⟩) s = .next (s.bump K.mdpDrops 1)) ∧
      exec (.sessionIdleTimeout id) s = .next s) ∧
    (∀ o val, s.allows o K.mgrKeyHash 0 = true → val.length = 48 →
      ∃ t, exec (.mgrKeyHash o val) s = .next t ∧ t.rd K.mgrKeyHash = leNat val ∧ t.mgt.sessions = [] ∧ t.nv.dirty = true)) ∧
  (∀ (s : State) (d : MdpReq) (n : Session), s.managed = true → (s.mgt.sessions.find? fun n => n.id = d.session) = some n →
    (d.head = ⟨0x4D44, 1, d.val.length, true, false⟩ → d.val.length ≤ 1024 →
      ∃ s1, s1 = s.setSession d.session (fun n => { n with lastUse := s.now }) ∧
        (n.seqCase d.seq = .fresh →
          ∃ s2, s2 = s1.setSession d.session (fun n => n.receive d s.now) ∧
            exec (.read d) s = .next (s2.draw.reply (.mdp d.session d.seq) (s2.dictGet (.mdp d.session d.seq) d.ix d.sub).1 false
              (piece (s2.dictGet (.mdp d.session d.seq) d.ix d.sub).2 d.offset)) ∧
            (d.offset = 0 → exec (.write d) s = .next (s2.dictSet (.mdp d.session d.seq) d.ix d.sub d.ty d.val)) ∧
            (d.offset ≠ 0 → exec (.write d) s = .next (s2.dictSet (.mdp d.session d.seq) d.ix d.sub 0 d.val))) ∧
        (n.seqCase d.seq = .below → exec (.read d) s = .next s1 ∧ exec (.write d) s = .next s1) ∧
        (∀ r a, n.seqCase d.seq = .seen r → r.answer = some a →
          ∃ t, exec (.write d) s = .next t ∧ exec (.read d) s = .next t ∧
            t.out = s.out ++ [.reply (.mdp d.session d.seq) d.portB a.1 a.2.1 false a.2.2] ∧
            t.rd K.mdpDuplicates = (s.rd K.mdpDuplicates + 1) % 2 ^ 32 ∧ s.sameBut [.out, .od, .mgt] t)) ∧
    (d.head.fragment = false → d.head.magic ≠ 0x4D44 ∨ d.head.version ≠ 1 ∨ d.head.len ≠ d.val.length ∨ 1024 < d.val.length ∨
      d.head.tagOk = false →
      exec (.read d) s = .next (s.bump K.mdpDrops 1) ∧ exec (.write d) s = .next (s.bump K.mdpDrops 1)) ∧
    (n.high < d.seq → n.seqCase d.seq = .fresh) ∧ (d.seq + 64 ≤ n.high → n.seqCase d.seq = .below) ∧
    (n.overdue d.seq s.now = true →
      ∃ t, exec (.mdpInterimResponse d.session d.seq) s = .next t ∧
        t.out = s.out ++ [.reply (.mdp d.session d.seq) (s.replyPort d.session d.seq) Status.ok false true []] ∧
        ∀ m, (t.mgt.sessions.find? fun n => n.id = d.session) = some m → m.overdue d.seq s.now = false)) ∧
  (∀ s : State, s.managed = true → s.nv.dirty = true →
    (s.nv.since + 12500000 ≤ s.now → ∃ t, exec .retainedCommit s = .next t ∧ t.nv.dirty = false ∧ t.nv.waiting = [] ∧
      t.rd K.commits = (s.rd K.commits + 1) % 2 ^ 32 ∧
      (s.nv.newestB = true → t.nv.b = s.nv.b ∧ t.nv.a = Bank.whole ((s.nv.newest + 1) % 2 ^ 32) (s.bump K.commits 1).image) ∧
      (s.nv.newestB = false → t.nv.a = s.nv.a ∧ t.nv.b = Bank.whole ((s.nv.newest + 1) % 2 ^ 32) (s.bump K.commits 1).image)) ∧
    (s.now < s.nv.since + 12500000 → exec .retainedCommit s = .next s))

/-- Counter entries: a control word with a listed event is stored, with another its event field is cleared; a value written is the
value and the reload value; ones written to OVF clear those bits and no other; a counter that has carried reports and samples
as its control word says, once. Snapshots: SNAP_AT is taken in LOCKED for a time from 20 µs to 10 s ahead with none pending;
at that time every counter and every cycle count of the 24 banks is copied, and SNAP_STATE is TAKEN in LOCKED. The sample ring
may only start in granules of PID 0. -/
def Obligations.CountersAndSnapshots : Prop :=
  (∀ (s : State) (o : Origin) (b n v : Nat), b < 24 → n < 8 →
    (s.allows o (K.ctl b n) 0 = true → s.settle o ((s.senderPid o).getD 0) (K.ctl b n) 0 v = (s, v, false) →
      ∃ t, exec (.counterControlWrite o b n v) s = .next t ∧
        t.rd (K.ctl b n) = (if eventListed b (bits v 11 0) then v else v - bits v 11 0) ∧ t.rd (K.ctr b n) = s.rd (K.ctr b n)) ∧
    (s.allows o (K.ctr b n) 0 = true → s.settle o ((s.senderPid o).getD 0) (K.ctr b n) 0 v = (s, v, false) →
      ∃ t, exec (.counterWrite o b n v) s = .next t ∧ t.rd (K.ctr b n) = v ∧ nmGet t.mgt.reload (8 * b + n) 0 = v) ∧
    (s.allows o (K.ovf b) 0 = true → ∃ t, exec (.ovf o b v) s = .next t ∧
      ∀ i, (t.rd (K.ovf b)).testBit i = ((s.rd (K.ovf b)).testBit i && !v.testBit i)) ∧
    (∀ occ, s.mgt.ovfPend.contains (8 * b + n) = true → ∃ s1, s1 = s.mapMgt (fun m => { m with
        ovfPend := removeAll m.ovfPend [8 * b + n] }) ∧ s1.mgt.ovfPend.contains (8 * b + n) = false ∧
      exec (.counterOverflow b n occ) s = .next
        (if (s.rd (K.ctl b n)).testBit 29 then (if (s.rd (K.ctl b n)).testBit 30 then s1.ovfReport b n else s1).sample b n
          (bits (s.rd (K.ctl b n)) 11 0) occ
        else if (s.rd (K.ctl b n)).testBit 30 then s1.ovfReport b n else s1)) ∧
    (∀ occ, s.mgt.ovfPend.contains (8 * b + n) = false → exec (.counterOverflow b n occ) s = .next s)) ∧
  (∀ (s : State) (o : Origin) (ts : Nat),
    (s.allows o K.snapAt 0 = true → exec (.snapAt o ts) s = .next
      (if s.locked = true ∧ s.now + 25000 ≤ ts ∧ ts ≤ s.now + 12500000000 ∧ s.mgt.snapTs = none then
        ((s.mapMgt fun m => { m with snapTs := some ts }).wr K.snapState 1).reply o Status.ok false []
      else s.reply o Status.refused false [])) ∧
    (s.mgt.snapTs = some ts → ts ≤ s.now → ∃ t, exec .snapshotTaken s = .next t ∧ t.rd K.snapTime = ts ∧ t.mgt.snapTs = none ∧
      t.rd K.snapState = (if s.locked then 2 else 3) ∧
      (∀ b, b < 24 → t.rd (K.snapCycles b) = s.rd (K.cycles b) ∧
        ∀ i, i < 8 → t.rd (K.snapCtr b i) = s.rd (K.ctr b i) ∧ t.rd (K.ctr b i) = s.rd (K.ctr b i)) ∧
      s.sameBut [.od, .mgt] t) ∧
    (s.mgt.snapTs = some ts → s.now < ts → exec .snapshotTaken s = .next s) ∧
    (∀ v, s.allows o K.sampleRingBase 0 = true →
      (s.ownedByZero (v / 65536 * 65536) = false → exec (.sampleRingBase o v) s = .next (s.reply o Status.refused false [])) ∧
      ((∀ g, s.ownedByZero ((v / 65536 + g) * 65536) = true) → exec (.sampleRingBase o v) s =
        .next ((s.writePlain o ((s.senderPid o).getD 0) K.sampleRingBase 0 v).1.finish o
          (s.writePlain o ((s.senderPid o).getD 0) K.sampleRingBase 0 v).2))))

/-- Die faults and management ports: a station die's fault is logged, its instances fail with CHECK_FAIL and no cluster of it is
left; an end-point die's takes the EP, with its queues, counters and translations, out of service; an optical die's takes its
two fabric ports dark; a management port's link is only recorded. The shadow: SHADOW_PARTNER is taken from a locked shadow for
a member or for none, and restarts the comparison; the next feed tile goes into its buffer and a gap takes the station out; a
pair of equal digests counts as compared, a pair of unequal ones fails the comparison and the module; with SHADOW_PERIOD over,
enough tiles and no mismatch the comparison passes. -/
def Obligations.DieFaultsAndShadow : Prop :=
  (∀ s : State,
    (∀ sd, s.managed = true → sd < 4 → ∃ u, u = (s.logFault 0x09 sd 0 4 Status.checkFail 0 0).dieFails sd Status.checkFail ∧
      exec (.stationDieFault sd) s = .next u.settleAll ∧ (∀ c ∈ u.stn.clusters, c.1 ≠ sd) ∧ u.rd (K.sdActive0 + sd) = 0 ∧
      ∀ c ∈ u.stn.cores, c.sd = sd → c.out = true) ∧
    (∀ ep, s.managed = true → ep < 4 → s.epUp ep = true → ∃ u : State, exec (.epDieFault ep) s = .next u.settleAll ∧ u.epUp ep = false ∧
      (∀ q ∈ u.ep.queues, q.ep ≠ ep) ∧ (∀ c ∈ u.ep.ctrs, c.ep ≠ ep) ∧ ∀ e ∈ u.xl.rtc, e.ep ≠ ep) ∧
    (∀ ep, s.epUp ep = false → exec (.epDieFault ep) s = .next s) ∧
    (∀ oe, s.managed = true → oe < 8 → s.lnk.oeDead.contains oe = false →
      exec (.oeDieFault oe) s = .next (((((s.logFault 0x0B oe 0 4 0 0 0).mapLnk fun l => { l with
        oeDead := insertOnce l.oeDead oe }).fpDown (2 * oe) psDark 0 false).fpDown (2 * oe + 1) psDark 0 false).settleAll)) ∧
    (∀ n, s.meshN ≤ n + 1 → (s.fpDown n psDark 0 false).rd (K.fpState n) = psDark) ∧
    (∀ b, s.life.mstate ≠ .off → exec (.managementLinkUp b) s = .next (s.wr (mgmtKey b) 1) ∧
      (s.rd (mgmtKey b) ≠ 0 → exec (.managementLinkDown b) s = .next ((s.wr (mgmtKey b) 0).logFault 0x11 (b2n b) 0 4 0 0 0)))) ∧
  (∀ s : State, s.life.mstate = .shadow →
    (∀ o v, s.allows o K.shadowPartner 0 = true →
      (s.locked = true → (v = 31 ∨ (s.peer v).vstate = 3) →
        s.settle o ((s.senderPid o).getD 0) K.shadowPartner 0 v = (s, v, false) →
        exec (.shadowPartner o v) s = .next (((s.wr K.shadowPartner v).shadowRestart v).reply o Status.ok false [])) ∧
      (s.locked = false ∨ (v ≠ 31 ∧ (s.peer v).vstate ≠ 3) →
        exec (.shadowPartner o v) s = .next (s.reply o Status.refused false []))) ∧
    (∀ pid flow index input x i sid st c, s.shd.running = true → s.running pid flow = true →
      s.shd.outs.contains ⟨pid, flow, index⟩ = false → s.instGet ⟨pid, flow, index⟩ = some i → i.ins[input]? = some sid →
      s.strmGet pid flow sid = some st → (st.cons.find? fun c => c.station = some index) = some c →
      (x.tnum = c.expect → (s.intoBuf pid flow sid c.idx x).2 = .done →
        exec (.shadowFeedTile pid flow index input x) s = .next ((s.intoBuf pid flow sid c.idx x).1.setCons pid flow sid c.idx
          fun c => { c with expect := (c.expect + 1) % 2 ^ 32 }).settleAll) ∧
      (x.tnum ≠ c.expect → (x.tnum + 2 ^ 32 - c.expect) % 2 ^ 32 < 2 ^ 31 →
        exec (.shadowFeedTile pid flow index input x) s = .next (s.stationOut ⟨pid, flow, index⟩))) ∧
    (∀ (k : TileKey) (dg own : Nat), s.shd.running = true → s.shd.outs.contains ⟨k.pid, k.flow, k.index⟩ = false →
      s.shd.own = [(k, own)] →
      (own = dg → s.settled = true → ∃ t, exec (.shadowDigest k dg) s = .next t ∧ t.shd.compared = s.shd.compared + 1 ∧
        t.shd.mismatches = s.shd.mismatches ∧ t.shd.own = [] ∧ t.life = s.life) ∧
      (own ≠ dg → s.settled = true → ∃ t, exec (.shadowDigest k dg) s = .next t ∧ t.life.mstate = .failed)) ∧
    (∀ T, s.shd.startAt = some T → s.shd.running = true → s.shd.mismatches = 0 →
      T + 1250000000 * s.rd K.shadowPeriod ≤ s.now → s.rd K.shadowMinTiles ≤ s.shd.compared →
      ∃ t, exec .shadowPass s = .next t ∧ t.rd K.shadowResult = 2 ∧ t.shd.running = false ∧ s.sameBut [.od, .shd] t))

/-- Ports and peers: module i reaches peer j through port (j − i − 1) mod N, one of FP0 to FP(N − 2), each of which leads to
another peer; on the other side the pair uses port (i − j − 1) mod N. -/
def Obligations.PortsAndPeers : Prop :=
  ∀ (s t : State), 2 ≤ s.meshN → s.meshN ≤ 17 → s.mid < s.meshN → t.meshN = s.meshN → t.mid < s.meshN → t.mid ≠ s.mid →
    ((s.portTo t.mid : Nat) : Int) = ((t.mid : Int) - s.mid - 1) % s.meshN ∧
    ((t.portTo s.mid : Nat) : Int) = ((s.mid : Int) - t.mid - 1) % s.meshN ∧
    s.portTo t.mid < s.meshN - 1 ∧ s.midAt (s.portTo t.mid) = t.mid ∧
    ∀ p, p < s.meshN - 1 → s.midAt p < s.meshN ∧ s.midAt p ≠ s.mid ∧ s.portTo (s.midAt p) = p

/-- FAULT_DECLARE of 1 from PID 0 is handled as a fatal fault with code 0x13 whatever the state is; from another PID it is
refused. From TRAINING or SHADOW it leads to FAILED, and RECOVER from there to MAINTENANCE. -/
def Obligations.DeclaredFaults : Prop :=
  ∀ (s : State) (o : Origin), s.managed = true → s.limited o = false →
    (s.senderPid o = some 0 → ∃ v, exec (.fatalFault 0x13 0) s = .next v ∧
      exec (.faultDeclare o 1) s = .next (v.reply o Status.ok false []) ∧
      (s.life.mstate = .training ∨ s.life.mstate = .shadow → ∃ t, exec (.faultDeclare o 1) s = .next t ∧
        t.life.mstate = .failed ∧
        (t.allows o K.stateRequest 0 = true → ∃ u, exec (.recover o) t = .next u ∧ u.life.mstate = .maintenance))) ∧
    (∀ p, s.senderPid o = some p → 0 < p → p < 64 → exec (.faultDeclare o 1) s = .next (s.reply o Status.refused false []))

/-- Stations of a collective, by the model's reading of log entry 67. Routing rows: GET takes a tile of them unless a K lies outside
1 to KMAX or an expert is EXPERTS or more, and then the station fails; each slot is kept or counted in DROPPED_SLOTS, no expert
gets more than CAPS rows, and the kept slots stand in the order of their experts. ALLTOALLV: a receiver fails as its last count
arrives where the sum of the counts, times 64 bytes, exceeds its result buffer. MERGE: the tile that leaves carries the first
position of input 0 and the sum of all positions, and above 16,777,216 positions the station fails. -/
def Obligations.CollectiveStations : Prop :=
  (∀ (i : Inst) (rows : List Row),
    (i.getRouting rows = none ↔ ∃ r ∈ rows, routeK r.1 < 1 ∨ i.colKmax < routeK r.1 ∨ ∃ k, k < routeK r.1 ∧ i.colExperts ≤ routeExp r.1 k) ∧
    (∀ j, i.getRouting rows = some j → (∀ e, nmGet i.col.sent e 0 ≤ i.colCaps) →
      i.col.plan.Pairwise (fun x y => x.expert ≤ y.expert) →
      (∀ e, nmGet j.col.sent e 0 ≤ i.colCaps) ∧ j.col.plan.Pairwise (fun x y => x.expert ≤ y.expert) ∧
        j.col.tokens = i.col.tokens ++ rows.map Prod.fst ∧
        j.col.plan.length + j.col.dropped = i.col.plan.length + i.col.dropped + (rows.map fun r => routeK r.1).sum)) ∧
  (∀ (i : Inst) (t : Tile), i.getCounts t = none ↔ 4 * i.colMembers ≤ i.col.counts.length + t.elems.length ∧
    Config.resultCap i.who.pid i.who.flow i.who.index <
      64 * ((List.range i.colMembers).map fun k => leNat (((i.col.counts ++ t.elems).drop (4 * k)).take 4)).sum) ∧
  (∀ (i : Inst) (t : Tile) (ms : List MergeIn) (x : MergeIn), ms = i.col.merge.filter (fun m => m.k = i.col.puts) →
    (ms.find? fun m => m.input = 0) = some x → i.ins.length ≤ ms.length →
    (2 ^ 24 < (ms.map fun m => tagPositions m.tag).sum → i.putPartial t = none) ∧
    ((ms.map fun m => tagPositions m.tag).sum ≤ 2 ^ 24 → ∃ j u, i.putPartial t = some (j, u) ∧
      bits u.tag 63 40 = bits x.tag 63 40 ∧ tagPositions u.tag = (ms.map fun m => tagPositions m.tag).sum ∧
      u.tag % 65536 = x.tag % 65536 ∧ u.elems = t.elems ∧ j.col.puts = i.col.puts + 1))
end

