-- ==== Sys2Proof/Laws/Memory.lean ====
section
/-! SUPPORT. Sparse byte memory: every write keeps the canonical form, a read after a write gives the byte written,
and no other byte changes. -/

namespace Sys2Proof.Machine

open Sys2Proof

set_option Elab.async false

theorem mfind_mput_self {α : Type} (m : List (Nat × α)) (k : Nat) (v : α) : mfind (mput m k v) k = some v := by
  induction m with
  | nil => simp [mput, mfind]
  | cons e r ih =>
    obtain ⟨a, w⟩ := e
    simp only [mput]
    split
    · simp [mfind]
    · split
      · simp [mfind]
      · rename_i h; simp [mfind, Ne.symm h, ih]

theorem mfind_mput_ne {α : Type} (m : List (Nat × α)) (k x : Nat) (v : α) (h : x ≠ k) : mfind (mput m k v) x = mfind m x := by
  induction m with
  | nil => simp [mput, mfind, Ne.symm h]
  | cons e r ih =>
    obtain ⟨a, w⟩ := e
    simp only [mput]
    split
    · simp [mfind, Ne.symm h]
    · split
      · rename_i h2; subst h2; simp [mfind, Ne.symm h]
      · simp [mfind, ih]

theorem mfind_mdel_ne {α : Type} (m : List (Nat × α)) (k x : Nat) (h : x ≠ k) : mfind (mdel m k) x = mfind m x := by
  induction m with
  | nil => simp [mdel, mfind]
  | cons e r ih =>
    obtain ⟨a, w⟩ := e
    simp only [mdel]
    split
    · rename_i h2; subst h2; simp [mfind, Ne.symm h]
    · simp [mfind, ih]

/-- In a canonical memory nothing is listed below its lower bound. -/
theorem mfind_below (m : Bytes) (lo x : Nat) (hw : Bytes.wfFrom lo m = true) (h : x < lo) : mfind m x = none := by
  induction m generalizing lo with
  | nil => simp [mfind]
  | cons e r ih =>
    obtain ⟨a, w⟩ := e
    simp only [Bytes.wfFrom, Bool.and_eq_true, decide_eq_true_eq] at hw
    have : a ≠ x := by omega
    simp only [mfind, this, if_false]
    exact ih (a + 1) hw.2 (by omega)

theorem mfind_mdel_self (m : Bytes) (lo k : Nat) (hw : Bytes.wfFrom lo m = true) : mfind (mdel m k) k = none := by
  induction m generalizing lo with
  | nil => simp [mdel, mfind]
  | cons e r ih =>
    obtain ⟨a, w⟩ := e
    simp only [Bytes.wfFrom, Bool.and_eq_true, decide_eq_true_eq] at hw
    simp only [mdel]
    split
    · rename_i h2; subst h2; exact mfind_below r (a + 1) a hw.2 (by omega)
    · rename_i h2; simp only [mfind, h2, if_false]; exact ih (a + 1) hw.2

theorem wfFrom_mono (m : Bytes) (lo hi : Nat) (h : lo ≤ hi) (hw : Bytes.wfFrom hi m = true) : Bytes.wfFrom lo m = true := by
  cases m with
  | nil => rfl
  | cons e r =>
    obtain ⟨a, w⟩ := e
    simp only [Bytes.wfFrom, Bool.and_eq_true, decide_eq_true_eq] at hw ⊢
    exact ⟨⟨by omega, hw.1.2⟩, hw.2⟩

theorem wfFrom_mput (m : Bytes) (lo k : Nat) (v : Byte) (h : lo ≤ k) (hv : v ≠ 0) (hw : Bytes.wfFrom lo m = true) :
    Bytes.wfFrom lo (mput m k v) = true := by
  induction m generalizing lo with
  | nil => simpa [mput, Bytes.wfFrom, h] using hv
  | cons e r ih =>
    obtain ⟨a, w⟩ := e
    simp only [Bytes.wfFrom, Bool.and_eq_true, decide_eq_true_eq] at hw
    simp only [mput]
    split
    · rename_i h1
      simp only [Bytes.wfFrom, Bool.and_eq_true, decide_eq_true_eq]
      exact ⟨⟨h, hv⟩, ⟨⟨by omega, hw.1.2⟩, hw.2⟩⟩
    · split
      · rename_i h1 h2
        subst h2
        simp only [Bytes.wfFrom, Bool.and_eq_true, decide_eq_true_eq]
        exact ⟨⟨h, hv⟩, hw.2⟩
      · rename_i h1 h2
        simp only [Bytes.wfFrom, Bool.and_eq_true, decide_eq_true_eq]
        exact ⟨hw.1, ih (a + 1) (by omega) hw.2⟩

theorem wfFrom_mdel (m : Bytes) (lo k : Nat) (hw : Bytes.wfFrom lo m = true) : Bytes.wfFrom lo (mdel m k) = true := by
  induction m generalizing lo with
  | nil => simp [mdel, Bytes.wfFrom]
  | cons e r ih =>
    obtain ⟨a, w⟩ := e
    simp only [Bytes.wfFrom, Bool.and_eq_true, decide_eq_true_eq] at hw
    simp only [mdel]
    split
    · exact wfFrom_mono r lo (a + 1) (by omega) hw.2
    · simp only [Bytes.wfFrom, Bool.and_eq_true, decide_eq_true_eq]
      exact ⟨hw.1, ih (a + 1) hw.2⟩

theorem wfFrom_filter (p : Nat × Byte → Bool) (m : Bytes) (lo : Nat) (hw : Bytes.wfFrom lo m = true) :
    Bytes.wfFrom lo (m.filter p) = true := by
  induction m generalizing lo with
  | nil => rfl
  | cons e r ih =>
    obtain ⟨a, w⟩ := e
    simp only [Bytes.wfFrom, Bool.and_eq_true, decide_eq_true_eq] at hw
    simp only [List.filter_cons]
    split
    · simp only [Bytes.wfFrom, Bool.and_eq_true, decide_eq_true_eq]
      exact ⟨hw.1, ih (a + 1) hw.2⟩
    · exact ih lo (wfFrom_mono r lo (a + 1) (by omega) hw.2)

/-! ### One byte -/

theorem byteSet_wf (m : Bytes) (a : Nat) (b : Byte) (hw : Memory.wf m = true) : Memory.wf (byteSet m a b) = true := by
  unfold byteSet
  split
  · exact wfFrom_mdel m 0 a hw
  · exact wfFrom_mput m 0 a b (by omega) ‹_› hw

theorem byteAt_byteSet_self (m : Bytes) (a : Nat) (b : Byte) (hw : Memory.wf m = true) : byteAt (byteSet m a b) a = b := by
  unfold byteAt byteSet
  split
  · rename_i h; rw [mfind_mdel_self m 0 a hw, h]; rfl
  · rw [mfind_mput_self]; rfl

theorem byteAt_byteSet_ne (m : Bytes) (a x : Nat) (b : Byte) (h : x ≠ a) : byteAt (byteSet m a b) x = byteAt m x := by
  unfold byteAt byteSet
  split
  · rw [mfind_mdel_ne m a x h]
  · rw [mfind_mput_ne m a x b h]

/-! ### Byte strings -/

theorem bytesSet_wf (bs : List Byte) (m : Bytes) (a : Nat) (hw : Memory.wf m = true) : Memory.wf (bytesSet m a bs) = true := by
  induction bs generalizing m a with
  | nil => exact hw
  | cons b r ih => exact ih _ _ (byteSet_wf m a b hw)

theorem bytesSetBE_wf (bs : List Byte) (m : Bytes) (a be : Nat) (hw : Memory.wf m = true) :
    Memory.wf (bytesSetBE m a be bs) = true := by
  induction bs generalizing m a be with
  | nil => exact hw
  | cons b r ih =>
    simp only [bytesSetBE]
    apply ih
    split
    · exact byteSet_wf m a b hw
    · exact hw

theorem bytesDrop_wf (m : Bytes) (lo hi : Nat) (hw : Memory.wf m = true) : Memory.wf (bytesDrop m lo hi) = true :=
  wfFrom_filter _ m 0 hw

/-- A byte outside the span of a write is as before. -/
theorem byteAt_bytesSetBE_out (bs : List Byte) (m : Bytes) (a be x : Nat) (h : x < a ∨ a + bs.length ≤ x) :
    byteAt (bytesSetBE m a be bs) x = byteAt m x := by
  induction bs generalizing m a be with
  | nil => rfl
  | cons b r ih =>
    simp only [bytesSetBE, List.length_cons] at h ⊢
    rw [ih _ _ _ (by omega)]
    split
    · exact byteAt_byteSet_ne m a x b (by omega)
    · rfl

/-- A byte outside the span of a write is as before. -/
theorem byteAt_bytesSet_out (bs : List Byte) (m : Bytes) (a x : Nat) (h : x < a ∨ a + bs.length ≤ x) :
    byteAt (bytesSet m a bs) x = byteAt m x := by
  induction bs generalizing m a with
  | nil => rfl
  | cons b r ih =>
    simp only [bytesSet, List.length_cons] at h ⊢
    rw [ih _ _ (by omega)]
    exact byteAt_byteSet_ne m a x b (by omega)

/-! ### The write of local memory -/

theorem State.poke_memOk (s : State) (a be : Nat) (bs : List Byte) (poi : Bool) (h : Memory.wf s.mem = true) :
    Memory.wf (s.poke a be bs poi).mem = true := by
  have each_mem : ∀ (l : List Nat) (t : State), (t.each l State.setPoison).mem = t.mem := by
    intro l
    induction l with
    | nil => intro t; rfl
    | cons b r ih => intro t; exact ih (t.setPoison b)
  unfold State.poke
  dsimp only
  split
  · rw [each_mem]; exact bytesSetBE_wf bs s.mem a be h
  · exact bytesSetBE_wf bs s.mem a be h

theorem State.store_memOk (s : State) (a : Nat) (bs : List Byte) (h : Memory.wf s.mem = true) :
    Memory.wf (s.store a bs).mem = true := State.poke_memOk s a _ bs false h

end Sys2Proof.Machine
end

