-- ==== Sys2Proof/Laws/State.lean ====
section
/-! SUPPORT. Every field of the state after each of its basic updates: the field that the update names takes its
new value, every other field is as before. -/

namespace Sys2Proof.Machine

open Sys2Proof

set_option Elab.async false

/-! ### `mapLife` -/

@[simp] theorem State.mapLife_pending (s : State) (g : Life → Life) : (s.mapLife g).pending = s.pending := rfl
@[simp] theorem State.mapLife_out (s : State) (g : Life → Life) : (s.mapLife g).out = s.out := rfl
@[simp] theorem State.mapLife_life (s : State) (g : Life → Life) : (s.mapLife g).life = g s.life := rfl
@[simp] theorem State.mapLife_power (s : State) (g : Life → Life) : (s.mapLife g).power = s.power := rfl
@[simp] theorem State.mapLife_od (s : State) (g : Life → Life) : (s.mapLife g).od = s.od := rfl
@[simp] theorem State.mapLife_nv (s : State) (g : Life → Life) : (s.mapLife g).nv = s.nv := rfl
@[simp] theorem State.mapLife_mem (s : State) (g : Life → Life) : (s.mapLife g).mem = s.mem := rfl
@[simp] theorem State.mapLife_poison (s : State) (g : Life → Life) : (s.mapLife g).poison = s.poison := rfl
@[simp] theorem State.mapLife_written (s : State) (g : Life → Life) : (s.mapLife g).written = s.written := rfl
@[simp] theorem State.mapLife_own (s : State) (g : Life → Life) : (s.mapLife g).own = s.own := rfl
@[simp] theorem State.mapLife_fills (s : State) (g : Life → Life) : (s.mapLife g).fills = s.fills := rfl
@[simp] theorem State.mapLife_xl (s : State) (g : Life → Life) : (s.mapLife g).xl = s.xl := rfl
@[simp] theorem State.mapLife_req (s : State) (g : Life → Life) : (s.mapLife g).req = s.req := rfl
@[simp] theorem State.mapLife_home (s : State) (g : Life → Life) : (s.mapLife g).home = s.home := rfl
@[simp] theorem State.mapLife_ep (s : State) (g : Life → Life) : (s.mapLife g).ep = s.ep := rfl
@[simp] theorem State.mapLife_stn (s : State) (g : Life → Life) : (s.mapLife g).stn = s.stn := rfl
@[simp] theorem State.mapLife_sw (s : State) (g : Life → Life) : (s.mapLife g).sw = s.sw := rfl
@[simp] theorem State.mapLife_dlv (s : State) (g : Life → Life) : (s.mapLife g).dlv = s.dlv := rfl
@[simp] theorem State.mapLife_lnk (s : State) (g : Life → Life) : (s.mapLife g).lnk = s.lnk := rfl
@[simp] theorem State.mapLife_tim (s : State) (g : Life → Life) : (s.mapLife g).tim = s.tim := rfl
@[simp] theorem State.mapLife_slu (s : State) (g : Life → Life) : (s.mapLife g).slu = s.slu := rfl
@[simp] theorem State.mapLife_sec (s : State) (g : Life → Life) : (s.mapLife g).sec = s.sec := rfl
@[simp] theorem State.mapLife_mgt (s : State) (g : Life → Life) : (s.mapLife g).mgt = s.mgt := rfl
@[simp] theorem State.mapLife_shd (s : State) (g : Life → Life) : (s.mapLife g).shd = s.shd := rfl
@[simp] theorem State.mapLife_nextId (s : State) (g : Life → Life) : (s.mapLife g).nextId = s.nextId := rfl
@[simp] theorem State.mapLife_free (s : State) (g : Life → Life) : (s.mapLife g).free = s.free := rfl

/-! ### `mapPower` -/

@[simp] theorem State.mapPower_pending (s : State) (g : Power → Power) : (s.mapPower g).pending = s.pending := rfl
@[simp] theorem State.mapPower_out (s : State) (g : Power → Power) : (s.mapPower g).out = s.out := rfl
@[simp] theorem State.mapPower_life (s : State) (g : Power → Power) : (s.mapPower g).life = s.life := rfl
@[simp] theorem State.mapPower_power (s : State) (g : Power → Power) : (s.mapPower g).power = g s.power := rfl
@[simp] theorem State.mapPower_od (s : State) (g : Power → Power) : (s.mapPower g).od = s.od := rfl
@[simp] theorem State.mapPower_nv (s : State) (g : Power → Power) : (s.mapPower g).nv = s.nv := rfl
@[simp] theorem State.mapPower_mem (s : State) (g : Power → Power) : (s.mapPower g).mem = s.mem := rfl
@[simp] theorem State.mapPower_poison (s : State) (g : Power → Power) : (s.mapPower g).poison = s.poison := rfl
@[simp] theorem State.mapPower_written (s : State) (g : Power → Power) : (s.mapPower g).written = s.written := rfl
@[simp] theorem State.mapPower_own (s : State) (g : Power → Power) : (s.mapPower g).own = s.own := rfl
@[simp] theorem State.mapPower_fills (s : State) (g : Power → Power) : (s.mapPower g).fills = s.fills := rfl
@[simp] theorem State.mapPower_xl (s : State) (g : Power → Power) : (s.mapPower g).xl = s.xl := rfl
@[simp] theorem State.mapPower_req (s : State) (g : Power → Power) : (s.mapPower g).req = s.req := rfl
@[simp] theorem State.mapPower_home (s : State) (g : Power → Power) : (s.mapPower g).home = s.home := rfl
@[simp] theorem State.mapPower_ep (s : State) (g : Power → Power) : (s.mapPower g).ep = s.ep := rfl
@[simp] theorem State.mapPower_stn (s : State) (g : Power → Power) : (s.mapPower g).stn = s.stn := rfl
@[simp] theorem State.mapPower_sw (s : State) (g : Power → Power) : (s.mapPower g).sw = s.sw := rfl
@[simp] theorem State.mapPower_dlv (s : State) (g : Power → Power) : (s.mapPower g).dlv = s.dlv := rfl
@[simp] theorem State.mapPower_lnk (s : State) (g : Power → Power) : (s.mapPower g).lnk = s.lnk := rfl
@[simp] theorem State.mapPower_tim (s : State) (g : Power → Power) : (s.mapPower g).tim = s.tim := rfl
@[simp] theorem State.mapPower_slu (s : State) (g : Power → Power) : (s.mapPower g).slu = s.slu := rfl
@[simp] theorem State.mapPower_sec (s : State) (g : Power → Power) : (s.mapPower g).sec = s.sec := rfl
@[simp] theorem State.mapPower_mgt (s : State) (g : Power → Power) : (s.mapPower g).mgt = s.mgt := rfl
@[simp] theorem State.mapPower_shd (s : State) (g : Power → Power) : (s.mapPower g).shd = s.shd := rfl
@[simp] theorem State.mapPower_nextId (s : State) (g : Power → Power) : (s.mapPower g).nextId = s.nextId := rfl
@[simp] theorem State.mapPower_free (s : State) (g : Power → Power) : (s.mapPower g).free = s.free := rfl

/-! ### `mapNv` -/

@[simp] theorem State.mapNv_pending (s : State) (g : Nv → Nv) : (s.mapNv g).pending = s.pending := rfl
@[simp] theorem State.mapNv_out (s : State) (g : Nv → Nv) : (s.mapNv g).out = s.out := rfl
@[simp] theorem State.mapNv_life (s : State) (g : Nv → Nv) : (s.mapNv g).life = s.life := rfl
@[simp] theorem State.mapNv_power (s : State) (g : Nv → Nv) : (s.mapNv g).power = s.power := rfl
@[simp] theorem State.mapNv_od (s : State) (g : Nv → Nv) : (s.mapNv g).od = s.od := rfl
@[simp] theorem State.mapNv_nv (s : State) (g : Nv → Nv) : (s.mapNv g).nv = g s.nv := rfl
@[simp] theorem State.mapNv_mem (s : State) (g : Nv → Nv) : (s.mapNv g).mem = s.mem := rfl
@[simp] theorem State.mapNv_poison (s : State) (g : Nv → Nv) : (s.mapNv g).poison = s.poison := rfl
@[simp] theorem State.mapNv_written (s : State) (g : Nv → Nv) : (s.mapNv g).written = s.written := rfl
@[simp] theorem State.mapNv_own (s : State) (g : Nv → Nv) : (s.mapNv g).own = s.own := rfl
@[simp] theorem State.mapNv_fills (s : State) (g : Nv → Nv) : (s.mapNv g).fills = s.fills := rfl
@[simp] theorem State.mapNv_xl (s : State) (g : Nv → Nv) : (s.mapNv g).xl = s.xl := rfl
@[simp] theorem State.mapNv_req (s : State) (g : Nv → Nv) : (s.mapNv g).req = s.req := rfl
@[simp] theorem State.mapNv_home (s : State) (g : Nv → Nv) : (s.mapNv g).home = s.home := rfl
@[simp] theorem State.mapNv_ep (s : State) (g : Nv → Nv) : (s.mapNv g).ep = s.ep := rfl
@[simp] theorem State.mapNv_stn (s : State) (g : Nv → Nv) : (s.mapNv g).stn = s.stn := rfl
@[simp] theorem State.mapNv_sw (s : State) (g : Nv → Nv) : (s.mapNv g).sw = s.sw := rfl
@[simp] theorem State.mapNv_dlv (s : State) (g : Nv → Nv) : (s.mapNv g).dlv = s.dlv := rfl
@[simp] theorem State.mapNv_lnk (s : State) (g : Nv → Nv) : (s.mapNv g).lnk = s.lnk := rfl
@[simp] theorem State.mapNv_tim (s : State) (g : Nv → Nv) : (s.mapNv g).tim = s.tim := rfl
@[simp] theorem State.mapNv_slu (s : State) (g : Nv → Nv) : (s.mapNv g).slu = s.slu := rfl
@[simp] theorem State.mapNv_sec (s : State) (g : Nv → Nv) : (s.mapNv g).sec = s.sec := rfl
@[simp] theorem State.mapNv_mgt (s : State) (g : Nv → Nv) : (s.mapNv g).mgt = s.mgt := rfl
@[simp] theorem State.mapNv_shd (s : State) (g : Nv → Nv) : (s.mapNv g).shd = s.shd := rfl
@[simp] theorem State.mapNv_nextId (s : State) (g : Nv → Nv) : (s.mapNv g).nextId = s.nextId := rfl
@[simp] theorem State.mapNv_free (s : State) (g : Nv → Nv) : (s.mapNv g).free = s.free := rfl

/-! ### `mapXl` -/

@[simp] theorem State.mapXl_pending (s : State) (g : Xlate → Xlate) : (s.mapXl g).pending = s.pending := rfl
@[simp] theorem State.mapXl_out (s : State) (g : Xlate → Xlate) : (s.mapXl g).out = s.out := rfl
@[simp] theorem State.mapXl_life (s : State) (g : Xlate → Xlate) : (s.mapXl g).life = s.life := rfl
@[simp] theorem State.mapXl_power (s : State) (g : Xlate → Xlate) : (s.mapXl g).power = s.power := rfl
@[simp] theorem State.mapXl_od (s : State) (g : Xlate → Xlate) : (s.mapXl g).od = s.od := rfl
@[simp] theorem State.mapXl_nv (s : State) (g : Xlate → Xlate) : (s.mapXl g).nv = s.nv := rfl
@[simp] theorem State.mapXl_mem (s : State) (g : Xlate → Xlate) : (s.mapXl g).mem = s.mem := rfl
@[simp] theorem State.mapXl_poison (s : State) (g : Xlate → Xlate) : (s.mapXl g).poison = s.poison := rfl
@[simp] theorem State.mapXl_written (s : State) (g : Xlate → Xlate) : (s.mapXl g).written = s.written := rfl
@[simp] theorem State.mapXl_own (s : State) (g : Xlate → Xlate) : (s.mapXl g).own = s.own := rfl
@[simp] theorem State.mapXl_fills (s : State) (g : Xlate → Xlate) : (s.mapXl g).fills = s.fills := rfl
@[simp] theorem State.mapXl_xl (s : State) (g : Xlate → Xlate) : (s.mapXl g).xl = g s.xl := rfl
@[simp] theorem State.mapXl_req (s : State) (g : Xlate → Xlate) : (s.mapXl g).req = s.req := rfl
@[simp] theorem State.mapXl_home (s : State) (g : Xlate → Xlate) : (s.mapXl g).home = s.home := rfl
@[simp] theorem State.mapXl_ep (s : State) (g : Xlate → Xlate) : (s.mapXl g).ep = s.ep := rfl
@[simp] theorem State.mapXl_stn (s : State) (g : Xlate → Xlate) : (s.mapXl g).stn = s.stn := rfl
@[simp] theorem State.mapXl_sw (s : State) (g : Xlate → Xlate) : (s.mapXl g).sw = s.sw := rfl
@[simp] theorem State.mapXl_dlv (s : State) (g : Xlate → Xlate) : (s.mapXl g).dlv = s.dlv := rfl
@[simp] theorem State.mapXl_lnk (s : State) (g : Xlate → Xlate) : (s.mapXl g).lnk = s.lnk := rfl
@[simp] theorem State.mapXl_tim (s : State) (g : Xlate → Xlate) : (s.mapXl g).tim = s.tim := rfl
@[simp] theorem State.mapXl_slu (s : State) (g : Xlate → Xlate) : (s.mapXl g).slu = s.slu := rfl
@[simp] theorem State.mapXl_sec (s : State) (g : Xlate → Xlate) : (s.mapXl g).sec = s.sec := rfl
@[simp] theorem State.mapXl_mgt (s : State) (g : Xlate → Xlate) : (s.mapXl g).mgt = s.mgt := rfl
@[simp] theorem State.mapXl_shd (s : State) (g : Xlate → Xlate) : (s.mapXl g).shd = s.shd := rfl
@[simp] theorem State.mapXl_nextId (s : State) (g : Xlate → Xlate) : (s.mapXl g).nextId = s.nextId := rfl
@[simp] theorem State.mapXl_free (s : State) (g : Xlate → Xlate) : (s.mapXl g).free = s.free := rfl

/-! ### `mapReq` -/

@[simp] theorem State.mapReq_pending (s : State) (g : Reqs → Reqs) : (s.mapReq g).pending = s.pending := rfl
@[simp] theorem State.mapReq_out (s : State) (g : Reqs → Reqs) : (s.mapReq g).out = s.out := rfl
@[simp] theorem State.mapReq_life (s : State) (g : Reqs → Reqs) : (s.mapReq g).life = s.life := rfl
@[simp] theorem State.mapReq_power (s : State) (g : Reqs → Reqs) : (s.mapReq g).power = s.power := rfl
@[simp] theorem State.mapReq_od (s : State) (g : Reqs → Reqs) : (s.mapReq g).od = s.od := rfl
@[simp] theorem State.mapReq_nv (s : State) (g : Reqs → Reqs) : (s.mapReq g).nv = s.nv := rfl
@[simp] theorem State.mapReq_mem (s : State) (g : Reqs → Reqs) : (s.mapReq g).mem = s.mem := rfl
@[simp] theorem State.mapReq_poison (s : State) (g : Reqs → Reqs) : (s.mapReq g).poison = s.poison := rfl
@[simp] theorem State.mapReq_written (s : State) (g : Reqs → Reqs) : (s.mapReq g).written = s.written := rfl
@[simp] theorem State.mapReq_own (s : State) (g : Reqs → Reqs) : (s.mapReq g).own = s.own := rfl
@[simp] theorem State.mapReq_fills (s : State) (g : Reqs → Reqs) : (s.mapReq g).fills = s.fills := rfl
@[simp] theorem State.mapReq_xl (s : State) (g : Reqs → Reqs) : (s.mapReq g).xl = s.xl := rfl
@[simp] theorem State.mapReq_req (s : State) (g : Reqs → Reqs) : (s.mapReq g).req = g s.req := rfl
@[simp] theorem State.mapReq_home (s : State) (g : Reqs → Reqs) : (s.mapReq g).home = s.home := rfl
@[simp] theorem State.mapReq_ep (s : State) (g : Reqs → Reqs) : (s.mapReq g).ep = s.ep := rfl
@[simp] theorem State.mapReq_stn (s : State) (g : Reqs → Reqs) : (s.mapReq g).stn = s.stn := rfl
@[simp] theorem State.mapReq_sw (s : State) (g : Reqs → Reqs) : (s.mapReq g).sw = s.sw := rfl
@[simp] theorem State.mapReq_dlv (s : State) (g : Reqs → Reqs) : (s.mapReq g).dlv = s.dlv := rfl
@[simp] theorem State.mapReq_lnk (s : State) (g : Reqs → Reqs) : (s.mapReq g).lnk = s.lnk := rfl
@[simp] theorem State.mapReq_tim (s : State) (g : Reqs → Reqs) : (s.mapReq g).tim = s.tim := rfl
@[simp] theorem State.mapReq_slu (s : State) (g : Reqs → Reqs) : (s.mapReq g).slu = s.slu := rfl
@[simp] theorem State.mapReq_sec (s : State) (g : Reqs → Reqs) : (s.mapReq g).sec = s.sec := rfl
@[simp] theorem State.mapReq_mgt (s : State) (g : Reqs → Reqs) : (s.mapReq g).mgt = s.mgt := rfl
@[simp] theorem State.mapReq_shd (s : State) (g : Reqs → Reqs) : (s.mapReq g).shd = s.shd := rfl
@[simp] theorem State.mapReq_nextId (s : State) (g : Reqs → Reqs) : (s.mapReq g).nextId = s.nextId := rfl
@[simp] theorem State.mapReq_free (s : State) (g : Reqs → Reqs) : (s.mapReq g).free = s.free := rfl

/-! ### `mapHome` -/

@[simp] theorem State.mapHome_pending (s : State) (g : Home → Home) : (s.mapHome g).pending = s.pending := rfl
@[simp] theorem State.mapHome_out (s : State) (g : Home → Home) : (s.mapHome g).out = s.out := rfl
@[simp] theorem State.mapHome_life (s : State) (g : Home → Home) : (s.mapHome g).life = s.life := rfl
@[simp] theorem State.mapHome_power (s : State) (g : Home → Home) : (s.mapHome g).power = s.power := rfl
@[simp] theorem State.mapHome_od (s : State) (g : Home → Home) : (s.mapHome g).od = s.od := rfl
@[simp] theorem State.mapHome_nv (s : State) (g : Home → Home) : (s.mapHome g).nv = s.nv := rfl
@[simp] theorem State.mapHome_mem (s : State) (g : Home → Home) : (s.mapHome g).mem = s.mem := rfl
@[simp] theorem State.mapHome_poison (s : State) (g : Home → Home) : (s.mapHome g).poison = s.poison := rfl
@[simp] theorem State.mapHome_written (s : State) (g : Home → Home) : (s.mapHome g).written = s.written := rfl
@[simp] theorem State.mapHome_own (s : State) (g : Home → Home) : (s.mapHome g).own = s.own := rfl
@[simp] theorem State.mapHome_fills (s : State) (g : Home → Home) : (s.mapHome g).fills = s.fills := rfl
@[simp] theorem State.mapHome_xl (s : State) (g : Home → Home) : (s.mapHome g).xl = s.xl := rfl
@[simp] theorem State.mapHome_req (s : State) (g : Home → Home) : (s.mapHome g).req = s.req := rfl
@[simp] theorem State.mapHome_home (s : State) (g : Home → Home) : (s.mapHome g).home = g s.home := rfl
@[simp] theorem State.mapHome_ep (s : State) (g : Home → Home) : (s.mapHome g).ep = s.ep := rfl
@[simp] theorem State.mapHome_stn (s : State) (g : Home → Home) : (s.mapHome g).stn = s.stn := rfl
@[simp] theorem State.mapHome_sw (s : State) (g : Home → Home) : (s.mapHome g).sw = s.sw := rfl
@[simp] theorem State.mapHome_dlv (s : State) (g : Home → Home) : (s.mapHome g).dlv = s.dlv := rfl
@[simp] theorem State.mapHome_lnk (s : State) (g : Home → Home) : (s.mapHome g).lnk = s.lnk := rfl
@[simp] theorem State.mapHome_tim (s : State) (g : Home → Home) : (s.mapHome g).tim = s.tim := rfl
@[simp] theorem State.mapHome_slu (s : State) (g : Home → Home) : (s.mapHome g).slu = s.slu := rfl
@[simp] theorem State.mapHome_sec (s : State) (g : Home → Home) : (s.mapHome g).sec = s.sec := rfl
@[simp] theorem State.mapHome_mgt (s : State) (g : Home → Home) : (s.mapHome g).mgt = s.mgt := rfl
@[simp] theorem State.mapHome_shd (s : State) (g : Home → Home) : (s.mapHome g).shd = s.shd := rfl
@[simp] theorem State.mapHome_nextId (s : State) (g : Home → Home) : (s.mapHome g).nextId = s.nextId := rfl
@[simp] theorem State.mapHome_free (s : State) (g : Home → Home) : (s.mapHome g).free = s.free := rfl

/-! ### `mapEp` -/

@[simp] theorem State.mapEp_pending (s : State) (g : EpSt → EpSt) : (s.mapEp g).pending = s.pending := rfl
@[simp] theorem State.mapEp_out (s : State) (g : EpSt → EpSt) : (s.mapEp g).out = s.out := rfl
@[simp] theorem State.mapEp_life (s : State) (g : EpSt → EpSt) : (s.mapEp g).life = s.life := rfl
@[simp] theorem State.mapEp_power (s : State) (g : EpSt → EpSt) : (s.mapEp g).power = s.power := rfl
@[simp] theorem State.mapEp_od (s : State) (g : EpSt → EpSt) : (s.mapEp g).od = s.od := rfl
@[simp] theorem State.mapEp_nv (s : State) (g : EpSt → EpSt) : (s.mapEp g).nv = s.nv := rfl
@[simp] theorem State.mapEp_mem (s : State) (g : EpSt → EpSt) : (s.mapEp g).mem = s.mem := rfl
@[simp] theorem State.mapEp_poison (s : State) (g : EpSt → EpSt) : (s.mapEp g).poison = s.poison := rfl
@[simp] theorem State.mapEp_written (s : State) (g : EpSt → EpSt) : (s.mapEp g).written = s.written := rfl
@[simp] theorem State.mapEp_own (s : State) (g : EpSt → EpSt) : (s.mapEp g).own = s.own := rfl
@[simp] theorem State.mapEp_fills (s : State) (g : EpSt → EpSt) : (s.mapEp g).fills = s.fills := rfl
@[simp] theorem State.mapEp_xl (s : State) (g : EpSt → EpSt) : (s.mapEp g).xl = s.xl := rfl
@[simp] theorem State.mapEp_req (s : State) (g : EpSt → EpSt) : (s.mapEp g).req = s.req := rfl
@[simp] theorem State.mapEp_home (s : State) (g : EpSt → EpSt) : (s.mapEp g).home = s.home := rfl
@[simp] theorem State.mapEp_ep (s : State) (g : EpSt → EpSt) : (s.mapEp g).ep = g s.ep := rfl
@[simp] theorem State.mapEp_stn (s : State) (g : EpSt → EpSt) : (s.mapEp g).stn = s.stn := rfl
@[simp] theorem State.mapEp_sw (s : State) (g : EpSt → EpSt) : (s.mapEp g).sw = s.sw := rfl
@[simp] theorem State.mapEp_dlv (s : State) (g : EpSt → EpSt) : (s.mapEp g).dlv = s.dlv := rfl
@[simp] theorem State.mapEp_lnk (s : State) (g : EpSt → EpSt) : (s.mapEp g).lnk = s.lnk := rfl
@[simp] theorem State.mapEp_tim (s : State) (g : EpSt → EpSt) : (s.mapEp g).tim = s.tim := rfl
@[simp] theorem State.mapEp_slu (s : State) (g : EpSt → EpSt) : (s.mapEp g).slu = s.slu := rfl
@[simp] theorem State.mapEp_sec (s : State) (g : EpSt → EpSt) : (s.mapEp g).sec = s.sec := rfl
@[simp] theorem State.mapEp_mgt (s : State) (g : EpSt → EpSt) : (s.mapEp g).mgt = s.mgt := rfl
@[simp] theorem State.mapEp_shd (s : State) (g : EpSt → EpSt) : (s.mapEp g).shd = s.shd := rfl
@[simp] theorem State.mapEp_nextId (s : State) (g : EpSt → EpSt) : (s.mapEp g).nextId = s.nextId := rfl
@[simp] theorem State.mapEp_free (s : State) (g : EpSt → EpSt) : (s.mapEp g).free = s.free := rfl

/-! ### `mapStn` -/

@[simp] theorem State.mapStn_pending (s : State) (g : Stn → Stn) : (s.mapStn g).pending = s.pending := rfl
@[simp] theorem State.mapStn_out (s : State) (g : Stn → Stn) : (s.mapStn g).out = s.out := rfl
@[simp] theorem State.mapStn_life (s : State) (g : Stn → Stn) : (s.mapStn g).life = s.life := rfl
@[simp] theorem State.mapStn_power (s : State) (g : Stn → Stn) : (s.mapStn g).power = s.power := rfl
@[simp] theorem State.mapStn_od (s : State) (g : Stn → Stn) : (s.mapStn g).od = s.od := rfl
@[simp] theorem State.mapStn_nv (s : State) (g : Stn → Stn) : (s.mapStn g).nv = s.nv := rfl
@[simp] theorem State.mapStn_mem (s : State) (g : Stn → Stn) : (s.mapStn g).mem = s.mem := rfl
@[simp] theorem State.mapStn_poison (s : State) (g : Stn → Stn) : (s.mapStn g).poison = s.poison := rfl
@[simp] theorem State.mapStn_written (s : State) (g : Stn → Stn) : (s.mapStn g).written = s.written := rfl
@[simp] theorem State.mapStn_own (s : State) (g : Stn → Stn) : (s.mapStn g).own = s.own := rfl
@[simp] theorem State.mapStn_fills (s : State) (g : Stn → Stn) : (s.mapStn g).fills = s.fills := rfl
@[simp] theorem State.mapStn_xl (s : State) (g : Stn → Stn) : (s.mapStn g).xl = s.xl := rfl
@[simp] theorem State.mapStn_req (s : State) (g : Stn → Stn) : (s.mapStn g).req = s.req := rfl
@[simp] theorem State.mapStn_home (s : State) (g : Stn → Stn) : (s.mapStn g).home = s.home := rfl
@[simp] theorem State.mapStn_ep (s : State) (g : Stn → Stn) : (s.mapStn g).ep = s.ep := rfl
@[simp] theorem State.mapStn_stn (s : State) (g : Stn → Stn) : (s.mapStn g).stn = g s.stn := rfl
@[simp] theorem State.mapStn_sw (s : State) (g : Stn → Stn) : (s.mapStn g).sw = s.sw := rfl
@[simp] theorem State.mapStn_dlv (s : State) (g : Stn → Stn) : (s.mapStn g).dlv = s.dlv := rfl
@[simp] theorem State.mapStn_lnk (s : State) (g : Stn → Stn) : (s.mapStn g).lnk = s.lnk := rfl
@[simp] theorem State.mapStn_tim (s : State) (g : Stn → Stn) : (s.mapStn g).tim = s.tim := rfl
@[simp] theorem State.mapStn_slu (s : State) (g : Stn → Stn) : (s.mapStn g).slu = s.slu := rfl
@[simp] theorem State.mapStn_sec (s : State) (g : Stn → Stn) : (s.mapStn g).sec = s.sec := rfl
@[simp] theorem State.mapStn_mgt (s : State) (g : Stn → Stn) : (s.mapStn g).mgt = s.mgt := rfl
@[simp] theorem State.mapStn_shd (s : State) (g : Stn → Stn) : (s.mapStn g).shd = s.shd := rfl
@[simp] theorem State.mapStn_nextId (s : State) (g : Stn → Stn) : (s.mapStn g).nextId = s.nextId := rfl
@[simp] theorem State.mapStn_free (s : State) (g : Stn → Stn) : (s.mapStn g).free = s.free := rfl

/-! ### `mapSw` -/

@[simp] theorem State.mapSw_pending (s : State) (g : Switch → Switch) : (s.mapSw g).pending = s.pending := rfl
@[simp] theorem State.mapSw_out (s : State) (g : Switch → Switch) : (s.mapSw g).out = s.out := rfl
@[simp] theorem State.mapSw_life (s : State) (g : Switch → Switch) : (s.mapSw g).life = s.life := rfl
@[simp] theorem State.mapSw_power (s : State) (g : Switch → Switch) : (s.mapSw g).power = s.power := rfl
@[simp] theorem State.mapSw_od (s : State) (g : Switch → Switch) : (s.mapSw g).od = s.od := rfl
@[simp] theorem State.mapSw_nv (s : State) (g : Switch → Switch) : (s.mapSw g).nv = s.nv := rfl
@[simp] theorem State.mapSw_mem (s : State) (g : Switch → Switch) : (s.mapSw g).mem = s.mem := rfl
@[simp] theorem State.mapSw_poison (s : State) (g : Switch → Switch) : (s.mapSw g).poison = s.poison := rfl
@[simp] theorem State.mapSw_written (s : State) (g : Switch → Switch) : (s.mapSw g).written = s.written := rfl
@[simp] theorem State.mapSw_own (s : State) (g : Switch → Switch) : (s.mapSw g).own = s.own := rfl
@[simp] theorem State.mapSw_fills (s : State) (g : Switch → Switch) : (s.mapSw g).fills = s.fills := rfl
@[simp] theorem State.mapSw_xl (s : State) (g : Switch → Switch) : (s.mapSw g).xl = s.xl := rfl
@[simp] theorem State.mapSw_req (s : State) (g : Switch → Switch) : (s.mapSw g).req = s.req := rfl
@[simp] theorem State.mapSw_home (s : State) (g : Switch → Switch) : (s.mapSw g).home = s.home := rfl
@[simp] theorem State.mapSw_ep (s : State) (g : Switch → Switch) : (s.mapSw g).ep = s.ep := rfl
@[simp] theorem State.mapSw_stn (s : State) (g : Switch → Switch) : (s.mapSw g).stn = s.stn := rfl
@[simp] theorem State.mapSw_sw (s : State) (g : Switch → Switch) : (s.mapSw g).sw = g s.sw := rfl
@[simp] theorem State.mapSw_dlv (s : State) (g : Switch → Switch) : (s.mapSw g).dlv = s.dlv := rfl
@[simp] theorem State.mapSw_lnk (s : State) (g : Switch → Switch) : (s.mapSw g).lnk = s.lnk := rfl
@[simp] theorem State.mapSw_tim (s : State) (g : Switch → Switch) : (s.mapSw g).tim = s.tim := rfl
@[simp] theorem State.mapSw_slu (s : State) (g : Switch → Switch) : (s.mapSw g).slu = s.slu := rfl
@[simp] theorem State.mapSw_sec (s : State) (g : Switch → Switch) : (s.mapSw g).sec = s.sec := rfl
@[simp] theorem State.mapSw_mgt (s : State) (g : Switch → Switch) : (s.mapSw g).mgt = s.mgt := rfl
@[simp] theorem State.mapSw_shd (s : State) (g : Switch → Switch) : (s.mapSw g).shd = s.shd := rfl
@[simp] theorem State.mapSw_nextId (s : State) (g : Switch → Switch) : (s.mapSw g).nextId = s.nextId := rfl
@[simp] theorem State.mapSw_free (s : State) (g : Switch → Switch) : (s.mapSw g).free = s.free := rfl

/-! ### `mapDlv` -/

@[simp] theorem State.mapDlv_pending (s : State) (g : Delivery → Delivery) : (s.mapDlv g).pending = s.pending := rfl
@[simp] theorem State.mapDlv_out (s : State) (g : Delivery → Delivery) : (s.mapDlv g).out = s.out := rfl
@[simp] theorem State.mapDlv_life (s : State) (g : Delivery → Delivery) : (s.mapDlv g).life = s.life := rfl
@[simp] theorem State.mapDlv_power (s : State) (g : Delivery → Delivery) : (s.mapDlv g).power = s.power := rfl
@[simp] theorem State.mapDlv_od (s : State) (g : Delivery → Delivery) : (s.mapDlv g).od = s.od := rfl
@[simp] theorem State.mapDlv_nv (s : State) (g : Delivery → Delivery) : (s.mapDlv g).nv = s.nv := rfl
@[simp] theorem State.mapDlv_mem (s : State) (g : Delivery → Delivery) : (s.mapDlv g).mem = s.mem := rfl
@[simp] theorem State.mapDlv_poison (s : State) (g : Delivery → Delivery) : (s.mapDlv g).poison = s.poison := rfl
@[simp] theorem State.mapDlv_written (s : State) (g : Delivery → Delivery) : (s.mapDlv g).written = s.written := rfl
@[simp] theorem State.mapDlv_own (s : State) (g : Delivery → Delivery) : (s.mapDlv g).own = s.own := rfl
@[simp] theorem State.mapDlv_fills (s : State) (g : Delivery → Delivery) : (s.mapDlv g).fills = s.fills := rfl
@[simp] theorem State.mapDlv_xl (s : State) (g : Delivery → Delivery) : (s.mapDlv g).xl = s.xl := rfl
@[simp] theorem State.mapDlv_req (s : State) (g : Delivery → Delivery) : (s.mapDlv g).req = s.req := rfl
@[simp] theorem State.mapDlv_home (s : State) (g : Delivery → Delivery) : (s.mapDlv g).home = s.home := rfl
@[simp] theorem State.mapDlv_ep (s : State) (g : Delivery → Delivery) : (s.mapDlv g).ep = s.ep := rfl
@[simp] theorem State.mapDlv_stn (s : State) (g : Delivery → Delivery) : (s.mapDlv g).stn = s.stn := rfl
@[simp] theorem State.mapDlv_sw (s : State) (g : Delivery → Delivery) : (s.mapDlv g).sw = s.sw := rfl
@[simp] theorem State.mapDlv_dlv (s : State) (g : Delivery → Delivery) : (s.mapDlv g).dlv = g s.dlv := rfl
@[simp] theorem State.mapDlv_lnk (s : State) (g : Delivery → Delivery) : (s.mapDlv g).lnk = s.lnk := rfl
@[simp] theorem State.mapDlv_tim (s : State) (g : Delivery → Delivery) : (s.mapDlv g).tim = s.tim := rfl
@[simp] theorem State.mapDlv_slu (s : State) (g : Delivery → Delivery) : (s.mapDlv g).slu = s.slu := rfl
@[simp] theorem State.mapDlv_sec (s : State) (g : Delivery → Delivery) : (s.mapDlv g).sec = s.sec := rfl
@[simp] theorem State.mapDlv_mgt (s : State) (g : Delivery → Delivery) : (s.mapDlv g).mgt = s.mgt := rfl
@[simp] theorem State.mapDlv_shd (s : State) (g : Delivery → Delivery) : (s.mapDlv g).shd = s.shd := rfl
@[simp] theorem State.mapDlv_nextId (s : State) (g : Delivery → Delivery) : (s.mapDlv g).nextId = s.nextId := rfl
@[simp] theorem State.mapDlv_free (s : State) (g : Delivery → Delivery) : (s.mapDlv g).free = s.free := rfl

/-! ### `mapLnk` -/

@[simp] theorem State.mapLnk_pending (s : State) (g : Links → Links) : (s.mapLnk g).pending = s.pending := rfl
@[simp] theorem State.mapLnk_out (s : State) (g : Links → Links) : (s.mapLnk g).out = s.out := rfl
@[simp] theorem State.mapLnk_life (s : State) (g : Links → Links) : (s.mapLnk g).life = s.life := rfl
@[simp] theorem State.mapLnk_power (s : State) (g : Links → Links) : (s.mapLnk g).power = s.power := rfl
@[simp] theorem State.mapLnk_od (s : State) (g : Links → Links) : (s.mapLnk g).od = s.od := rfl
@[simp] theorem State.mapLnk_nv (s : State) (g : Links → Links) : (s.mapLnk g).nv = s.nv := rfl
@[simp] theorem State.mapLnk_mem (s : State) (g : Links → Links) : (s.mapLnk g).mem = s.mem := rfl
@[simp] theorem State.mapLnk_poison (s : State) (g : Links → Links) : (s.mapLnk g).poison = s.poison := rfl
@[simp] theorem State.mapLnk_written (s : State) (g : Links → Links) : (s.mapLnk g).written = s.written := rfl
@[simp] theorem State.mapLnk_own (s : State) (g : Links → Links) : (s.mapLnk g).own = s.own := rfl
@[simp] theorem State.mapLnk_fills (s : State) (g : Links → Links) : (s.mapLnk g).fills = s.fills := rfl
@[simp] theorem State.mapLnk_xl (s : State) (g : Links → Links) : (s.mapLnk g).xl = s.xl := rfl
@[simp] theorem State.mapLnk_req (s : State) (g : Links → Links) : (s.mapLnk g).req = s.req := rfl
@[simp] theorem State.mapLnk_home (s : State) (g : Links → Links) : (s.mapLnk g).home = s.home := rfl
@[simp] theorem State.mapLnk_ep (s : State) (g : Links → Links) : (s.mapLnk g).ep = s.ep := rfl
@[simp] theorem State.mapLnk_stn (s : State) (g : Links → Links) : (s.mapLnk g).stn = s.stn := rfl
@[simp] theorem State.mapLnk_sw (s : State) (g : Links → Links) : (s.mapLnk g).sw = s.sw := rfl
@[simp] theorem State.mapLnk_dlv (s : State) (g : Links → Links) : (s.mapLnk g).dlv = s.dlv := rfl
@[simp] theorem State.mapLnk_lnk (s : State) (g : Links → Links) : (s.mapLnk g).lnk = g s.lnk := rfl
@[simp] theorem State.mapLnk_tim (s : State) (g : Links → Links) : (s.mapLnk g).tim = s.tim := rfl
@[simp] theorem State.mapLnk_slu (s : State) (g : Links → Links) : (s.mapLnk g).slu = s.slu := rfl
@[simp] theorem State.mapLnk_sec (s : State) (g : Links → Links) : (s.mapLnk g).sec = s.sec := rfl
@[simp] theorem State.mapLnk_mgt (s : State) (g : Links → Links) : (s.mapLnk g).mgt = s.mgt := rfl
@[simp] theorem State.mapLnk_shd (s : State) (g : Links → Links) : (s.mapLnk g).shd = s.shd := rfl
@[simp] theorem State.mapLnk_nextId (s : State) (g : Links → Links) : (s.mapLnk g).nextId = s.nextId := rfl
@[simp] theorem State.mapLnk_free (s : State) (g : Links → Links) : (s.mapLnk g).free = s.free := rfl

/-! ### `mapTim` -/

@[simp] theorem State.mapTim_pending (s : State) (g : Time → Time) : (s.mapTim g).pending = s.pending := rfl
@[simp] theorem State.mapTim_out (s : State) (g : Time → Time) : (s.mapTim g).out = s.out := rfl
@[simp] theorem State.mapTim_life (s : State) (g : Time → Time) : (s.mapTim g).life = s.life := rfl
@[simp] theorem State.mapTim_power (s : State) (g : Time → Time) : (s.mapTim g).power = s.power := rfl
@[simp] theorem State.mapTim_od (s : State) (g : Time → Time) : (s.mapTim g).od = s.od := rfl
@[simp] theorem State.mapTim_nv (s : State) (g : Time → Time) : (s.mapTim g).nv = s.nv := rfl
@[simp] theorem State.mapTim_mem (s : State) (g : Time → Time) : (s.mapTim g).mem = s.mem := rfl
@[simp] theorem State.mapTim_poison (s : State) (g : Time → Time) : (s.mapTim g).poison = s.poison := rfl
@[simp] theorem State.mapTim_written (s : State) (g : Time → Time) : (s.mapTim g).written = s.written := rfl
@[simp] theorem State.mapTim_own (s : State) (g : Time → Time) : (s.mapTim g).own = s.own := rfl
@[simp] theorem State.mapTim_fills (s : State) (g : Time → Time) : (s.mapTim g).fills = s.fills := rfl
@[simp] theorem State.mapTim_xl (s : State) (g : Time → Time) : (s.mapTim g).xl = s.xl := rfl
@[simp] theorem State.mapTim_req (s : State) (g : Time → Time) : (s.mapTim g).req = s.req := rfl
@[simp] theorem State.mapTim_home (s : State) (g : Time → Time) : (s.mapTim g).home = s.home := rfl
@[simp] theorem State.mapTim_ep (s : State) (g : Time → Time) : (s.mapTim g).ep = s.ep := rfl
@[simp] theorem State.mapTim_stn (s : State) (g : Time → Time) : (s.mapTim g).stn = s.stn := rfl
@[simp] theorem State.mapTim_sw (s : State) (g : Time → Time) : (s.mapTim g).sw = s.sw := rfl
@[simp] theorem State.mapTim_dlv (s : State) (g : Time → Time) : (s.mapTim g).dlv = s.dlv := rfl
@[simp] theorem State.mapTim_lnk (s : State) (g : Time → Time) : (s.mapTim g).lnk = s.lnk := rfl
@[simp] theorem State.mapTim_tim (s : State) (g : Time → Time) : (s.mapTim g).tim = g s.tim := rfl
@[simp] theorem State.mapTim_slu (s : State) (g : Time → Time) : (s.mapTim g).slu = s.slu := rfl
@[simp] theorem State.mapTim_sec (s : State) (g : Time → Time) : (s.mapTim g).sec = s.sec := rfl
@[simp] theorem State.mapTim_mgt (s : State) (g : Time → Time) : (s.mapTim g).mgt = s.mgt := rfl
@[simp] theorem State.mapTim_shd (s : State) (g : Time → Time) : (s.mapTim g).shd = s.shd := rfl
@[simp] theorem State.mapTim_nextId (s : State) (g : Time → Time) : (s.mapTim g).nextId = s.nextId := rfl
@[simp] theorem State.mapTim_free (s : State) (g : Time → Time) : (s.mapTim g).free = s.free := rfl

/-! ### `mapSlu` -/

@[simp] theorem State.mapSlu_pending (s : State) (g : Sluice → Sluice) : (s.mapSlu g).pending = s.pending := rfl
@[simp] theorem State.mapSlu_out (s : State) (g : Sluice → Sluice) : (s.mapSlu g).out = s.out := rfl
@[simp] theorem State.mapSlu_life (s : State) (g : Sluice → Sluice) : (s.mapSlu g).life = s.life := rfl
@[simp] theorem State.mapSlu_power (s : State) (g : Sluice → Sluice) : (s.mapSlu g).power = s.power := rfl
@[simp] theorem State.mapSlu_od (s : State) (g : Sluice → Sluice) : (s.mapSlu g).od = s.od := rfl
@[simp] theorem State.mapSlu_nv (s : State) (g : Sluice → Sluice) : (s.mapSlu g).nv = s.nv := rfl
@[simp] theorem State.mapSlu_mem (s : State) (g : Sluice → Sluice) : (s.mapSlu g).mem = s.mem := rfl
@[simp] theorem State.mapSlu_poison (s : State) (g : Sluice → Sluice) : (s.mapSlu g).poison = s.poison := rfl
@[simp] theorem State.mapSlu_written (s : State) (g : Sluice → Sluice) : (s.mapSlu g).written = s.written := rfl
@[simp] theorem State.mapSlu_own (s : State) (g : Sluice → Sluice) : (s.mapSlu g).own = s.own := rfl
@[simp] theorem State.mapSlu_fills (s : State) (g : Sluice → Sluice) : (s.mapSlu g).fills = s.fills := rfl
@[simp] theorem State.mapSlu_xl (s : State) (g : Sluice → Sluice) : (s.mapSlu g).xl = s.xl := rfl
@[simp] theorem State.mapSlu_req (s : State) (g : Sluice → Sluice) : (s.mapSlu g).req = s.req := rfl
@[simp] theorem State.mapSlu_home (s : State) (g : Sluice → Sluice) : (s.mapSlu g).home = s.home := rfl
@[simp] theorem State.mapSlu_ep (s : State) (g : Sluice → Sluice) : (s.mapSlu g).ep = s.ep := rfl
@[simp] theorem State.mapSlu_stn (s : State) (g : Sluice → Sluice) : (s.mapSlu g).stn = s.stn := rfl
@[simp] theorem State.mapSlu_sw (s : State) (g : Sluice → Sluice) : (s.mapSlu g).sw = s.sw := rfl
@[simp] theorem State.mapSlu_dlv (s : State) (g : Sluice → Sluice) : (s.mapSlu g).dlv = s.dlv := rfl
@[simp] theorem State.mapSlu_lnk (s : State) (g : Sluice → Sluice) : (s.mapSlu g).lnk = s.lnk := rfl
@[simp] theorem State.mapSlu_tim (s : State) (g : Sluice → Sluice) : (s.mapSlu g).tim = s.tim := rfl
@[simp] theorem State.mapSlu_slu (s : State) (g : Sluice → Sluice) : (s.mapSlu g).slu = g s.slu := rfl
@[simp] theorem State.mapSlu_sec (s : State) (g : Sluice → Sluice) : (s.mapSlu g).sec = s.sec := rfl
@[simp] theorem State.mapSlu_mgt (s : State) (g : Sluice → Sluice) : (s.mapSlu g).mgt = s.mgt := rfl
@[simp] theorem State.mapSlu_shd (s : State) (g : Sluice → Sluice) : (s.mapSlu g).shd = s.shd := rfl
@[simp] theorem State.mapSlu_nextId (s : State) (g : Sluice → Sluice) : (s.mapSlu g).nextId = s.nextId := rfl
@[simp] theorem State.mapSlu_free (s : State) (g : Sluice → Sluice) : (s.mapSlu g).free = s.free := rfl

/-! ### `mapSec` -/

@[simp] theorem State.mapSec_pending (s : State) (g : Sec → Sec) : (s.mapSec g).pending = s.pending := rfl
@[simp] theorem State.mapSec_out (s : State) (g : Sec → Sec) : (s.mapSec g).out = s.out := rfl
@[simp] theorem State.mapSec_life (s : State) (g : Sec → Sec) : (s.mapSec g).life = s.life := rfl
@[simp] theorem State.mapSec_power (s : State) (g : Sec → Sec) : (s.mapSec g).power = s.power := rfl
@[simp] theorem State.mapSec_od (s : State) (g : Sec → Sec) : (s.mapSec g).od = s.od := rfl
@[simp] theorem State.mapSec_nv (s : State) (g : Sec → Sec) : (s.mapSec g).nv = s.nv := rfl
@[simp] theorem State.mapSec_mem (s : State) (g : Sec → Sec) : (s.mapSec g).mem = s.mem := rfl
@[simp] theorem State.mapSec_poison (s : State) (g : Sec → Sec) : (s.mapSec g).poison = s.poison := rfl
@[simp] theorem State.mapSec_written (s : State) (g : Sec → Sec) : (s.mapSec g).written = s.written := rfl
@[simp] theorem State.mapSec_own (s : State) (g : Sec → Sec) : (s.mapSec g).own = s.own := rfl
@[simp] theorem State.mapSec_fills (s : State) (g : Sec → Sec) : (s.mapSec g).fills = s.fills := rfl
@[simp] theorem State.mapSec_xl (s : State) (g : Sec → Sec) : (s.mapSec g).xl = s.xl := rfl
@[simp] theorem State.mapSec_req (s : State) (g : Sec → Sec) : (s.mapSec g).req = s.req := rfl
@[simp] theorem State.mapSec_home (s : State) (g : Sec → Sec) : (s.mapSec g).home = s.home := rfl
@[simp] theorem State.mapSec_ep (s : State) (g : Sec → Sec) : (s.mapSec g).ep = s.ep := rfl
@[simp] theorem State.mapSec_stn (s : State) (g : Sec → Sec) : (s.mapSec g).stn = s.stn := rfl
@[simp] theorem State.mapSec_sw (s : State) (g : Sec → Sec) : (s.mapSec g).sw = s.sw := rfl
@[simp] theorem State.mapSec_dlv (s : State) (g : Sec → Sec) : (s.mapSec g).dlv = s.dlv := rfl
@[simp] theorem State.mapSec_lnk (s : State) (g : Sec → Sec) : (s.mapSec g).lnk = s.lnk := rfl
@[simp] theorem State.mapSec_tim (s : State) (g : Sec → Sec) : (s.mapSec g).tim = s.tim := rfl
@[simp] theorem State.mapSec_slu (s : State) (g : Sec → Sec) : (s.mapSec g).slu = s.slu := rfl
@[simp] theorem State.mapSec_sec (s : State) (g : Sec → Sec) : (s.mapSec g).sec = g s.sec := rfl
@[simp] theorem State.mapSec_mgt (s : State) (g : Sec → Sec) : (s.mapSec g).mgt = s.mgt := rfl
@[simp] theorem State.mapSec_shd (s : State) (g : Sec → Sec) : (s.mapSec g).shd = s.shd := rfl
@[simp] theorem State.mapSec_nextId (s : State) (g : Sec → Sec) : (s.mapSec g).nextId = s.nextId := rfl
@[simp] theorem State.mapSec_free (s : State) (g : Sec → Sec) : (s.mapSec g).free = s.free := rfl

/-! ### `mapMgt` -/

@[simp] theorem State.mapMgt_pending (s : State) (g : Mgt → Mgt) : (s.mapMgt g).pending = s.pending := rfl
@[simp] theorem State.mapMgt_out (s : State) (g : Mgt → Mgt) : (s.mapMgt g).out = s.out := rfl
@[simp] theorem State.mapMgt_life (s : State) (g : Mgt → Mgt) : (s.mapMgt g).life = s.life := rfl
@[simp] theorem State.mapMgt_power (s : State) (g : Mgt → Mgt) : (s.mapMgt g).power = s.power := rfl
@[simp] theorem State.mapMgt_od (s : State) (g : Mgt → Mgt) : (s.mapMgt g).od = s.od := rfl
@[simp] theorem State.mapMgt_nv (s : State) (g : Mgt → Mgt) : (s.mapMgt g).nv = s.nv := rfl
@[simp] theorem State.mapMgt_mem (s : State) (g : Mgt → Mgt) : (s.mapMgt g).mem = s.mem := rfl
@[simp] theorem State.mapMgt_poison (s : State) (g : Mgt → Mgt) : (s.mapMgt g).poison = s.poison := rfl
@[simp] theorem State.mapMgt_written (s : State) (g : Mgt → Mgt) : (s.mapMgt g).written = s.written := rfl
@[simp] theorem State.mapMgt_own (s : State) (g : Mgt → Mgt) : (s.mapMgt g).own = s.own := rfl
@[simp] theorem State.mapMgt_fills (s : State) (g : Mgt → Mgt) : (s.mapMgt g).fills = s.fills := rfl
@[simp] theorem State.mapMgt_xl (s : State) (g : Mgt → Mgt) : (s.mapMgt g).xl = s.xl := rfl
@[simp] theorem State.mapMgt_req (s : State) (g : Mgt → Mgt) : (s.mapMgt g).req = s.req := rfl
@[simp] theorem State.mapMgt_home (s : State) (g : Mgt → Mgt) : (s.mapMgt g).home = s.home := rfl
@[simp] theorem State.mapMgt_ep (s : State) (g : Mgt → Mgt) : (s.mapMgt g).ep = s.ep := rfl
@[simp] theorem State.mapMgt_stn (s : State) (g : Mgt → Mgt) : (s.mapMgt g).stn = s.stn := rfl
@[simp] theorem State.mapMgt_sw (s : State) (g : Mgt → Mgt) : (s.mapMgt g).sw = s.sw := rfl
@[simp] theorem State.mapMgt_dlv (s : State) (g : Mgt → Mgt) : (s.mapMgt g).dlv = s.dlv := rfl
@[simp] theorem State.mapMgt_lnk (s : State) (g : Mgt → Mgt) : (s.mapMgt g).lnk = s.lnk := rfl
@[simp] theorem State.mapMgt_tim (s : State) (g : Mgt → Mgt) : (s.mapMgt g).tim = s.tim := rfl
@[simp] theorem State.mapMgt_slu (s : State) (g : Mgt → Mgt) : (s.mapMgt g).slu = s.slu := rfl
@[simp] theorem State.mapMgt_sec (s : State) (g : Mgt → Mgt) : (s.mapMgt g).sec = s.sec := rfl
@[simp] theorem State.mapMgt_mgt (s : State) (g : Mgt → Mgt) : (s.mapMgt g).mgt = g s.mgt := rfl
@[simp] theorem State.mapMgt_shd (s : State) (g : Mgt → Mgt) : (s.mapMgt g).shd = s.shd := rfl
@[simp] theorem State.mapMgt_nextId (s : State) (g : Mgt → Mgt) : (s.mapMgt g).nextId = s.nextId := rfl
@[simp] theorem State.mapMgt_free (s : State) (g : Mgt → Mgt) : (s.mapMgt g).free = s.free := rfl

/-! ### `mapShd` -/

@[simp] theorem State.mapShd_pending (s : State) (g : Shadow → Shadow) : (s.mapShd g).pending = s.pending := rfl
@[simp] theorem State.mapShd_out (s : State) (g : Shadow → Shadow) : (s.mapShd g).out = s.out := rfl
@[simp] theorem State.mapShd_life (s : State) (g : Shadow → Shadow) : (s.mapShd g).life = s.life := rfl
@[simp] theorem State.mapShd_power (s : State) (g : Shadow → Shadow) : (s.mapShd g).power = s.power := rfl
@[simp] theorem State.mapShd_od (s : State) (g : Shadow → Shadow) : (s.mapShd g).od = s.od := rfl
@[simp] theorem State.mapShd_nv (s : State) (g : Shadow → Shadow) : (s.mapShd g).nv = s.nv := rfl
@[simp] theorem State.mapShd_mem (s : State) (g : Shadow → Shadow) : (s.mapShd g).mem = s.mem := rfl
@[simp] theorem State.mapShd_poison (s : State) (g : Shadow → Shadow) : (s.mapShd g).poison = s.poison := rfl
@[simp] theorem State.mapShd_written (s : State) (g : Shadow → Shadow) : (s.mapShd g).written = s.written := rfl
@[simp] theorem State.mapShd_own (s : State) (g : Shadow → Shadow) : (s.mapShd g).own = s.own := rfl
@[simp] theorem State.mapShd_fills (s : State) (g : Shadow → Shadow) : (s.mapShd g).fills = s.fills := rfl
@[simp] theorem State.mapShd_xl (s : State) (g : Shadow → Shadow) : (s.mapShd g).xl = s.xl := rfl
@[simp] theorem State.mapShd_req (s : State) (g : Shadow → Shadow) : (s.mapShd g).req = s.req := rfl
@[simp] theorem State.mapShd_home (s : State) (g : Shadow → Shadow) : (s.mapShd g).home = s.home := rfl
@[simp] theorem State.mapShd_ep (s : State) (g : Shadow → Shadow) : (s.mapShd g).ep = s.ep := rfl
@[simp] theorem State.mapShd_stn (s : State) (g : Shadow → Shadow) : (s.mapShd g).stn = s.stn := rfl
@[simp] theorem State.mapShd_sw (s : State) (g : Shadow → Shadow) : (s.mapShd g).sw = s.sw := rfl
@[simp] theorem State.mapShd_dlv (s : State) (g : Shadow → Shadow) : (s.mapShd g).dlv = s.dlv := rfl
@[simp] theorem State.mapShd_lnk (s : State) (g : Shadow → Shadow) : (s.mapShd g).lnk = s.lnk := rfl
@[simp] theorem State.mapShd_tim (s : State) (g : Shadow → Shadow) : (s.mapShd g).tim = s.tim := rfl
@[simp] theorem State.mapShd_slu (s : State) (g : Shadow → Shadow) : (s.mapShd g).slu = s.slu := rfl
@[simp] theorem State.mapShd_sec (s : State) (g : Shadow → Shadow) : (s.mapShd g).sec = s.sec := rfl
@[simp] theorem State.mapShd_mgt (s : State) (g : Shadow → Shadow) : (s.mapShd g).mgt = s.mgt := rfl
@[simp] theorem State.mapShd_shd (s : State) (g : Shadow → Shadow) : (s.mapShd g).shd = g s.shd := rfl
@[simp] theorem State.mapShd_nextId (s : State) (g : Shadow → Shadow) : (s.mapShd g).nextId = s.nextId := rfl
@[simp] theorem State.mapShd_free (s : State) (g : Shadow → Shadow) : (s.mapShd g).free = s.free := rfl

/-! ### `mapFills` -/

@[simp] theorem State.mapFills_pending (s : State) (g : List FillSpan → List FillSpan) : (s.mapFills g).pending = s.pending := rfl
@[simp] theorem State.mapFills_out (s : State) (g : List FillSpan → List FillSpan) : (s.mapFills g).out = s.out := rfl
@[simp] theorem State.mapFills_life (s : State) (g : List FillSpan → List FillSpan) : (s.mapFills g).life = s.life := rfl
@[simp] theorem State.mapFills_power (s : State) (g : List FillSpan → List FillSpan) : (s.mapFills g).power = s.power := rfl
@[simp] theorem State.mapFills_od (s : State) (g : List FillSpan → List FillSpan) : (s.mapFills g).od = s.od := rfl
@[simp] theorem State.mapFills_nv (s : State) (g : List FillSpan → List FillSpan) : (s.mapFills g).nv = s.nv := rfl
@[simp] theorem State.mapFills_mem (s : State) (g : List FillSpan → List FillSpan) : (s.mapFills g).mem = s.mem := rfl
@[simp] theorem State.mapFills_poison (s : State) (g : List FillSpan → List FillSpan) : (s.mapFills g).poison = s.poison := rfl
@[simp] theorem State.mapFills_written (s : State) (g : List FillSpan → List FillSpan) : (s.mapFills g).written = s.written := rfl
@[simp] theorem State.mapFills_own (s : State) (g : List FillSpan → List FillSpan) : (s.mapFills g).own = s.own := rfl
@[simp] theorem State.mapFills_fills (s : State) (g : List FillSpan → List FillSpan) : (s.mapFills g).fills = g s.fills := rfl
@[simp] theorem State.mapFills_xl (s : State) (g : List FillSpan → List FillSpan) : (s.mapFills g).xl = s.xl := rfl
@[simp] theorem State.mapFills_req (s : State) (g : List FillSpan → List FillSpan) : (s.mapFills g).req = s.req := rfl
@[simp] theorem State.mapFills_home (s : State) (g : List FillSpan → List FillSpan) : (s.mapFills g).home = s.home := rfl
@[simp] theorem State.mapFills_ep (s : State) (g : List FillSpan → List FillSpan) : (s.mapFills g).ep = s.ep := rfl
@[simp] theorem State.mapFills_stn (s : State) (g : List FillSpan → List FillSpan) : (s.mapFills g).stn = s.stn := rfl
@[simp] theorem State.mapFills_sw (s : State) (g : List FillSpan → List FillSpan) : (s.mapFills g).sw = s.sw := rfl
@[simp] theorem State.mapFills_dlv (s : State) (g : List FillSpan → List FillSpan) : (s.mapFills g).dlv = s.dlv := rfl
@[simp] theorem State.mapFills_lnk (s : State) (g : List FillSpan → List FillSpan) : (s.mapFills g).lnk = s.lnk := rfl
@[simp] theorem State.mapFills_tim (s : State) (g : List FillSpan → List FillSpan) : (s.mapFills g).tim = s.tim := rfl
@[simp] theorem State.mapFills_slu (s : State) (g : List FillSpan → List FillSpan) : (s.mapFills g).slu = s.slu := rfl
@[simp] theorem State.mapFills_sec (s : State) (g : List FillSpan → List FillSpan) : (s.mapFills g).sec = s.sec := rfl
@[simp] theorem State.mapFills_mgt (s : State) (g : List FillSpan → List FillSpan) : (s.mapFills g).mgt = s.mgt := rfl
@[simp] theorem State.mapFills_shd (s : State) (g : List FillSpan → List FillSpan) : (s.mapFills g).shd = s.shd := rfl
@[simp] theorem State.mapFills_nextId (s : State) (g : List FillSpan → List FillSpan) : (s.mapFills g).nextId = s.nextId := rfl
@[simp] theorem State.mapFills_free (s : State) (g : List FillSpan → List FillSpan) : (s.mapFills g).free = s.free := rfl

/-! ### `mapOwn` -/

@[simp] theorem State.mapOwn_pending (s : State) (g : NMap → NMap) : (s.mapOwn g).pending = s.pending := rfl
@[simp] theorem State.mapOwn_out (s : State) (g : NMap → NMap) : (s.mapOwn g).out = s.out := rfl
@[simp] theorem State.mapOwn_life (s : State) (g : NMap → NMap) : (s.mapOwn g).life = s.life := rfl
@[simp] theorem State.mapOwn_power (s : State) (g : NMap → NMap) : (s.mapOwn g).power = s.power := rfl
@[simp] theorem State.mapOwn_od (s : State) (g : NMap → NMap) : (s.mapOwn g).od = s.od := rfl
@[simp] theorem State.mapOwn_nv (s : State) (g : NMap → NMap) : (s.mapOwn g).nv = s.nv := rfl
@[simp] theorem State.mapOwn_mem (s : State) (g : NMap → NMap) : (s.mapOwn g).mem = s.mem := rfl
@[simp] theorem State.mapOwn_poison (s : State) (g : NMap → NMap) : (s.mapOwn g).poison = s.poison := rfl
@[simp] theorem State.mapOwn_written (s : State) (g : NMap → NMap) : (s.mapOwn g).written = s.written := rfl
@[simp] theorem State.mapOwn_own (s : State) (g : NMap → NMap) : (s.mapOwn g).own = g s.own := rfl
@[simp] theorem State.mapOwn_fills (s : State) (g : NMap → NMap) : (s.mapOwn g).fills = s.fills := rfl
@[simp] theorem State.mapOwn_xl (s : State) (g : NMap → NMap) : (s.mapOwn g).xl = s.xl := rfl
@[simp] theorem State.mapOwn_req (s : State) (g : NMap → NMap) : (s.mapOwn g).req = s.req := rfl
@[simp] theorem State.mapOwn_home (s : State) (g : NMap → NMap) : (s.mapOwn g).home = s.home := rfl
@[simp] theorem State.mapOwn_ep (s : State) (g : NMap → NMap) : (s.mapOwn g).ep = s.ep := rfl
@[simp] theorem State.mapOwn_stn (s : State) (g : NMap → NMap) : (s.mapOwn g).stn = s.stn := rfl
@[simp] theorem State.mapOwn_sw (s : State) (g : NMap → NMap) : (s.mapOwn g).sw = s.sw := rfl
@[simp] theorem State.mapOwn_dlv (s : State) (g : NMap → NMap) : (s.mapOwn g).dlv = s.dlv := rfl
@[simp] theorem State.mapOwn_lnk (s : State) (g : NMap → NMap) : (s.mapOwn g).lnk = s.lnk := rfl
@[simp] theorem State.mapOwn_tim (s : State) (g : NMap → NMap) : (s.mapOwn g).tim = s.tim := rfl
@[simp] theorem State.mapOwn_slu (s : State) (g : NMap → NMap) : (s.mapOwn g).slu = s.slu := rfl
@[simp] theorem State.mapOwn_sec (s : State) (g : NMap → NMap) : (s.mapOwn g).sec = s.sec := rfl
@[simp] theorem State.mapOwn_mgt (s : State) (g : NMap → NMap) : (s.mapOwn g).mgt = s.mgt := rfl
@[simp] theorem State.mapOwn_shd (s : State) (g : NMap → NMap) : (s.mapOwn g).shd = s.shd := rfl
@[simp] theorem State.mapOwn_nextId (s : State) (g : NMap → NMap) : (s.mapOwn g).nextId = s.nextId := rfl
@[simp] theorem State.mapOwn_free (s : State) (g : NMap → NMap) : (s.mapOwn g).free = s.free := rfl

/-! ### `wr` -/

@[simp] theorem State.wr_pending (s : State) (k v : Nat) : (s.wr k v).pending = s.pending := rfl
@[simp] theorem State.wr_out (s : State) (k v : Nat) : (s.wr k v).out = s.out := rfl
@[simp] theorem State.wr_life (s : State) (k v : Nat) : (s.wr k v).life = s.life := rfl
@[simp] theorem State.wr_power (s : State) (k v : Nat) : (s.wr k v).power = s.power := rfl
@[simp] theorem State.wr_od (s : State) (k v : Nat) : (s.wr k v).od = mput s.od k v := rfl
@[simp] theorem State.wr_nv (s : State) (k v : Nat) : (s.wr k v).nv = s.nv := rfl
@[simp] theorem State.wr_mem (s : State) (k v : Nat) : (s.wr k v).mem = s.mem := rfl
@[simp] theorem State.wr_poison (s : State) (k v : Nat) : (s.wr k v).poison = s.poison := rfl
@[simp] theorem State.wr_written (s : State) (k v : Nat) : (s.wr k v).written = s.written := rfl
@[simp] theorem State.wr_own (s : State) (k v : Nat) : (s.wr k v).own = s.own := rfl
@[simp] theorem State.wr_fills (s : State) (k v : Nat) : (s.wr k v).fills = s.fills := rfl
@[simp] theorem State.wr_xl (s : State) (k v : Nat) : (s.wr k v).xl = s.xl := rfl
@[simp] theorem State.wr_req (s : State) (k v : Nat) : (s.wr k v).req = s.req := rfl
@[simp] theorem State.wr_home (s : State) (k v : Nat) : (s.wr k v).home = s.home := rfl
@[simp] theorem State.wr_ep (s : State) (k v : Nat) : (s.wr k v).ep = s.ep := rfl
@[simp] theorem State.wr_stn (s : State) (k v : Nat) : (s.wr k v).stn = s.stn := rfl
@[simp] theorem State.wr_sw (s : State) (k v : Nat) : (s.wr k v).sw = s.sw := rfl
@[simp] theorem State.wr_dlv (s : State) (k v : Nat) : (s.wr k v).dlv = s.dlv := rfl
@[simp] theorem State.wr_lnk (s : State) (k v : Nat) : (s.wr k v).lnk = s.lnk := rfl
@[simp] theorem State.wr_tim (s : State) (k v : Nat) : (s.wr k v).tim = s.tim := rfl
@[simp] theorem State.wr_slu (s : State) (k v : Nat) : (s.wr k v).slu = s.slu := rfl
@[simp] theorem State.wr_sec (s : State) (k v : Nat) : (s.wr k v).sec = s.sec := rfl
@[simp] theorem State.wr_mgt (s : State) (k v : Nat) : (s.wr k v).mgt = s.mgt := rfl
@[simp] theorem State.wr_shd (s : State) (k v : Nat) : (s.wr k v).shd = s.shd := rfl
@[simp] theorem State.wr_nextId (s : State) (k v : Nat) : (s.wr k v).nextId = s.nextId := rfl
@[simp] theorem State.wr_free (s : State) (k v : Nat) : (s.wr k v).free = s.free := rfl

/-! ### `unset` -/

@[simp] theorem State.unset_pending (s : State) (k : Nat) : (s.unset k).pending = s.pending := rfl
@[simp] theorem State.unset_out (s : State) (k : Nat) : (s.unset k).out = s.out := rfl
@[simp] theorem State.unset_life (s : State) (k : Nat) : (s.unset k).life = s.life := rfl
@[simp] theorem State.unset_power (s : State) (k : Nat) : (s.unset k).power = s.power := rfl
@[simp] theorem State.unset_od (s : State) (k : Nat) : (s.unset k).od = mdel s.od k := rfl
@[simp] theorem State.unset_nv (s : State) (k : Nat) : (s.unset k).nv = s.nv := rfl
@[simp] theorem State.unset_mem (s : State) (k : Nat) : (s.unset k).mem = s.mem := rfl
@[simp] theorem State.unset_poison (s : State) (k : Nat) : (s.unset k).poison = s.poison := rfl
@[simp] theorem State.unset_written (s : State) (k : Nat) : (s.unset k).written = s.written := rfl
@[simp] theorem State.unset_own (s : State) (k : Nat) : (s.unset k).own = s.own := rfl
@[simp] theorem State.unset_fills (s : State) (k : Nat) : (s.unset k).fills = s.fills := rfl
@[simp] theorem State.unset_xl (s : State) (k : Nat) : (s.unset k).xl = s.xl := rfl
@[simp] theorem State.unset_req (s : State) (k : Nat) : (s.unset k).req = s.req := rfl
@[simp] theorem State.unset_home (s : State) (k : Nat) : (s.unset k).home = s.home := rfl
@[simp] theorem State.unset_ep (s : State) (k : Nat) : (s.unset k).ep = s.ep := rfl
@[simp] theorem State.unset_stn (s : State) (k : Nat) : (s.unset k).stn = s.stn := rfl
@[simp] theorem State.unset_sw (s : State) (k : Nat) : (s.unset k).sw = s.sw := rfl
@[simp] theorem State.unset_dlv (s : State) (k : Nat) : (s.unset k).dlv = s.dlv := rfl
@[simp] theorem State.unset_lnk (s : State) (k : Nat) : (s.unset k).lnk = s.lnk := rfl
@[simp] theorem State.unset_tim (s : State) (k : Nat) : (s.unset k).tim = s.tim := rfl
@[simp] theorem State.unset_slu (s : State) (k : Nat) : (s.unset k).slu = s.slu := rfl
@[simp] theorem State.unset_sec (s : State) (k : Nat) : (s.unset k).sec = s.sec := rfl
@[simp] theorem State.unset_mgt (s : State) (k : Nat) : (s.unset k).mgt = s.mgt := rfl
@[simp] theorem State.unset_shd (s : State) (k : Nat) : (s.unset k).shd = s.shd := rfl
@[simp] theorem State.unset_nextId (s : State) (k : Nat) : (s.unset k).nextId = s.nextId := rfl
@[simp] theorem State.unset_free (s : State) (k : Nat) : (s.unset k).free = s.free := rfl

/-! ### `emit` -/

@[simp] theorem State.emit_pending (s : State) (o : Out) : (s.emit o).pending = s.pending := rfl
@[simp] theorem State.emit_out (s : State) (o : Out) : (s.emit o).out = s.out ++ [o] := rfl
@[simp] theorem State.emit_life (s : State) (o : Out) : (s.emit o).life = s.life := rfl
@[simp] theorem State.emit_power (s : State) (o : Out) : (s.emit o).power = s.power := rfl
@[simp] theorem State.emit_od (s : State) (o : Out) : (s.emit o).od = s.od := rfl
@[simp] theorem State.emit_nv (s : State) (o : Out) : (s.emit o).nv = s.nv := rfl
@[simp] theorem State.emit_mem (s : State) (o : Out) : (s.emit o).mem = s.mem := rfl
@[simp] theorem State.emit_poison (s : State) (o : Out) : (s.emit o).poison = s.poison := rfl
@[simp] theorem State.emit_written (s : State) (o : Out) : (s.emit o).written = s.written := rfl
@[simp] theorem State.emit_own (s : State) (o : Out) : (s.emit o).own = s.own := rfl
@[simp] theorem State.emit_fills (s : State) (o : Out) : (s.emit o).fills = s.fills := rfl
@[simp] theorem State.emit_xl (s : State) (o : Out) : (s.emit o).xl = s.xl := rfl
@[simp] theorem State.emit_req (s : State) (o : Out) : (s.emit o).req = s.req := rfl
@[simp] theorem State.emit_home (s : State) (o : Out) : (s.emit o).home = s.home := rfl
@[simp] theorem State.emit_ep (s : State) (o : Out) : (s.emit o).ep = s.ep := rfl
@[simp] theorem State.emit_stn (s : State) (o : Out) : (s.emit o).stn = s.stn := rfl
@[simp] theorem State.emit_sw (s : State) (o : Out) : (s.emit o).sw = s.sw := rfl
@[simp] theorem State.emit_dlv (s : State) (o : Out) : (s.emit o).dlv = s.dlv := rfl
@[simp] theorem State.emit_lnk (s : State) (o : Out) : (s.emit o).lnk = s.lnk := rfl
@[simp] theorem State.emit_tim (s : State) (o : Out) : (s.emit o).tim = s.tim := rfl
@[simp] theorem State.emit_slu (s : State) (o : Out) : (s.emit o).slu = s.slu := rfl
@[simp] theorem State.emit_sec (s : State) (o : Out) : (s.emit o).sec = s.sec := rfl
@[simp] theorem State.emit_mgt (s : State) (o : Out) : (s.emit o).mgt = s.mgt := rfl
@[simp] theorem State.emit_shd (s : State) (o : Out) : (s.emit o).shd = s.shd := rfl
@[simp] theorem State.emit_nextId (s : State) (o : Out) : (s.emit o).nextId = s.nextId := rfl
@[simp] theorem State.emit_free (s : State) (o : Out) : (s.emit o).free = s.free := rfl

/-! ### `fresh` -/

@[simp] theorem State.fresh_pending (s : State) : (s.fresh).pending = s.pending := rfl
@[simp] theorem State.fresh_out (s : State) : (s.fresh).out = s.out := rfl
@[simp] theorem State.fresh_life (s : State) : (s.fresh).life = s.life := rfl
@[simp] theorem State.fresh_power (s : State) : (s.fresh).power = s.power := rfl
@[simp] theorem State.fresh_od (s : State) : (s.fresh).od = s.od := rfl
@[simp] theorem State.fresh_nv (s : State) : (s.fresh).nv = s.nv := rfl
@[simp] theorem State.fresh_mem (s : State) : (s.fresh).mem = s.mem := rfl
@[simp] theorem State.fresh_poison (s : State) : (s.fresh).poison = s.poison := rfl
@[simp] theorem State.fresh_written (s : State) : (s.fresh).written = s.written := rfl
@[simp] theorem State.fresh_own (s : State) : (s.fresh).own = s.own := rfl
@[simp] theorem State.fresh_fills (s : State) : (s.fresh).fills = s.fills := rfl
@[simp] theorem State.fresh_xl (s : State) : (s.fresh).xl = s.xl := rfl
@[simp] theorem State.fresh_req (s : State) : (s.fresh).req = s.req := rfl
@[simp] theorem State.fresh_home (s : State) : (s.fresh).home = s.home := rfl
@[simp] theorem State.fresh_ep (s : State) : (s.fresh).ep = s.ep := rfl
@[simp] theorem State.fresh_stn (s : State) : (s.fresh).stn = s.stn := rfl
@[simp] theorem State.fresh_sw (s : State) : (s.fresh).sw = s.sw := rfl
@[simp] theorem State.fresh_dlv (s : State) : (s.fresh).dlv = s.dlv := rfl
@[simp] theorem State.fresh_lnk (s : State) : (s.fresh).lnk = s.lnk := rfl
@[simp] theorem State.fresh_tim (s : State) : (s.fresh).tim = s.tim := rfl
@[simp] theorem State.fresh_slu (s : State) : (s.fresh).slu = s.slu := rfl
@[simp] theorem State.fresh_sec (s : State) : (s.fresh).sec = s.sec := rfl
@[simp] theorem State.fresh_mgt (s : State) : (s.fresh).mgt = s.mgt := rfl
@[simp] theorem State.fresh_shd (s : State) : (s.fresh).shd = s.shd := rfl
@[simp] theorem State.fresh_nextId (s : State) : (s.fresh).nextId = s.nextId + 1 := rfl
@[simp] theorem State.fresh_free (s : State) : (s.fresh).free = s.free := rfl

/-! ### `draw` -/

@[simp] theorem State.draw_pending (s : State) : (s.draw).pending = s.pending := rfl
@[simp] theorem State.draw_out (s : State) : (s.draw).out = s.out := rfl
@[simp] theorem State.draw_life (s : State) : (s.draw).life = s.life := rfl
@[simp] theorem State.draw_power (s : State) : (s.draw).power = s.power := rfl
@[simp] theorem State.draw_od (s : State) : (s.draw).od = s.od := rfl
@[simp] theorem State.draw_nv (s : State) : (s.draw).nv = s.nv := rfl
@[simp] theorem State.draw_mem (s : State) : (s.draw).mem = s.mem := rfl
@[simp] theorem State.draw_poison (s : State) : (s.draw).poison = s.poison := rfl
@[simp] theorem State.draw_written (s : State) : (s.draw).written = s.written := rfl
@[simp] theorem State.draw_own (s : State) : (s.draw).own = s.own := rfl
@[simp] theorem State.draw_fills (s : State) : (s.draw).fills = s.fills := rfl
@[simp] theorem State.draw_xl (s : State) : (s.draw).xl = s.xl := rfl
@[simp] theorem State.draw_req (s : State) : (s.draw).req = s.req := rfl
@[simp] theorem State.draw_home (s : State) : (s.draw).home = s.home := rfl
@[simp] theorem State.draw_ep (s : State) : (s.draw).ep = s.ep := rfl
@[simp] theorem State.draw_stn (s : State) : (s.draw).stn = s.stn := rfl
@[simp] theorem State.draw_sw (s : State) : (s.draw).sw = s.sw := rfl
@[simp] theorem State.draw_dlv (s : State) : (s.draw).dlv = s.dlv := rfl
@[simp] theorem State.draw_lnk (s : State) : (s.draw).lnk = s.lnk := rfl
@[simp] theorem State.draw_tim (s : State) : (s.draw).tim = s.tim := rfl
@[simp] theorem State.draw_slu (s : State) : (s.draw).slu = s.slu := rfl
@[simp] theorem State.draw_sec (s : State) : (s.draw).sec = s.sec := rfl
@[simp] theorem State.draw_mgt (s : State) : (s.draw).mgt = s.mgt := rfl
@[simp] theorem State.draw_shd (s : State) : (s.draw).shd = s.shd := rfl
@[simp] theorem State.draw_nextId (s : State) : (s.draw).nextId = s.nextId := rfl
@[simp] theorem State.draw_free (s : State) : (s.draw).free = s.free + 1 := rfl

/-! ### `setGranule` -/

@[simp] theorem State.setGranule_pending (s : State) (g v : Nat) : (s.setGranule g v).pending = s.pending := rfl
@[simp] theorem State.setGranule_out (s : State) (g v : Nat) : (s.setGranule g v).out = s.out := rfl
@[simp] theorem State.setGranule_life (s : State) (g v : Nat) : (s.setGranule g v).life = s.life := rfl
@[simp] theorem State.setGranule_power (s : State) (g v : Nat) : (s.setGranule g v).power = s.power := rfl
@[simp] theorem State.setGranule_od (s : State) (g v : Nat) : (s.setGranule g v).od = s.od := rfl
@[simp] theorem State.setGranule_nv (s : State) (g v : Nat) : (s.setGranule g v).nv = s.nv := rfl
@[simp] theorem State.setGranule_mem (s : State) (g v : Nat) : (s.setGranule g v).mem = s.mem := rfl
@[simp] theorem State.setGranule_poison (s : State) (g v : Nat) : (s.setGranule g v).poison = s.poison := rfl
@[simp] theorem State.setGranule_written (s : State) (g v : Nat) : (s.setGranule g v).written = s.written := rfl
@[simp] theorem State.setGranule_own (s : State) (g v : Nat) : (s.setGranule g v).own = if v = 0x80 then mdel s.own g else mput s.own g v := rfl
@[simp] theorem State.setGranule_fills (s : State) (g v : Nat) : (s.setGranule g v).fills = s.fills := rfl
@[simp] theorem State.setGranule_xl (s : State) (g v : Nat) : (s.setGranule g v).xl = s.xl := rfl
@[simp] theorem State.setGranule_req (s : State) (g v : Nat) : (s.setGranule g v).req = s.req := rfl
@[simp] theorem State.setGranule_home (s : State) (g v : Nat) : (s.setGranule g v).home = s.home := rfl
@[simp] theorem State.setGranule_ep (s : State) (g v : Nat) : (s.setGranule g v).ep = s.ep := rfl
@[simp] theorem State.setGranule_stn (s : State) (g v : Nat) : (s.setGranule g v).stn = s.stn := rfl
@[simp] theorem State.setGranule_sw (s : State) (g v : Nat) : (s.setGranule g v).sw = s.sw := rfl
@[simp] theorem State.setGranule_dlv (s : State) (g v : Nat) : (s.setGranule g v).dlv = s.dlv := rfl
@[simp] theorem State.setGranule_lnk (s : State) (g v : Nat) : (s.setGranule g v).lnk = s.lnk := rfl
@[simp] theorem State.setGranule_tim (s : State) (g v : Nat) : (s.setGranule g v).tim = s.tim := rfl
@[simp] theorem State.setGranule_slu (s : State) (g v : Nat) : (s.setGranule g v).slu = s.slu := rfl
@[simp] theorem State.setGranule_sec (s : State) (g v : Nat) : (s.setGranule g v).sec = s.sec := rfl
@[simp] theorem State.setGranule_mgt (s : State) (g v : Nat) : (s.setGranule g v).mgt = s.mgt := rfl
@[simp] theorem State.setGranule_shd (s : State) (g v : Nat) : (s.setGranule g v).shd = s.shd := rfl
@[simp] theorem State.setGranule_nextId (s : State) (g v : Nat) : (s.setGranule g v).nextId = s.nextId := rfl
@[simp] theorem State.setGranule_free (s : State) (g v : Nat) : (s.setGranule g v).free = s.free := rfl

/-! ### `setPoison` -/

@[simp] theorem State.setPoison_pending (s : State) (l : Nat) : (s.setPoison l).pending = s.pending := rfl
@[simp] theorem State.setPoison_out (s : State) (l : Nat) : (s.setPoison l).out = s.out := rfl
@[simp] theorem State.setPoison_life (s : State) (l : Nat) : (s.setPoison l).life = s.life := rfl
@[simp] theorem State.setPoison_power (s : State) (l : Nat) : (s.setPoison l).power = s.power := rfl
@[simp] theorem State.setPoison_od (s : State) (l : Nat) : (s.setPoison l).od = s.od := rfl
@[simp] theorem State.setPoison_nv (s : State) (l : Nat) : (s.setPoison l).nv = s.nv := rfl
@[simp] theorem State.setPoison_mem (s : State) (l : Nat) : (s.setPoison l).mem = s.mem := rfl
@[simp] theorem State.setPoison_poison (s : State) (l : Nat) : (s.setPoison l).poison = insertOnce s.poison l := rfl
@[simp] theorem State.setPoison_written (s : State) (l : Nat) : (s.setPoison l).written = s.written := rfl
@[simp] theorem State.setPoison_own (s : State) (l : Nat) : (s.setPoison l).own = s.own := rfl
@[simp] theorem State.setPoison_fills (s : State) (l : Nat) : (s.setPoison l).fills = s.fills := rfl
@[simp] theorem State.setPoison_xl (s : State) (l : Nat) : (s.setPoison l).xl = s.xl := rfl
@[simp] theorem State.setPoison_req (s : State) (l : Nat) : (s.setPoison l).req = s.req := rfl
@[simp] theorem State.setPoison_home (s : State) (l : Nat) : (s.setPoison l).home = s.home := rfl
@[simp] theorem State.setPoison_ep (s : State) (l : Nat) : (s.setPoison l).ep = s.ep := rfl
@[simp] theorem State.setPoison_stn (s : State) (l : Nat) : (s.setPoison l).stn = s.stn := rfl
@[simp] theorem State.setPoison_sw (s : State) (l : Nat) : (s.setPoison l).sw = s.sw := rfl
@[simp] theorem State.setPoison_dlv (s : State) (l : Nat) : (s.setPoison l).dlv = s.dlv := rfl
@[simp] theorem State.setPoison_lnk (s : State) (l : Nat) : (s.setPoison l).lnk = s.lnk := rfl
@[simp] theorem State.setPoison_tim (s : State) (l : Nat) : (s.setPoison l).tim = s.tim := rfl
@[simp] theorem State.setPoison_slu (s : State) (l : Nat) : (s.setPoison l).slu = s.slu := rfl
@[simp] theorem State.setPoison_sec (s : State) (l : Nat) : (s.setPoison l).sec = s.sec := rfl
@[simp] theorem State.setPoison_mgt (s : State) (l : Nat) : (s.setPoison l).mgt = s.mgt := rfl
@[simp] theorem State.setPoison_shd (s : State) (l : Nat) : (s.setPoison l).shd = s.shd := rfl
@[simp] theorem State.setPoison_nextId (s : State) (l : Nat) : (s.setPoison l).nextId = s.nextId := rfl
@[simp] theorem State.setPoison_free (s : State) (l : Nat) : (s.setPoison l).free = s.free := rfl

/-! ### `clearPoison` -/

@[simp] theorem State.clearPoison_pending (s : State) (l : Nat) : (s.clearPoison l).pending = s.pending := rfl
@[simp] theorem State.clearPoison_out (s : State) (l : Nat) : (s.clearPoison l).out = s.out := rfl
@[simp] theorem State.clearPoison_life (s : State) (l : Nat) : (s.clearPoison l).life = s.life := rfl
@[simp] theorem State.clearPoison_power (s : State) (l : Nat) : (s.clearPoison l).power = s.power := rfl
@[simp] theorem State.clearPoison_od (s : State) (l : Nat) : (s.clearPoison l).od = s.od := rfl
@[simp] theorem State.clearPoison_nv (s : State) (l : Nat) : (s.clearPoison l).nv = s.nv := rfl
@[simp] theorem State.clearPoison_mem (s : State) (l : Nat) : (s.clearPoison l).mem = s.mem := rfl
@[simp] theorem State.clearPoison_poison (s : State) (l : Nat) : (s.clearPoison l).poison = removeAll s.poison [l] := rfl
@[simp] theorem State.clearPoison_written (s : State) (l : Nat) : (s.clearPoison l).written = s.written := rfl
@[simp] theorem State.clearPoison_own (s : State) (l : Nat) : (s.clearPoison l).own = s.own := rfl
@[simp] theorem State.clearPoison_fills (s : State) (l : Nat) : (s.clearPoison l).fills = s.fills := rfl
@[simp] theorem State.clearPoison_xl (s : State) (l : Nat) : (s.clearPoison l).xl = s.xl := rfl
@[simp] theorem State.clearPoison_req (s : State) (l : Nat) : (s.clearPoison l).req = s.req := rfl
@[simp] theorem State.clearPoison_home (s : State) (l : Nat) : (s.clearPoison l).home = s.home := rfl
@[simp] theorem State.clearPoison_ep (s : State) (l : Nat) : (s.clearPoison l).ep = s.ep := rfl
@[simp] theorem State.clearPoison_stn (s : State) (l : Nat) : (s.clearPoison l).stn = s.stn := rfl
@[simp] theorem State.clearPoison_sw (s : State) (l : Nat) : (s.clearPoison l).sw = s.sw := rfl
@[simp] theorem State.clearPoison_dlv (s : State) (l : Nat) : (s.clearPoison l).dlv = s.dlv := rfl
@[simp] theorem State.clearPoison_lnk (s : State) (l : Nat) : (s.clearPoison l).lnk = s.lnk := rfl
@[simp] theorem State.clearPoison_tim (s : State) (l : Nat) : (s.clearPoison l).tim = s.tim := rfl
@[simp] theorem State.clearPoison_slu (s : State) (l : Nat) : (s.clearPoison l).slu = s.slu := rfl
@[simp] theorem State.clearPoison_sec (s : State) (l : Nat) : (s.clearPoison l).sec = s.sec := rfl
@[simp] theorem State.clearPoison_mgt (s : State) (l : Nat) : (s.clearPoison l).mgt = s.mgt := rfl
@[simp] theorem State.clearPoison_shd (s : State) (l : Nat) : (s.clearPoison l).shd = s.shd := rfl
@[simp] theorem State.clearPoison_nextId (s : State) (l : Nat) : (s.clearPoison l).nextId = s.nextId := rfl
@[simp] theorem State.clearPoison_free (s : State) (l : Nat) : (s.clearPoison l).free = s.free := rfl

end Sys2Proof.Machine
end

