-- ==== Sys2Proof/Laws/Only.lean ====
section
/-! SUPPORT. `State.Only l s t`: `t` comes from `s` by changes in the listed sections alone, and `State.Keeps` holds. One
lemma per basic update; the lemmas of the shared operations stand in the files beside this one, one file per file of
Machine, and each names the sections that its operation may change. -/

namespace Sys2Proof.Machine

open Sys2Proof

set_option Elab.async false

/-- `t` comes from `s` by changes in the listed sections alone. -/
def State.Only (l : List Sect) (s t : State) : Prop := State.Keeps s t ∧ State.sameBut l s t

theorem State.Keeps.refl (s : State) : State.Keeps s s := ⟨rfl, rfl, id, id⟩

theorem State.Keeps.trans {r s t : State} (h : State.Keeps r s) (k : State.Keeps s t) : State.Keeps r t :=
  ⟨k.1.trans h.1, k.2.1.trans h.2.1, fun m => k.2.2.1 (h.2.2.1 m), fun m => k.2.2.2 (h.2.2.2 m)⟩

theorem State.agree.refl (s : State) (x : Sect) : s.agree s x := by
  cases x <;> simp [State.agree]

theorem State.agree.trans {r s t : State} {x : Sect} (h : r.agree s x) (k : s.agree t x) : r.agree t x := by
  cases x <;> simp only [State.agree] at *
  case nv => exact ⟨k.1.trans h.1, k.2.trans h.2⟩
  case nvq => exact ⟨k.1.trans h.1, k.2.1.trans h.2.1, k.2.2.trans h.2.2⟩
  all_goals exact k.trans h

theorem State.Only.refl (l : List Sect) (s : State) : State.Only l s s := ⟨State.Keeps.refl s, fun x _ => State.agree.refl s x⟩

theorem State.Only.trans {l : List Sect} {r s t : State} (h : State.Only l r s) (k : State.Only l s t) : State.Only l r t :=
  ⟨h.1.trans k.1, fun x hx => (h.2 x hx).trans (k.2 x hx)⟩

/-- Sections listed in a literal are among those listed in another. -/
theorem Sect.sub {a b l : List Sect} (h : (a.all fun x => b.contains x) = true) (hl : b ⊆ l) : a ⊆ l := by
  intro x hx
  have := List.all_eq_true.mp h x hx
  exact hl (by simpa using this)

theorem map_mapIf {α β : Type} (p : α → Bool) (f : α → α) (g : α → β) (hf : ∀ a, g (f a) = g a) (l : List α) :
    (mapIf p f l).map g = l.map g := by
  unfold mapIf
  rw [List.map_map]
  apply List.map_congr_left
  intro a _
  simp only [Function.comp]
  split
  · exact hf a
  · rfl

theorem map_map_same {α β : Type} (f : α → α) (g : α → β) (hf : ∀ a, g (f a) = g a) (l : List α) :
    (l.map f).map g = l.map g := by
  rw [List.map_map]
  exact List.map_congr_left fun a _ => hf a

variable {s0 s : State} {l : List Sect}

/-- An update that touches nothing of `Keeps`, judged section by section. -/
theorem State.Only.step {t : State} (h : State.Only l s0 s) (h1 : t.pending = s.pending) (h2 : t.life.order768 = s.life.order768)
    (h3 : t.mem = s.mem) (h4 : t.lnk = s.lnk) (h5 : t.dlv = s.dlv) (hx : ∀ x, x ∉ l → s.agree t x) : State.Only l s0 t := by
  refine h.trans ⟨⟨h1, h2, ?_, ?_⟩, hx⟩
  · intro m; unfold State.memOk at *; rw [h3]; exact m
  · intro m; unfold State.unitsOk at *; rw [h4, h5]; exact m

theorem State.each_only {α : Type} (h : State.Only l s0 s) (xs : List α) (f : State → α → State)
    (hf : ∀ t a, State.Only l s0 t → State.Only l s0 (f t a)) : State.Only l s0 (s.each xs f) := by
  unfold State.each
  induction xs generalizing s with
  | nil => exact h
  | cons a r ih => exact ih (hf s a h)

theorem State.foldl_only {α : Type} (f : State → α → State) (xs : List α) (t : State) (h : State.Only l s0 t)
    (hf : ∀ t a, State.Only l s0 t → State.Only l s0 (f t a)) : State.Only l s0 (xs.foldl f t) := State.each_only h xs f hf

/-- A fold that carries a state in the first component. -/
theorem State.foldlPair_only {α β : Type} (f : State × β → α → State × β) (xs : List α) (p : State × β)
    (h : State.Only l s0 p.1) (hf : ∀ q a, State.Only l s0 q.1 → State.Only l s0 (f q a).1) :
    State.Only l s0 (xs.foldl f p).1 := by
  induction xs generalizing p with
  | nil => exact h
  | cons a r ih => exact ih (f p a) (hf p a h)

/-- The state of a pair that a match has taken apart. -/
theorem State.fst_only {β : Type} {p : State × β} {t : State} {b : β} (e : p = (t, b)) (h : State.Only l s0 p.1) :
    State.Only l s0 t := by
  rw [e] at h; exact h

theorem State.ite_only {c : Prop} [Decidable c] {a b : State} (ha : State.Only l s0 a) (hb : State.Only l s0 b) :
    State.Only l s0 (if c then a else b) := by
  split
  · exact ha
  · exact hb

/-! ### Basic updates -/

theorem State.mapPower_only (hl : [Sect.power] ⊆ l) (h : State.Only l s0 s) (g : Power → Power) : State.Only l s0 (s.mapPower g) :=
  h.step rfl rfl rfl rfl rfl fun x hx => by
    cases x <;> first | exact rfl | exact ⟨rfl, rfl⟩ | exact ⟨rfl, rfl, rfl⟩ | exact absurd (hl (by simp)) hx

theorem State.mapXl_only (hl : [Sect.xl] ⊆ l) (h : State.Only l s0 s) (g : Xlate → Xlate) : State.Only l s0 (s.mapXl g) :=
  h.step rfl rfl rfl rfl rfl fun x hx => by
    cases x <;> first | exact rfl | exact ⟨rfl, rfl⟩ | exact ⟨rfl, rfl, rfl⟩ | exact absurd (hl (by simp)) hx

theorem State.mapReq_only (hl : [Sect.req] ⊆ l) (h : State.Only l s0 s) (g : Reqs → Reqs) : State.Only l s0 (s.mapReq g) :=
  h.step rfl rfl rfl rfl rfl fun x hx => by
    cases x <;> first | exact rfl | exact ⟨rfl, rfl⟩ | exact ⟨rfl, rfl, rfl⟩ | exact absurd (hl (by simp)) hx

theorem State.mapHome_only (hl : [Sect.home] ⊆ l) (h : State.Only l s0 s) (g : Home → Home) : State.Only l s0 (s.mapHome g) :=
  h.step rfl rfl rfl rfl rfl fun x hx => by
    cases x <;> first | exact rfl | exact ⟨rfl, rfl⟩ | exact ⟨rfl, rfl, rfl⟩ | exact absurd (hl (by simp)) hx

theorem State.mapEp_only (hl : [Sect.ep] ⊆ l) (h : State.Only l s0 s) (g : EpSt → EpSt) : State.Only l s0 (s.mapEp g) :=
  h.step rfl rfl rfl rfl rfl fun x hx => by
    cases x <;> first | exact rfl | exact ⟨rfl, rfl⟩ | exact ⟨rfl, rfl, rfl⟩ | exact absurd (hl (by simp)) hx

theorem State.mapStn_only (hl : [Sect.stn] ⊆ l) (h : State.Only l s0 s) (g : Stn → Stn) : State.Only l s0 (s.mapStn g) :=
  h.step rfl rfl rfl rfl rfl fun x hx => by
    cases x <;> first | exact rfl | exact ⟨rfl, rfl⟩ | exact ⟨rfl, rfl, rfl⟩ | exact absurd (hl (by simp)) hx

theorem State.mapSw_only (hl : [Sect.sw] ⊆ l) (h : State.Only l s0 s) (g : Switch → Switch) : State.Only l s0 (s.mapSw g) :=
  h.step rfl rfl rfl rfl rfl fun x hx => by
    cases x <;> first | exact rfl | exact ⟨rfl, rfl⟩ | exact ⟨rfl, rfl, rfl⟩ | exact absurd (hl (by simp)) hx

theorem State.mapTim_only (hl : [Sect.tim] ⊆ l) (h : State.Only l s0 s) (g : Time → Time) : State.Only l s0 (s.mapTim g) :=
  h.step rfl rfl rfl rfl rfl fun x hx => by
    cases x <;> first | exact rfl | exact ⟨rfl, rfl⟩ | exact ⟨rfl, rfl, rfl⟩ | exact absurd (hl (by simp)) hx

theorem State.mapSlu_only (hl : [Sect.slu] ⊆ l) (h : State.Only l s0 s) (g : Sluice → Sluice) : State.Only l s0 (s.mapSlu g) :=
  h.step rfl rfl rfl rfl rfl fun x hx => by
    cases x <;> first | exact rfl | exact ⟨rfl, rfl⟩ | exact ⟨rfl, rfl, rfl⟩ | exact absurd (hl (by simp)) hx

theorem State.mapSec_only (hl : [Sect.sec] ⊆ l) (h : State.Only l s0 s) (g : Sec → Sec) : State.Only l s0 (s.mapSec g) :=
  h.step rfl rfl rfl rfl rfl fun x hx => by
    cases x <;> first | exact rfl | exact ⟨rfl, rfl⟩ | exact ⟨rfl, rfl, rfl⟩ | exact absurd (hl (by simp)) hx

theorem State.mapMgt_only (hl : [Sect.mgt] ⊆ l) (h : State.Only l s0 s) (g : Mgt → Mgt) : State.Only l s0 (s.mapMgt g) :=
  h.step rfl rfl rfl rfl rfl fun x hx => by
    cases x <;> first | exact rfl | exact ⟨rfl, rfl⟩ | exact ⟨rfl, rfl, rfl⟩ | exact absurd (hl (by simp)) hx

theorem State.mapShd_only (hl : [Sect.shd] ⊆ l) (h : State.Only l s0 s) (g : Shadow → Shadow) : State.Only l s0 (s.mapShd g) :=
  h.step rfl rfl rfl rfl rfl fun x hx => by
    cases x <;> first | exact rfl | exact ⟨rfl, rfl⟩ | exact ⟨rfl, rfl, rfl⟩ | exact absurd (hl (by simp)) hx

theorem State.mapFills_only (hl : [Sect.fills] ⊆ l) (h : State.Only l s0 s) (g : List FillSpan → List FillSpan) : State.Only l s0 (s.mapFills g) :=
  h.step rfl rfl rfl rfl rfl fun x hx => by
    cases x <;> first | exact rfl | exact ⟨rfl, rfl⟩ | exact ⟨rfl, rfl, rfl⟩ | exact absurd (hl (by simp)) hx

theorem State.mapOwn_only (hl : [Sect.own] ⊆ l) (h : State.Only l s0 s) (g : NMap → NMap) : State.Only l s0 (s.mapOwn g) :=
  h.step rfl rfl rfl rfl rfl fun x hx => by
    cases x <;> first | exact rfl | exact ⟨rfl, rfl⟩ | exact ⟨rfl, rfl, rfl⟩ | exact absurd (hl (by simp)) hx

theorem State.wr_only (hl : [Sect.od] ⊆ l) (h : State.Only l s0 s) (k v : Nat) : State.Only l s0 (s.wr k v) :=
  h.step rfl rfl rfl rfl rfl fun x hx => by
    cases x <;> first | exact rfl | exact ⟨rfl, rfl⟩ | exact ⟨rfl, rfl, rfl⟩ | exact absurd (hl (by simp)) hx

theorem State.unset_only (hl : [Sect.od] ⊆ l) (h : State.Only l s0 s) (k : Nat) : State.Only l s0 (s.unset k) :=
  h.step rfl rfl rfl rfl rfl fun x hx => by
    cases x <;> first | exact rfl | exact ⟨rfl, rfl⟩ | exact ⟨rfl, rfl, rfl⟩ | exact absurd (hl (by simp)) hx

theorem State.emit_only (hl : [Sect.out] ⊆ l) (h : State.Only l s0 s) (o : Out) : State.Only l s0 (s.emit o) :=
  h.step rfl rfl rfl rfl rfl fun x hx => by
    cases x <;> first | exact rfl | exact ⟨rfl, rfl⟩ | exact ⟨rfl, rfl, rfl⟩ | exact absurd (hl (by simp)) hx

theorem State.setGranule_only (hl : [Sect.own] ⊆ l) (h : State.Only l s0 s) (g v : Nat) : State.Only l s0 (s.setGranule g v) :=
  h.step rfl rfl rfl rfl rfl fun x hx => by
    cases x <;> first | exact rfl | exact ⟨rfl, rfl⟩ | exact ⟨rfl, rfl, rfl⟩ | exact absurd (hl (by simp)) hx

theorem State.setPoison_only (hl : [Sect.poison] ⊆ l) (h : State.Only l s0 s) (b : Nat) : State.Only l s0 (s.setPoison b) :=
  h.step rfl rfl rfl rfl rfl fun x hx => by
    cases x <;> first | exact rfl | exact ⟨rfl, rfl⟩ | exact ⟨rfl, rfl, rfl⟩ | exact absurd (hl (by simp)) hx

theorem State.clearPoison_only (hl : [Sect.poison] ⊆ l) (h : State.Only l s0 s) (b : Nat) : State.Only l s0 (s.clearPoison b) :=
  h.step rfl rfl rfl rfl rfl fun x hx => by
    cases x <;> first | exact rfl | exact ⟨rfl, rfl⟩ | exact ⟨rfl, rfl, rfl⟩ | exact absurd (hl (by simp)) hx

theorem State.fresh_only (_hl : [] ⊆ l) (h : State.Only l s0 s) : State.Only l s0 s.fresh :=
  h.step rfl rfl rfl rfl rfl fun x _ => by cases x <;> first | exact rfl | exact ⟨rfl, rfl⟩ | exact ⟨rfl, rfl, rfl⟩

theorem State.draw_only (_hl : [] ⊆ l) (h : State.Only l s0 s) : State.Only l s0 s.draw :=
  h.step rfl rfl rfl rfl rfl fun x _ => by cases x <;> first | exact rfl | exact ⟨rfl, rfl⟩ | exact ⟨rfl, rfl, rfl⟩

theorem State.mapNv_only (hl : [Sect.nv, Sect.nvq] ⊆ l) (h : State.Only l s0 s) (g : Nv → Nv) : State.Only l s0 (s.mapNv g) :=
  h.step rfl rfl rfl rfl rfl fun x hx => by
    cases x <;> first | exact rfl | exact ⟨rfl, rfl⟩ | exact ⟨rfl, rfl, rfl⟩ | exact absurd (hl (by simp)) hx

/-- An update of the non-volatile store that leaves both banks. -/
theorem State.mapNvq_only (hl : [Sect.nvq] ⊆ l) (h : State.Only l s0 s) (g : Nv → Nv) (hg : ∀ n, (g n).a = n.a ∧ (g n).b = n.b) :
    State.Only l s0 (s.mapNv g) :=
  h.step rfl rfl rfl rfl rfl fun x hx => by
    cases x <;> first | exact rfl | exact ⟨rfl, rfl⟩ | exact ⟨rfl, rfl, rfl⟩ | exact hg s.nv | exact absurd (hl (by simp)) hx

theorem State.mapLife_only (hl : [Sect.life] ⊆ l) (h : State.Only l s0 s) (g : Life → Life) (hg : ∀ l, (g l).order768 = l.order768) :
    State.Only l s0 (s.mapLife g) :=
  h.step rfl (hg s.life) rfl rfl rfl fun x hx => by
    cases x <;> first | exact rfl | exact ⟨rfl, rfl⟩ | exact ⟨rfl, rfl, rfl⟩ | exact absurd (hl (by simp)) hx

theorem State.mapLnk_only (hl : [Sect.lnk] ⊆ l) (h : State.Only l s0 s) (g : Links → Links)
    (h1 : ∀ l, (g l).fp.map FPort.n = l.fp.map FPort.n) (h2 : ∀ l, (g l).ap.map APort.n = l.ap.map APort.n)
    (h3 : ∀ l, (g l).cp.map CPort.n = l.cp.map CPort.n) : State.Only l s0 (s.mapLnk g) := by
  refine h.trans ⟨⟨rfl, rfl, id, ?_⟩, ?_⟩
  · intro u
    exact ⟨(h1 _).trans u.1, (h2 _).trans u.2.1, (h3 _).trans u.2.2.1, u.2.2.2⟩
  · intro x hx
    cases x <;> first | exact rfl | exact ⟨rfl, rfl⟩ | exact ⟨rfl, rfl, rfl⟩ | exact absurd (hl (by simp)) hx

theorem State.mapDlv_only (hl : [Sect.dlv] ⊆ l) (h : State.Only l s0 s) (g : Delivery → Delivery)
    (h1 : ∀ l, (g l).peers.map Peer.mid = l.peers.map Peer.mid) : State.Only l s0 (s.mapDlv g) := by
  refine h.trans ⟨⟨rfl, rfl, id, ?_⟩, ?_⟩
  · intro u
    exact ⟨u.1, u.2.1, u.2.2.1, (h1 _).trans u.2.2.2⟩
  · intro x hx
    cases x <;> first | exact rfl | exact ⟨rfl, rfl⟩ | exact ⟨rfl, rfl, rfl⟩ | exact absurd (hl (by simp)) hx

theorem State.setFp_only (hl : [Sect.lnk] ⊆ l) (h : State.Only l s0 s) (n : Nat) (f : FPort → FPort) (hf : ∀ p, (f p).n = p.n) :
    State.Only l s0 (s.setFp n f) :=
  State.mapLnk_only hl h _ (fun l => map_mapIf _ f _ hf l.fp) (fun _ => rfl) (fun _ => rfl)

theorem State.setAp_only (hl : [Sect.lnk] ⊆ l) (h : State.Only l s0 s) (n : Nat) (f : APort → APort) (hf : ∀ p, (f p).n = p.n) :
    State.Only l s0 (s.setAp n f) :=
  State.mapLnk_only hl h _ (fun _ => rfl) (fun l => map_mapIf _ f _ hf l.ap) (fun _ => rfl)

theorem State.setCp_only (hl : [Sect.lnk] ⊆ l) (h : State.Only l s0 s) (n : Nat) (f : CPort → CPort) (hf : ∀ p, (f p).n = p.n) :
    State.Only l s0 (s.setCp n f) :=
  State.mapLnk_only hl h _ (fun _ => rfl) (fun _ => rfl) (fun l => map_mapIf _ f _ hf l.cp)

theorem State.setPeer_only (hl : [Sect.dlv] ⊆ l) (h : State.Only l s0 s) (d : Nat) (f : Peer → Peer) (hf : ∀ p, (f p).mid = p.mid) :
    State.Only l s0 (s.setPeer d f) :=
  State.mapDlv_only hl h _ (fun l => map_mapIf _ f _ hf l.peers)

theorem State.poke_only (hl : [Sect.mem, Sect.poison, Sect.written] ⊆ l) (h : State.Only l s0 s) (a be : Nat) (bs : List Byte)
    (poi : Bool) : State.Only l s0 (s.poke a be bs poi) := by
  have hp : [Sect.poison] ⊆ l := fun x hx => hl (by simp at hx; simp [hx])
  have h1 : State.Only l s0 { s with
      mem := bytesSetBE s.mem a be bs, written := (linesOf a bs.length).foldl insertOnce s.written
      poison := removeAll s.poison ((linesOf a bs.length).filter fun l => decide (a ≤ 64 * l) &&
        decide (64 * l + 64 ≤ a + bs.length) && decide ((be >>> (64 * l - a)) % 2 ^ 64 = 2 ^ 64 - 1)) } := by
    refine h.trans ⟨⟨rfl, rfl, fun m => bytesSetBE_wf bs s.mem a be m, id⟩, ?_⟩
    intro x hx
    cases x <;> first | exact rfl | exact ⟨rfl, rfl⟩ | exact ⟨rfl, rfl, rfl⟩ | exact absurd (hl (by simp)) hx
  unfold State.poke
  dsimp only
  split
  · exact State.each_only h1 _ _ fun t b ht => State.setPoison_only hp ht b
  · exact h1

theorem State.store_only (hl : [Sect.mem, Sect.poison, Sect.written] ⊆ l) (h : State.Only l s0 s) (a : Nat) (bs : List Byte) :
    State.Only l s0 (s.store a bs) := State.poke_only hl h a _ bs false

/-! ### How a station instruction ends -/

/-- The state with which an instruction ends has changed in the listed sections alone. -/
def StnEnd.Only (l : List Sect) (s0 : State) : StnEnd → Prop
  | .go t _ => State.Only l s0 t
  | .jump t _ _ => State.Only l s0 t
  | .stay t _ => State.Only l s0 t
  | .fail _ => True

theorem StnEnd.go_only (i : Inst) (h : State.Only l s0 s) : (StnEnd.go s i).Only l s0 := h
theorem StnEnd.jump_only (i : Inst) (pc : Nat) (h : State.Only l s0 s) : (StnEnd.jump s i pc).Only l s0 := h
theorem StnEnd.stay_only (i : Inst) (h : State.Only l s0 s) : (StnEnd.stay s i).Only l s0 := h
theorem StnEnd.fail_only (st : Nat) : (StnEnd.fail st).Only l s0 := trivial

theorem StnEnd.ite_only {c : Prop} [Decidable c] {a b : StnEnd} (ha : a.Only l s0) (hb : b.Only l s0) :
    (if c then a else b).Only l s0 := by
  split
  · exact ha
  · exact hb

/-! ### The outcome of a command -/

/-- The next state of an outcome, if it has one, has changed in the listed sections alone. -/
def Res.Only (l : List Sect) (s0 : State) (r : Res) : Prop := ∀ t, r = .next t → State.Only l s0 t

theorem Res.next_only (h : State.Only l s0 s) : Res.Only l s0 (.next s) := by
  intro t e; cases e; exact h

theorem Res.ite_only {c : Prop} [Decidable c] {a b : Res} (ha : Res.Only l s0 a) (hb : Res.Only l s0 b) :
    Res.Only l s0 (if c then a else b) := by
  split
  · exact ha
  · exact hb

end Sys2Proof.Machine
end

