-- ==== Sys2Proof/Laws/OnlyDict.lean ====
section
/-! SUPPORT. `State.Only` for every operation and meaning of Machine/Dict.lean: the sections that it may change. -/

namespace Sys2Proof.Machine

open Sys2Proof

set_option Elab.async false

set_option linter.unreachableTactic false
set_option linter.unusedTactic false

variable {s0 s : State} {sl : List Sect}

theorem State.bump_only (hl : [Sect.od] ⊆ sl) (h : State.Only sl s0 s) (k n : Nat) :
    State.Only sl s0 (State.bump s k n) := by
  unfold State.bump
  try dsimp only
  repeat' with_reducible first | assumption | apply State.wr_only (Sect.sub rfl hl) | apply State.ite_only | (intro _ _ _ _) | (intro _ _ _) | (intro _; rfl) | (intro _; apply map_map_same; intro _; rfl) | (intro _; apply map_mapIf; intro _; rfl) | (refine State.fst_only (by assumption) ?_) | split | dsimp only | (intro _; split <;> rfl) | (intro _; (repeat' split) <;> rfl)

theorem State.bump64_only (hl : [Sect.od] ⊆ sl) (h : State.Only sl s0 s) (k n : Nat) :
    State.Only sl s0 (State.bump64 s k n) := by
  unfold State.bump64
  try dsimp only
  repeat' with_reducible first | assumption | apply State.wr_only (Sect.sub rfl hl) | apply State.ite_only | (intro _ _ _ _) | (intro _ _ _) | (intro _; rfl) | (intro _; apply map_map_same; intro _; rfl) | (intro _; apply map_mapIf; intro _; rfl) | (refine State.fst_only (by assumption) ?_) | split | dsimp only | (intro _; split <;> rfl) | (intro _; (repeat' split) <;> rfl)

end Sys2Proof.Machine
end

