-- ==== Sys2Proof/Laws/OnlyOps.lean ====
section
/-! SUPPORT. `State.Only` for every operation and meaning of Machine/Ops.lean: the sections that it may change. -/

namespace Sys2Proof.Machine

open Sys2Proof

set_option Elab.async false

set_option linter.unreachableTactic false
set_option linter.unusedTactic false

variable {s0 s : State} {sl : List Sect}

theorem State.noteClosed_only (hl : [Sect.sec] ⊆ sl) (h : State.Only sl s0 s) (pid : Nat) :
    State.Only sl s0 (State.noteClosed s pid) := by
  unfold State.noteClosed
  try dsimp only
  repeat' with_reducible first | assumption | apply State.mapSec_only (Sect.sub rfl hl) | apply State.ite_only | (intro _ _ _ _) | (intro _ _ _) | (intro _; rfl) | (intro _; apply map_map_same; intro _; rfl) | (intro _; apply map_mapIf; intro _; rfl) | (refine State.fst_only (by assumption) ?_) | split | dsimp only | (intro _; split <;> rfl) | (intro _; (repeat' split) <;> rfl)

theorem State.countOne_only (hl : [Sect.od, Sect.mgt] ⊆ sl) (h : State.Only sl s0 s) (bank i ev pid amount : Nat) :
    State.Only sl s0 (State.countOne s bank i ev pid amount) := by
  unfold State.countOne
  try dsimp only
  repeat' with_reducible first | assumption | apply State.wr_only (Sect.sub rfl hl) | apply State.mapMgt_only (Sect.sub rfl hl) | apply State.ite_only | (intro _ _ _ _) | (intro _ _ _) | (intro _; rfl) | (intro _; apply map_map_same; intro _; rfl) | (intro _; apply map_mapIf; intro _; rfl) | (refine State.fst_only (by assumption) ?_) | split | dsimp only | (intro _; split <;> rfl) | (intro _; (repeat' split) <;> rfl)

theorem State.countEv_only (hl : [Sect.od, Sect.mgt] ⊆ sl) (h : State.Only sl s0 s) (bank ev pid amount : Nat) :
    State.Only sl s0 (State.countEv s bank ev pid amount) := by
  unfold State.countEv
  try dsimp only
  repeat' with_reducible first | assumption | apply State.each_only | apply State.countOne_only (Sect.sub rfl hl) | apply State.ite_only | (intro _ _ _ _) | (intro _ _ _) | (intro _; rfl) | (intro _; apply map_map_same; intro _; rfl) | (intro _; apply map_mapIf; intro _; rfl) | (refine State.fst_only (by assumption) ?_) | split | dsimp only | (intro _; split <;> rfl) | (intro _; (repeat' split) <;> rfl)

theorem State.epEv_only (hl : [Sect.od, Sect.mgt] ⊆ sl) (h : State.Only sl s0 s) (ep ev pid amount : Nat) :
    State.Only sl s0 (State.epEv s ep ev pid amount) := by
  unfold State.epEv
  try dsimp only
  repeat' with_reducible first | assumption | apply State.countEv_only (Sect.sub rfl hl) | apply State.ite_only | (intro _ _ _ _) | (intro _ _ _) | (intro _; rfl) | (intro _; apply map_map_same; intro _; rfl) | (intro _; apply map_mapIf; intro _; rfl) | (refine State.fst_only (by assumption) ?_) | split | dsimp only | (intro _; split <;> rfl) | (intro _; (repeat' split) <;> rfl)

theorem State.clusterEv_only (hl : [Sect.od, Sect.mgt] ⊆ sl) (h : State.Only sl s0 s) (sd cl ev pid amount : Nat) :
    State.Only sl s0 (State.clusterEv s sd cl ev pid amount) := by
  unfold State.clusterEv
  try dsimp only
  repeat' with_reducible first | assumption | apply State.countEv_only (Sect.sub rfl hl) | apply State.ite_only | (intro _ _ _ _) | (intro _ _ _) | (intro _; rfl) | (intro _; apply map_map_same; intro _; rfl) | (intro _; apply map_mapIf; intro _; rfl) | (refine State.fst_only (by assumption) ?_) | split | dsimp only | (intro _; split <;> rfl) | (intro _; (repeat' split) <;> rfl)

theorem State.quadEv_only (hl : [Sect.od, Sect.mgt] ⊆ sl) (h : State.Only sl s0 s) (q ev pid amount : Nat) :
    State.Only sl s0 (State.quadEv s q ev pid amount) := by
  unfold State.quadEv
  try dsimp only
  repeat' with_reducible first | assumption | apply State.countEv_only (Sect.sub rfl hl) | apply State.ite_only | (intro _ _ _ _) | (intro _ _ _) | (intro _; rfl) | (intro _; apply map_map_same; intro _; rfl) | (intro _; apply map_mapIf; intro _; rfl) | (refine State.fst_only (by assumption) ?_) | split | dsimp only | (intro _; split <;> rfl) | (intro _; (repeat' split) <;> rfl)

theorem State.event_only (hl : [Sect.out, Sect.mgt] ⊆ sl) (h : State.Only sl s0 s) (key : Nat) :
    State.Only sl s0 (State.event s key) := by
  unfold State.event
  try dsimp only
  repeat' with_reducible first | assumption | apply State.each_only | apply State.emit_only (Sect.sub rfl hl) | apply State.mapMgt_only (Sect.sub rfl hl) | apply State.ite_only | (intro _ _ _ _) | (intro _ _ _) | (intro _; rfl) | (intro _; apply map_map_same; intro _; rfl) | (intro _; apply map_mapIf; intro _; rfl) | (refine State.fst_only (by assumption) ?_) | split | dsimp only | (intro _; split <;> rfl) | (intro _; (repeat' split) <;> rfl)

theorem State.report_only (hl : [Sect.out, Sect.od, Sect.mgt] ⊆ sl) (h : State.Only sl s0 s) (key : Nat) :
    State.Only sl s0 (State.report s key) := by
  unfold State.report
  try dsimp only
  repeat' with_reducible first | assumption | apply State.bump_only (Sect.sub rfl hl) | apply State.event_only (Sect.sub rfl hl) | apply State.ite_only | (intro _ _ _ _) | (intro _ _ _) | (intro _; rfl) | (intro _; apply map_map_same; intro _; rfl) | (intro _; apply map_mapIf; intro _; rfl) | (refine State.fst_only (by assumption) ?_) | split | dsimp only | (intro _; split <;> rfl) | (intro _; (repeat' split) <;> rfl)

theorem State.enter_only (hl : [Sect.out, Sect.life, Sect.mgt] ⊆ sl) (h : State.Only sl s0 s) (m : MState) :
    State.Only sl s0 (State.enter s m) := by
  unfold State.enter
  try dsimp only
  repeat' with_reducible first | assumption | apply State.mapLife_only (Sect.sub rfl hl) | apply State.event_only (Sect.sub rfl hl) | apply State.ite_only | (intro _ _ _ _) | (intro _ _ _) | (intro _; rfl) | (intro _; apply map_map_same; intro _; rfl) | (intro _; apply map_mapIf; intro _; rfl) | (refine State.fst_only (by assumption) ?_) | split | dsimp only | (intro _; split <;> rfl) | (intro _; (repeat' split) <;> rfl)

theorem State.setPart_only (hl : [Sect.out, Sect.od, Sect.mgt] ⊆ sl) (h : State.Only sl s0 s) (pid v : Nat) :
    State.Only sl s0 (State.setPart s pid v) := by
  unfold State.setPart
  try dsimp only
  repeat' with_reducible first | assumption | apply State.wr_only (Sect.sub rfl hl) | apply State.event_only (Sect.sub rfl hl) | apply State.ite_only | (intro _ _ _ _) | (intro _ _ _) | (intro _; rfl) | (intro _; apply map_map_same; intro _; rfl) | (intro _; apply map_mapIf; intro _; rfl) | (refine State.fst_only (by assumption) ?_) | split | dsimp only | (intro _; split <;> rfl) | (intro _; (repeat' split) <;> rfl)

theorem State.clampRec_only (hl : [Sect.od, Sect.mgt] ⊆ sl) (h : State.Only sl s0 s) (key source reason pid given applied : Nat) :
    State.Only sl s0 (State.clampRec s key source reason pid given applied) := by
  unfold State.clampRec
  try dsimp only
  repeat' with_reducible first | assumption | apply State.bump_only (Sect.sub rfl hl) | apply State.mapMgt_only (Sect.sub rfl hl) | apply State.ite_only | (intro _ _ _ _) | (intro _ _ _) | (intro _; rfl) | (intro _; apply map_map_same; intro _; rfl) | (intro _; apply map_mapIf; intro _; rfl) | (refine State.fst_only (by assumption) ?_) | split | dsimp only | (intro _; split <;> rfl) | (intro _; (repeat' split) <;> rfl)

theorem State.logFault_only (hl : [Sect.od, Sect.mgt] ⊆ sl) (h : State.Only sl s0 s) (kind unit subunit action status pid detail : Nat) :
    State.Only sl s0 (State.logFault s kind unit subunit action status pid detail) := by
  unfold State.logFault
  try dsimp only
  repeat' with_reducible first | assumption | apply State.mapMgt_only (Sect.sub rfl hl) | apply State.bump_only (Sect.sub rfl hl) | apply State.ite_only | (intro _ _ _ _) | (intro _ _ _) | (intro _; rfl) | (intro _; apply map_map_same; intro _; rfl) | (intro _; apply map_mapIf; intro _; rfl) | (refine State.fst_only (by assumption) ?_) | split | dsimp only | (intro _; split <;> rfl) | (intro _; (repeat' split) <;> rfl)

theorem State.reply_only (hl : [Sect.out, Sect.ep, Sect.mgt] ⊆ sl) (h : State.Only sl s0 s) (o : Origin) (status : Nat) (clamped : Bool) (val : List Byte) :
    State.Only sl s0 (State.reply s o status clamped val) := by
  unfold State.reply
  try dsimp only
  repeat' with_reducible first | assumption | apply State.mapMgt_only (Sect.sub rfl hl) | apply State.emit_only (Sect.sub rfl hl) | apply State.mapEp_only (Sect.sub rfl hl) | apply State.ite_only | (intro _ _ _ _) | (intro _ _ _) | (intro _; rfl) | (intro _; apply map_map_same; intro _; rfl) | (intro _; apply map_mapIf; intro _; rfl) | (refine State.fst_only (by assumption) ?_) | split | dsimp only | (intro _; split <;> rfl) | (intro _; (repeat' split) <;> rfl)

theorem State.awaitCommit_only (hl : [Sect.nvq] ⊆ sl) (h : State.Only sl s0 s) (o : Origin) (clamped : Bool) :
    State.Only sl s0 (State.awaitCommit s o clamped) := State.mapNvq_only hl h _ fun _ => ⟨rfl, rfl⟩

theorem State.touchRetained_only (hl : [Sect.nvq] ⊆ sl) (h : State.Only sl s0 s) : State.Only sl s0 (State.touchRetained s) :=
  State.mapNvq_only hl h _ fun _ => ⟨rfl, rfl⟩

theorem State.finish_only (hl : Sect.told ⊆ sl) (h : State.Only sl s0 s) (o : Origin) (d : Done) :
    State.Only sl s0 (State.finish s o d) := by
  unfold State.finish
  try dsimp only
  repeat' with_reducible first | assumption | apply State.reply_only (Sect.sub rfl hl) | apply State.awaitCommit_only (Sect.sub rfl hl) | apply State.ite_only | (intro _ _ _ _) | (intro _ _ _) | (intro _; rfl) | (intro _; apply map_map_same; intro _; rfl) | (intro _; apply map_mapIf; intro _; rfl) | (refine State.fst_only (by assumption) ?_) | split | dsimp only | (intro _; split <;> rfl) | (intro _; (repeat' split) <;> rfl)

theorem State.setCtx_only (hl : [Sect.ep] ⊆ sl) (h : State.Only sl s0 s) (ep n : Nat) (f : Ctx → Ctx) :
    State.Only sl s0 (State.setCtx s ep n f) := by
  unfold State.setCtx
  try dsimp only
  repeat' with_reducible first | assumption | apply State.mapEp_only (Sect.sub rfl hl) | apply State.ite_only | (intro _ _ _ _) | (intro _ _ _) | (intro _; rfl) | (intro _; apply map_map_same; intro _; rfl) | (intro _; apply map_mapIf; intro _; rfl) | (refine State.fst_only (by assumption) ?_) | split | dsimp only | (intro _; split <;> rfl) | (intro _; (repeat' split) <;> rfl)

theorem State.command_only (hl : Sect.told ⊆ sl) (h : State.Only sl s0 s) (o : Origin) (k opPid : Nat) (eff : State → Nat → State × Done) (he : ∀ t p, State.Only sl s0 t → State.Only sl s0 (eff t p).1) :
    State.Only sl s0 (State.command s o k opPid eff) := by
  unfold State.command
  try dsimp only
  repeat' with_reducible first | assumption | apply he | apply State.reply_only (Sect.sub rfl hl) | apply State.finish_only (Sect.sub rfl hl) | apply State.ite_only | (intro _ _ _ _) | (intro _ _ _) | (intro _; rfl) | (intro _; apply map_map_same; intro _; rfl) | (intro _; apply map_mapIf; intro _; rfl) | (refine State.fst_only (by assumption) ?_) | split | dsimp only | (intro _; split <;> rfl) | (intro _; (repeat' split) <;> rfl)

theorem State.commandIf_only (hl : Sect.told ⊆ sl) (h : State.Only sl s0 s) (ok : Bool) (o : Origin) (k opPid : Nat) (eff : State → Nat → State × Done) (he : ∀ t p, State.Only sl s0 t → State.Only sl s0 (eff t p).1) :
    State.Only sl s0 (State.commandIf s ok o k opPid eff) := by
  unfold State.commandIf
  try dsimp only
  repeat' with_reducible first | assumption | apply he | apply State.command_only (Sect.sub rfl hl) | apply State.reply_only (Sect.sub rfl hl) | apply State.ite_only | (intro _ _ _ _) | (intro _ _ _) | (intro _; rfl) | (intro _; apply map_map_same; intro _; rfl) | (intro _; apply map_mapIf; intro _; rfl) | (refine State.fst_only (by assumption) ?_) | split | dsimp only | (intro _; split <;> rfl) | (intro _; (repeat' split) <;> rfl)

theorem State.mailCommand_only (hl : Sect.told ⊆ sl) (h : State.Only sl s0 s) (o : Origin) (pid : Nat) (onlyZero : Bool) (eff : State → Nat → State × Done) (he : ∀ t p, State.Only sl s0 t → State.Only sl s0 (eff t p).1) :
    State.Only sl s0 (State.mailCommand s o pid onlyZero eff) := by
  unfold State.mailCommand
  try dsimp only
  repeat' with_reducible first | assumption | apply he | apply State.reply_only (Sect.sub rfl hl) | apply State.finish_only (Sect.sub rfl hl) | apply State.ite_only | (intro _ _ _ _) | (intro _ _ _) | (intro _; rfl) | (intro _; apply map_map_same; intro _; rfl) | (intro _; apply map_mapIf; intro _; rfl) | (refine State.fst_only (by assumption) ?_) | split | dsimp only | (intro _; split <;> rfl) | (intro _; (repeat' split) <;> rfl)

theorem State.settle_only (hl : [Sect.od, Sect.mgt] ⊆ sl) (h : State.Only sl s0 s) (o : Origin) (pid k tailMax v : Nat) :
    State.Only sl s0 (State.settle s o pid k tailMax v).1 := by
  unfold State.settle
  try dsimp only
  repeat' with_reducible first | assumption | apply State.clampRec_only (Sect.sub rfl hl) | apply State.ite_only | (intro _ _ _ _) | (intro _ _ _) | (intro _; rfl) | (intro _; apply map_map_same; intro _; rfl) | (intro _; apply map_mapIf; intro _; rfl) | (refine State.fst_only (by assumption) ?_) | split | dsimp only | (intro _; split <;> rfl) | (intro _; (repeat' split) <;> rfl)

theorem State.writePlain_only (hl : [Sect.od, Sect.mgt] ⊆ sl) (h : State.Only sl s0 s) (o : Origin) (pid k tailMax v : Nat) :
    State.Only sl s0 (State.writePlain s o pid k tailMax v).1 := by
  unfold State.writePlain
  try dsimp only
  repeat' with_reducible first | assumption | apply State.settle_only (Sect.sub rfl hl) | apply State.wr_only (Sect.sub rfl hl) | apply State.ite_only | (intro _ _ _ _) | (intro _ _ _) | (intro _; rfl) | (intro _; apply map_map_same; intro _; rfl) | (intro _; apply map_mapIf; intro _; rfl) | (refine State.fst_only (by assumption) ?_) | split | dsimp only | (intro _; split <;> rfl) | (intro _; (repeat' split) <;> rfl)

theorem State.capPush_only (hl : [Sect.out, Sect.lnk] ⊆ sl) (h : State.Only sl s0 s) (b : Nat) (m : CapOut) :
    State.Only sl s0 (State.capPush s b m) := by
  unfold State.capPush
  try dsimp only
  repeat' with_reducible first | assumption | apply State.emit_only (Sect.sub rfl hl) | apply State.setAp_only (Sect.sub rfl hl) | apply State.ite_only | (intro _ _ _ _) | (intro _ _ _) | (intro _; rfl) | (intro _; apply map_map_same; intro _; rfl) | (intro _; apply map_mapIf; intro _; rfl) | (refine State.fst_only (by assumption) ?_) | split | dsimp only | (intro _; split <;> rfl) | (intro _; (repeat' split) <;> rfl)

theorem State.pumpOut_only (hl : [Sect.out, Sect.lnk] ⊆ sl) (h : State.Only sl s0 s) (b : Nat) :
    State.Only sl s0 (State.pumpOut s b) := by
  unfold State.pumpOut
  try dsimp only
  repeat' with_reducible first | assumption | apply State.setAp_only (Sect.sub rfl hl) | apply State.each_only | apply State.capPush_only (Sect.sub rfl hl) | apply State.ite_only | (intro _ _ _ _) | (intro _ _ _) | (intro _; rfl) | (intro _; apply map_map_same; intro _; rfl) | (intro _; apply map_mapIf; intro _; rfl) | (refine State.fst_only (by assumption) ?_) | split | dsimp only | (intro _; split <;> rfl) | (intro _; (repeat' split) <;> rfl)

theorem State.capSend_only (hl : [Sect.out, Sect.lnk] ⊆ sl) (h : State.Only sl s0 s) (m : CapOut) :
    State.Only sl s0 (State.capSend s m) := by
  unfold State.capSend
  try dsimp only
  repeat' with_reducible first | assumption | apply State.capPush_only (Sect.sub rfl hl) | apply State.emit_only (Sect.sub rfl hl) | apply State.ite_only | (intro _ _ _ _) | (intro _ _ _) | (intro _; rfl) | (intro _; apply map_map_same; intro _; rfl) | (intro _; apply map_mapIf; intro _; rfl) | (refine State.fst_only (by assumption) ?_) | split | dsimp only | (intro _; split <;> rfl) | (intro _; (repeat' split) <;> rfl)

theorem State.rsp_only (hl : [Sect.out, Sect.lnk] ⊆ sl) (h : State.Only sl s0 s) (ep n tag status li : Nat) (arg aux : Nat) (data : List Byte) :
    State.Only sl s0 (State.rsp s ep n tag status li arg aux data) := by
  unfold State.rsp
  try dsimp only
  repeat' with_reducible first | assumption | apply State.capSend_only (Sect.sub rfl hl) | apply State.ite_only | (intro _ _ _ _) | (intro _ _ _) | (intro _; rfl) | (intro _; apply map_map_same; intro _; rfl) | (intro _; apply map_mapIf; intro _; rfl) | (refine State.fst_only (by assumption) ?_) | split | dsimp only | (intro _; split <;> rfl) | (intro _; (repeat' split) <;> rfl)

theorem State.advertise_only (hl : [Sect.out] ⊆ sl) (h : State.Only sl s0 s) (cp : Nat) :
    State.Only sl s0 (State.advertise s cp) := by
  unfold State.advertise
  try dsimp only
  repeat' with_reducible first | assumption | apply State.emit_only (Sect.sub rfl hl) | apply State.ite_only | (intro _ _ _ _) | (intro _ _ _) | (intro _; rfl) | (intro _; apply map_map_same; intro _; rfl) | (intro _; apply map_mapIf; intro _; rfl) | (refine State.fst_only (by assumption) ?_) | split | dsimp only | (intro _; split <;> rfl) | (intro _; (repeat' split) <;> rfl)

end Sys2Proof.Machine
end

