-- ==== Sys2Proof/Laws/OnlyFrames.lean ====
section
/-! SUPPORT. `State.Only` for every operation and meaning of Machine/Frames.lean: the sections that it may change. -/

namespace Sys2Proof.Machine

open Sys2Proof

set_option Elab.async false

set_option linter.unreachableTactic false
set_option linter.unusedTactic false

variable {s0 s : State} {sl : List Sect}

theorem State.markOne_only (hl : [Sect.sw] ⊆ sl) (h : State.Only sl s0 s) (q w level : Nat) :
    State.Only sl s0 (State.markOne s q w level) := by
  unfold State.markOne
  try dsimp only
  repeat' with_reducible first | assumption | apply State.mapSw_only (Sect.sub rfl hl) | apply State.ite_only | (intro _ _ _ _) | (intro _ _ _) | (intro _; rfl) | (intro _; apply map_map_same; intro _; rfl) | (intro _; apply map_mapIf; intro _; rfl) | (refine State.fst_only (by assumption) ?_) | split | dsimp only | (intro _; split <;> rfl) | (intro _; (repeat' split) <;> rfl)

theorem State.marks_only (hl : [Sect.sw] ⊆ sl) (h : State.Only sl s0 s) (q : Nat) :
    State.Only sl s0 (State.marks s q) := by
  unfold State.marks
  try dsimp only
  repeat' with_reducible first | assumption | apply State.markOne_only (Sect.sub rfl hl) | apply State.ite_only | (intro _ _ _ _) | (intro _ _ _) | (intro _; rfl) | (intro _; apply map_map_same; intro _; rfl) | (intro _; apply map_mapIf; intro _; rfl) | (refine State.fst_only (by assumption) ?_) | split | dsimp only | (intro _; split <;> rfl) | (intro _; (repeat' split) <;> rfl)

theorem State.returnCredit_only (hl : [Sect.out, Sect.sw] ⊆ sl) (h : State.Only sl s0 s) (ingress tc n : Nat) :
    State.Only sl s0 (State.returnCredit s ingress tc n) := by
  unfold State.returnCredit
  try dsimp only
  repeat' with_reducible first | assumption | apply State.mapSw_only (Sect.sub rfl hl) | apply State.emit_only (Sect.sub rfl hl) | apply State.ite_only | (intro _ _ _ _) | (intro _ _ _) | (intro _; rfl) | (intro _; apply map_map_same; intro _; rfl) | (intro _; apply map_mapIf; intro _; rfl) | (refine State.fst_only (by assumption) ?_) | split | dsimp only | (intro _; split <;> rfl) | (intro _; (repeat' split) <;> rfl)

theorem State.creditsBack_only (hl : [Sect.out, Sect.sw] ⊆ sl) (h : State.Only sl s0 s) (q : Nat) :
    State.Only sl s0 (State.creditsBack s q) := by
  unfold State.creditsBack
  try dsimp only
  repeat' with_reducible first | assumption | apply State.returnCredit_only (Sect.sub rfl hl) | apply State.each_only | apply State.ite_only | (intro _ _ _ _) | (intro _ _ _) | (intro _; rfl) | (intro _; apply map_map_same; intro _; rfl) | (intro _; apply map_mapIf; intro _; rfl) | (refine State.fst_only (by assumption) ?_) | split | dsimp only | (intro _; split <;> rfl) | (intro _; (repeat' split) <;> rfl)

theorem State.noteCells_only (hl : [Sect.out, Sect.od, Sect.sw] ⊆ sl) (h : State.Only sl s0 s) (q : Nat) :
    State.Only sl s0 (State.noteCells s q) := by
  unfold State.noteCells
  try dsimp only
  repeat' with_reducible first | assumption | apply State.wr_only (Sect.sub rfl hl) | apply State.marks_only (Sect.sub rfl hl) | apply State.creditsBack_only (Sect.sub rfl hl) | apply State.ite_only | (intro _ _ _ _) | (intro _ _ _) | (intro _; rfl) | (intro _; apply map_map_same; intro _; rfl) | (intro _; apply map_mapIf; intro _; rfl) | (refine State.fst_only (by assumption) ?_) | split | dsimp only | (intro _; split <;> rfl) | (intro _; (repeat' split) <;> rfl)

theorem State.retireCells_only (hl : [Sect.od, Sect.sw, Sect.mgt] ⊆ sl) (h : State.Only sl s0 s) (q n : Nat) :
    State.Only sl s0 (State.retireCells s q n) := by
  unfold State.retireCells
  try dsimp only
  repeat' with_reducible first | assumption | apply State.mapSw_only (Sect.sub rfl hl) | apply State.bump_only (Sect.sub rfl hl) | apply State.logFault_only (Sect.sub rfl hl) | apply State.ite_only | (intro _ _ _ _) | (intro _ _ _) | (intro _; rfl) | (intro _; apply map_map_same; intro _; rfl) | (intro _; apply map_mapIf; intro _; rfl) | (refine State.fst_only (by assumption) ?_) | split | dsimp only | (intro _; split <;> rfl) | (intro _; (repeat' split) <;> rfl)

theorem State.takeCells_only (hl : [Sect.out, Sect.od, Sect.sw, Sect.mgt] ⊆ sl) (h : State.Only sl s0 s) (q n : Nat) (seen : NMap) :
    State.Only sl s0 (State.takeCells s q n seen).1 := by
  unfold State.takeCells
  try dsimp only
  repeat' with_reducible first | assumption | apply State.mapSw_only (Sect.sub rfl hl) | apply State.retireCells_only (Sect.sub rfl hl) | apply State.noteCells_only (Sect.sub rfl hl) | apply State.ite_only | (intro _ _ _ _) | (intro _ _ _) | (intro _; rfl) | (intro _; apply map_map_same; intro _; rfl) | (intro _; apply map_mapIf; intro _; rfl) | (refine State.fst_only (by assumption) ?_) | split | dsimp only | (intro _; split <;> rfl) | (intro _; (repeat' split) <;> rfl)

theorem State.pushCells_only (hl : [Sect.out, Sect.od, Sect.sw, Sect.mgt] ⊆ sl) (h : State.Only sl s0 s) (q : Nat) (ps : List Nat) (seen : NMap) :
    State.Only sl s0 (State.pushCells s q ps seen) := by
  unfold State.pushCells
  try dsimp only
  repeat' with_reducible first | assumption | apply State.mapSw_only (Sect.sub rfl hl) | apply State.retireCells_only (Sect.sub rfl hl) | apply State.noteCells_only (Sect.sub rfl hl) | apply State.foldlPair_only | apply State.foldl_only | apply State.ite_only | (intro _ _ _ _) | (intro _ _ _) | (intro _; rfl) | (intro _; apply map_map_same; intro _; rfl) | (intro _; apply map_mapIf; intro _; rfl) | (refine State.fst_only (by assumption) ?_) | split | dsimp only | (intro _; split <;> rfl) | (intro _; (repeat' split) <;> rfl)

theorem State.dropCopy_only (hl : [Sect.od, Sect.mgt] ⊆ sl) (h : State.Only sl s0 s) (n q pid : Nat) :
    State.Only sl s0 (State.dropCopy s n q pid) := by
  unfold State.dropCopy
  try dsimp only
  repeat' with_reducible first | assumption | apply State.bump_only (Sect.sub rfl hl) | apply State.quadEv_only (Sect.sub rfl hl) | apply State.ite_only | (intro _ _ _ _) | (intro _ _ _) | (intro _; rfl) | (intro _; apply map_map_same; intro _; rfl) | (intro _; apply map_mapIf; intro _; rfl) | (refine State.fst_only (by assumption) ?_) | split | dsimp only | (intro _; split <;> rfl) | (intro _; (repeat' split) <;> rfl)

theorem State.mirSelect_only (hl : [Sect.od, Sect.sw, Sect.mgt] ⊆ sl) (h : State.Only sl s0 s) (n dir port ingress : Nat) (f : Frame) :
    State.Only sl s0 (State.mirSelect s n dir port ingress f).1 := by
  unfold State.mirSelect
  try dsimp only
  repeat' with_reducible first | assumption | apply State.mapSw_only (Sect.sub rfl hl) | apply State.dropCopy_only (Sect.sub rfl hl) | apply State.ite_only | (intro _ _ _ _) | (intro _ _ _) | (intro _; rfl) | (intro _; apply map_map_same; intro _; rfl) | (intro _; apply map_mapIf; intro _; rfl) | (refine State.fst_only (by assumption) ?_) | split | dsimp only | (intro _; split <;> rfl) | (intro _; (repeat' split) <;> rfl)

theorem State.mirSelectAll_only (hl : [Sect.od, Sect.sw, Sect.mgt] ⊆ sl) (h : State.Only sl s0 s) (dir port ingress : Nat) (f : Frame) :
    State.Only sl s0 (State.mirSelectAll s dir port ingress f).1 := by
  unfold State.mirSelectAll
  try dsimp only
  repeat' with_reducible first | assumption | apply State.foldlPair_only | apply State.foldl_only | apply State.mirSelect_only (Sect.sub rfl hl) | apply State.ite_only | (intro _ _ _ _) | (intro _ _ _) | (intro _; rfl) | (intro _; apply map_map_same; intro _; rfl) | (intro _; apply map_mapIf; intro _; rfl) | (refine State.fst_only (by assumption) ?_) | split | dsimp only | (intro _; split <;> rfl) | (intro _; (repeat' split) <;> rfl)

theorem State.coreIn_only (hl : [Sect.out, Sect.od, Sect.sw, Sect.mgt] ⊆ sl) (h : State.Only sl s0 s) (ingress : Nat) (f : Frame) (egr : List Nat) (tail : Nat) (sel : List MirSel) (loc : Option (Nat × Nat)) (seen : NMap) :
    State.Only sl s0 (State.coreIn s ingress f egr tail sel loc seen) := by
  unfold State.coreIn
  try dsimp only
  repeat' with_reducible first | assumption | apply State.fresh_only (Sect.sub rfl hl) | apply State.mapSw_only (Sect.sub rfl hl) | apply State.quadEv_only (Sect.sub rfl hl) | apply State.returnCredit_only (Sect.sub rfl hl) | apply State.takeCells_only (Sect.sub rfl hl) | apply State.ite_only | (intro _ _ _ _) | (intro _ _ _) | (intro _; rfl) | (intro _; apply map_map_same; intro _; rfl) | (intro _; apply map_mapIf; intro _; rfl) | (refine State.fst_only (by assumption) ?_) | split | dsimp only | (intro _; split <;> rfl) | (intro _; (repeat' split) <;> rfl)

theorem State.mirOut_only (hl : [Sect.out, Sect.od, Sect.sw, Sect.mgt] ⊆ sl) (h : State.Only sl s0 s) (f : Frame) (q : Nat) (bad : Bool) (m : MirSel) :
    State.Only sl s0 (State.mirOut s f q bad m) := by
  unfold State.mirOut
  try dsimp only
  repeat' with_reducible first | assumption | apply State.quadEv_only (Sect.sub rfl hl) | apply State.draw_only (Sect.sub rfl hl) | apply State.coreIn_only (Sect.sub rfl hl) | apply State.dropCopy_only (Sect.sub rfl hl) | apply State.ite_only | (intro _ _ _ _) | (intro _ _ _) | (intro _; rfl) | (intro _; apply map_map_same; intro _; rfl) | (intro _; apply map_mapIf; intro _; rfl) | (refine State.fst_only (by assumption) ?_) | split | dsimp only | (intro _; split <;> rfl) | (intro _; (repeat' split) <;> rfl)

theorem State.mirFlush_only (hl : [Sect.out, Sect.od, Sect.sw, Sect.mgt] ⊆ sl) (h : State.Only sl s0 s) (id : Nat) (bad : Bool) :
    State.Only sl s0 (State.mirFlush s id bad) := by
  unfold State.mirFlush
  try dsimp only
  repeat' with_reducible first | assumption | apply State.mapSw_only (Sect.sub rfl hl) | apply State.each_only | apply State.mirOut_only (Sect.sub rfl hl) | apply State.ite_only | (intro _ _ _ _) | (intro _ _ _) | (intro _; rfl) | (intro _; apply map_map_same; intro _; rfl) | (intro _; apply map_mapIf; intro _; rfl) | (refine State.fst_only (by assumption) ?_) | split | dsimp only | (intro _; split <;> rfl) | (intro _; (repeat' split) <;> rfl)

theorem State.sourceIn_only (hl : [Sect.out, Sect.od, Sect.sw, Sect.mgt] ⊆ sl) (h : State.Only sl s0 s) (w : SrcFrame) :
    State.Only sl s0 (State.sourceIn s w) := by
  unfold State.sourceIn
  try dsimp only
  repeat' with_reducible first | assumption | apply State.mirSelectAll_only (Sect.sub rfl hl) | apply State.quadEv_only (Sect.sub rfl hl) | apply State.coreIn_only (Sect.sub rfl hl) | apply State.mirFlush_only (Sect.sub rfl hl) | apply State.ite_only | (intro _ _ _ _) | (intro _ _ _) | (intro _; rfl) | (intro _; apply map_map_same; intro _; rfl) | (intro _; apply map_mapIf; intro _; rfl) | (refine State.fst_only (by assumption) ?_) | split | dsimp only | (intro _; split <;> rfl) | (intro _; (repeat' split) <;> rfl)

theorem State.sourceWait_only (hl : [Sect.out, Sect.od, Sect.sw, Sect.mgt] ⊆ sl) (h : State.Only sl s0 s) (w : SrcFrame) :
    State.Only sl s0 (State.sourceWait s w) := by
  unfold State.sourceWait
  try dsimp only
  repeat' with_reducible first | assumption | apply State.sourceIn_only (Sect.sub rfl hl) | apply State.mapSw_only (Sect.sub rfl hl) | apply State.ite_only | (intro _ _ _ _) | (intro _ _ _) | (intro _; rfl) | (intro _; apply map_map_same; intro _; rfl) | (intro _; apply map_mapIf; intro _; rfl) | (refine State.fst_only (by assumption) ?_) | split | dsimp only | (intro _; split <;> rfl) | (intro _; (repeat' split) <;> rfl)

theorem State.pumpSources_only (hl : [Sect.out, Sect.od, Sect.sw, Sect.mgt] ⊆ sl) (h : State.Only sl s0 s)  :
    State.Only sl s0 (State.pumpSources s) := by
  unfold State.pumpSources
  try dsimp only
  repeat' with_reducible first | assumption | apply State.mapSw_only (Sect.sub rfl hl) | apply State.sourceWait_only (Sect.sub rfl hl) | apply State.each_only | apply State.ite_only | (intro _ _ _ _) | (intro _ _ _) | (intro _; rfl) | (intro _; apply map_map_same; intro _; rfl) | (intro _; apply map_mapIf; intro _; rfl) | (refine State.fst_only (by assumption) ?_) | split | dsimp only | (intro _; split <;> rfl) | (intro _; (repeat' split) <;> rfl)

theorem State.sourceFrame_only (hl : [Sect.out, Sect.od, Sect.sw, Sect.mgt] ⊆ sl) (h : State.Only sl s0 s) (ingress : Nat) (f : Frame) (egrs : List Nat) (loc : Option (Nat × Nat)) :
    State.Only sl s0 (State.sourceFrame s ingress f egrs loc) := by
  unfold State.sourceFrame
  try dsimp only
  repeat' with_reducible first | assumption | apply State.sourceWait_only (Sect.sub rfl hl) | apply State.ite_only | (intro _ _ _ _) | (intro _ _ _) | (intro _; rfl) | (intro _; apply map_map_same; intro _; rfl) | (intro _; apply map_mapIf; intro _; rfl) | (refine State.fst_only (by assumption) ?_) | split | dsimp only | (intro _; split <;> rfl) | (intro _; (repeat' split) <;> rfl)

theorem State.launchFrame_only (hl : [Sect.out, Sect.od, Sect.sw, Sect.mgt] ⊆ sl) (h : State.Only sl s0 s) (f : Frame) (egr : Nat) :
    State.Only sl s0 (State.launchFrame s f egr) := by
  unfold State.launchFrame
  try dsimp only
  repeat' with_reducible first | assumption | apply State.sourceFrame_only (Sect.sub rfl hl) | apply State.ite_only | (intro _ _ _ _) | (intro _ _ _) | (intro _; rfl) | (intro _; apply map_map_same; intro _; rfl) | (intro _; apply map_mapIf; intro _; rfl) | (refine State.fst_only (by assumption) ?_) | split | dsimp only | (intro _; split <;> rfl) | (intro _; (repeat' split) <;> rfl)

theorem State.attempt_only (hl : [Sect.out, Sect.od, Sect.sw, Sect.mgt] ⊆ sl) (h : State.Only sl s0 s) (o : OpenFrame) (p : Option Nat) :
    State.Only sl s0 (State.attempt s o p).1 := by
  unfold State.attempt
  try dsimp only
  repeat' with_reducible first | assumption | apply State.launchFrame_only (Sect.sub rfl hl) | apply State.ite_only | (intro _ _ _ _) | (intro _ _ _) | (intro _; rfl) | (intro _; apply map_map_same; intro _; rfl) | (intro _; apply map_mapIf; intro _; rfl) | (refine State.fst_only (by assumption) ?_) | split | dsimp only | (intro _; split <;> rfl) | (intro _; (repeat' split) <;> rfl)

theorem State.setOpen_only (hl : [Sect.dlv] ⊆ sl) (h : State.Only sl s0 s) (d : Nat) (o : OpenFrame) :
    State.Only sl s0 (State.setOpen s d o) := by
  unfold State.setOpen
  try dsimp only
  repeat' with_reducible first | assumption | apply State.setPeer_only (Sect.sub rfl hl) | apply State.ite_only | (intro _ _ _ _) | (intro _ _ _) | (intro _; rfl) | (intro _; apply map_map_same; intro _; rfl) | (intro _; apply map_mapIf; intro _; rfl) | (refine State.fst_only (by assumption) ?_) | split | dsimp only | (intro _; split <;> rfl) | (intro _; (repeat' split) <;> rfl)

theorem State.sendSeq_only (hl : [Sect.out, Sect.od, Sect.sw, Sect.dlv, Sect.mgt] ⊆ sl) (h : State.Only sl s0 s) (f : Frame) (p paths : Nat) (loc : Option (Nat × Nat)) :
    State.Only sl s0 (State.sendSeq s f p paths loc) := by
  unfold State.sendSeq
  try dsimp only
  repeat' with_reducible first | assumption | apply State.setPeer_only (Sect.sub rfl hl) | apply State.attempt_only (Sect.sub rfl hl) | apply State.ite_only | (intro _ _ _ _) | (intro _ _ _) | (intro _; rfl) | (intro _; apply map_map_same; intro _; rfl) | (intro _; apply map_mapIf; intro _; rfl) | (refine State.fst_only (by assumption) ?_) | split | dsimp only | (intro _; split <;> rfl) | (intro _; (repeat' split) <;> rfl)

theorem State.pumpPair_only (hl : [Sect.out, Sect.od, Sect.sw, Sect.dlv, Sect.mgt] ⊆ sl) (h : State.Only sl s0 s) (d : Nat) :
    State.Only sl s0 (State.pumpPair s d) := by
  unfold State.pumpPair
  try dsimp only
  repeat' with_reducible first | assumption | apply State.setPeer_only (Sect.sub rfl hl) | apply State.sendSeq_only (Sect.sub rfl hl) | apply State.ite_only | (intro _ _ _ _) | (intro _ _ _) | (intro _; rfl) | (intro _; apply map_map_same; intro _; rfl) | (intro _; apply map_mapIf; intro _; rfl) | (refine State.fst_only (by assumption) ?_) | split | dsimp only | (intro _; split <;> rfl) | (intro _; (repeat' split) <;> rfl)

theorem State.closeOpen_only (hl : [Sect.out, Sect.od, Sect.sw, Sect.dlv, Sect.mgt] ⊆ sl) (h : State.Only sl s0 s) (d seq : Nat) :
    State.Only sl s0 (State.closeOpen s d seq) := by
  unfold State.closeOpen
  try dsimp only
  repeat' with_reducible first | assumption | apply State.setPeer_only (Sect.sub rfl hl) | apply State.pumpPair_only (Sect.sub rfl hl) | apply State.ite_only | (intro _ _ _ _) | (intro _ _ _) | (intro _; rfl) | (intro _; apply map_map_same; intro _; rfl) | (intro _; apply map_mapIf; intro _; rfl) | (refine State.fst_only (by assumption) ?_) | split | dsimp only | (intro _; split <;> rfl) | (intro _; (repeat' split) <;> rfl)

theorem State.sendPlain_only (hl : [Sect.out, Sect.od, Sect.sw, Sect.mgt] ⊆ sl) (h : State.Only sl s0 s) (f : Frame) :
    State.Only sl s0 (State.sendPlain s f) := by
  unfold State.sendPlain
  try dsimp only
  repeat' with_reducible first | assumption | apply State.launchFrame_only (Sect.sub rfl hl) | apply State.ite_only | (intro _ _ _ _) | (intro _ _ _) | (intro _; rfl) | (intro _; apply map_map_same; intro _; rfl) | (intro _; apply map_mapIf; intro _; rfl) | (refine State.fst_only (by assumption) ?_) | split | dsimp only | (intro _; split <;> rfl) | (intro _; (repeat' split) <;> rfl)

theorem State.resend_only (hl : [Sect.out, Sect.od, Sect.sw, Sect.dlv, Sect.mgt] ⊆ sl) (h : State.Only sl s0 s) (o : OpenFrame) :
    State.Only sl s0 (State.resend s o) := by
  unfold State.resend
  try dsimp only
  repeat' with_reducible first | assumption | apply State.bump_only (Sect.sub rfl hl) | apply State.attempt_only (Sect.sub rfl hl) | apply State.setOpen_only (Sect.sub rfl hl) | apply State.ite_only | (intro _ _ _ _) | (intro _ _ _) | (intro _; rfl) | (intro _; apply map_map_same; intro _; rfl) | (intro _; apply map_mapIf; intro _; rfl) | (refine State.fst_only (by assumption) ?_) | split | dsimp only | (intro _; split <;> rfl) | (intro _; (repeat' split) <;> rfl)

theorem State.sendAck_only (hl : [Sect.out, Sect.od, Sect.sw, Sect.mgt] ⊆ sl) (h : State.Only sl s0 s) (d epoch : Nat) (seqs : List Nat) :
    State.Only sl s0 (State.sendAck s d epoch seqs) := by
  unfold State.sendAck
  try dsimp only
  repeat' with_reducible first | assumption | apply State.sendPlain_only (Sect.sub rfl hl) | apply State.ite_only | (intro _ _ _ _) | (intro _ _ _) | (intro _; rfl) | (intro _; apply map_map_same; intro _; rfl) | (intro _; apply map_mapIf; intro _; rfl) | (refine State.fst_only (by assumption) ?_) | split | dsimp only | (intro _; split <;> rfl) | (intro _; (repeat' split) <;> rfl)

theorem State.noticeTo_only (hl : [Sect.out, Sect.od, Sect.sw, Sect.mgt] ⊆ sl) (h : State.Only sl s0 s) (d : Nat) :
    State.Only sl s0 (State.noticeTo s d) := by
  unfold State.noticeTo
  try dsimp only
  repeat' with_reducible first | assumption | apply State.sendPlain_only (Sect.sub rfl hl) | apply State.ite_only | (intro _ _ _ _) | (intro _ _ _) | (intro _; rfl) | (intro _; apply map_map_same; intro _; rfl) | (intro _; apply map_mapIf; intro _; rfl) | (refine State.fst_only (by assumption) ?_) | split | dsimp only | (intro _; split <;> rfl) | (intro _; (repeat' split) <;> rfl)

theorem State.notices_only (hl : [Sect.out, Sect.od, Sect.sw, Sect.mgt] ⊆ sl) (h : State.Only sl s0 s)  :
    State.Only sl s0 (State.notices s) := by
  unfold State.notices
  try dsimp only
  repeat' with_reducible first | assumption | apply State.each_only | apply State.noticeTo_only (Sect.sub rfl hl) | apply State.ite_only | (intro _ _ _ _) | (intro _ _ _) | (intro _; rfl) | (intro _; apply map_map_same; intro _; rfl) | (intro _; apply map_mapIf; intro _; rfl) | (refine State.fst_only (by assumption) ?_) | split | dsimp only | (intro _; split <;> rfl) | (intro _; (repeat' split) <;> rfl)

end Sys2Proof.Machine
end

