-- ==== Sys2Proof/Laws/OnlyTranslate.lean ====
section
/-! SUPPORT. `State.Only` for every operation and meaning of Machine/Translate.lean: the sections that it may change. -/

namespace Sys2Proof.Machine

open Sys2Proof

set_option Elab.async false

set_option linter.unreachableTactic false
set_option linter.unusedTactic false

variable {s0 s : State} {sl : List Sect}

theorem State.rtcDrop_only (hl : [Sect.xl] ⊆ sl) (h : State.Only sl s0 s) (ep pid fva : Nat) :
    State.Only sl s0 (State.rtcDrop s ep pid fva) := by
  unfold State.rtcDrop
  try dsimp only
  repeat' with_reducible first | assumption | apply State.mapXl_only (Sect.sub rfl hl) | apply State.ite_only | (intro _ _ _ _) | (intro _ _ _) | (intro _; rfl) | (intro _; apply map_map_same; intro _; rfl) | (intro _; apply map_mapIf; intro _; rfl) | (refine State.fst_only (by assumption) ?_) | split | dsimp only | (intro _; split <;> rfl) | (intro _; (repeat' split) <;> rfl)

theorem State.rtcFill_only (hl : [Sect.xl] ⊆ sl) (h : State.Only sl s0 s) (ep pid slot : Nat) (d : Desc) :
    State.Only sl s0 (State.rtcFill s ep pid slot d) := by
  unfold State.rtcFill
  try dsimp only
  repeat' with_reducible first | assumption | apply State.mapXl_only (Sect.sub rfl hl) | apply State.draw_only (Sect.sub rfl hl) | apply State.ite_only | (intro _ _ _ _) | (intro _ _ _) | (intro _; rfl) | (intro _; apply map_map_same; intro _; rfl) | (intro _; apply map_mapIf; intro _; rfl) | (refine State.fst_only (by assumption) ?_) | split | dsimp only | (intro _; split <;> rfl) | (intro _; (repeat' split) <;> rfl)

theorem State.nodeFill_only (hl : [Sect.xl] ⊆ sl) (h : State.Only sl s0 s) (ep pid : Nat) (path : List (Nat × Nat)) :
    State.Only sl s0 (State.nodeFill s ep pid path) := by
  unfold State.nodeFill
  try dsimp only
  repeat' with_reducible first | assumption | apply State.each_only | apply State.mapXl_only (Sect.sub rfl hl) | apply State.draw_only (Sect.sub rfl hl) | apply State.ite_only | (intro _ _ _ _) | (intro _ _ _) | (intro _; rfl) | (intro _; apply map_map_same; intro _; rfl) | (intro _; apply map_mapIf; intro _; rfl) | (refine State.fst_only (by assumption) ?_) | split | dsimp only | (intro _; split <;> rfl) | (intro _; (repeat' split) <;> rfl)

theorem State.reachDrop_only (hl : [Sect.od, Sect.xl, Sect.mgt] ⊆ sl) (h : State.Only sl s0 s) (p : Nat → Nat → Nat → Bool) :
    State.Only sl s0 (State.reachDrop s p) := by
  unfold State.reachDrop
  try dsimp only
  repeat' with_reducible first | assumption | apply State.each_only | apply State.epEv_only (Sect.sub rfl hl) | apply State.mapXl_only (Sect.sub rfl hl) | apply State.ite_only | (intro _ _ _ _) | (intro _ _ _) | (intro _; rfl) | (intro _; apply map_map_same; intro _; rfl) | (intro _; apply map_mapIf; intro _; rfl) | (refine State.fst_only (by assumption) ?_) | split | dsimp only | (intro _; split <;> rfl) | (intro _; (repeat' split) <;> rfl)

theorem State.reachClear_only (hl : [Sect.od, Sect.xl, Sect.mgt] ⊆ sl) (h : State.Only sl s0 s) (ep pid : Nat) :
    State.Only sl s0 (State.reachClear s ep pid) := by
  unfold State.reachClear
  try dsimp only
  repeat' with_reducible first | assumption | apply State.reachDrop_only (Sect.sub rfl hl) | apply State.ite_only | (intro _ _ _ _) | (intro _ _ _) | (intro _; rfl) | (intro _; apply map_map_same; intro _; rfl) | (intro _; apply map_mapIf; intro _; rfl) | (refine State.fst_only (by assumption) ?_) | split | dsimp only | (intro _; split <;> rfl) | (intro _; (repeat' split) <;> rfl)

theorem State.reachDropLines_only (hl : [Sect.od, Sect.xl, Sect.mgt] ⊆ sl) (h : State.Only sl s0 s) (ep pid : Nat) (ls : List Nat) :
    State.Only sl s0 (State.reachDropLines s ep pid ls) := by
  unfold State.reachDropLines
  try dsimp only
  repeat' with_reducible first | assumption | apply State.reachDrop_only (Sect.sub rfl hl) | apply State.ite_only | (intro _ _ _ _) | (intro _ _ _) | (intro _; rfl) | (intro _; apply map_map_same; intro _; rfl) | (intro _; apply map_mapIf; intro _; rfl) | (refine State.fst_only (by assumption) ?_) | split | dsimp only | (intro _; split <;> rfl) | (intro _; (repeat' split) <;> rfl)

theorem State.reachPut_only (hl : [Sect.xl] ⊆ sl) (h : State.Only sl s0 s) (ep pid line : Nat) (data : List Byte) :
    State.Only sl s0 (State.reachPut s ep pid line data) := by
  unfold State.reachPut
  try dsimp only
  repeat' with_reducible first | assumption | apply State.mapXl_only (Sect.sub rfl hl) | apply State.draw_only (Sect.sub rfl hl) | apply State.ite_only | (intro _ _ _ _) | (intro _ _ _) | (intro _; rfl) | (intro _; apply map_map_same; intro _; rfl) | (intro _; apply map_mapIf; intro _; rfl) | (refine State.fst_only (by assumption) ?_) | split | dsimp only | (intro _; split <;> rfl) | (intro _; (repeat' split) <;> rfl)

end Sys2Proof.Machine
end

