-- ==== Sys2Proof/Laws/OnlyRequests.lean ====
section
/-! SUPPORT. `State.Only` for every operation and meaning of Machine/Requests.lean: the sections that it may change. -/

namespace Sys2Proof.Machine

open Sys2Proof

set_option Elab.async false

set_option linter.unreachableTactic false
set_option linter.unusedTactic false

variable {s0 s : State} {sl : List Sect}

theorem State.putTx_only (hl : [Sect.req] ⊆ sl) (h : State.Only sl s0 s) (t : Tx) : State.Only sl s0 (State.putTx s t) :=
  h.step rfl rfl rfl rfl rfl fun x hx => by
    cases x <;> first | exact rfl | exact ⟨rfl, rfl⟩ | exact ⟨rfl, rfl, rfl⟩ | exact absurd (hl (by simp)) hx

theorem State.setTx_only (hl : [Sect.req] ⊆ sl) (h : State.Only sl s0 s) (t : Tx) :
    State.Only sl s0 (State.setTx s t) := by
  unfold State.setTx
  try dsimp only
  repeat' with_reducible first | assumption | apply State.mapReq_only (Sect.sub rfl hl) | apply State.ite_only | (intro _ _ _ _) | (intro _ _ _) | (intro _; rfl) | (intro _; apply map_map_same; intro _; rfl) | (intro _; apply map_mapIf; intro _; rfl) | (refine State.fst_only (by assumption) ?_) | split | dsimp only | (intro _; split <;> rfl) | (intro _; (repeat' split) <;> rfl)

theorem State.dropTx_only (hl : [Sect.req] ⊆ sl) (h : State.Only sl s0 s) (id : Nat) :
    State.Only sl s0 (State.dropTx s id) := by
  unfold State.dropTx
  try dsimp only
  repeat' with_reducible first | assumption | apply State.mapReq_only (Sect.sub rfl hl) | apply State.ite_only | (intro _ _ _ _) | (intro _ _ _) | (intro _; rfl) | (intro _; apply map_map_same; intro _; rfl) | (intro _; apply map_mapIf; intro _; rfl) | (refine State.fst_only (by assumption) ?_) | split | dsimp only | (intro _; split <;> rfl) | (intro _; (repeat' split) <;> rfl)

theorem State.setAgent_only (hl : [Sect.req] ⊆ sl) (h : State.Only sl s0 s) (a : Agent) (f : AgentSt → AgentSt) :
    State.Only sl s0 (State.setAgent s a f) := by
  unfold State.setAgent
  try dsimp only
  repeat' with_reducible first | assumption | apply State.mapReq_only (Sect.sub rfl hl) | apply State.ite_only | (intro _ _ _ _) | (intro _ _ _) | (intro _; rfl) | (intro _; apply map_map_same; intro _; rfl) | (intro _; apply map_mapIf; intro _; rfl) | (refine State.fst_only (by assumption) ?_) | split | dsimp only | (intro _; split <;> rfl) | (intro _; (repeat' split) <;> rfl)

theorem State.addAgent_only (hl : [Sect.req] ⊆ sl) (h : State.Only sl s0 s) (a : Agent) (pid owner : Nat) :
    State.Only sl s0 (State.addAgent s a pid owner) := by
  unfold State.addAgent
  try dsimp only
  repeat' with_reducible first | assumption | apply State.mapReq_only (Sect.sub rfl hl) | apply State.ite_only | (intro _ _ _ _) | (intro _ _ _) | (intro _; rfl) | (intro _; apply map_map_same; intro _; rfl) | (intro _; apply map_mapIf; intro _; rfl) | (refine State.fst_only (by assumption) ?_) | split | dsimp only | (intro _; split <;> rfl) | (intro _; (repeat' split) <;> rfl)

theorem State.needAgent_only (hl : [Sect.req] ⊆ sl) (h : State.Only sl s0 s) (a : Agent) (pid owner : Nat) :
    State.Only sl s0 (State.needAgent s a pid owner) := by
  unfold State.needAgent
  try dsimp only
  repeat' with_reducible first | assumption | apply State.addAgent_only (Sect.sub rfl hl) | apply State.ite_only | (intro _ _ _ _) | (intro _ _ _) | (intro _; rfl) | (intro _; apply map_map_same; intro _; rfl) | (intro _; apply map_mapIf; intro _; rfl) | (refine State.fst_only (by assumption) ?_) | split | dsimp only | (intro _; split <;> rfl) | (intro _; (repeat' split) <;> rfl)

theorem State.sendRspd_only (hl : [Sect.out, Sect.lnk] ⊆ sl) (h : State.Only sl s0 s) (ep n tag : Nat) (t : Tx) :
    State.Only sl s0 (State.sendRspd s ep n tag t) := by
  unfold State.sendRspd
  try dsimp only
  repeat' with_reducible first | assumption | apply State.each_only | apply State.capSend_only (Sect.sub rfl hl) | apply State.ite_only | (intro _ _ _ _) | (intro _ _ _) | (intro _; rfl) | (intro _; apply map_map_same; intro _; rfl) | (intro _; apply map_mapIf; intro _; rfl) | (refine State.fst_only (by assumption) ?_) | split | dsimp only | (intro _; split <;> rfl) | (intro _; (repeat' split) <;> rfl)

theorem State.sendRsp_only (hl : [Sect.out, Sect.lnk] ⊆ sl) (h : State.Only sl s0 s) (ep n tag : Nat) (t : Tx) (st : Nat) :
    State.Only sl s0 (State.sendRsp s ep n tag t st) := by
  unfold State.sendRsp
  try dsimp only
  repeat' with_reducible first | assumption | apply State.capSend_only (Sect.sub rfl hl) | apply State.rsp_only (Sect.sub rfl hl) | apply State.sendRspd_only (Sect.sub rfl hl) | apply State.ite_only | (intro _ _ _ _) | (intro _ _ _) | (intro _; rfl) | (intro _; apply map_map_same; intro _; rfl) | (intro _; apply map_mapIf; intro _; rfl) | (refine State.fst_only (by assumption) ?_) | split | dsimp only | (intro _; split <;> rfl) | (intro _; (repeat' split) <;> rfl)

theorem State.hostAnswer_only (hl : [Sect.out, Sect.od, Sect.lnk] ⊆ sl) (h : State.Only sl s0 s) (cp hpa : Nat) (wr : Bool) (st : Nat) (data : List Byte) :
    State.Only sl s0 (State.hostAnswer s cp hpa wr st data) := by
  unfold State.hostAnswer
  try dsimp only
  repeat' with_reducible first | assumption | apply State.wr_only (Sect.sub rfl hl) | apply State.setCp_only (Sect.sub rfl hl) | apply State.emit_only (Sect.sub rfl hl) | apply State.ite_only | (intro _ _ _ _) | (intro _ _ _) | (intro _; rfl) | (intro _; apply map_map_same; intro _; rfl) | (intro _; apply map_mapIf; intro _; rfl) | (refine State.fst_only (by assumption) ?_) | split | dsimp only | (intro _; split <;> rfl) | (intro _; (repeat' split) <;> rfl)

theorem State.deliver_only (hl : [Sect.out, Sect.od, Sect.req, Sect.ep, Sect.lnk] ⊆ sl) (h : State.Only sl s0 s) (t : Tx) (st : Nat) :
    State.Only sl s0 (State.deliver s t st) := by
  unfold State.deliver
  try dsimp only
  repeat' with_reducible first | assumption | apply State.setCtx_only (Sect.sub rfl hl) | apply State.sendRsp_only (Sect.sub rfl hl) | apply State.dropTx_only (Sect.sub rfl hl) | apply State.setTx_only (Sect.sub rfl hl) | apply State.hostAnswer_only (Sect.sub rfl hl) | apply State.store_only (Sect.sub rfl hl) | apply State.ite_only | (intro _ _ _ _) | (intro _ _ _) | (intro _; rfl) | (intro _; apply map_map_same; intro _; rfl) | (intro _; apply map_mapIf; intro _; rfl) | (refine State.fst_only (by assumption) ?_) | split | dsimp only | (intro _; split <;> rfl) | (intro _; (repeat' split) <;> rfl)

theorem State.noteDone_only (hl : [Sect.req] ⊆ sl) (h : State.Only sl s0 s) (t : Tx) (st : Nat) :
    State.Only sl s0 (State.noteDone s t st) := by
  unfold State.noteDone
  try dsimp only
  repeat' with_reducible first | assumption | apply State.mapReq_only (Sect.sub rfl hl) | apply State.ite_only | (intro _ _ _ _) | (intro _ _ _) | (intro _; rfl) | (intro _; apply map_map_same; intro _; rfl) | (intro _; apply map_mapIf; intro _; rfl) | (refine State.fst_only (by assumption) ?_) | split | dsimp only | (intro _; split <;> rfl) | (intro _; (repeat' split) <;> rfl)

theorem State.dropFills_only (hl : [Sect.xl, Sect.req] ⊆ sl) (h : State.Only sl s0 s) (id : Nat) :
    State.Only sl s0 (State.dropFills s id) := by
  unfold State.dropFills
  try dsimp only
  repeat' with_reducible first | assumption | apply State.mapXl_only (Sect.sub rfl hl) | apply State.mapReq_only (Sect.sub rfl hl) | apply State.ite_only | (intro _ _ _ _) | (intro _ _ _) | (intro _; rfl) | (intro _; apply map_map_same; intro _; rfl) | (intro _; apply map_mapIf; intro _; rfl) | (refine State.fst_only (by assumption) ?_) | split | dsimp only | (intro _; split <;> rfl) | (intro _; (repeat' split) <;> rfl)

theorem State.completeTx_only (hl : [Sect.out, Sect.od, Sect.xl, Sect.req, Sect.ep, Sect.lnk, Sect.mgt] ⊆ sl) (h : State.Only sl s0 s) (t : Tx) (st : Nat) :
    State.Only sl s0 (State.completeTx s t st) := by
  unfold State.completeTx
  try dsimp only
  repeat' with_reducible first | assumption | apply State.reachClear_only (Sect.sub rfl hl) | apply State.epEv_only (Sect.sub rfl hl) | apply State.noteDone_only (Sect.sub rfl hl) | apply State.deliver_only (Sect.sub rfl hl) | apply State.dropFills_only (Sect.sub rfl hl) | apply State.ite_only | (intro _ _ _ _) | (intro _ _ _) | (intro _; rfl) | (intro _; apply map_map_same; intro _; rfl) | (intro _; apply map_mapIf; intro _; rfl) | (refine State.fst_only (by assumption) ?_) | split | dsimp only | (intro _; split <;> rfl) | (intro _; (repeat' split) <;> rfl)

theorem State.partDone_only (hl : [Sect.out, Sect.od, Sect.xl, Sect.req, Sect.ep, Sect.lnk, Sect.mgt] ⊆ sl) (h : State.Only sl s0 s) (tid pi st li : Nat) (data : List Byte) (tmo : Bool) :
    State.Only sl s0 (State.partDone s tid pi st li data tmo) := by
  unfold State.partDone
  try dsimp only
  repeat' with_reducible first | assumption | apply State.completeTx_only (Sect.sub rfl hl) | apply State.setTx_only (Sect.sub rfl hl) | apply State.ite_only | (intro _ _ _ _) | (intro _ _ _) | (intro _; rfl) | (intro _; apply map_map_same; intro _; rfl) | (intro _; apply map_mapIf; intro _; rfl) | (refine State.fst_only (by assumption) ?_) | split | dsimp only | (intro _; split <;> rfl) | (intro _; (repeat' split) <;> rfl)

theorem State.setRec_only (hl : [Sect.xl] ⊆ sl) (h : State.Only sl s0 s) (rid pid : Nat) (f : FaultRec → FaultRec) :
    State.Only sl s0 (State.setRec s rid pid f) := by
  unfold State.setRec
  try dsimp only
  repeat' with_reducible first | assumption | apply State.mapXl_only (Sect.sub rfl hl) | apply State.ite_only | (intro _ _ _ _) | (intro _ _ _) | (intro _; rfl) | (intro _; apply map_map_same; intro _; rfl) | (intro _; apply map_mapIf; intro _; rfl) | (refine State.fst_only (by assumption) ?_) | split | dsimp only | (intro _; split <;> rfl) | (intro _; (repeat' split) <;> rfl)

theorem State.rewriteW4_only (hl : [Sect.mem, Sect.poison, Sect.written] ⊆ sl) (h : State.Only sl s0 s) (rid pid : Nat) :
    State.Only sl s0 (State.rewriteW4 s rid pid) := by
  unfold State.rewriteW4
  try dsimp only
  repeat' with_reducible first | assumption | apply State.store_only (Sect.sub rfl hl) | apply State.ite_only | (intro _ _ _ _) | (intro _ _ _) | (intro _; rfl) | (intro _; apply map_map_same; intro _; rfl) | (intro _; apply map_mapIf; intro _; rfl) | (refine State.fst_only (by assumption) ?_) | split | dsimp only | (intro _; split <;> rfl) | (intro _; (repeat' split) <;> rfl)

theorem State.faultTx_only (hl : [Sect.out, Sect.od, Sect.mem, Sect.poison, Sect.written, Sect.xl, Sect.req, Sect.ep, Sect.lnk, Sect.mgt] ⊆ sl) (h : State.Only sl s0 s) (t : Tx) (reason leaf fva row : Nat) (isDst : Bool) :
    State.Only sl s0 (State.faultTx s t reason leaf fva row isDst) := by
  unfold State.faultTx
  try dsimp only
  repeat' with_reducible first | assumption | apply State.setRec_only (Sect.sub rfl hl) | apply State.rewriteW4_only (Sect.sub rfl hl) | apply State.completeTx_only (Sect.sub rfl hl) | apply State.setTx_only (Sect.sub rfl hl) | apply State.epEv_only (Sect.sub rfl hl) | apply State.bump_only (Sect.sub rfl hl) | apply State.draw_only (Sect.sub rfl hl) | apply State.store_only (Sect.sub rfl hl) | apply State.wr_only (Sect.sub rfl hl) | apply State.mapXl_only (Sect.sub rfl hl) | apply State.ite_only | (intro _ _ _ _) | (intro _ _ _) | (intro _; rfl) | (intro _; apply map_map_same; intro _; rfl) | (intro _; apply map_mapIf; intro _; rfl) | (refine State.fst_only (by assumption) ?_) | split | dsimp only | (intro _; split <;> rfl) | (intro _; (repeat' split) <;> rfl)

theorem State.missTx_only (hl : [Sect.od, Sect.xl, Sect.req, Sect.mgt] ⊆ sl) (h : State.Only sl s0 s) (t : Tx) (slot : Nat) :
    State.Only sl s0 (State.missTx s t slot) := by
  unfold State.missTx
  try dsimp only
  repeat' with_reducible first | assumption | apply State.epEv_only (Sect.sub rfl hl) | apply State.setTx_only (Sect.sub rfl hl) | apply State.mapXl_only (Sect.sub rfl hl) | apply State.ite_only | (intro _ _ _ _) | (intro _ _ _) | (intro _; rfl) | (intro _; apply map_map_same; intro _; rfl) | (intro _; apply map_mapIf; intro _; rfl) | (refine State.fst_only (by assumption) ?_) | split | dsimp only | (intro _; split <;> rfl) | (intro _; (repeat' split) <;> rfl)

theorem State.translate_only (hl : [Sect.out, Sect.od, Sect.mem, Sect.poison, Sect.written, Sect.xl, Sect.req, Sect.ep, Sect.lnk, Sect.mgt] ⊆ sl) (h : State.Only sl s0 s) (tid : Nat) (fresh : Option Nat) :
    State.Only sl s0 (State.translate s tid fresh) := by
  unfold State.translate
  try dsimp only
  repeat' with_reducible first | assumption | apply State.fresh_only (Sect.sub rfl hl) | apply State.each_only | apply State.rtcFill_only (Sect.sub rfl hl) | apply State.setTx_only (Sect.sub rfl hl) | apply State.epEv_only (Sect.sub rfl hl) | apply State.completeTx_only (Sect.sub rfl hl) | apply State.rtcDrop_only (Sect.sub rfl hl) | apply State.missTx_only (Sect.sub rfl hl) | apply State.faultTx_only (Sect.sub rfl hl) | apply State.foldlPair_only | apply State.foldl_only | apply State.ite_only | (intro _ _ _ _) | (intro _ _ _) | (intro _; rfl) | (intro _; apply map_map_same; intro _; rfl) | (intro _; apply map_mapIf; intro _; rfl) | (refine State.fst_only (by assumption) ?_) | split | dsimp only | (intro _; split <;> rfl) | (intro _; (repeat' split) <;> rfl)

end Sys2Proof.Machine
end

