-- ==== Sys2Proof/Laws/OnlyHomeOps.lean ====
section
/-! SUPPORT. `State.Only` for every operation and meaning of Machine/HomeOps.lean: the sections that it may change. -/

namespace Sys2Proof.Machine

open Sys2Proof

set_option Elab.async false

set_option linter.unreachableTactic false
set_option linter.unusedTactic false

variable {s0 s : State} {sl : List Sect}

theorem State.recordRsp_only (hl : [Sect.dlv] ⊆ sl) (h : State.Only sl s0 s) (src seq st li : Nat) (data : List Byte) :
    State.Only sl s0 (State.recordRsp s src seq st li data) := by
  unfold State.recordRsp
  try dsimp only
  repeat' with_reducible first | assumption | apply State.setPeer_only (Sect.sub rfl hl) | apply State.ite_only | (intro _ _ _ _) | (intro _ _ _) | (intro _; rfl) | (intro _; apply map_map_same; intro _; rfl) | (intro _; apply map_mapIf; intro _; rfl) | (refine State.fst_only (by assumption) ?_) | split | dsimp only | (intro _; split <;> rfl) | (intro _; (repeat' split) <;> rfl)

theorem State.homeRsp_only (hl : [Sect.out, Sect.home, Sect.lnk] ⊆ sl) (h : State.Only sl s0 s) (t p st li : Nat) (data : List Byte) :
    State.Only sl s0 (State.homeRsp s t p st li data) := by
  unfold State.homeRsp
  try dsimp only
  repeat' with_reducible first | assumption | apply State.mapHome_only (Sect.sub rfl hl) | apply State.rsp_only (Sect.sub rfl hl) | apply State.ite_only | (intro _ _ _ _) | (intro _ _ _) | (intro _; rfl) | (intro _; apply map_map_same; intro _; rfl) | (intro _; apply map_mapIf; intro _; rfl) | (refine State.fst_only (by assumption) ?_) | split | dsimp only | (intro _; split <;> rfl) | (intro _; (repeat' split) <;> rfl)

theorem State.homeAnswer_only (hl : [Sect.out, Sect.od, Sect.home, Sect.sw, Sect.dlv, Sect.lnk, Sect.mgt] ⊆ sl) (h : State.Only sl s0 s) (h : HReq) (st li : Nat) (data : List Byte) :
    State.Only sl s0 (State.homeAnswer s h st li data) := by
  unfold State.homeAnswer
  try dsimp only
  repeat' with_reducible first | assumption | apply State.recordRsp_only (Sect.sub rfl hl) | apply State.sendPlain_only (Sect.sub rfl hl) | apply State.homeRsp_only (Sect.sub rfl hl) | apply State.sourceFrame_only (Sect.sub rfl hl) | apply State.ite_only | (intro _ _ _ _) | (intro _ _ _) | (intro _; rfl) | (intro _; apply map_map_same; intro _; rfl) | (intro _; apply map_mapIf; intro _; rfl) | (refine State.fst_only (by assumption) ?_) | split | dsimp only | (intro _; split <;> rfl) | (intro _; (repeat' split) <;> rfl)

theorem State.takeIn_only (hl : [Sect.home] ⊆ sl) (h : State.Only sl s0 s) (pos : Nat) :
    State.Only sl s0 (State.takeIn s pos) := by
  unfold State.takeIn
  try dsimp only
  repeat' with_reducible first | assumption | apply State.mapHome_only (Sect.sub rfl hl) | apply State.ite_only | (intro _ _ _ _) | (intro _ _ _) | (intro _; rfl) | (intro _; apply map_map_same; intro _; rfl) | (intro _; apply map_mapIf; intro _; rfl) | (refine State.fst_only (by assumption) ?_) | split | dsimp only | (intro _; split <;> rfl) | (intro _; (repeat' split) <;> rfl)

theorem State.hold_only (hl : [Sect.home] ⊆ sl) (h : State.Only sl s0 s) (h : HReq) (w : Why) :
    State.Only sl s0 (State.hold s h w) := by
  unfold State.hold
  try dsimp only
  repeat' with_reducible first | assumption | apply State.mapHome_only (Sect.sub rfl hl) | apply State.ite_only | (intro _ _ _ _) | (intro _ _ _) | (intro _; rfl) | (intro _; apply map_map_same; intro _; rfl) | (intro _; apply map_mapIf; intro _; rfl) | (refine State.fst_only (by assumption) ?_) | split | dsimp only | (intro _; split <;> rfl) | (intro _; (repeat' split) <;> rfl)

theorem State.dropHeld_only (hl : [Sect.home] ⊆ sl) (h : State.Only sl s0 s) (hid : Nat) :
    State.Only sl s0 (State.dropHeld s hid) := by
  unfold State.dropHeld
  try dsimp only
  repeat' with_reducible first | assumption | apply State.mapHome_only (Sect.sub rfl hl) | apply State.ite_only | (intro _ _ _ _) | (intro _ _ _) | (intro _; rfl) | (intro _; apply map_map_same; intro _; rfl) | (intro _; apply map_mapIf; intro _; rfl) | (refine State.fst_only (by assumption) ?_) | split | dsimp only | (intro _; split <;> rfl) | (intro _; (repeat' split) <;> rfl)

theorem State.requeue_only (hl : [Sect.home] ⊆ sl) (h : State.Only sl s0 s) (h : HReq) :
    State.Only sl s0 (State.requeue s h) := by
  unfold State.requeue
  try dsimp only
  repeat' with_reducible first | assumption | apply State.mapHome_only (Sect.sub rfl hl) | apply State.ite_only | (intro _ _ _ _) | (intro _ _ _) | (intro _; rfl) | (intro _; apply map_map_same; intro _; rfl) | (intro _; apply map_mapIf; intro _; rfl) | (refine State.fst_only (by assumption) ?_) | split | dsimp only | (intro _; split <;> rfl) | (intro _; (repeat' split) <;> rfl)

theorem State.homeIn_only (hl : [Sect.home] ⊆ sl) (h : State.Only sl s0 s) (f : Frame) (loc : Option (Nat × Nat)) :
    State.Only sl s0 (State.homeIn s f loc) := by
  unfold State.homeIn
  try dsimp only
  repeat' with_reducible first | assumption | apply State.mapHome_only (Sect.sub rfl hl) | apply State.fresh_only (Sect.sub rfl hl) | apply State.ite_only | (intro _ _ _ _) | (intro _ _ _) | (intro _; rfl) | (intro _; apply map_map_same; intro _; rfl) | (intro _; apply map_mapIf; intro _; rfl) | (refine State.fst_only (by assumption) ?_) | split | dsimp only | (intro _; split <;> rfl) | (intro _; (repeat' split) <;> rfl)

theorem State.homeRefuse_only (hl : [Sect.out, Sect.od, Sect.home, Sect.sw, Sect.dlv, Sect.lnk, Sect.sec, Sect.mgt] ⊆ sl) (h : State.Only sl s0 s) (h : HReq) (r : Nat × Bool) :
    State.Only sl s0 (State.homeRefuse s h r) := by
  unfold State.homeRefuse
  try dsimp only
  repeat' with_reducible first | assumption | apply State.bump_only (Sect.sub rfl hl) | apply State.noteClosed_only (Sect.sub rfl hl) | apply State.homeAnswer_only (Sect.sub rfl hl) | apply State.ite_only | (intro _ _ _ _) | (intro _ _ _) | (intro _; rfl) | (intro _; apply map_map_same; intro _; rfl) | (intro _; apply map_mapIf; intro _; rfl) | (refine State.fst_only (by assumption) ?_) | split | dsimp only | (intro _; split <;> rfl) | (intro _; (repeat' split) <;> rfl)

theorem State.ownerPut_only (hl : [Sect.home] ⊆ sl) (h : State.Only sl s0 s) (flag owner gen : Nat) :
    State.Only sl s0 (State.ownerPut s flag owner gen) := by
  unfold State.ownerPut
  try dsimp only
  repeat' with_reducible first | assumption | apply State.mapHome_only (Sect.sub rfl hl) | apply State.ite_only | (intro _ _ _ _) | (intro _ _ _) | (intro _; rfl) | (intro _; apply map_map_same; intro _; rfl) | (intro _; apply map_mapIf; intro _; rfl) | (refine State.fst_only (by assumption) ?_) | split | dsimp only | (intro _; split <;> rfl) | (intro _; (repeat' split) <;> rfl)

theorem State.ownerTouch_only (hl : [Sect.home] ⊆ sl) (h : State.Only sl s0 s) (flag : Nat) :
    State.Only sl s0 (State.ownerTouch s flag) := by
  unfold State.ownerTouch
  try dsimp only
  repeat' with_reducible first | assumption | apply State.ownerPut_only (Sect.sub rfl hl) | apply State.ite_only | (intro _ _ _ _) | (intro _ _ _) | (intro _; rfl) | (intro _; apply map_map_same; intro _; rfl) | (intro _; apply map_mapIf; intro _; rfl) | (refine State.fst_only (by assumption) ?_) | split | dsimp only | (intro _; split <;> rfl) | (intro _; (repeat' split) <;> rfl)

theorem State.ownerReadAgain_only (hl : [Sect.out, Sect.od, Sect.home, Sect.sw, Sect.dlv, Sect.mgt] ⊆ sl) (h : State.Only sl s0 s) (flag : Nat) :
    State.Only sl s0 (State.ownerReadAgain s flag) := by
  unfold State.ownerReadAgain
  try dsimp only
  repeat' with_reducible first | assumption | apply State.mapHome_only (Sect.sub rfl hl) | apply State.homeIn_only (Sect.sub rfl hl) | apply State.sendSeq_only (Sect.sub rfl hl) | apply State.ite_only | (intro _ _ _ _) | (intro _ _ _) | (intro _; rfl) | (intro _; apply map_map_same; intro _; rfl) | (intro _; apply map_mapIf; intro _; rfl) | (refine State.fst_only (by assumption) ?_) | split | dsimp only | (intro _; split <;> rfl) | (intro _; (repeat' split) <;> rfl)

theorem State.ownerRead_only (hl : [Sect.out, Sect.od, Sect.home, Sect.sw, Sect.dlv, Sect.mgt] ⊆ sl) (h : State.Only sl s0 s) (flag : Nat) :
    State.Only sl s0 (State.ownerRead s flag) := by
  unfold State.ownerRead
  try dsimp only
  repeat' with_reducible first | assumption | apply State.ownerReadAgain_only (Sect.sub rfl hl) | apply State.ite_only | (intro _ _ _ _) | (intro _ _ _) | (intro _; rfl) | (intro _; apply map_map_same; intro _; rfl) | (intro _; apply map_mapIf; intro _; rfl) | (refine State.fst_only (by assumption) ?_) | split | dsimp only | (intro _; split <;> rfl) | (intro _; (repeat' split) <;> rfl)

theorem State.ownerNews_only (hl : [Sect.out, Sect.od, Sect.home, Sect.sw, Sect.dlv, Sect.mgt] ⊆ sl) (h : State.Only sl s0 s) (flag owner gen : Nat) :
    State.Only sl s0 (State.ownerNews s flag owner gen) := by
  unfold State.ownerNews
  try dsimp only
  repeat' with_reducible first | assumption | apply State.ownerPut_only (Sect.sub rfl hl) | apply State.ownerReadAgain_only (Sect.sub rfl hl) | apply State.ite_only | (intro _ _ _ _) | (intro _ _ _) | (intro _; rfl) | (intro _; apply map_map_same; intro _; rfl) | (intro _; apply map_mapIf; intro _; rfl) | (refine State.fst_only (by assumption) ?_) | split | dsimp only | (intro _; split <;> rfl) | (intro _; (repeat' split) <;> rfl)

theorem State.notePinned_only (hl : [Sect.od] ⊆ sl) (h : State.Only sl s0 s)  :
    State.Only sl s0 (State.notePinned s) := by
  unfold State.notePinned
  try dsimp only
  repeat' with_reducible first | assumption | apply State.wr_only (Sect.sub rfl hl) | apply State.ite_only | (intro _ _ _ _) | (intro _ _ _) | (intro _; rfl) | (intro _; apply map_map_same; intro _; rfl) | (intro _; apply map_mapIf; intro _; rfl) | (refine State.fst_only (by assumption) ?_) | split | dsimp only | (intro _; split <;> rfl) | (intro _; (repeat' split) <;> rfl)

theorem State.promote_only (hl : [Sect.od, Sect.home] ⊆ sl) (h : State.Only sl s0 s) (frame cls : Nat) :
    State.Only sl s0 (State.promote s frame cls) := by
  unfold State.promote
  try dsimp only
  repeat' with_reducible first | assumption | apply State.mapHome_only (Sect.sub rfl hl) | apply State.notePinned_only (Sect.sub rfl hl) | apply State.ite_only | (intro _ _ _ _) | (intro _ _ _) | (intro _; rfl) | (intro _; apply map_map_same; intro _; rfl) | (intro _; apply map_mapIf; intro _; rfl) | (refine State.fst_only (by assumption) ?_) | split | dsimp only | (intro _; split <;> rfl) | (intro _; (repeat' split) <;> rfl)

theorem State.demote_only (hl : [Sect.home] ⊆ sl) (h : State.Only sl s0 s) (frame : Nat) :
    State.Only sl s0 (State.demote s frame) := by
  unfold State.demote
  try dsimp only
  repeat' with_reducible first | assumption | apply State.mapHome_only (Sect.sub rfl hl) | apply State.ite_only | (intro _ _ _ _) | (intro _ _ _) | (intro _; rfl) | (intro _; apply map_map_same; intro _; rfl) | (intro _; apply map_mapIf; intro _; rfl) | (refine State.fst_only (by assumption) ?_) | split | dsimp only | (intro _; split <;> rfl) | (intro _; (repeat' split) <;> rfl)

theorem State.tierAccess_only (hl : [Sect.od, Sect.home] ⊆ sl) (h : State.Only sl s0 s) (a hint : Nat) (wrLines : List Nat) :
    State.Only sl s0 (State.tierAccess s a hint wrLines) := by
  unfold State.tierAccess
  try dsimp only
  repeat' with_reducible first | assumption | apply State.foldlPair_only | apply State.foldl_only | apply State.mapHome_only (Sect.sub rfl hl) | apply State.promote_only (Sect.sub rfl hl) | apply State.ite_only | (intro _ _ _ _) | (intro _ _ _) | (intro _; rfl) | (intro _; apply map_map_same; intro _; rfl) | (intro _; apply map_mapIf; intro _; rfl) | (refine State.fst_only (by assumption) ?_) | split | dsimp only | (intro _; split <;> rfl) | (intro _; (repeat' split) <;> rfl)

theorem State.setDir_only (hl : [Sect.home] ⊆ sl) (h : State.Only sl s0 s) (e : DirEntry) :
    State.Only sl s0 (State.setDir s e) := by
  unfold State.setDir
  try dsimp only
  repeat' with_reducible first | assumption | apply State.mapHome_only (Sect.sub rfl hl) | apply State.ite_only | (intro _ _ _ _) | (intro _ _ _) | (intro _; rfl) | (intro _; apply map_map_same; intro _; rfl) | (intro _; apply map_mapIf; intro _; rfl) | (refine State.fst_only (by assumption) ?_) | split | dsimp only | (intro _; split <;> rfl) | (intro _; (repeat' split) <;> rfl)

theorem State.useDir_only (hl : [Sect.home] ⊆ sl) (h : State.Only sl s0 s) (e : DirEntry) :
    State.Only sl s0 (State.useDir s e) := by
  unfold State.useDir
  try dsimp only
  repeat' with_reducible first | assumption | apply State.mapHome_only (Sect.sub rfl hl) | apply State.ite_only | (intro _ _ _ _) | (intro _ _ _) | (intro _; rfl) | (intro _; apply map_map_same; intro _; rfl) | (intro _; apply map_mapIf; intro _; rfl) | (refine State.fst_only (by assumption) ?_) | split | dsimp only | (intro _; split <;> rfl) | (intro _; (repeat' split) <;> rfl)

theorem State.dirResolve_only (hl : [Sect.poison, Sect.home] ⊆ sl) (h : State.Only sl s0 s) (line : Nat) :
    State.Only sl s0 (State.dirResolve s line) := by
  unfold State.dirResolve
  try dsimp only
  repeat' with_reducible first | assumption | apply State.setPoison_only (Sect.sub rfl hl) | apply State.setDir_only (Sect.sub rfl hl) | apply State.ite_only | (intro _ _ _ _) | (intro _ _ _) | (intro _; rfl) | (intro _; apply map_map_same; intro _; rfl) | (intro _; apply map_mapIf; intro _; rfl) | (refine State.fst_only (by assumption) ?_) | split | dsimp only | (intro _; split <;> rfl) | (intro _; (repeat' split) <;> rfl)

theorem State.snoop_only (hl : [Sect.out] ⊆ sl) (h : State.Only sl s0 s) (cp line : Nat) (invalidate : Bool) :
    State.Only sl s0 (State.snoop s cp line invalidate) := by
  unfold State.snoop
  try dsimp only
  repeat' with_reducible first | assumption | apply State.emit_only (Sect.sub rfl hl) | apply State.ite_only | (intro _ _ _ _) | (intro _ _ _) | (intro _; rfl) | (intro _; apply map_map_same; intro _; rfl) | (intro _; apply map_mapIf; intro _; rfl) | (refine State.fst_only (by assumption) ?_) | split | dsimp only | (intro _; split <;> rfl) | (intro _; (repeat' split) <;> rfl)

theorem State.recallTo_only (hl : [Sect.out, Sect.od, Sect.sw, Sect.dlv, Sect.mgt] ⊆ sl) (h : State.Only sl s0 s) (line hosts pid : Nat) (invalidate : Bool) :
    State.Only sl s0 (State.recallTo s line hosts pid invalidate) := by
  unfold State.recallTo
  try dsimp only
  repeat' with_reducible first | assumption | apply State.each_only | apply State.snoop_only (Sect.sub rfl hl) | apply State.sendSeq_only (Sect.sub rfl hl) | apply State.ite_only | (intro _ _ _ _) | (intro _ _ _) | (intro _; rfl) | (intro _; apply map_map_same; intro _; rfl) | (intro _; apply map_mapIf; intro _; rfl) | (refine State.fst_only (by assumption) ?_) | split | dsimp only | (intro _; split <;> rfl) | (intro _; (repeat' split) <;> rfl)

theorem State.startRecall_only (hl : [Sect.out, Sect.od, Sect.home, Sect.sw, Sect.dlv, Sect.mgt] ⊆ sl) (h : State.Only sl s0 s) (line hosts pid : Nat) (invalidate : Bool) :
    State.Only sl s0 (State.startRecall s line hosts pid invalidate) := by
  unfold State.startRecall
  try dsimp only
  repeat' with_reducible first | assumption | apply State.mapHome_only (Sect.sub rfl hl) | apply State.recallTo_only (Sect.sub rfl hl) | apply State.ite_only | (intro _ _ _ _) | (intro _ _ _) | (intro _; rfl) | (intro _; apply map_map_same; intro _; rfl) | (intro _; apply map_mapIf; intro _; rfl) | (refine State.fst_only (by assumption) ?_) | split | dsimp only | (intro _; split <;> rfl) | (intro _; (repeat' split) <;> rfl)

theorem State.exportSend_only (hl : [Sect.out, Sect.home, Sect.lnk] ⊆ sl) (h : State.Only sl s0 s) (h : HReq) (ep n off : Nat) :
    State.Only sl s0 (State.exportSend s h ep n off) := by
  unfold State.exportSend
  try dsimp only
  repeat' with_reducible first | assumption | apply State.fresh_only (Sect.sub rfl hl) | apply State.mapHome_only (Sect.sub rfl hl) | apply State.capSend_only (Sect.sub rfl hl) | apply State.ite_only | (intro _ _ _ _) | (intro _ _ _) | (intro _; rfl) | (intro _; apply map_map_same; intro _; rfl) | (intro _; apply map_mapIf; intro _; rfl) | (refine State.fst_only (by assumption) ?_) | split | dsimp only | (intro _; split <;> rfl) | (intro _; (repeat' split) <;> rfl)

theorem State.performWrite_only (hl : [Sect.od, Sect.mem, Sect.poison, Sect.written, Sect.home] ⊆ sl) (h : State.Only sl s0 s) (f : Frame) :
    State.Only sl s0 (State.performWrite s f) := by
  unfold State.performWrite
  try dsimp only
  repeat' with_reducible first | assumption | apply State.poke_only (Sect.sub rfl hl) | apply State.tierAccess_only (Sect.sub rfl hl) | apply State.ite_only | (intro _ _ _ _) | (intro _ _ _) | (intro _; rfl) | (intro _; apply map_map_same; intro _; rfl) | (intro _; apply map_mapIf; intro _; rfl) | (refine State.fst_only (by assumption) ?_) | split | dsimp only | (intro _; split <;> rfl) | (intro _; (repeat' split) <;> rfl)

theorem State.performAtomic_only (hl : [Sect.od, Sect.mem, Sect.poison, Sect.written, Sect.home] ⊆ sl) (h : State.Only sl s0 s) (f : Frame) :
    State.Only sl s0 (State.performAtomic s f) := by
  unfold State.performAtomic
  try dsimp only
  repeat' with_reducible first | assumption | apply State.store_only (Sect.sub rfl hl) | apply State.tierAccess_only (Sect.sub rfl hl) | apply State.ite_only | (intro _ _ _ _) | (intro _ _ _) | (intro _; rfl) | (intro _; apply map_map_same; intro _; rfl) | (intro _; apply map_mapIf; intro _; rfl) | (refine State.fst_only (by assumption) ?_) | split | dsimp only | (intro _; split <;> rfl) | (intro _; (repeat' split) <;> rfl)

theorem State.noteDegraded_only (hl : [Sect.od, Sect.home] ⊆ sl) (h : State.Only sl s0 s) (pid peer : Nat) :
    State.Only sl s0 (State.noteDegraded s pid peer) := by
  unfold State.noteDegraded
  try dsimp only
  repeat' with_reducible first | assumption | apply State.bump_only (Sect.sub rfl hl) | apply State.mapHome_only (Sect.sub rfl hl) | apply State.ite_only | (intro _ _ _ _) | (intro _ _ _) | (intro _; rfl) | (intro _; apply map_map_same; intro _; rfl) | (intro _; apply map_mapIf; intro _; rfl) | (refine State.fst_only (by assumption) ?_) | split | dsimp only | (intro _; split <;> rfl) | (intro _; (repeat' split) <;> rfl)

theorem State.mirrorSend_only (hl : [Sect.out, Sect.od, Sect.home, Sect.sw, Sect.dlv, Sect.mgt] ⊆ sl) (h : State.Only sl s0 s) (h : HReq) (old : Nat) :
    State.Only sl s0 (State.mirrorSend s h old) := by
  unfold State.mirrorSend
  try dsimp only
  repeat' with_reducible first | assumption | apply State.hold_only (Sect.sub rfl hl) | apply State.each_only | apply State.sendSeq_only (Sect.sub rfl hl) | apply State.ite_only | (intro _ _ _ _) | (intro _ _ _) | (intro _; rfl) | (intro _; apply map_map_same; intro _; rfl) | (intro _; apply map_mapIf; intro _; rfl) | (refine State.fst_only (by assumption) ?_) | split | dsimp only | (intro _; split <;> rfl) | (intro _; (repeat' split) <;> rfl)

theorem State.holdMoved_only (hl : [Sect.home] ⊆ sl) (h : State.Only sl s0 s) (h : HReq) :
    State.Only sl s0 (State.holdMoved s h) := by
  unfold State.holdMoved
  try dsimp only
  repeat' with_reducible first | assumption | apply State.hold_only (Sect.sub rfl hl) | apply State.ite_only | (intro _ _ _ _) | (intro _ _ _) | (intro _; rfl) | (intro _; apply map_map_same; intro _; rfl) | (intro _; apply map_mapIf; intro _; rfl) | (refine State.fst_only (by assumption) ?_) | split | dsimp only | (intro _; split <;> rfl) | (intro _; (repeat' split) <;> rfl)

theorem State.performAnswer_only (hl : [Sect.out, Sect.od, Sect.mem, Sect.poison, Sect.written, Sect.home, Sect.sw, Sect.dlv, Sect.lnk, Sect.mgt] ⊆ sl) (h : State.Only sl s0 s) (h : HReq) :
    State.Only sl s0 (State.performAnswer s h) := by
  unfold State.performAnswer
  try dsimp only
  repeat' with_reducible first | assumption | apply State.performAtomic_only (Sect.sub rfl hl) | apply State.homeAnswer_only (Sect.sub rfl hl) | apply State.performWrite_only (Sect.sub rfl hl) | apply State.holdMoved_only (Sect.sub rfl hl) | apply State.ite_only | (intro _ _ _ _) | (intro _ _ _) | (intro _; rfl) | (intro _; apply map_map_same; intro _; rfl) | (intro _; apply map_mapIf; intro _; rfl) | (refine State.fst_only (by assumption) ?_) | split | dsimp only | (intro _; split <;> rfl) | (intro _; (repeat' split) <;> rfl)

theorem State.commitWrite_only (hl : [Sect.out, Sect.od, Sect.mem, Sect.poison, Sect.written, Sect.home, Sect.sw, Sect.dlv, Sect.lnk, Sect.mgt] ⊆ sl) (h : State.Only sl s0 s) (h : HReq) :
    State.Only sl s0 (State.commitWrite s h) := by
  unfold State.commitWrite
  try dsimp only
  repeat' with_reducible first | assumption | apply State.noteDegraded_only (Sect.sub rfl hl) | apply State.performAnswer_only (Sect.sub rfl hl) | apply State.mirrorSend_only (Sect.sub rfl hl) | apply State.ite_only | (intro _ _ _ _) | (intro _ _ _) | (intro _; rfl) | (intro _; apply map_map_same; intro _; rfl) | (intro _; apply map_mapIf; intro _; rfl) | (refine State.fst_only (by assumption) ?_) | split | dsimp only | (intro _; split <;> rfl) | (intro _; (repeat' split) <;> rfl)

theorem State.ownerUpdateTo_only (hl : [Sect.out, Sect.od, Sect.sw, Sect.dlv, Sect.mgt] ⊆ sl) (h : State.Only sl s0 s) (d flag word : Nat) :
    State.Only sl s0 (State.ownerUpdateTo s d flag word) := by
  unfold State.ownerUpdateTo
  try dsimp only
  repeat' with_reducible first | assumption | apply State.sendSeq_only (Sect.sub rfl hl) | apply State.ite_only | (intro _ _ _ _) | (intro _ _ _) | (intro _; rfl) | (intro _; apply map_map_same; intro _; rfl) | (intro _; apply map_mapIf; intro _; rfl) | (refine State.fst_only (by assumption) ?_) | split | dsimp only | (intro _; split <;> rfl) | (intro _; (repeat' split) <;> rfl)

theorem State.casSettle_only (hl : [Sect.out, Sect.od, Sect.home, Sect.sw, Sect.dlv, Sect.lnk, Sect.mgt] ⊆ sl) (h : State.Only sl s0 s)  :
    State.Only sl s0 (State.casSettle s) := by
  unfold State.casSettle
  try dsimp only
  repeat' with_reducible first | assumption | apply State.mapHome_only (Sect.sub rfl hl) | apply State.each_only | apply State.homeAnswer_only (Sect.sub rfl hl) | apply State.ite_only | (intro _ _ _ _) | (intro _ _ _) | (intro _; rfl) | (intro _; apply map_map_same; intro _; rfl) | (intro _; apply map_mapIf; intro _; rfl) | (refine State.fst_only (by assumption) ?_) | split | dsimp only | (intro _; split <;> rfl) | (intro _; (repeat' split) <;> rfl)

theorem State.casAck_only (hl : [Sect.out, Sect.od, Sect.home, Sect.sw, Sect.dlv, Sect.lnk, Sect.mgt] ⊆ sl) (h : State.Only sl s0 s) (d : Nat) (flag : Option Nat) :
    State.Only sl s0 (State.casAck s d flag) := by
  unfold State.casAck
  try dsimp only
  repeat' with_reducible first | assumption | apply State.mapHome_only (Sect.sub rfl hl) | apply State.casSettle_only (Sect.sub rfl hl) | apply State.ite_only | (intro _ _ _ _) | (intro _ _ _) | (intro _; rfl) | (intro _; apply map_map_same; intro _; rfl) | (intro _; apply map_mapIf; intro _; rfl) | (refine State.fst_only (by assumption) ?_) | split | dsimp only | (intro _; split <;> rfl) | (intro _; (repeat' split) <;> rfl)

theorem State.performCasOwn_only (hl : [Sect.out, Sect.od, Sect.mem, Sect.poison, Sect.written, Sect.home, Sect.sw, Sect.dlv, Sect.lnk, Sect.mgt] ⊆ sl) (h : State.Only sl s0 s) (h : HReq) :
    State.Only sl s0 (State.performCasOwn s h) := by
  unfold State.performCasOwn
  try dsimp only
  repeat' with_reducible first | assumption | apply State.homeAnswer_only (Sect.sub rfl hl) | apply State.performAtomic_only (Sect.sub rfl hl) | apply State.each_only | apply State.ownerUpdateTo_only (Sect.sub rfl hl) | apply State.mapHome_only (Sect.sub rfl hl) | apply State.casSettle_only (Sect.sub rfl hl) | apply State.ownerNews_only (Sect.sub rfl hl) | apply State.ite_only | (intro _ _ _ _) | (intro _ _ _) | (intro _; rfl) | (intro _; apply map_map_same; intro _; rfl) | (intro _; apply map_mapIf; intro _; rfl) | (refine State.fst_only (by assumption) ?_) | split | dsimp only | (intro _; split <;> rfl) | (intro _; (repeat' split) <;> rfl)

theorem State.resolveLines_only (hl : [Sect.poison, Sect.home] ⊆ sl) (h : State.Only sl s0 s) (f : Frame) :
    State.Only sl s0 (State.resolveLines s f) := by
  unfold State.resolveLines
  try dsimp only
  repeat' with_reducible first | assumption | apply State.each_only | apply State.dirResolve_only (Sect.sub rfl hl) | apply State.ite_only | (intro _ _ _ _) | (intro _ _ _) | (intro _; rfl) | (intro _; apply map_map_same; intro _; rfl) | (intro _; apply map_mapIf; intro _; rfl) | (refine State.fst_only (by assumption) ?_) | split | dsimp only | (intro _; split <;> rfl) | (intro _; (repeat' split) <;> rfl)

theorem State.waitRecalls_only (hl : [Sect.out, Sect.od, Sect.home, Sect.sw, Sect.dlv, Sect.mgt] ⊆ sl) (h : State.Only sl s0 s) (h : HReq) (rs : List (Nat × Nat × Bool)) :
    State.Only sl s0 (State.waitRecalls s h rs) := by
  unfold State.waitRecalls
  try dsimp only
  repeat' with_reducible first | assumption | apply State.each_only | apply State.startRecall_only (Sect.sub rfl hl) | apply State.hold_only (Sect.sub rfl hl) | apply State.ite_only | (intro _ _ _ _) | (intro _ _ _) | (intro _; rfl) | (intro _; apply map_map_same; intro _; rfl) | (intro _; apply map_mapIf; intro _; rfl) | (refine State.fst_only (by assumption) ?_) | split | dsimp only | (intro _; split <;> rfl) | (intro _; (repeat' split) <;> rfl)

theorem State.writeChecked_only (hl : [Sect.out, Sect.od, Sect.mem, Sect.poison, Sect.written, Sect.home, Sect.sw, Sect.dlv, Sect.lnk, Sect.mgt] ⊆ sl) (h : State.Only sl s0 s) (h : HReq) :
    State.Only sl s0 (State.writeChecked s h) := by
  unfold State.writeChecked
  try dsimp only
  repeat' with_reducible first | assumption | apply State.setCp_only (Sect.sub rfl hl) | apply State.homeAnswer_only (Sect.sub rfl hl) | apply State.resolveLines_only (Sect.sub rfl hl) | apply State.waitRecalls_only (Sect.sub rfl hl) | apply State.exportSend_only (Sect.sub rfl hl) | apply State.performCasOwn_only (Sect.sub rfl hl) | apply State.commitWrite_only (Sect.sub rfl hl) | apply State.holdMoved_only (Sect.sub rfl hl) | apply State.ite_only | (intro _ _ _ _) | (intro _ _ _) | (intro _; rfl) | (intro _; apply map_map_same; intro _; rfl) | (intro _; apply map_mapIf; intro _; rfl) | (refine State.fst_only (by assumption) ?_) | split | dsimp only | (intro _; split <;> rfl) | (intro _; (repeat' split) <;> rfl)

theorem State.ownerCheck_only (hl : [Sect.out, Sect.od, Sect.mem, Sect.poison, Sect.written, Sect.home, Sect.sw, Sect.dlv, Sect.lnk, Sect.mgt] ⊆ sl) (h : State.Only sl s0 s) (h : HReq) :
    State.Only sl s0 (State.ownerCheck s h) := by
  unfold State.ownerCheck
  try dsimp only
  repeat' with_reducible first | assumption | apply State.ownerRead_only (Sect.sub rfl hl) | apply State.hold_only (Sect.sub rfl hl) | apply State.ownerTouch_only (Sect.sub rfl hl) | apply State.writeChecked_only (Sect.sub rfl hl) | apply State.bump_only (Sect.sub rfl hl) | apply State.homeAnswer_only (Sect.sub rfl hl) | apply State.ite_only | (intro _ _ _ _) | (intro _ _ _) | (intro _; rfl) | (intro _; apply map_map_same; intro _; rfl) | (intro _; apply map_mapIf; intro _; rfl) | (refine State.fst_only (by assumption) ?_) | split | dsimp only | (intro _; split <;> rfl) | (intro _; (repeat' split) <;> rfl)

theorem State.homeWrite_only (hl : [Sect.out, Sect.od, Sect.mem, Sect.poison, Sect.written, Sect.home, Sect.sw, Sect.dlv, Sect.lnk, Sect.sec, Sect.mgt] ⊆ sl) (h : State.Only sl s0 s) (h : HReq) :
    State.Only sl s0 (State.homeWrite s h) := by
  unfold State.homeWrite
  try dsimp only
  repeat' with_reducible first | assumption | apply State.homeRefuse_only (Sect.sub rfl hl) | apply State.ownerCheck_only (Sect.sub rfl hl) | apply State.writeChecked_only (Sect.sub rfl hl) | apply State.ite_only | (intro _ _ _ _) | (intro _ _ _) | (intro _; rfl) | (intro _; apply map_map_same; intro _; rfl) | (intro _; apply map_mapIf; intro _; rfl) | (refine State.fst_only (by assumption) ?_) | split | dsimp only | (intro _; split <;> rfl) | (intro _; (repeat' split) <;> rfl)

theorem State.homeRead_only (hl : [Sect.out, Sect.od, Sect.poison, Sect.home, Sect.sw, Sect.dlv, Sect.lnk, Sect.sec, Sect.mgt] ⊆ sl) (h : State.Only sl s0 s) (h : HReq) (uncorrectable : Bool) :
    State.Only sl s0 (State.homeRead s h uncorrectable) := by
  unfold State.homeRead
  try dsimp only
  repeat' with_reducible first | assumption | apply State.homeRefuse_only (Sect.sub rfl hl) | apply State.setCp_only (Sect.sub rfl hl) | apply State.homeAnswer_only (Sect.sub rfl hl) | apply State.resolveLines_only (Sect.sub rfl hl) | apply State.waitRecalls_only (Sect.sub rfl hl) | apply State.exportSend_only (Sect.sub rfl hl) | apply State.setPoison_only (Sect.sub rfl hl) | apply State.logFault_only (Sect.sub rfl hl) | apply State.tierAccess_only (Sect.sub rfl hl) | apply State.ite_only | (intro _ _ _ _) | (intro _ _ _) | (intro _; rfl) | (intro _; apply map_map_same; intro _; rfl) | (intro _; apply map_mapIf; intro _; rfl) | (refine State.fst_only (by assumption) ?_) | split | dsimp only | (intro _; split <;> rfl) | (intro _; (repeat' split) <;> rfl)

end Sys2Proof.Machine
end

