-- ==== Sys2Proof/Laws/OnlyIssue.lean ====
section
/-! SUPPORT. `State.Only` for every operation and meaning of Machine/Issue.lean: the sections that it may change. -/

namespace Sys2Proof.Machine

open Sys2Proof

set_option Elab.async false

set_option linter.unreachableTactic false
set_option linter.unusedTactic false

variable {s0 s : State} {sl : List Sect}

theorem State.weirTake_only (hl : [Sect.req] ⊆ sl) (h : State.Only sl s0 s) (t : Tx) (p : Part) :
    State.Only sl s0 (State.weirTake s t p) := by
  unfold State.weirTake
  try dsimp only
  repeat' with_reducible first | assumption | apply State.setAgent_only (Sect.sub rfl hl) | apply State.setTx_only (Sect.sub rfl hl) | apply State.ite_only | (intro _ _ _ _) | (intro _ _ _) | (intro _; rfl) | (intro _; apply map_map_same; intro _; rfl) | (intro _; apply map_mapIf; intro _; rfl) | (refine State.fst_only (by assumption) ?_) | split | dsimp only | (intro _; split <;> rfl) | (intro _; (repeat' split) <;> rfl)

theorem State.windowNote_only (hl : [Sect.req] ⊆ sl) (h : State.Only sl s0 s) (a : Agent) (home li : Nat) :
    State.Only sl s0 (State.windowNote s a home li) := by
  unfold State.windowNote
  try dsimp only
  repeat' with_reducible first | assumption | apply State.setAgent_only (Sect.sub rfl hl) | apply State.ite_only | (intro _ _ _ _) | (intro _ _ _) | (intro _; rfl) | (intro _; apply map_map_same; intro _; rfl) | (intro _; apply map_mapIf; intro _; rfl) | (refine State.fst_only (by assumption) ?_) | split | dsimp only | (intro _; split <;> rfl) | (intro _; (repeat' split) <;> rfl)

theorem State.markIssued_only (hl : [Sect.req] ⊆ sl) (h : State.Only sl s0 s) (tid pi : Nat) (merged : Option (Nat × Nat)) (sent : Nat) :
    State.Only sl s0 (State.markIssued s tid pi merged sent) := by
  unfold State.markIssued
  try dsimp only
  repeat' with_reducible first | assumption | apply State.setTx_only (Sect.sub rfl hl) | apply State.ite_only | (intro _ _ _ _) | (intro _ _ _) | (intro _; rfl) | (intro _; apply map_map_same; intro _; rfl) | (intro _; apply map_mapIf; intro _; rfl) | (refine State.fst_only (by assumption) ?_) | split | dsimp only | (intro _; split <;> rfl) | (intro _; (repeat' split) <;> rfl)

theorem State.noteView_only (hl : [Sect.lnk] ⊆ sl) (h : State.Only sl s0 s) (t : Tx) (p : Part) :
    State.Only sl s0 (State.noteView s t p) := by
  unfold State.noteView
  try dsimp only
  repeat' with_reducible first | assumption | apply State.setCp_only (Sect.sub rfl hl) | apply State.ite_only | (intro _ _ _ _) | (intro _ _ _) | (intro _; rfl) | (intro _; apply map_map_same; intro _; rfl) | (intro _; apply map_mapIf; intro _; rfl) | (refine State.fst_only (by assumption) ?_) | split | dsimp only | (intro _; split <;> rfl) | (intro _; (repeat' split) <;> rfl)

theorem State.toHome_only (hl : [Sect.out, Sect.od, Sect.xl, Sect.req, Sect.home, Sect.ep, Sect.sw, Sect.dlv, Sect.lnk, Sect.mgt] ⊆ sl) (h : State.Only sl s0 s) (t : Tx) (pi : Nat) (p : Part) :
    State.Only sl s0 (State.toHome s t pi p) := by
  unfold State.toHome
  try dsimp only
  repeat' with_reducible first | assumption | apply State.setCp_only (Sect.sub rfl hl) | apply State.partDone_only (Sect.sub rfl hl) | apply State.sendSeq_only (Sect.sub rfl hl) | apply State.noteView_only (Sect.sub rfl hl) | apply State.sourceFrame_only (Sect.sub rfl hl) | apply State.ite_only | (intro _ _ _ _) | (intro _ _ _) | (intro _; rfl) | (intro _; apply map_map_same; intro _; rfl) | (intro _; apply map_mapIf; intro _; rfl) | (refine State.fst_only (by assumption) ?_) | split | dsimp only | (intro _; split <;> rfl) | (intro _; (repeat' split) <;> rfl)

theorem State.setHeld_only (hl : [Sect.req] ⊆ sl) (h : State.Only sl s0 s) (l : ALine) :
    State.Only sl s0 (State.setHeld s l) := by
  unfold State.setHeld
  try dsimp only
  repeat' with_reducible first | assumption | apply State.mapReq_only (Sect.sub rfl hl) | apply State.ite_only | (intro _ _ _ _) | (intro _ _ _) | (intro _; rfl) | (intro _; apply map_map_same; intro _; rfl) | (intro _; apply map_mapIf; intro _; rfl) | (refine State.fst_only (by assumption) ?_) | split | dsimp only | (intro _; split <;> rfl) | (intro _; (repeat' split) <;> rfl)

theorem State.ownTx_only (hl : [Sect.req] ⊆ sl) (h : State.Only sl s0 s) (ep pid : Nat) (acc : Acc) (parts : List Part)
    (data : List Byte) : State.Only sl s0 (State.ownTx s ep pid acc parts data).1 :=
  h.step rfl rfl rfl rfl rfl fun x hx => by
    cases x <;> first | exact rfl | exact ⟨rfl, rfl⟩ | exact ⟨rfl, rfl, rfl⟩ | exact absurd (hl (by simp)) hx

theorem State.writeBack_only (hl : [Sect.out, Sect.od, Sect.xl, Sect.req, Sect.home, Sect.ep, Sect.sw, Sect.dlv, Sect.lnk, Sect.mgt] ⊆ sl) (h : State.Only sl s0 s) (l : ALine) :
    State.Only sl s0 (State.writeBack s l).1 := by
  unfold State.writeBack
  try dsimp only
  repeat' with_reducible first | assumption | apply State.foldlPair_only | apply State.foldl_only | apply State.mapReq_only (Sect.sub rfl hl) | apply State.ownTx_only (Sect.sub rfl hl) | apply State.store_only (Sect.sub rfl hl) | apply State.markIssued_only (Sect.sub rfl hl) | apply State.toHome_only (Sect.sub rfl hl) | apply State.ite_only | (intro _ _ _ _) | (intro _ _ _) | (intro _; rfl) | (intro _; apply map_map_same; intro _; rfl) | (intro _; apply map_mapIf; intro _; rfl) | (refine State.fst_only (by assumption) ?_) | split | dsimp only | (intro _; split <;> rfl) | (intro _; (repeat' split) <;> rfl)

theorem State.writeBackAll_only (hl : [Sect.out, Sect.od, Sect.xl, Sect.req, Sect.home, Sect.ep, Sect.sw, Sect.dlv, Sect.lnk, Sect.mgt] ⊆ sl) (h : State.Only sl s0 s) (p : ALine → Bool) :
    State.Only sl s0 (State.writeBackAll s p).1 := by
  unfold State.writeBackAll
  try dsimp only
  repeat' with_reducible first | assumption | apply State.foldlPair_only | apply State.foldl_only | apply State.writeBack_only (Sect.sub rfl hl) | apply State.ite_only | (intro _ _ _ _) | (intro _ _ _) | (intro _; rfl) | (intro _; apply map_map_same; intro _; rfl) | (intro _; apply map_mapIf; intro _; rfl) | (refine State.fst_only (by assumption) ?_) | split | dsimp only | (intro _; split <;> rfl) | (intro _; (repeat' split) <;> rfl)

theorem State.addWaits_only (hl : [Sect.req] ⊆ sl) (h : State.Only sl s0 s) (tid : Nat) (ids : List Nat) :
    State.Only sl s0 (State.addWaits s tid ids) := by
  unfold State.addWaits
  try dsimp only
  repeat' with_reducible first | assumption | apply State.setTx_only (Sect.sub rfl hl) | apply State.ite_only | (intro _ _ _ _) | (intro _ _ _) | (intro _; rfl) | (intro _; apply map_map_same; intro _; rfl) | (intro _; apply map_mapIf; intro _; rfl) | (refine State.fst_only (by assumption) ?_) | split | dsimp only | (intro _; split <;> rfl) | (intro _; (repeat' split) <;> rfl)

theorem State.performHeld_only (hl : [Sect.out, Sect.od, Sect.xl, Sect.req, Sect.ep, Sect.lnk, Sect.mgt] ⊆ sl) (h : State.Only sl s0 s) (l : ALine) (t : Tx) (pi : Nat) (p : Part) :
    State.Only sl s0 (State.performHeld s l t pi p) := by
  unfold State.performHeld
  try dsimp only
  repeat' with_reducible first | assumption | apply State.setHeld_only (Sect.sub rfl hl) | apply State.partDone_only (Sect.sub rfl hl) | apply State.ite_only | (intro _ _ _ _) | (intro _ _ _) | (intro _; rfl) | (intro _; apply map_map_same; intro _; rfl) | (intro _; apply map_mapIf; intro _; rfl) | (refine State.fst_only (by assumption) ?_) | split | dsimp only | (intro _; split <;> rfl) | (intro _; (repeat' split) <;> rfl)

theorem State.startFetch_only (hl : [Sect.out, Sect.od, Sect.xl, Sect.req, Sect.home, Sect.ep, Sect.sw, Sect.dlv, Sect.lnk, Sect.mgt] ⊆ sl) (h : State.Only sl s0 s) (ep : Nat) (t : Tx) (pi : Nat) (p : Part) :
    State.Only sl s0 (State.startFetch s ep t pi p) := by
  unfold State.startFetch
  try dsimp only
  repeat' with_reducible first | assumption | apply State.mapReq_only (Sect.sub rfl hl) | apply State.markIssued_only (Sect.sub rfl hl) | apply State.reachDrop_only (Sect.sub rfl hl) | apply State.ownTx_only (Sect.sub rfl hl) | apply State.toHome_only (Sect.sub rfl hl) | apply State.ite_only | (intro _ _ _ _) | (intro _ _ _) | (intro _; rfl) | (intro _; apply map_map_same; intro _; rfl) | (intro _; apply map_mapIf; intro _; rfl) | (refine State.fst_only (by assumption) ?_) | split | dsimp only | (intro _; split <;> rfl) | (intro _; (repeat' split) <;> rfl)

theorem State.issueHeld_only (hl : [Sect.out, Sect.od, Sect.xl, Sect.req, Sect.home, Sect.ep, Sect.sw, Sect.dlv, Sect.lnk, Sect.mgt] ⊆ sl) (h : State.Only sl s0 s) (t : Tx) (pi : Nat) (p : Part) :
    State.Only sl s0 (State.issueHeld s t pi p) := by
  unfold State.issueHeld
  try dsimp only
  repeat' with_reducible first | assumption | apply State.setHeld_only (Sect.sub rfl hl) | apply State.markIssued_only (Sect.sub rfl hl) | apply State.epEv_only (Sect.sub rfl hl) | apply State.performHeld_only (Sect.sub rfl hl) | apply State.startFetch_only (Sect.sub rfl hl) | apply State.draw_only (Sect.sub rfl hl) | apply State.writeBack_only (Sect.sub rfl hl) | apply State.ite_only | (intro _ _ _ _) | (intro _ _ _) | (intro _; rfl) | (intro _; apply map_map_same; intro _; rfl) | (intro _; apply map_mapIf; intro _; rfl) | (refine State.fst_only (by assumption) ?_) | split | dsimp only | (intro _; split <;> rfl) | (intro _; (repeat' split) <;> rfl)

theorem State.fetchDone_only (hl : [Sect.out, Sect.od, Sect.xl, Sect.req, Sect.ep, Sect.lnk, Sect.mgt] ⊆ sl) (h : State.Only sl s0 s) (line st : Nat) (data : List Byte) :
    State.Only sl s0 (State.fetchDone s line st data) := by
  unfold State.fetchDone
  try dsimp only
  repeat' with_reducible first | assumption | apply State.setHeld_only (Sect.sub rfl hl) | apply State.each_only | apply State.performHeld_only (Sect.sub rfl hl) | apply State.mapReq_only (Sect.sub rfl hl) | apply State.partDone_only (Sect.sub rfl hl) | apply State.ite_only | (intro _ _ _ _) | (intro _ _ _) | (intro _; rfl) | (intro _; apply map_map_same; intro _; rfl) | (intro _; apply map_mapIf; intro _; rfl) | (refine State.fst_only (by assumption) ?_) | split | dsimp only | (intro _; split <;> rfl) | (intro _; (repeat' split) <;> rfl)

theorem State.startFills_only (hl : [Sect.xl] ⊆ sl) (h : State.Only sl s0 s) (t : Tx) (pi : Nat) (p : Part) :
    State.Only sl s0 (State.startFills s t pi p) := by
  unfold State.startFills
  try dsimp only
  repeat' with_reducible first | assumption | apply State.mapXl_only (Sect.sub rfl hl) | apply State.ite_only | (intro _ _ _ _) | (intro _ _ _) | (intro _; rfl) | (intro _; apply map_map_same; intro _; rfl) | (intro _; apply map_mapIf; intro _; rfl) | (refine State.fst_only (by assumption) ?_) | split | dsimp only | (intro _; split <;> rfl) | (intro _; (repeat' split) <;> rfl)

theorem State.issueOut_only (hl : [Sect.out, Sect.od, Sect.xl, Sect.req, Sect.home, Sect.ep, Sect.sw, Sect.dlv, Sect.lnk, Sect.mgt] ⊆ sl) (h : State.Only sl s0 s) (t : Tx) (pi : Nat) (p : Part) (fills : Bool) :
    State.Only sl s0 (State.issueOut s t pi p fills) := by
  unfold State.issueOut
  try dsimp only
  repeat' with_reducible first | assumption | apply State.weirTake_only (Sect.sub rfl hl) | apply State.markIssued_only (Sect.sub rfl hl) | apply State.reachDropLines_only (Sect.sub rfl hl) | apply State.startFills_only (Sect.sub rfl hl) | apply State.toHome_only (Sect.sub rfl hl) | apply State.ite_only | (intro _ _ _ _) | (intro _ _ _) | (intro _; rfl) | (intro _; apply map_map_same; intro _; rfl) | (intro _; apply map_mapIf; intro _; rfl) | (refine State.fst_only (by assumption) ?_) | split | dsimp only | (intro _; split <;> rfl) | (intro _; (repeat' split) <;> rfl)

theorem State.issueFree_only (hl : [Sect.out, Sect.od, Sect.xl, Sect.req, Sect.home, Sect.ep, Sect.sw, Sect.dlv, Sect.lnk, Sect.mgt] ⊆ sl) (h : State.Only sl s0 s) (t : Tx) (pi : Nat) (p : Part) :
    State.Only sl s0 (State.issueFree s t pi p) := by
  unfold State.issueFree
  try dsimp only
  repeat' with_reducible first | assumption | apply State.issueOut_only (Sect.sub rfl hl) | apply State.epEv_only (Sect.sub rfl hl) | apply State.partDone_only (Sect.sub rfl hl) | apply State.markIssued_only (Sect.sub rfl hl) | apply State.ite_only | (intro _ _ _ _) | (intro _ _ _) | (intro _; rfl) | (intro _; apply map_map_same; intro _; rfl) | (intro _; apply map_mapIf; intro _; rfl) | (refine State.fst_only (by assumption) ?_) | split | dsimp only | (intro _; split <;> rfl) | (intro _; (repeat' split) <;> rfl)

theorem State.issuePart_only (hl : [Sect.out, Sect.od, Sect.xl, Sect.req, Sect.home, Sect.ep, Sect.sw, Sect.dlv, Sect.lnk, Sect.mgt] ⊆ sl) (h : State.Only sl s0 s) (t : Tx) (pi : Nat) (p : Part) :
    State.Only sl s0 (State.issuePart s t pi p) := by
  unfold State.issuePart
  try dsimp only
  repeat' with_reducible first | assumption | apply State.issueHeld_only (Sect.sub rfl hl) | apply State.epEv_only (Sect.sub rfl hl) | apply State.writeBack_only (Sect.sub rfl hl) | apply State.addWaits_only (Sect.sub rfl hl) | apply State.issueFree_only (Sect.sub rfl hl) | apply State.each_only | apply State.ite_only | (intro _ _ _ _) | (intro _ _ _) | (intro _; rfl) | (intro _; apply map_map_same; intro _; rfl) | (intro _; apply map_mapIf; intro _; rfl) | (refine State.fst_only (by assumption) ?_) | split | dsimp only | (intro _; split <;> rfl) | (intro _; (repeat' split) <;> rfl)

theorem State.tryIssue_only (hl : [Sect.out, Sect.od, Sect.xl, Sect.req, Sect.home, Sect.ep, Sect.sw, Sect.dlv, Sect.lnk, Sect.mgt] ⊆ sl) (h : State.Only sl s0 s) (tid pi : Nat) :
    State.Only sl s0 (State.tryIssue s tid pi) := by
  unfold State.tryIssue
  try dsimp only
  repeat' with_reducible first | assumption | apply State.issuePart_only (Sect.sub rfl hl) | apply State.ite_only | (intro _ _ _ _) | (intro _ _ _) | (intro _; rfl) | (intro _; apply map_map_same; intro _; rfl) | (intro _; apply map_mapIf; intro _; rfl) | (refine State.fst_only (by assumption) ?_) | split | dsimp only | (intro _; split <;> rfl) | (intro _; (repeat' split) <;> rfl)

theorem State.endFills_only (hl : [Sect.out, Sect.od, Sect.xl, Sect.req, Sect.ep, Sect.lnk, Sect.mgt] ⊆ sl) (h : State.Only sl s0 s) (tid pi st : Nat) (p : Part) (lines : List Byte) :
    State.Only sl s0 (State.endFills s tid pi st p lines) := by
  unfold State.endFills
  try dsimp only
  repeat' with_reducible first | assumption | apply State.mapXl_only (Sect.sub rfl hl) | apply State.each_only | apply State.reachPut_only (Sect.sub rfl hl) | apply State.partDone_only (Sect.sub rfl hl) | apply State.ite_only | (intro _ _ _ _) | (intro _ _ _) | (intro _; rfl) | (intro _; apply map_map_same; intro _; rfl) | (intro _; apply map_mapIf; intro _; rfl) | (refine State.fst_only (by assumption) ?_) | split | dsimp only | (intro _; split <;> rfl) | (intro _; (repeat' split) <;> rfl)

theorem State.respond_only (hl : [Sect.out, Sect.od, Sect.xl, Sect.req, Sect.ep, Sect.lnk, Sect.mgt] ⊆ sl) (h : State.Only sl s0 s) (tid pi st li : Nat) (data : List Byte) (tmo : Bool) :
    State.Only sl s0 (State.respond s tid pi st li data tmo) := by
  unfold State.respond
  try dsimp only
  repeat' with_reducible first | assumption | apply State.epEv_only (Sect.sub rfl hl) | apply State.windowNote_only (Sect.sub rfl hl) | apply State.endFills_only (Sect.sub rfl hl) | apply State.partDone_only (Sect.sub rfl hl) | apply State.fetchDone_only (Sect.sub rfl hl) | apply State.ite_only | (intro _ _ _ _) | (intro _ _ _) | (intro _; rfl) | (intro _; apply map_map_same; intro _; rfl) | (intro _; apply map_mapIf; intro _; rfl) | (refine State.fst_only (by assumption) ?_) | split | dsimp only | (intro _; split <;> rfl) | (intro _; (repeat' split) <;> rfl)

end Sys2Proof.Machine
end

