-- ==== Sys2Proof/Laws/OnlyFlowOps.lean ====
section
/-! SUPPORT. `State.Only` for every operation and meaning of Machine/FlowOps.lean: the sections that it may change. -/

namespace Sys2Proof.Machine

open Sys2Proof

set_option Elab.async false

set_option linter.unreachableTactic false
set_option linter.unusedTactic false

variable {s0 s : State} {sl : List Sect}

theorem State.setFlow_only (hl : [Sect.stn] ⊆ sl) (h : State.Only sl s0 s) (pid flow : Nat) (g : Flow → Flow) :
    State.Only sl s0 (State.setFlow s pid flow g) := by
  unfold State.setFlow
  try dsimp only
  repeat' with_reducible first | assumption | apply State.mapStn_only (Sect.sub rfl hl) | apply State.ite_only | (intro _ _ _ _) | (intro _ _ _) | (intro _; rfl) | (intro _; apply map_map_same; intro _; rfl) | (intro _; apply map_mapIf; intro _; rfl) | (refine State.fst_only (by assumption) ?_) | split | dsimp only | (intro _; split <;> rfl) | (intro _; (repeat' split) <;> rfl)

theorem State.setInst_only (hl : [Sect.stn] ⊆ sl) (h : State.Only sl s0 s) (who : InstRef) (g : Inst → Inst) :
    State.Only sl s0 (State.setInst s who g) := by
  unfold State.setInst
  try dsimp only
  repeat' with_reducible first | assumption | apply State.mapStn_only (Sect.sub rfl hl) | apply State.ite_only | (intro _ _ _ _) | (intro _ _ _) | (intro _; rfl) | (intro _; apply map_map_same; intro _; rfl) | (intro _; apply map_mapIf; intro _; rfl) | (refine State.fst_only (by assumption) ?_) | split | dsimp only | (intro _; split <;> rfl) | (intro _; (repeat' split) <;> rfl)

theorem State.setStrm_only (hl : [Sect.stn] ⊆ sl) (h : State.Only sl s0 s) (pid flow sid : Nat) (g : Strm → Strm) :
    State.Only sl s0 (State.setStrm s pid flow sid g) := by
  unfold State.setStrm
  try dsimp only
  repeat' with_reducible first | assumption | apply State.mapStn_only (Sect.sub rfl hl) | apply State.ite_only | (intro _ _ _ _) | (intro _ _ _) | (intro _; rfl) | (intro _; apply map_map_same; intro _; rfl) | (intro _; apply map_mapIf; intro _; rfl) | (refine State.fst_only (by assumption) ?_) | split | dsimp only | (intro _; split <;> rfl) | (intro _; (repeat' split) <;> rfl)

theorem State.setCons_only (hl : [Sect.stn] ⊆ sl) (h : State.Only sl s0 s) (pid flow sid ci : Nat) (g : Cons → Cons) :
    State.Only sl s0 (State.setCons s pid flow sid ci g) := by
  unfold State.setCons
  try dsimp only
  repeat' with_reducible first | assumption | apply State.setStrm_only (Sect.sub rfl hl) | apply State.ite_only | (intro _ _ _ _) | (intro _ _ _) | (intro _; rfl) | (intro _; apply map_map_same; intro _; rfl) | (intro _; apply map_mapIf; intro _; rfl) | (refine State.fst_only (by assumption) ?_) | split | dsimp only | (intro _; split <;> rfl) | (intro _; (repeat' split) <;> rfl)

theorem State.noteFree_only (hl : [Sect.od] ⊆ sl) (h : State.Only sl s0 s)  :
    State.Only sl s0 (State.noteFree s) := by
  unfold State.noteFree
  try dsimp only
  repeat' with_reducible first | assumption | apply State.wr_only (Sect.sub rfl hl) | apply State.ite_only | (intro _ _ _ _) | (intro _ _ _) | (intro _; rfl) | (intro _; apply map_map_same; intro _; rfl) | (intro _; apply map_mapIf; intro _; rfl) | (refine State.fst_only (by assumption) ?_) | split | dsimp only | (intro _; split <;> rfl) | (intro _; (repeat' split) <;> rfl)

theorem State.tbufError_only (hl : [Sect.od, Sect.mgt] ⊆ sl) (h : State.Only sl s0 s) (b : Nat) :
    State.Only sl s0 (State.tbufError s b) := by
  unfold State.tbufError
  try dsimp only
  repeat' with_reducible first | assumption | apply State.bump_only (Sect.sub rfl hl) | apply State.logFault_only (Sect.sub rfl hl) | apply State.ite_only | (intro _ _ _ _) | (intro _ _ _) | (intro _; rfl) | (intro _; apply map_map_same; intro _; rfl) | (intro _; apply map_mapIf; intro _; rfl) | (refine State.fst_only (by assumption) ?_) | split | dsimp only | (intro _; split <;> rfl) | (intro _; (repeat' split) <;> rfl)

theorem State.raiseBuf_only (hl : [Sect.od, Sect.sw] ⊆ sl) (h : State.Only sl s0 s) (b : Nat) :
    State.Only sl s0 (State.raiseBuf s b).1 := by
  unfold State.raiseBuf
  try dsimp only
  repeat' with_reducible first | assumption | apply State.bump_only (Sect.sub rfl hl) | apply State.mapSw_only (Sect.sub rfl hl) | apply State.ite_only | (intro _ _ _ _) | (intro _ _ _) | (intro _; rfl) | (intro _; apply map_map_same; intro _; rfl) | (intro _; apply map_mapIf; intro _; rfl) | (refine State.fst_only (by assumption) ?_) | split | dsimp only | (intro _; split <;> rfl) | (intro _; (repeat' split) <;> rfl)

theorem State.raiseBufs_only (hl : [Sect.od, Sect.sw] ⊆ sl) (h : State.Only sl s0 s) (bs : List Nat) :
    State.Only sl s0 (State.raiseBufs s bs).1 := by
  unfold State.raiseBufs
  try dsimp only
  repeat' with_reducible first | assumption | apply State.bump_only (Sect.sub rfl hl) | apply State.raiseBuf_only (Sect.sub rfl hl) | apply State.each_only | apply State.ite_only | (intro _ _ _ _) | (intro _ _ _) | (intro _; rfl) | (intro _; apply map_map_same; intro _; rfl) | (intro _; apply map_mapIf; intro _; rfl) | (refine State.fst_only (by assumption) ?_) | split | dsimp only | (intro _; split <;> rfl) | (intro _; (repeat' split) <;> rfl)

/-- The state with which buffers are taken has changed in the listed sections alone. -/
def Taken.Only (l : List Sect) (s0 : State) : Taken → Prop
  | .wait => True
  | .bad t => State.Only l s0 t
  | .got t _ => State.Only l s0 t

theorem State.takeBufs_only (hl : [Sect.od, Sect.sw, Sect.mgt] ⊆ sl) (h : State.Only sl s0 s) (pid n : Nat) :
    (s.takeBufs pid n).Only sl s0 := by
  unfold State.takeBufs
  dsimp only
  split
  · split
    · exact State.bump_only (Sect.sub rfl hl) (State.noteFree_only (Sect.sub rfl hl) (State.each_only
        (State.mapSw_only (Sect.sub rfl hl) h _) _ _ fun t b ht => State.raiseBuf_only (Sect.sub rfl hl) ht b)) _ _
    · exact State.noteFree_only (Sect.sub rfl hl) (State.each_only (State.mapSw_only (Sect.sub rfl hl) h _) _ _
        fun t b ht => State.tbufError_only (Sect.sub rfl hl) ht b)
  · trivial

theorem State.takeBufs_bad (hl : [Sect.od, Sect.sw, Sect.mgt] ⊆ sl) (h : State.Only sl s0 s) {t : State} {pid n : Nat}
    (e : s.takeBufs pid n = .bad t) : State.Only sl s0 t := by
  have := State.takeBufs_only hl h pid n
  rwa [e] at this

theorem State.takeBufs_got (hl : [Sect.od, Sect.sw, Sect.mgt] ⊆ sl) (h : State.Only sl s0 s) {t : State} {pid n : Nat}
    {bs : List Nat} (e : s.takeBufs pid n = .got t bs) : State.Only sl s0 t := by
  have := State.takeBufs_only hl h pid n
  rwa [e] at this

theorem State.dropBuf_only (hl : [Sect.od, Sect.sw, Sect.mgt] ⊆ sl) (h : State.Only sl s0 s) (b : Nat) :
    State.Only sl s0 (State.dropBuf s b) := by
  unfold State.dropBuf
  try dsimp only
  repeat' with_reducible first | assumption | apply State.tbufError_only (Sect.sub rfl hl) | apply State.mapSw_only (Sect.sub rfl hl) | apply State.noteFree_only (Sect.sub rfl hl) | apply State.ite_only | (intro _ _ _ _) | (intro _ _ _) | (intro _; rfl) | (intro _; apply map_map_same; intro _; rfl) | (intro _; apply map_mapIf; intro _; rfl) | (refine State.fst_only (by assumption) ?_) | split | dsimp only | (intro _; split <;> rfl) | (intro _; (repeat' split) <;> rfl)

theorem State.giveBufs_only (hl : [Sect.od, Sect.sw, Sect.mgt] ⊆ sl) (h : State.Only sl s0 s) (pid : Nat) (bs : List Nat) :
    State.Only sl s0 (State.giveBufs s pid bs) := by
  unfold State.giveBufs
  try dsimp only
  repeat' with_reducible first | assumption | apply State.each_only | apply State.dropBuf_only (Sect.sub rfl hl) | apply State.wr_only (Sect.sub rfl hl) | apply State.ite_only | (intro _ _ _ _) | (intro _ _ _) | (intro _; rfl) | (intro _; apply map_map_same; intro _; rfl) | (intro _; apply map_mapIf; intro _; rfl) | (refine State.fst_only (by assumption) ?_) | split | dsimp only | (intro _; split <;> rfl) | (intro _; (repeat' split) <;> rfl)

theorem State.coreOutSeen_only (hl : [Sect.out, Sect.od, Sect.sw, Sect.mgt] ⊆ sl) (h : State.Only sl s0 s) (id : Nat) (seen : NMap) :
    State.Only sl s0 (State.coreOutSeen s id seen) := by
  unfold State.coreOutSeen
  try dsimp only
  repeat' with_reducible first | assumption | apply State.mapSw_only (Sect.sub rfl hl) | apply State.giveBufs_only (Sect.sub rfl hl) | apply State.pushCells_only (Sect.sub rfl hl) | apply State.returnCredit_only (Sect.sub rfl hl) | apply State.pumpSources_only (Sect.sub rfl hl) | apply State.ite_only | (intro _ _ _ _) | (intro _ _ _) | (intro _; rfl) | (intro _; apply map_map_same; intro _; rfl) | (intro _; apply map_mapIf; intro _; rfl) | (refine State.fst_only (by assumption) ?_) | split | dsimp only | (intro _; split <;> rfl) | (intro _; (repeat' split) <;> rfl)

theorem State.coreOut_only (hl : [Sect.out, Sect.od, Sect.sw, Sect.mgt] ⊆ sl) (h : State.Only sl s0 s) (id : Nat) :
    State.Only sl s0 (State.coreOut s id) := by
  unfold State.coreOut
  try dsimp only
  repeat' with_reducible first | assumption | apply State.coreOutSeen_only (Sect.sub rfl hl) | apply State.ite_only | (intro _ _ _ _) | (intro _ _ _) | (intro _; rfl) | (intro _; apply map_map_same; intro _; rfl) | (intro _; apply map_mapIf; intro _; rfl) | (refine State.fst_only (by assumption) ?_) | split | dsimp only | (intro _; split <;> rfl) | (intro _; (repeat' split) <;> rfl)

theorem State.setCore_only (hl : [Sect.sw] ⊆ sl) (h : State.Only sl s0 s) (id : Nat) (g : CoreFrame → CoreFrame) :
    State.Only sl s0 (State.setCore s id g) := by
  unfold State.setCore
  try dsimp only
  repeat' with_reducible first | assumption | apply State.mapSw_only (Sect.sub rfl hl) | apply State.ite_only | (intro _ _ _ _) | (intro _ _ _) | (intro _; rfl) | (intro _; apply map_map_same; intro _; rfl) | (intro _; apply map_mapIf; intro _; rfl) | (refine State.fst_only (by assumption) ?_) | split | dsimp only | (intro _; split <;> rfl) | (intro _; (repeat' split) <;> rfl)

theorem State.dropFlowFrames_only (hl : [Sect.out, Sect.od, Sect.sw, Sect.dlv, Sect.mgt] ⊆ sl) (h : State.Only sl s0 s) (pid flow : Nat) :
    State.Only sl s0 (State.dropFlowFrames s pid flow) := by
  unfold State.dropFlowFrames
  try dsimp only
  repeat' with_reducible first | assumption | apply State.each_only | apply State.setCore_only (Sect.sub rfl hl) | apply State.coreOut_only (Sect.sub rfl hl) | apply State.mapSw_only (Sect.sub rfl hl) | apply State.mapDlv_only (Sect.sub rfl hl) | apply State.ite_only | (intro _ _ _ _) | (intro _ _ _) | (intro _; rfl) | (intro _; apply map_map_same; intro _; rfl) | (intro _; apply map_mapIf; intro _; rfl) | (refine State.fst_only (by assumption) ?_) | split | dsimp only | (intro _; split <;> rfl) | (intro _; (repeat' split) <;> rfl)

theorem State.consEv_only (hl : [Sect.od, Sect.mgt] ⊆ sl) (h : State.Only sl s0 s) (pid flow : Nat) (c : Cons) (ev n : Nat) :
    State.Only sl s0 (State.consEv s pid flow c ev n) := by
  unfold State.consEv
  try dsimp only
  repeat' with_reducible first | assumption | apply State.clusterEv_only (Sect.sub rfl hl) | apply State.ite_only | (intro _ _ _ _) | (intro _ _ _) | (intro _; rfl) | (intro _; apply map_map_same; intro _; rfl) | (intro _; apply map_mapIf; intro _; rfl) | (refine State.fst_only (by assumption) ?_) | split | dsimp only | (intro _; split <;> rfl) | (intro _; (repeat' split) <;> rfl)

theorem State.intoBuf_only (hl : [Sect.od, Sect.stn, Sect.sw, Sect.mgt] ⊆ sl) (h : State.Only sl s0 s) (pid flow sid ci : Nat) (t : Tile) :
    State.Only sl s0 (State.intoBuf s pid flow sid ci t).1 := by
  unfold State.intoBuf
  try dsimp only
  repeat' with_reducible first | assumption | apply State.setCons_only (Sect.sub rfl hl) | apply State.consEv_only (Sect.sub rfl hl) | apply State.raiseBufs_only (Sect.sub rfl hl) | apply State.takeBufs_only (Sect.sub rfl hl) | (refine State.takeBufs_bad (Sect.sub rfl hl) ?_ (by assumption)) | (refine State.takeBufs_got (Sect.sub rfl hl) ?_ (by assumption)) | apply State.ite_only | (intro _ _ _ _) | (intro _ _ _) | (intro _; rfl) | (intro _; apply map_map_same; intro _; rfl) | (intro _; apply map_mapIf; intro _; rfl) | (refine State.fst_only (by assumption) ?_) | split | dsimp only | (intro _; split <;> rfl) | (intro _; (repeat' split) <;> rfl)

theorem State.stile_only (hl : [Sect.out, Sect.lnk] ⊆ sl) (h : State.Only sl s0 s) (ep ctx flow sid : Nat) (t : Tile) :
    State.Only sl s0 (State.stile s ep ctx flow sid t) := by
  unfold State.stile
  try dsimp only
  repeat' with_reducible first | assumption | apply State.each_only | apply State.capSend_only (Sect.sub rfl hl) | apply State.ite_only | (intro _ _ _ _) | (intro _ _ _) | (intro _; rfl) | (intro _; apply map_map_same; intro _; rfl) | (intro _; apply map_mapIf; intro _; rfl) | (refine State.fst_only (by assumption) ?_) | split | dsimp only | (intro _; split <;> rfl) | (intro _; (repeat' split) <;> rfl)

theorem State.pumpAttach_only (hl : [Sect.out, Sect.stn, Sect.lnk] ⊆ sl) (h : State.Only sl s0 s) (pid flow sid ci : Nat) (fuel : Nat) :
    State.Only sl s0 (State.pumpAttach s pid flow sid ci fuel) := by
  induction fuel generalizing s pid flow sid ci with
  | zero => exact h
  | succ n ih =>
    unfold State.pumpAttach
    try dsimp only
    repeat' with_reducible first | apply ih | assumption | apply State.stile_only (Sect.sub rfl hl) | apply State.setCons_only (Sect.sub rfl hl) | apply State.ite_only | (intro _ _ _ _) | (intro _ _ _) | (intro _; rfl) | (intro _; apply map_map_same; intro _; rfl) | (intro _; apply map_mapIf; intro _; rfl) | (refine State.fst_only (by assumption) ?_) | split | dsimp only | (intro _; split <;> rfl) | (intro _; (repeat' split) <;> rfl)

theorem State.feedTile_only (hl : [Sect.out] ⊆ sl) (h : State.Only sl s0 s) (who : InstRef) (sid : Nat) (t : Tile) :
    State.Only sl s0 (State.feedTile s who sid t) := by
  unfold State.feedTile
  try dsimp only
  repeat' with_reducible first | assumption | apply State.emit_only (Sect.sub rfl hl) | apply State.ite_only | (intro _ _ _ _) | (intro _ _ _) | (intro _; rfl) | (intro _; apply map_map_same; intro _; rfl) | (intro _; apply map_mapIf; intro _; rfl) | (refine State.fst_only (by assumption) ?_) | split | dsimp only | (intro _; split <;> rfl) | (intro _; (repeat' split) <;> rfl)

theorem State.comparePair_only (hl : [Sect.od, Sect.shd] ⊆ sl) (h : State.Only sl s0 s) (k : TileKey) (a b : Nat) :
    State.Only sl s0 (State.comparePair s k a b) := by
  unfold State.comparePair
  try dsimp only
  repeat' with_reducible first | assumption | apply State.mapShd_only (Sect.sub rfl hl) | apply State.wr_only (Sect.sub rfl hl) | apply State.ite_only | (intro _ _ _ _) | (intro _ _ _) | (intro _; rfl) | (intro _; apply map_map_same; intro _; rfl) | (intro _; apply map_mapIf; intro _; rfl) | (refine State.fst_only (by assumption) ?_) | split | dsimp only | (intro _; split <;> rfl) | (intro _; (repeat' split) <;> rfl)

theorem State.ownDigest_only (hl : [Sect.od, Sect.shd] ⊆ sl) (h : State.Only sl s0 s) (k : TileKey) (dg : Nat) :
    State.Only sl s0 (State.ownDigest s k dg) := by
  unfold State.ownDigest
  try dsimp only
  repeat' with_reducible first | assumption | apply State.mapShd_only (Sect.sub rfl hl) | apply State.comparePair_only (Sect.sub rfl hl) | apply State.ite_only | (intro _ _ _ _) | (intro _ _ _) | (intro _; rfl) | (intro _; apply map_map_same; intro _; rfl) | (intro _; apply map_mapIf; intro _; rfl) | (refine State.fst_only (by assumption) ?_) | split | dsimp only | (intro _; split <;> rfl) | (intro _; (repeat' split) <;> rfl)

theorem State.moduleRead_only (hl : [Sect.out, Sect.od, Sect.mem, Sect.poison, Sect.written, Sect.xl, Sect.req, Sect.ep, Sect.lnk, Sect.mgt] ⊆ sl) (h : State.Only sl s0 s) (pid fva len : Nat) :
    State.Only sl s0 (State.moduleRead s pid fva len).1 := by
  unfold State.moduleRead
  try dsimp only
  repeat' with_reducible first | assumption | apply State.translate_only (Sect.sub rfl hl) | apply State.putTx_only (Sect.sub rfl hl) | apply State.ite_only | (intro _ _ _ _) | (intro _ _ _) | (intro _; rfl) | (intro _; apply map_map_same; intro _; rfl) | (intro _; apply map_mapIf; intro _; rfl) | (refine State.fst_only (by assumption) ?_) | split | dsimp only | (intro _; split <;> rfl) | (intro _; (repeat' split) <;> rfl)

theorem State.moduleRelease_only (hl : [Sect.req] ⊆ sl) (h : State.Only sl s0 s) (ep pid : Nat) (ids : List Nat) :
    State.Only sl s0 (State.moduleRelease s ep pid ids).1 := by
  unfold State.moduleRelease
  try dsimp only
  repeat' with_reducible first | assumption | apply State.putTx_only (Sect.sub rfl hl) | apply State.ite_only | (intro _ _ _ _) | (intro _ _ _) | (intro _; rfl) | (intro _; apply map_map_same; intro _; rfl) | (intro _; apply map_mapIf; intro _; rfl) | (refine State.fst_only (by assumption) ?_) | split | dsimp only | (intro _; split <;> rfl) | (intro _; (repeat' split) <;> rfl)

theorem State.moduleStore_only (hl : [Sect.out, Sect.od, Sect.xl, Sect.req, Sect.home, Sect.ep, Sect.sw, Sect.dlv, Sect.lnk, Sect.mgt] ⊆ sl) (h : State.Only sl s0 s) (pid fva owner ord : Nat) (data : List Byte) :
    State.Only sl s0 (State.moduleStore s pid fva owner ord data) := by
  unfold State.moduleStore
  try dsimp only
  repeat' with_reducible first | assumption | apply State.store_only (Sect.sub rfl hl) | apply State.ownTx_only (Sect.sub rfl hl) | apply State.setTx_only (Sect.sub rfl hl) | apply State.writeBackAll_only (Sect.sub rfl hl) | apply State.moduleRelease_only (Sect.sub rfl hl) | apply State.tryIssue_only (Sect.sub rfl hl) | apply State.ite_only | (intro _ _ _ _) | (intro _ _ _) | (intro _; rfl) | (intro _; apply map_map_same; intro _; rfl) | (intro _; apply map_mapIf; intro _; rfl) | (refine State.fst_only (by assumption) ?_) | split | dsimp only | (intro _; split <;> rfl) | (intro _; (repeat' split) <;> rfl)

theorem State.freeStrm_only (hl : [Sect.od, Sect.stn, Sect.sw, Sect.mgt] ⊆ sl) (h : State.Only sl s0 s) (t : Strm) :
    State.Only sl s0 (State.freeStrm s t) := by
  unfold State.freeStrm
  try dsimp only
  repeat' with_reducible first | assumption | apply State.each_only | apply State.giveBufs_only (Sect.sub rfl hl) | apply State.setStrm_only (Sect.sub rfl hl) | apply State.ite_only | (intro _ _ _ _) | (intro _ _ _) | (intro _; rfl) | (intro _; apply map_map_same; intro _; rfl) | (intro _; apply map_mapIf; intro _; rfl) | (refine State.fst_only (by assumption) ?_) | split | dsimp only | (intro _; split <;> rfl) | (intro _; (repeat' split) <;> rfl)

theorem State.removeFlow_only (hl : [Sect.od, Sect.req, Sect.stn, Sect.sw, Sect.mgt] ⊆ sl) (h : State.Only sl s0 s) (pid flow : Nat) :
    State.Only sl s0 (State.removeFlow s pid flow) := by
  unfold State.removeFlow
  try dsimp only
  repeat' with_reducible first | assumption | apply State.each_only | apply State.freeStrm_only (Sect.sub rfl hl) | apply State.mapStn_only (Sect.sub rfl hl) | apply State.mapReq_only (Sect.sub rfl hl) | apply State.wr_only (Sect.sub rfl hl) | apply State.ite_only | (intro _ _ _ _) | (intro _ _ _) | (intro _; rfl) | (intro _; apply map_map_same; intro _; rfl) | (intro _; apply map_mapIf; intro _; rfl) | (refine State.fst_only (by assumption) ?_) | split | dsimp only | (intro _; split <;> rfl) | (intro _; (repeat' split) <;> rfl)

theorem State.flowRecord_only (hl : [Sect.out, Sect.od, Sect.xl, Sect.req, Sect.home, Sect.ep, Sect.stn, Sect.sw, Sect.dlv, Sect.lnk, Sect.mgt] ⊆ sl) (h : State.Only sl s0 s) (f : Flow) :
    State.Only sl s0 (State.flowRecord s f) := by
  unfold State.flowRecord
  try dsimp only
  repeat' with_reducible first | assumption | apply State.setFlow_only (Sect.sub rfl hl) | apply State.mapMgt_only (Sect.sub rfl hl) | apply State.moduleStore_only (Sect.sub rfl hl) | apply State.removeFlow_only (Sect.sub rfl hl) | apply State.ite_only | (intro _ _ _ _) | (intro _ _ _) | (intro _; rfl) | (intro _; apply map_map_same; intro _; rfl) | (intro _; apply map_mapIf; intro _; rfl) | (refine State.fst_only (by assumption) ?_) | split | dsimp only | (intro _; split <;> rfl) | (intro _; (repeat' split) <;> rfl)

theorem State.settleFlows_only (hl : [Sect.out, Sect.od, Sect.xl, Sect.req, Sect.home, Sect.ep, Sect.stn, Sect.sw, Sect.dlv, Sect.lnk, Sect.mgt] ⊆ sl) (h : State.Only sl s0 s)  :
    State.Only sl s0 (State.settleFlows s) := by
  unfold State.settleFlows
  try dsimp only
  repeat' with_reducible first | assumption | apply State.each_only | apply State.flowRecord_only (Sect.sub rfl hl) | apply State.ite_only | (intro _ _ _ _) | (intro _ _ _) | (intro _; rfl) | (intro _; apply map_map_same; intro _; rfl) | (intro _; apply map_mapIf; intro _; rfl) | (refine State.fst_only (by assumption) ?_) | split | dsimp only | (intro _; split <;> rfl) | (intro _; (repeat' split) <;> rfl)

theorem State.slots_only (hl : [Sect.od, Sect.mgt] ⊆ sl) (h : State.Only sl s0 s) (i : Inst) (cls ev n : Nat) :
    State.Only sl s0 (State.slots s i cls ev n) := by
  unfold State.slots
  try dsimp only
  repeat' with_reducible first | assumption | apply State.clusterEv_only (Sect.sub rfl hl) | apply State.bump64_only (Sect.sub rfl hl) | apply State.ite_only | (intro _ _ _ _) | (intro _ _ _) | (intro _; rfl) | (intro _; apply map_map_same; intro _; rfl) | (intro _; apply map_mapIf; intro _; rfl) | (refine State.fst_only (by assumption) ?_) | split | dsimp only | (intro _; split <;> rfl) | (intro _; (repeat' split) <;> rfl)

theorem State.squashSlots_only (hl : [Sect.od, Sect.mgt] ⊆ sl) (h : State.Only sl s0 s) (pid flow : Nat) :
    State.Only sl s0 (State.squashSlots s pid flow) := by
  unfold State.squashSlots
  try dsimp only
  repeat' with_reducible first | assumption | apply State.slots_only (Sect.sub rfl hl) | apply State.each_only | apply State.ite_only | (intro _ _ _ _) | (intro _ _ _) | (intro _; rfl) | (intro _; apply map_map_same; intro _; rfl) | (intro _; apply map_mapIf; intro _; rfl) | (refine State.fst_only (by assumption) ?_) | split | dsimp only | (intro _; split <;> rfl) | (intro _; (repeat' split) <;> rfl)

theorem State.haltTx_only (hl : [Sect.out, Sect.od, Sect.xl, Sect.req, Sect.ep, Sect.lnk, Sect.mgt] ⊆ sl) (h : State.Only sl s0 s) (t : Tx) :
    State.Only sl s0 (State.haltTx s t) := by
  unfold State.haltTx
  try dsimp only
  repeat' with_reducible first | assumption | apply State.completeTx_only (Sect.sub rfl hl) | apply State.setTx_only (Sect.sub rfl hl) | apply State.ite_only | (intro _ _ _ _) | (intro _ _ _) | (intro _; rfl) | (intro _; apply map_map_same; intro _; rfl) | (intro _; apply map_mapIf; intro _; rfl) | (refine State.fst_only (by assumption) ?_) | split | dsimp only | (intro _; split <;> rfl) | (intro _; (repeat' split) <;> rfl)

theorem State.abortNoticeTo_only (hl : [Sect.out, Sect.od, Sect.sw, Sect.dlv, Sect.mgt] ⊆ sl) (h : State.Only sl s0 s) (d pid flow st station time : Nat) :
    State.Only sl s0 (State.abortNoticeTo s d pid flow st station time) := by
  unfold State.abortNoticeTo
  try dsimp only
  repeat' with_reducible first | assumption | apply State.sendSeq_only (Sect.sub rfl hl) | apply State.ite_only | (intro _ _ _ _) | (intro _ _ _) | (intro _; rfl) | (intro _; apply map_map_same; intro _; rfl) | (intro _; apply map_mapIf; intro _; rfl) | (refine State.fst_only (by assumption) ?_) | split | dsimp only | (intro _; split <;> rfl) | (intro _; (repeat' split) <;> rfl)

theorem State.abortContexts_only (hl : [Sect.out, Sect.lnk] ⊆ sl) (h : State.Only sl s0 s) (pid flow st time : Nat) :
    State.Only sl s0 (State.abortContexts s pid flow st time) := by
  unfold State.abortContexts
  try dsimp only
  repeat' with_reducible first | assumption | apply State.each_only | apply State.capSend_only (Sect.sub rfl hl) | apply State.ite_only | (intro _ _ _ _) | (intro _ _ _) | (intro _; rfl) | (intro _; apply map_map_same; intro _; rfl) | (intro _; apply map_mapIf; intro _; rfl) | (refine State.fst_only (by assumption) ?_) | split | dsimp only | (intro _; split <;> rfl) | (intro _; (repeat' split) <;> rfl)

theorem State.abortFlow_only (hl : [Sect.out, Sect.od, Sect.xl, Sect.req, Sect.home, Sect.ep, Sect.stn, Sect.sw, Sect.dlv, Sect.lnk, Sect.mgt] ⊆ sl) (h : State.Only sl s0 s) (pid flow cause origin station time : Nat) (notify : Bool) :
    State.Only sl s0 (State.abortFlow s pid flow cause origin station time notify) := by
  unfold State.abortFlow
  try dsimp only
  repeat' with_reducible first | assumption | apply State.setFlow_only (Sect.sub rfl hl) | apply State.mapStn_only (Sect.sub rfl hl) | apply State.each_only | apply State.haltTx_only (Sect.sub rfl hl) | apply State.freeStrm_only (Sect.sub rfl hl) | apply State.dropFlowFrames_only (Sect.sub rfl hl) | apply State.abortContexts_only (Sect.sub rfl hl) | apply State.abortNoticeTo_only (Sect.sub rfl hl) | apply State.settleFlows_only (Sect.sub rfl hl) | apply State.squashSlots_only (Sect.sub rfl hl) | apply State.ite_only | (intro _ _ _ _) | (intro _ _ _) | (intro _; rfl) | (intro _; apply map_map_same; intro _; rfl) | (intro _; apply map_mapIf; intro _; rfl) | (refine State.fst_only (by assumption) ?_) | split | dsimp only | (intro _; split <;> rfl) | (intro _; (repeat' split) <;> rfl)

theorem State.failFlow_only (hl : [Sect.out, Sect.od, Sect.xl, Sect.req, Sect.home, Sect.ep, Sect.stn, Sect.sw, Sect.dlv, Sect.lnk, Sect.mgt] ⊆ sl) (h : State.Only sl s0 s) (pid flow cause station : Nat) :
    State.Only sl s0 (State.failFlow s pid flow cause station) := by
  unfold State.failFlow
  try dsimp only
  repeat' with_reducible first | assumption | apply State.abortFlow_only (Sect.sub rfl hl) | apply State.ite_only | (intro _ _ _ _) | (intro _ _ _) | (intro _; rfl) | (intro _; apply map_map_same; intro _; rfl) | (intro _; apply map_mapIf; intro _; rfl) | (refine State.fst_only (by assumption) ?_) | split | dsimp only | (intro _; split <;> rfl) | (intro _; (repeat' split) <;> rfl)

theorem State.failStation_only (hl : [Sect.out, Sect.od, Sect.xl, Sect.req, Sect.home, Sect.ep, Sect.stn, Sect.sw, Sect.dlv, Sect.lnk, Sect.mgt] ⊆ sl) (h : State.Only sl s0 s) (who : InstRef) (cause : Nat) :
    State.Only sl s0 (State.failStation s who cause) := by
  unfold State.failStation
  try dsimp only
  repeat' with_reducible first | assumption | apply State.failFlow_only (Sect.sub rfl hl) | apply State.wr_only (Sect.sub rfl hl) | apply State.ite_only | (intro _ _ _ _) | (intro _ _ _) | (intro _; rfl) | (intro _; apply map_map_same; intro _; rfl) | (intro _; apply map_mapIf; intro _; rfl) | (refine State.fst_only (by assumption) ?_) | split | dsimp only | (intro _; split <;> rfl) | (intro _; (repeat' split) <;> rfl)

theorem State.loseModule_only (hl : [Sect.out, Sect.od, Sect.xl, Sect.req, Sect.home, Sect.ep, Sect.stn, Sect.sw, Sect.dlv, Sect.lnk, Sect.mgt] ⊆ sl) (h : State.Only sl s0 s) (d : Nat) :
    State.Only sl s0 (State.loseModule s d) := by
  unfold State.loseModule
  try dsimp only
  repeat' with_reducible first | assumption | apply State.each_only | apply State.failFlow_only (Sect.sub rfl hl) | apply State.ite_only | (intro _ _ _ _) | (intro _ _ _) | (intro _; rfl) | (intro _; apply map_map_same; intro _; rfl) | (intro _; apply map_mapIf; intro _; rfl) | (refine State.fst_only (by assumption) ?_) | split | dsimp only | (intro _; split <;> rfl) | (intro _; (repeat' split) <;> rfl)

theorem State.pumpTransit_only (hl : [Sect.out, Sect.od, Sect.xl, Sect.req, Sect.home, Sect.ep, Sect.stn, Sect.sw, Sect.dlv, Sect.lnk, Sect.mgt] ⊆ sl) (h : State.Only sl s0 s) (pid flow sid ci : Nat) (fuel : Nat) :
    State.Only sl s0 (State.pumpTransit s pid flow sid ci fuel) := by
  induction fuel generalizing s pid flow sid ci with
  | zero => exact h
  | succ n ih =>
    unfold State.pumpTransit
    try dsimp only
    repeat' with_reducible first | apply ih | assumption | apply State.intoBuf_only (Sect.sub rfl hl) | apply State.setCons_only (Sect.sub rfl hl) | apply State.feedTile_only (Sect.sub rfl hl) | apply State.setStrm_only (Sect.sub rfl hl) | apply State.pumpAttach_only (Sect.sub rfl hl) | apply State.failFlow_only (Sect.sub rfl hl) | apply State.ite_only | (intro _ _ _ _) | (intro _ _ _) | (intro _; rfl) | (intro _; apply map_map_same; intro _; rfl) | (intro _; apply map_mapIf; intro _; rfl) | (refine State.fst_only (by assumption) ?_) | split | dsimp only | (intro _; split <;> rfl) | (intro _; (repeat' split) <;> rfl)

theorem State.tileArrive_only (hl : [Sect.out, Sect.od, Sect.xl, Sect.req, Sect.home, Sect.ep, Sect.stn, Sect.sw, Sect.dlv, Sect.lnk, Sect.mgt] ⊆ sl) (h : State.Only sl s0 s) (pid flow sid ci : Nat) (t : Tile) (src : Nat) :
    State.Only sl s0 (State.tileArrive s pid flow sid ci t src) := by
  unfold State.tileArrive
  try dsimp only
  repeat' with_reducible first | assumption | apply State.bump_only (Sect.sub rfl hl) | apply State.abortNoticeTo_only (Sect.sub rfl hl) | apply State.failFlow_only (Sect.sub rfl hl) | apply State.setStrm_only (Sect.sub rfl hl) | apply State.pumpTransit_only (Sect.sub rfl hl) | apply State.ite_only | (intro _ _ _ _) | (intro _ _ _) | (intro _; rfl) | (intro _; apply map_map_same; intro _; rfl) | (intro _; apply map_mapIf; intro _; rfl) | (refine State.fst_only (by assumption) ?_) | split | dsimp only | (intro _; split <;> rfl) | (intro _; (repeat' split) <;> rfl)

theorem State.streamFrame_only (hl : [Sect.out, Sect.od, Sect.xl, Sect.req, Sect.home, Sect.ep, Sect.stn, Sect.sw, Sect.dlv, Sect.lnk, Sect.mgt] ⊆ sl) (h : State.Only sl s0 s) (f : Frame) (e : Nat) :
    State.Only sl s0 (State.streamFrame s f e) := by
  unfold State.streamFrame
  try dsimp only
  repeat' with_reducible first | assumption | apply State.tileArrive_only (Sect.sub rfl hl) | apply State.setStrm_only (Sect.sub rfl hl) | apply State.each_only | apply State.ite_only | (intro _ _ _ _) | (intro _ _ _) | (intro _; rfl) | (intro _; apply map_map_same; intro _; rfl) | (intro _; apply map_mapIf; intro _; rfl) | (refine State.fst_only (by assumption) ?_) | split | dsimp only | (intro _; split <;> rfl) | (intro _; (repeat' split) <;> rfl)

theorem State.overrun_only (hl : [Sect.out, Sect.od, Sect.xl, Sect.req, Sect.home, Sect.ep, Sect.stn, Sect.sw, Sect.dlv, Sect.lnk, Sect.mgt] ⊆ sl) (h : State.Only sl s0 s) (pid set flow sid port t crossed tiles : Nat) :
    State.Only sl s0 (State.overrun s pid set flow sid port t crossed tiles) := by
  unfold State.overrun
  try dsimp only
  repeat' with_reducible first | assumption | apply State.bump_only (Sect.sub rfl hl) | apply State.wr_only (Sect.sub rfl hl) | apply State.failFlow_only (Sect.sub rfl hl) | apply State.ite_only | (intro _ _ _ _) | (intro _ _ _) | (intro _; rfl) | (intro _; apply map_map_same; intro _; rfl) | (intro _; apply map_mapIf; intro _; rfl) | (refine State.fst_only (by assumption) ?_) | split | dsimp only | (intro _; split <;> rfl) | (intro _; (repeat' split) <;> rfl)

theorem State.ungatedRaise_only (hl : [Sect.out, Sect.od, Sect.xl, Sect.req, Sect.home, Sect.ep, Sect.stn, Sect.sw, Sect.dlv, Sect.lnk, Sect.mgt] ⊆ sl) (h : State.Only sl s0 s) (f : Frame) (egrs : List Nat) :
    State.Only sl s0 (State.ungatedRaise s f egrs) := by
  unfold State.ungatedRaise
  try dsimp only
  repeat' with_reducible first | assumption | apply State.overrun_only (Sect.sub rfl hl) | apply State.ite_only | (intro _ _ _ _) | (intro _ _ _) | (intro _; rfl) | (intro _; apply map_map_same; intro _; rfl) | (intro _; apply map_mapIf; intro _; rfl) | (refine State.fst_only (by assumption) ?_) | split | dsimp only | (intro _; split <;> rfl) | (intro _; (repeat' split) <;> rfl)

theorem State.tileHere_only (hl : [Sect.out, Sect.od, Sect.xl, Sect.req, Sect.home, Sect.ep, Sect.stn, Sect.sw, Sect.dlv, Sect.lnk, Sect.mgt] ⊆ sl) (h : State.Only sl s0 s) (fs : List Frame) (egrs : List Nat) :
    State.Only sl s0 (State.tileHere s fs egrs) := by
  unfold State.tileHere
  try dsimp only
  repeat' with_reducible first | assumption | apply State.each_only | apply State.sourceFrame_only (Sect.sub rfl hl) | apply State.ungatedRaise_only (Sect.sub rfl hl) | apply State.ite_only | (intro _ _ _ _) | (intro _ _ _) | (intro _; rfl) | (intro _; apply map_map_same; intro _; rfl) | (intro _; apply map_mapIf; intro _; rfl) | (refine State.fst_only (by assumption) ?_) | split | dsimp only | (intro _; split <;> rfl) | (intro _; (repeat' split) <;> rfl)

theorem State.tileAway_only (hl : [Sect.out, Sect.od, Sect.xl, Sect.req, Sect.home, Sect.ep, Sect.stn, Sect.sw, Sect.dlv, Sect.lnk, Sect.mgt] ⊆ sl) (h : State.Only sl s0 s) (fs : List Frame) :
    State.Only sl s0 (State.tileAway s fs) := by
  unfold State.tileAway
  try dsimp only
  repeat' with_reducible first | assumption | apply State.each_only | apply State.sendSeq_only (Sect.sub rfl hl) | apply State.ungatedRaise_only (Sect.sub rfl hl) | apply State.ite_only | (intro _ _ _ _) | (intro _ _ _) | (intro _; rfl) | (intro _; apply map_map_same; intro _; rfl) | (intro _; apply map_mapIf; intro _; rfl) | (refine State.fst_only (by assumption) ?_) | split | dsimp only | (intro _; split <;> rfl) | (intro _; (repeat' split) <;> rfl)

theorem State.putTile_only (hl : [Sect.out, Sect.od, Sect.xl, Sect.req, Sect.home, Sect.ep, Sect.stn, Sect.sw, Sect.dlv, Sect.lnk, Sect.mgt] ⊆ sl) (h : State.Only sl s0 s) (pid flow sid : Nat) (t0 : Tile) :
    State.Only sl s0 (State.putTile s pid flow sid t0) := by
  unfold State.putTile
  try dsimp only
  repeat' with_reducible first | assumption | apply State.setStrm_only (Sect.sub rfl hl) | apply State.setFlow_only (Sect.sub rfl hl) | apply State.bump_only (Sect.sub rfl hl) | apply State.each_only | apply State.tileAway_only (Sect.sub rfl hl) | apply State.tileHere_only (Sect.sub rfl hl) | apply State.ite_only | (intro _ _ _ _) | (intro _ _ _) | (intro _; rfl) | (intro _; apply map_map_same; intro _; rfl) | (intro _; apply map_mapIf; intro _; rfl) | (refine State.fst_only (by assumption) ?_) | split | dsimp only | (intro _; split <;> rfl) | (intro _; (repeat' split) <;> rfl)

theorem State.stnPut_only (hl : [Sect.out, Sect.od, Sect.xl, Sect.req, Sect.home, Sect.ep, Sect.stn, Sect.sw, Sect.dlv, Sect.lnk, Sect.mgt, Sect.shd] ⊆ sl) (h : State.Only sl s0 s) (who : InstRef) (sid : Nat) (t : Tile) :
    State.Only sl s0 (State.stnPut s who sid t) := by
  unfold State.stnPut
  try dsimp only
  repeat' with_reducible first | assumption | apply State.setStrm_only (Sect.sub rfl hl) | apply State.ownDigest_only (Sect.sub rfl hl) | apply State.emit_only (Sect.sub rfl hl) | apply State.putTile_only (Sect.sub rfl hl) | apply State.ite_only | (intro _ _ _ _) | (intro _ _ _) | (intro _; rfl) | (intro _; apply map_map_same; intro _; rfl) | (intro _; apply map_mapIf; intro _; rfl) | (refine State.fst_only (by assumption) ?_) | split | dsimp only | (intro _; split <;> rfl) | (intro _; (repeat' split) <;> rfl)

theorem State.grantProducer_only (hl : [Sect.out, Sect.stn, Sect.lnk] ⊆ sl) (h : State.Only sl s0 s) (pid flow sid : Nat) :
    State.Only sl s0 (State.grantProducer s pid flow sid) := by
  unfold State.grantProducer
  try dsimp only
  repeat' with_reducible first | assumption | apply State.foldlPair_only | apply State.foldl_only | apply State.setStrm_only (Sect.sub rfl hl) | apply State.capSend_only (Sect.sub rfl hl) | apply State.ite_only | (intro _ _ _ _) | (intro _ _ _) | (intro _; rfl) | (intro _; apply map_map_same; intro _; rfl) | (intro _; apply map_mapIf; intro _; rfl) | (refine State.fst_only (by assumption) ?_) | split | dsimp only | (intro _; split <;> rfl) | (intro _; (repeat' split) <;> rfl)

theorem State.creditIn_only (hl : [Sect.out, Sect.stn, Sect.lnk] ⊆ sl) (h : State.Only sl s0 s) (pid flow sid ci free : Nat) :
    State.Only sl s0 (State.creditIn s pid flow sid ci free) := by
  unfold State.creditIn
  try dsimp only
  repeat' with_reducible first | assumption | apply State.setCons_only (Sect.sub rfl hl) | apply State.grantProducer_only (Sect.sub rfl hl) | apply State.ite_only | (intro _ _ _ _) | (intro _ _ _) | (intro _; rfl) | (intro _; apply map_map_same; intro _; rfl) | (intro _; apply map_mapIf; intro _; rfl) | (refine State.fst_only (by assumption) ?_) | split | dsimp only | (intro _; split <;> rfl) | (intro _; (repeat' split) <;> rfl)

theorem State.creditBack_only (hl : [Sect.out, Sect.od, Sect.stn, Sect.sw, Sect.lnk, Sect.mgt] ⊆ sl) (h : State.Only sl s0 s) (pid flow sid ci n : Nat) :
    State.Only sl s0 (State.creditBack s pid flow sid ci n) := by
  unfold State.creditBack
  try dsimp only
  repeat' with_reducible first | assumption | apply State.creditIn_only (Sect.sub rfl hl) | apply State.sendPlain_only (Sect.sub rfl hl) | apply State.ite_only | (intro _ _ _ _) | (intro _ _ _) | (intro _; rfl) | (intro _; apply map_map_same; intro _; rfl) | (intro _; apply map_mapIf; intro _; rfl) | (refine State.fst_only (by assumption) ?_) | split | dsimp only | (intro _; split <;> rfl) | (intro _; (repeat' split) <;> rfl)

theorem State.readBack_only (hl : [Sect.out, Sect.od, Sect.xl, Sect.req, Sect.home, Sect.ep, Sect.stn, Sect.sw, Sect.dlv, Sect.lnk, Sect.mgt] ⊆ sl) (h : State.Only sl s0 s) (pid flow sid ci : Nat) :
    State.Only sl s0 (State.readBack s pid flow sid ci) := by
  unfold State.readBack
  try dsimp only
  repeat' with_reducible first | assumption | apply State.setCons_only (Sect.sub rfl hl) | apply State.giveBufs_only (Sect.sub rfl hl) | apply State.consEv_only (Sect.sub rfl hl) | apply State.pumpTransit_only (Sect.sub rfl hl) | apply State.ite_only | (intro _ _ _ _) | (intro _ _ _) | (intro _; rfl) | (intro _; apply map_map_same; intro _; rfl) | (intro _; apply map_mapIf; intro _; rfl) | (refine State.fst_only (by assumption) ?_) | split | dsimp only | (intro _; split <;> rfl) | (intro _; (repeat' split) <;> rfl)

theorem State.releaseTile_only (hl : [Sect.out, Sect.od, Sect.xl, Sect.req, Sect.home, Sect.ep, Sect.stn, Sect.sw, Sect.dlv, Sect.lnk, Sect.mgt] ⊆ sl) (h : State.Only sl s0 s) (pid flow sid ci tnum : Nat) :
    State.Only sl s0 (State.releaseTile s pid flow sid ci tnum) := by
  unfold State.releaseTile
  try dsimp only
  repeat' with_reducible first | assumption | apply State.setCons_only (Sect.sub rfl hl) | apply State.creditBack_only (Sect.sub rfl hl) | apply State.pumpTransit_only (Sect.sub rfl hl) | apply State.ite_only | (intro _ _ _ _) | (intro _ _ _) | (intro _; rfl) | (intro _; apply map_map_same; intro _; rfl) | (intro _; apply map_mapIf; intro _; rfl) | (refine State.fst_only (by assumption) ?_) | split | dsimp only | (intro _; split <;> rfl) | (intro _; (repeat' split) <;> rfl)

end Sys2Proof.Machine
end

