-- ==== Sys2Proof/Laws/OnlyHostOps.lean ====
section
/-! SUPPORT. `State.Only` for every operation and meaning of Machine/HostOps.lean: the sections that it may change. -/

namespace Sys2Proof.Machine

open Sys2Proof

set_option Elab.async false

set_option linter.unreachableTactic false
set_option linter.unusedTactic false

variable {s0 s : State} {sl : List Sect}

theorem State.mirrorEnd_only (hl : [Sect.out, Sect.od, Sect.mem, Sect.poison, Sect.written, Sect.home, Sect.sw, Sect.dlv, Sect.lnk, Sect.mgt] ⊆ sl) (h : State.Only sl s0 s) (e : Held) (old st : Nat) :
    State.Only sl s0 (State.mirrorEnd s e old st) := by
  unfold State.mirrorEnd
  try dsimp only
  repeat' with_reducible first | assumption | apply State.dropHeld_only (Sect.sub rfl hl) | apply State.performAnswer_only (Sect.sub rfl hl) | apply State.homeAnswer_only (Sect.sub rfl hl) | apply State.ite_only | (intro _ _ _ _) | (intro _ _ _) | (intro _; rfl) | (intro _; apply map_map_same; intro _; rfl) | (intro _; apply map_mapIf; intro _; rfl) | (refine State.fst_only (by assumption) ?_) | split | dsimp only | (intro _; split <;> rfl) | (intro _; (repeat' split) <;> rfl)

theorem State.mirrorAcked_only (hl : [Sect.out, Sect.od, Sect.mem, Sect.poison, Sect.written, Sect.home, Sect.sw, Sect.dlv, Sect.lnk, Sect.mgt] ⊆ sl) (h : State.Only sl s0 s) (hid st : Nat) :
    State.Only sl s0 (State.mirrorAcked s hid st) := by
  unfold State.mirrorAcked
  try dsimp only
  repeat' with_reducible first | assumption | apply State.mirrorEnd_only (Sect.sub rfl hl) | apply State.mapHome_only (Sect.sub rfl hl) | apply State.ownerRead_only (Sect.sub rfl hl) | apply State.snoop_only (Sect.sub rfl hl) | apply State.ite_only | (intro _ _ _ _) | (intro _ _ _) | (intro _; rfl) | (intro _; apply map_map_same; intro _; rfl) | (intro _; apply map_mapIf; intro _; rfl) | (refine State.fst_only (by assumption) ?_) | split | dsimp only | (intro _; split <;> rfl) | (intro _; (repeat' split) <;> rfl)

theorem State.mirrorAlone_only (hl : [Sect.out, Sect.od, Sect.mem, Sect.poison, Sect.written, Sect.home, Sect.sw, Sect.dlv, Sect.lnk, Sect.mgt] ⊆ sl) (h : State.Only sl s0 s) (hid mirror : Nat) :
    State.Only sl s0 (State.mirrorAlone s hid mirror) := by
  unfold State.mirrorAlone
  try dsimp only
  repeat' with_reducible first | assumption | apply State.dropHeld_only (Sect.sub rfl hl) | apply State.noteDegraded_only (Sect.sub rfl hl) | apply State.performAnswer_only (Sect.sub rfl hl) | apply State.ownerRead_only (Sect.sub rfl hl) | apply State.snoop_only (Sect.sub rfl hl) | apply State.ite_only | (intro _ _ _ _) | (intro _ _ _) | (intro _; rfl) | (intro _; apply map_map_same; intro _; rfl) | (intro _; apply map_mapIf; intro _; rfl) | (refine State.fst_only (by assumption) ?_) | split | dsimp only | (intro _; split <;> rfl) | (intro _; (repeat' split) <;> rfl)

theorem State.ownerAnswer_only (hl : [Sect.out, Sect.od, Sect.mem, Sect.poison, Sect.written, Sect.home, Sect.sw, Sect.dlv, Sect.lnk, Sect.mgt] ⊆ sl) (h : State.Only sl s0 s) (flag st word : Nat) :
    State.Only sl s0 (State.ownerAnswer s flag st word) := by
  unfold State.ownerAnswer
  try dsimp only
  repeat' with_reducible first | assumption | apply State.mapHome_only (Sect.sub rfl hl) | apply State.ownerRead_only (Sect.sub rfl hl) | apply State.ownerPut_only (Sect.sub rfl hl) | apply State.each_only | apply State.ownerCheck_only (Sect.sub rfl hl) | apply State.homeAnswer_only (Sect.sub rfl hl) | apply State.ite_only | (intro _ _ _ _) | (intro _ _ _) | (intro _; rfl) | (intro _; apply map_map_same; intro _; rfl) | (intro _; apply map_mapIf; intro _; rfl) | (refine State.fst_only (by assumption) ?_) | split | dsimp only | (intro _; split <;> rfl) | (intro _; (repeat' split) <;> rfl)

theorem State.clearOwners_only (hl : [Sect.home] ⊆ sl) (h : State.Only sl s0 s)  :
    State.Only sl s0 (State.clearOwners s) := by
  unfold State.clearOwners
  try dsimp only
  repeat' with_reducible first | assumption | apply State.mapHome_only (Sect.sub rfl hl) | apply State.ite_only | (intro _ _ _ _) | (intro _ _ _) | (intro _; rfl) | (intro _; apply map_map_same; intro _; rfl) | (intro _; apply map_mapIf; intro _; rfl) | (refine State.fst_only (by assumption) ?_) | split | dsimp only | (intro _; split <;> rfl) | (intro _; (repeat' split) <;> rfl)

theorem State.casReach_only (hl : [Sect.out, Sect.od, Sect.home, Sect.sw, Sect.dlv, Sect.lnk, Sect.mgt] ⊆ sl) (h : State.Only sl s0 s)  :
    State.Only sl s0 (State.casReach s) := by
  unfold State.casReach
  try dsimp only
  repeat' with_reducible first | assumption | apply State.mapHome_only (Sect.sub rfl hl) | apply State.casSettle_only (Sect.sub rfl hl) | apply State.ite_only | (intro _ _ _ _) | (intro _ _ _) | (intro _; rfl) | (intro _; apply map_map_same; intro _; rfl) | (intro _; apply map_mapIf; intro _; rfl) | (refine State.fst_only (by assumption) ?_) | split | dsimp only | (intro _; split <;> rfl) | (intro _; (repeat' split) <;> rfl)

theorem State.recallEnds_only (hl : [Sect.home] ⊆ sl) (h : State.Only sl s0 s) (line : Nat) :
    State.Only sl s0 (State.recallEnds s line) := by
  unfold State.recallEnds
  try dsimp only
  repeat' with_reducible first | assumption | apply State.mapHome_only (Sect.sub rfl hl) | apply State.ite_only | (intro _ _ _ _) | (intro _ _ _) | (intro _; rfl) | (intro _; apply map_map_same; intro _; rfl) | (intro _; apply map_mapIf; intro _; rfl) | (refine State.fst_only (by assumption) ?_) | split | dsimp only | (intro _; split <;> rfl) | (intro _; (repeat' split) <;> rfl)

theorem State.recallData_only (hl : [Sect.mem, Sect.poison, Sect.written, Sect.home] ⊆ sl) (h : State.Only sl s0 s) (line bit : Nat) (data : List Byte) :
    State.Only sl s0 (State.recallData s line bit data) := by
  unfold State.recallData
  try dsimp only
  repeat' with_reducible first | assumption | apply State.store_only (Sect.sub rfl hl) | apply State.setDir_only (Sect.sub rfl hl) | apply State.recallEnds_only (Sect.sub rfl hl) | apply State.mapHome_only (Sect.sub rfl hl) | apply State.ite_only | (intro _ _ _ _) | (intro _ _ _) | (intro _; rfl) | (intro _; apply map_map_same; intro _; rfl) | (intro _; apply map_mapIf; intro _; rfl) | (refine State.fst_only (by assumption) ?_) | split | dsimp only | (intro _; split <;> rfl) | (intro _; (repeat' split) <;> rfl)

theorem State.recallAnswer_only (hl : [Sect.mem, Sect.poison, Sect.written, Sect.home] ⊆ sl) (h : State.Only sl s0 s) (line bit : Nat) (data : List Byte) :
    State.Only sl s0 (State.recallAnswer s line bit data) := by
  unfold State.recallAnswer
  try dsimp only
  repeat' with_reducible first | assumption | apply State.mapHome_only (Sect.sub rfl hl) | apply State.recallData_only (Sect.sub rfl hl) | apply State.ite_only | (intro _ _ _ _) | (intro _ _ _) | (intro _; rfl) | (intro _; apply map_map_same; intro _; rfl) | (intro _; apply map_mapIf; intro _; rfl) | (refine State.fst_only (by assumption) ?_) | split | dsimp only | (intro _; split <;> rfl) | (intro _; (repeat' split) <;> rfl)

theorem State.recallForHost_only (hl : [Sect.out, Sect.home] ⊆ sl) (h : State.Only sl s0 s) (f : Frame) :
    State.Only sl s0 (State.recallForHost s f) := by
  unfold State.recallForHost
  try dsimp only
  repeat' with_reducible first | assumption | apply State.hold_only (Sect.sub rfl hl) | apply State.snoop_only (Sect.sub rfl hl) | apply State.fresh_only (Sect.sub rfl hl) | apply State.ite_only | (intro _ _ _ _) | (intro _ _ _) | (intro _; rfl) | (intro _; apply map_map_same; intro _; rfl) | (intro _; apply map_mapIf; intro _; rfl) | (refine State.fst_only (by assumption) ?_) | split | dsimp only | (intro _; split <;> rfl) | (intro _; (repeat' split) <;> rfl)

theorem State.snoopAnswered_only (hl : [Sect.out, Sect.od, Sect.mem, Sect.poison, Sect.written, Sect.home, Sect.sw, Sect.dlv, Sect.lnk, Sect.mgt] ⊆ sl) (h : State.Only sl s0 s) (line host : Nat) (data : List Byte) :
    State.Only sl s0 (State.snoopAnswered s line host data) := by
  unfold State.snoopAnswered
  try dsimp only
  repeat' with_reducible first | assumption | apply State.recallAnswer_only (Sect.sub rfl hl) | apply State.snoop_only (Sect.sub rfl hl) | apply State.dropHeld_only (Sect.sub rfl hl) | apply State.homeAnswer_only (Sect.sub rfl hl) | apply State.ite_only | (intro _ _ _ _) | (intro _ _ _) | (intro _; rfl) | (intro _; apply map_map_same; intro _; rfl) | (intro _; apply map_mapIf; intro _; rfl) | (refine State.fst_only (by assumption) ?_) | split | dsimp only | (intro _; split <;> rfl) | (intro _; (repeat' split) <;> rfl)

theorem State.recallLate_only (hl : [Sect.out, Sect.od, Sect.home, Sect.sw, Sect.dlv, Sect.lnk, Sect.mgt] ⊆ sl) (h : State.Only sl s0 s) (line : Nat) :
    State.Only sl s0 (State.recallLate s line) := by
  unfold State.recallLate
  try dsimp only
  repeat' with_reducible first | assumption | apply State.mapHome_only (Sect.sub rfl hl) | apply State.bump_only (Sect.sub rfl hl) | apply State.each_only | apply State.homeAnswer_only (Sect.sub rfl hl) | apply State.ite_only | (intro _ _ _ _) | (intro _ _ _) | (intro _; rfl) | (intro _; apply map_map_same; intro _; rfl) | (intro _; apply map_mapIf; intro _; rfl) | (refine State.fst_only (by assumption) ?_) | split | dsimp only | (intro _; split <;> rfl) | (intro _; (repeat' split) <;> rfl)

theorem State.loseHost_only (hl : [Sect.poison, Sect.home] ⊆ sl) (h : State.Only sl s0 s) (mid cp cause : Nat) :
    State.Only sl s0 (State.loseHost s mid cp cause) := by
  unfold State.loseHost
  try dsimp only
  repeat' with_reducible first | assumption | apply State.mapHome_only (Sect.sub rfl hl) | apply State.each_only | apply State.dirResolve_only (Sect.sub rfl hl) | apply State.recallEnds_only (Sect.sub rfl hl) | apply State.snoop_only (Sect.sub rfl hl) | apply State.ite_only | (intro _ _ _ _) | (intro _ _ _) | (intro _; rfl) | (intro _; apply map_map_same; intro _; rfl) | (intro _; apply map_mapIf; intro _; rfl) | (refine State.fst_only (by assumption) ?_) | split | dsimp only | (intro _; split <;> rfl) | (intro _; (repeat' split) <;> rfl)

theorem State.sweepEnd_only (hl : [Sect.out, Sect.od, Sect.poison, Sect.home, Sect.mgt] ⊆ sl) (h : State.Only sl s0 s) (mid cp : Nat) :
    State.Only sl s0 (State.sweepEnd s mid cp) := by
  unfold State.sweepEnd
  try dsimp only
  repeat' with_reducible first | assumption | apply State.each_only | apply State.dirResolve_only (Sect.sub rfl hl) | apply State.mapHome_only (Sect.sub rfl hl) | apply State.wr_only (Sect.sub rfl hl) | apply State.report_only (Sect.sub rfl hl) | apply State.event_only (Sect.sub rfl hl) | apply State.ite_only | (intro _ _ _ _) | (intro _ _ _) | (intro _; rfl) | (intro _; apply map_map_same; intro _; rfl) | (intro _; apply map_mapIf; intro _; rfl) | (refine State.fst_only (by assumption) ?_) | split | dsimp only | (intro _; split <;> rfl) | (intro _; (repeat' split) <;> rfl)

theorem State.hostBack_only (hl : [Sect.out, Sect.od, Sect.poison, Sect.home, Sect.mgt] ⊆ sl) (h : State.Only sl s0 s) (mid cp : Nat) :
    State.Only sl s0 (State.hostBack s mid cp) := by
  unfold State.hostBack
  try dsimp only
  repeat' with_reducible first | assumption | apply State.sweepEnd_only (Sect.sub rfl hl) | apply State.mapHome_only (Sect.sub rfl hl) | apply State.ite_only | (intro _ _ _ _) | (intro _ _ _) | (intro _; rfl) | (intro _; apply map_map_same; intro _; rfl) | (intro _; apply map_mapIf; intro _; rfl) | (refine State.fst_only (by assumption) ?_) | split | dsimp only | (intro _; split <;> rfl) | (intro _; (repeat' split) <;> rfl)

end Sys2Proof.Machine
end

