-- ==== Sys2Proof/Laws/OnlyDlvOps.lean ====
section
/-! SUPPORT. `State.Only` for every operation and meaning of Machine/DlvOps.lean: the sections that it may change. -/

namespace Sys2Proof.Machine

open Sys2Proof

set_option Elab.async false

set_option linter.unreachableTactic false
set_option linter.unusedTactic false

variable {s0 s : State} {sl : List Sect}

theorem State.dropQueued_only (hl : [Sect.out, Sect.od, Sect.sw, Sect.mgt] ⊆ sl) (h : State.Only sl s0 s) (egr : Nat) :
    State.Only sl s0 (State.dropQueued s egr) := by
  unfold State.dropQueued
  try dsimp only
  repeat' with_reducible first | assumption | apply State.each_only | apply State.setCore_only (Sect.sub rfl hl) | apply State.coreOut_only (Sect.sub rfl hl) | apply State.ite_only | (intro _ _ _ _) | (intro _ _ _) | (intro _; rfl) | (intro _; apply map_map_same; intro _; rfl) | (intro _; apply map_mapIf; intro _; rfl) | (refine State.fst_only (by assumption) ?_) | split | dsimp only | (intro _; split <;> rfl) | (intro _; (repeat' split) <;> rfl)

theorem State.endReq_only (hl : [Sect.out, Sect.od, Sect.xl, Sect.req, Sect.ep, Sect.lnk, Sect.mgt] ⊆ sl) (h : State.Only sl s0 s) (tx pi st : Nat) (tmo : Bool) :
    State.Only sl s0 (State.endReq s tx pi st tmo) := by
  unfold State.endReq
  try dsimp only
  repeat' with_reducible first | assumption | apply State.endFills_only (Sect.sub rfl hl) | apply State.partDone_only (Sect.sub rfl hl) | apply State.fetchDone_only (Sect.sub rfl hl) | apply State.ite_only | (intro _ _ _ _) | (intro _ _ _) | (intro _; rfl) | (intro _; apply map_map_same; intro _; rfl) | (intro _; apply map_mapIf; intro _; rfl) | (refine State.fst_only (by assumption) ?_) | split | dsimp only | (intro _; split <;> rfl) | (intro _; (repeat' split) <;> rfl)

theorem State.reqEnds_only (hl : [Sect.out, Sect.od, Sect.mem, Sect.poison, Sect.written, Sect.xl, Sect.req, Sect.home, Sect.ep, Sect.sw, Sect.dlv, Sect.lnk, Sect.mgt] ⊆ sl) (h : State.Only sl s0 s) (f : Frame) (loc : Option (Nat × Nat)) (st li : Nat) (data : List Byte) (answered : Bool) :
    State.Only sl s0 (State.reqEnds s f loc st li data answered) := by
  unfold State.reqEnds
  try dsimp only
  repeat' with_reducible first | assumption | apply State.mirrorAcked_only (Sect.sub rfl hl) | apply State.ownerAnswer_only (Sect.sub rfl hl) | apply State.recallAnswer_only (Sect.sub rfl hl) | apply State.respond_only (Sect.sub rfl hl) | apply State.endReq_only (Sect.sub rfl hl) | apply State.ite_only | (intro _ _ _ _) | (intro _ _ _) | (intro _; rfl) | (intro _; apply map_map_same; intro _; rfl) | (intro _; apply map_mapIf; intro _; rfl) | (refine State.fst_only (by assumption) ?_) | split | dsimp only | (intro _; split <;> rfl) | (intro _; (repeat' split) <;> rfl)

theorem State.rspIn_only (hl : [Sect.out, Sect.od, Sect.mem, Sect.poison, Sect.written, Sect.xl, Sect.req, Sect.home, Sect.ep, Sect.stn, Sect.sw, Sect.dlv, Sect.lnk, Sect.mgt] ⊆ sl) (h : State.Only sl s0 s) (f : Frame) :
    State.Only sl s0 (State.rspIn s f) := by
  unfold State.rspIn
  try dsimp only
  repeat' with_reducible first | assumption | apply State.closeOpen_only (Sect.sub rfl hl) | apply State.reqEnds_only (Sect.sub rfl hl) | apply State.settleFlows_only (Sect.sub rfl hl) | apply State.ite_only | (intro _ _ _ _) | (intro _ _ _) | (intro _; rfl) | (intro _; apply map_map_same; intro _; rfl) | (intro _; apply map_mapIf; intro _; rfl) | (refine State.fst_only (by assumption) ?_) | split | dsimp only | (intro _; split <;> rfl) | (intro _; (repeat' split) <;> rfl)

theorem State.acked_only (hl : [Sect.out, Sect.od, Sect.home, Sect.sw, Sect.dlv, Sect.lnk, Sect.mgt] ⊆ sl) (h : State.Only sl s0 s) (d : Nat) (seqs : List Nat) :
    State.Only sl s0 (State.acked s d seqs) := by
  unfold State.acked
  try dsimp only
  repeat' with_reducible first | assumption | apply State.each_only | apply State.setOpen_only (Sect.sub rfl hl) | apply State.closeOpen_only (Sect.sub rfl hl) | apply State.casAck_only (Sect.sub rfl hl) | apply State.ite_only | (intro _ _ _ _) | (intro _ _ _) | (intro _; rfl) | (intro _; apply map_map_same; intro _; rfl) | (intro _; apply map_mapIf; intro _; rfl) | (refine State.fst_only (by assumption) ?_) | split | dsimp only | (intro _; split <;> rfl) | (intro _; (repeat' split) <;> rfl)

theorem State.exhausted_only (hl : [Sect.out, Sect.od, Sect.mem, Sect.poison, Sect.written, Sect.xl, Sect.req, Sect.home, Sect.ep, Sect.stn, Sect.sw, Sect.dlv, Sect.lnk, Sect.mgt] ⊆ sl) (h : State.Only sl s0 s) (o : OpenFrame) :
    State.Only sl s0 (State.exhausted s o) := by
  unfold State.exhausted
  try dsimp only
  repeat' with_reducible first | assumption | apply State.bump_only (Sect.sub rfl hl) | apply State.closeOpen_only (Sect.sub rfl hl) | apply State.reqEnds_only (Sect.sub rfl hl) | apply State.settleFlows_only (Sect.sub rfl hl) | apply State.failFlow_only (Sect.sub rfl hl) | apply State.sendSeq_only (Sect.sub rfl hl) | apply State.resend_only (Sect.sub rfl hl) | apply State.ite_only | (intro _ _ _ _) | (intro _ _ _) | (intro _; rfl) | (intro _; apply map_map_same; intro _; rfl) | (intro _; apply map_mapIf; intro _; rfl) | (refine State.fst_only (by assumption) ?_) | split | dsimp only | (intro _; split <;> rfl) | (intro _; (repeat' split) <;> rfl)

theorem State.attemptFails_only (hl : [Sect.out, Sect.od, Sect.mem, Sect.poison, Sect.written, Sect.xl, Sect.req, Sect.home, Sect.ep, Sect.stn, Sect.sw, Sect.dlv, Sect.lnk, Sect.mgt] ⊆ sl) (h : State.Only sl s0 s) (o : OpenFrame) :
    State.Only sl s0 (State.attemptFails s o) := by
  unfold State.attemptFails
  try dsimp only
  repeat' with_reducible first | assumption | apply State.exhausted_only (Sect.sub rfl hl) | apply State.resend_only (Sect.sub rfl hl) | apply State.ite_only | (intro _ _ _ _) | (intro _ _ _) | (intro _; rfl) | (intro _; apply map_map_same; intro _; rfl) | (intro _; apply map_mapIf; intro _; rfl) | (refine State.fst_only (by assumption) ?_) | split | dsimp only | (intro _; split <;> rfl) | (intro _; (repeat' split) <;> rfl)

theorem State.setSent_only (hl : [Sect.req] ⊆ sl) (h : State.Only sl s0 s) (tid pi mid : Nat) :
    State.Only sl s0 (State.setSent s tid pi mid) := by
  unfold State.setSent
  try dsimp only
  repeat' with_reducible first | assumption | apply State.setTx_only (Sect.sub rfl hl) | apply State.ite_only | (intro _ _ _ _) | (intro _ _ _) | (intro _; rfl) | (intro _; apply map_map_same; intro _; rfl) | (intro _; apply map_mapIf; intro _; rfl) | (refine State.fst_only (by assumption) ?_) | split | dsimp only | (intro _; split <;> rfl) | (intro _; (repeat' split) <;> rfl)

theorem State.loseReq_only (hl : [Sect.out, Sect.od, Sect.mem, Sect.poison, Sect.written, Sect.xl, Sect.req, Sect.home, Sect.ep, Sect.sw, Sect.dlv, Sect.lnk, Sect.mgt] ⊆ sl) (h : State.Only sl s0 s) (o : OpenFrame) (waited : Bool) :
    State.Only sl s0 (State.loseReq s o waited).1 := by
  unfold State.loseReq
  try dsimp only
  repeat' with_reducible first | assumption | apply State.mirrorAlone_only (Sect.sub rfl hl) | apply State.ownerAnswer_only (Sect.sub rfl hl) | apply State.sendSeq_only (Sect.sub rfl hl) | apply State.endReq_only (Sect.sub rfl hl) | apply State.setSent_only (Sect.sub rfl hl) | apply State.sourceFrame_only (Sect.sub rfl hl) | apply State.ite_only | (intro _ _ _ _) | (intro _ _ _) | (intro _; rfl) | (intro _; apply map_map_same; intro _; rfl) | (intro _; apply map_mapIf; intro _; rfl) | (refine State.fst_only (by assumption) ?_) | split | dsimp only | (intro _; split <;> rfl) | (intro _; (repeat' split) <;> rfl)

theorem State.releaseRetries_only (hl : [Sect.home] ⊆ sl) (h : State.Only sl s0 s) (h : Nat) :
    State.Only sl s0 (State.releaseRetries s h) := by
  unfold State.releaseRetries
  try dsimp only
  repeat' with_reducible first | assumption | apply State.mapHome_only (Sect.sub rfl hl) | apply State.ite_only | (intro _ _ _ _) | (intro _ _ _) | (intro _; rfl) | (intro _; apply map_map_same; intro _; rfl) | (intro _; apply map_mapIf; intro _; rfl) | (refine State.fst_only (by assumption) ?_) | split | dsimp only | (intro _; split <;> rfl) | (intro _; (repeat' split) <;> rfl)

theorem State.shadowRestart_only (hl : [Sect.od, Sect.shd] ⊆ sl) (h : State.Only sl s0 s) (partner : Nat) :
    State.Only sl s0 (State.shadowRestart s partner) := by
  unfold State.shadowRestart
  try dsimp only
  repeat' with_reducible first | assumption | apply State.mapShd_only (Sect.sub rfl hl) | apply State.wr_only (Sect.sub rfl hl) | apply State.ite_only | (intro _ _ _ _) | (intro _ _ _) | (intro _; rfl) | (intro _; apply map_map_same; intro _; rfl) | (intro _; apply map_mapIf; intro _; rfl) | (refine State.fst_only (by assumption) ?_) | split | dsimp only | (intro _; split <;> rfl) | (intro _; (repeat' split) <;> rfl)

theorem State.declareLost_only (hl : [Sect.out, Sect.od, Sect.mem, Sect.poison, Sect.written, Sect.xl, Sect.req, Sect.home, Sect.ep, Sect.stn, Sect.sw, Sect.dlv, Sect.lnk, Sect.mgt, Sect.shd] ⊆ sl) (h : State.Only sl s0 s) (d : Nat) :
    State.Only sl s0 (State.declareLost s d) := by
  unfold State.declareLost
  try dsimp only
  repeat' with_reducible first | assumption | apply State.foldlPair_only | apply State.foldl_only | apply State.wr_only (Sect.sub rfl hl) | apply State.setPeer_only (Sect.sub rfl hl) | apply State.loseReq_only (Sect.sub rfl hl) | apply State.casAck_only (Sect.sub rfl hl) | apply State.releaseRetries_only (Sect.sub rfl hl) | apply State.bump_only (Sect.sub rfl hl) | apply State.event_only (Sect.sub rfl hl) | apply State.logFault_only (Sect.sub rfl hl) | apply State.each_only | apply State.loseHost_only (Sect.sub rfl hl) | apply State.shadowRestart_only (Sect.sub rfl hl) | apply State.loseModule_only (Sect.sub rfl hl) | apply State.settleFlows_only (Sect.sub rfl hl) | apply State.ite_only | (intro _ _ _ _) | (intro _ _ _) | (intro _; rfl) | (intro _; apply map_map_same; intro _; rfl) | (intro _; apply map_mapIf; intro _; rfl) | (refine State.fst_only (by assumption) ?_) | split | dsimp only | (intro _; split <;> rfl) | (intro _; (repeat' split) <;> rfl)

theorem State.judgePeer_only (hl : [Sect.out, Sect.od, Sect.mem, Sect.poison, Sect.written, Sect.xl, Sect.req, Sect.home, Sect.ep, Sect.stn, Sect.sw, Sect.dlv, Sect.lnk, Sect.mgt, Sect.shd] ⊆ sl) (h : State.Only sl s0 s) (d : Nat) :
    State.Only sl s0 (State.judgePeer s d) := by
  unfold State.judgePeer
  try dsimp only
  repeat' with_reducible first | assumption | apply State.declareLost_only (Sect.sub rfl hl) | apply State.ite_only | (intro _ _ _ _) | (intro _ _ _) | (intro _; rfl) | (intro _; apply map_map_same; intro _; rfl) | (intro _; apply map_mapIf; intro _; rfl) | (refine State.fst_only (by assumption) ?_) | split | dsimp only | (intro _; split <;> rfl) | (intro _; (repeat' split) <;> rfl)

theorem State.maskLink_only (hl : [Sect.out, Sect.od, Sect.mem, Sect.poison, Sect.written, Sect.xl, Sect.req, Sect.home, Sect.ep, Sect.stn, Sect.sw, Sect.dlv, Sect.lnk, Sect.mgt, Sect.shd] ⊆ sl) (h : State.Only sl s0 s) (d cause : Nat) :
    State.Only sl s0 (State.maskLink s d cause) := by
  unfold State.maskLink
  try dsimp only
  repeat' with_reducible first | assumption | apply State.wr_only (Sect.sub rfl hl) | apply State.setPeer_only (Sect.sub rfl hl) | apply State.dropQueued_only (Sect.sub rfl hl) | apply State.logFault_only (Sect.sub rfl hl) | apply State.each_only | apply State.attemptFails_only (Sect.sub rfl hl) | apply State.notices_only (Sect.sub rfl hl) | apply State.loseModule_only (Sect.sub rfl hl) | apply State.casReach_only (Sect.sub rfl hl) | apply State.judgePeer_only (Sect.sub rfl hl) | apply State.ite_only | (intro _ _ _ _) | (intro _ _ _) | (intro _; rfl) | (intro _; apply map_map_same; intro _; rfl) | (intro _; apply map_mapIf; intro _; rfl) | (refine State.fst_only (by assumption) ?_) | split | dsimp only | (intro _; split <;> rfl) | (intro _; (repeat' split) <;> rfl)

theorem State.unmaskLink_only (hl : [Sect.out, Sect.od, Sect.home, Sect.sw, Sect.mgt] ⊆ sl) (h : State.Only sl s0 s) (d : Nat) :
    State.Only sl s0 (State.unmaskLink s d) := by
  unfold State.unmaskLink
  try dsimp only
  repeat' with_reducible first | assumption | apply State.wr_only (Sect.sub rfl hl) | apply State.clearOwners_only (Sect.sub rfl hl) | apply State.notices_only (Sect.sub rfl hl) | apply State.ite_only | (intro _ _ _ _) | (intro _ _ _) | (intro _; rfl) | (intro _; apply map_map_same; intro _; rfl) | (intro _; apply map_mapIf; intro _; rfl) | (refine State.fst_only (by assumption) ?_) | split | dsimp only | (intro _; split <;> rfl) | (intro _; (repeat' split) <;> rfl)

theorem State.adopt_only (hl : [Sect.dlv] ⊆ sl) (h : State.Only sl s0 s) (d epoch nextSeq : Nat) :
    State.Only sl s0 (State.adopt s d epoch nextSeq) := by
  unfold State.adopt
  try dsimp only
  repeat' with_reducible first | assumption | apply State.setPeer_only (Sect.sub rfl hl) | apply State.ite_only | (intro _ _ _ _) | (intro _ _ _) | (intro _; rfl) | (intro _; apply map_map_same; intro _; rfl) | (intro _; apply map_mapIf; intro _; rfl) | (refine State.fst_only (by assumption) ?_) | split | dsimp only | (intro _; split <;> rfl) | (intro _; (repeat' split) <;> rfl)

theorem State.takeGen_only (hl : [Sect.od] ⊆ sl) (h : State.Only sl s0 s) (peerState gen : Nat) :
    State.Only sl s0 (State.takeGen s peerState gen) := by
  unfold State.takeGen
  try dsimp only
  repeat' with_reducible first | assumption | apply State.wr_only (Sect.sub rfl hl) | apply State.ite_only | (intro _ _ _ _) | (intro _ _ _) | (intro _; rfl) | (intro _; apply map_map_same; intro _; rfl) | (intro _; apply map_mapIf; intro _; rfl) | (refine State.fst_only (by assumption) ?_) | split | dsimp only | (intro _; split <;> rfl) | (intro _; (repeat' split) <;> rfl)

theorem State.peerReturns_only (hl : [Sect.od, Sect.home] ⊆ sl) (h : State.Only sl s0 s) (d : Nat) :
    State.Only sl s0 (State.peerReturns s d) := by
  unfold State.peerReturns
  try dsimp only
  repeat' with_reducible first | assumption | apply State.wr_only (Sect.sub rfl hl) | apply State.mapHome_only (Sect.sub rfl hl) | apply State.ite_only | (intro _ _ _ _) | (intro _ _ _) | (intro _; rfl) | (intro _; apply map_map_same; intro _; rfl) | (intro _; apply map_mapIf; intro _; rfl) | (refine State.fst_only (by assumption) ?_) | split | dsimp only | (intro _; split <;> rfl) | (intro _; (repeat' split) <;> rfl)

theorem State.peerStateIs_only (hl : [Sect.od, Sect.dlv, Sect.shd] ⊆ sl) (h : State.Only sl s0 s) (d st : Nat) :
    State.Only sl s0 (State.peerStateIs s d st) := by
  unfold State.peerStateIs
  try dsimp only
  repeat' with_reducible first | assumption | apply State.setPeer_only (Sect.sub rfl hl) | apply State.wr_only (Sect.sub rfl hl) | apply State.shadowRestart_only (Sect.sub rfl hl) | apply State.ite_only | (intro _ _ _ _) | (intro _ _ _) | (intro _; rfl) | (intro _; apply map_map_same; intro _; rfl) | (intro _; apply map_mapIf; intro _; rfl) | (refine State.fst_only (by assumption) ?_) | split | dsimp only | (intro _; split <;> rfl) | (intro _; (repeat' split) <;> rfl)

theorem State.noticeIn_only (hl : [Sect.out, Sect.od, Sect.mem, Sect.poison, Sect.written, Sect.xl, Sect.req, Sect.home, Sect.ep, Sect.stn, Sect.sw, Sect.dlv, Sect.lnk, Sect.mgt, Sect.shd] ⊆ sl) (h : State.Only sl s0 s) (n : Notice) :
    State.Only sl s0 (State.noticeIn s n) := by
  unfold State.noticeIn
  try dsimp only
  repeat' with_reducible first | assumption | apply State.setPeer_only (Sect.sub rfl hl) | apply State.peerStateIs_only (Sect.sub rfl hl) | apply State.takeGen_only (Sect.sub rfl hl) | apply State.adopt_only (Sect.sub rfl hl) | apply State.peerReturns_only (Sect.sub rfl hl) | apply State.each_only | apply State.judgePeer_only (Sect.sub rfl hl) | apply State.casReach_only (Sect.sub rfl hl) | apply State.ite_only | (intro _ _ _ _) | (intro _ _ _) | (intro _; rfl) | (intro _; apply map_map_same; intro _; rfl) | (intro _; apply map_mapIf; intro _; rfl) | (refine State.fst_only (by assumption) ?_) | split | dsimp only | (intro _; split <;> rfl) | (intro _; (repeat' split) <;> rfl)

theorem State.winAdd_only (hl : [Sect.dlv] ⊆ sl) (h : State.Only sl s0 s) (f : Frame) (done : Bool) :
    State.Only sl s0 (State.winAdd s f done) := by
  unfold State.winAdd
  try dsimp only
  repeat' with_reducible first | assumption | apply State.setPeer_only (Sect.sub rfl hl) | apply State.ite_only | (intro _ _ _ _) | (intro _ _ _) | (intro _; rfl) | (intro _; apply map_map_same; intro _; rfl) | (intro _; apply map_mapIf; intro _; rfl) | (refine State.fst_only (by assumption) ?_) | split | dsimp only | (intro _; split <;> rfl) | (intro _; (repeat' split) <;> rfl)

end Sys2Proof.Machine
end

