-- ==== Sys2Proof/Laws/OnlyTimeOps.lean ====
section
/-! SUPPORT. `State.Only` for every operation and meaning of Machine/TimeOps.lean: the sections that it may change. -/

namespace Sys2Proof.Machine

open Sys2Proof

set_option Elab.async false

set_option linter.unreachableTactic false
set_option linter.unusedTactic false

variable {s0 s : State} {sl : List Sect}

theorem State.setGate_only (hl : [Sect.slu] ⊆ sl) (h : State.Only sl s0 s) (i : Nat) (g : Gate → Gate) :
    State.Only sl s0 (State.setGate s i g) := by
  unfold State.setGate
  try dsimp only
  repeat' with_reducible first | assumption | apply State.mapSlu_only (Sect.sub rfl hl) | apply State.ite_only | (intro _ _ _ _) | (intro _ _ _) | (intro _; rfl) | (intro _; apply map_map_same; intro _; rfl) | (intro _; apply map_mapIf; intro _; rfl) | (refine State.fst_only (by assumption) ?_) | split | dsimp only | (intro _; split <;> rfl) | (intro _; (repeat' split) <;> rfl)

theorem State.closeGate_only (hl : [Sect.out, Sect.od, Sect.xl, Sect.req, Sect.home, Sect.ep, Sect.stn, Sect.sw, Sect.dlv, Sect.lnk, Sect.slu, Sect.mgt] ⊆ sl) (h : State.Only sl s0 s) (i : Nat) :
    State.Only sl s0 (State.closeGate s i) := by
  unfold State.closeGate
  try dsimp only
  repeat' with_reducible first | assumption | apply State.setGate_only (Sect.sub rfl hl) | apply State.overrun_only (Sect.sub rfl hl) | apply State.ite_only | (intro _ _ _ _) | (intro _ _ _) | (intro _; rfl) | (intro _; apply map_map_same; intro _; rfl) | (intro _; apply map_mapIf; intro _; rfl) | (refine State.fst_only (by assumption) ?_) | split | dsimp only | (intro _; split <;> rfl) | (intro _; (repeat' split) <;> rfl)

theorem State.freshGates_only (hl : [Sect.slu] ⊆ sl) (h : State.Only sl s0 s) (pid flow : Nat) :
    State.Only sl s0 (State.freshGates s pid flow) := by
  unfold State.freshGates
  try dsimp only
  repeat' with_reducible first | assumption | apply State.mapSlu_only (Sect.sub rfl hl) | apply State.fresh_only (Sect.sub rfl hl) | apply State.ite_only | (intro _ _ _ _) | (intro _ _ _) | (intro _; rfl) | (intro _; apply map_map_same; intro _; rfl) | (intro _; apply map_mapIf; intro _; rfl) | (refine State.fst_only (by assumption) ?_) | split | dsimp only | (intro _; split <;> rfl) | (intro _; (repeat' split) <;> rfl)

theorem State.setLock_only (hl : [Sect.out, Sect.od, Sect.mgt] ⊆ sl) (h : State.Only sl s0 s) (v : Nat) :
    State.Only sl s0 (State.setLock s v) := by
  unfold State.setLock
  try dsimp only
  repeat' with_reducible first | assumption | apply State.wr_only (Sect.sub rfl hl) | apply State.event_only (Sect.sub rfl hl) | apply State.ite_only | (intro _ _ _ _) | (intro _ _ _) | (intro _; rfl) | (intro _; apply map_map_same; intro _; rfl) | (intro _; apply map_mapIf; intro _; rfl) | (refine State.fst_only (by assumption) ?_) | split | dsimp only | (intro _; split <;> rfl) | (intro _; (repeat' split) <;> rfl)

theorem State.loseLock_only (hl : [Sect.out, Sect.od, Sect.xl, Sect.req, Sect.home, Sect.ep, Sect.stn, Sect.sw, Sect.dlv, Sect.lnk, Sect.tim, Sect.slu, Sect.mgt, Sect.shd] ⊆ sl) (h : State.Only sl s0 s)  :
    State.Only sl s0 (State.loseLock s) := by
  unfold State.loseLock
  try dsimp only
  repeat' with_reducible first | assumption | apply State.setLock_only (Sect.sub rfl hl) | apply State.bump_only (Sect.sub rfl hl) | apply State.mapTim_only (Sect.sub rfl hl) | apply State.each_only | apply State.closeGate_only (Sect.sub rfl hl) | apply State.failFlow_only (Sect.sub rfl hl) | apply State.overrun_only (Sect.sub rfl hl) | apply State.shadowRestart_only (Sect.sub rfl hl) | apply State.ite_only | (intro _ _ _ _) | (intro _ _ _) | (intro _; rfl) | (intro _; apply map_map_same; intro _; rfl) | (intro _; apply map_mapIf; intro _; rfl) | (refine State.fst_only (by assumption) ?_) | split | dsimp only | (intro _; split <;> rfl) | (intro _; (repeat' split) <;> rfl)

theorem State.judgeLock_only (hl : [Sect.out, Sect.od, Sect.xl, Sect.req, Sect.home, Sect.ep, Sect.stn, Sect.sw, Sect.dlv, Sect.lnk, Sect.tim, Sect.slu, Sect.mgt, Sect.shd] ⊆ sl) (h : State.Only sl s0 s)  :
    State.Only sl s0 (State.judgeLock s) := by
  unfold State.judgeLock
  try dsimp only
  repeat' with_reducible first | assumption | apply State.loseLock_only (Sect.sub rfl hl) | apply State.ite_only | (intro _ _ _ _) | (intro _ _ _) | (intro _; rfl) | (intro _; apply map_map_same; intro _; rfl) | (intro _; apply map_mapIf; intro _; rfl) | (refine State.fst_only (by assumption) ?_) | split | dsimp only | (intro _; split <;> rfl) | (intro _; (repeat' split) <;> rfl)

theorem State.acquire_only (hl : [Sect.out, Sect.od, Sect.tim, Sect.mgt] ⊆ sl) (h : State.Only sl s0 s)  :
    State.Only sl s0 (State.acquire s) := by
  unfold State.acquire
  try dsimp only
  repeat' with_reducible first | assumption | apply State.setLock_only (Sect.sub rfl hl) | apply State.mapTim_only (Sect.sub rfl hl) | apply State.ite_only | (intro _ _ _ _) | (intro _ _ _) | (intro _; rfl) | (intro _; apply map_map_same; intro _; rfl) | (intro _; apply map_mapIf; intro _; rfl) | (refine State.fst_only (by assumption) ?_) | split | dsimp only | (intro _; split <;> rfl) | (intro _; (repeat' split) <;> rfl)

theorem State.portMasked_only (hl : [Sect.out, Sect.od, Sect.mem, Sect.poison, Sect.written, Sect.xl, Sect.req, Sect.home, Sect.ep, Sect.stn, Sect.sw, Sect.dlv, Sect.lnk, Sect.tim, Sect.slu, Sect.mgt, Sect.shd] ⊆ sl) (h : State.Only sl s0 s) (p cause : Nat) :
    State.Only sl s0 (State.portMasked s p cause) := by
  unfold State.portMasked
  try dsimp only
  repeat' with_reducible first | assumption | apply State.maskLink_only (Sect.sub rfl hl) | apply State.judgeLock_only (Sect.sub rfl hl) | apply State.settleFlows_only (Sect.sub rfl hl) | apply State.ite_only | (intro _ _ _ _) | (intro _ _ _) | (intro _; rfl) | (intro _; apply map_map_same; intro _; rfl) | (intro _; apply map_mapIf; intro _; rfl) | (refine State.fst_only (by assumption) ?_) | split | dsimp only | (intro _; split <;> rfl) | (intro _; (repeat' split) <;> rfl)

end Sys2Proof.Machine
end

