-- ==== Sys2Proof/Laws/OnlyDark.lean ====
section
/-! SUPPORT. `State.Only` for every operation and meaning of Machine/Dark.lean: the sections that it may change. -/

namespace Sys2Proof.Machine

open Sys2Proof

set_option Elab.async false

set_option linter.unreachableTactic false
set_option linter.unusedTactic false

variable {s0 s : State} {sl : List Sect}

theorem State.fpDown_only (hl : [Sect.out, Sect.od, Sect.mem, Sect.poison, Sect.written, Sect.xl, Sect.req, Sect.home, Sect.ep, Sect.stn, Sect.sw, Sect.dlv, Sect.lnk, Sect.tim, Sect.slu, Sect.mgt, Sect.shd] ⊆ sl) (h : State.Only sl s0 s) (n code cause : Nat) (laser : Bool) :
    State.Only sl s0 (State.fpDown s n code cause laser) := by
  unfold State.fpDown
  try dsimp only
  repeat' with_reducible first | assumption | apply State.wr_only (Sect.sub rfl hl) | apply State.setFp_only (Sect.sub rfl hl) | apply State.portMasked_only (Sect.sub rfl hl) | apply State.ite_only | (intro _ _ _ _) | (intro _ _ _) | (intro _; rfl) | (intro _; apply map_map_same; intro _; rfl) | (intro _; apply map_mapIf; intro _; rfl) | (refine State.fst_only (by assumption) ?_) | split | dsimp only | (intro _; split <;> rfl) | (intro _; (repeat' split) <;> rfl)

theorem State.detachCtx_only (hl : [Sect.out, Sect.od, Sect.xl, Sect.req, Sect.home, Sect.ep, Sect.stn, Sect.sw, Sect.dlv, Sect.lnk, Sect.mgt] ⊆ sl) (h : State.Only sl s0 s) (ep n : Nat) :
    State.Only sl s0 (State.detachCtx s ep n) := by
  unfold State.detachCtx
  try dsimp only
  repeat' with_reducible first | assumption | apply State.setCtx_only (Sect.sub rfl hl) | apply State.mapEp_only (Sect.sub rfl hl) | apply State.each_only | apply State.haltTx_only (Sect.sub rfl hl) | apply State.failFlow_only (Sect.sub rfl hl) | apply State.ite_only | (intro _ _ _ _) | (intro _ _ _) | (intro _; rfl) | (intro _; apply map_map_same; intro _; rfl) | (intro _; apply map_mapIf; intro _; rfl) | (refine State.fst_only (by assumption) ?_) | split | dsimp only | (intro _; split <;> rfl) | (intro _; (repeat' split) <;> rfl)

theorem State.startApQual_only (hl : [Sect.lnk] ⊆ sl) (h : State.Only sl s0 s) (b : Nat) :
    State.Only sl s0 (State.startApQual s b) := by
  unfold State.startApQual
  try dsimp only
  repeat' with_reducible first | assumption | apply State.setAp_only (Sect.sub rfl hl) | apply State.ite_only | (intro _ _ _ _) | (intro _ _ _) | (intro _; rfl) | (intro _; apply map_map_same; intro _; rfl) | (intro _; apply map_mapIf; intro _; rfl) | (refine State.fst_only (by assumption) ?_) | split | dsimp only | (intro _; split <;> rfl) | (intro _; (repeat' split) <;> rfl)

theorem State.apQualDue_only (hl : [Sect.lnk] ⊆ sl) (h : State.Only sl s0 s) (b : Nat) :
    State.Only sl s0 (State.apQualDue s b) := by
  unfold State.apQualDue
  try dsimp only
  repeat' with_reducible first | assumption | apply State.startApQual_only (Sect.sub rfl hl) | apply State.ite_only | (intro _ _ _ _) | (intro _ _ _) | (intro _; rfl) | (intro _; apply map_map_same; intro _; rfl) | (intro _; apply map_mapIf; intro _; rfl) | (refine State.fst_only (by assumption) ?_) | split | dsimp only | (intro _; split <;> rfl) | (intro _; (repeat' split) <;> rfl)

theorem State.apDown_only (hl : [Sect.out, Sect.od, Sect.xl, Sect.req, Sect.home, Sect.ep, Sect.stn, Sect.sw, Sect.dlv, Sect.lnk, Sect.mgt] ⊆ sl) (h : State.Only sl s0 s) (b code : Nat) :
    State.Only sl s0 (State.apDown s b code) := by
  unfold State.apDown
  try dsimp only
  repeat' with_reducible first | assumption | apply State.each_only | apply State.wr_only (Sect.sub rfl hl) | apply State.setAp_only (Sect.sub rfl hl) | apply State.logFault_only (Sect.sub rfl hl) | apply State.detachCtx_only (Sect.sub rfl hl) | apply State.ite_only | (intro _ _ _ _) | (intro _ _ _) | (intro _; rfl) | (intro _; apply map_map_same; intro _; rfl) | (intro _; apply map_mapIf; intro _; rfl) | (refine State.fst_only (by assumption) ?_) | split | dsimp only | (intro _; split <;> rfl) | (intro _; (repeat' split) <;> rfl)

theorem State.cpDown_only (hl : [Sect.od, Sect.poison, Sect.home, Sect.lnk, Sect.mgt] ⊆ sl) (h : State.Only sl s0 s) (c : Nat) :
    State.Only sl s0 (State.cpDown s c) := by
  unfold State.cpDown
  try dsimp only
  repeat' with_reducible first | assumption | apply State.setCp_only (Sect.sub rfl hl) | apply State.wr_only (Sect.sub rfl hl) | apply State.logFault_only (Sect.sub rfl hl) | apply State.loseHost_only (Sect.sub rfl hl) | apply State.ite_only | (intro _ _ _ _) | (intro _ _ _) | (intro _; rfl) | (intro _; apply map_map_same; intro _; rfl) | (intro _; apply map_mapIf; intro _; rfl) | (refine State.fst_only (by assumption) ?_) | split | dsimp only | (intro _; split <;> rfl) | (intro _; (repeat' split) <;> rfl)

theorem State.attachDark_only (hl : [Sect.out, Sect.od, Sect.poison, Sect.xl, Sect.req, Sect.home, Sect.ep, Sect.stn, Sect.sw, Sect.dlv, Sect.lnk, Sect.mgt] ⊆ sl) (h : State.Only sl s0 s)  :
    State.Only sl s0 (State.attachDark s) := by
  unfold State.attachDark
  try dsimp only
  repeat' with_reducible first | assumption | apply State.each_only | apply State.apDown_only (Sect.sub rfl hl) | apply State.cpDown_only (Sect.sub rfl hl) | apply State.ite_only | (intro _ _ _ _) | (intro _ _ _) | (intro _; rfl) | (intro _; apply map_map_same; intro _; rfl) | (intro _; apply map_mapIf; intro _; rfl) | (refine State.fst_only (by assumption) ?_) | split | dsimp only | (intro _; split <;> rfl) | (intro _; (repeat' split) <;> rfl)

theorem State.fabricDark_only (hl : [Sect.out, Sect.od, Sect.mem, Sect.poison, Sect.written, Sect.xl, Sect.req, Sect.home, Sect.ep, Sect.stn, Sect.sw, Sect.dlv, Sect.lnk, Sect.tim, Sect.slu, Sect.mgt, Sect.shd] ⊆ sl) (h : State.Only sl s0 s)  :
    State.Only sl s0 (State.fabricDark s) := by
  unfold State.fabricDark
  try dsimp only
  repeat' with_reducible first | assumption | apply State.each_only | apply State.fpDown_only (Sect.sub rfl hl) | apply State.ite_only | (intro _ _ _ _) | (intro _ _ _) | (intro _; rfl) | (intro _; apply map_map_same; intro _; rfl) | (intro _; apply map_mapIf; intro _; rfl) | (refine State.fst_only (by assumption) ?_) | split | dsimp only | (intro _; split <;> rfl) | (intro _; (repeat' split) <;> rfl)

theorem State.enterFailed_only (hl : [Sect.out, Sect.life, Sect.od, Sect.mem, Sect.poison, Sect.written, Sect.xl, Sect.req, Sect.home, Sect.ep, Sect.stn, Sect.sw, Sect.dlv, Sect.lnk, Sect.tim, Sect.slu, Sect.mgt, Sect.shd] ⊆ sl) (h : State.Only sl s0 s) (kind unit : Nat) :
    State.Only sl s0 (State.enterFailed s kind unit) := by
  unfold State.enterFailed
  try dsimp only
  repeat' with_reducible first | assumption | apply State.logFault_only (Sect.sub rfl hl) | apply State.enter_only (Sect.sub rfl hl) | apply State.mapLife_only (Sect.sub rfl hl) | apply State.fabricDark_only (Sect.sub rfl hl) | apply State.attachDark_only (Sect.sub rfl hl) | apply State.ite_only | (intro _ _ _ _) | (intro _ _ _) | (intro _; rfl) | (intro _; apply map_map_same; intro _; rfl) | (intro _; apply map_mapIf; intro _; rfl) | (refine State.fst_only (by assumption) ?_) | split | dsimp only | (intro _; split <;> rfl) | (intro _; (repeat' split) <;> rfl)

theorem State.settleCells_only (hl : [Sect.out, Sect.life, Sect.od, Sect.mem, Sect.poison, Sect.written, Sect.xl, Sect.req, Sect.home, Sect.ep, Sect.stn, Sect.sw, Sect.dlv, Sect.lnk, Sect.tim, Sect.slu, Sect.mgt, Sect.shd] ⊆ sl) (h : State.Only sl s0 s)  :
    State.Only sl s0 (State.settleCells s) := by
  unfold State.settleCells
  try dsimp only
  repeat' with_reducible first | assumption | apply State.enterFailed_only (Sect.sub rfl hl) | apply State.ite_only | (intro _ _ _ _) | (intro _ _ _) | (intro _; rfl) | (intro _; apply map_map_same; intro _; rfl) | (intro _; apply map_mapIf; intro _; rfl) | (refine State.fst_only (by assumption) ?_) | split | dsimp only | (intro _; split <;> rfl) | (intro _; (repeat' split) <;> rfl)

theorem State.settleShadow_only (hl : [Sect.out, Sect.life, Sect.od, Sect.mem, Sect.poison, Sect.written, Sect.xl, Sect.req, Sect.home, Sect.ep, Sect.stn, Sect.sw, Sect.dlv, Sect.lnk, Sect.tim, Sect.slu, Sect.mgt, Sect.shd] ⊆ sl) (h : State.Only sl s0 s)  :
    State.Only sl s0 (State.settleShadow s) := by
  unfold State.settleShadow
  try dsimp only
  repeat' with_reducible first | assumption | apply State.enterFailed_only (Sect.sub rfl hl) | apply State.ite_only | (intro _ _ _ _) | (intro _ _ _) | (intro _; rfl) | (intro _; apply map_map_same; intro _; rfl) | (intro _; apply map_mapIf; intro _; rfl) | (refine State.fst_only (by assumption) ?_) | split | dsimp only | (intro _; split <;> rfl) | (intro _; (repeat' split) <;> rfl)

theorem State.dieFails_only (hl : [Sect.out, Sect.od, Sect.xl, Sect.req, Sect.home, Sect.ep, Sect.stn, Sect.sw, Sect.dlv, Sect.lnk, Sect.mgt] ⊆ sl) (h : State.Only sl s0 s) (sd st : Nat) :
    State.Only sl s0 (State.dieFails s sd st) := by
  unfold State.dieFails
  try dsimp only
  repeat' with_reducible first | assumption | apply State.each_only | apply State.failStation_only (Sect.sub rfl hl) | apply State.mapStn_only (Sect.sub rfl hl) | apply State.wr_only (Sect.sub rfl hl) | apply State.ite_only | (intro _ _ _ _) | (intro _ _ _) | (intro _; rfl) | (intro _; apply map_map_same; intro _; rfl) | (intro _; apply map_mapIf; intro _; rfl) | (refine State.fst_only (by assumption) ?_) | split | dsimp only | (intro _; split <;> rfl) | (intro _; (repeat' split) <;> rfl)

end Sys2Proof.Machine
end

