-- ==== Sys2Proof/Laws/OnlyEpOps.lean ====
section
/-! SUPPORT. `State.Only` for every operation and meaning of Machine/EpOps.lean: the sections that it may change. -/

namespace Sys2Proof.Machine

open Sys2Proof

set_option Elab.async false

set_option linter.unreachableTactic false
set_option linter.unusedTactic false

variable {s0 s : State} {sl : List Sect}

theorem State.rackBack_only (hl : [Sect.out, Sect.od, Sect.xl, Sect.req, Sect.home, Sect.ep, Sect.sw, Sect.dlv, Sect.lnk, Sect.mgt] ⊆ sl) (h : State.Only sl s0 s) (pid : Nat) :
    State.Only sl s0 (State.rackBack s pid).1 := by
  unfold State.rackBack
  try dsimp only
  repeat' with_reducible first | assumption | apply State.writeBackAll_only (Sect.sub rfl hl) | apply State.ite_only | (intro _ _ _ _) | (intro _ _ _) | (intro _; rfl) | (intro _; apply map_map_same; intro _; rfl) | (intro _; apply map_mapIf; intro _; rfl) | (refine State.fst_only (by assumption) ?_) | split | dsimp only | (intro _; split <;> rfl) | (intro _; (repeat' split) <;> rfl)

theorem State.fenceBacks_only (hl : [Sect.req] ⊆ sl) (h : State.Only sl s0 s) (id : Nat) (ids : List Nat) :
    State.Only sl s0 (State.fenceBacks s id ids) := by
  unfold State.fenceBacks
  try dsimp only
  repeat' with_reducible first | assumption | apply State.setTx_only (Sect.sub rfl hl) | apply State.ite_only | (intro _ _ _ _) | (intro _ _ _) | (intro _; rfl) | (intro _; apply map_map_same; intro _; rfl) | (intro _; apply map_mapIf; intro _; rfl) | (refine State.fst_only (by assumption) ?_) | split | dsimp only | (intro _; split <;> rfl) | (intro _; (repeat' split) <;> rfl)

theorem State.uncount_only (hl : [Sect.req] ⊆ sl) (h : State.Only sl s0 s) (i : Nat) :
    State.Only sl s0 (State.uncount s i) := by
  unfold State.uncount
  try dsimp only
  repeat' with_reducible first | assumption | apply State.mapReq_only (Sect.sub rfl hl) | apply State.ite_only | (intro _ _ _ _) | (intro _ _ _) | (intro _; rfl) | (intro _; apply map_map_same; intro _; rfl) | (intro _; apply map_mapIf; intro _; rfl) | (refine State.fst_only (by assumption) ?_) | split | dsimp only | (intro _; split <;> rfl) | (intro _; (repeat' split) <;> rfl)

theorem State.openFence_only (hl : [Sect.out, Sect.od, Sect.xl, Sect.req, Sect.home, Sect.ep, Sect.sw, Sect.dlv, Sect.lnk, Sect.mgt] ⊆ sl) (h : State.Only sl s0 s) (t0 : Tx) :
    State.Only sl s0 (State.openFence s t0).1 := by
  unfold State.openFence
  try dsimp only
  repeat' with_reducible first | assumption | apply State.needAgent_only (Sect.sub rfl hl) | apply State.putTx_only (Sect.sub rfl hl) | apply State.setAgent_only (Sect.sub rfl hl) | apply State.rackBack_only (Sect.sub rfl hl) | apply State.fenceBacks_only (Sect.sub rfl hl) | apply State.ite_only | (intro _ _ _ _) | (intro _ _ _) | (intro _; rfl) | (intro _; apply map_map_same; intro _; rfl) | (intro _; apply map_mapIf; intro _; rfl) | (refine State.fst_only (by assumption) ?_) | split | dsimp only | (intro _; split <;> rfl) | (intro _; (repeat' split) <;> rfl)

theorem State.openTx_only (hl : [Sect.out, Sect.od, Sect.xl, Sect.req, Sect.home, Sect.ep, Sect.sw, Sect.dlv, Sect.lnk, Sect.mgt] ⊆ sl) (h : State.Only sl s0 s) (t0 : Tx) :
    State.Only sl s0 (State.openTx s t0).1 := by
  unfold State.openTx
  try dsimp only
  repeat' with_reducible first | assumption | apply State.needAgent_only (Sect.sub rfl hl) | apply State.openFence_only (Sect.sub rfl hl) | apply State.putTx_only (Sect.sub rfl hl) | apply State.setAgent_only (Sect.sub rfl hl) | apply State.ite_only | (intro _ _ _ _) | (intro _ _ _) | (intro _; rfl) | (intro _; apply map_map_same; intro _; rfl) | (intro _; apply map_mapIf; intro _; rfl) | (refine State.fst_only (by assumption) ?_) | split | dsimp only | (intro _; split <;> rfl) | (intro _; (repeat' split) <;> rfl)

theorem State.releaseEnds_only (hl : [Sect.out, Sect.od, Sect.xl, Sect.req, Sect.ep, Sect.lnk, Sect.mgt] ⊆ sl) (h : State.Only sl s0 s) (fid st : Nat) :
    State.Only sl s0 (State.releaseEnds s fid st) := by
  unfold State.releaseEnds
  try dsimp only
  repeat' with_reducible first | assumption | apply State.each_only | apply State.setTx_only (Sect.sub rfl hl) | apply State.completeTx_only (Sect.sub rfl hl) | apply State.uncount_only (Sect.sub rfl hl) | apply State.ite_only | (intro _ _ _ _) | (intro _ _ _) | (intro _; rfl) | (intro _; apply map_map_same; intro _; rfl) | (intro _; apply map_mapIf; intro _; rfl) | (refine State.fst_only (by assumption) ?_) | split | dsimp only | (intro _; split <;> rfl) | (intro _; (repeat' split) <;> rfl)

theorem State.fenceEnd_only (hl : [Sect.out, Sect.od, Sect.xl, Sect.req, Sect.home, Sect.ep, Sect.sw, Sect.dlv, Sect.lnk, Sect.mgt] ⊆ sl) (h : State.Only sl s0 s) (id : Nat) :
    State.Only sl s0 (State.fenceEnd s id) := by
  unfold State.fenceEnd
  try dsimp only
  repeat' with_reducible first | assumption | apply State.rackBack_only (Sect.sub rfl hl) | apply State.completeTx_only (Sect.sub rfl hl) | apply State.releaseEnds_only (Sect.sub rfl hl) | apply State.fenceBacks_only (Sect.sub rfl hl) | apply State.ite_only | (intro _ _ _ _) | (intro _ _ _) | (intro _; rfl) | (intro _; apply map_map_same; intro _; rfl) | (intro _; apply map_mapIf; intro _; rfl) | (refine State.fst_only (by assumption) ?_) | split | dsimp only | (intro _; split <;> rfl) | (intro _; (repeat' split) <;> rfl)

theorem State.invalEnd_only (hl : [Sect.out, Sect.od, Sect.xl, Sect.req, Sect.ep, Sect.lnk, Sect.mgt] ⊆ sl) (h : State.Only sl s0 s) (id : Nat) :
    State.Only sl s0 (State.invalEnd s id) := by
  unfold State.invalEnd
  try dsimp only
  repeat' with_reducible first | assumption | apply State.reachClear_only (Sect.sub rfl hl) | apply State.reachDropLines_only (Sect.sub rfl hl) | apply State.completeTx_only (Sect.sub rfl hl) | apply State.ite_only | (intro _ _ _ _) | (intro _ _ _) | (intro _; rfl) | (intro _; apply map_map_same; intro _; rfl) | (intro _; apply map_mapIf; intro _; rfl) | (refine State.fst_only (by assumption) ?_) | split | dsimp only | (intro _; split <;> rfl) | (intro _; (repeat' split) <;> rfl)

theorem State.openInval_only (hl : [Sect.out, Sect.od, Sect.xl, Sect.req, Sect.home, Sect.ep, Sect.sw, Sect.dlv, Sect.lnk, Sect.mgt] ⊆ sl) (h : State.Only sl s0 s) (t0 : Tx) :
    State.Only sl s0 (State.openInval s t0).1 := by
  unfold State.openInval
  try dsimp only
  repeat' with_reducible first | assumption | apply State.openTx_only (Sect.sub rfl hl) | apply State.setTx_only (Sect.sub rfl hl) | apply State.ite_only | (intro _ _ _ _) | (intro _ _ _) | (intro _; rfl) | (intro _; apply map_map_same; intro _; rfl) | (intro _; apply map_mapIf; intro _; rfl) | (refine State.fst_only (by assumption) ?_) | split | dsimp only | (intro _; split <;> rfl) | (intro _; (repeat' split) <;> rfl)

theorem State.openAccess_only (hl : [Sect.out, Sect.od, Sect.mem, Sect.poison, Sect.written, Sect.xl, Sect.req, Sect.home, Sect.ep, Sect.sw, Sect.dlv, Sect.lnk, Sect.mgt] ⊆ sl) (h : State.Only sl s0 s) (t : Tx) :
    State.Only sl s0 (State.openAccess s t) := by
  unfold State.openAccess
  try dsimp only
  repeat' with_reducible first | assumption | apply State.openTx_only (Sect.sub rfl hl) | apply State.translate_only (Sect.sub rfl hl) | apply State.ite_only | (intro _ _ _ _) | (intro _ _ _) | (intro _; rfl) | (intro _; apply map_map_same; intro _; rfl) | (intro _; apply map_mapIf; intro _; rfl) | (refine State.fst_only (by assumption) ?_) | split | dsimp only | (intro _; split <;> rfl) | (intro _; (repeat' split) <;> rfl)

theorem State.endWait_only (hl : [Sect.out, Sect.od, Sect.xl, Sect.req, Sect.ep, Sect.lnk, Sect.mgt] ⊆ sl) (h : State.Only sl s0 s) (w : CtrWait) (st : Nat) :
    State.Only sl s0 (State.endWait s w st) := by
  unfold State.endWait
  try dsimp only
  repeat' with_reducible first | assumption | apply State.mapEp_only (Sect.sub rfl hl) | apply State.completeTx_only (Sect.sub rfl hl) | apply State.ite_only | (intro _ _ _ _) | (intro _ _ _) | (intro _; rfl) | (intro _; apply map_map_same; intro _; rfl) | (intro _; apply map_mapIf; intro _; rfl) | (refine State.fst_only (by assumption) ?_) | split | dsimp only | (intro _; split <;> rfl) | (intro _; (repeat' split) <;> rfl)

theorem State.judgeWaits_only (hl : [Sect.out, Sect.od, Sect.xl, Sect.req, Sect.ep, Sect.lnk, Sect.mgt] ⊆ sl) (h : State.Only sl s0 s) (ep n : Nat) :
    State.Only sl s0 (State.judgeWaits s ep n) := by
  unfold State.judgeWaits
  try dsimp only
  repeat' with_reducible first | assumption | apply State.each_only | apply State.endWait_only (Sect.sub rfl hl) | apply State.ite_only | (intro _ _ _ _) | (intro _ _ _) | (intro _; rfl) | (intro _; apply map_map_same; intro _; rfl) | (intro _; apply map_mapIf; intro _; rfl) | (refine State.fst_only (by assumption) ?_) | split | dsimp only | (intro _; split <;> rfl) | (intro _; (repeat' split) <;> rfl)

theorem State.advanceCtr_only (hl : [Sect.out, Sect.od, Sect.xl, Sect.req, Sect.ep, Sect.lnk, Sect.mgt] ⊆ sl) (h : State.Only sl s0 s) (ep n pid : Nat) :
    State.Only sl s0 (State.advanceCtr s ep n pid) := by
  unfold State.advanceCtr
  try dsimp only
  repeat' with_reducible first | assumption | apply State.mapEp_only (Sect.sub rfl hl) | apply State.judgeWaits_only (Sect.sub rfl hl) | apply State.bump_only (Sect.sub rfl hl) | apply State.ite_only | (intro _ _ _ _) | (intro _ _ _) | (intro _; rfl) | (intro _; apply map_map_same; intro _; rfl) | (intro _; apply map_mapIf; intro _; rfl) | (refine State.fst_only (by assumption) ?_) | split | dsimp only | (intro _; split <;> rfl) | (intro _; (repeat' split) <;> rfl)

theorem State.sendAdvance_only (hl : [Sect.out, Sect.od, Sect.xl, Sect.req, Sect.ep, Sect.lnk, Sect.mgt] ⊆ sl) (h : State.Only sl s0 s) (mid ep ctr pid : Nat) :
    State.Only sl s0 (State.sendAdvance s mid ep ctr pid) := by
  unfold State.sendAdvance
  try dsimp only
  repeat' with_reducible first | assumption | apply State.advanceCtr_only (Sect.sub rfl hl) | apply State.emit_only (Sect.sub rfl hl) | apply State.ite_only | (intro _ _ _ _) | (intro _ _ _) | (intro _; rfl) | (intro _; apply map_map_same; intro _; rfl) | (intro _; apply map_mapIf; intro _; rfl) | (refine State.fst_only (by assumption) ?_) | split | dsimp only | (intro _; split <;> rfl) | (intro _; (repeat' split) <;> rfl)

theorem State.setQueue_only (hl : [Sect.ep] ⊆ sl) (h : State.Only sl s0 s) (ep q : Nat) (g : Queue → Queue) :
    State.Only sl s0 (State.setQueue s ep q g) := by
  unfold State.setQueue
  try dsimp only
  repeat' with_reducible first | assumption | apply State.mapEp_only (Sect.sub rfl hl) | apply State.ite_only | (intro _ _ _ _) | (intro _ _ _) | (intro _; rfl) | (intro _; apply map_map_same; intro _; rfl) | (intro _; apply map_mapIf; intro _; rfl) | (refine State.fst_only (by assumption) ?_) | split | dsimp only | (intro _; split <;> rfl) | (intro _; (repeat' split) <;> rfl)

theorem State.notifyRun_only (hl : [Sect.out, Sect.od, Sect.xl, Sect.req, Sect.ep, Sect.lnk, Sect.mgt] ⊆ sl) (h : State.Only sl s0 s) (q : Queue) (r : CopyRun) :
    State.Only sl s0 (State.notifyRun s q r) := by
  unfold State.notifyRun
  try dsimp only
  repeat' with_reducible first | assumption | apply State.setQueue_only (Sect.sub rfl hl) | apply State.each_only | apply State.sendAdvance_only (Sect.sub rfl hl) | apply State.ite_only | (intro _ _ _ _) | (intro _ _ _) | (intro _; rfl) | (intro _; apply map_map_same; intro _; rfl) | (intro _; apply map_mapIf; intro _; rfl) | (refine State.fst_only (by assumption) ?_) | split | dsimp only | (intro _; split <;> rfl) | (intro _; (repeat' split) <;> rfl)

theorem State.settleCopies_only (hl : [Sect.out, Sect.od, Sect.xl, Sect.req, Sect.ep, Sect.lnk, Sect.mgt] ⊆ sl) (h : State.Only sl s0 s)  :
    State.Only sl s0 (State.settleCopies s) := by
  unfold State.settleCopies
  try dsimp only
  repeat' with_reducible first | assumption | apply State.each_only | apply State.notifyRun_only (Sect.sub rfl hl) | apply State.ite_only | (intro _ _ _ _) | (intro _ _ _) | (intro _; rfl) | (intro _; apply map_map_same; intro _; rfl) | (intro _; apply map_mapIf; intro _; rfl) | (refine State.fst_only (by assumption) ?_) | split | dsimp only | (intro _; split <;> rfl) | (intro _; (repeat' split) <;> rfl)

theorem State.hostWrite_only (hl : [Sect.out] ⊆ sl) (h : State.Only sl s0 s) (q : Queue) (addr : Nat) (data : List Byte) :
    State.Only sl s0 (State.hostWrite s q addr data) := by
  unfold State.hostWrite
  try dsimp only
  repeat' with_reducible first | assumption | apply State.emit_only (Sect.sub rfl hl) | apply State.ite_only | (intro _ _ _ _) | (intro _ _ _) | (intro _; rfl) | (intro _; apply map_map_same; intro _; rfl) | (intro _; apply map_mapIf; intro _; rfl) | (refine State.fst_only (by assumption) ?_) | split | dsimp only | (intro _; split <;> rfl) | (intro _; (repeat' split) <;> rfl)

theorem State.setBounce_only (hl : [Sect.ep] ⊆ sl) (h : State.Only sl s0 s) (pid cp : Nat) (g : Bounce → Bounce) :
    State.Only sl s0 (State.setBounce s pid cp g) := by
  unfold State.setBounce
  try dsimp only
  repeat' with_reducible first | assumption | apply State.mapEp_only (Sect.sub rfl hl) | apply State.ite_only | (intro _ _ _ _) | (intro _ _ _) | (intro _; rfl) | (intro _; apply map_map_same; intro _; rfl) | (intro _; apply map_mapIf; intro _; rfl) | (refine State.fst_only (by assumption) ?_) | split | dsimp only | (intro _; split <;> rfl) | (intro _; (repeat' split) <;> rfl)

theorem State.bounceSlot_only (hl : [Sect.out, Sect.ep] ⊆ sl) (h : State.Only sl s0 s) (b : Bounce) (q kind dest user : Nat) (data : List Byte) :
    State.Only sl s0 (State.bounceSlot s b q kind dest user data) := by
  unfold State.bounceSlot
  try dsimp only
  repeat' with_reducible first | assumption | apply State.draw_only (Sect.sub rfl hl) | apply State.emit_only (Sect.sub rfl hl) | apply State.setBounce_only (Sect.sub rfl hl) | apply State.ite_only | (intro _ _ _ _) | (intro _ _ _) | (intro _; rfl) | (intro _; apply map_map_same; intro _; rfl) | (intro _; apply map_mapIf; intro _; rfl) | (refine State.fst_only (by assumption) ?_) | split | dsimp only | (intro _; split <;> rfl) | (intro _; (repeat' split) <;> rfl)

theorem State.bounceOut_only (hl : [Sect.out, Sect.ep] ⊆ sl) (h : State.Only sl s0 s) (q : Queue) (kind dest user : Nat) (data : List Byte) :
    State.Only sl s0 (State.bounceOut s q kind dest user data) := by
  unfold State.bounceOut
  try dsimp only
  repeat' with_reducible first | assumption | apply State.bounceSlot_only (Sect.sub rfl hl) | apply State.ite_only | (intro _ _ _ _) | (intro _ _ _) | (intro _; rfl) | (intro _; apply map_map_same; intro _; rfl) | (intro _; apply map_mapIf; intro _; rfl) | (refine State.fst_only (by assumption) ?_) | split | dsimp only | (intro _; split <;> rfl) | (intro _; (repeat' split) <;> rfl)

theorem State.hostChunks_only (hl : [Sect.out, Sect.ep] ⊆ sl) (h : State.Only sl s0 s) (q : Queue) (r : CopyRun) (t : Tx) :
    State.Only sl s0 (State.hostChunks s q r t) := by
  unfold State.hostChunks
  try dsimp only
  repeat' with_reducible first | assumption | apply State.each_only | apply State.emit_only (Sect.sub rfl hl) | apply State.ite_only | (intro _ _ _ _) | (intro _ _ _) | (intro _; rfl) | (intro _; apply map_map_same; intro _; rfl) | (intro _; apply map_mapIf; intro _; rfl) | (refine State.fst_only (by assumption) ?_) | split | dsimp only | (intro _; split <;> rfl) | (intro _; (repeat' split) <;> rfl)

theorem State.takeTail_only (hl : [Sect.ep] ⊆ sl) (h : State.Only sl s0 s) (q : Queue) (tail : Nat) :
    State.Only sl s0 (State.takeTail s q tail) := by
  unfold State.takeTail
  try dsimp only
  repeat' with_reducible first | assumption | apply State.setBounce_only (Sect.sub rfl hl) | apply State.ite_only | (intro _ _ _ _) | (intro _ _ _) | (intro _; rfl) | (intro _; apply map_map_same; intro _; rfl) | (intro _; apply map_mapIf; intro _; rfl) | (refine State.fst_only (by assumption) ?_) | split | dsimp only | (intro _; split <;> rfl) | (intro _; (repeat' split) <;> rfl)

theorem State.fillRing_only (hl : [Sect.out, Sect.ep] ⊆ sl) (h : State.Only sl s0 s) (q : Queue) (r : CopyRun) :
    State.Only sl s0 (State.fillRing s q r) := by
  unfold State.fillRing
  try dsimp only
  repeat' with_reducible first | assumption | apply State.bounceOut_only (Sect.sub rfl hl) | apply State.setQueue_only (Sect.sub rfl hl) | apply State.each_only | apply State.ite_only | (intro _ _ _ _) | (intro _ _ _) | (intro _; rfl) | (intro _; apply map_map_same; intro _; rfl) | (intro _; apply map_mapIf; intro _; rfl) | (refine State.fst_only (by assumption) ?_) | split | dsimp only | (intro _; split <;> rfl) | (intro _; (repeat' split) <;> rfl)

theorem State.queueSettle_only (hl : [Sect.out, Sect.ep, Sect.mgt] ⊆ sl) (h : State.Only sl s0 s) (ep q : Nat) :
    State.Only sl s0 (State.queueSettle s ep q) := by
  unfold State.queueSettle
  try dsimp only
  repeat' with_reducible first | assumption | apply State.mapEp_only (Sect.sub rfl hl) | apply State.reply_only (Sect.sub rfl hl) | apply State.ite_only | (intro _ _ _ _) | (intro _ _ _) | (intro _; rfl) | (intro _; apply map_map_same; intro _; rfl) | (intro _; apply map_mapIf; intro _; rfl) | (refine State.fst_only (by assumption) ?_) | split | dsimp only | (intro _; split <;> rfl) | (intro _; (repeat' split) <;> rfl)

theorem State.finishRun_only (hl : [Sect.out, Sect.od, Sect.xl, Sect.req, Sect.home, Sect.ep, Sect.sw, Sect.dlv, Sect.lnk, Sect.mgt] ⊆ sl) (h : State.Only sl s0 s) (q : Queue) (r : CopyRun) :
    State.Only sl s0 (State.finishRun s q r) := by
  unfold State.finishRun
  try dsimp only
  repeat' with_reducible first | assumption | apply State.hostChunks_only (Sect.sub rfl hl) | apply State.notifyRun_only (Sect.sub rfl hl) | apply State.setQueue_only (Sect.sub rfl hl) | apply State.dropTx_only (Sect.sub rfl hl) | apply State.bounceOut_only (Sect.sub rfl hl) | apply State.hostWrite_only (Sect.sub rfl hl) | apply State.moduleStore_only (Sect.sub rfl hl) | apply State.queueSettle_only (Sect.sub rfl hl) | apply State.ite_only | (intro _ _ _ _) | (intro _ _ _) | (intro _; rfl) | (intro _; apply map_map_same; intro _; rfl) | (intro _; apply map_mapIf; intro _; rfl) | (refine State.fst_only (by assumption) ?_) | split | dsimp only | (intro _; split <;> rfl) | (intro _; (repeat' split) <;> rfl)

theorem State.runOn_only (hl : [Sect.out, Sect.od, Sect.xl, Sect.req, Sect.home, Sect.ep, Sect.sw, Sect.dlv, Sect.lnk, Sect.mgt] ⊆ sl) (h : State.Only sl s0 s) (q : Queue) (r : CopyRun) :
    State.Only sl s0 (State.runOn s q r) := by
  unfold State.runOn
  try dsimp only
  repeat' with_reducible first | assumption | apply State.fillRing_only (Sect.sub rfl hl) | apply State.finishRun_only (Sect.sub rfl hl) | apply State.ite_only | (intro _ _ _ _) | (intro _ _ _) | (intro _; rfl) | (intro _; apply map_map_same; intro _; rfl) | (intro _; apply map_mapIf; intro _; rfl) | (refine State.fst_only (by assumption) ?_) | split | dsimp only | (intro _; split <;> rfl) | (intro _; (repeat' split) <;> rfl)

theorem State.queueStop_only (hl : [Sect.out, Sect.od, Sect.xl, Sect.req, Sect.ep, Sect.lnk, Sect.mgt] ⊆ sl) (h : State.Only sl s0 s) (ep q : Nat) :
    State.Only sl s0 (State.queueStop s ep q) := by
  unfold State.queueStop
  try dsimp only
  repeat' with_reducible first | assumption | apply State.setQueue_only (Sect.sub rfl hl) | apply State.each_only | apply State.haltTx_only (Sect.sub rfl hl) | apply State.queueSettle_only (Sect.sub rfl hl) | apply State.ite_only | (intro _ _ _ _) | (intro _ _ _) | (intro _; rfl) | (intro _; apply map_map_same; intro _; rfl) | (intro _; apply map_mapIf; intro _; rfl) | (refine State.fst_only (by assumption) ?_) | split | dsimp only | (intro _; split <;> rfl) | (intro _; (repeat' split) <;> rfl)

theorem State.setTail_only (hl : [Sect.ep] ⊆ sl) (h : State.Only sl s0 s) (ep q tail : Nat) :
    State.Only sl s0 (State.setTail s ep q tail).1 := by
  unfold State.setTail
  try dsimp only
  repeat' with_reducible first | assumption | apply State.setQueue_only (Sect.sub rfl hl) | apply State.ite_only | (intro _ _ _ _) | (intro _ _ _) | (intro _; rfl) | (intro _; apply map_map_same; intro _; rfl) | (intro _; apply map_mapIf; intro _; rfl) | (refine State.fst_only (by assumption) ?_) | split | dsimp only | (intro _; split <;> rfl) | (intro _; (repeat' split) <;> rfl)

theorem State.capUse_only (hl : [Sect.lnk] ⊆ sl) (h : State.Only sl s0 s) (bond pool : Nat) (g : Nat → Nat) :
    State.Only sl s0 (State.capUse s bond pool g) := by
  unfold State.capUse
  try dsimp only
  repeat' with_reducible first | assumption | apply State.setAp_only (Sect.sub rfl hl) | apply State.ite_only | (intro _ _ _ _) | (intro _ _ _) | (intro _; rfl) | (intro _; apply map_map_same; intro _; rfl) | (intro _; apply map_mapIf; intro _; rfl) | (refine State.fst_only (by assumption) ?_) | split | dsimp only | (intro _; split <;> rfl) | (intro _; (repeat' split) <;> rfl)

theorem State.capReturn_only (hl : [Sect.lnk] ⊆ sl) (h : State.Only sl s0 s) (bond pool n : Nat) :
    State.Only sl s0 (State.capReturn s bond pool n) := by
  unfold State.capReturn
  try dsimp only
  repeat' with_reducible first | assumption | apply State.setAp_only (Sect.sub rfl hl) | apply State.ite_only | (intro _ _ _ _) | (intro _ _ _) | (intro _; rfl) | (intro _; apply map_map_same; intro _; rfl) | (intro _; apply map_mapIf; intro _; rfl) | (refine State.fst_only (by assumption) ?_) | split | dsimp only | (intro _; split <;> rfl) | (intro _; (repeat' split) <;> rfl)

theorem State.discardTwd_only (hl : [Sect.ep] ⊆ sl) (h : State.Only sl s0 s) (ep n tag : Nat) :
    State.Only sl s0 (State.discardTwd s ep n tag) := by
  unfold State.discardTwd
  try dsimp only
  repeat' with_reducible first | assumption | apply State.setCtx_only (Sect.sub rfl hl) | apply State.ite_only | (intro _ _ _ _) | (intro _ _ _) | (intro _; rfl) | (intro _; apply map_map_same; intro _; rfl) | (intro _; apply map_mapIf; intro _; rfl) | (refine State.fst_only (by assumption) ?_) | split | dsimp only | (intro _; split <;> rfl) | (intro _; (repeat' split) <;> rfl)

theorem State.capAnswer_only (hl : [Sect.out, Sect.ep, Sect.lnk] ⊆ sl) (h : State.Only sl s0 s) (mt : Nat) (m : CapMsg) (st : Nat) :
    State.Only sl s0 (State.capAnswer s mt m st) := by
  unfold State.capAnswer
  try dsimp only
  repeat' with_reducible first | assumption | apply State.discardTwd_only (Sect.sub rfl hl) | apply State.rsp_only (Sect.sub rfl hl) | apply State.ite_only | (intro _ _ _ _) | (intro _ _ _) | (intro _; rfl) | (intro _; apply map_map_same; intro _; rfl) | (intro _; apply map_mapIf; intro _; rfl) | (refine State.fst_only (by assumption) ?_) | split | dsimp only | (intro _; split <;> rfl) | (intro _; (repeat' split) <;> rfl)

theorem State.capWait_only (hl : [Sect.out, Sect.od, Sect.xl, Sect.req, Sect.home, Sect.ep, Sect.sw, Sect.dlv, Sect.lnk, Sect.mgt] ⊆ sl) (h : State.Only sl s0 s) (c : Ctx) (m : CapMsg) :
    State.Only sl s0 (State.capWait s c m) := by
  unfold State.capWait
  try dsimp only
  repeat' with_reducible first | assumption | apply State.capAnswer_only (Sect.sub rfl hl) | apply State.openTx_only (Sect.sub rfl hl) | apply State.setTx_only (Sect.sub rfl hl) | apply State.mapEp_only (Sect.sub rfl hl) | apply State.judgeWaits_only (Sect.sub rfl hl) | apply State.ite_only | (intro _ _ _ _) | (intro _ _ _) | (intro _; rfl) | (intro _; apply map_map_same; intro _; rfl) | (intro _; apply map_mapIf; intro _; rfl) | (refine State.fst_only (by assumption) ?_) | split | dsimp only | (intro _; split <;> rfl) | (intro _; (repeat' split) <;> rfl)

theorem State.capSet_only (hl : [Sect.out, Sect.od, Sect.xl, Sect.req, Sect.ep, Sect.lnk, Sect.mgt] ⊆ sl) (h : State.Only sl s0 s) (c : Ctx) (m : CapMsg) :
    State.Only sl s0 (State.capSet s c m) := by
  unfold State.capSet
  try dsimp only
  repeat' with_reducible first | assumption | apply State.capAnswer_only (Sect.sub rfl hl) | apply State.mapEp_only (Sect.sub rfl hl) | apply State.judgeWaits_only (Sect.sub rfl hl) | apply State.ite_only | (intro _ _ _ _) | (intro _ _ _) | (intro _; rfl) | (intro _; apply map_map_same; intro _; rfl) | (intro _; apply map_mapIf; intro _; rfl) | (refine State.fst_only (by assumption) ?_) | split | dsimp only | (intro _; split <;> rfl) | (intro _; (repeat' split) <;> rfl)

theorem State.capBell_only (hl : [Sect.out, Sect.ep, Sect.lnk] ⊆ sl) (h : State.Only sl s0 s) (c : Ctx) (m : CapMsg) :
    State.Only sl s0 (State.capBell s c m) := by
  unfold State.capBell
  try dsimp only
  repeat' with_reducible first | assumption | apply State.capAnswer_only (Sect.sub rfl hl) | apply State.setTail_only (Sect.sub rfl hl) | apply State.ite_only | (intro _ _ _ _) | (intro _ _ _) | (intro _; rfl) | (intro _; apply map_map_same; intro _; rfl) | (intro _; apply map_mapIf; intro _; rfl) | (refine State.fst_only (by assumption) ?_) | split | dsimp only | (intro _; split <;> rfl) | (intro _; (repeat' split) <;> rfl)

theorem State.capServe_only (hl : [Sect.out, Sect.od, Sect.mem, Sect.poison, Sect.written, Sect.xl, Sect.req, Sect.home, Sect.ep, Sect.sw, Sect.dlv, Sect.lnk, Sect.mgt] ⊆ sl) (h : State.Only sl s0 s) (mt : Nat) (c : Ctx) (m : CapMsg) :
    State.Only sl s0 (State.capServe s mt c m) := by
  unfold State.capServe
  try dsimp only
  repeat' with_reducible first | assumption | apply State.capAnswer_only (Sect.sub rfl hl) | apply State.openAccess_only (Sect.sub rfl hl) | apply State.store_only (Sect.sub rfl hl) | apply State.openFence_only (Sect.sub rfl hl) | apply State.openInval_only (Sect.sub rfl hl) | apply State.capBell_only (Sect.sub rfl hl) | apply State.capWait_only (Sect.sub rfl hl) | apply State.capSet_only (Sect.sub rfl hl) | apply State.ite_only | (intro _ _ _ _) | (intro _ _ _) | (intro _; rfl) | (intro _; apply map_map_same; intro _; rfl) | (intro _; apply map_mapIf; intro _; rfl) | (refine State.fst_only (by assumption) ?_) | split | dsimp only | (intro _; split <;> rfl) | (intro _; (repeat' split) <;> rfl)

theorem State.capCheck_only (hl : [Sect.out, Sect.od, Sect.mem, Sect.poison, Sect.written, Sect.xl, Sect.req, Sect.home, Sect.ep, Sect.sw, Sect.dlv, Sect.lnk, Sect.sec, Sect.mgt] ⊆ sl) (h : State.Only sl s0 s) (mt : Nat) (m : CapMsg) :
    State.Only sl s0 (State.capCheck s mt m) := by
  unfold State.capCheck
  try dsimp only
  repeat' with_reducible first | assumption | apply State.bump_only (Sect.sub rfl hl) | apply State.capAnswer_only (Sect.sub rfl hl) | apply State.noteClosed_only (Sect.sub rfl hl) | apply State.capServe_only (Sect.sub rfl hl) | apply State.ite_only | (intro _ _ _ _) | (intro _ _ _) | (intro _; rfl) | (intro _; apply map_map_same; intro _; rfl) | (intro _; apply map_mapIf; intro _; rfl) | (refine State.fst_only (by assumption) ?_) | split | dsimp only | (intro _; split <;> rfl) | (intro _; (repeat' split) <;> rfl)

theorem State.capTwd_only (hl : [Sect.out, Sect.od, Sect.xl, Sect.req, Sect.ep, Sect.lnk, Sect.mgt] ⊆ sl) (h : State.Only sl s0 s) (m : CapMsg) :
    State.Only sl s0 (State.capTwd s m) := by
  unfold State.capTwd
  try dsimp only
  repeat' with_reducible first | assumption | apply State.foldlPair_only | apply State.foldl_only | apply State.bump_only (Sect.sub rfl hl) | apply State.setTx_only (Sect.sub rfl hl) | apply State.completeTx_only (Sect.sub rfl hl) | apply State.setCtx_only (Sect.sub rfl hl) | apply State.ite_only | (intro _ _ _ _) | (intro _ _ _) | (intro _; rfl) | (intro _; apply map_map_same; intro _; rfl) | (intro _; apply map_mapIf; intro _; rfl) | (refine State.fst_only (by assumption) ?_) | split | dsimp only | (intro _; split <;> rfl) | (intro _; (repeat' split) <;> rfl)

theorem State.capPerform_only (hl : [Sect.out, Sect.od, Sect.mem, Sect.poison, Sect.written, Sect.xl, Sect.req, Sect.home, Sect.ep, Sect.sw, Sect.dlv, Sect.lnk, Sect.sec, Sect.mgt] ⊆ sl) (h : State.Only sl s0 s) (mt : Nat) (m : CapMsg) :
    State.Only sl s0 (State.capPerform s mt m) := by
  unfold State.capPerform
  try dsimp only
  repeat' with_reducible first | assumption | apply State.capTwd_only (Sect.sub rfl hl) | apply State.epEv_only (Sect.sub rfl hl) | apply State.capCheck_only (Sect.sub rfl hl) | apply State.ite_only | (intro _ _ _ _) | (intro _ _ _) | (intro _; rfl) | (intro _; apply map_map_same; intro _; rfl) | (intro _; apply map_mapIf; intro _; rfl) | (refine State.fst_only (by assumption) ?_) | split | dsimp only | (intro _; split <;> rfl) | (intro _; (repeat' split) <;> rfl)

theorem State.pumpCap_only (hl : [Sect.out, Sect.od, Sect.mem, Sect.poison, Sect.written, Sect.xl, Sect.req, Sect.home, Sect.ep, Sect.sw, Sect.dlv, Sect.lnk, Sect.sec, Sect.mgt] ⊆ sl) (h : State.Only sl s0 s)  (fuel : Nat) :
    State.Only sl s0 (State.pumpCap s fuel) := by
  induction fuel generalizing s with
  | zero => exact h
  | succ n ih =>
    unfold State.pumpCap
    try dsimp only
    repeat' with_reducible first | apply ih | assumption | apply State.mapEp_only (Sect.sub rfl hl) | apply State.capUse_only (Sect.sub rfl hl) | apply State.capPerform_only (Sect.sub rfl hl) | apply State.capReturn_only (Sect.sub rfl hl) | apply State.ite_only | (intro _ _ _ _) | (intro _ _ _) | (intro _; rfl) | (intro _; apply map_map_same; intro _; rfl) | (intro _; apply map_mapIf; intro _; rfl) | (refine State.fst_only (by assumption) ?_) | split | dsimp only | (intro _; split <;> rfl) | (intro _; (repeat' split) <;> rfl)

theorem State.capRequest_only (hl : [Sect.out, Sect.od, Sect.mem, Sect.poison, Sect.written, Sect.xl, Sect.req, Sect.home, Sect.ep, Sect.sw, Sect.dlv, Sect.lnk, Sect.sec, Sect.mgt] ⊆ sl) (h : State.Only sl s0 s) (mt : Nat) (m : CapMsg) :
    State.Only sl s0 (State.capRequest s mt m) := by
  unfold State.capRequest
  try dsimp only
  repeat' with_reducible first | assumption | apply State.bump_only (Sect.sub rfl hl) | apply State.capUse_only (Sect.sub rfl hl) | apply State.mapEp_only (Sect.sub rfl hl) | apply State.capPerform_only (Sect.sub rfl hl) | apply State.capReturn_only (Sect.sub rfl hl) | apply State.ite_only | (intro _ _ _ _) | (intro _ _ _) | (intro _; rfl) | (intro _; apply map_map_same; intro _; rfl) | (intro _; apply map_mapIf; intro _; rfl) | (refine State.fst_only (by assumption) ?_) | split | dsimp only | (intro _; split <;> rfl) | (intro _; (repeat' split) <;> rfl)

theorem State.settleAll_only (hl : Sect.wide ⊆ sl) (h : State.Only sl s0 s)  :
    State.Only sl s0 (State.settleAll s) := by
  unfold State.settleAll
  try dsimp only
  repeat' with_reducible first | assumption | apply State.settleFlows_only (Sect.sub rfl hl) | apply State.settleCopies_only (Sect.sub rfl hl) | apply State.pumpCap_only (Sect.sub rfl hl) | apply State.settleShadow_only (Sect.sub rfl hl) | apply State.ite_only | (intro _ _ _ _) | (intro _ _ _) | (intro _; rfl) | (intro _; apply map_map_same; intro _; rfl) | (intro _; apply map_mapIf; intro _; rfl) | (refine State.fst_only (by assumption) ?_) | split | dsimp only | (intro _; split <;> rfl) | (intro _; (repeat' split) <;> rfl)

end Sys2Proof.Machine
end

