-- ==== Sys2Proof/Laws/OnlySwitch.lean ====
section
/-! SUPPORT. `State.Only` for every operation and meaning of Machine/Switch.lean: the sections that it may change. -/

namespace Sys2Proof.Machine

open Sys2Proof

set_option Elab.async false

set_option linter.unreachableTactic false
set_option linter.unusedTactic false

variable {s0 s : State} {sl : List Sect}

theorem execFrameHeaderArrival_only (hl : [Sect.out, Sect.life, Sect.od, Sect.mem, Sect.poison, Sect.written, Sect.xl, Sect.req, Sect.home, Sect.ep, Sect.stn, Sect.sw, Sect.dlv, Sect.lnk, Sect.tim, Sect.slu, Sect.mgt, Sect.shd] ⊆ sl) (h : State.Only sl s0 s) (ingress : Nat) (f : Frame) (seen : NMap) :
    Res.Only sl s0 (execFrameHeaderArrival ingress f seen s) := by
  unfold execFrameHeaderArrival
  try dsimp only
  repeat' with_reducible first | assumption | apply State.setFp_only (Sect.sub rfl hl) | apply State.mirSelectAll_only (Sect.sub rfl hl) | apply State.bump_only (Sect.sub rfl hl) | apply State.coreIn_only (Sect.sub rfl hl) | apply State.ungatedRaise_only (Sect.sub rfl hl) | apply State.settleCells_only (Sect.sub rfl hl) | apply Res.next_only | apply Res.ite_only | apply State.ite_only | (intro _ _ _ _) | (intro _ _ _) | (intro _; rfl) | (intro _; apply map_map_same; intro _; rfl) | (intro _; apply map_mapIf; intro _; rfl) | (refine State.fst_only (by assumption) ?_) | split | dsimp only | (intro _; split <;> rfl) | (intro _; (repeat' split) <;> rfl)

theorem State.lateNote_only (hl : [Sect.od, Sect.sec] ⊆ sl) (h : State.Only sl s0 s) (pid : Nat) :
    State.Only sl s0 (State.lateNote s pid) := by
  unfold State.lateNote
  try dsimp only
  repeat' with_reducible first | assumption | apply State.bump_only (Sect.sub rfl hl) | apply State.mapSec_only (Sect.sub rfl hl) | apply State.ite_only | (intro _ _ _ _) | (intro _ _ _) | (intro _; rfl) | (intro _; apply map_map_same; intro _; rfl) | (intro _; apply map_mapIf; intro _; rfl) | (refine State.fst_only (by assumption) ?_) | split | dsimp only | (intro _; split <;> rfl) | (intro _; (repeat' split) <;> rfl)

theorem State.fecNote_only (hl : [Sect.od] ⊆ sl) (h : State.Only sl s0 s) (c : CoreFrame) (fecOk : Bool) :
    State.Only sl s0 (State.fecNote s c fecOk) := by
  unfold State.fecNote
  try dsimp only
  repeat' with_reducible first | assumption | apply State.bump_only (Sect.sub rfl hl) | apply State.ite_only | (intro _ _ _ _) | (intro _ _ _) | (intro _; rfl) | (intro _; apply map_map_same; intro _; rfl) | (intro _; apply map_mapIf; intro _; rfl) | (refine State.fst_only (by assumption) ?_) | split | dsimp only | (intro _; split <;> rfl) | (intro _; (repeat' split) <;> rfl)

theorem State.sendOn_only (hl : [Sect.out, Sect.lnk] ⊆ sl) (h : State.Only sl s0 s) (e : Nat) (f : Frame) (bad : Bool) :
    State.Only sl s0 (State.sendOn s e f bad) := by
  unfold State.sendOn
  try dsimp only
  repeat' with_reducible first | assumption | apply State.setFp_only (Sect.sub rfl hl) | apply State.emit_only (Sect.sub rfl hl) | apply State.ite_only | (intro _ _ _ _) | (intro _ _ _) | (intro _; rfl) | (intro _; apply map_map_same; intro _; rfl) | (intro _; apply map_mapIf; intro _; rfl) | (refine State.fst_only (by assumption) ?_) | split | dsimp only | (intro _; split <;> rfl) | (intro _; (repeat' split) <;> rfl)

theorem State.again_only (hl : [Sect.out, Sect.od, Sect.sw, Sect.mgt] ⊆ sl) (h : State.Only sl s0 s) (c : CoreFrame) :
    State.Only sl s0 (State.again s c) := by
  unfold State.again
  try dsimp only
  repeat' with_reducible first | assumption | apply State.sourceFrame_only (Sect.sub rfl hl) | apply State.ite_only | (intro _ _ _ _) | (intro _ _ _) | (intro _; rfl) | (intro _; apply map_map_same; intro _; rfl) | (intro _; apply map_mapIf; intro _; rfl) | (refine State.fst_only (by assumption) ?_) | split | dsimp only | (intro _; split <;> rfl) | (intro _; (repeat' split) <;> rfl)

theorem State.badTail_only (hl : [Sect.out, Sect.od, Sect.sw, Sect.lnk, Sect.mgt] ⊆ sl) (h : State.Only sl s0 s) (c : CoreFrame) :
    State.Only sl s0 (State.badTail s c) := by
  unfold State.badTail
  try dsimp only
  repeat' with_reducible first | assumption | apply State.bump_only (Sect.sub rfl hl) | apply State.setCore_only (Sect.sub rfl hl) | apply State.quadEv_only (Sect.sub rfl hl) | apply State.each_only | apply State.sendOn_only (Sect.sub rfl hl) | apply State.mirFlush_only (Sect.sub rfl hl) | apply State.coreOut_only (Sect.sub rfl hl) | apply State.again_only (Sect.sub rfl hl) | apply State.ite_only | (intro _ _ _ _) | (intro _ _ _) | (intro _; rfl) | (intro _; apply map_map_same; intro _; rfl) | (intro _; apply map_mapIf; intro _; rfl) | (refine State.fst_only (by assumption) ?_) | split | dsimp only | (intro _; split <;> rfl) | (intro _; (repeat' split) <;> rfl)

theorem State.goodTail_only (hl : [Sect.out, Sect.od, Sect.sw, Sect.lnk, Sect.mgt] ⊆ sl) (h : State.Only sl s0 s) (c : CoreFrame) :
    State.Only sl s0 (State.goodTail s c) := by
  unfold State.goodTail
  try dsimp only
  repeat' with_reducible first | assumption | apply State.setCore_only (Sect.sub rfl hl) | apply State.each_only | apply State.sendOn_only (Sect.sub rfl hl) | apply State.mirFlush_only (Sect.sub rfl hl) | apply State.coreOut_only (Sect.sub rfl hl) | apply State.ite_only | (intro _ _ _ _) | (intro _ _ _) | (intro _; rfl) | (intro _; apply map_map_same; intro _; rfl) | (intro _; apply map_mapIf; intro _; rfl) | (refine State.fst_only (by assumption) ?_) | split | dsimp only | (intro _; split <;> rfl) | (intro _; (repeat' split) <;> rfl)

theorem execFrameTailArrival_only (hl : Sect.wide ⊆ sl) (h : State.Only sl s0 s) (id : Nat) (hop : HopVerdict) (authOk marked : Bool) :
    Res.Only sl s0 (execFrameTailArrival id hop authOk marked s) := by
  unfold execFrameTailArrival
  try dsimp only
  repeat' with_reducible first | assumption | apply State.goodTail_only (Sect.sub rfl hl) | apply State.lateNote_only (Sect.sub rfl hl) | apply State.fecNote_only (Sect.sub rfl hl) | apply State.badTail_only (Sect.sub rfl hl) | apply State.settleCells_only (Sect.sub rfl hl) | apply Res.next_only | apply Res.ite_only | apply State.ite_only | (intro _ _ _ _) | (intro _ _ _) | (intro _; rfl) | (intro _; apply map_map_same; intro _; rfl) | (intro _; apply map_mapIf; intro _; rfl) | (refine State.fst_only (by assumption) ?_) | split | dsimp only | (intro _; split <;> rfl) | (intro _; (repeat' split) <;> rfl)

theorem State.giveQuantum_only (hl : [Sect.sw] ⊆ sl) (h : State.Only sl s0 s) (e i : Nat) :
    State.Only sl s0 (State.giveQuantum s e i) := by
  unfold State.giveQuantum
  try dsimp only
  repeat' with_reducible first | assumption | apply State.mapSw_only (Sect.sub rfl hl) | apply State.ite_only | (intro _ _ _ _) | (intro _ _ _) | (intro _; rfl) | (intro _; apply map_map_same; intro _; rfl) | (intro _; apply map_mapIf; intro _; rfl) | (refine State.fst_only (by assumption) ?_) | split | dsimp only | (intro _; split <;> rfl) | (intro _; (repeat' split) <;> rfl)

theorem State.drr_only (hl : [Sect.sw] ⊆ sl) (h : State.Only sl s0 s) (e i : Nat) (fuel : Nat) :
    State.Only sl s0 (State.drr s e i fuel).1 := by
  induction fuel generalizing s e i with
  | zero => exact h
  | succ n ih =>
    unfold State.drr
    try dsimp only
    repeat' with_reducible first | apply ih | assumption | apply State.mapSw_only (Sect.sub rfl hl) | apply State.giveQuantum_only (Sect.sub rfl hl) | apply State.ite_only | (intro _ _ _ _) | (intro _ _ _) | (intro _; rfl) | (intro _; apply map_map_same; intro _; rfl) | (intro _; apply map_mapIf; intro _; rfl) | (refine State.fst_only (by assumption) ?_) | split | dsimp only | (intro _; split <;> rfl) | (intro _; (repeat' split) <;> rfl)

theorem State.arbitrate_only (hl : [Sect.sw] ⊆ sl) (h : State.Only sl s0 s) (e : Nat) :
    State.Only sl s0 (State.arbitrate s e).1 := by
  unfold State.arbitrate
  try dsimp only
  repeat' with_reducible first | assumption | apply State.drr_only (Sect.sub rfl hl) | apply State.ite_only | (intro _ _ _ _) | (intro _ _ _) | (intro _; rfl) | (intro _; apply map_map_same; intro _; rfl) | (intro _; apply map_mapIf; intro _; rfl) | (refine State.fst_only (by assumption) ?_) | split | dsimp only | (intro _; split <;> rfl) | (intro _; (repeat' split) <;> rfl)

theorem State.gateCross_only (hl : [Sect.slu] ⊆ sl) (h : State.Only sl s0 s) (e : Nat) (f : Frame) :
    State.Only sl s0 (State.gateCross s e f) := by
  unfold State.gateCross
  try dsimp only
  repeat' with_reducible first | assumption | apply State.setGate_only (Sect.sub rfl hl) | apply State.resend_only (Sect.sub rfl hl) | apply State.ite_only | (intro _ _ _ _) | (intro _ _ _) | (intro _; rfl) | (intro _; apply map_map_same; intro _; rfl) | (intro _; apply map_mapIf; intro _; rfl) | (refine State.fst_only (by assumption) ?_) | split | dsimp only | (intro _; split <;> rfl) | (intro _; (repeat' split) <;> rfl)

theorem State.sendMirror_only (hl : [Sect.out, Sect.od, Sect.lnk, Sect.mgt] ⊆ sl) (h : State.Only sl s0 s) (e : Nat) (c : CoreFrame) :
    State.Only sl s0 (State.sendMirror s e c) := by
  unfold State.sendMirror
  try dsimp only
  repeat' with_reducible first | assumption | apply State.emit_only (Sect.sub rfl hl) | apply State.capPush_only (Sect.sub rfl hl) | apply State.dropCopy_only (Sect.sub rfl hl) | apply State.bump_only (Sect.sub rfl hl) | apply State.foldlPair_only | apply State.foldl_only | apply State.each_only | apply State.ite_only | (intro _ _ _ _) | (intro _ _ _) | (intro _; rfl) | (intro _; apply map_map_same; intro _; rfl) | (intro _; apply map_mapIf; intro _; rfl) | (refine State.fst_only (by assumption) ?_) | split | dsimp only | (intro _; split <;> rfl) | (intro _; (repeat' split) <;> rfl)

theorem State.startCopy_only (hl : [Sect.out, Sect.od, Sect.sw, Sect.lnk, Sect.slu, Sect.mgt] ⊆ sl) (h : State.Only sl s0 s) (e : Nat) (c : CoreFrame) (seen : NMap) :
    State.Only sl s0 (State.startCopy s e c seen) := by
  unfold State.startCopy
  try dsimp only
  repeat' with_reducible first | assumption | apply State.quadEv_only (Sect.sub rfl hl) | apply State.gateCross_only (Sect.sub rfl hl) | apply State.mapSw_only (Sect.sub rfl hl) | apply State.mirSelectAll_only (Sect.sub rfl hl) | apply State.setCore_only (Sect.sub rfl hl) | apply State.mirFlush_only (Sect.sub rfl hl) | apply State.sendOn_only (Sect.sub rfl hl) | apply State.sendMirror_only (Sect.sub rfl hl) | apply State.coreOutSeen_only (Sect.sub rfl hl) | apply State.ite_only | (intro _ _ _ _) | (intro _ _ _) | (intro _; rfl) | (intro _; apply map_map_same; intro _; rfl) | (intro _; apply map_mapIf; intro _; rfl) | (refine State.fst_only (by assumption) ?_) | split | dsimp only | (intro _; split <;> rfl) | (intro _; (repeat' split) <;> rfl)

theorem execEgressArbitration_only (hl : [Sect.out, Sect.life, Sect.od, Sect.mem, Sect.poison, Sect.written, Sect.xl, Sect.req, Sect.home, Sect.ep, Sect.stn, Sect.sw, Sect.dlv, Sect.lnk, Sect.tim, Sect.slu, Sect.mgt, Sect.shd] ⊆ sl) (h : State.Only sl s0 s) (egress : Nat) (seen : NMap) :
    Res.Only sl s0 (execEgressArbitration egress seen s) := by
  unfold execEgressArbitration
  try dsimp only
  repeat' with_reducible first | assumption | apply State.arbitrate_only (Sect.sub rfl hl) | apply State.startCopy_only (Sect.sub rfl hl) | apply State.settleCells_only (Sect.sub rfl hl) | apply Res.next_only | apply Res.ite_only | apply State.ite_only | (intro _ _ _ _) | (intro _ _ _) | (intro _; rfl) | (intro _; apply map_map_same; intro _; rfl) | (intro _; apply map_mapIf; intro _; rfl) | (refine State.fst_only (by assumption) ?_) | split | dsimp only | (intro _; split <;> rfl) | (intro _; (repeat' split) <;> rfl)

theorem State.pumpAll_only (hl : [Sect.out, Sect.od, Sect.xl, Sect.req, Sect.home, Sect.ep, Sect.stn, Sect.sw, Sect.dlv, Sect.lnk, Sect.mgt] ⊆ sl) (h : State.Only sl s0 s)  :
    State.Only sl s0 (State.pumpAll s) := by
  unfold State.pumpAll
  try dsimp only
  repeat' with_reducible first | assumption | apply State.each_only | apply State.pumpTransit_only (Sect.sub rfl hl) | apply State.ite_only | (intro _ _ _ _) | (intro _ _ _) | (intro _; rfl) | (intro _; apply map_map_same; intro _; rfl) | (intro _; apply map_mapIf; intro _; rfl) | (refine State.fst_only (by assumption) ?_) | split | dsimp only | (intro _; split <;> rfl) | (intro _; (repeat' split) <;> rfl)

theorem State.cacheBuf_only (hl : [Sect.od, Sect.sw, Sect.mgt] ⊆ sl) (h : State.Only sl s0 s) (v : Nat) :
    State.Only sl s0 (State.cacheBuf s v) := by
  unfold State.cacheBuf
  try dsimp only
  repeat' with_reducible first | assumption | apply State.mapSw_only (Sect.sub rfl hl) | apply State.tbufError_only (Sect.sub rfl hl) | apply State.ite_only | (intro _ _ _ _) | (intro _ _ _) | (intro _; rfl) | (intro _; apply map_map_same; intro _; rfl) | (intro _; apply map_mapIf; intro _; rfl) | (refine State.fst_only (by assumption) ?_) | split | dsimp only | (intro _; split <;> rfl) | (intro _; (repeat' split) <;> rfl)

theorem State.clearSeen_only (hl : [Sect.sw] ⊆ sl) (h : State.Only sl s0 s) (bs : List Nat) :
    State.Only sl s0 (State.clearSeen s bs) := by
  unfold State.clearSeen
  apply State.mapSw_only (Sect.sub rfl hl)
  assumption

theorem execTbufCacheRefill_only (hl : Sect.wide ⊆ sl) (h : State.Only sl s0 s) :
    Res.Only sl s0 (execTbufCacheRefill s) := by
  unfold execTbufCacheRefill
  try dsimp only
  repeat' with_reducible first | assumption | apply State.mapSw_only (Sect.sub rfl hl) | apply State.pumpAll_only (Sect.sub rfl hl) | apply State.settleAll_only (Sect.sub rfl hl) | apply State.clearSeen_only (Sect.sub rfl hl) | apply State.cacheBuf_only (Sect.sub rfl hl) | apply State.noteFree_only (Sect.sub rfl hl) | apply State.each_only | apply Res.next_only | apply Res.ite_only | apply State.ite_only | (intro _ _ _ _) | (intro _ _ _) | (intro _; rfl) | (intro _; apply map_map_same; intro _; rfl) | (intro _; apply map_mapIf; intro _; rfl) | (refine State.fst_only (by assumption) ?_) | split | dsimp only | (intro _; split <;> rfl) | (intro _; (repeat' split) <;> rfl)

theorem execFramePark_only (hl : [Sect.out, Sect.life, Sect.od, Sect.mem, Sect.poison, Sect.written, Sect.xl, Sect.req, Sect.home, Sect.ep, Sect.stn, Sect.sw, Sect.dlv, Sect.lnk, Sect.tim, Sect.slu, Sect.mgt, Sect.shd] ⊆ sl) (h : State.Only sl s0 s) (id : Nat) :
    Res.Only sl s0 (execFramePark id s) := by
  unfold execFramePark
  try dsimp only
  repeat' with_reducible first | assumption | apply State.setCore_only (Sect.sub rfl hl) | apply State.returnCredit_only (Sect.sub rfl hl) | apply State.bump_only (Sect.sub rfl hl) | apply State.quadEv_only (Sect.sub rfl hl) | apply State.pushCells_only (Sect.sub rfl hl) | apply State.coreOut_only (Sect.sub rfl hl) | apply State.settleCells_only (Sect.sub rfl hl) | apply State.pumpSources_only (Sect.sub rfl hl) | apply State.takeBufs_only (Sect.sub rfl hl) | (refine State.takeBufs_bad (Sect.sub rfl hl) ?_ (by assumption)) | (refine State.takeBufs_got (Sect.sub rfl hl) ?_ (by assumption)) | apply Res.next_only | apply Res.ite_only | apply State.ite_only | (intro _ _ _ _) | (intro _ _ _) | (intro _; rfl) | (intro _; apply map_map_same; intro _; rfl) | (intro _; apply map_mapIf; intro _; rfl) | (refine State.fst_only (by assumption) ?_) | split | dsimp only | (intro _; split <;> rfl) | (intro _; (repeat' split) <;> rfl)

theorem execFrameUnpark_only (hl : [Sect.out, Sect.life, Sect.od, Sect.mem, Sect.poison, Sect.written, Sect.xl, Sect.req, Sect.home, Sect.ep, Sect.stn, Sect.sw, Sect.dlv, Sect.lnk, Sect.tim, Sect.slu, Sect.mgt, Sect.shd] ⊆ sl) (h : State.Only sl s0 s) (id : Nat) :
    Res.Only sl s0 (execFrameUnpark id s) := by
  unfold execFrameUnpark
  try dsimp only
  repeat' with_reducible first | assumption | apply State.setCore_only (Sect.sub rfl hl) | apply State.giveBufs_only (Sect.sub rfl hl) | apply State.quadEv_only (Sect.sub rfl hl) | apply State.takeCells_only (Sect.sub rfl hl) | apply State.settleCells_only (Sect.sub rfl hl) | apply Res.next_only | apply Res.ite_only | apply State.ite_only | (intro _ _ _ _) | (intro _ _ _) | (intro _; rfl) | (intro _; apply map_map_same; intro _; rfl) | (intro _; apply map_mapIf; intro _; rfl) | (refine State.fst_only (by assumption) ?_) | split | dsimp only | (intro _; split <;> rfl) | (intro _; (repeat' split) <;> rfl)

theorem execMirrorSessionMode_only (hl : [Sect.out, Sect.od, Sect.nvq, Sect.ep, Sect.sw, Sect.mgt] ⊆ sl) (h : State.Only sl s0 s) (o : Origin) (n v : Nat) :
    Res.Only sl s0 (execMirrorSessionMode o n v s) := by
  unfold execMirrorSessionMode
  try dsimp only
  repeat' with_reducible first | assumption | apply State.commandIf_only (Sect.sub rfl hl) | apply State.writePlain_only (Sect.sub rfl hl) | apply State.mapSw_only (Sect.sub rfl hl) | apply Res.next_only | apply Res.ite_only | apply State.ite_only | (intro _ _ _ _) | (intro _ _ _) | (intro _; rfl) | (intro _; apply map_map_same; intro _; rfl) | (intro _; apply map_mapIf; intro _; rfl) | (refine State.fst_only (by assumption) ?_) | split | dsimp only | (intro _; split <;> rfl) | (intro _; (repeat' split) <;> rfl)

theorem State.analysisLaser_only (hl : [Sect.lnk] ⊆ sl) (h : State.Only sl s0 s)  :
    State.Only sl s0 (State.analysisLaser s) := by
  unfold State.analysisLaser
  try dsimp only
  repeat' with_reducible first | assumption | apply State.setFp_only (Sect.sub rfl hl) | apply State.ite_only | (intro _ _ _ _) | (intro _ _ _) | (intro _; rfl) | (intro _; apply map_map_same; intro _; rfl) | (intro _; apply map_mapIf; intro _; rfl) | (refine State.fst_only (by assumption) ?_) | split | dsimp only | (intro _; split <;> rfl) | (intro _; (repeat' split) <;> rfl)

theorem execAnalysisPort_only (hl : [Sect.out, Sect.od, Sect.nvq, Sect.ep, Sect.lnk, Sect.mgt] ⊆ sl) (h : State.Only sl s0 s) (o : Origin) (v : Nat) :
    Res.Only sl s0 (execAnalysisPort o v s) := by
  unfold execAnalysisPort
  try dsimp only
  repeat' with_reducible first | assumption | apply State.command_only (Sect.sub rfl hl) | apply State.settle_only (Sect.sub rfl hl) | apply State.wr_only (Sect.sub rfl hl) | apply State.analysisLaser_only (Sect.sub rfl hl) | apply Res.next_only | apply Res.ite_only | apply State.ite_only | (intro _ _ _ _) | (intro _ _ _) | (intro _; rfl) | (intro _; apply map_map_same; intro _; rfl) | (intro _; apply map_mapIf; intro _; rfl) | (refine State.fst_only (by assumption) ?_) | split | dsimp only | (intro _; split <;> rfl) | (intro _; (repeat' split) <;> rfl)

end Sys2Proof.Machine
end

