-- ==== Sys2Proof/Laws/OnlyTiming.lean ====
section
/-! SUPPORT. `State.Only` for every operation and meaning of Machine/Timing.lean: the sections that it may change. -/

namespace Sys2Proof.Machine

open Sys2Proof

set_option Elab.async false

set_option linter.unreachableTactic false
set_option linter.unusedTactic false

variable {s0 s : State} {sl : List Sect}

theorem State.selectRef_only (hl : [Sect.od] ⊆ sl) (h : State.Only sl s0 s) (v : Nat) :
    State.Only sl s0 (State.selectRef s v) := by
  unfold State.selectRef
  try dsimp only
  repeat' with_reducible first | assumption | apply State.wr_only (Sect.sub rfl hl) | apply State.bump_only (Sect.sub rfl hl) | apply State.ite_only | (intro _ _ _ _) | (intro _ _ _) | (intro _; rfl) | (intro _; apply map_map_same; intro _; rfl) | (intro _; apply map_mapIf; intro _; rfl) | (refine State.fst_only (by assumption) ?_) | split | dsimp only | (intro _; split <;> rfl) | (intro _; (repeat' split) <;> rfl)

theorem State.setRefAt_only (hl : [Sect.tim] ⊆ sl) (h : State.Only sl s0 s) (refB : Bool) :
    State.Only sl s0 (State.setRefAt s refB) := by
  unfold State.setRefAt
  try dsimp only
  repeat' with_reducible first | assumption | apply State.mapTim_only (Sect.sub rfl hl) | apply State.ite_only | (intro _ _ _ _) | (intro _ _ _) | (intro _; rfl) | (intro _; apply map_map_same; intro _; rfl) | (intro _; apply map_mapIf; intro _; rfl) | (refine State.fst_only (by assumption) ?_) | split | dsimp only | (intro _; split <;> rfl) | (intro _; (repeat' split) <;> rfl)

theorem execReferenceLost_only (hl : [Sect.od, Sect.tim, Sect.mgt] ⊆ sl) (h : State.Only sl s0 s) (refB : Bool) :
    Res.Only sl s0 (execReferenceLost refB s) := by
  unfold execReferenceLost
  try dsimp only
  repeat' with_reducible first | assumption | apply State.wr_only (Sect.sub rfl hl) | apply State.logFault_only (Sect.sub rfl hl) | apply State.selectRef_only (Sect.sub rfl hl) | apply State.setRefAt_only (Sect.sub rfl hl) | apply Res.next_only | apply Res.ite_only | apply State.ite_only | (intro _ _ _ _) | (intro _ _ _) | (intro _; rfl) | (intro _; apply map_map_same; intro _; rfl) | (intro _; apply map_mapIf; intro _; rfl) | (refine State.fst_only (by assumption) ?_) | split | dsimp only | (intro _; split <;> rfl) | (intro _; (repeat' split) <;> rfl)

theorem execReferenceQualified_only (hl : [Sect.od, Sect.tim] ⊆ sl) (h : State.Only sl s0 s) (refB : Bool) :
    Res.Only sl s0 (execReferenceQualified refB s) := by
  unfold execReferenceQualified
  try dsimp only
  repeat' with_reducible first | assumption | apply State.wr_only (Sect.sub rfl hl) | apply State.selectRef_only (Sect.sub rfl hl) | apply State.setRefAt_only (Sect.sub rfl hl) | apply Res.next_only | apply Res.ite_only | apply State.ite_only | (intro _ _ _ _) | (intro _ _ _) | (intro _; rfl) | (intro _; apply map_map_same; intro _; rfl) | (intro _; apply map_mapIf; intro _; rfl) | (refine State.fst_only (by assumption) ?_) | split | dsimp only | (intro _; split <;> rfl) | (intro _; (repeat' split) <;> rfl)

theorem execReferenceRevert_only (hl : [Sect.od] ⊆ sl) (h : State.Only sl s0 s)  :
    Res.Only sl s0 (execReferenceRevert s) := by
  unfold execReferenceRevert
  try dsimp only
  repeat' with_reducible first | assumption | apply State.selectRef_only (Sect.sub rfl hl) | apply Res.next_only | apply Res.ite_only | apply State.ite_only | (intro _ _ _ _) | (intro _ _ _) | (intro _; rfl) | (intro _; apply map_map_same; intro _; rfl) | (intro _; apply map_mapIf; intro _; rfl) | (refine State.fst_only (by assumption) ?_) | split | dsimp only | (intro _; split <;> rfl) | (intro _; (repeat' split) <;> rfl)

theorem State.noteStamp_only (hl : [Sect.od, Sect.tim] ⊆ sl) (h : State.Only sl s0 s) (x : StampOp) (good bad : Nat) :
    State.Only sl s0 (State.noteStamp s x good bad) := by
  unfold State.noteStamp
  try dsimp only
  repeat' with_reducible first | assumption | apply State.wr_only (Sect.sub rfl hl) | apply State.mapTim_only (Sect.sub rfl hl) | apply State.ite_only | (intro _ _ _ _) | (intro _ _ _) | (intro _; rfl) | (intro _; apply map_map_same; intro _; rfl) | (intro _; apply map_mapIf; intro _; rfl) | (refine State.fst_only (by assumption) ?_) | split | dsimp only | (intro _; split <;> rfl) | (intro _; (repeat' split) <;> rfl)

theorem execTimestampExchange_only (hl : [Sect.out, Sect.od, Sect.xl, Sect.req, Sect.home, Sect.ep, Sect.stn, Sect.sw, Sect.dlv, Sect.lnk, Sect.tim, Sect.slu, Sect.mgt, Sect.shd] ⊆ sl) (h : State.Only sl s0 s) (x : StampOp) :
    Res.Only sl s0 (execTimestampExchange x s) := by
  unfold execTimestampExchange
  try dsimp only
  repeat' with_reducible first | assumption | apply State.setLock_only (Sect.sub rfl hl) | apply State.mapTim_only (Sect.sub rfl hl) | apply State.loseLock_only (Sect.sub rfl hl) | apply State.judgeLock_only (Sect.sub rfl hl) | apply State.noteStamp_only (Sect.sub rfl hl) | apply State.acquire_only (Sect.sub rfl hl) | apply Res.next_only | apply Res.ite_only | apply State.ite_only | (intro _ _ _ _) | (intro _ _ _) | (intro _; rfl) | (intro _; apply map_map_same; intro _; rfl) | (intro _; apply map_mapIf; intro _; rfl) | (refine State.fst_only (by assumption) ?_) | split | dsimp only | (intro _; split <;> rfl) | (intro _; (repeat' split) <;> rfl)

theorem execRootHandover_only (hl : [Sect.out, Sect.od, Sect.xl, Sect.req, Sect.home, Sect.ep, Sect.stn, Sect.sw, Sect.dlv, Sect.lnk, Sect.tim, Sect.slu, Sect.mgt, Sect.shd] ⊆ sl) (h : State.Only sl s0 s) (r : RootOp) :
    Res.Only sl s0 (execRootHandover r s) := by
  unfold execRootHandover
  try dsimp only
  repeat' with_reducible first | assumption | apply State.wr_only (Sect.sub rfl hl) | apply State.mapTim_only (Sect.sub rfl hl) | apply State.setLock_only (Sect.sub rfl hl) | apply State.judgeLock_only (Sect.sub rfl hl) | apply State.acquire_only (Sect.sub rfl hl) | apply Res.next_only | apply Res.ite_only | apply State.ite_only | (intro _ _ _ _) | (intro _ _ _) | (intro _; rfl) | (intro _; apply map_map_same; intro _; rfl) | (intro _; apply map_mapIf; intro _; rfl) | (refine State.fst_only (by assumption) ?_) | split | dsimp only | (intro _; split <;> rfl) | (intro _; (repeat' split) <;> rfl)

theorem execRtSet_only (hl : [Sect.out, Sect.nvq, Sect.ep, Sect.tim, Sect.mgt] ⊆ sl) (h : State.Only sl s0 s) (o : Origin) (v : Nat) :
    Res.Only sl s0 (execRtSet o v s) := by
  unfold execRtSet
  try dsimp only
  repeat' with_reducible first | assumption | apply State.command_only (Sect.sub rfl hl) | apply State.mapTim_only (Sect.sub rfl hl) | apply Res.next_only | apply Res.ite_only | apply State.ite_only | (intro _ _ _ _) | (intro _ _ _) | (intro _; rfl) | (intro _; apply map_map_same; intro _; rfl) | (intro _; apply map_mapIf; intro _; rfl) | (refine State.fst_only (by assumption) ?_) | split | dsimp only | (intro _; split <;> rfl) | (intro _; (repeat' split) <;> rfl)

theorem execSluiceLoad_only (hl : [Sect.out, Sect.od, Sect.nvq, Sect.mem, Sect.poison, Sect.written, Sect.xl, Sect.req, Sect.ep, Sect.lnk, Sect.slu, Sect.mgt] ⊆ sl) (h : State.Only sl s0 s) (o : Origin) (pid fva len : Nat) :
    Res.Only sl s0 (execSluiceLoad o pid fva len s) := by
  unfold execSluiceLoad
  try dsimp only
  repeat' with_reducible first | assumption | apply State.command_only (Sect.sub rfl hl) | apply State.mapSlu_only (Sect.sub rfl hl) | apply State.moduleRead_only (Sect.sub rfl hl) | apply Res.next_only | apply Res.ite_only | apply State.ite_only | (intro _ _ _ _) | (intro _ _ _) | (intro _; rfl) | (intro _; apply map_map_same; intro _; rfl) | (intro _; apply map_mapIf; intro _; rfl) | (refine State.fst_only (by assumption) ?_) | split | dsimp only | (intro _; split <;> rfl) | (intro _; (repeat' split) <;> rfl)

theorem State.measure_only (hl : [Sect.sec] ⊆ sl) (h : State.Only sl s0 s) (pid kind ident fva len : Nat) (digest : List Byte) :
    State.Only sl s0 (State.measure s pid kind ident fva len digest) := by
  unfold State.measure
  try dsimp only
  repeat' with_reducible first | assumption | apply State.mapSec_only (Sect.sub rfl hl) | apply State.ite_only | (intro _ _ _ _) | (intro _ _ _) | (intro _; rfl) | (intro _; apply map_map_same; intro _; rfl) | (intro _; apply map_mapIf; intro _; rfl) | (refine State.fst_only (by assumption) ?_) | split | dsimp only | (intro _; split <;> rfl) | (intro _; (repeat' split) <;> rfl)

theorem execSluiceLoadComplete_only (hl : [Sect.out, Sect.od, Sect.mem, Sect.poison, Sect.written, Sect.xl, Sect.req, Sect.ep, Sect.lnk, Sect.slu, Sect.sec, Sect.mgt] ⊆ sl) (h : State.Only sl s0 s) (pid fva len : Nat) :
    Res.Only sl s0 (execSluiceLoadComplete pid fva len s) := by
  unfold execSluiceLoadComplete
  try dsimp only
  repeat' with_reducible first | assumption | apply State.mapSlu_only (Sect.sub rfl hl) | apply State.reply_only (Sect.sub rfl hl) | apply State.measure_only (Sect.sub rfl hl) | apply State.moduleRead_only (Sect.sub rfl hl) | apply State.dropTx_only (Sect.sub rfl hl) | apply Res.next_only | apply Res.ite_only | apply State.ite_only | (intro _ _ _ _) | (intro _ _ _) | (intro _; rfl) | (intro _; apply map_map_same; intro _; rfl) | (intro _; apply map_mapIf; intro _; rfl) | (refine State.fst_only (by assumption) ?_) | split | dsimp only | (intro _; split <;> rfl) | (intro _; (repeat' split) <;> rfl)

theorem execSluiceRemove_only (hl : [Sect.out, Sect.nvq, Sect.ep, Sect.slu, Sect.mgt] ⊆ sl) (h : State.Only sl s0 s) (o : Origin) (pid set : Nat) :
    Res.Only sl s0 (execSluiceRemove o pid set s) := by
  unfold execSluiceRemove
  try dsimp only
  repeat' with_reducible first | assumption | apply State.command_only (Sect.sub rfl hl) | apply State.mapSlu_only (Sect.sub rfl hl) | apply Res.next_only | apply Res.ite_only | apply State.ite_only | (intro _ _ _ _) | (intro _ _ _) | (intro _; rfl) | (intro _; apply map_map_same; intro _; rfl) | (intro _; apply map_mapIf; intro _; rfl) | (refine State.fst_only (by assumption) ?_) | split | dsimp only | (intro _; split <;> rfl) | (intro _; (repeat' split) <;> rfl)

theorem execSluiceCommit_only (hl : [Sect.out, Sect.nvq, Sect.ep, Sect.slu, Sect.mgt] ⊆ sl) (h : State.Only sl s0 s) (o : Origin) (pid ts : Nat) :
    Res.Only sl s0 (execSluiceCommit o pid ts s) := by
  unfold execSluiceCommit
  try dsimp only
  repeat' with_reducible first | assumption | apply State.command_only (Sect.sub rfl hl) | apply State.mapSlu_only (Sect.sub rfl hl) | apply Res.next_only | apply Res.ite_only | apply State.ite_only | (intro _ _ _ _) | (intro _ _ _) | (intro _; rfl) | (intro _; apply map_map_same; intro _; rfl) | (intro _; apply map_mapIf; intro _; rfl) | (refine State.fst_only (by assumption) ?_) | split | dsimp only | (intro _; split <;> rfl) | (intro _; (repeat' split) <;> rfl)

theorem State.noteSets_only (hl : [Sect.od] ⊆ sl) (h : State.Only sl s0 s)  :
    State.Only sl s0 (State.noteSets s) := by
  unfold State.noteSets
  try dsimp only
  repeat' with_reducible first | assumption | apply State.wr_only (Sect.sub rfl hl) | apply State.ite_only | (intro _ _ _ _) | (intro _ _ _) | (intro _; rfl) | (intro _; apply map_map_same; intro _; rfl) | (intro _; apply map_mapIf; intro _; rfl) | (refine State.fst_only (by assumption) ?_) | split | dsimp only | (intro _; split <;> rfl) | (intro _; (repeat' split) <;> rfl)

theorem execSluiceBankSwitch_only (hl : [Sect.od, Sect.slu] ⊆ sl) (h : State.Only sl s0 s) (pid : Nat) :
    Res.Only sl s0 (execSluiceBankSwitch pid s) := by
  unfold execSluiceBankSwitch
  try dsimp only
  repeat' with_reducible first | assumption | apply State.foldlPair_only | apply State.foldl_only | apply State.mapSlu_only (Sect.sub rfl hl) | apply State.wr_only (Sect.sub rfl hl) | apply State.noteSets_only (Sect.sub rfl hl) | apply Res.next_only | apply Res.ite_only | apply State.ite_only | (intro _ _ _ _) | (intro _ _ _) | (intro _; rfl) | (intro _; apply map_map_same; intro _; rfl) | (intro _; apply map_mapIf; intro _; rfl) | (refine State.fst_only (by assumption) ?_) | split | dsimp only | (intro _; split <;> rfl) | (intro _; (repeat' split) <;> rfl)

theorem State.wakeEgress_only (hl : [Sect.lnk] ⊆ sl) (h : State.Only sl s0 s) (egr : Nat) :
    State.Only sl s0 (State.wakeEgress s egr) := by
  unfold State.wakeEgress
  try dsimp only
  repeat' with_reducible first | assumption | apply State.setFp_only (Sect.sub rfl hl) | apply State.setAp_only (Sect.sub rfl hl) | apply State.each_only | apply State.ite_only | (intro _ _ _ _) | (intro _ _ _) | (intro _; rfl) | (intro _; apply map_map_same; intro _; rfl) | (intro _; apply map_mapIf; intro _; rfl) | (refine State.fst_only (by assumption) ?_) | split | dsimp only | (intro _; split <;> rfl) | (intro _; (repeat' split) <;> rfl)

theorem execGateWake_only (hl : [Sect.lnk, Sect.slu] ⊆ sl) (h : State.Only sl s0 s) (entry : Nat) :
    Res.Only sl s0 (execGateWake entry s) := by
  unfold execGateWake
  try dsimp only
  repeat' with_reducible first | assumption | apply State.setGate_only (Sect.sub rfl hl) | apply State.wakeEgress_only (Sect.sub rfl hl) | apply Res.next_only | apply Res.ite_only | apply State.ite_only | (intro _ _ _ _) | (intro _ _ _) | (intro _; rfl) | (intro _; apply map_map_same; intro _; rfl) | (intro _; apply map_mapIf; intro _; rfl) | (refine State.fst_only (by assumption) ?_) | split | dsimp only | (intro _; split <;> rfl) | (intro _; (repeat' split) <;> rfl)

theorem execGateOpen_only (hl : [Sect.lnk, Sect.slu] ⊆ sl) (h : State.Only sl s0 s) (entry : Nat) :
    Res.Only sl s0 (execGateOpen entry s) := by
  unfold execGateOpen
  try dsimp only
  repeat' with_reducible first | assumption | apply State.setGate_only (Sect.sub rfl hl) | apply State.wakeEgress_only (Sect.sub rfl hl) | apply Res.next_only | apply Res.ite_only | apply State.ite_only | (intro _ _ _ _) | (intro _ _ _) | (intro _; rfl) | (intro _; apply map_map_same; intro _; rfl) | (intro _; apply map_mapIf; intro _; rfl) | (refine State.fst_only (by assumption) ?_) | split | dsimp only | (intro _; split <;> rfl) | (intro _; (repeat' split) <;> rfl)

theorem execGateClose_only (hl : [Sect.out, Sect.od, Sect.xl, Sect.req, Sect.home, Sect.ep, Sect.stn, Sect.sw, Sect.dlv, Sect.lnk, Sect.slu, Sect.mgt] ⊆ sl) (h : State.Only sl s0 s) (entry : Nat) :
    Res.Only sl s0 (execGateClose entry s) := by
  unfold execGateClose
  try dsimp only
  repeat' with_reducible first | assumption | apply State.closeGate_only (Sect.sub rfl hl) | apply Res.next_only | apply Res.ite_only | apply State.ite_only | (intro _ _ _ _) | (intro _ _ _) | (intro _; rfl) | (intro _; apply map_map_same; intro _; rfl) | (intro _; apply map_mapIf; intro _; rfl) | (refine State.fst_only (by assumption) ?_) | split | dsimp only | (intro _; split <;> rfl) | (intro _; (repeat' split) <;> rfl)

end Sys2Proof.Machine
end

