-- ==== Sys2Proof/Laws/OnlyPartOps.lean ====
section
/-! SUPPORT. `State.Only` for every operation and meaning of Machine/PartOps.lean: the sections that it may change. -/

namespace Sys2Proof.Machine

open Sys2Proof

set_option Elab.async false

set_option linter.unreachableTactic false
set_option linter.unusedTactic false

variable {s0 s : State} {sl : List Sect}

theorem State.setDown_only (hl : [Sect.sec] ⊆ sl) (h : State.Only sl s0 s) (pid : Nat) (g : Teardown → Teardown) :
    State.Only sl s0 (State.setDown s pid g) := by
  unfold State.setDown
  try dsimp only
  repeat' with_reducible first | assumption | apply State.mapSec_only (Sect.sub rfl hl) | apply State.ite_only | (intro _ _ _ _) | (intro _ _ _) | (intro _; rfl) | (intro _; apply map_map_same; intro _; rfl) | (intro _; apply map_mapIf; intro _; rfl) | (refine State.fst_only (by assumption) ?_) | split | dsimp only | (intro _; split <;> rfl) | (intro _; (repeat' split) <;> rfl)

theorem State.closeFences_only (hl : [Sect.out, Sect.od, Sect.xl, Sect.req, Sect.ep, Sect.lnk, Sect.mgt] ⊆ sl) (h : State.Only sl s0 s) (pid : Nat) :
    State.Only sl s0 (State.closeFences s pid) := by
  unfold State.closeFences
  try dsimp only
  repeat' with_reducible first | assumption | apply State.each_only | apply State.endWait_only (Sect.sub rfl hl) | apply State.completeTx_only (Sect.sub rfl hl) | apply State.releaseEnds_only (Sect.sub rfl hl) | apply State.ite_only | (intro _ _ _ _) | (intro _ _ _) | (intro _; rfl) | (intro _; apply map_map_same; intro _; rfl) | (intro _; apply map_mapIf; intro _; rfl) | (refine State.fst_only (by assumption) ?_) | split | dsimp only | (intro _; split <;> rfl) | (intro _; (repeat' split) <;> rfl)

theorem State.closeFaults_only (hl : [Sect.out, Sect.od, Sect.xl, Sect.req, Sect.ep, Sect.lnk, Sect.mgt] ⊆ sl) (h : State.Only sl s0 s) (pid : Nat) :
    State.Only sl s0 (State.closeFaults s pid) := by
  unfold State.closeFaults
  try dsimp only
  repeat' with_reducible first | assumption | apply State.each_only | apply State.completeTx_only (Sect.sub rfl hl) | apply State.mapXl_only (Sect.sub rfl hl) | apply State.ite_only | (intro _ _ _ _) | (intro _ _ _) | (intro _; rfl) | (intro _; apply map_map_same; intro _; rfl) | (intro _; apply map_mapIf; intro _; rfl) | (refine State.fst_only (by assumption) ?_) | split | dsimp only | (intro _; split <;> rfl) | (intro _; (repeat' split) <;> rfl)

theorem State.closingNotices_only (hl : [Sect.out, Sect.od, Sect.sw, Sect.dlv, Sect.mgt] ⊆ sl) (h : State.Only sl s0 s) (pid : Nat) :
    State.Only sl s0 (State.closingNotices s pid) := by
  unfold State.closingNotices
  try dsimp only
  repeat' with_reducible first | assumption | apply State.each_only | apply State.sendSeq_only (Sect.sub rfl hl) | apply State.ite_only | (intro _ _ _ _) | (intro _ _ _) | (intro _; rfl) | (intro _; apply map_map_same; intro _; rfl) | (intro _; apply map_mapIf; intro _; rfl) | (refine State.fst_only (by assumption) ?_) | split | dsimp only | (intro _; split <;> rfl) | (intro _; (repeat' split) <;> rfl)

theorem State.closePart_only (hl : Sect.wide ⊆ sl) (h : State.Only sl s0 s) (pid : Nat) :
    State.Only sl s0 (State.closePart s pid) := by
  unfold State.closePart
  try dsimp only
  repeat' with_reducible first | assumption | apply State.setPart_only (Sect.sub rfl hl) | apply State.mapSec_only (Sect.sub rfl hl) | apply State.mapEp_only (Sect.sub rfl hl) | apply State.closeFences_only (Sect.sub rfl hl) | apply State.each_only | apply State.failFlow_only (Sect.sub rfl hl) | apply State.closeFaults_only (Sect.sub rfl hl) | apply State.queueStop_only (Sect.sub rfl hl) | apply State.writeBackAll_only (Sect.sub rfl hl) | apply State.reachDrop_only (Sect.sub rfl hl) | apply State.setDown_only (Sect.sub rfl hl) | apply State.settleAll_only (Sect.sub rfl hl) | apply State.ite_only | (intro _ _ _ _) | (intro _ _ _) | (intro _; rfl) | (intro _; apply map_map_same; intro _; rfl) | (intro _; apply map_mapIf; intro _; rfl) | (refine State.fst_only (by assumption) ?_) | split | dsimp only | (intro _; split <;> rfl) | (intro _; (repeat' split) <;> rfl)

theorem State.startAgreement_only (hl : [Sect.out, Sect.lnk] ⊆ sl) (h : State.Only sl s0 s) (n : Nat) :
    State.Only sl s0 (State.startAgreement s n) := by
  unfold State.startAgreement
  try dsimp only
  repeat' with_reducible first | assumption | apply State.setFp_only (Sect.sub rfl hl) | apply State.emit_only (Sect.sub rfl hl) | apply State.ite_only | (intro _ _ _ _) | (intro _ _ _) | (intro _; rfl) | (intro _; apply map_map_same; intro _; rfl) | (intro _; apply map_mapIf; intro _; rfl) | (refine State.fst_only (by assumption) ?_) | split | dsimp only | (intro _; split <;> rfl) | (intro _; (repeat' split) <;> rfl)

theorem State.abortLeft_only (hl : [Sect.out, Sect.od, Sect.xl, Sect.req, Sect.home, Sect.ep, Sect.sw, Sect.dlv, Sect.lnk, Sect.sec, Sect.mgt] ⊆ sl) (h : State.Only sl s0 s) (pid : Nat) :
    State.Only sl s0 (State.abortLeft s pid) := by
  unfold State.abortLeft
  try dsimp only
  repeat' with_reducible first | assumption | apply State.mapDlv_only (Sect.sub rfl hl) | apply State.mapHome_only (Sect.sub rfl hl) | apply State.each_only | apply State.completeTx_only (Sect.sub rfl hl) | apply State.setDown_only (Sect.sub rfl hl) | apply State.mapReq_only (Sect.sub rfl hl) | apply State.pumpPair_only (Sect.sub rfl hl) | apply State.ite_only | (intro _ _ _ _) | (intro _ _ _) | (intro _; rfl) | (intro _; apply map_map_same; intro _; rfl) | (intro _; apply map_mapIf; intro _; rfl) | (refine State.fst_only (by assumption) ?_) | split | dsimp only | (intro _; split <;> rfl) | (intro _; (repeat' split) <;> rfl)

theorem State.backLeft_only (hl : [Sect.out, Sect.od, Sect.xl, Sect.req, Sect.home, Sect.ep, Sect.sw, Sect.dlv, Sect.lnk, Sect.sec, Sect.mgt] ⊆ sl) (h : State.Only sl s0 s) (pid : Nat) :
    State.Only sl s0 (State.backLeft s pid) := by
  unfold State.backLeft
  try dsimp only
  repeat' with_reducible first | assumption | apply State.writeBackAll_only (Sect.sub rfl hl) | apply State.setDown_only (Sect.sub rfl hl) | apply State.ite_only | (intro _ _ _ _) | (intro _ _ _) | (intro _; rfl) | (intro _; apply map_map_same; intro _; rfl) | (intro _; apply map_mapIf; intro _; rfl) | (refine State.fst_only (by assumption) ?_) | split | dsimp only | (intro _; split <;> rfl) | (intro _; (repeat' split) <;> rfl)

theorem State.retireKeys_only (hl : [Sect.out, Sect.od, Sect.ep, Sect.lnk] ⊆ sl) (h : State.Only sl s0 s) (pid : Nat) :
    State.Only sl s0 (State.retireKeys s pid) := by
  unfold State.retireKeys
  try dsimp only
  repeat' with_reducible first | assumption | apply State.each_only | apply State.wr_only (Sect.sub rfl hl) | apply State.mapLnk_only (Sect.sub rfl hl) | apply State.mapEp_only (Sect.sub rfl hl) | apply State.startAgreement_only (Sect.sub rfl hl) | apply State.ite_only | (intro _ _ _ _) | (intro _ _ _) | (intro _; rfl) | (intro _; apply map_map_same; intro _; rfl) | (intro _; apply map_mapIf; intro _; rfl) | (refine State.fst_only (by assumption) ?_) | split | dsimp only | (intro _; split <;> rfl) | (intro _; (repeat' split) <;> rfl)

theorem State.scrub_only (hl : [Sect.own, Sect.fills] ⊆ sl) (h : State.Only sl s0 s) (gs : List Nat) (pid : Option Nat) :
    State.Only sl s0 (State.scrub s gs pid) := by
  unfold State.scrub
  try dsimp only
  repeat' with_reducible first | assumption | apply State.each_only | apply State.setGranule_only (Sect.sub rfl hl) | apply State.mapFills_only (Sect.sub rfl hl) | apply State.ite_only | (intro _ _ _ _) | (intro _ _ _) | (intro _; rfl) | (intro _; apply map_map_same; intro _; rfl) | (intro _; apply map_mapIf; intro _; rfl) | (refine State.fst_only (by assumption) ?_) | split | dsimp only | (intro _; split <;> rfl) | (intro _; (repeat' split) <;> rfl)

theorem State.dropPidFrames_only (hl : [Sect.out, Sect.od, Sect.sw, Sect.mgt] ⊆ sl) (h : State.Only sl s0 s) (pid : Nat) :
    State.Only sl s0 (State.dropPidFrames s pid) := by
  unfold State.dropPidFrames
  try dsimp only
  repeat' with_reducible first | assumption | apply State.each_only | apply State.setCore_only (Sect.sub rfl hl) | apply State.coreOut_only (Sect.sub rfl hl) | apply State.ite_only | (intro _ _ _ _) | (intro _ _ _) | (intro _; rfl) | (intro _; apply map_map_same; intro _; rfl) | (intro _; apply map_mapIf; intro _; rfl) | (refine State.fst_only (by assumption) ?_) | split | dsimp only | (intro _; split <;> rfl) | (intro _; (repeat' split) <;> rfl)

theorem State.downEnd_only (hl : [Sect.out, Sect.od, Sect.sec, Sect.mgt] ⊆ sl) (h : State.Only sl s0 s) (pid : Nat) :
    State.Only sl s0 (State.downEnd s pid) := by
  unfold State.downEnd
  try dsimp only
  repeat' with_reducible first | assumption | apply State.wr_only (Sect.sub rfl hl) | apply State.report_only (Sect.sub rfl hl) | apply State.event_only (Sect.sub rfl hl) | apply State.mapSec_only (Sect.sub rfl hl) | apply State.setPart_only (Sect.sub rfl hl) | apply State.ite_only | (intro _ _ _ _) | (intro _ _ _) | (intro _; rfl) | (intro _; apply map_map_same; intro _; rfl) | (intro _; apply map_mapIf; intro _; rfl) | (refine State.fst_only (by assumption) ?_) | split | dsimp only | (intro _; split <;> rfl) | (intro _; (repeat' split) <;> rfl)

theorem State.erasePart_only (hl : [Sect.out, Sect.od, Sect.own, Sect.fills, Sect.req, Sect.home, Sect.stn, Sect.sw, Sect.slu, Sect.sec, Sect.mgt] ⊆ sl) (h : State.Only sl s0 s) (pid : Nat) :
    State.Only sl s0 (State.erasePart s pid) := by
  unfold State.erasePart
  try dsimp only
  repeat' with_reducible first | assumption | apply State.scrub_only (Sect.sub rfl hl) | apply State.mapHome_only (Sect.sub rfl hl) | apply State.each_only | apply State.removeFlow_only (Sect.sub rfl hl) | apply State.mapSlu_only (Sect.sub rfl hl) | apply State.noteSets_only (Sect.sub rfl hl) | apply State.dropPidFrames_only (Sect.sub rfl hl) | apply State.setDown_only (Sect.sub rfl hl) | apply State.downEnd_only (Sect.sub rfl hl) | apply State.ite_only | (intro _ _ _ _) | (intro _ _ _) | (intro _; rfl) | (intro _; apply map_map_same; intro _; rfl) | (intro _; apply map_mapIf; intro _; rfl) | (refine State.fst_only (by assumption) ?_) | split | dsimp only | (intro _; split <;> rfl) | (intro _; (repeat' split) <;> rfl)

theorem State.teardown_only (hl : [Sect.out, Sect.life, Sect.od, Sect.mem, Sect.poison, Sect.written, Sect.own, Sect.fills, Sect.xl, Sect.req, Sect.home, Sect.ep, Sect.stn, Sect.sw, Sect.dlv, Sect.lnk, Sect.tim, Sect.slu, Sect.sec, Sect.mgt, Sect.shd] ⊆ sl) (h : State.Only sl s0 s) (pid : Nat) :
    State.Only sl s0 (State.teardown s pid) := by
  unfold State.teardown
  try dsimp only
  repeat' with_reducible first | assumption | apply State.abortLeft_only (Sect.sub rfl hl) | apply State.retireKeys_only (Sect.sub rfl hl) | apply State.setDown_only (Sect.sub rfl hl) | apply State.setPart_only (Sect.sub rfl hl) | apply State.erasePart_only (Sect.sub rfl hl) | apply State.settleAll_only (Sect.sub rfl hl) | apply State.ite_only | (intro _ _ _ _) | (intro _ _ _) | (intro _; rfl) | (intro _; apply map_map_same; intro _; rfl) | (intro _; apply map_mapIf; intro _; rfl) | (refine State.fst_only (by assumption) ?_) | split | dsimp only | (intro _; split <;> rfl) | (intro _; (repeat' split) <;> rfl)

end Sys2Proof.Machine
end

