-- ==== Sys2Proof/Laws/OnlyParts.lean ====
section
/-! SUPPORT. `State.Only` for every operation and meaning of Machine/Parts.lean: the sections that it may change. -/

namespace Sys2Proof.Machine

open Sys2Proof

set_option Elab.async false

set_option linter.unreachableTactic false
set_option linter.unusedTactic false

variable {s0 s : State} {sl : List Sect}

theorem State.fillSlot_only (hl : [Sect.od, Sect.sec] ⊆ sl) (h : State.Only sl s0 s) (pid slot kind : Nat) :
    State.Only sl s0 (State.fillSlot s pid slot kind) := by
  unfold State.fillSlot
  try dsimp only
  repeat' with_reducible first | assumption | apply State.wr_only (Sect.sub rfl hl) | apply State.mapSec_only (Sect.sub rfl hl) | apply State.ite_only | (intro _ _ _ _) | (intro _ _ _) | (intro _; rfl) | (intro _; apply map_map_same; intro _; rfl) | (intro _; apply map_mapIf; intro _; rfl) | (refine State.fst_only (by assumption) ?_) | split | dsimp only | (intro _; split <;> rfl) | (intro _; (repeat' split) <;> rfl)

theorem execPartCreate_only (hl : [Sect.out, Sect.od, Sect.nvq, Sect.ep, Sect.sec, Sect.mgt] ⊆ sl) (h : State.Only sl s0 s) (o : Origin) (pid : Nat) :
    Res.Only sl s0 (execPartCreate o pid s) := by
  unfold execPartCreate
  try dsimp only
  repeat' with_reducible first | assumption | apply State.command_only (Sect.sub rfl hl) | apply State.wr_only (Sect.sub rfl hl) | apply State.touchRetained_only (Sect.sub rfl hl) | apply State.fillSlot_only (Sect.sub rfl hl) | apply State.each_only | apply State.mapSec_only (Sect.sub rfl hl) | apply State.setPart_only (Sect.sub rfl hl) | apply Res.next_only | apply Res.ite_only | apply State.ite_only | (intro _ _ _ _) | (intro _ _ _) | (intro _; rfl) | (intro _; apply map_map_same; intro _; rfl) | (intro _; apply map_mapIf; intro _; rfl) | (refine State.fst_only (by assumption) ?_) | split | dsimp only | (intro _; split <;> rfl) | (intro _; (repeat' split) <;> rfl)

theorem execPartClose_only (hl : Sect.wideQ ⊆ sl) (h : State.Only sl s0 s) (o : Origin) (pid : Nat) :
    Res.Only sl s0 (execPartClose o pid s) := by
  unfold execPartClose
  try dsimp only
  repeat' with_reducible first | assumption | apply State.command_only (Sect.sub rfl hl) | apply State.settle_only (Sect.sub rfl hl) | apply State.closePart_only (Sect.sub rfl hl) | apply State.closingNotices_only (Sect.sub rfl hl) | apply Res.next_only | apply Res.ite_only | apply State.ite_only | (intro _ _ _ _) | (intro _ _ _) | (intro _; rfl) | (intro _; apply map_map_same; intro _; rfl) | (intro _; apply map_mapIf; intro _; rfl) | (refine State.fst_only (by assumption) ?_) | split | dsimp only | (intro _; split <;> rfl) | (intro _; (repeat' split) <;> rfl)

theorem execTeardownDrainEnd_only (hl : [Sect.out, Sect.life, Sect.od, Sect.mem, Sect.poison, Sect.written, Sect.own, Sect.fills, Sect.xl, Sect.req, Sect.home, Sect.ep, Sect.stn, Sect.sw, Sect.dlv, Sect.lnk, Sect.tim, Sect.slu, Sect.sec, Sect.mgt, Sect.shd] ⊆ sl) (h : State.Only sl s0 s) (pid : Nat) :
    Res.Only sl s0 (execTeardownDrainEnd pid s) := by
  unfold execTeardownDrainEnd
  try dsimp only
  repeat' with_reducible first | assumption | apply State.teardown_only (Sect.sub rfl hl) | apply State.backLeft_only (Sect.sub rfl hl) | apply State.settleAll_only (Sect.sub rfl hl) | apply Res.next_only | apply Res.ite_only | apply State.ite_only | (intro _ _ _ _) | (intro _ _ _) | (intro _; rfl) | (intro _; apply map_map_same; intro _; rfl) | (intro _; apply map_mapIf; intro _; rfl) | (refine State.fst_only (by assumption) ?_) | split | dsimp only | (intro _; split <;> rfl) | (intro _; (repeat' split) <;> rfl)

theorem execOwnGrant_only (hl : [Sect.out, Sect.nvq, Sect.own, Sect.ep, Sect.mgt] ⊆ sl) (h : State.Only sl s0 s) (o : Origin) (base count pid : Nat) :
    Res.Only sl s0 (execOwnGrant o base count pid s) := by
  unfold execOwnGrant
  try dsimp only
  repeat' with_reducible first | assumption | apply State.command_only (Sect.sub rfl hl) | apply State.each_only | apply State.setGranule_only (Sect.sub rfl hl) | apply Res.next_only | apply Res.ite_only | apply State.ite_only | (intro _ _ _ _) | (intro _ _ _) | (intro _; rfl) | (intro _; apply map_map_same; intro _; rfl) | (intro _; apply map_mapIf; intro _; rfl) | (refine State.fst_only (by assumption) ?_) | split | dsimp only | (intro _; split <;> rfl) | (intro _; (repeat' split) <;> rfl)

theorem execOwnRelease_only (hl : [Sect.out, Sect.nvq, Sect.own, Sect.fills, Sect.ep, Sect.mgt] ⊆ sl) (h : State.Only sl s0 s) (o : Origin) (base count : Nat) :
    Res.Only sl s0 (execOwnRelease o base count s) := by
  unfold execOwnRelease
  try dsimp only
  repeat' with_reducible first | assumption | apply State.command_only (Sect.sub rfl hl) | apply State.scrub_only (Sect.sub rfl hl) | apply Res.next_only | apply Res.ite_only | apply State.ite_only | (intro _ _ _ _) | (intro _ _ _) | (intro _; rfl) | (intro _; apply map_map_same; intro _; rfl) | (intro _; apply map_mapIf; intro _; rfl) | (refine State.fst_only (by assumption) ?_) | split | dsimp only | (intro _; split <;> rfl) | (intro _; (repeat' split) <;> rfl)

theorem State.zeroGranule_only (hl : [Sect.mem, Sect.poison, Sect.written] ⊆ sl) (h : State.Only sl s0 s) (g : Nat) :
    State.Only sl s0 (State.zeroGranule s g) := by
  refine h.trans ⟨⟨rfl, rfl, fun m => bytesDrop_wf _ _ _ m, id⟩, ?_⟩
  intro x hx
  cases x <;> first | exact rfl | exact ⟨rfl, rfl⟩ | exact ⟨rfl, rfl, rfl⟩ | exact absurd (hl (by simp)) hx

theorem execZeroFillGranuleDone_only (hl : [Sect.out, Sect.life, Sect.od, Sect.mem, Sect.poison, Sect.written, Sect.own, Sect.fills, Sect.xl, Sect.req, Sect.home, Sect.ep, Sect.stn, Sect.sw, Sect.dlv, Sect.lnk, Sect.tim, Sect.slu, Sect.sec, Sect.mgt, Sect.shd] ⊆ sl) (h : State.Only sl s0 s) (dev : Nat) :
    Res.Only sl s0 (execZeroFillGranuleDone dev s) := by
  unfold execZeroFillGranuleDone
  try dsimp only
  repeat' with_reducible first | assumption | apply State.mapFills_only (Sect.sub rfl hl) | apply State.zeroGranule_only (Sect.sub rfl hl) | apply State.setGranule_only (Sect.sub rfl hl) | apply State.teardown_only (Sect.sub rfl hl) | apply State.setDown_only (Sect.sub rfl hl) | apply State.downEnd_only (Sect.sub rfl hl) | apply Res.next_only | apply Res.ite_only | apply State.ite_only | (intro _ _ _ _) | (intro _ _ _) | (intro _; rfl) | (intro _; apply map_map_same; intro _; rfl) | (intro _; apply map_mapIf; intro _; rfl) | (refine State.fst_only (by assumption) ?_) | split | dsimp only | (intro _; split <;> rfl) | (intro _; (repeat' split) <;> rfl)

theorem execKeyAgree_only (hl : [Sect.out, Sect.od, Sect.nvq, Sect.ep, Sect.sec, Sect.mgt] ⊆ sl) (h : State.Only sl s0 s) (o : Origin) (pid slot kind : Nat) (pub nonce : List Byte) :
    Res.Only sl s0 (execKeyAgree o pid slot kind pub nonce s) := by
  unfold execKeyAgree
  try dsimp only
  repeat' with_reducible first | assumption | apply State.commandIf_only (Sect.sub rfl hl) | apply State.fillSlot_only (Sect.sub rfl hl) | apply State.mapSec_only (Sect.sub rfl hl) | apply Res.next_only | apply Res.ite_only | apply State.ite_only | (intro _ _ _ _) | (intro _ _ _) | (intro _; rfl) | (intro _; apply map_map_same; intro _; rfl) | (intro _; apply map_mapIf; intro _; rfl) | (refine State.fst_only (by assumption) ?_) | split | dsimp only | (intro _; split <;> rfl) | (intro _; (repeat' split) <;> rfl)

theorem execAttest_only (hl : [Sect.out, Sect.nvq, Sect.ep, Sect.sec, Sect.mgt] ⊆ sl) (h : State.Only sl s0 s) (o : Origin) (pid : Nat) (nonce : List Byte) :
    Res.Only sl s0 (execAttest o pid nonce s) := by
  unfold execAttest
  try dsimp only
  repeat' with_reducible first | assumption | apply State.commandIf_only (Sect.sub rfl hl) | apply State.mapSec_only (Sect.sub rfl hl) | apply Res.next_only | apply Res.ite_only | apply State.ite_only | (intro _ _ _ _) | (intro _ _ _) | (intro _; rfl) | (intro _; apply map_map_same; intro _; rfl) | (intro _; apply map_mapIf; intro _; rfl) | (refine State.fst_only (by assumption) ?_) | split | dsimp only | (intro _; split <;> rfl) | (intro _; (repeat' split) <;> rfl)

theorem execRegionRegister_only (hl : [Sect.out, Sect.od, Sect.nvq, Sect.mem, Sect.poison, Sect.written, Sect.xl, Sect.req, Sect.ep, Sect.lnk, Sect.sec, Sect.mgt] ⊆ sl) (h : State.Only sl s0 s) (o : Origin) (pid fva len : Nat) :
    Res.Only sl s0 (execRegionRegister o pid fva len s) := by
  unfold execRegionRegister
  try dsimp only
  repeat' with_reducible first | assumption | apply State.commandIf_only (Sect.sub rfl hl) | apply State.mapSec_only (Sect.sub rfl hl) | apply State.moduleRead_only (Sect.sub rfl hl) | apply Res.next_only | apply Res.ite_only | apply State.ite_only | (intro _ _ _ _) | (intro _ _ _) | (intro _; rfl) | (intro _; apply map_map_same; intro _; rfl) | (intro _; apply map_mapIf; intro _; rfl) | (refine State.fst_only (by assumption) ?_) | split | dsimp only | (intro _; split <;> rfl) | (intro _; (repeat' split) <;> rfl)

theorem execRegionRegisterComplete_only (hl : [Sect.out, Sect.od, Sect.mem, Sect.poison, Sect.written, Sect.xl, Sect.req, Sect.ep, Sect.lnk, Sect.sec, Sect.mgt] ⊆ sl) (h : State.Only sl s0 s) (pid : Nat) :
    Res.Only sl s0 (execRegionRegisterComplete pid s) := by
  unfold execRegionRegisterComplete
  try dsimp only
  repeat' with_reducible first | assumption | apply State.mapSec_only (Sect.sub rfl hl) | apply State.reply_only (Sect.sub rfl hl) | apply State.measure_only (Sect.sub rfl hl) | apply State.moduleRead_only (Sect.sub rfl hl) | apply State.dropTx_only (Sect.sub rfl hl) | apply Res.next_only | apply Res.ite_only | apply State.ite_only | (intro _ _ _ _) | (intro _ _ _) | (intro _; rfl) | (intro _; apply map_map_same; intro _; rfl) | (intro _; apply map_mapIf; intro _; rfl) | (refine State.fst_only (by assumption) ?_) | split | dsimp only | (intro _; split <;> rfl) | (intro _; (repeat' split) <;> rfl)

end Sys2Proof.Machine
end

