-- ==== Sys2Proof/Laws/OnlyDeliver.lean ====
section
/-! SUPPORT. `State.Only` for every operation and meaning of Machine/Deliver.lean: the sections that it may change. -/

namespace Sys2Proof.Machine

open Sys2Proof

set_option Elab.async false

set_option linter.unreachableTactic false
set_option linter.unusedTactic false

variable {s0 s : State} {sl : List Sect}

theorem State.closingIn_only (hl : Sect.wide ⊆ sl) (h : State.Only sl s0 s) (pid : Nat) :
    State.Only sl s0 (State.closingIn s pid) := by
  unfold State.closingIn
  try dsimp only
  repeat' with_reducible first | assumption | apply State.closePart_only (Sect.sub rfl hl) | apply State.ite_only | (intro _ _ _ _) | (intro _ _ _) | (intro _; rfl) | (intro _; apply map_map_same; intro _; rfl) | (intro _; apply map_mapIf; intro _; rfl) | (refine State.fst_only (by assumption) ?_) | split | dsimp only | (intro _; split <;> rfl) | (intro _; (repeat' split) <;> rfl)

theorem State.performFrame_only (hl : Sect.wide ⊆ sl) (h : State.Only sl s0 s) (f : Frame) (e : Nat) (loc : Option (Nat × Nat)) :
    State.Only sl s0 (State.performFrame s f e loc) := by
  unfold State.performFrame
  try dsimp only
  repeat' with_reducible first | assumption | apply State.sendAck_only (Sect.sub rfl hl) | apply State.recallForHost_only (Sect.sub rfl hl) | apply State.homeIn_only (Sect.sub rfl hl) | apply State.rspIn_only (Sect.sub rfl hl) | apply State.streamFrame_only (Sect.sub rfl hl) | apply State.acked_only (Sect.sub rfl hl) | apply State.noticeIn_only (Sect.sub rfl hl) | apply State.judgeLock_only (Sect.sub rfl hl) | apply State.ownerNews_only (Sect.sub rfl hl) | apply State.abortFlow_only (Sect.sub rfl hl) | apply State.creditIn_only (Sect.sub rfl hl) | apply State.closingIn_only (Sect.sub rfl hl) | apply State.homeRsp_only (Sect.sub rfl hl) | apply State.ite_only | (intro _ _ _ _) | (intro _ _ _) | (intro _; rfl) | (intro _; apply map_map_same; intro _; rfl) | (intro _; apply map_mapIf; intro _; rfl) | (refine State.fst_only (by assumption) ?_) | split | dsimp only | (intro _; split <;> rfl) | (intro _; (repeat' split) <;> rfl)

theorem State.unfinish_only (hl : [Sect.dlv] ⊆ sl) (h : State.Only sl s0 s) (f : Frame) :
    State.Only sl s0 (State.unfinish s f) := by
  unfold State.unfinish
  try dsimp only
  repeat' with_reducible first | assumption | apply State.setPeer_only (Sect.sub rfl hl) | apply State.ite_only | (intro _ _ _ _) | (intro _ _ _) | (intro _; rfl) | (intro _; apply map_map_same; intro _; rfl) | (intro _; apply map_mapIf; intro _; rfl) | (refine State.fst_only (by assumption) ?_) | split | dsimp only | (intro _; split <;> rfl) | (intro _; (repeat' split) <;> rfl)

theorem State.dupFrame_only (hl : Sect.wide ⊆ sl) (h : State.Only sl s0 s) (f : Frame) (e : Nat) (w : WinRec) :
    State.Only sl s0 (State.dupFrame s f e w) := by
  unfold State.dupFrame
  try dsimp only
  repeat' with_reducible first | assumption | apply State.bump_only (Sect.sub rfl hl) | apply State.sendAck_only (Sect.sub rfl hl) | apply State.sendPlain_only (Sect.sub rfl hl) | apply State.unfinish_only (Sect.sub rfl hl) | apply State.performFrame_only (Sect.sub rfl hl) | apply State.ite_only | (intro _ _ _ _) | (intro _ _ _) | (intro _; rfl) | (intro _; apply map_map_same; intro _; rfl) | (intro _; apply map_mapIf; intro _; rfl) | (refine State.fst_only (by assumption) ?_) | split | dsimp only | (intro _; split <;> rfl) | (intro _; (repeat' split) <;> rfl)

theorem State.targetFrame_only (hl : Sect.wide ⊆ sl) (h : State.Only sl s0 s) (f : Frame) (e : Nat) (loc : Option (Nat × Nat)) :
    State.Only sl s0 (State.targetFrame s f e loc) := by
  unfold State.targetFrame
  try dsimp only
  repeat' with_reducible first | assumption | apply State.performFrame_only (Sect.sub rfl hl) | apply State.bump_only (Sect.sub rfl hl) | apply State.fresh_only (Sect.sub rfl hl) | apply State.winAdd_only (Sect.sub rfl hl) | apply State.dupFrame_only (Sect.sub rfl hl) | apply State.ite_only | (intro _ _ _ _) | (intro _ _ _) | (intro _; rfl) | (intro _; apply map_map_same; intro _; rfl) | (intro _; apply map_mapIf; intro _; rfl) | (refine State.fst_only (by assumption) ?_) | split | dsimp only | (intro _; split <;> rfl) | (intro _; (repeat' split) <;> rfl)

theorem State.dropCopies_only (hl : [Sect.out, Sect.od, Sect.sw, Sect.mgt] ⊆ sl) (h : State.Only sl s0 s) (id : Nat) :
    State.Only sl s0 (State.dropCopies s id) := by
  unfold State.dropCopies
  try dsimp only
  repeat' with_reducible first | assumption | apply State.setCore_only (Sect.sub rfl hl) | apply State.coreOut_only (Sect.sub rfl hl) | apply State.ite_only | (intro _ _ _ _) | (intro _ _ _) | (intro _; rfl) | (intro _; apply map_map_same; intro _; rfl) | (intro _; apply map_mapIf; intro _; rfl) | (refine State.fst_only (by assumption) ?_) | split | dsimp only | (intro _; split <;> rfl) | (intro _; (repeat' split) <;> rfl)

theorem execFrameDelivery_only (hl : Sect.wide ⊆ sl) (h : State.Only sl s0 s) (id : Nat) :
    Res.Only sl s0 (execFrameDelivery id s) := by
  unfold execFrameDelivery
  try dsimp only
  repeat' with_reducible first | assumption | apply State.bump_only (Sect.sub rfl hl) | apply State.dropCopies_only (Sect.sub rfl hl) | apply State.setCore_only (Sect.sub rfl hl) | apply State.coreOut_only (Sect.sub rfl hl) | apply State.performFrame_only (Sect.sub rfl hl) | apply State.settleAll_only (Sect.sub rfl hl) | apply State.targetFrame_only (Sect.sub rfl hl) | apply State.settleCells_only (Sect.sub rfl hl) | apply Res.next_only | apply Res.ite_only | apply State.ite_only | (intro _ _ _ _) | (intro _ _ _) | (intro _; rfl) | (intro _; apply map_map_same; intro _; rfl) | (intro _; apply map_mapIf; intro _; rfl) | (refine State.fst_only (by assumption) ?_) | split | dsimp only | (intro _; split <;> rfl) | (intro _; (repeat' split) <;> rfl)

theorem execAckArrival_only (hl : Sect.wide ⊆ sl) (h : State.Only sl s0 s) (src : Nat) (seqs : List Nat) :
    Res.Only sl s0 (execAckArrival src seqs s) := by
  unfold execAckArrival
  try dsimp only
  repeat' with_reducible first | assumption | apply State.acked_only (Sect.sub rfl hl) | apply State.settleAll_only (Sect.sub rfl hl) | apply Res.next_only | apply Res.ite_only | apply State.ite_only | (intro _ _ _ _) | (intro _ _ _) | (intro _; rfl) | (intro _; apply map_map_same; intro _; rfl) | (intro _; apply map_mapIf; intro _; rfl) | (refine State.fst_only (by assumption) ?_) | split | dsimp only | (intro _; split <;> rfl) | (intro _; (repeat' split) <;> rfl)

theorem State.markAcked_only (hl : [Sect.out, Sect.od, Sect.home, Sect.sw, Sect.dlv, Sect.lnk, Sect.mgt] ⊆ sl) (h : State.Only sl s0 s) (hid : Nat) :
    State.Only sl s0 (State.markAcked s hid) := by
  unfold State.markAcked
  try dsimp only
  repeat' with_reducible first | assumption | apply State.acked_only (Sect.sub rfl hl) | apply State.mapHome_only (Sect.sub rfl hl) | apply State.ite_only | (intro _ _ _ _) | (intro _ _ _) | (intro _; rfl) | (intro _; apply map_map_same; intro _; rfl) | (intro _; apply map_mapIf; intro _; rfl) | (refine State.fst_only (by assumption) ?_) | split | dsimp only | (intro _; split <;> rfl) | (intro _; (repeat' split) <;> rfl)

theorem execHeldRequestAck_only (hl : [Sect.out, Sect.od, Sect.home, Sect.sw, Sect.dlv, Sect.lnk, Sect.mgt] ⊆ sl) (h : State.Only sl s0 s) (pos : Nat) :
    Res.Only sl s0 (execHeldRequestAck pos s) := by
  unfold execHeldRequestAck
  try dsimp only
  repeat' with_reducible first | assumption | apply State.acked_only (Sect.sub rfl hl) | apply State.markAcked_only (Sect.sub rfl hl) | apply State.sendAck_only (Sect.sub rfl hl) | apply Res.next_only | apply Res.ite_only | apply State.ite_only | (intro _ _ _ _) | (intro _ _ _) | (intro _; rfl) | (intro _; apply map_map_same; intro _; rfl) | (intro _; apply map_mapIf; intro _; rfl) | (refine State.fst_only (by assumption) ?_) | split | dsimp only | (intro _; split <;> rfl) | (intro _; (repeat' split) <;> rfl)

theorem execAckedRequestQuery_only (hl : [Sect.out, Sect.od, Sect.home, Sect.sw, Sect.dlv, Sect.lnk, Sect.mgt] ⊆ sl) (h : State.Only sl s0 s) (dst seq : Nat) :
    Res.Only sl s0 (execAckedRequestQuery dst seq s) := by
  unfold execAckedRequestQuery
  try dsimp only
  repeat' with_reducible first | assumption | apply State.acked_only (Sect.sub rfl hl) | apply State.bump_only (Sect.sub rfl hl) | apply State.attempt_only (Sect.sub rfl hl) | apply State.setOpen_only (Sect.sub rfl hl) | apply Res.next_only | apply Res.ite_only | apply State.ite_only | (intro _ _ _ _) | (intro _ _ _) | (intro _; rfl) | (intro _; apply map_map_same; intro _; rfl) | (intro _; apply map_mapIf; intro _; rfl) | (refine State.fst_only (by assumption) ?_) | split | dsimp only | (intro _; split <;> rfl) | (intro _; (repeat' split) <;> rfl)

theorem execResendTimerExpiry_only (hl : Sect.wide ⊆ sl) (h : State.Only sl s0 s) (dst seq : Nat) :
    Res.Only sl s0 (execResendTimerExpiry dst seq s) := by
  unfold execResendTimerExpiry
  try dsimp only
  repeat' with_reducible first | assumption | apply State.acked_only (Sect.sub rfl hl) | apply State.attemptFails_only (Sect.sub rfl hl) | apply State.settleAll_only (Sect.sub rfl hl) | apply Res.next_only | apply Res.ite_only | apply State.ite_only | (intro _ _ _ _) | (intro _ _ _) | (intro _; rfl) | (intro _; apply map_map_same; intro _; rfl) | (intro _; apply map_mapIf; intro _; rfl) | (refine State.fst_only (by assumption) ?_) | split | dsimp only | (intro _; split <;> rfl) | (intro _; (repeat' split) <;> rfl)

theorem State.keepFp_only (hl : [Sect.out, Sect.lnk] ⊆ sl) (h : State.Only sl s0 s) (n : Nat) :
    State.Only sl s0 (State.keepFp s n) := by
  unfold State.keepFp
  try dsimp only
  repeat' with_reducible first | assumption | apply State.emit_only (Sect.sub rfl hl) | apply State.setFp_only (Sect.sub rfl hl) | apply State.ite_only | (intro _ _ _ _) | (intro _ _ _) | (intro _; rfl) | (intro _; apply map_map_same; intro _; rfl) | (intro _; apply map_mapIf; intro _; rfl) | (refine State.fst_only (by assumption) ?_) | split | dsimp only | (intro _; split <;> rfl) | (intro _; (repeat' split) <;> rfl)

theorem State.keepAp_only (hl : [Sect.out, Sect.lnk] ⊆ sl) (h : State.Only sl s0 s) (n : Nat) :
    State.Only sl s0 (State.keepAp s n) := by
  unfold State.keepAp
  try dsimp only
  repeat' with_reducible first | assumption | apply State.emit_only (Sect.sub rfl hl) | apply State.setAp_only (Sect.sub rfl hl) | apply State.ite_only | (intro _ _ _ _) | (intro _ _ _) | (intro _; rfl) | (intro _; apply map_map_same; intro _; rfl) | (intro _; apply map_mapIf; intro _; rfl) | (refine State.fst_only (by assumption) ?_) | split | dsimp only | (intro _; split <;> rfl) | (intro _; (repeat' split) <;> rfl)

theorem State.analysisKeep_only (hl : [Sect.out] ⊆ sl) (h : State.Only sl s0 s)  :
    State.Only sl s0 (State.analysisKeep s) := by
  unfold State.analysisKeep
  try dsimp only
  repeat' with_reducible first | assumption | apply State.emit_only (Sect.sub rfl hl) | apply State.ite_only | (intro _ _ _ _) | (intro _ _ _) | (intro _; rfl) | (intro _; apply map_map_same; intro _; rfl) | (intro _; apply map_mapIf; intro _; rfl) | (refine State.fst_only (by assumption) ?_) | split | dsimp only | (intro _; split <;> rfl) | (intro _; (repeat' split) <;> rfl)

theorem execKeepaliveSend_only (hl : [Sect.out, Sect.lnk] ⊆ sl) (h : State.Only sl s0 s)  :
    Res.Only sl s0 (execKeepaliveSend s) := by
  unfold execKeepaliveSend
  try dsimp only
  repeat' with_reducible first | assumption | apply State.each_only | apply State.keepFp_only (Sect.sub rfl hl) | apply State.keepAp_only (Sect.sub rfl hl) | apply State.analysisKeep_only (Sect.sub rfl hl) | apply Res.next_only | apply Res.ite_only | apply State.ite_only | (intro _ _ _ _) | (intro _ _ _) | (intro _; rfl) | (intro _; apply map_map_same; intro _; rfl) | (intro _; apply map_mapIf; intro _; rfl) | (refine State.fst_only (by assumption) ?_) | split | dsimp only | (intro _; split <;> rfl) | (intro _; (repeat' split) <;> rfl)

theorem execKeepaliveTimeout_only (hl : Sect.wide ⊆ sl) (h : State.Only sl s0 s) (port : Nat) :
    Res.Only sl s0 (execKeepaliveTimeout port s) := by
  unfold execKeepaliveTimeout
  try dsimp only
  repeat' with_reducible first | assumption | apply State.portMasked_only (Sect.sub rfl hl) | apply State.settleAll_only (Sect.sub rfl hl) | apply Res.next_only | apply Res.ite_only | apply State.ite_only | (intro _ _ _ _) | (intro _ _ _) | (intro _; rfl) | (intro _; apply map_map_same; intro _; rfl) | (intro _; apply map_mapIf; intro _; rfl) | (refine State.fst_only (by assumption) ?_) | split | dsimp only | (intro _; split <;> rfl) | (intro _; (repeat' split) <;> rfl)

theorem execLossOfLight_only (hl : Sect.wide ⊆ sl) (h : State.Only sl s0 s) (port : Nat) :
    Res.Only sl s0 (execLossOfLight port s) := by
  unfold execLossOfLight
  try dsimp only
  repeat' with_reducible first | assumption | apply State.setFp_only (Sect.sub rfl hl) | apply State.fpDown_only (Sect.sub rfl hl) | apply State.settleAll_only (Sect.sub rfl hl) | apply Res.next_only | apply Res.ite_only | apply State.ite_only | (intro _ _ _ _) | (intro _ _ _) | (intro _; rfl) | (intro _; apply map_map_same; intro _; rfl) | (intro _; apply map_mapIf; intro _; rfl) | (refine State.fst_only (by assumption) ?_) | split | dsimp only | (intro _; split <;> rfl) | (intro _; (repeat' split) <;> rfl)

theorem execLinkStateNotice_only (hl : Sect.wide ⊆ sl) (h : State.Only sl s0 s) (n : Notice) :
    Res.Only sl s0 (execLinkStateNotice n s) := by
  unfold execLinkStateNotice
  try dsimp only
  repeat' with_reducible first | assumption | apply State.noticeIn_only (Sect.sub rfl hl) | apply State.judgeLock_only (Sect.sub rfl hl) | apply State.settleAll_only (Sect.sub rfl hl) | apply Res.next_only | apply Res.ite_only | apply State.ite_only | (intro _ _ _ _) | (intro _ _ _) | (intro _; rfl) | (intro _; apply map_map_same; intro _; rfl) | (intro _; apply map_mapIf; intro _; rfl) | (refine State.fst_only (by assumption) ?_) | split | dsimp only | (intro _; split <;> rfl) | (intro _; (repeat' split) <;> rfl)

theorem execPeerLossTimeout_only (hl : Sect.wide ⊆ sl) (h : State.Only sl s0 s) (mid : Nat) :
    Res.Only sl s0 (execPeerLossTimeout mid s) := by
  unfold execPeerLossTimeout
  try dsimp only
  repeat' with_reducible first | assumption | apply State.declareLost_only (Sect.sub rfl hl) | apply State.judgeLock_only (Sect.sub rfl hl) | apply State.settleAll_only (Sect.sub rfl hl) | apply Res.next_only | apply Res.ite_only | apply State.ite_only | (intro _ _ _ _) | (intro _ _ _) | (intro _; rfl) | (intro _; apply map_map_same; intro _; rfl) | (intro _; apply map_mapIf; intro _; rfl) | (refine State.fst_only (by assumption) ?_) | split | dsimp only | (intro _; split <;> rfl) | (intro _; (repeat' split) <;> rfl)

theorem execClosingNotice_only (hl : Sect.wide ⊆ sl) (h : State.Only sl s0 s) (src pid : Nat) :
    Res.Only sl s0 (execClosingNotice src pid s) := by
  unfold execClosingNotice
  try dsimp only
  repeat' with_reducible first | assumption | apply State.closingIn_only (Sect.sub rfl hl) | apply Res.next_only | apply Res.ite_only | apply State.ite_only | (intro _ _ _ _) | (intro _ _ _) | (intro _; rfl) | (intro _; apply map_map_same; intro _; rfl) | (intro _; apply map_mapIf; intro _; rfl) | (refine State.fst_only (by assumption) ?_) | split | dsimp only | (intro _; split <;> rfl) | (intro _; (repeat' split) <;> rfl)

theorem execAbortNotice_only (hl : Sect.wide ⊆ sl) (h : State.Only sl s0 s) (src pid flow status station time : Nat) :
    Res.Only sl s0 (execAbortNotice src pid flow status station time s) := by
  unfold execAbortNotice
  try dsimp only
  repeat' with_reducible first | assumption | apply State.abortFlow_only (Sect.sub rfl hl) | apply State.settleAll_only (Sect.sub rfl hl) | apply State.station_only (Sect.sub rfl hl) | apply Res.next_only | apply Res.ite_only | apply State.ite_only | (intro _ _ _ _) | (intro _ _ _) | (intro _; rfl) | (intro _; apply map_map_same; intro _; rfl) | (intro _; apply map_mapIf; intro _; rfl) | (refine State.fst_only (by assumption) ?_) | split | dsimp only | (intro _; split <;> rfl) | (intro _; (repeat' split) <;> rfl)

theorem execCreditReturn_only (hl : [Sect.out, Sect.stn, Sect.lnk] ⊆ sl) (h : State.Only sl s0 s) (src pid flow sid consumer free : Nat) :
    Res.Only sl s0 (execCreditReturn src pid flow sid consumer free s) := by
  unfold execCreditReturn
  try dsimp only
  repeat' with_reducible first | assumption | apply State.creditIn_only (Sect.sub rfl hl) | apply Res.next_only | apply Res.ite_only | apply State.ite_only | (intro _ _ _ _) | (intro _ _ _) | (intro _; rfl) | (intro _; apply map_map_same; intro _; rfl) | (intro _; apply map_mapIf; intro _; rfl) | (refine State.fst_only (by assumption) ?_) | split | dsimp only | (intro _; split <;> rfl) | (intro _; (repeat' split) <;> rfl)

theorem State.pumpHeld_only (hl : [Sect.out, Sect.od, Sect.sw, Sect.dlv, Sect.mgt] ⊆ sl) (h : State.Only sl s0 s) (d : Nat) (fuel : Nat) :
    State.Only sl s0 (State.pumpHeld s d fuel) := by
  induction fuel generalizing s d with
  | zero => exact h
  | succ n ih =>
    unfold State.pumpHeld
    try dsimp only
    repeat' with_reducible first | apply ih | assumption | apply State.pumpPair_only (Sect.sub rfl hl) | apply State.ite_only | (intro _ _ _ _) | (intro _ _ _) | (intro _; rfl) | (intro _; apply map_map_same; intro _; rfl) | (intro _; apply map_mapIf; intro _; rfl) | (refine State.fst_only (by assumption) ?_) | split | dsimp only | (intro _; split <;> rfl) | (intro _; (repeat' split) <;> rfl)

theorem State.resumeHeld_only (hl : [Sect.out, Sect.od, Sect.sw, Sect.dlv, Sect.mgt] ⊆ sl) (h : State.Only sl s0 s)  :
    State.Only sl s0 (State.resumeHeld s) := by
  unfold State.resumeHeld
  try dsimp only
  repeat' with_reducible first | assumption | apply State.each_only | apply State.pumpHeld_only (Sect.sub rfl hl) | apply State.ite_only | (intro _ _ _ _) | (intro _ _ _) | (intro _; rfl) | (intro _; apply map_map_same; intro _; rfl) | (intro _; apply map_mapIf; intro _; rfl) | (refine State.fst_only (by assumption) ?_) | split | dsimp only | (intro _; split <;> rfl) | (intro _; (repeat' split) <;> rfl)

theorem State.endDrain_only (hl : [Sect.out, Sect.od, Sect.sw, Sect.dlv, Sect.mgt] ⊆ sl) (h : State.Only sl s0 s)  :
    State.Only sl s0 (State.endDrain s) := by
  unfold State.endDrain
  try dsimp only
  repeat' with_reducible first | assumption | apply State.wr_only (Sect.sub rfl hl) | apply State.mapDlv_only (Sect.sub rfl hl) | apply State.resumeHeld_only (Sect.sub rfl hl) | apply State.ite_only | (intro _ _ _ _) | (intro _ _ _) | (intro _; rfl) | (intro _; apply map_map_same; intro _; rfl) | (intro _; apply map_mapIf; intro _; rfl) | (refine State.fst_only (by assumption) ?_) | split | dsimp only | (intro _; split <;> rfl) | (intro _; (repeat' split) <;> rfl)

theorem execRouteDrain_only (hl : [Sect.out, Sect.od, Sect.nvq, Sect.ep, Sect.dlv, Sect.mgt] ⊆ sl) (h : State.Only sl s0 s) (o : Origin) (v : Nat) :
    Res.Only sl s0 (execRouteDrain o v s) := by
  unfold execRouteDrain
  try dsimp only
  repeat' with_reducible first | assumption | apply State.command_only (Sect.sub rfl hl) | apply State.settle_only (Sect.sub rfl hl) | apply State.wr_only (Sect.sub rfl hl) | apply State.mapDlv_only (Sect.sub rfl hl) | apply Res.next_only | apply Res.ite_only | apply State.ite_only | (intro _ _ _ _) | (intro _ _ _) | (intro _; rfl) | (intro _; apply map_map_same; intro _; rfl) | (intro _; apply map_mapIf; intro _; rfl) | (refine State.fst_only (by assumption) ?_) | split | dsimp only | (intro _; split <;> rfl) | (intro _; (repeat' split) <;> rfl)

theorem execRouteDrained_only (hl : [Sect.out, Sect.od, Sect.ep, Sect.dlv, Sect.mgt] ⊆ sl) (h : State.Only sl s0 s)  :
    Res.Only sl s0 (execRouteDrained s) := by
  unfold execRouteDrained
  try dsimp only
  repeat' with_reducible first | assumption | apply State.wr_only (Sect.sub rfl hl) | apply State.mapDlv_only (Sect.sub rfl hl) | apply State.reply_only (Sect.sub rfl hl) | apply Res.next_only | apply Res.ite_only | apply State.ite_only | (intro _ _ _ _) | (intro _ _ _) | (intro _; rfl) | (intro _; apply map_map_same; intro _; rfl) | (intro _; apply map_mapIf; intro _; rfl) | (refine State.fst_only (by assumption) ?_) | split | dsimp only | (intro _; split <;> rfl) | (intro _; (repeat' split) <;> rfl)

theorem execRouteDrainTimeout_only (hl : [Sect.out, Sect.od, Sect.ep, Sect.sw, Sect.dlv, Sect.mgt] ⊆ sl) (h : State.Only sl s0 s)  :
    Res.Only sl s0 (execRouteDrainTimeout s) := by
  unfold execRouteDrainTimeout
  try dsimp only
  repeat' with_reducible first | assumption | apply State.endDrain_only (Sect.sub rfl hl) | apply State.reply_only (Sect.sub rfl hl) | apply Res.next_only | apply Res.ite_only | apply State.ite_only | (intro _ _ _ _) | (intro _ _ _) | (intro _; rfl) | (intro _; apply map_map_same; intro _; rfl) | (intro _; apply map_mapIf; intro _; rfl) | (refine State.fst_only (by assumption) ?_) | split | dsimp only | (intro _; split <;> rfl) | (intro _; (repeat' split) <;> rfl)

theorem execRouteSwap_only (hl : [Sect.out, Sect.nvq, Sect.ep, Sect.dlv, Sect.mgt] ⊆ sl) (h : State.Only sl s0 s) (o : Origin) (ts : Nat) :
    Res.Only sl s0 (execRouteSwap o ts s) := by
  unfold execRouteSwap
  try dsimp only
  repeat' with_reducible first | assumption | apply State.command_only (Sect.sub rfl hl) | apply State.mapDlv_only (Sect.sub rfl hl) | apply Res.next_only | apply Res.ite_only | apply State.ite_only | (intro _ _ _ _) | (intro _ _ _) | (intro _; rfl) | (intro _; apply map_map_same; intro _; rfl) | (intro _; apply map_mapIf; intro _; rfl) | (refine State.fst_only (by assumption) ?_) | split | dsimp only | (intro _; split <;> rfl) | (intro _; (repeat' split) <;> rfl)

theorem State.enterMember_only (hl : [Sect.out, Sect.life, Sect.od, Sect.nvq, Sect.req, Sect.home, Sect.stn, Sect.sw, Sect.mgt, Sect.shd] ⊆ sl) (h : State.Only sl s0 s)  :
    State.Only sl s0 (State.enterMember s) := by
  unfold State.enterMember
  try dsimp only
  repeat' with_reducible first | assumption | apply State.each_only | apply State.removeFlow_only (Sect.sub rfl hl) | apply State.mapShd_only (Sect.sub rfl hl) | apply State.enter_only (Sect.sub rfl hl) | apply State.wr_only (Sect.sub rfl hl) | apply State.touchRetained_only (Sect.sub rfl hl) | apply State.clearOwners_only (Sect.sub rfl hl) | apply State.ite_only | (intro _ _ _ _) | (intro _ _ _) | (intro _; rfl) | (intro _; apply map_map_same; intro _; rfl) | (intro _; apply map_mapIf; intro _; rfl) | (refine State.fst_only (by assumption) ?_) | split | dsimp only | (intro _; split <;> rfl) | (intro _; (repeat' split) <;> rfl)

theorem State.swapBanks_only (hl : [Sect.od] ⊆ sl) (h : State.Only sl s0 s)  :
    State.Only sl s0 (State.swapBanks s) := by
  unfold State.swapBanks
  try dsimp only
  repeat' with_reducible first | assumption | apply State.each_only | apply State.wr_only (Sect.sub rfl hl) | apply State.ite_only | (intro _ _ _ _) | (intro _ _ _) | (intro _; rfl) | (intro _; apply map_map_same; intro _; rfl) | (intro _; apply map_mapIf; intro _; rfl) | (refine State.fst_only (by assumption) ?_) | split | dsimp only | (intro _; split <;> rfl) | (intro _; (repeat' split) <;> rfl)

theorem execRouteSwitch_only (hl : Sect.wideQ ⊆ sl) (h : State.Only sl s0 s)  :
    Res.Only sl s0 (execRouteSwitch s) := by
  unfold execRouteSwitch
  try dsimp only
  repeat' with_reducible first | assumption | apply State.swapBanks_only (Sect.sub rfl hl) | apply State.wr_only (Sect.sub rfl hl) | apply State.enterMember_only (Sect.sub rfl hl) | apply State.endDrain_only (Sect.sub rfl hl) | apply State.notices_only (Sect.sub rfl hl) | apply State.settleAll_only (Sect.sub rfl hl) | apply Res.next_only | apply Res.ite_only | apply State.ite_only | (intro _ _ _ _) | (intro _ _ _) | (intro _; rfl) | (intro _; apply map_map_same; intro _; rfl) | (intro _; apply map_mapIf; intro _; rfl) | (refine State.fst_only (by assumption) ?_) | split | dsimp only | (intro _; split <;> rfl) | (intro _; (repeat' split) <;> rfl)

theorem execRouteSwapTimeout_only (hl : [Sect.out, Sect.od, Sect.sw, Sect.dlv, Sect.mgt] ⊆ sl) (h : State.Only sl s0 s)  :
    Res.Only sl s0 (execRouteSwapTimeout s) := by
  unfold execRouteSwapTimeout
  try dsimp only
  repeat' with_reducible first | assumption | apply State.endDrain_only (Sect.sub rfl hl) | apply Res.next_only | apply Res.ite_only | apply State.ite_only | (intro _ _ _ _) | (intro _ _ _) | (intro _; rfl) | (intro _; apply map_map_same; intro _; rfl) | (intro _; apply map_mapIf; intro _; rfl) | (refine State.fst_only (by assumption) ?_) | split | dsimp only | (intro _; split <;> rfl) | (intro _; (repeat' split) <;> rfl)

theorem State.defaultVias_only (hl : [Sect.od] ⊆ sl) (h : State.Only sl s0 s)  :
    State.Only sl s0 (State.defaultVias s) := by
  unfold State.defaultVias
  try dsimp only
  repeat' with_reducible first | assumption | apply State.each_only | apply State.wr_only (Sect.sub rfl hl) | apply State.ite_only | (intro _ _ _ _) | (intro _ _ _) | (intro _; rfl) | (intro _; apply map_map_same; intro _; rfl) | (intro _; apply map_mapIf; intro _; rfl) | (refine State.fst_only (by assumption) ?_) | split | dsimp only | (intro _; split <;> rfl) | (intro _; (repeat' split) <;> rfl)

theorem execRouteDefault_only (hl : Sect.toldOd ⊆ sl) (h : State.Only sl s0 s) (o : Origin) (v : Nat) :
    Res.Only sl s0 (execRouteDefault o v s) := by
  unfold execRouteDefault
  try dsimp only
  repeat' with_reducible first | assumption | apply State.command_only (Sect.sub rfl hl) | apply State.settle_only (Sect.sub rfl hl) | apply State.defaultVias_only (Sect.sub rfl hl) | apply State.touchRetained_only (Sect.sub rfl hl) | apply Res.next_only | apply Res.ite_only | apply State.ite_only | (intro _ _ _ _) | (intro _ _ _) | (intro _; rfl) | (intro _; apply map_map_same; intro _; rfl) | (intro _; apply map_mapIf; intro _; rfl) | (refine State.fst_only (by assumption) ?_) | split | dsimp only | (intro _; split <;> rfl) | (intro _; (repeat' split) <;> rfl)

end Sys2Proof.Machine
end

