-- ==== Sys2Proof/Laws/OnlyLinks.lean ====
section
/-! SUPPORT. `State.Only` for every operation and meaning of Machine/Links.lean: the sections that it may change. -/

namespace Sys2Proof.Machine

open Sys2Proof

set_option Elab.async false

set_option linter.unreachableTactic false
set_option linter.unusedTactic false

variable {s0 s : State} {sl : List Sect}

theorem State.fpStart_only (hl : [Sect.out, Sect.od, Sect.lnk] ⊆ sl) (h : State.Only sl s0 s) (n phase : Nat) :
    State.Only sl s0 (State.fpStart s n phase) := by
  unfold State.fpStart
  try dsimp only
  repeat' with_reducible first | assumption | apply State.wr_only (Sect.sub rfl hl) | apply State.setFp_only (Sect.sub rfl hl) | apply State.emit_only (Sect.sub rfl hl) | apply State.ite_only | (intro _ _ _ _) | (intro _ _ _) | (intro _; rfl) | (intro _; apply map_map_same; intro _; rfl) | (intro _; apply map_mapIf; intro _; rfl) | (refine State.fst_only (by assumption) ?_) | split | dsimp only | (intro _; split <;> rfl) | (intro _; (repeat' split) <;> rfl)

theorem State.apStart_only (hl : [Sect.out, Sect.od, Sect.lnk] ⊆ sl) (h : State.Only sl s0 s) (b phase : Nat) :
    State.Only sl s0 (State.apStart s b phase) := by
  unfold State.apStart
  try dsimp only
  repeat' with_reducible first | assumption | apply State.each_only | apply State.wr_only (Sect.sub rfl hl) | apply State.setAp_only (Sect.sub rfl hl) | apply State.emit_only (Sect.sub rfl hl) | apply State.ite_only | (intro _ _ _ _) | (intro _ _ _) | (intro _; rfl) | (intro _; apply map_map_same; intro _; rfl) | (intro _; apply map_mapIf; intro _; rfl) | (refine State.fst_only (by assumption) ?_) | split | dsimp only | (intro _; split <;> rfl) | (intro _; (repeat' split) <;> rfl)

theorem State.fpHold_only (hl : [Sect.out, Sect.od, Sect.mem, Sect.poison, Sect.written, Sect.xl, Sect.req, Sect.home, Sect.ep, Sect.stn, Sect.sw, Sect.dlv, Sect.lnk, Sect.tim, Sect.slu, Sect.mgt, Sect.shd] ⊆ sl) (h : State.Only sl s0 s) (n reason : Nat) :
    State.Only sl s0 (State.fpHold s n reason) := by
  unfold State.fpHold
  try dsimp only
  repeat' with_reducible first | assumption | apply State.fpDown_only (Sect.sub rfl hl) | apply State.wr_only (Sect.sub rfl hl) | apply State.ite_only | (intro _ _ _ _) | (intro _ _ _) | (intro _; rfl) | (intro _; apply map_map_same; intro _; rfl) | (intro _; apply map_mapIf; intro _; rfl) | (refine State.fst_only (by assumption) ?_) | split | dsimp only | (intro _; split <;> rfl) | (intro _; (repeat' split) <;> rfl)

theorem State.apHold_only (hl : [Sect.od, Sect.lnk] ⊆ sl) (h : State.Only sl s0 s) (b reason : Nat) :
    State.Only sl s0 (State.apHold s b reason) := by
  unfold State.apHold
  try dsimp only
  repeat' with_reducible first | assumption | apply State.each_only | apply State.wr_only (Sect.sub rfl hl) | apply State.setAp_only (Sect.sub rfl hl) | apply State.ite_only | (intro _ _ _ _) | (intro _ _ _) | (intro _; rfl) | (intro _; apply map_map_same; intro _; rfl) | (intro _; apply map_mapIf; intro _; rfl) | (refine State.fst_only (by assumption) ?_) | split | dsimp only | (intro _; split <;> rfl) | (intro _; (repeat' split) <;> rfl)

theorem State.dcCheck_only (hl : [Sect.od] ⊆ sl) (h : State.Only sl s0 s) (b : Nat) (dc : List Nat) :
    State.Only sl s0 (State.dcCheck s b dc) := by
  unfold State.dcCheck
  try dsimp only
  repeat' with_reducible first | assumption | apply State.wr_only (Sect.sub rfl hl) | apply State.each_only | apply State.ite_only | (intro _ _ _ _) | (intro _ _ _) | (intro _; rfl) | (intro _; apply map_map_same; intro _; rfl) | (intro _; apply map_mapIf; intro _; rfl) | (refine State.fst_only (by assumption) ?_) | split | dsimp only | (intro _; split <;> rfl) | (intro _; (repeat' split) <;> rfl)

theorem execPortTrainingStart_only (hl : [Sect.out, Sect.od, Sect.lnk] ⊆ sl) (h : State.Only sl s0 s) (p : TrainOp) :
    Res.Only sl s0 (execPortTrainingStart p s) := by
  unfold execPortTrainingStart
  try dsimp only
  repeat' with_reducible first | assumption | apply State.fpStart_only (Sect.sub rfl hl) | apply State.setFp_only (Sect.sub rfl hl) | apply State.apStart_only (Sect.sub rfl hl) | apply State.setAp_only (Sect.sub rfl hl) | apply State.dcCheck_only (Sect.sub rfl hl) | apply Res.next_only | apply Res.ite_only | apply State.ite_only | (intro _ _ _ _) | (intro _ _ _) | (intro _; rfl) | (intro _; apply map_map_same; intro _; rfl) | (intro _; apply map_mapIf; intro _; rfl) | (refine State.fst_only (by assumption) ?_) | split | dsimp only | (intro _; split <;> rfl) | (intro _; (repeat' split) <;> rfl)

theorem execTrainingPhaseFail_only (hl : [Sect.out, Sect.od, Sect.mem, Sect.poison, Sect.written, Sect.xl, Sect.req, Sect.home, Sect.ep, Sect.stn, Sect.sw, Sect.dlv, Sect.lnk, Sect.tim, Sect.slu, Sect.mgt, Sect.shd] ⊆ sl) (h : State.Only sl s0 s) (p : PortRef) :
    Res.Only sl s0 (execTrainingPhaseFail p s) := by
  unfold execTrainingPhaseFail
  try dsimp only
  repeat' with_reducible first | assumption | apply State.fpHold_only (Sect.sub rfl hl) | apply State.setFp_only (Sect.sub rfl hl) | apply State.apHold_only (Sect.sub rfl hl) | apply State.setAp_only (Sect.sub rfl hl) | apply State.fpDown_only (Sect.sub rfl hl) | apply Res.next_only | apply Res.ite_only | apply State.ite_only | (intro _ _ _ _) | (intro _ _ _) | (intro _; rfl) | (intro _; apply map_map_same; intro _; rfl) | (intro _; apply map_mapIf; intro _; rfl) | (refine State.fst_only (by assumption) ?_) | split | dsimp only | (intro _; split <;> rfl) | (intro _; (repeat' split) <;> rfl)

theorem execTrainFailRetry_only (hl : [Sect.out, Sect.od, Sect.lnk] ⊆ sl) (h : State.Only sl s0 s) (p : PortRef) :
    Res.Only sl s0 (execTrainFailRetry p s) := by
  unfold execTrainFailRetry
  try dsimp only
  repeat' with_reducible first | assumption | apply State.fpStart_only (Sect.sub rfl hl) | apply State.apStart_only (Sect.sub rfl hl) | apply Res.next_only | apply Res.ite_only | apply State.ite_only | (intro _ _ _ _) | (intro _ _ _) | (intro _; rfl) | (intro _; apply map_map_same; intro _; rfl) | (intro _; apply map_mapIf; intro _; rfl) | (refine State.fst_only (by assumption) ?_) | split | dsimp only | (intro _; split <;> rfl) | (intro _; (repeat' split) <;> rfl)

theorem execIdentityRecord_only (hl : [Sect.out, Sect.od, Sect.mem, Sect.poison, Sect.written, Sect.xl, Sect.req, Sect.home, Sect.ep, Sect.stn, Sect.sw, Sect.dlv, Sect.lnk, Sect.tim, Sect.slu, Sect.mgt, Sect.shd] ⊆ sl) (h : State.Only sl s0 s) (port : Nat) (r : IdRecord) :
    Res.Only sl s0 (execIdentityRecord port r s) := by
  unfold execIdentityRecord
  try dsimp only
  repeat' with_reducible first | assumption | apply State.wr_only (Sect.sub rfl hl) | apply State.setFp_only (Sect.sub rfl hl) | apply State.fpHold_only (Sect.sub rfl hl) | apply Res.next_only | apply Res.ite_only | apply State.ite_only | (intro _ _ _ _) | (intro _ _ _) | (intro _; rfl) | (intro _; apply map_map_same; intro _; rfl) | (intro _; apply map_mapIf; intro _; rfl) | (refine State.fst_only (by assumption) ?_) | split | dsimp only | (intro _; split <;> rfl) | (intro _; (repeat' split) <;> rfl)

theorem State.takeLanes_only (hl : [Sect.lnk] ⊆ sl) (h : State.Only sl s0 s) (b : Nat) (r : CapParams) :
    State.Only sl s0 (State.takeLanes s b r) := by
  unfold State.takeLanes
  try dsimp only
  repeat' with_reducible first | assumption | apply State.setAp_only (Sect.sub rfl hl) | apply State.each_only | apply State.ite_only | (intro _ _ _ _) | (intro _ _ _) | (intro _; rfl) | (intro _; apply map_map_same; intro _; rfl) | (intro _; apply map_mapIf; intro _; rfl) | (refine State.fst_only (by assumption) ?_) | split | dsimp only | (intro _; split <;> rfl) | (intro _; (repeat' split) <;> rfl)

theorem execCapLinkParameters_only (hl : [Sect.od, Sect.lnk] ⊆ sl) (h : State.Only sl s0 s) (port : Nat) (r : CapParams) :
    Res.Only sl s0 (execCapLinkParameters port r s) := by
  unfold execCapLinkParameters
  try dsimp only
  repeat' with_reducible first | assumption | apply State.apHold_only (Sect.sub rfl hl) | apply State.setAp_only (Sect.sub rfl hl) | apply State.takeLanes_only (Sect.sub rfl hl) | apply Res.next_only | apply Res.ite_only | apply State.ite_only | (intro _ _ _ _) | (intro _ _ _) | (intro _; rfl) | (intro _; apply map_map_same; intro _; rfl) | (intro _; apply map_mapIf; intro _; rfl) | (refine State.fst_only (by assumption) ?_) | split | dsimp only | (intro _; split <;> rfl) | (intro _; (repeat' split) <;> rfl)

theorem State.placeLanes_only (hl : [Sect.od, Sect.lnk] ⊆ sl) (h : State.Only sl s0 s) (n : Nat) :
    State.Only sl s0 (State.placeLanes s n) := by
  unfold State.placeLanes
  try dsimp only
  repeat' with_reducible first | assumption | apply State.foldlPair_only | apply State.foldl_only | apply State.wr_only (Sect.sub rfl hl) | apply State.setFp_only (Sect.sub rfl hl) | apply State.ite_only | (intro _ _ _ _) | (intro _ _ _) | (intro _; rfl) | (intro _; apply map_map_same; intro _; rfl) | (intro _; apply map_mapIf; intro _; rfl) | (refine State.fst_only (by assumption) ?_) | split | dsimp only | (intro _; split <;> rfl) | (intro _; (repeat' split) <;> rfl)

theorem State.fpUp_only (hl : [Sect.out, Sect.od, Sect.mem, Sect.poison, Sect.written, Sect.xl, Sect.req, Sect.home, Sect.ep, Sect.stn, Sect.sw, Sect.dlv, Sect.lnk, Sect.tim, Sect.slu, Sect.mgt, Sect.shd] ⊆ sl) (h : State.Only sl s0 s) (n : Nat) :
    State.Only sl s0 (State.fpUp s n) := by
  unfold State.fpUp
  try dsimp only
  repeat' with_reducible first | assumption | apply State.placeLanes_only (Sect.sub rfl hl) | apply State.fpDown_only (Sect.sub rfl hl) | apply State.wr_only (Sect.sub rfl hl) | apply State.setFp_only (Sect.sub rfl hl) | apply State.emit_only (Sect.sub rfl hl) | apply State.unmaskLink_only (Sect.sub rfl hl) | apply State.startAgreement_only (Sect.sub rfl hl) | apply State.acquire_only (Sect.sub rfl hl) | apply State.ite_only | (intro _ _ _ _) | (intro _ _ _) | (intro _; rfl) | (intro _; apply map_map_same; intro _; rfl) | (intro _; apply map_mapIf; intro _; rfl) | (refine State.fst_only (by assumption) ?_) | split | dsimp only | (intro _; split <;> rfl) | (intro _; (repeat' split) <;> rfl)

theorem State.apBondUp_only (hl : [Sect.out, Sect.od, Sect.ep, Sect.lnk] ⊆ sl) (h : State.Only sl s0 s) (b : Nat) :
    State.Only sl s0 (State.apBondUp s b) := by
  unfold State.apBondUp
  try dsimp only
  repeat' with_reducible first | assumption | apply State.each_only | apply State.wr_only (Sect.sub rfl hl) | apply State.setAp_only (Sect.sub rfl hl) | apply State.emit_only (Sect.sub rfl hl) | apply State.mapEp_only (Sect.sub rfl hl) | apply State.ite_only | (intro _ _ _ _) | (intro _ _ _) | (intro _; rfl) | (intro _; apply map_map_same; intro _; rfl) | (intro _; apply map_mapIf; intro _; rfl) | (refine State.fst_only (by assumption) ?_) | split | dsimp only | (intro _; split <;> rfl) | (intro _; (repeat' split) <;> rfl)

theorem execPortLinkUp_only (hl : Sect.wide ⊆ sl) (h : State.Only sl s0 s) (p : PortRef) :
    Res.Only sl s0 (execPortLinkUp p s) := by
  unfold execPortLinkUp
  try dsimp only
  repeat' with_reducible first | assumption | apply State.fpUp_only (Sect.sub rfl hl) | apply State.settleAll_only (Sect.sub rfl hl) | apply State.apDown_only (Sect.sub rfl hl) | apply State.apBondUp_only (Sect.sub rfl hl) | apply Res.next_only | apply Res.ite_only | apply State.ite_only | (intro _ _ _ _) | (intro _ _ _) | (intro _; rfl) | (intro _; apply map_map_same; intro _; rfl) | (intro _; apply map_mapIf; intro _; rfl) | (refine State.fst_only (by assumption) ?_) | split | dsimp only | (intro _; split <;> rfl) | (intro _; (repeat' split) <;> rfl)

theorem execLinkKeyAgreement_only (hl : Sect.wide ⊆ sl) (h : State.Only sl s0 s) (port keyHash pepoch nextSeq gen mstate : Nat) :
    Res.Only sl s0 (execLinkKeyAgreement port keyHash pepoch nextSeq gen mstate s) := by
  unfold execLinkKeyAgreement
  try dsimp only
  repeat' with_reducible first | assumption | apply State.fpHold_only (Sect.sub rfl hl) | apply State.settleAll_only (Sect.sub rfl hl) | apply State.setFp_only (Sect.sub rfl hl) | apply State.peerStateIs_only (Sect.sub rfl hl) | apply State.takeGen_only (Sect.sub rfl hl) | apply State.adopt_only (Sect.sub rfl hl) | apply State.peerReturns_only (Sect.sub rfl hl) | apply Res.next_only | apply Res.ite_only | apply State.ite_only | (intro _ _ _ _) | (intro _ _ _) | (intro _; rfl) | (intro _; apply map_map_same; intro _; rfl) | (intro _; apply map_mapIf; intro _; rfl) | (refine State.fst_only (by assumption) ?_) | split | dsimp only | (intro _; split <;> rfl) | (intro _; (repeat' split) <;> rfl)

theorem execPortSecretRenewal_only (hl : [Sect.out, Sect.lnk] ⊆ sl) (h : State.Only sl s0 s) (port : Nat) :
    Res.Only sl s0 (execPortSecretRenewal port s) := by
  unfold execPortSecretRenewal
  try dsimp only
  repeat' with_reducible first | assumption | apply State.startAgreement_only (Sect.sub rfl hl) | apply Res.next_only | apply Res.ite_only | apply State.ite_only | (intro _ _ _ _) | (intro _ _ _) | (intro _; rfl) | (intro _; apply map_map_same; intro _; rfl) | (intro _; apply map_mapIf; intro _; rfl) | (refine State.fst_only (by assumption) ?_) | split | dsimp only | (intro _; split <;> rfl) | (intro _; (repeat' split) <;> rfl)

theorem execLinkKeyGraceExpiry_only (hl : [Sect.lnk] ⊆ sl) (h : State.Only sl s0 s) (port : Nat) :
    Res.Only sl s0 (execLinkKeyGraceExpiry port s) := by
  unfold execLinkKeyGraceExpiry
  try dsimp only
  repeat' with_reducible first | assumption | apply State.setFp_only (Sect.sub rfl hl) | apply Res.next_only | apply Res.ite_only | apply State.ite_only | (intro _ _ _ _) | (intro _ _ _) | (intro _; rfl) | (intro _; apply map_map_same; intro _; rfl) | (intro _; apply map_mapIf; intro _; rfl) | (refine State.fst_only (by assumption) ?_) | split | dsimp only | (intro _; split <;> rfl) | (intro _; (repeat' split) <;> rfl)

theorem execLightReturn_only (hl : [Sect.out, Sect.od, Sect.lnk] ⊆ sl) (h : State.Only sl s0 s) (port : Nat) :
    Res.Only sl s0 (execLightReturn port s) := by
  unfold execLightReturn
  try dsimp only
  repeat' with_reducible first | assumption | apply State.setFp_only (Sect.sub rfl hl) | apply State.fpStart_only (Sect.sub rfl hl) | apply Res.next_only | apply Res.ite_only | apply State.ite_only | (intro _ _ _ _) | (intro _ _ _) | (intro _; rfl) | (intro _; apply map_map_same; intro _; rfl) | (intro _; apply map_mapIf; intro _; rfl) | (refine State.fst_only (by assumption) ?_) | split | dsimp only | (intro _; split <;> rfl) | (intro _; (repeat' split) <;> rfl)

theorem execFpAdmin_only (hl : Sect.wideQ ⊆ sl) (h : State.Only sl s0 s) (o : Origin) (port v : Nat) :
    Res.Only sl s0 (execFpAdmin o port v s) := by
  unfold execFpAdmin
  try dsimp only
  repeat' with_reducible first | assumption | apply State.commandIf_only (Sect.sub rfl hl) | apply State.writePlain_only (Sect.sub rfl hl) | apply State.fpStart_only (Sect.sub rfl hl) | apply State.setFp_only (Sect.sub rfl hl) | apply State.fpHold_only (Sect.sub rfl hl) | apply State.settleAll_only (Sect.sub rfl hl) | apply State.wr_only (Sect.sub rfl hl) | apply Res.next_only | apply Res.ite_only | apply State.ite_only | (intro _ _ _ _) | (intro _ _ _) | (intro _; rfl) | (intro _; apply map_map_same; intro _; rfl) | (intro _; apply map_mapIf; intro _; rfl) | (refine State.fst_only (by assumption) ?_) | split | dsimp only | (intro _; split <;> rfl) | (intro _; (repeat' split) <;> rfl)

theorem State.moveLane_only (hl : [Sect.out, Sect.od, Sect.lnk] ⊆ sl) (h : State.Only sl s0 s) (n k i : Nat) :
    State.Only sl s0 (State.moveLane s n k i) := by
  unfold State.moveLane
  try dsimp only
  repeat' with_reducible first | assumption | apply State.emit_only (Sect.sub rfl hl) | apply State.setFp_only (Sect.sub rfl hl) | apply State.bump_only (Sect.sub rfl hl) | apply State.ite_only | (intro _ _ _ _) | (intro _ _ _) | (intro _; rfl) | (intro _; apply map_map_same; intro _; rfl) | (intro _; apply map_mapIf; intro _; rfl) | (refine State.fst_only (by assumption) ?_) | split | dsimp only | (intro _; split <;> rfl) | (intro _; (repeat' split) <;> rfl)

theorem State.markLane_only (hl : [Sect.od] ⊆ sl) (h : State.Only sl s0 s) (n lane : Nat) :
    State.Only sl s0 (State.markLane s n lane) := by
  unfold State.markLane
  try dsimp only
  repeat' with_reducible first | assumption | apply State.wr_only (Sect.sub rfl hl) | apply State.ite_only | (intro _ _ _ _) | (intro _ _ _) | (intro _; rfl) | (intro _; apply map_map_same; intro _; rfl) | (intro _; apply map_mapIf; intro _; rfl) | (refine State.fst_only (by assumption) ?_) | split | dsimp only | (intro _; split <;> rfl) | (intro _; (repeat' split) <;> rfl)

theorem State.qualStatusIs_only (hl : [Sect.od] ⊆ sl) (h : State.Only sl s0 s) (port v : Nat) :
    State.Only sl s0 (State.qualStatusIs s port v) := by
  unfold State.qualStatusIs
  try dsimp only
  repeat' with_reducible first | assumption | apply State.wr_only (Sect.sub rfl hl) | apply State.ite_only | (intro _ _ _ _) | (intro _ _ _) | (intro _; rfl) | (intro _; apply map_map_same; intro _; rfl) | (intro _; apply map_mapIf; intro _; rfl) | (refine State.fst_only (by assumption) ?_) | split | dsimp only | (intro _; split <;> rfl) | (intro _; (repeat' split) <;> rfl)

theorem State.qualLastIs_only (hl : [Sect.od] ⊆ sl) (h : State.Only sl s0 s) (port failed untested : Nat) :
    State.Only sl s0 (State.qualLastIs s port failed untested) := by
  unfold State.qualLastIs
  try dsimp only
  repeat' with_reducible first | assumption | apply State.wr_only (Sect.sub rfl hl) | apply State.ite_only | (intro _ _ _ _) | (intro _ _ _) | (intro _; rfl) | (intro _; apply map_map_same; intro _; rfl) | (intro _; apply map_mapIf; intro _; rfl) | (refine State.fst_only (by assumption) ?_) | split | dsimp only | (intro _; split <;> rfl) | (intro _; (repeat' split) <;> rfl)

theorem State.endRotation_only (hl : [Sect.od, Sect.lnk] ⊆ sl) (h : State.Only sl s0 s) (n failed untested : Nat) :
    State.Only sl s0 (State.endRotation s n failed untested) := by
  unfold State.endRotation
  try dsimp only
  repeat' with_reducible first | assumption | apply State.setFp_only (Sect.sub rfl hl) | apply State.qualLastIs_only (Sect.sub rfl hl) | apply State.qualStatusIs_only (Sect.sub rfl hl) | apply State.ite_only | (intro _ _ _ _) | (intro _ _ _) | (intro _; rfl) | (intro _; apply map_map_same; intro _; rfl) | (intro _; apply map_mapIf; intro _; rfl) | (refine State.fst_only (by assumption) ?_) | split | dsimp only | (intro _; split <;> rfl) | (intro _; (repeat' split) <;> rfl)

theorem State.startFpQual_only (hl : [Sect.od, Sect.lnk] ⊆ sl) (h : State.Only sl s0 s) (n : Nat) :
    State.Only sl s0 (State.startFpQual s n) := by
  unfold State.startFpQual
  try dsimp only
  repeat' with_reducible first | assumption | apply State.setFp_only (Sect.sub rfl hl) | apply State.qualStatusIs_only (Sect.sub rfl hl) | apply State.ite_only | (intro _ _ _ _) | (intro _ _ _) | (intro _; rfl) | (intro _; apply map_map_same; intro _; rfl) | (intro _; apply map_mapIf; intro _; rfl) | (refine State.fst_only (by assumption) ?_) | split | dsimp only | (intro _; split <;> rfl) | (intro _; (repeat' split) <;> rfl)

theorem execLaneRemap_only (hl : [Sect.out, Sect.od, Sect.lnk] ⊆ sl) (h : State.Only sl s0 s) (p : PortRef) (lane : Nat) (cause : RemapCause) :
    Res.Only sl s0 (execLaneRemap p lane cause s) := by
  unfold execLaneRemap
  try dsimp only
  repeat' with_reducible first | assumption | apply State.startFpQual_only (Sect.sub rfl hl) | apply State.markLane_only (Sect.sub rfl hl) | apply State.wr_only (Sect.sub rfl hl) | apply State.endRotation_only (Sect.sub rfl hl) | apply State.moveLane_only (Sect.sub rfl hl) | apply Res.next_only | apply Res.ite_only | apply State.ite_only | (intro _ _ _ _) | (intro _ _ _) | (intro _; rfl) | (intro _; apply map_map_same; intro _; rfl) | (intro _; apply map_mapIf; intro _; rfl) | (refine State.fst_only (by assumption) ?_) | split | dsimp only | (intro _; split <;> rfl) | (intro _; (repeat' split) <;> rfl)

theorem execLaneGroupDisable_only (hl : Sect.wide ⊆ sl) (h : State.Only sl s0 s) (p : PortRef) (lane : Nat) :
    Res.Only sl s0 (execLaneGroupDisable p lane s) := by
  unfold execLaneGroupDisable
  try dsimp only
  repeat' with_reducible first | assumption | apply State.markLane_only (Sect.sub rfl hl) | apply State.wr_only (Sect.sub rfl hl) | apply State.fpDown_only (Sect.sub rfl hl) | apply State.settleAll_only (Sect.sub rfl hl) | apply State.apDown_only (Sect.sub rfl hl) | apply State.apStart_only (Sect.sub rfl hl) | apply Res.next_only | apply Res.ite_only | apply State.ite_only | (intro _ _ _ _) | (intro _ _ _) | (intro _; rfl) | (intro _; apply map_map_same; intro _; rfl) | (intro _; apply map_mapIf; intro _; rfl) | (refine State.fst_only (by assumption) ?_) | split | dsimp only | (intro _; split <;> rfl) | (intro _; (repeat' split) <;> rfl)

theorem execIdleEntry_only (hl : [Sect.out, Sect.lnk] ⊆ sl) (h : State.Only sl s0 s) (p : PortRef) :
    Res.Only sl s0 (execIdleEntry p s) := by
  unfold execIdleEntry
  try dsimp only
  repeat' with_reducible first | assumption | apply State.emit_only (Sect.sub rfl hl) | apply State.setFp_only (Sect.sub rfl hl) | apply State.setAp_only (Sect.sub rfl hl) | apply Res.next_only | apply Res.ite_only | apply State.ite_only | (intro _ _ _ _) | (intro _ _ _) | (intro _; rfl) | (intro _; apply map_map_same; intro _; rfl) | (intro _; apply map_mapIf; intro _; rfl) | (refine State.fst_only (by assumption) ?_) | split | dsimp only | (intro _; split <;> rfl) | (intro _; (repeat' split) <;> rfl)

theorem execIdleExit_only (hl : [Sect.out, Sect.lnk] ⊆ sl) (h : State.Only sl s0 s) (p : PortRef) :
    Res.Only sl s0 (execIdleExit p s) := by
  unfold execIdleExit
  try dsimp only
  repeat' with_reducible first | assumption | apply State.emit_only (Sect.sub rfl hl) | apply State.setFp_only (Sect.sub rfl hl) | apply State.setAp_only (Sect.sub rfl hl) | apply Res.next_only | apply Res.ite_only | apply State.ite_only | (intro _ _ _ _) | (intro _ _ _) | (intro _; rfl) | (intro _; apply map_map_same; intro _; rfl) | (intro _; apply map_mapIf; intro _; rfl) | (refine State.fst_only (by assumption) ?_) | split | dsimp only | (intro _; split <;> rfl) | (intro _; (repeat' split) <;> rfl)

theorem execTxTaps_only (hl : Sect.toldOd ⊆ sl) (h : State.Only sl s0 s) (o : Origin) (p : PortRef) (lane v : Nat) :
    Res.Only sl s0 (execTxTaps o p lane v s) := by
  unfold execTxTaps
  try dsimp only
  repeat' with_reducible first | assumption | apply State.commandIf_only (Sect.sub rfl hl) | apply State.writePlain_only (Sect.sub rfl hl) | apply Res.next_only | apply Res.ite_only | apply State.ite_only | (intro _ _ _ _) | (intro _ _ _) | (intro _; rfl) | (intro _; apply map_map_same; intro _; rfl) | (intro _; apply map_mapIf; intro _; rfl) | (refine State.fst_only (by assumption) ?_) | split | dsimp only | (intro _; split <;> rfl) | (intro _; (repeat' split) <;> rfl)

theorem State.keepPrbs_only (hl : [Sect.od] ⊆ sl) (h : State.Only sl s0 s) (ctrl errors : Nat) :
    State.Only sl s0 (State.keepPrbs s ctrl errors) := by
  unfold State.keepPrbs
  try dsimp only
  repeat' with_reducible first | assumption | apply State.wr_only (Sect.sub rfl hl) | apply State.draw_only (Sect.sub rfl hl) | apply State.ite_only | (intro _ _ _ _) | (intro _ _ _) | (intro _; rfl) | (intro _; apply map_map_same; intro _; rfl) | (intro _; apply map_mapIf; intro _; rfl) | (refine State.fst_only (by assumption) ?_) | split | dsimp only | (intro _; split <;> rfl) | (intro _; (repeat' split) <;> rfl)

theorem execPrbsCtrl_only (hl : Sect.toldOd ⊆ sl) (h : State.Only sl s0 s) (o : Origin) (p : PortRef) (v : Nat) :
    Res.Only sl s0 (execPrbsCtrl o p v s) := by
  unfold execPrbsCtrl
  try dsimp only
  repeat' with_reducible first | assumption | apply State.commandIf_only (Sect.sub rfl hl) | apply State.wr_only (Sect.sub rfl hl) | apply State.writePlain_only (Sect.sub rfl hl) | apply State.keepPrbs_only (Sect.sub rfl hl) | apply Res.next_only | apply Res.ite_only | apply State.ite_only | (intro _ _ _ _) | (intro _ _ _) | (intro _; rfl) | (intro _; apply map_map_same; intro _; rfl) | (intro _; apply map_mapIf; intro _; rfl) | (refine State.fst_only (by assumption) ?_) | split | dsimp only | (intro _; split <;> rfl) | (intro _; (repeat' split) <;> rfl)

theorem execInject_only (hl : Sect.toldOd ⊆ sl) (h : State.Only sl s0 s) (o : Origin) (p : PortRef) (v : Nat) :
    Res.Only sl s0 (execInject o p v s) := by
  unfold execInject
  try dsimp only
  repeat' with_reducible first | assumption | apply State.commandIf_only (Sect.sub rfl hl) | apply State.writePlain_only (Sect.sub rfl hl) | apply State.clampRec_only (Sect.sub rfl hl) | apply Res.next_only | apply Res.ite_only | apply State.ite_only | (intro _ _ _ _) | (intro _ _ _) | (intro _; rfl) | (intro _; apply map_map_same; intro _; rfl) | (intro _; apply map_mapIf; intro _; rfl) | (refine State.fst_only (by assumption) ?_) | split | dsimp only | (intro _; split <;> rfl) | (intro _; (repeat' split) <;> rfl)

theorem State.lightAll_only (hl : [Sect.lnk] ⊆ sl) (h : State.Only sl s0 s)  :
    State.Only sl s0 (State.lightAll s) := by
  unfold State.lightAll
  try dsimp only
  repeat' with_reducible first | assumption | apply State.setFp_only (Sect.sub rfl hl) | apply State.each_only | apply State.ite_only | (intro _ _ _ _) | (intro _ _ _) | (intro _; rfl) | (intro _; apply map_map_same; intro _; rfl) | (intro _; apply map_mapIf; intro _; rfl) | (refine State.fst_only (by assumption) ?_) | split | dsimp only | (intro _; split <;> rfl) | (intro _; (repeat' split) <;> rfl)

theorem execQualNow_only (hl : Sect.wideQ ⊆ sl) (h : State.Only sl s0 s) (o : Origin) (v : Nat) :
    Res.Only sl s0 (execQualNow o v s) := by
  unfold execQualNow
  try dsimp only
  repeat' with_reducible first | assumption | apply State.command_only (Sect.sub rfl hl) | apply State.settle_only (Sect.sub rfl hl) | apply State.each_only | apply State.fpDown_only (Sect.sub rfl hl) | apply State.wr_only (Sect.sub rfl hl) | apply State.mapLnk_only (Sect.sub rfl hl) | apply State.settleAll_only (Sect.sub rfl hl) | apply State.lightAll_only (Sect.sub rfl hl) | apply Res.next_only | apply Res.ite_only | apply State.ite_only | (intro _ _ _ _) | (intro _ _ _) | (intro _; rfl) | (intro _; apply map_map_same; intro _; rfl) | (intro _; apply map_mapIf; intro _; rfl) | (refine State.fst_only (by assumption) ?_) | split | dsimp only | (intro _; split <;> rfl) | (intro _; (repeat' split) <;> rfl)

theorem State.qualResult_only (hl : [Sect.od] ⊆ sl) (h : State.Only sl s0 s) (failed : List Nat) (port : Nat) :
    State.Only sl s0 (State.qualResult s failed port) := by
  unfold State.qualResult
  try dsimp only
  repeat' with_reducible first | assumption | apply State.foldlPair_only | apply State.foldl_only | apply State.wr_only (Sect.sub rfl hl) | apply State.qualLastIs_only (Sect.sub rfl hl) | apply State.qualStatusIs_only (Sect.sub rfl hl) | apply State.ite_only | (intro _ _ _ _) | (intro _ _ _) | (intro _; rfl) | (intro _; apply map_map_same; intro _; rfl) | (intro _; apply map_mapIf; intro _; rfl) | (refine State.fst_only (by assumption) ?_) | split | dsimp only | (intro _; split <;> rfl) | (intro _; (repeat' split) <;> rfl)

theorem execQualificationEnd_only (hl : [Sect.out, Sect.od, Sect.lnk] ⊆ sl) (h : State.Only sl s0 s) (failed : List Nat) :
    Res.Only sl s0 (execQualificationEnd failed s) := by
  unfold execQualificationEnd
  try dsimp only
  repeat' with_reducible first | assumption | apply State.mapLnk_only (Sect.sub rfl hl) | apply State.each_only | apply State.qualResult_only (Sect.sub rfl hl) | apply State.fpStart_only (Sect.sub rfl hl) | apply State.setFp_only (Sect.sub rfl hl) | apply Res.next_only | apply Res.ite_only | apply State.ite_only | (intro _ _ _ _) | (intro _ _ _) | (intro _; rfl) | (intro _; apply map_map_same; intro _; rfl) | (intro _; apply map_mapIf; intro _; rfl) | (refine State.fst_only (by assumption) ?_) | split | dsimp only | (intro _; split <;> rfl) | (intro _; (repeat' split) <;> rfl)

theorem State.apOverdue_only (hl : [Sect.od] ⊆ sl) (h : State.Only sl s0 s) (b : Nat) :
    State.Only sl s0 (State.apOverdue s b) := by
  unfold State.apOverdue
  try dsimp only
  repeat' with_reducible first | assumption | apply State.qualStatusIs_only (Sect.sub rfl hl) | apply State.ite_only | (intro _ _ _ _) | (intro _ _ _) | (intro _; rfl) | (intro _; apply map_map_same; intro _; rfl) | (intro _; apply map_mapIf; intro _; rfl) | (refine State.fst_only (by assumption) ?_) | split | dsimp only | (intro _; split <;> rfl) | (intro _; (repeat' split) <;> rfl)

theorem execDailyQualification_only (hl : [Sect.od, Sect.lnk] ⊆ sl) (h : State.Only sl s0 s) :
    Res.Only sl s0 (execDailyQualification s) := by
  unfold execDailyQualification
  try dsimp only
  repeat' with_reducible first | assumption | apply State.each_only | apply State.qualStatusIs_only (Sect.sub rfl hl) | apply State.startApQual_only (Sect.sub rfl hl) | apply State.apOverdue_only (Sect.sub rfl hl) | apply State.startFpQual_only (Sect.sub rfl hl) | apply Res.next_only | apply Res.ite_only | apply State.ite_only | (intro _ _ _ _) | (intro _ _ _) | (intro _; rfl) | (intro _; apply map_map_same; intro _; rfl) | (intro _; apply map_mapIf; intro _; rfl) | (refine State.fst_only (by assumption) ?_) | split | dsimp only | (intro _; split <;> rfl) | (intro _; (repeat' split) <;> rfl)

theorem State.testLane_only (hl : [Sect.out, Sect.od, Sect.lnk] ⊆ sl) (h : State.Only sl s0 s) (n k : Nat) :
    State.Only sl s0 (State.testLane s n k) := by
  unfold State.testLane
  try dsimp only
  repeat' with_reducible first | assumption | apply State.endRotation_only (Sect.sub rfl hl) | apply State.moveLane_only (Sect.sub rfl hl) | apply State.wr_only (Sect.sub rfl hl) | apply State.setFp_only (Sect.sub rfl hl) | apply State.ite_only | (intro _ _ _ _) | (intro _ _ _) | (intro _; rfl) | (intro _; apply map_map_same; intro _; rfl) | (intro _; apply map_mapIf; intro _; rfl) | (refine State.fst_only (by assumption) ?_) | split | dsimp only | (intro _; split <;> rfl) | (intro _; (repeat' split) <;> rfl)

theorem execQualLaneTestEnd_only (hl : [Sect.out, Sect.od, Sect.lnk] ⊆ sl) (h : State.Only sl s0 s) (p : PortRef) (errors : Nat) :
    Res.Only sl s0 (execQualLaneTestEnd p errors s) := by
  unfold execQualLaneTestEnd
  try dsimp only
  repeat' with_reducible first | assumption | apply State.markLane_only (Sect.sub rfl hl) | apply State.endRotation_only (Sect.sub rfl hl) | apply State.wr_only (Sect.sub rfl hl) | apply State.testLane_only (Sect.sub rfl hl) | apply State.moveLane_only (Sect.sub rfl hl) | apply State.setAp_only (Sect.sub rfl hl) | apply State.qualLastIs_only (Sect.sub rfl hl) | apply State.qualStatusIs_only (Sect.sub rfl hl) | apply Res.next_only | apply Res.ite_only | apply State.ite_only | (intro _ _ _ _) | (intro _ _ _) | (intro _; rfl) | (intro _; apply map_map_same; intro _; rfl) | (intro _; apply map_mapIf; intro _; rfl) | (refine State.fst_only (by assumption) ?_) | split | dsimp only | (intro _; split <;> rfl) | (intro _; (repeat' split) <;> rfl)

theorem execCpLinkDown_only (hl : Sect.wide ⊆ sl) (h : State.Only sl s0 s) (cp : Nat) :
    Res.Only sl s0 (execCpLinkDown cp s) := by
  unfold execCpLinkDown
  try dsimp only
  repeat' with_reducible first | assumption | apply State.cpDown_only (Sect.sub rfl hl) | apply State.settleAll_only (Sect.sub rfl hl) | apply Res.next_only | apply Res.ite_only | apply State.ite_only | (intro _ _ _ _) | (intro _ _ _) | (intro _; rfl) | (intro _; apply map_map_same; intro _; rfl) | (intro _; apply map_mapIf; intro _; rfl) | (refine State.fst_only (by assumption) ?_) | split | dsimp only | (intro _; split <;> rfl) | (intro _; (repeat' split) <;> rfl)

theorem State.fillExpander_only (hl : [Sect.fills] ⊆ sl) (h : State.Only sl s0 s) (c old bytes : Nat) :
    State.Only sl s0 (State.fillExpander s c old bytes) := by
  unfold State.fillExpander
  try dsimp only
  repeat' with_reducible first | assumption | apply State.mapFills_only (Sect.sub rfl hl) | apply State.ite_only | (intro _ _ _ _) | (intro _ _ _) | (intro _; rfl) | (intro _; apply map_map_same; intro _; rfl) | (intro _; apply map_mapIf; intro _; rfl) | (refine State.fst_only (by assumption) ?_) | split | dsimp only | (intro _; split <;> rfl) | (intro _; (repeat' split) <;> rfl)

theorem execCpLinkUp_only (hl : [Sect.out, Sect.life, Sect.od, Sect.mem, Sect.poison, Sect.written, Sect.fills, Sect.xl, Sect.req, Sect.home, Sect.ep, Sect.stn, Sect.sw, Sect.dlv, Sect.lnk, Sect.tim, Sect.slu, Sect.sec, Sect.mgt, Sect.shd] ⊆ sl) (h : State.Only sl s0 s) (p : CpRef) (serial bytes link : Nat) :
    Res.Only sl s0 (execCpLinkUp p serial bytes link s) := by
  unfold execCpLinkUp
  try dsimp only
  repeat' with_reducible first | assumption | apply State.setCp_only (Sect.sub rfl hl) | apply State.wr_only (Sect.sub rfl hl) | apply State.hostBack_only (Sect.sub rfl hl) | apply State.fillExpander_only (Sect.sub rfl hl) | apply State.settleAll_only (Sect.sub rfl hl) | apply State.advertise_only (Sect.sub rfl hl) | apply Res.next_only | apply Res.ite_only | apply State.ite_only | (intro _ _ _ _) | (intro _ _ _) | (intro _; rfl) | (intro _; apply map_map_same; intro _; rfl) | (intro _; apply map_mapIf; intro _; rfl) | (refine State.fst_only (by assumption) ?_) | split | dsimp only | (intro _; split <;> rfl) | (intro _; (repeat' split) <;> rfl)

theorem execExpEnable_only (hl : [Sect.out, Sect.od, Sect.nvq, Sect.ep, Sect.lnk, Sect.mgt] ⊆ sl) (h : State.Only sl s0 s) (o : Origin) (cp v : Nat) :
    Res.Only sl s0 (execExpEnable o cp v s) := by
  unfold execExpEnable
  try dsimp only
  repeat' with_reducible first | assumption | apply State.commandIf_only (Sect.sub rfl hl) | apply State.settle_only (Sect.sub rfl hl) | apply State.setCp_only (Sect.sub rfl hl) | apply Res.next_only | apply Res.ite_only | apply State.ite_only | (intro _ _ _ _) | (intro _ _ _) | (intro _; rfl) | (intro _; apply map_map_same; intro _; rfl) | (intro _; apply map_mapIf; intro _; rfl) | (refine State.fst_only (by assumption) ?_) | split | dsimp only | (intro _; split <;> rfl) | (intro _; (repeat' split) <;> rfl)

theorem execCxlMemEnable_only (hl : [Sect.out, Sect.od, Sect.req, Sect.lnk] ⊆ sl) (h : State.Only sl s0 s) (cp : Nat) (cfg : HostCfg) :
    Res.Only sl s0 (execCxlMemEnable cp cfg s) := by
  unfold execCxlMemEnable
  try dsimp only
  repeat' with_reducible first | assumption | apply State.wr_only (Sect.sub rfl hl) | apply State.setCp_only (Sect.sub rfl hl) | apply State.advertise_only (Sect.sub rfl hl) | apply State.mapReq_only (Sect.sub rfl hl) | apply Res.next_only | apply Res.ite_only | apply State.ite_only | (intro _ _ _ _) | (intro _ _ _) | (intro _; rfl) | (intro _; apply map_map_same; intro _; rfl) | (intro _; apply map_mapIf; intro _; rfl) | (refine State.fst_only (by assumption) ?_) | split | dsimp only | (intro _; split <;> rfl) | (intro _; (repeat' split) <;> rfl)

theorem State.flitAck_only (hl : [Sect.lnk] ⊆ sl) (h : State.Only sl s0 s) (b a : Nat) :
    State.Only sl s0 (State.flitAck s b a) := by
  unfold State.flitAck
  try dsimp only
  repeat' with_reducible first | assumption | apply State.setAp_only (Sect.sub rfl hl) | apply State.ite_only | (intro _ _ _ _) | (intro _ _ _) | (intro _; rfl) | (intro _; apply map_map_same; intro _; rfl) | (intro _; apply map_mapIf; intro _; rfl) | (refine State.fst_only (by assumption) ?_) | split | dsimp only | (intro _; split <;> rfl) | (intro _; (repeat' split) <;> rfl)

theorem State.flitResend_only (hl : [Sect.out, Sect.od, Sect.xl, Sect.req, Sect.home, Sect.ep, Sect.stn, Sect.sw, Sect.dlv, Sect.lnk, Sect.mgt] ⊆ sl) (h : State.Only sl s0 s) (b : Nat) :
    State.Only sl s0 (State.flitResend s b) := by
  unfold State.flitResend
  try dsimp only
  repeat' with_reducible first | assumption | apply State.bump_only (Sect.sub rfl hl) | apply State.apDown_only (Sect.sub rfl hl) | apply State.apStart_only (Sect.sub rfl hl) | apply State.setAp_only (Sect.sub rfl hl) | apply State.each_only | apply State.emit_only (Sect.sub rfl hl) | apply State.epEv_only (Sect.sub rfl hl) | apply State.ite_only | (intro _ _ _ _) | (intro _ _ _) | (intro _; rfl) | (intro _; apply map_map_same; intro _; rfl) | (intro _; apply map_mapIf; intro _; rfl) | (refine State.fst_only (by assumption) ?_) | split | dsimp only | (intro _; split <;> rfl) | (intro _; (repeat' split) <;> rfl)

theorem State.flitSend_only (hl : [Sect.out, Sect.lnk] ⊆ sl) (h : State.Only sl s0 s) (b : Nat) :
    State.Only sl s0 (State.flitSend s b) := by
  unfold State.flitSend
  try dsimp only
  repeat' with_reducible first | assumption | apply State.setAp_only (Sect.sub rfl hl) | apply State.emit_only (Sect.sub rfl hl) | apply State.foldlPair_only | apply State.foldl_only | apply State.ite_only | (intro _ _ _ _) | (intro _ _ _) | (intro _; rfl) | (intro _; apply map_map_same; intro _; rfl) | (intro _; apply map_mapIf; intro _; rfl) | (refine State.fst_only (by assumption) ?_) | split | dsimp only | (intro _; split <;> rfl) | (intro _; (repeat' split) <;> rfl)

theorem State.flitCredit_only (hl : [Sect.out, Sect.lnk] ⊆ sl) (h : State.Only sl s0 s) (b v : Nat) :
    State.Only sl s0 (State.flitCredit s b v) := by
  unfold State.flitCredit
  try dsimp only
  repeat' with_reducible first | assumption | apply State.setAp_only (Sect.sub rfl hl) | apply State.pumpOut_only (Sect.sub rfl hl) | apply State.ite_only | (intro _ _ _ _) | (intro _ _ _) | (intro _; rfl) | (intro _; apply map_map_same; intro _; rfl) | (intro _; apply map_mapIf; intro _; rfl) | (refine State.fst_only (by assumption) ?_) | split | dsimp only | (intro _; split <;> rfl) | (intro _; (repeat' split) <;> rfl)

theorem execFlitReceived_only (hl : Sect.wide ⊆ sl) (h : State.Only sl s0 s) (port : Nat) (f : Flit) :
    Res.Only sl s0 (execFlitReceived port f s) := by
  unfold execFlitReceived
  try dsimp only
  repeat' with_reducible first | assumption | apply State.setAp_only (Sect.sub rfl hl) | apply State.emit_only (Sect.sub rfl hl) | apply State.flitAck_only (Sect.sub rfl hl) | apply State.flitResend_only (Sect.sub rfl hl) | apply State.flitCredit_only (Sect.sub rfl hl) | apply State.flitSend_only (Sect.sub rfl hl) | apply State.settleAll_only (Sect.sub rfl hl) | apply Res.next_only | apply Res.ite_only | apply State.ite_only | (intro _ _ _ _) | (intro _ _ _) | (intro _; rfl) | (intro _; apply map_map_same; intro _; rfl) | (intro _; apply map_mapIf; intro _; rfl) | (refine State.fst_only (by assumption) ?_) | split | dsimp only | (intro _; split <;> rfl) | (intro _; (repeat' split) <;> rfl)

theorem execFlitReplay_only (hl : Sect.wide ⊆ sl) (h : State.Only sl s0 s) (port ackseq : Nat) :
    Res.Only sl s0 (execFlitReplay port ackseq s) := by
  unfold execFlitReplay
  try dsimp only
  repeat' with_reducible first | assumption | apply State.flitAck_only (Sect.sub rfl hl) | apply State.flitResend_only (Sect.sub rfl hl) | apply State.settleAll_only (Sect.sub rfl hl) | apply Res.next_only | apply Res.ite_only | apply State.ite_only | (intro _ _ _ _) | (intro _ _ _) | (intro _; rfl) | (intro _; apply map_map_same; intro _; rfl) | (intro _; apply map_mapIf; intro _; rfl) | (refine State.fst_only (by assumption) ?_) | split | dsimp only | (intro _; split <;> rfl) | (intro _; (repeat' split) <;> rfl)

theorem execAttachLinkDown_only (hl : Sect.wide ⊆ sl) (h : State.Only sl s0 s) (port : Nat) :
    Res.Only sl s0 (execAttachLinkDown port s) := by
  unfold execAttachLinkDown
  try dsimp only
  repeat' with_reducible first | assumption | apply State.apDown_only (Sect.sub rfl hl) | apply State.settleAll_only (Sect.sub rfl hl) | apply Res.next_only | apply Res.ite_only | apply State.ite_only | (intro _ _ _ _) | (intro _ _ _) | (intro _; rfl) | (intro _; apply map_map_same; intro _; rfl) | (intro _; apply map_mapIf; intro _; rfl) | (refine State.fst_only (by assumption) ?_) | split | dsimp only | (intro _; split <;> rfl) | (intro _; (repeat' split) <;> rfl)

end Sys2Proof.Machine
end

