-- ==== Sys2Proof/Laws/OnlyNvram.lean ====
section
/-! SUPPORT. `State.Only` for every operation and meaning of Machine/Nvram.lean: the sections that it may change. -/

namespace Sys2Proof.Machine

open Sys2Proof

set_option Elab.async false

set_option linter.unreachableTactic false
set_option linter.unusedTactic false

variable {s0 s : State} {sl : List Sect}

theorem State.commitImage_only (hl : [Sect.od, Sect.nv, Sect.nvq] ⊆ sl) (h : State.Only sl s0 s)  :
    State.Only sl s0 (State.commitImage s) := by
  unfold State.commitImage
  try dsimp only
  repeat' with_reducible first | assumption | apply State.bump_only (Sect.sub rfl hl) | apply State.mapNv_only (Sect.sub rfl hl) | apply State.ite_only | (intro _ _ _ _) | (intro _ _ _) | (intro _; rfl) | (intro _; apply map_map_same; intro _; rfl) | (intro _; apply map_mapIf; intro _; rfl) | (refine State.fst_only (by assumption) ?_) | split | dsimp only | (intro _; split <;> rfl) | (intro _; (repeat' split) <;> rfl)

theorem State.saveRetained_only (hl : [Sect.od, Sect.nv, Sect.nvq] ⊆ sl) (h : State.Only sl s0 s)  :
    State.Only sl s0 (State.saveRetained s) := by
  unfold State.saveRetained
  try dsimp only
  repeat' with_reducible first | assumption | apply State.commitImage_only (Sect.sub rfl hl) | apply State.bump_only (Sect.sub rfl hl) | apply State.ite_only | (intro _ _ _ _) | (intro _ _ _) | (intro _; rfl) | (intro _; apply map_map_same; intro _; rfl) | (intro _; apply map_mapIf; intro _; rfl) | (refine State.fst_only (by assumption) ?_) | split | dsimp only | (intro _; split <;> rfl) | (intro _; (repeat' split) <;> rfl)

theorem State.restoreField_only (hl : [Sect.od, Sect.mgt] ⊆ sl) (h : State.Only sl s0 s) (k v0 : Nat) :
    State.Only sl s0 (State.restoreField s k v0) := by
  unfold State.restoreField
  try dsimp only
  repeat' with_reducible first | assumption | apply State.clampRec_only (Sect.sub rfl hl) | apply State.wr_only (Sect.sub rfl hl) | apply State.ite_only | (intro _ _ _ _) | (intro _ _ _) | (intro _; rfl) | (intro _; apply map_map_same; intro _; rfl) | (intro _; apply map_mapIf; intro _; rfl) | (refine State.fst_only (by assumption) ?_) | split | dsimp only | (intro _; split <;> rfl) | (intro _; (repeat' split) <;> rfl)

theorem State.restoreGood_only (hl : [Sect.od, Sect.mgt] ⊆ sl) (h : State.Only sl s0 s) (k : Nat) (v : Option Nat) :
    State.Only sl s0 (State.restoreGood s k v) := by
  cases v with
  | none => exact h
  | some v => exact State.restoreField_only (Sect.sub rfl hl) h k v

theorem State.restoreDefault_only (hl : [Sect.od, Sect.mgt] ⊆ sl) (h : State.Only sl s0 s) (k reason given : Nat) :
    State.Only sl s0 (State.restoreDefault s k reason given) := by
  unfold State.restoreDefault
  try dsimp only
  repeat' with_reducible first | assumption | apply State.clampRec_only (Sect.sub rfl hl) | apply State.unset_only (Sect.sub rfl hl) | apply State.ite_only | (intro _ _ _ _) | (intro _ _ _) | (intro _; rfl) | (intro _; apply map_map_same; intro _; rfl) | (intro _; apply map_mapIf; intro _; rfl) | (refine State.fst_only (by assumption) ?_) | split | dsimp only | (intro _; split <;> rfl) | (intro _; (repeat' split) <;> rfl)

theorem State.restoreEntry_only (hl : [Sect.od, Sect.mgt] ⊆ sl) (h : State.Only sl s0 s) (p o : Bank) (k : Nat) :
    State.Only sl s0 (State.restoreEntry p o s k) := by
  unfold State.restoreEntry
  try dsimp only
  repeat' with_reducible first | assumption | apply State.restoreGood_only (Sect.sub rfl hl) | apply State.restoreDefault_only (Sect.sub rfl hl) | apply State.clampRec_only (Sect.sub rfl hl) | apply State.ite_only | (intro _ _ _ _) | (intro _ _ _) | (intro _; rfl) | (intro _; apply map_map_same; intro _; rfl) | (intro _; apply map_mapIf; intro _; rfl) | (refine State.fst_only (by assumption) ?_) | split | dsimp only | (intro _; split <;> rfl) | (intro _; (repeat' split) <;> rfl)

theorem State.jointRule_only (hl : [Sect.od, Sect.mgt] ⊆ sl) (h : State.Only sl s0 s) (ok : Bool) (ks : List Nat) :
    State.Only sl s0 (State.jointRule s ok ks) := by
  unfold State.jointRule
  try dsimp only
  repeat' with_reducible first | assumption | apply State.each_only | apply State.restoreDefault_only (Sect.sub rfl hl) | apply State.ite_only | (intro _ _ _ _) | (intro _ _ _) | (intro _; rfl) | (intro _; apply map_map_same; intro _; rfl) | (intro _; apply map_mapIf; intro _; rfl) | (refine State.fst_only (by assumption) ?_) | split | dsimp only | (intro _; split <;> rfl) | (intro _; (repeat' split) <;> rfl)

theorem State.jointRules_only (hl : [Sect.od, Sect.mgt] ⊆ sl) (h : State.Only sl s0 s)  :
    State.Only sl s0 (State.jointRules s) := by
  unfold State.jointRules
  try dsimp only
  repeat' with_reducible first | assumption | apply State.jointRule_only (Sect.sub rfl hl) | apply State.each_only | apply State.ite_only | (intro _ _ _ _) | (intro _ _ _) | (intro _; rfl) | (intro _; apply map_map_same; intro _; rfl) | (intro _; apply map_mapIf; intro _; rfl) | (refine State.fst_only (by assumption) ?_) | split | dsimp only | (intro _; split <;> rfl) | (intro _; (repeat' split) <;> rfl)

theorem State.restoreCommit_only (hl : [Sect.od, Sect.nv, Sect.nvq] ⊆ sl) (h : State.Only sl s0 s) (gen : Nat) (intoA : Bool) :
    State.Only sl s0 (State.restoreCommit s gen intoA) := by
  unfold State.restoreCommit
  try dsimp only
  repeat' with_reducible first | assumption | apply State.bump_only (Sect.sub rfl hl) | apply State.mapNv_only (Sect.sub rfl hl) | apply State.wr_only (Sect.sub rfl hl) | apply State.ite_only | (intro _ _ _ _) | (intro _ _ _) | (intro _; rfl) | (intro _; apply map_map_same; intro _; rfl) | (intro _; apply map_mapIf; intro _; rfl) | (refine State.fst_only (by assumption) ?_) | split | dsimp only | (intro _; split <;> rfl) | (intro _; (repeat' split) <;> rfl)

theorem State.rebuild_only (hl : [Sect.od, Sect.nv, Sect.nvq, Sect.mgt] ⊆ sl) (h : State.Only sl s0 s)  :
    State.Only sl s0 (State.rebuild s) := by
  unfold State.rebuild
  try dsimp only
  repeat' with_reducible first | assumption | apply State.wr_only (Sect.sub rfl hl) | apply State.restoreCommit_only (Sect.sub rfl hl) | apply State.each_only | apply State.restoreEntry_only (Sect.sub rfl hl) | apply State.clampRec_only (Sect.sub rfl hl) | apply State.jointRules_only (Sect.sub rfl hl) | apply State.ite_only | (intro _ _ _ _) | (intro _ _ _) | (intro _; rfl) | (intro _; apply map_map_same; intro _; rfl) | (intro _; apply map_mapIf; intro _; rfl) | (refine State.fst_only (by assumption) ?_) | split | dsimp only | (intro _; split <;> rfl) | (intro _; (repeat' split) <;> rfl)

end Sys2Proof.Machine
end

