-- ==== Sys2Proof/Laws/OnlyPower.lean ====
section
/-! SUPPORT. `State.Only` for every operation and meaning of Machine/Power.lean: the sections that it may change. -/

namespace Sys2Proof.Machine

open Sys2Proof

set_option Elab.async false

set_option linter.unreachableTactic false
set_option linter.unusedTactic false

variable {s0 s : State} {sl : List Sect}

theorem State.poweredDown_only (hl : [Sect.life, Sect.power, Sect.od, Sect.nvq, Sect.mem, Sect.poison, Sect.written, Sect.own, Sect.fills, Sect.xl, Sect.req, Sect.home, Sect.ep, Sect.stn, Sect.sw, Sect.dlv, Sect.lnk, Sect.tim, Sect.slu, Sect.sec, Sect.mgt, Sect.shd] ⊆ sl) (h : State.Only sl s0 s) : State.Only sl s0 (State.poweredDown s) := by
  refine h.trans ⟨⟨rfl, rfl, fun _ => rfl, fun _ => ⟨rfl, rfl, rfl, rfl⟩⟩, ?_⟩
  intro x hx
  cases x <;> first | exact rfl | exact ⟨rfl, rfl⟩ | exact absurd (hl (by simp)) hx

theorem State.powerLost_only (hl : [Sect.life, Sect.power, Sect.od, Sect.nv, Sect.nvq, Sect.mem, Sect.poison, Sect.written, Sect.own, Sect.fills, Sect.xl, Sect.req, Sect.home, Sect.ep, Sect.stn, Sect.sw, Sect.dlv, Sect.lnk, Sect.tim, Sect.slu, Sect.sec, Sect.mgt, Sect.shd] ⊆ sl) (h : State.Only sl s0 s)  :
    State.Only sl s0 (State.powerLost s) := by
  unfold State.powerLost
  try dsimp only
  repeat' with_reducible first | assumption | apply State.logFault_only (Sect.sub rfl hl) | apply State.saveRetained_only (Sect.sub rfl hl) | apply State.poweredDown_only (Sect.sub rfl hl) | apply State.ite_only | (intro _ _ _ _) | (intro _ _ _) | (intro _; rfl) | (intro _; apply map_map_same; intro _; rfl) | (intro _; apply map_mapIf; intro _; rfl) | (refine State.fst_only (by assumption) ?_) | split | dsimp only | (intro _; split <;> rfl) | (intro _; (repeat' split) <;> rfl)

theorem State.inputGone_only (hl : [Sect.life, Sect.power, Sect.od, Sect.nv, Sect.nvq, Sect.mem, Sect.poison, Sect.written, Sect.own, Sect.fills, Sect.xl, Sect.req, Sect.home, Sect.ep, Sect.stn, Sect.sw, Sect.dlv, Sect.lnk, Sect.tim, Sect.slu, Sect.sec, Sect.mgt, Sect.shd] ⊆ sl) (h : State.Only sl s0 s)  :
    State.Only sl s0 (State.inputGone s) := by
  unfold State.inputGone
  try dsimp only
  repeat' with_reducible first | assumption | apply State.powerLost_only (Sect.sub rfl hl) | apply State.mapPower_only (Sect.sub rfl hl) | apply State.ite_only | (intro _ _ _ _) | (intro _ _ _) | (intro _; rfl) | (intro _; apply map_map_same; intro _; rfl) | (intro _; apply map_mapIf; intro _; rfl) | (refine State.fst_only (by assumption) ?_) | split | dsimp only | (intro _; split <;> rfl) | (intro _; (repeat' split) <;> rfl)

theorem execInputLoss_only (hl : [Sect.life, Sect.power, Sect.od, Sect.nv, Sect.nvq, Sect.mem, Sect.poison, Sect.written, Sect.own, Sect.fills, Sect.xl, Sect.req, Sect.home, Sect.ep, Sect.stn, Sect.sw, Sect.dlv, Sect.lnk, Sect.tim, Sect.slu, Sect.sec, Sect.mgt, Sect.shd] ⊆ sl) (h : State.Only sl s0 s)  :
    Res.Only sl s0 (execInputLoss s) := by
  unfold execInputLoss
  try dsimp only
  repeat' with_reducible first | assumption | apply State.inputGone_only (Sect.sub rfl hl) | apply Res.next_only | apply Res.ite_only | apply State.ite_only | (intro _ _ _ _) | (intro _ _ _) | (intro _; rfl) | (intro _; apply map_map_same; intro _; rfl) | (intro _; apply map_mapIf; intro _; rfl) | (refine State.fst_only (by assumption) ?_) | split | dsimp only | (intro _; split <;> rfl) | (intro _; (repeat' split) <;> rfl)

theorem execPresentLoopOpen_only (hl : [Sect.life, Sect.power, Sect.od, Sect.nv, Sect.nvq, Sect.mem, Sect.poison, Sect.written, Sect.own, Sect.fills, Sect.xl, Sect.req, Sect.home, Sect.ep, Sect.stn, Sect.sw, Sect.dlv, Sect.lnk, Sect.tim, Sect.slu, Sect.sec, Sect.mgt, Sect.shd] ⊆ sl) (h : State.Only sl s0 s)  :
    Res.Only sl s0 (execPresentLoopOpen s) := by
  unfold execPresentLoopOpen
  try dsimp only
  repeat' with_reducible first | assumption | apply State.inputGone_only (Sect.sub rfl hl) | apply Res.next_only | apply Res.ite_only | apply State.ite_only | (intro _ _ _ _) | (intro _ _ _) | (intro _; rfl) | (intro _; apply map_map_same; intro _; rfl) | (intro _; apply map_mapIf; intro _; rfl) | (refine State.fst_only (by assumption) ?_) | split | dsimp only | (intro _; split <;> rfl) | (intro _; (repeat' split) <;> rfl)

theorem execInputOvervoltage_only (hl : [Sect.life, Sect.power, Sect.od, Sect.nv, Sect.nvq, Sect.mem, Sect.poison, Sect.written, Sect.own, Sect.fills, Sect.xl, Sect.req, Sect.home, Sect.ep, Sect.stn, Sect.sw, Sect.dlv, Sect.lnk, Sect.tim, Sect.slu, Sect.sec, Sect.mgt, Sect.shd] ⊆ sl) (h : State.Only sl s0 s)  :
    Res.Only sl s0 (execInputOvervoltage s) := by
  unfold execInputOvervoltage
  try dsimp only
  repeat' with_reducible first | assumption | apply State.inputGone_only (Sect.sub rfl hl) | apply Res.next_only | apply Res.ite_only | apply State.ite_only | (intro _ _ _ _) | (intro _ _ _) | (intro _; rfl) | (intro _; apply map_map_same; intro _; rfl) | (intro _; apply map_mapIf; intro _; rfl) | (refine State.fst_only (by assumption) ?_) | split | dsimp only | (intro _; split <;> rfl) | (intro _; (repeat' split) <;> rfl)

theorem execInputOvercurrent_only (hl : [Sect.life, Sect.power, Sect.od, Sect.nv, Sect.nvq, Sect.mem, Sect.poison, Sect.written, Sect.own, Sect.fills, Sect.xl, Sect.req, Sect.home, Sect.ep, Sect.stn, Sect.sw, Sect.dlv, Sect.lnk, Sect.tim, Sect.slu, Sect.sec, Sect.mgt, Sect.shd] ⊆ sl) (h : State.Only sl s0 s)  :
    Res.Only sl s0 (execInputOvercurrent s) := by
  unfold execInputOvercurrent
  try dsimp only
  repeat' with_reducible first | assumption | apply State.bump_only (Sect.sub rfl hl) | apply State.touchRetained_only (Sect.sub rfl hl) | apply State.inputGone_only (Sect.sub rfl hl) | apply State.mapPower_only (Sect.sub rfl hl) | apply Res.next_only | apply Res.ite_only | apply State.ite_only | (intro _ _ _ _) | (intro _ _ _) | (intro _; rfl) | (intro _; apply map_map_same; intro _; rfl) | (intro _; apply map_mapIf; intro _; rfl) | (refine State.fst_only (by assumption) ?_) | split | dsimp only | (intro _; split <;> rfl) | (intro _; (repeat' split) <;> rfl)

theorem execFuseRelease_only (hl : [Sect.power] ⊆ sl) (h : State.Only sl s0 s)  :
    Res.Only sl s0 (execFuseRelease s) := by
  unfold execFuseRelease
  try dsimp only
  repeat' with_reducible first | assumption | apply State.mapPower_only (Sect.sub rfl hl) | apply Res.next_only | apply Res.ite_only | apply State.ite_only | (intro _ _ _ _) | (intro _ _ _) | (intro _; rfl) | (intro _; apply map_map_same; intro _; rfl) | (intro _; apply map_mapIf; intro _; rfl) | (refine State.fst_only (by assumption) ?_) | split | dsimp only | (intro _; split <;> rfl) | (intro _; (repeat' split) <;> rfl)

theorem execReversedPolarity_only (hl : [Sect.power] ⊆ sl) (h : State.Only sl s0 s)  :
    Res.Only sl s0 (execReversedPolarity s) := by
  unfold execReversedPolarity
  try dsimp only
  repeat' with_reducible first | assumption | apply State.mapPower_only (Sect.sub rfl hl) | apply Res.next_only | apply Res.ite_only | apply State.ite_only | (intro _ _ _ _) | (intro _ _ _) | (intro _; rfl) | (intro _; apply map_map_same; intro _; rfl) | (intro _; apply map_mapIf; intro _; rfl) | (refine State.fst_only (by assumption) ?_) | split | dsimp only | (intro _; split <;> rfl) | (intro _; (repeat' split) <;> rfl)

theorem execInputRestart_only (hl : [Sect.power] ⊆ sl) (h : State.Only sl s0 s)  :
    Res.Only sl s0 (execInputRestart s) := by
  unfold execInputRestart
  try dsimp only
  repeat' with_reducible first | assumption | apply State.mapPower_only (Sect.sub rfl hl) | apply Res.next_only | apply Res.ite_only | apply State.ite_only | (intro _ _ _ _) | (intro _ _ _) | (intro _; rfl) | (intro _; apply map_map_same; intro _; rfl) | (intro _; apply map_mapIf; intro _; rfl) | (refine State.fst_only (by assumption) ?_) | split | dsimp only | (intro _; split <;> rfl) | (intro _; (repeat' split) <;> rfl)

theorem execPowerGood_only (hl : [Sect.out, Sect.life, Sect.power, Sect.od, Sect.nvq, Sect.mem, Sect.poison, Sect.written, Sect.own, Sect.fills, Sect.xl, Sect.req, Sect.home, Sect.ep, Sect.stn, Sect.sw, Sect.dlv, Sect.lnk, Sect.tim, Sect.slu, Sect.sec, Sect.mgt, Sect.shd] ⊆ sl) (h : State.Only sl s0 s) (peOk : Bool) :
    Res.Only sl s0 (execPowerGood peOk s) := by
  unfold execPowerGood
  try dsimp only
  repeat' with_reducible first | assumption | apply State.mapPower_only (Sect.sub rfl hl) | apply State.poweredDown_only (Sect.sub rfl hl) | apply State.enter_only (Sect.sub rfl hl) | apply Res.next_only | apply Res.ite_only | apply State.ite_only | (intro _ _ _ _) | (intro _ _ _) | (intro _; rfl) | (intro _; apply map_map_same; intro _; rfl) | (intro _; apply map_mapIf; intro _; rfl) | (refine State.fst_only (by assumption) ?_) | split | dsimp only | (intro _; split <;> rfl) | (intro _; (repeat' split) <;> rfl)

theorem State.setStage_only (hl : [Sect.out, Sect.od, Sect.mgt] ⊆ sl) (h : State.Only sl s0 s) (v : Nat) :
    State.Only sl s0 (State.setStage s v) := by
  unfold State.setStage
  try dsimp only
  repeat' with_reducible first | assumption | apply State.wr_only (Sect.sub rfl hl) | apply State.event_only (Sect.sub rfl hl) | apply State.ite_only | (intro _ _ _ _) | (intro _ _ _) | (intro _; rfl) | (intro _; apply map_map_same; intro _; rfl) | (intro _; apply map_mapIf; intro _; rfl) | (refine State.fst_only (by assumption) ?_) | split | dsimp only | (intro _; split <;> rfl) | (intro _; (repeat' split) <;> rfl)

theorem State.idlePorts_only (hl : [Sect.out, Sect.lnk] ⊆ sl) (h : State.Only sl s0 s) (m : Nat) :
    State.Only sl s0 (State.idlePorts s m) := by
  unfold State.idlePorts
  try dsimp only
  repeat' with_reducible first | assumption | apply State.each_only | apply State.emit_only (Sect.sub rfl hl) | apply State.setFp_only (Sect.sub rfl hl) | apply State.setAp_only (Sect.sub rfl hl) | apply State.ite_only | (intro _ _ _ _) | (intro _ _ _) | (intro _; rfl) | (intro _; apply map_map_same; intro _; rfl) | (intro _; apply map_mapIf; intro _; rfl) | (refine State.fst_only (by assumption) ?_) | split | dsimp only | (intro _; split <;> rfl) | (intro _; (repeat' split) <;> rfl)

theorem State.nextMeasure_only (hl : [Sect.out, Sect.power, Sect.lnk] ⊆ sl) (h : State.Only sl s0 s)  :
    State.Only sl s0 (State.nextMeasure s) := by
  unfold State.nextMeasure
  try dsimp only
  repeat' with_reducible first | assumption | apply State.mapPower_only (Sect.sub rfl hl) | apply State.idlePorts_only (Sect.sub rfl hl) | apply State.ite_only | (intro _ _ _ _) | (intro _ _ _) | (intro _; rfl) | (intro _; apply map_map_same; intro _; rfl) | (intro _; apply map_mapIf; intro _; rfl) | (refine State.fst_only (by assumption) ?_) | split | dsimp only | (intro _; split <;> rfl) | (intro _; (repeat' split) <;> rfl)

theorem State.measurePower_only (hl : [Sect.od] ⊆ sl) (h : State.Only sl s0 s)  :
    State.Only sl s0 (State.measurePower s) := by
  unfold State.measurePower
  try dsimp only
  repeat' with_reducible first | assumption | apply State.wr_only (Sect.sub rfl hl) | apply State.draw_only (Sect.sub rfl hl) | apply State.ite_only | (intro _ _ _ _) | (intro _ _ _) | (intro _; rfl) | (intro _; apply map_map_same; intro _; rfl) | (intro _; apply map_mapIf; intro _; rfl) | (refine State.fst_only (by assumption) ?_) | split | dsimp only | (intro _; split <;> rfl) | (intro _; (repeat' split) <;> rfl)

theorem State.takeMeasures_only (hl : [Sect.out, Sect.power, Sect.od, Sect.lnk] ⊆ sl) (h : State.Only sl s0 s) (n : Nat) : State.Only sl s0 (State.takeMeasures n s) := by
  induction n generalizing s with
  | zero => exact h
  | succ n ih =>
    unfold State.takeMeasures
    try dsimp only
    repeat' with_reducible first | assumption | apply ih | apply State.measurePower_only (Sect.sub rfl hl) | apply State.nextMeasure_only (Sect.sub rfl hl) | apply State.ite_only

theorem State.releaseStep_only (hl : [Sect.out, Sect.power, Sect.od, Sect.mgt] ⊆ sl) (h : State.Only sl s0 s)  :
    State.Only sl s0 (State.releaseStep s) := by
  unfold State.releaseStep
  try dsimp only
  repeat' with_reducible first | assumption | apply State.mapPower_only (Sect.sub rfl hl) | apply State.wr_only (Sect.sub rfl hl) | apply State.setStage_only (Sect.sub rfl hl) | apply State.ite_only | (intro _ _ _ _) | (intro _ _ _) | (intro _; rfl) | (intro _; apply map_map_same; intro _; rfl) | (intro _; apply map_mapIf; intro _; rfl) | (refine State.fst_only (by assumption) ?_) | split | dsimp only | (intro _; split <;> rfl) | (intro _; (repeat' split) <;> rfl)

theorem State.applyCap_only (hl : [Sect.out, Sect.power, Sect.od, Sect.lnk, Sect.mgt] ⊆ sl) (h : State.Only sl s0 s) (old : Nat) :
    State.Only sl s0 (State.applyCap s old) := by
  unfold State.applyCap
  try dsimp only
  repeat' with_reducible first | assumption | apply State.measurePower_only (Sect.sub rfl hl) | apply State.setStage_only (Sect.sub rfl hl) | apply State.takeMeasures_only (Sect.sub rfl hl) | apply State.releaseStep_only (Sect.sub rfl hl) | apply State.ite_only | (intro _ _ _ _) | (intro _ _ _) | (intro _; rfl) | (intro _; apply map_map_same; intro _; rfl) | (intro _; apply map_mapIf; intro _; rfl) | (refine State.fst_only (by assumption) ?_) | split | dsimp only | (intro _; split <;> rfl) | (intro _; (repeat' split) <;> rfl)

theorem State.afterRestore_only (hl : [Sect.out, Sect.life, Sect.power, Sect.od, Sect.own, Sect.fills, Sect.lnk, Sect.sec, Sect.mgt] ⊆ sl) (h : State.Only sl s0 s)  :
    State.Only sl s0 (State.afterRestore s) := by
  unfold State.afterRestore
  try dsimp only
  repeat' with_reducible first | assumption | apply State.foldlPair_only | apply State.foldl_only | apply State.wr_only (Sect.sub rfl hl) | apply State.mapOwn_only (Sect.sub rfl hl) | apply State.mapFills_only (Sect.sub rfl hl) | apply State.fillSlot_only (Sect.sub rfl hl) | apply State.mapLife_only (Sect.sub rfl hl) | apply State.applyCap_only (Sect.sub rfl hl) | apply State.ite_only | (intro _ _ _ _) | (intro _ _ _) | (intro _; rfl) | (intro _; apply map_map_same; intro _; rfl) | (intro _; apply map_mapIf; intro _; rfl) | (refine State.fst_only (by assumption) ?_) | split | dsimp only | (intro _; split <;> rfl) | (intro _; (repeat' split) <;> rfl)

theorem execRestoreComplete_only (hl : [Sect.out, Sect.life, Sect.power, Sect.od, Sect.nv, Sect.nvq, Sect.own, Sect.fills, Sect.lnk, Sect.sec, Sect.mgt] ⊆ sl) (h : State.Only sl s0 s)  :
    Res.Only sl s0 (execRestoreComplete s) := by
  unfold execRestoreComplete
  try dsimp only
  repeat' with_reducible first | assumption | apply State.rebuild_only (Sect.sub rfl hl) | apply State.afterRestore_only (Sect.sub rfl hl) | apply State.enter_only (Sect.sub rfl hl) | apply Res.next_only | apply Res.ite_only | apply State.ite_only | (intro _ _ _ _) | (intro _ _ _) | (intro _; rfl) | (intro _; apply map_map_same; intro _; rfl) | (intro _; apply map_mapIf; intro _; rfl) | (refine State.fst_only (by assumption) ?_) | split | dsimp only | (intro _; split <;> rfl) | (intro _; (repeat' split) <;> rfl)

theorem State.afterSelftest_only (hl : [Sect.od, Sect.ep, Sect.stn, Sect.sw, Sect.lnk] ⊆ sl) (h : State.Only sl s0 s) (r : SelfTest) :
    State.Only sl s0 (State.afterSelftest s r) := by
  unfold State.afterSelftest
  try dsimp only
  repeat' with_reducible first | assumption | apply State.mapStn_only (Sect.sub rfl hl) | apply State.each_only | apply State.wr_only (Sect.sub rfl hl) | apply State.mapSw_only (Sect.sub rfl hl) | apply State.mapEp_only (Sect.sub rfl hl) | apply State.mapLnk_only (Sect.sub rfl hl) | apply State.ite_only | (intro _ _ _ _) | (intro _ _ _) | (intro _; rfl) | (intro _; apply map_map_same; intro _; rfl) | (intro _; apply map_mapIf; intro _; rfl) | (refine State.fst_only (by assumption) ?_) | split | dsimp only | (intro _; split <;> rfl) | (intro _; (repeat' split) <;> rfl)

theorem execSelftestComplete_only (hl : Sect.wide ⊆ sl) (h : State.Only sl s0 s) (r : SelfTest) :
    Res.Only sl s0 (execSelftestComplete r s) := by
  unfold execSelftestComplete
  try dsimp only
  repeat' with_reducible first | assumption | apply State.enterFailed_only (Sect.sub rfl hl) | apply State.settleAll_only (Sect.sub rfl hl) | apply State.afterSelftest_only (Sect.sub rfl hl) | apply State.enter_only (Sect.sub rfl hl) | apply State.analysisLaser_only (Sect.sub rfl hl) | apply Res.next_only | apply Res.ite_only | apply State.ite_only | (intro _ _ _ _) | (intro _ _ _) | (intro _; rfl) | (intro _; apply map_map_same; intro _; rfl) | (intro _; apply map_mapIf; intro _; rfl) | (refine State.fst_only (by assumption) ?_) | split | dsimp only | (intro _; split <;> rfl) | (intro _; (repeat' split) <;> rfl)

theorem execTrainingExit_only (hl : Sect.wideQ ⊆ sl) (h : State.Only sl s0 s)  :
    Res.Only sl s0 (execTrainingExit s) := by
  unfold execTrainingExit
  try dsimp only
  repeat' with_reducible first | assumption | apply State.defaultVias_only (Sect.sub rfl hl) | apply State.swapBanks_only (Sect.sub rfl hl) | apply State.enterMember_only (Sect.sub rfl hl) | apply State.notices_only (Sect.sub rfl hl) | apply State.settleAll_only (Sect.sub rfl hl) | apply State.enter_only (Sect.sub rfl hl) | apply Res.next_only | apply Res.ite_only | apply State.ite_only | (intro _ _ _ _) | (intro _ _ _) | (intro _; rfl) | (intro _; apply map_map_same; intro _; rfl) | (intro _; apply map_mapIf; intro _; rfl) | (refine State.fst_only (by assumption) ?_) | split | dsimp only | (intro _; split <;> rfl) | (intro _; (repeat' split) <;> rfl)

theorem State.fatal_only (hl : [Sect.out, Sect.life, Sect.od, Sect.mem, Sect.poison, Sect.written, Sect.xl, Sect.req, Sect.home, Sect.ep, Sect.stn, Sect.sw, Sect.dlv, Sect.lnk, Sect.tim, Sect.slu, Sect.mgt, Sect.shd] ⊆ sl) (h : State.Only sl s0 s) (kind unit : Nat) :
    State.Only sl s0 (State.fatal s kind unit) := by
  unfold State.fatal
  try dsimp only
  repeat' with_reducible first | assumption | apply State.enterFailed_only (Sect.sub rfl hl) | apply State.ite_only | (intro _ _ _ _) | (intro _ _ _) | (intro _; rfl) | (intro _; apply map_map_same; intro _; rfl) | (intro _; apply map_mapIf; intro _; rfl) | (refine State.fst_only (by assumption) ?_) | split | dsimp only | (intro _; split <;> rfl) | (intro _; (repeat' split) <;> rfl)

theorem execFatalFault_only (hl : Sect.wide ⊆ sl) (h : State.Only sl s0 s) (code unit : Nat) :
    Res.Only sl s0 (execFatalFault code unit s) := by
  unfold execFatalFault
  try dsimp only
  repeat' with_reducible first | assumption | apply State.fatal_only (Sect.sub rfl hl) | apply State.settleAll_only (Sect.sub rfl hl) | apply Res.next_only | apply Res.ite_only | apply State.ite_only | (intro _ _ _ _) | (intro _ _ _) | (intro _; rfl) | (intro _; apply map_map_same; intro _; rfl) | (intro _; apply map_mapIf; intro _; rfl) | (refine State.fst_only (by assumption) ?_) | split | dsimp only | (intro _; split <;> rfl) | (intro _; (repeat' split) <;> rfl)

theorem execFaultDeclare_only (hl : Sect.wideQ ⊆ sl) (h : State.Only sl s0 s) (o : Origin) (v : Nat) :
    Res.Only sl s0 (execFaultDeclare o v s) := by
  unfold execFaultDeclare
  try dsimp only
  repeat' with_reducible first | assumption | apply State.command_only (Sect.sub rfl hl) | apply State.settle_only (Sect.sub rfl hl) | apply State.fatal_only (Sect.sub rfl hl) | apply State.settleAll_only (Sect.sub rfl hl) | apply Res.next_only | apply Res.ite_only | apply State.ite_only | (intro _ _ _ _) | (intro _ _ _) | (intro _; rfl) | (intro _; apply map_map_same; intro _; rfl) | (intro _; apply map_mapIf; intro _; rfl) | (refine State.fst_only (by assumption) ?_) | split | dsimp only | (intro _; split <;> rfl) | (intro _; (repeat' split) <;> rfl)

theorem State.leaveDraining_only (hl : Sect.all ⊆ sl) (h : State.Only sl s0 s) (r : HeldReq) (o : Origin) :
    State.Only sl s0 (State.leaveDraining s r o) := by
  unfold State.leaveDraining
  try dsimp only
  repeat' with_reducible first | assumption | apply State.commitImage_only (Sect.sub rfl hl) | apply State.mapLife_only (Sect.sub rfl hl) | apply State.each_only | apply State.reply_only (Sect.sub rfl hl) | apply State.mapNv_only (Sect.sub rfl hl) | apply State.poweredDown_only (Sect.sub rfl hl) | apply State.mapPower_only (Sect.sub rfl hl) | apply State.enter_only (Sect.sub rfl hl) | apply State.attachDark_only (Sect.sub rfl hl) | apply State.ite_only | (intro _ _ _ _) | (intro _ _ _) | (intro _; rfl) | (intro _; apply map_map_same; intro _; rfl) | (intro _; apply map_mapIf; intro _; rfl) | (refine State.fst_only (by assumption) ?_) | split | dsimp only | (intro _; split <;> rfl) | (intro _; (repeat' split) <;> rfl)

theorem State.askLeave_only (hl : Sect.all ⊆ sl) (h : State.Only sl s0 s) (r : HeldReq) (o : Origin) :
    State.Only sl s0 (State.askLeave s r o).1 := by
  unfold State.askLeave
  try dsimp only
  repeat' with_reducible first | assumption | apply State.leaveDraining_only (Sect.sub rfl hl) | apply State.reply_only (Sect.sub rfl hl) | apply State.mapLife_only (Sect.sub rfl hl) | apply State.ite_only | (intro _ _ _ _) | (intro _ _ _) | (intro _; rfl) | (intro _; apply map_map_same; intro _; rfl) | (intro _; apply map_mapIf; intro _; rfl) | (refine State.fst_only (by assumption) ?_) | split | dsimp only | (intro _; split <;> rfl) | (intro _; (repeat' split) <;> rfl)

theorem execDrain_only (hl : Sect.wideQ ⊆ sl) (h : State.Only sl s0 s) (o : Origin) :
    Res.Only sl s0 (execDrain o s) := by
  unfold execDrain
  try dsimp only
  repeat' with_reducible first | assumption | apply State.command_only (Sect.sub rfl hl) | apply State.mapLife_only (Sect.sub rfl hl) | apply State.enter_only (Sect.sub rfl hl) | apply State.wr_only (Sect.sub rfl hl) | apply State.notices_only (Sect.sub rfl hl) | apply State.writeBackAll_only (Sect.sub rfl hl) | apply State.settleAll_only (Sect.sub rfl hl) | apply Res.next_only | apply Res.ite_only | apply State.ite_only | (intro _ _ _ _) | (intro _ _ _) | (intro _; rfl) | (intro _; apply map_map_same; intro _; rfl) | (intro _; apply map_mapIf; intro _; rfl) | (refine State.fst_only (by assumption) ?_) | split | dsimp only | (intro _; split <;> rfl) | (intro _; (repeat' split) <;> rfl)

theorem execRestart_only (hl : Sect.wideQ ⊆ sl) (h : State.Only sl s0 s) (o : Origin) :
    Res.Only sl s0 (execRestart o s) := by
  unfold execRestart
  try dsimp only
  repeat' with_reducible first | assumption | apply State.command_only (Sect.sub rfl hl) | apply State.enter_only (Sect.sub rfl hl) | apply State.fabricDark_only (Sect.sub rfl hl) | apply State.attachDark_only (Sect.sub rfl hl) | apply State.settleAll_only (Sect.sub rfl hl) | apply Res.next_only | apply Res.ite_only | apply State.ite_only | (intro _ _ _ _) | (intro _ _ _) | (intro _; rfl) | (intro _; apply map_map_same; intro _; rfl) | (intro _; apply map_mapIf; intro _; rfl) | (refine State.fst_only (by assumption) ?_) | split | dsimp only | (intro _; split <;> rfl) | (intro _; (repeat' split) <;> rfl)

theorem execRecover_only (hl : [Sect.out, Sect.life, Sect.nvq, Sect.ep, Sect.lnk, Sect.mgt] ⊆ sl) (h : State.Only sl s0 s) (o : Origin) :
    Res.Only sl s0 (execRecover o s) := by
  unfold execRecover
  try dsimp only
  repeat' with_reducible first | assumption | apply State.command_only (Sect.sub rfl hl) | apply State.enter_only (Sect.sub rfl hl) | apply State.analysisLaser_only (Sect.sub rfl hl) | apply Res.next_only | apply Res.ite_only | apply State.ite_only | (intro _ _ _ _) | (intro _ _ _) | (intro _; rfl) | (intro _; apply map_map_same; intro _; rfl) | (intro _; apply map_mapIf; intro _; rfl) | (refine State.fst_only (by assumption) ?_) | split | dsimp only | (intro _; split <;> rfl) | (intro _; (repeat' split) <;> rfl)

theorem execPowerOff_only (hl : Sect.all ⊆ sl) (h : State.Only sl s0 s) (o : Origin) :
    Res.Only sl s0 (execPowerOff o s) := by
  unfold execPowerOff
  try dsimp only
  repeat' with_reducible first | assumption | apply State.command_only (Sect.sub rfl hl) | apply State.askLeave_only (Sect.sub rfl hl) | apply Res.next_only | apply Res.ite_only | apply State.ite_only | (intro _ _ _ _) | (intro _ _ _) | (intro _; rfl) | (intro _; apply map_map_same; intro _; rfl) | (intro _; apply map_mapIf; intro _; rfl) | (refine State.fst_only (by assumption) ?_) | split | dsimp only | (intro _; split <;> rfl) | (intro _; (repeat' split) <;> rfl)

theorem execMaintain_only (hl : Sect.all ⊆ sl) (h : State.Only sl s0 s) (o : Origin) :
    Res.Only sl s0 (execMaintain o s) := by
  unfold execMaintain
  try dsimp only
  repeat' with_reducible first | assumption | apply State.command_only (Sect.sub rfl hl) | apply State.askLeave_only (Sect.sub rfl hl) | apply Res.next_only | apply Res.ite_only | apply State.ite_only | (intro _ _ _ _) | (intro _ _ _) | (intro _; rfl) | (intro _; apply map_map_same; intro _; rfl) | (intro _; apply map_mapIf; intro _; rfl) | (refine State.fst_only (by assumption) ?_) | split | dsimp only | (intro _; split <;> rfl) | (intro _; (repeat' split) <;> rfl)

theorem execHomesMoved_only (hl : [Sect.out, Sect.life, Sect.od, Sect.nvq, Sect.ep, Sect.mgt] ⊆ sl) (h : State.Only sl s0 s) (o : Origin) (v : Nat) :
    Res.Only sl s0 (execHomesMoved o v s) := by
  unfold execHomesMoved
  try dsimp only
  repeat' with_reducible first | assumption | apply State.command_only (Sect.sub rfl hl) | apply State.settle_only (Sect.sub rfl hl) | apply State.mapLife_only (Sect.sub rfl hl) | apply Res.next_only | apply Res.ite_only | apply State.ite_only | (intro _ _ _ _) | (intro _ _ _) | (intro _; rfl) | (intro _; apply map_map_same; intro _; rfl) | (intro _; apply map_mapIf; intro _; rfl) | (refine State.fst_only (by assumption) ?_) | split | dsimp only | (intro _; split <;> rfl) | (intro _; (repeat' split) <;> rfl)

theorem execModuleDrained_only (hl : Sect.all ⊆ sl) (h : State.Only sl s0 s)  :
    Res.Only sl s0 (execModuleDrained s) := by
  unfold execModuleDrained
  try dsimp only
  repeat' with_reducible first | assumption | apply State.leaveDraining_only (Sect.sub rfl hl) | apply Res.next_only | apply Res.ite_only | apply State.ite_only | (intro _ _ _ _) | (intro _ _ _) | (intro _; rfl) | (intro _; apply map_map_same; intro _; rfl) | (intro _; apply map_mapIf; intro _; rfl) | (refine State.fst_only (by assumption) ?_) | split | dsimp only | (intro _; split <;> rfl) | (intro _; (repeat' split) <;> rfl)

theorem execPowerCapWrite_only (hl : [Sect.out, Sect.power, Sect.od, Sect.nvq, Sect.ep, Sect.lnk, Sect.mgt] ⊆ sl) (h : State.Only sl s0 s) (o : Origin) (v : Nat) :
    Res.Only sl s0 (execPowerCapWrite o v s) := by
  unfold execPowerCapWrite
  try dsimp only
  repeat' with_reducible first | assumption | apply State.command_only (Sect.sub rfl hl) | apply State.settle_only (Sect.sub rfl hl) | apply State.bump_only (Sect.sub rfl hl) | apply State.wr_only (Sect.sub rfl hl) | apply State.applyCap_only (Sect.sub rfl hl) | apply Res.next_only | apply Res.ite_only | apply State.ite_only | (intro _ _ _ _) | (intro _ _ _) | (intro _; rfl) | (intro _; apply map_map_same; intro _; rfl) | (intro _; apply map_mapIf; intro _; rfl) | (refine State.fst_only (by assumption) ?_) | split | dsimp only | (intro _; split <;> rfl) | (intro _; (repeat' split) <;> rfl)

theorem execCapStage2_only (hl : [Sect.out, Sect.power, Sect.od, Sect.lnk, Sect.mgt] ⊆ sl) (h : State.Only sl s0 s) (watts : Nat) :
    Res.Only sl s0 (execCapStage2 watts s) := by
  unfold execCapStage2
  try dsimp only
  repeat' with_reducible first | assumption | apply State.wr_only (Sect.sub rfl hl) | apply State.each_only | apply State.nextMeasure_only (Sect.sub rfl hl) | apply State.setStage_only (Sect.sub rfl hl) | apply Res.next_only | apply Res.ite_only | apply State.ite_only | (intro _ _ _ _) | (intro _ _ _) | (intro _; rfl) | (intro _; apply map_map_same; intro _; rfl) | (intro _; apply map_mapIf; intro _; rfl) | (refine State.fst_only (by assumption) ?_) | split | dsimp only | (intro _; split <;> rfl) | (intro _; (repeat' split) <;> rfl)

theorem State.idleAll_only (hl : [Sect.out, Sect.lnk] ⊆ sl) (h : State.Only sl s0 s)  :
    State.Only sl s0 (State.idleAll s) := by
  unfold State.idleAll
  try dsimp only
  repeat' with_reducible first | assumption | apply State.emit_only (Sect.sub rfl hl) | apply State.setFp_only (Sect.sub rfl hl) | apply State.setAp_only (Sect.sub rfl hl) | apply State.each_only | apply State.ite_only | (intro _ _ _ _) | (intro _ _ _) | (intro _; rfl) | (intro _; apply map_map_same; intro _; rfl) | (intro _; apply map_mapIf; intro _; rfl) | (refine State.fst_only (by assumption) ?_) | split | dsimp only | (intro _; split <;> rfl) | (intro _; (repeat' split) <;> rfl)

theorem execCapStage3_only (hl : [Sect.out, Sect.power, Sect.od, Sect.lnk] ⊆ sl) (h : State.Only sl s0 s) (watts : Nat) :
    Res.Only sl s0 (execCapStage3 watts s) := by
  unfold execCapStage3
  try dsimp only
  repeat' with_reducible first | assumption | apply State.wr_only (Sect.sub rfl hl) | apply State.mapPower_only (Sect.sub rfl hl) | apply State.idleAll_only (Sect.sub rfl hl) | apply Res.next_only | apply Res.ite_only | apply State.ite_only | (intro _ _ _ _) | (intro _ _ _) | (intro _; rfl) | (intro _; apply map_map_same; intro _; rfl) | (intro _; apply map_mapIf; intro _; rfl) | (refine State.fst_only (by assumption) ?_) | split | dsimp only | (intro _; split <;> rfl) | (intro _; (repeat' split) <;> rfl)

theorem execCapRelease_only (hl : [Sect.out, Sect.life, Sect.power, Sect.od, Sect.mem, Sect.poison, Sect.written, Sect.xl, Sect.req, Sect.home, Sect.ep, Sect.stn, Sect.sw, Sect.dlv, Sect.lnk, Sect.tim, Sect.slu, Sect.sec, Sect.mgt, Sect.shd] ⊆ sl) (h : State.Only sl s0 s) (watts : Nat) :
    Res.Only sl s0 (execCapRelease watts s) := by
  unfold execCapRelease
  try dsimp only
  repeat' with_reducible first | assumption | apply State.wr_only (Sect.sub rfl hl) | apply State.releaseStep_only (Sect.sub rfl hl) | apply State.settleAll_only (Sect.sub rfl hl) | apply Res.next_only | apply Res.ite_only | apply State.ite_only | (intro _ _ _ _) | (intro _ _ _) | (intro _; rfl) | (intro _; apply map_map_same; intro _; rfl) | (intro _; apply map_mapIf; intro _; rfl) | (refine State.fst_only (by assumption) ?_) | split | dsimp only | (intro _; split <;> rfl) | (intro _; (repeat' split) <;> rfl)

theorem execEmergencyThrottle_only (hl : [Sect.power, Sect.od] ⊆ sl) (h : State.Only sl s0 s) (overCurrent : Bool) (tempDeci : Nat) :
    Res.Only sl s0 (execEmergencyThrottle overCurrent tempDeci s) := by
  unfold execEmergencyThrottle
  try dsimp only
  repeat' with_reducible first | assumption | apply State.mapPower_only (Sect.sub rfl hl) | apply State.wr_only (Sect.sub rfl hl) | apply State.bump_only (Sect.sub rfl hl) | apply Res.next_only | apply Res.ite_only | apply State.ite_only | (intro _ _ _ _) | (intro _ _ _) | (intro _; rfl) | (intro _; apply map_map_same; intro _; rfl) | (intro _; apply map_mapIf; intro _; rfl) | (refine State.fst_only (by assumption) ?_) | split | dsimp only | (intro _; split <;> rfl) | (intro _; (repeat' split) <;> rfl)

theorem execEmergencyThrottleEnd_only (hl : Sect.wide ⊆ sl) (h : State.Only sl s0 s)  :
    Res.Only sl s0 (execEmergencyThrottleEnd s) := by
  unfold execEmergencyThrottleEnd
  try dsimp only
  repeat' with_reducible first | assumption | apply State.wr_only (Sect.sub rfl hl) | apply State.settleAll_only (Sect.sub rfl hl) | apply Res.next_only | apply Res.ite_only | apply State.ite_only | (intro _ _ _ _) | (intro _ _ _) | (intro _; rfl) | (intro _; apply map_map_same; intro _; rfl) | (intro _; apply map_mapIf; intro _; rfl) | (refine State.fst_only (by assumption) ?_) | split | dsimp only | (intro _; split <;> rfl) | (intro _; (repeat' split) <;> rfl)

theorem execThermalShutdown_only (hl : [Sect.life, Sect.power, Sect.od, Sect.nv, Sect.nvq, Sect.mem, Sect.poison, Sect.written, Sect.own, Sect.fills, Sect.xl, Sect.req, Sect.home, Sect.ep, Sect.stn, Sect.sw, Sect.dlv, Sect.lnk, Sect.tim, Sect.slu, Sect.sec, Sect.mgt, Sect.shd] ⊆ sl) (h : State.Only sl s0 s) (tempDeci : Nat) :
    Res.Only sl s0 (execThermalShutdown tempDeci s) := by
  unfold execThermalShutdown
  try dsimp only
  repeat' with_reducible first | assumption | apply State.inputGone_only (Sect.sub rfl hl) | apply Res.next_only | apply Res.ite_only | apply State.ite_only | (intro _ _ _ _) | (intro _ _ _) | (intro _; rfl) | (intro _; apply map_map_same; intro _; rfl) | (intro _; apply map_mapIf; intro _; rfl) | (refine State.fst_only (by assumption) ?_) | split | dsimp only | (intro _; split <;> rfl) | (intro _; (repeat' split) <;> rfl)

end Sys2Proof.Machine
end

