-- ==== Sys2Proof/Laws/OnlyXlat.lean ====
section
/-! SUPPORT. `State.Only` for every operation and meaning of Machine/Xlat.lean: the sections that it may change. -/

namespace Sys2Proof.Machine

open Sys2Proof

set_option Elab.async false

set_option linter.unreachableTactic false
set_option linter.unusedTactic false

variable {s0 s : State} {sl : List Sect}

theorem execRequestIssue_only (hl : Sect.wide ⊆ sl) (h : State.Only sl s0 s) (tx part : Nat) :
    Res.Only sl s0 (execRequestIssue tx part s) := by
  unfold execRequestIssue
  try dsimp only
  repeat' with_reducible first | assumption | apply State.tryIssue_only (Sect.sub rfl hl) | apply State.settleAll_only (Sect.sub rfl hl) | apply Res.next_only | apply Res.ite_only | apply State.ite_only | (intro _ _ _ _) | (intro _ _ _) | (intro _; rfl) | (intro _; apply map_map_same; intro _; rfl) | (intro _; apply map_mapIf; intro _; rfl) | (refine State.fst_only (by assumption) ?_) | split | dsimp only | (intro _; split <;> rfl) | (intro _; (repeat' split) <;> rfl)

theorem execResponseArrival_only (hl : Sect.wide ⊆ sl) (h : State.Only sl s0 s) (r : RspSrc) :
    Res.Only sl s0 (execResponseArrival r s) := by
  unfold execResponseArrival
  try dsimp only
  repeat' with_reducible first | assumption | apply State.rsp_only (Sect.sub rfl hl) | apply State.mapHome_only (Sect.sub rfl hl) | apply State.ownerAnswer_only (Sect.sub rfl hl) | apply State.respond_only (Sect.sub rfl hl) | apply State.settleAll_only (Sect.sub rfl hl) | apply State.rspIn_only (Sect.sub rfl hl) | apply Res.next_only | apply Res.ite_only | apply State.ite_only | (intro _ _ _ _) | (intro _ _ _) | (intro _; rfl) | (intro _; apply map_map_same; intro _; rfl) | (intro _; apply map_mapIf; intro _; rfl) | (refine State.fst_only (by assumption) ?_) | split | dsimp only | (intro _; split <;> rfl) | (intro _; (repeat' split) <;> rfl)

theorem execFenceComplete_only (hl : Sect.wide ⊆ sl) (h : State.Only sl s0 s) (tx : Nat) :
    Res.Only sl s0 (execFenceComplete tx s) := by
  unfold execFenceComplete
  try dsimp only
  repeat' with_reducible first | assumption | apply State.fenceEnd_only (Sect.sub rfl hl) | apply State.settleAll_only (Sect.sub rfl hl) | apply Res.next_only | apply Res.ite_only | apply State.ite_only | (intro _ _ _ _) | (intro _ _ _) | (intro _; rfl) | (intro _; apply map_map_same; intro _; rfl) | (intro _; apply map_mapIf; intro _; rfl) | (refine State.fst_only (by assumption) ?_) | split | dsimp only | (intro _; split <;> rfl) | (intro _; (repeat' split) <;> rfl)

theorem execInvalComplete_only (hl : Sect.wide ⊆ sl) (h : State.Only sl s0 s) (tx : Nat) :
    Res.Only sl s0 (execInvalComplete tx s) := by
  unfold execInvalComplete
  try dsimp only
  repeat' with_reducible first | assumption | apply State.invalEnd_only (Sect.sub rfl hl) | apply State.settleAll_only (Sect.sub rfl hl) | apply Res.next_only | apply Res.ite_only | apply State.ite_only | (intro _ _ _ _) | (intro _ _ _) | (intro _; rfl) | (intro _; apply map_map_same; intro _; rfl) | (intro _; apply map_mapIf; intro _; rfl) | (refine State.fst_only (by assumption) ?_) | split | dsimp only | (intro _; split <;> rfl) | (intro _; (repeat' split) <;> rfl)

theorem State.joinWalk_only (hl : [Sect.req] ⊆ sl) (h : State.Only sl s0 s) (ep pid slot : Nat) :
    State.Only sl s0 (State.joinWalk s ep pid slot) := by
  unfold State.joinWalk
  try dsimp only
  repeat' with_reducible first | assumption | apply State.mapReq_only (Sect.sub rfl hl) | apply State.ite_only | (intro _ _ _ _) | (intro _ _ _) | (intro _; rfl) | (intro _; apply map_map_same; intro _; rfl) | (intro _; apply map_mapIf; intro _; rfl) | (refine State.fst_only (by assumption) ?_) | split | dsimp only | (intro _; split <;> rfl) | (intro _; (repeat' split) <;> rfl)

theorem execWalkerFree_only (hl : Sect.wide ⊆ sl) (h : State.Only sl s0 s) (ep : Nat) :
    Res.Only sl s0 (execWalkerFree ep s) := by
  unfold execWalkerFree
  try dsimp only
  repeat' with_reducible first | assumption | apply State.mapXl_only (Sect.sub rfl hl) | apply State.joinWalk_only (Sect.sub rfl hl) | apply State.settleAll_only (Sect.sub rfl hl) | apply Res.next_only | apply Res.ite_only | apply State.ite_only | (intro _ _ _ _) | (intro _ _ _) | (intro _; rfl) | (intro _; apply map_map_same; intro _; rfl) | (intro _; apply map_mapIf; intro _; rfl) | (refine State.fst_only (by assumption) ?_) | split | dsimp only | (intro _; split <;> rfl) | (intro _; (repeat' split) <;> rfl)

theorem State.hbmError_only (hl : [Sect.od, Sect.poison, Sect.mgt] ⊆ sl) (h : State.Only sl s0 s) (a pid : Nat) :
    State.Only sl s0 (State.hbmError s a pid) := by
  unfold State.hbmError
  try dsimp only
  repeat' with_reducible first | assumption | apply State.setPoison_only (Sect.sub rfl hl) | apply State.logFault_only (Sect.sub rfl hl) | apply State.ite_only | (intro _ _ _ _) | (intro _ _ _) | (intro _; rfl) | (intro _; apply map_map_same; intro _; rfl) | (intro _; apply map_mapIf; intro _; rfl) | (refine State.fst_only (by assumption) ?_) | split | dsimp only | (intro _; split <;> rfl) | (intro _; (repeat' split) <;> rfl)

theorem execRtcWalkComplete_only (hl : Sect.wide ⊆ sl) (h : State.Only sl s0 s) (ep pid slot : Nat) (uncorrectable : Bool) :
    Res.Only sl s0 (execRtcWalkComplete ep pid slot uncorrectable s) := by
  unfold execRtcWalkComplete
  try dsimp only
  repeat' with_reducible first | assumption | apply State.mapXl_only (Sect.sub rfl hl) | apply State.hbmError_only (Sect.sub rfl hl) | apply State.each_only | apply State.translate_only (Sect.sub rfl hl) | apply State.nodeFill_only (Sect.sub rfl hl) | apply State.settleAll_only (Sect.sub rfl hl) | apply Res.next_only | apply Res.ite_only | apply State.ite_only | (intro _ _ _ _) | (intro _ _ _) | (intro _; rfl) | (intro _; apply map_map_same; intro _; rfl) | (intro _; apply map_mapIf; intro _; rfl) | (refine State.fst_only (by assumption) ?_) | split | dsimp only | (intro _; split <;> rfl) | (intro _; (repeat' split) <;> rfl)

theorem State.closeRec_only (hl : [Sect.xl] ⊆ sl) (h : State.Only sl s0 s) (rid pid : Nat) :
    State.Only sl s0 (State.closeRec s rid pid) := by
  unfold State.closeRec
  try dsimp only
  repeat' with_reducible first | assumption | apply State.mapXl_only (Sect.sub rfl hl) | apply State.ite_only | (intro _ _ _ _) | (intro _ _ _) | (intro _; rfl) | (intro _; apply map_map_same; intro _; rfl) | (intro _; apply map_mapIf; intro _; rfl) | (refine State.fst_only (by assumption) ?_) | split | dsimp only | (intro _; split <;> rfl) | (intro _; (repeat' split) <;> rfl)

theorem execFaultResolveRetry_only (hl : Sect.wideQ ⊆ sl) (h : State.Only sl s0 s) (o : Origin) (pid recId : Nat) :
    Res.Only sl s0 (execFaultResolveRetry o pid recId s) := by
  unfold execFaultResolveRetry
  try dsimp only
  repeat' with_reducible first | assumption | apply State.mailCommand_only (Sect.sub rfl hl) | apply State.closeRec_only (Sect.sub rfl hl) | apply State.each_only | apply State.setTx_only (Sect.sub rfl hl) | apply State.translate_only (Sect.sub rfl hl) | apply State.settleAll_only (Sect.sub rfl hl) | apply Res.next_only | apply Res.ite_only | apply State.ite_only | (intro _ _ _ _) | (intro _ _ _) | (intro _; rfl) | (intro _; apply map_map_same; intro _; rfl) | (intro _; apply map_mapIf; intro _; rfl) | (refine State.fst_only (by assumption) ?_) | split | dsimp only | (intro _; split <;> rfl) | (intro _; (repeat' split) <;> rfl)

theorem execFaultResolveFail_only (hl : Sect.wideQ ⊆ sl) (h : State.Only sl s0 s) (o : Origin) (pid recId : Nat) :
    Res.Only sl s0 (execFaultResolveFail o pid recId s) := by
  unfold execFaultResolveFail
  try dsimp only
  repeat' with_reducible first | assumption | apply State.mailCommand_only (Sect.sub rfl hl) | apply State.closeRec_only (Sect.sub rfl hl) | apply State.each_only | apply State.completeTx_only (Sect.sub rfl hl) | apply State.settleAll_only (Sect.sub rfl hl) | apply Res.next_only | apply Res.ite_only | apply State.ite_only | (intro _ _ _ _) | (intro _ _ _) | (intro _; rfl) | (intro _; apply map_map_same; intro _; rfl) | (intro _; apply map_mapIf; intro _; rfl) | (refine State.fst_only (by assumption) ?_) | split | dsimp only | (intro _; split <;> rfl) | (intro _; (repeat' split) <;> rfl)

theorem execFaultRingReset_only (hl : [Sect.out, Sect.od, Sect.nvq, Sect.xl, Sect.ep, Sect.mgt] ⊆ sl) (h : State.Only sl s0 s) (o : Origin) (pid sub v : Nat) :
    Res.Only sl s0 (execFaultRingReset o pid sub v s) := by
  unfold execFaultRingReset
  try dsimp only
  repeat' with_reducible first | assumption | apply State.command_only (Sect.sub rfl hl) | apply State.settle_only (Sect.sub rfl hl) | apply State.wr_only (Sect.sub rfl hl) | apply State.mapXl_only (Sect.sub rfl hl) | apply Res.next_only | apply Res.ite_only | apply State.ite_only | (intro _ _ _ _) | (intro _ _ _) | (intro _; rfl) | (intro _; apply map_map_same; intro _; rfl) | (intro _; apply map_mapIf; intro _; rfl) | (refine State.fst_only (by assumption) ?_) | split | dsimp only | (intro _; split <;> rfl) | (intro _; (repeat' split) <;> rfl)

theorem State.ringConsumed_only (hl : [Sect.xl] ⊆ sl) (h : State.Only sl s0 s) (pid : Nat) :
    State.Only sl s0 (State.ringConsumed s pid) := by
  unfold State.ringConsumed
  try dsimp only
  repeat' with_reducible first | assumption | apply State.mapXl_only (Sect.sub rfl hl) | apply State.ite_only | (intro _ _ _ _) | (intro _ _ _) | (intro _; rfl) | (intro _; apply map_map_same; intro _; rfl) | (intro _; apply map_mapIf; intro _; rfl) | (refine State.fst_only (by assumption) ?_) | split | dsimp only | (intro _; split <;> rfl) | (intro _; (repeat' split) <;> rfl)

theorem execFaultRingTail_only (hl : [Sect.out, Sect.od, Sect.nvq, Sect.xl, Sect.ep, Sect.mgt] ⊆ sl) (h : State.Only sl s0 s) (o : Origin) (pid v : Nat) :
    Res.Only sl s0 (execFaultRingTail o pid v s) := by
  unfold execFaultRingTail
  try dsimp only
  repeat' with_reducible first | assumption | apply State.command_only (Sect.sub rfl hl) | apply State.writePlain_only (Sect.sub rfl hl) | apply State.ringConsumed_only (Sect.sub rfl hl) | apply Res.next_only | apply Res.ite_only | apply State.ite_only | (intro _ _ _ _) | (intro _ _ _) | (intro _; rfl) | (intro _; apply map_map_same; intro _; rfl) | (intro _; apply map_mapIf; intro _; rfl) | (refine State.fst_only (by assumption) ?_) | split | dsimp only | (intro _; split <;> rfl) | (intro _; (repeat' split) <;> rfl)

theorem State.invalApply_only (hl : [Sect.od, Sect.xl, Sect.mgt] ⊆ sl) (h : State.Only sl s0 s) (i : InvalOp) :
    State.Only sl s0 (State.invalApply s i) := by
  unfold State.invalApply
  try dsimp only
  repeat' with_reducible first | assumption | apply State.mapXl_only (Sect.sub rfl hl) | apply State.reachDrop_only (Sect.sub rfl hl) | apply State.ite_only | (intro _ _ _ _) | (intro _ _ _) | (intro _; rfl) | (intro _; apply map_map_same; intro _; rfl) | (intro _; apply map_mapIf; intro _; rfl) | (refine State.fst_only (by assumption) ?_) | split | dsimp only | (intro _; split <;> rfl) | (intro _; (repeat' split) <;> rfl)

theorem execRtcInval_only (hl : [Sect.out, Sect.od, Sect.nvq, Sect.xl, Sect.ep, Sect.mgt] ⊆ sl) (h : State.Only sl s0 s) (o : Origin) (i : InvalOp) :
    Res.Only sl s0 (execRtcInval o i s) := by
  unfold execRtcInval
  try dsimp only
  repeat' with_reducible first | assumption | apply State.mailCommand_only (Sect.sub rfl hl) | apply State.invalApply_only (Sect.sub rfl hl) | apply State.fresh_only (Sect.sub rfl hl) | apply State.mapXl_only (Sect.sub rfl hl) | apply Res.next_only | apply Res.ite_only | apply State.ite_only | (intro _ _ _ _) | (intro _ _ _) | (intro _; rfl) | (intro _; apply map_map_same; intro _; rfl) | (intro _; apply map_mapIf; intro _; rfl) | (refine State.fst_only (by assumption) ?_) | split | dsimp only | (intro _; split <;> rfl) | (intro _; (repeat' split) <;> rfl)

theorem execRtcInvalComplete_only (hl : [Sect.out, Sect.xl, Sect.ep, Sect.mgt] ⊆ sl) (h : State.Only sl s0 s) (id : Nat) :
    Res.Only sl s0 (execRtcInvalComplete id s) := by
  unfold execRtcInvalComplete
  try dsimp only
  repeat' with_reducible first | assumption | apply State.mapXl_only (Sect.sub rfl hl) | apply State.reply_only (Sect.sub rfl hl) | apply Res.next_only | apply Res.ite_only | apply State.ite_only | (intro _ _ _ _) | (intro _ _ _) | (intro _; rfl) | (intro _; apply map_map_same; intro _; rfl) | (intro _; apply map_mapIf; intro _; rfl) | (refine State.fst_only (by assumption) ?_) | split | dsimp only | (intro _; split <;> rfl) | (intro _; (repeat' split) <;> rfl)

theorem execCxlMemRequest_only (hl : Sect.wide ⊆ sl) (h : State.Only sl s0 s) (cp : Nat) (wr wantM : Bool) (hpa : Nat) (data : List Byte) :
    Res.Only sl s0 (execCxlMemRequest cp wr wantM hpa data s) := by
  unfold execCxlMemRequest
  try dsimp only
  repeat' with_reducible first | assumption | apply State.addAgent_only (Sect.sub rfl hl) | apply State.epEv_only (Sect.sub rfl hl) | apply State.openAccess_only (Sect.sub rfl hl) | apply State.wr_only (Sect.sub rfl hl) | apply State.store_only (Sect.sub rfl hl) | apply State.settleAll_only (Sect.sub rfl hl) | apply State.hostAnswer_only (Sect.sub rfl hl) | apply Res.next_only | apply Res.ite_only | apply State.ite_only | (intro _ _ _ _) | (intro _ _ _) | (intro _; rfl) | (intro _; apply map_map_same; intro _; rfl) | (intro _; apply map_mapIf; intro _; rfl) | (refine State.fst_only (by assumption) ?_) | split | dsimp only | (intro _; split <;> rfl) | (intro _; (repeat' split) <;> rfl)

theorem State.atsSettle_only (hl : [Sect.out, Sect.req] ⊆ sl) (h : State.Only sl s0 s)  :
    State.Only sl s0 (State.atsSettle s) := by
  unfold State.atsSettle
  try dsimp only
  repeat' with_reducible first | assumption | apply State.each_only | apply State.mapReq_only (Sect.sub rfl hl) | apply State.emit_only (Sect.sub rfl hl) | apply State.ite_only | (intro _ _ _ _) | (intro _ _ _) | (intro _; rfl) | (intro _; apply map_map_same; intro _; rfl) | (intro _; apply map_mapIf; intro _; rfl) | (refine State.fst_only (by assumption) ?_) | split | dsimp only | (intro _; split <;> rfl) | (intro _; (repeat' split) <;> rfl)

theorem execAtsInvalidation_only (hl : [Sect.out, Sect.req] ⊆ sl) (h : State.Only sl s0 s) (cp base len : Nat) :
    Res.Only sl s0 (execAtsInvalidation cp base len s) := by
  unfold execAtsInvalidation
  try dsimp only
  repeat' with_reducible first | assumption | apply State.mapReq_only (Sect.sub rfl hl) | apply State.atsSettle_only (Sect.sub rfl hl) | apply Res.next_only | apply Res.ite_only | apply State.ite_only | (intro _ _ _ _) | (intro _ _ _) | (intro _; rfl) | (intro _; apply map_map_same; intro _; rfl) | (intro _; apply map_mapIf; intro _; rfl) | (refine State.fst_only (by assumption) ?_) | split | dsimp only | (intro _; split <;> rfl) | (intro _; (repeat' split) <;> rfl)

end Sys2Proof.Machine
end

