-- ==== Sys2Proof/Laws/OnlyEp.lean ====
section
/-! SUPPORT. `State.Only` for every operation and meaning of Machine/Ep.lean: the sections that it may change. -/

namespace Sys2Proof.Machine

open Sys2Proof

set_option Elab.async false

set_option linter.unreachableTactic false
set_option linter.unusedTactic false

variable {s0 s : State} {sl : List Sect}

theorem execBld_only (hl : Sect.wide ⊆ sl) (h : State.Only sl s0 s) (m : CapMsg) :
    Res.Only sl s0 (execBld m s) := by
  unfold execBld
  try dsimp only
  repeat' with_reducible first | assumption | apply State.capRequest_only (Sect.sub rfl hl) | apply State.settleAll_only (Sect.sub rfl hl) | apply Res.next_only | apply Res.ite_only | apply State.ite_only | (intro _ _ _ _) | (intro _ _ _) | (intro _; rfl) | (intro _; apply map_map_same; intro _; rfl) | (intro _; apply map_mapIf; intro _; rfl) | (refine State.fst_only (by assumption) ?_) | split | dsimp only | (intro _; split <;> rfl) | (intro _; (repeat' split) <;> rfl)

theorem execBst_only (hl : Sect.wide ⊆ sl) (h : State.Only sl s0 s) (m : CapMsg) :
    Res.Only sl s0 (execBst m s) := by
  unfold execBst
  try dsimp only
  repeat' with_reducible first | assumption | apply State.capRequest_only (Sect.sub rfl hl) | apply State.settleAll_only (Sect.sub rfl hl) | apply Res.next_only | apply Res.ite_only | apply State.ite_only | (intro _ _ _ _) | (intro _ _ _) | (intro _; rfl) | (intro _; apply map_map_same; intro _; rfl) | (intro _; apply map_mapIf; intro _; rfl) | (refine State.fst_only (by assumption) ?_) | split | dsimp only | (intro _; split <;> rfl) | (intro _; (repeat' split) <;> rfl)

theorem execTrd_only (hl : Sect.wide ⊆ sl) (h : State.Only sl s0 s) (m : CapMsg) :
    Res.Only sl s0 (execTrd m s) := by
  unfold execTrd
  try dsimp only
  repeat' with_reducible first | assumption | apply State.capRequest_only (Sect.sub rfl hl) | apply State.settleAll_only (Sect.sub rfl hl) | apply Res.next_only | apply Res.ite_only | apply State.ite_only | (intro _ _ _ _) | (intro _ _ _) | (intro _; rfl) | (intro _; apply map_map_same; intro _; rfl) | (intro _; apply map_mapIf; intro _; rfl) | (refine State.fst_only (by assumption) ?_) | split | dsimp only | (intro _; split <;> rfl) | (intro _; (repeat' split) <;> rfl)

theorem execTwr_only (hl : Sect.wide ⊆ sl) (h : State.Only sl s0 s) (m : CapMsg) :
    Res.Only sl s0 (execTwr m s) := by
  unfold execTwr
  try dsimp only
  repeat' with_reducible first | assumption | apply State.capRequest_only (Sect.sub rfl hl) | apply State.settleAll_only (Sect.sub rfl hl) | apply Res.next_only | apply Res.ite_only | apply State.ite_only | (intro _ _ _ _) | (intro _ _ _) | (intro _; rfl) | (intro _; apply map_map_same; intro _; rfl) | (intro _; apply map_mapIf; intro _; rfl) | (refine State.fst_only (by assumption) ?_) | split | dsimp only | (intro _; split <;> rfl) | (intro _; (repeat' split) <;> rfl)

theorem execTwd_only (hl : Sect.wide ⊆ sl) (h : State.Only sl s0 s) (m : CapMsg) :
    Res.Only sl s0 (execTwd m s) := by
  unfold execTwd
  try dsimp only
  repeat' with_reducible first | assumption | apply State.capRequest_only (Sect.sub rfl hl) | apply State.settleAll_only (Sect.sub rfl hl) | apply Res.next_only | apply Res.ite_only | apply State.ite_only | (intro _ _ _ _) | (intro _ _ _) | (intro _; rfl) | (intro _; apply map_map_same; intro _; rfl) | (intro _; apply map_mapIf; intro _; rfl) | (refine State.fst_only (by assumption) ?_) | split | dsimp only | (intro _; split <;> rfl) | (intro _; (repeat' split) <;> rfl)

theorem execHintHot_only (hl : Sect.wide ⊆ sl) (h : State.Only sl s0 s) (m : CapMsg) :
    Res.Only sl s0 (execHintHot m s) := by
  unfold execHintHot
  try dsimp only
  repeat' with_reducible first | assumption | apply State.capRequest_only (Sect.sub rfl hl) | apply State.settleAll_only (Sect.sub rfl hl) | apply Res.next_only | apply Res.ite_only | apply State.ite_only | (intro _ _ _ _) | (intro _ _ _) | (intro _; rfl) | (intro _; apply map_map_same; intro _; rfl) | (intro _; apply map_mapIf; intro _; rfl) | (refine State.fst_only (by assumption) ?_) | split | dsimp only | (intro _; split <;> rfl) | (intro _; (repeat' split) <;> rfl)

theorem execHintWarm_only (hl : Sect.wide ⊆ sl) (h : State.Only sl s0 s) (m : CapMsg) :
    Res.Only sl s0 (execHintWarm m s) := by
  unfold execHintWarm
  try dsimp only
  repeat' with_reducible first | assumption | apply State.capRequest_only (Sect.sub rfl hl) | apply State.settleAll_only (Sect.sub rfl hl) | apply Res.next_only | apply Res.ite_only | apply State.ite_only | (intro _ _ _ _) | (intro _ _ _) | (intro _; rfl) | (intro _; apply map_map_same; intro _; rfl) | (intro _; apply map_mapIf; intro _; rfl) | (refine State.fst_only (by assumption) ?_) | split | dsimp only | (intro _; split <;> rfl) | (intro _; (repeat' split) <;> rfl)

theorem execHintCold_only (hl : Sect.wide ⊆ sl) (h : State.Only sl s0 s) (m : CapMsg) :
    Res.Only sl s0 (execHintCold m s) := by
  unfold execHintCold
  try dsimp only
  repeat' with_reducible first | assumption | apply State.capRequest_only (Sect.sub rfl hl) | apply State.settleAll_only (Sect.sub rfl hl) | apply Res.next_only | apply Res.ite_only | apply State.ite_only | (intro _ _ _ _) | (intro _ _ _) | (intro _; rfl) | (intro _; apply map_map_same; intro _; rfl) | (intro _; apply map_mapIf; intro _; rfl) | (refine State.fst_only (by assumption) ?_) | split | dsimp only | (intro _; split <;> rfl) | (intro _; (repeat' split) <;> rfl)

theorem execHintEvict_only (hl : Sect.wide ⊆ sl) (h : State.Only sl s0 s) (m : CapMsg) :
    Res.Only sl s0 (execHintEvict m s) := by
  unfold execHintEvict
  try dsimp only
  repeat' with_reducible first | assumption | apply State.capRequest_only (Sect.sub rfl hl) | apply State.settleAll_only (Sect.sub rfl hl) | apply Res.next_only | apply Res.ite_only | apply State.ite_only | (intro _ _ _ _) | (intro _ _ _) | (intro _; rfl) | (intro _; apply map_map_same; intro _; rfl) | (intro _; apply map_mapIf; intro _; rfl) | (refine State.fst_only (by assumption) ?_) | split | dsimp only | (intro _; split <;> rfl) | (intro _; (repeat' split) <;> rfl)

theorem execHintPin_only (hl : Sect.wide ⊆ sl) (h : State.Only sl s0 s) (m : CapMsg) :
    Res.Only sl s0 (execHintPin m s) := by
  unfold execHintPin
  try dsimp only
  repeat' with_reducible first | assumption | apply State.capRequest_only (Sect.sub rfl hl) | apply State.settleAll_only (Sect.sub rfl hl) | apply Res.next_only | apply Res.ite_only | apply State.ite_only | (intro _ _ _ _) | (intro _ _ _) | (intro _; rfl) | (intro _; apply map_map_same; intro _; rfl) | (intro _; apply map_mapIf; intro _; rfl) | (refine State.fst_only (by assumption) ?_) | split | dsimp only | (intro _; split <;> rfl) | (intro _; (repeat' split) <;> rfl)

theorem execDoorbell_only (hl : Sect.wide ⊆ sl) (h : State.Only sl s0 s) (m : CapMsg) :
    Res.Only sl s0 (execDoorbell m s) := by
  unfold execDoorbell
  try dsimp only
  repeat' with_reducible first | assumption | apply State.capRequest_only (Sect.sub rfl hl) | apply State.settleAll_only (Sect.sub rfl hl) | apply Res.next_only | apply Res.ite_only | apply State.ite_only | (intro _ _ _ _) | (intro _ _ _) | (intro _; rfl) | (intro _; apply map_map_same; intro _; rfl) | (intro _; apply map_mapIf; intro _; rfl) | (refine State.fst_only (by assumption) ?_) | split | dsimp only | (intro _; split <;> rfl) | (intro _; (repeat' split) <;> rfl)

theorem execCtrwait_only (hl : Sect.wide ⊆ sl) (h : State.Only sl s0 s) (m : CapMsg) :
    Res.Only sl s0 (execCtrwait m s) := by
  unfold execCtrwait
  try dsimp only
  repeat' with_reducible first | assumption | apply State.capRequest_only (Sect.sub rfl hl) | apply State.settleAll_only (Sect.sub rfl hl) | apply Res.next_only | apply Res.ite_only | apply State.ite_only | (intro _ _ _ _) | (intro _ _ _) | (intro _; rfl) | (intro _; apply map_map_same; intro _; rfl) | (intro _; apply map_mapIf; intro _; rfl) | (refine State.fst_only (by assumption) ?_) | split | dsimp only | (intro _; split <;> rfl) | (intro _; (repeat' split) <;> rfl)

theorem execCtrset_only (hl : Sect.wide ⊆ sl) (h : State.Only sl s0 s) (m : CapMsg) :
    Res.Only sl s0 (execCtrset m s) := by
  unfold execCtrset
  try dsimp only
  repeat' with_reducible first | assumption | apply State.capRequest_only (Sect.sub rfl hl) | apply State.settleAll_only (Sect.sub rfl hl) | apply Res.next_only | apply Res.ite_only | apply State.ite_only | (intro _ _ _ _) | (intro _ _ _) | (intro _; rfl) | (intro _; apply map_map_same; intro _; rfl) | (intro _; apply map_mapIf; intro _; rfl) | (refine State.fst_only (by assumption) ?_) | split | dsimp only | (intro _; split <;> rfl) | (intro _; (repeat' split) <;> rfl)

theorem execCtrwaitTimeout_only (hl : Sect.wide ⊆ sl) (h : State.Only sl s0 s) (ep ctx tag : Nat) :
    Res.Only sl s0 (execCtrwaitTimeout ep ctx tag s) := by
  unfold execCtrwaitTimeout
  try dsimp only
  repeat' with_reducible first | assumption | apply State.endWait_only (Sect.sub rfl hl) | apply State.settleAll_only (Sect.sub rfl hl) | apply Res.next_only | apply Res.ite_only | apply State.ite_only | (intro _ _ _ _) | (intro _ _ _) | (intro _; rfl) | (intro _; apply map_map_same; intro _; rfl) | (intro _; apply map_mapIf; intro _; rfl) | (refine State.fst_only (by assumption) ?_) | split | dsimp only | (intro _; split <;> rfl) | (intro _; (repeat' split) <;> rfl)

theorem State.strmBack_only (hl : [Sect.lnk] ⊆ sl) (h : State.Only sl s0 s) (m : CapMsg) (limit : Nat) :
    State.Only sl s0 (State.strmBack s m limit) := by
  unfold State.strmBack
  try dsimp only
  repeat' with_reducible first | assumption | apply State.capReturn_only (Sect.sub rfl hl) | apply State.ite_only | (intro _ _ _ _) | (intro _ _ _) | (intro _; rfl) | (intro _; apply map_map_same; intro _; rfl) | (intro _; apply map_mapIf; intro _; rfl) | (refine State.fst_only (by assumption) ?_) | split | dsimp only | (intro _; split <;> rfl) | (intro _; (repeat' split) <;> rfl)

theorem State.strayPut_only (hl : [Sect.out, Sect.od, Sect.xl, Sect.req, Sect.home, Sect.ep, Sect.stn, Sect.sw, Sect.dlv, Sect.lnk, Sect.mgt] ⊆ sl) (h : State.Only sl s0 s) (pid flow : Nat) :
    State.Only sl s0 (State.strayPut s pid flow) := by
  unfold State.strayPut
  try dsimp only
  repeat' with_reducible first | assumption | apply State.bump_only (Sect.sub rfl hl) | apply State.failFlow_only (Sect.sub rfl hl) | apply State.ite_only | (intro _ _ _ _) | (intro _ _ _) | (intro _; rfl) | (intro _; apply map_map_same; intro _; rfl) | (intro _; apply map_mapIf; intro _; rfl) | (refine State.fst_only (by assumption) ?_) | split | dsimp only | (intro _; split <;> rfl) | (intro _; (repeat' split) <;> rfl)

theorem execSput_only (hl : Sect.wide ⊆ sl) (h : State.Only sl s0 s) (m : CapMsg) :
    Res.Only sl s0 (execSput m s) := by
  unfold execSput
  try dsimp only
  repeat' with_reducible first | assumption | apply State.bump_only (Sect.sub rfl hl) | apply State.strayPut_only (Sect.sub rfl hl) | apply State.settleAll_only (Sect.sub rfl hl) | apply State.setStrm_only (Sect.sub rfl hl) | apply State.putTile_only (Sect.sub rfl hl) | apply State.strmBack_only (Sect.sub rfl hl) | apply Res.next_only | apply Res.ite_only | apply State.ite_only | (intro _ _ _ _) | (intro _ _ _) | (intro _; rfl) | (intro _; apply map_map_same; intro _; rfl) | (intro _; apply map_mapIf; intro _; rfl) | (refine State.fst_only (by assumption) ?_) | split | dsimp only | (intro _; split <;> rfl) | (intro _; (repeat' split) <;> rfl)

theorem execScred_only (hl : Sect.wide ⊆ sl) (h : State.Only sl s0 s) (m : CapMsg) :
    Res.Only sl s0 (execScred m s) := by
  unfold execScred
  try dsimp only
  repeat' with_reducible first | assumption | apply State.bump_only (Sect.sub rfl hl) | apply State.setCons_only (Sect.sub rfl hl) | apply State.each_only | apply State.creditBack_only (Sect.sub rfl hl) | apply State.pumpAttach_only (Sect.sub rfl hl) | apply State.settleAll_only (Sect.sub rfl hl) | apply State.strmBack_only (Sect.sub rfl hl) | apply State.station_only (Sect.sub rfl hl) | apply Res.next_only | apply Res.ite_only | apply State.ite_only | (intro _ _ _ _) | (intro _ _ _) | (intro _; rfl) | (intro _; apply map_map_same; intro _; rfl) | (intro _; apply map_mapIf; intro _; rfl) | (refine State.fst_only (by assumption) ?_) | split | dsimp only | (intro _; split <;> rfl) | (intro _; (repeat' split) <;> rfl)

theorem execXrsp_only (hl : Sect.wide ⊆ sl) (h : State.Only sl s0 s) (m : CapMsg) :
    Res.Only sl s0 (execXrsp m s) := by
  unfold execXrsp
  try dsimp only
  repeat' with_reducible first | assumption | apply State.mapHome_only (Sect.sub rfl hl) | apply State.homeAnswer_only (Sect.sub rfl hl) | apply State.settleAll_only (Sect.sub rfl hl) | apply State.bump_only (Sect.sub rfl hl) | apply Res.next_only | apply Res.ite_only | apply State.ite_only | (intro _ _ _ _) | (intro _ _ _) | (intro _; rfl) | (intro _; apply map_map_same; intro _; rfl) | (intro _; apply map_mapIf; intro _; rfl) | (refine State.fst_only (by assumption) ?_) | split | dsimp only | (intro _; split <;> rfl) | (intro _; (repeat' split) <;> rfl)

theorem execExportTimeout_only (hl : Sect.wide ⊆ sl) (h : State.Only sl s0 s) (xid : Nat) :
    Res.Only sl s0 (execExportTimeout xid s) := by
  unfold execExportTimeout
  try dsimp only
  repeat' with_reducible first | assumption | apply State.mapHome_only (Sect.sub rfl hl) | apply State.bump_only (Sect.sub rfl hl) | apply State.homeAnswer_only (Sect.sub rfl hl) | apply State.settleAll_only (Sect.sub rfl hl) | apply Res.next_only | apply Res.ite_only | apply State.ite_only | (intro _ _ _ _) | (intro _ _ _) | (intro _; rfl) | (intro _; apply map_map_same; intro _; rfl) | (intro _; apply map_mapIf; intro _; rfl) | (refine State.fst_only (by assumption) ?_) | split | dsimp only | (intro _; split <;> rfl) | (intro _; (repeat' split) <;> rfl)

theorem State.noteBound_only (hl : [Sect.od] ⊆ sl) (h : State.Only sl s0 s) (ep : Nat) :
    State.Only sl s0 (State.noteBound s ep) := by
  unfold State.noteBound
  try dsimp only
  repeat' with_reducible first | assumption | apply State.wr_only (Sect.sub rfl hl) | apply State.ite_only | (intro _ _ _ _) | (intro _ _ _) | (intro _; rfl) | (intro _; apply map_map_same; intro _; rfl) | (intro _; apply map_mapIf; intro _; rfl) | (refine State.fst_only (by assumption) ?_) | split | dsimp only | (intro _; split <;> rfl) | (intro _; (repeat' split) <;> rfl)

theorem execCtxBind_only (hl : [Sect.out, Sect.od, Sect.nvq, Sect.req, Sect.ep, Sect.lnk, Sect.mgt] ⊆ sl) (h : State.Only sl s0 s) (o : Origin) (b : BindOp) :
    Res.Only sl s0 (execCtxBind o b s) := by
  unfold execCtxBind
  try dsimp only
  repeat' with_reducible first | assumption | apply State.mailCommand_only (Sect.sub rfl hl) | apply State.setAp_only (Sect.sub rfl hl) | apply State.mapEp_only (Sect.sub rfl hl) | apply State.addAgent_only (Sect.sub rfl hl) | apply State.noteBound_only (Sect.sub rfl hl) | apply Res.next_only | apply Res.ite_only | apply State.ite_only | (intro _ _ _ _) | (intro _ _ _) | (intro _; rfl) | (intro _; apply map_map_same; intro _; rfl) | (intro _; apply map_mapIf; intro _; rfl) | (refine State.fst_only (by assumption) ?_) | split | dsimp only | (intro _; split <;> rfl) | (intro _; (repeat' split) <;> rfl)

theorem execCtxUnbind_only (hl : Sect.told ⊆ sl) (h : State.Only sl s0 s) (o : Origin) (ep ctx : Nat) :
    Res.Only sl s0 (execCtxUnbind o ep ctx s) := by
  unfold execCtxUnbind
  try dsimp only
  repeat' with_reducible first | assumption | apply State.mailCommand_only (Sect.sub rfl hl) | apply State.setCtx_only (Sect.sub rfl hl) | apply Res.next_only | apply Res.ite_only | apply State.ite_only | (intro _ _ _ _) | (intro _ _ _) | (intro _; rfl) | (intro _; apply map_map_same; intro _; rfl) | (intro _; apply map_mapIf; intro _; rfl) | (refine State.fst_only (by assumption) ?_) | split | dsimp only | (intro _; split <;> rfl) | (intro _; (repeat' split) <;> rfl)

theorem State.dropCtx_only (hl : [Sect.od, Sect.req, Sect.ep] ⊆ sl) (h : State.Only sl s0 s) (ep ctx : Nat) :
    State.Only sl s0 (State.dropCtx s ep ctx) := by
  unfold State.dropCtx
  try dsimp only
  repeat' with_reducible first | assumption | apply State.mapEp_only (Sect.sub rfl hl) | apply State.mapReq_only (Sect.sub rfl hl) | apply State.noteBound_only (Sect.sub rfl hl) | apply State.ite_only | (intro _ _ _ _) | (intro _ _ _) | (intro _; rfl) | (intro _; apply map_map_same; intro _; rfl) | (intro _; apply map_mapIf; intro _; rfl) | (refine State.fst_only (by assumption) ?_) | split | dsimp only | (intro _; split <;> rfl) | (intro _; (repeat' split) <;> rfl)

theorem execCtxUnbindComplete_only (hl : [Sect.out, Sect.od, Sect.req, Sect.ep, Sect.lnk, Sect.mgt] ⊆ sl) (h : State.Only sl s0 s) (ep ctx : Nat) :
    Res.Only sl s0 (execCtxUnbindComplete ep ctx s) := by
  unfold execCtxUnbindComplete
  try dsimp only
  repeat' with_reducible first | assumption | apply State.reply_only (Sect.sub rfl hl) | apply State.dropCtx_only (Sect.sub rfl hl) | apply State.apQualDue_only (Sect.sub rfl hl) | apply Res.next_only | apply Res.ite_only | apply State.ite_only | (intro _ _ _ _) | (intro _ _ _) | (intro _; rfl) | (intro _; apply map_map_same; intro _; rfl) | (intro _; apply map_mapIf; intro _; rfl) | (refine State.fst_only (by assumption) ?_) | split | dsimp only | (intro _; split <;> rfl) | (intro _; (repeat' split) <;> rfl)

theorem execQueueSetup_only (hl : [Sect.out, Sect.nvq, Sect.req, Sect.ep, Sect.mgt] ⊆ sl) (h : State.Only sl s0 s) (o : Origin) (q : QueueOp) :
    Res.Only sl s0 (execQueueSetup o q s) := by
  unfold execQueueSetup
  try dsimp only
  repeat' with_reducible first | assumption | apply State.mailCommand_only (Sect.sub rfl hl) | apply State.mapEp_only (Sect.sub rfl hl) | apply State.addAgent_only (Sect.sub rfl hl) | apply Res.next_only | apply Res.ite_only | apply State.ite_only | (intro _ _ _ _) | (intro _ _ _) | (intro _; rfl) | (intro _; apply map_map_same; intro _; rfl) | (intro _; apply map_mapIf; intro _; rfl) | (refine State.fst_only (by assumption) ?_) | split | dsimp only | (intro _; split <;> rfl) | (intro _; (repeat' split) <;> rfl)

theorem execQueueReset_only (hl : Sect.wideQ ⊆ sl) (h : State.Only sl s0 s) (o : Origin) (ep q : Nat) :
    Res.Only sl s0 (execQueueReset o ep q s) := by
  unfold execQueueReset
  try dsimp only
  repeat' with_reducible first | assumption | apply State.mailCommand_only (Sect.sub rfl hl) | apply State.setQueue_only (Sect.sub rfl hl) | apply State.queueStop_only (Sect.sub rfl hl) | apply State.settleAll_only (Sect.sub rfl hl) | apply Res.next_only | apply Res.ite_only | apply State.ite_only | (intro _ _ _ _) | (intro _ _ _) | (intro _; rfl) | (intro _; apply map_map_same; intro _; rfl) | (intro _; apply map_mapIf; intro _; rfl) | (refine State.fst_only (by assumption) ?_) | split | dsimp only | (intro _; split <;> rfl) | (intro _; (repeat' split) <;> rfl)

theorem execQueueTail_only (hl : Sect.told ⊆ sl) (h : State.Only sl s0 s) (o : Origin) (ep q tail : Nat) :
    Res.Only sl s0 (execQueueTail o ep q tail s) := by
  unfold execQueueTail
  try dsimp only
  repeat' with_reducible first | assumption | apply State.mailCommand_only (Sect.sub rfl hl) | apply State.setTail_only (Sect.sub rfl hl) | apply Res.next_only | apply Res.ite_only | apply State.ite_only | (intro _ _ _ _) | (intro _ _ _) | (intro _; rfl) | (intro _; apply map_map_same; intro _; rfl) | (intro _; apply map_mapIf; intro _; rfl) | (refine State.fst_only (by assumption) ?_) | split | dsimp only | (intro _; split <;> rfl) | (intro _; (repeat' split) <;> rfl)

theorem State.atsHold_only (hl : [Sect.od, Sect.req] ⊆ sl) (h : State.Only sl s0 s) (cp : Nat) (p : AtsPage) :
    State.Only sl s0 (State.atsHold s cp p) := by
  unfold State.atsHold
  try dsimp only
  repeat' with_reducible first | assumption | apply State.mapReq_only (Sect.sub rfl hl) | apply State.wr_only (Sect.sub rfl hl) | apply State.ite_only | (intro _ _ _ _) | (intro _ _ _) | (intro _; rfl) | (intro _; apply map_map_same; intro _; rfl) | (intro _; apply map_mapIf; intro _; rfl) | (refine State.fst_only (by assumption) ?_) | split | dsimp only | (intro _; split <;> rfl) | (intro _; (repeat' split) <;> rfl)

theorem State.descAts_only (hl : [Sect.od, Sect.req] ⊆ sl) (h : State.Only sl s0 s) (q : Queue) (d : List Nat) (ats : List AtsPage) :
    State.Only sl s0 (State.descAts s q d ats).1 := by
  unfold State.descAts
  try dsimp only
  repeat' with_reducible first | assumption | apply State.atsHold_only (Sect.sub rfl hl) | apply State.each_only | apply State.ite_only | (intro _ _ _ _) | (intro _ _ _) | (intro _; rfl) | (intro _; apply map_map_same; intro _; rfl) | (intro _; apply map_mapIf; intro _; rfl) | (refine State.fst_only (by assumption) ?_) | split | dsimp only | (intro _; split <;> rfl) | (intro _; (repeat' split) <;> rfl)

theorem State.noteRx_only (hl : [Sect.out, Sect.od, Sect.ep] ⊆ sl) (h : State.Only sl s0 s) (q : Queue) (d : List Nat) (stop : Option Nat) :
    State.Only sl s0 (State.noteRx s q d stop) := by
  unfold State.noteRx
  try dsimp only
  repeat' with_reducible first | assumption | apply State.bump_only (Sect.sub rfl hl) | apply State.setBounce_only (Sect.sub rfl hl) | apply State.emit_only (Sect.sub rfl hl) | apply State.ite_only | (intro _ _ _ _) | (intro _ _ _) | (intro _; rfl) | (intro _; apply map_map_same; intro _; rfl) | (intro _; apply map_mapIf; intro _; rfl) | (refine State.fst_only (by assumption) ?_) | split | dsimp only | (intro _; split <;> rfl) | (intro _; (repeat' split) <;> rfl)

theorem execCopyDescriptorStart_only (hl : Sect.wide ⊆ sl) (h : State.Only sl s0 s) (ep q : Nat) (desc : List Nat) (host : HostAnswer) :
    Res.Only sl s0 (execCopyDescriptorStart ep q desc host s) := by
  unfold execCopyDescriptorStart
  try dsimp only
  repeat' with_reducible first | assumption | apply State.reachClear_only (Sect.sub rfl hl) | apply State.setQueue_only (Sect.sub rfl hl) | apply State.noteRx_only (Sect.sub rfl hl) | apply State.epEv_only (Sect.sub rfl hl) | apply State.openTx_only (Sect.sub rfl hl) | apply State.translate_only (Sect.sub rfl hl) | apply State.settleAll_only (Sect.sub rfl hl) | apply State.descAts_only (Sect.sub rfl hl) | apply Res.next_only | apply Res.ite_only | apply State.ite_only | (intro _ _ _ _) | (intro _ _ _) | (intro _; rfl) | (intro _; apply map_map_same; intro _; rfl) | (intro _; apply map_mapIf; intro _; rfl) | (refine State.fst_only (by assumption) ?_) | split | dsimp only | (intro _; split <;> rfl) | (intro _; (repeat' split) <;> rfl)

theorem execCopyDescriptorComplete_only (hl : Sect.wide ⊆ sl) (h : State.Only sl s0 s) (ep q : Nat) (e : CopyEnd) :
    Res.Only sl s0 (execCopyDescriptorComplete ep q e s) := by
  unfold execCopyDescriptorComplete
  try dsimp only
  repeat' with_reducible first | assumption | apply State.atsSettle_only (Sect.sub rfl hl) | apply State.settleAll_only (Sect.sub rfl hl) | apply State.takeTail_only (Sect.sub rfl hl) | apply State.runOn_only (Sect.sub rfl hl) | apply Res.next_only | apply Res.ite_only | apply State.ite_only | (intro _ _ _ _) | (intro _ _ _) | (intro _; rfl) | (intro _; apply map_map_same; intro _; rfl) | (intro _; apply map_mapIf; intro _; rfl) | (refine State.fst_only (by assumption) ?_) | split | dsimp only | (intro _; split <;> rfl) | (intro _; (repeat' split) <;> rfl)

theorem execCounterAdvance_only (hl : Sect.wide ⊆ sl) (h : State.Only sl s0 s) (ep ctr pid : Nat) :
    Res.Only sl s0 (execCounterAdvance ep ctr pid s) := by
  unfold execCounterAdvance
  try dsimp only
  repeat' with_reducible first | assumption | apply State.advanceCtr_only (Sect.sub rfl hl) | apply State.settleAll_only (Sect.sub rfl hl) | apply Res.next_only | apply Res.ite_only | apply State.ite_only | (intro _ _ _ _) | (intro _ _ _) | (intro _; rfl) | (intro _; apply map_map_same; intro _; rfl) | (intro _; apply map_mapIf; intro _; rfl) | (refine State.fst_only (by assumption) ?_) | split | dsimp only | (intro _; split <;> rfl) | (intro _; (repeat' split) <;> rfl)

theorem execCtrBind_only (hl : Sect.told ⊆ sl) (h : State.Only sl s0 s) (o : Origin) (ep ctr pid : Nat) :
    Res.Only sl s0 (execCtrBind o ep ctr pid s) := by
  unfold execCtrBind
  try dsimp only
  repeat' with_reducible first | assumption | apply State.mailCommand_only (Sect.sub rfl hl) | apply State.mapEp_only (Sect.sub rfl hl) | apply Res.next_only | apply Res.ite_only | apply State.ite_only | (intro _ _ _ _) | (intro _ _ _) | (intro _; rfl) | (intro _; apply map_map_same; intro _; rfl) | (intro _; apply map_mapIf; intro _; rfl) | (refine State.fst_only (by assumption) ?_) | split | dsimp only | (intro _; split <;> rfl) | (intro _; (repeat' split) <;> rfl)

theorem execSessionSetup_only (hl : Sect.told ⊆ sl) (h : State.Only sl s0 s) (o : Origin) (b : BounceOp) :
    Res.Only sl s0 (execSessionSetup o b s) := by
  unfold execSessionSetup
  try dsimp only
  repeat' with_reducible first | assumption | apply State.mailCommand_only (Sect.sub rfl hl) | apply State.mapEp_only (Sect.sub rfl hl) | apply Res.next_only | apply Res.ite_only | apply State.ite_only | (intro _ _ _ _) | (intro _ _ _) | (intro _; rfl) | (intro _; apply map_map_same; intro _; rfl) | (intro _; apply map_mapIf; intro _; rfl) | (refine State.fst_only (by assumption) ?_) | split | dsimp only | (intro _; split <;> rfl) | (intro _; (repeat' split) <;> rfl)

end Sys2Proof.Machine
end

