-- ==== Sys2Proof/Laws/OnlyOperands.lean ====
section
/-! SUPPORT. `State.Only` for every operation and meaning of Machine/Operands.lean: the sections that it may change. -/

namespace Sys2Proof.Machine

open Sys2Proof

set_option Elab.async false

set_option linter.unreachableTactic false
set_option linter.unusedTactic false

variable {s0 s : State} {sl : List Sect}

theorem State.countRun_only (hl : [Sect.od, Sect.mgt] ⊆ sl) (h : State.Only sl s0 s) (i j : Inst) :
    State.Only sl s0 (State.countRun s i j) := by
  unfold State.countRun
  try dsimp only
  repeat' with_reducible first | assumption | apply State.clusterEv_only (Sect.sub rfl hl) | apply State.slots_only (Sect.sub rfl hl) | apply State.ite_only | (intro _ _ _ _) | (intro _ _ _) | (intro _; rfl) | (intro _; apply map_map_same; intro _; rfl) | (intro _; apply map_mapIf; intro _; rfl) | (refine State.fst_only (by assumption) ?_) | split | dsimp only | (intro _; split <;> rfl) | (intro _; (repeat' split) <;> rfl)

theorem State.setCoreSt_only (hl : [Sect.stn] ⊆ sl) (h : State.Only sl s0 s) (sd cl co : Nat) (g : CoreSt → CoreSt) :
    State.Only sl s0 (State.setCoreSt s sd cl co g) := by
  unfold State.setCoreSt
  try dsimp only
  repeat' with_reducible first | assumption | apply State.mapStn_only (Sect.sub rfl hl) | apply State.ite_only | (intro _ _ _ _) | (intro _ _ _) | (intro _; rfl) | (intro _; apply map_map_same; intro _; rfl) | (intro _; apply map_mapIf; intro _; rfl) | (refine State.fst_only (by assumption) ?_) | split | dsimp only | (intro _; split <;> rfl) | (intro _; (repeat' split) <;> rfl)

theorem State.selectInst_only (hl : [Sect.od, Sect.stn, Sect.mgt] ⊆ sl) (h : State.Only sl s0 s) (i : Inst) :
    State.Only sl s0 (State.selectInst s i) := by
  unfold State.selectInst
  try dsimp only
  repeat' with_reducible first | assumption | apply State.clusterEv_only (Sect.sub rfl hl) | apply State.setCoreSt_only (Sect.sub rfl hl) | apply State.slots_only (Sect.sub rfl hl) | apply State.ite_only | (intro _ _ _ _) | (intro _ _ _) | (intro _; rfl) | (intro _; apply map_map_same; intro _; rfl) | (intro _; apply map_mapIf; intro _; rfl) | (refine State.fst_only (by assumption) ?_) | split | dsimp only | (intro _; split <;> rfl) | (intro _; (repeat' split) <;> rfl)

theorem State.commitInst_only (hl : [Sect.od, Sect.stn, Sect.mgt] ⊆ sl) (h : State.Only sl s0 s) (i : Inst) (pc : Nat) :
    State.Only sl s0 (State.commitInst s i pc) := by
  unfold State.commitInst
  try dsimp only
  repeat' with_reducible first | assumption | apply State.setInst_only (Sect.sub rfl hl) | apply State.ite_only | (intro _ _ _ _) | (intro _ _ _) | (intro _; rfl) | (intro _; apply map_map_same; intro _; rfl) | (intro _; apply map_mapIf; intro _; rfl) | (refine State.fst_only (by assumption) ?_) | split | dsimp only | (intro _; split <;> rfl) | (intro _; (repeat' split) <;> rfl)

theorem State.endStn_only (hl : Sect.wide ⊆ sl) (h : State.Only sl s0 s) (i : Inst) (e : StnEnd) (he : e.Only sl s0) :
    State.Only sl s0 (State.endStn s i e) := by
  unfold State.endStn
  refine State.settleAll_only (Sect.sub rfl hl) ?_
  split
  · split
    · exact h
    · exact State.commitInst_only (Sect.sub rfl hl) (State.countRun_only (Sect.sub rfl hl) he _ _) _ _
  · exact State.commitInst_only (Sect.sub rfl hl) (State.slots_only (Sect.sub rfl hl)
      (State.countRun_only (Sect.sub rfl hl) he _ _) _ _ _ _) _ _
  · exact State.commitInst_only (Sect.sub rfl hl) he _ _
  · exact State.failStation_only (Sect.sub rfl hl) h _ _

theorem State.station_only (hl : Sect.wide ⊆ sl) (h : State.Only sl s0 s) (who : InstRef) (op : Nat) (f : State → Inst → Nat → StnEnd)
    (hf : ∀ t i w, State.Only sl s0 t → (f t i w).Only sl s0) : State.Only sl s0 (State.station s who op f) := by
  unfold State.station
  split
  · exact h
  · split
    · exact h
    · split
      · have k := State.selectInst_only (Sect.sub rfl hl) h ‹Inst›
        exact State.endStn_only hl k _ _ (hf _ _ _ k)
      · split
        · exact State.setInst_only (Sect.sub rfl hl) h _ _
        · exact h

theorem State.finishTile_only (hl : [] ⊆ sl) (h : State.Only sl s0 s) (i : Inst) (w fmt rbytes : Nat) (rs : RowsOut) (poi : Bool) (tag : Nat) :
    (finishTile s i w fmt rbytes rs poi tag).Only sl s0 := by
  unfold finishTile
  try dsimp only
  repeat' with_reducible first | assumption | apply State.ite_only | (intro _ _ _ _) | (intro _ _ _) | (intro _; rfl) | (intro _; apply map_map_same; intro _; rfl) | (intro _; apply map_mapIf; intro _; rfl) | apply StnEnd.go_only | apply StnEnd.jump_only | apply StnEnd.stay_only | apply StnEnd.fail_only | apply StnEnd.ite_only | (unfold StnEnd.bad; apply StnEnd.fail_only) | (refine State.fst_only (by assumption) ?_) | split | dsimp only | (intro _; split <;> rfl) | (intro _; (repeat' split) <;> rfl)

theorem State.binTile_only (hl : [] ⊆ sl) (h : State.Only sl s0 s) (row : Nat → Nat → Nat → Row → Row → Row × Nat) (i : Inst) (w : Nat) :
    (binTile row s i w).Only sl s0 := by
  unfold binTile
  try dsimp only
  repeat' with_reducible first | assumption | apply State.finishTile_only (Sect.sub rfl hl) | apply State.ite_only | (intro _ _ _ _) | (intro _ _ _) | (intro _; rfl) | (intro _; apply map_map_same; intro _; rfl) | (intro _; apply map_mapIf; intro _; rfl) | apply StnEnd.go_only | apply StnEnd.jump_only | apply StnEnd.stay_only | apply StnEnd.fail_only | apply StnEnd.ite_only | (unfold StnEnd.bad; apply StnEnd.fail_only) | (refine State.fst_only (by assumption) ?_) | split | dsimp only | (intro _; split <;> rfl) | (intro _; (repeat' split) <;> rfl)

theorem State.unTile_only (hl : [] ⊆ sl) (h : State.Only sl s0 s) (row : Nat → Nat → Nat → Row → Row × Nat) (i : Inst) (w : Nat) :
    (unTile row s i w).Only sl s0 := by
  unfold unTile
  try dsimp only
  repeat' with_reducible first | assumption | apply State.finishTile_only (Sect.sub rfl hl) | apply State.ite_only | (intro _ _ _ _) | (intro _ _ _) | (intro _; rfl) | (intro _; apply map_map_same; intro _; rfl) | (intro _; apply map_mapIf; intro _; rfl) | apply StnEnd.go_only | apply StnEnd.jump_only | apply StnEnd.stay_only | apply StnEnd.fail_only | apply StnEnd.ite_only | (unfold StnEnd.bad; apply StnEnd.fail_only) | (refine State.fst_only (by assumption) ?_) | split | dsimp only | (intro _; split <;> rfl) | (intro _; (repeat' split) <;> rfl)

end Sys2Proof.Machine
end

