-- ==== Sys2Proof/Laws/OnlyScalar.lean ====
section
/-! SUPPORT. `State.Only` for every operation and meaning of Machine/Scalar.lean: the sections that it may change. -/

namespace Sys2Proof.Machine

open Sys2Proof

set_option Elab.async false

set_option linter.unreachableTactic false
set_option linter.unusedTactic false

variable {s0 s : State} {sl : List Sect}

theorem execNop_only (hl : Sect.wide ⊆ sl) (h : State.Only sl s0 s) (who : InstRef) :
    Res.Only sl s0 (execNop who s) := by
  unfold execNop
  try dsimp only
  repeat' with_reducible first | assumption | apply State.station_only (Sect.sub rfl hl) | apply Res.next_only | apply Res.ite_only | apply State.ite_only | (intro _ _ _ _) | (intro _ _ _) | (intro _; rfl) | (intro _; apply map_map_same; intro _; rfl) | (intro _; apply map_mapIf; intro _; rfl) | apply StnEnd.go_only | apply StnEnd.jump_only | apply StnEnd.stay_only | apply StnEnd.fail_only | apply StnEnd.ite_only | (unfold StnEnd.bad; apply StnEnd.fail_only) | (refine State.fst_only (by assumption) ?_) | split | dsimp only | (intro _; split <;> rfl) | (intro _; (repeat' split) <;> rfl)

theorem execLi_only (hl : Sect.wide ⊆ sl) (h : State.Only sl s0 s) (who : InstRef) :
    Res.Only sl s0 (execLi who s) := by
  unfold execLi
  try dsimp only
  repeat' with_reducible first | assumption | apply State.station_only (Sect.sub rfl hl) | apply Res.next_only | apply Res.ite_only | apply State.ite_only | (intro _ _ _ _) | (intro _ _ _) | (intro _; rfl) | (intro _; apply map_map_same; intro _; rfl) | (intro _; apply map_mapIf; intro _; rfl) | apply StnEnd.go_only | apply StnEnd.jump_only | apply StnEnd.stay_only | apply StnEnd.fail_only | apply StnEnd.ite_only | (unfold StnEnd.bad; apply StnEnd.fail_only) | (refine State.fst_only (by assumption) ?_) | split | dsimp only | (intro _; split <;> rfl) | (intro _; (repeat' split) <;> rfl)

theorem execSalu_only (hl : Sect.wide ⊆ sl) (h : State.Only sl s0 s) (who : InstRef) :
    Res.Only sl s0 (execSalu who s) := by
  unfold execSalu
  try dsimp only
  repeat' with_reducible first | assumption | apply State.station_only (Sect.sub rfl hl) | apply Res.next_only | apply Res.ite_only | apply State.ite_only | (intro _ _ _ _) | (intro _ _ _) | (intro _; rfl) | (intro _; apply map_map_same; intro _; rfl) | (intro _; apply map_mapIf; intro _; rfl) | apply StnEnd.go_only | apply StnEnd.jump_only | apply StnEnd.stay_only | apply StnEnd.fail_only | apply StnEnd.ite_only | (unfold StnEnd.bad; apply StnEnd.fail_only) | (refine State.fst_only (by assumption) ?_) | split | dsimp only | (intro _; split <;> rfl) | (intro _; (repeat' split) <;> rfl)

theorem execBr_only (hl : Sect.wide ⊆ sl) (h : State.Only sl s0 s) (who : InstRef) :
    Res.Only sl s0 (execBr who s) := by
  unfold execBr
  try dsimp only
  repeat' with_reducible first | assumption | apply State.station_only (Sect.sub rfl hl) | apply Res.next_only | apply Res.ite_only | apply State.ite_only | (intro _ _ _ _) | (intro _ _ _) | (intro _; rfl) | (intro _; apply map_map_same; intro _; rfl) | (intro _; apply map_mapIf; intro _; rfl) | apply StnEnd.go_only | apply StnEnd.jump_only | apply StnEnd.stay_only | apply StnEnd.fail_only | apply StnEnd.ite_only | (unfold StnEnd.bad; apply StnEnd.fail_only) | (refine State.fst_only (by assumption) ?_) | split | dsimp only | (intro _; split <;> rfl) | (intro _; (repeat' split) <;> rfl)

theorem execLdp_only (hl : Sect.wide ⊆ sl) (h : State.Only sl s0 s) (who : InstRef) :
    Res.Only sl s0 (execLdp who s) := by
  unfold execLdp
  try dsimp only
  repeat' with_reducible first | assumption | apply State.station_only (Sect.sub rfl hl) | apply Res.next_only | apply Res.ite_only | apply State.ite_only | (intro _ _ _ _) | (intro _ _ _) | (intro _; rfl) | (intro _; apply map_map_same; intro _; rfl) | (intro _; apply map_mapIf; intro _; rfl) | apply StnEnd.go_only | apply StnEnd.jump_only | apply StnEnd.stay_only | apply StnEnd.fail_only | apply StnEnd.ite_only | (unfold StnEnd.bad; apply StnEnd.fail_only) | (refine State.fst_only (by assumption) ?_) | split | dsimp only | (intro _; split <;> rfl) | (intro _; (repeat' split) <;> rfl)

theorem execStp_only (hl : Sect.wide ⊆ sl) (h : State.Only sl s0 s) (who : InstRef) :
    Res.Only sl s0 (execStp who s) := by
  unfold execStp
  try dsimp only
  repeat' with_reducible first | assumption | apply State.station_only (Sect.sub rfl hl) | apply Res.next_only | apply Res.ite_only | apply State.ite_only | (intro _ _ _ _) | (intro _ _ _) | (intro _; rfl) | (intro _; apply map_map_same; intro _; rfl) | (intro _; apply map_mapIf; intro _; rfl) | apply StnEnd.go_only | apply StnEnd.jump_only | apply StnEnd.stay_only | apply StnEnd.fail_only | apply StnEnd.ite_only | (unfold StnEnd.bad; apply StnEnd.fail_only) | (refine State.fst_only (by assumption) ?_) | split | dsimp only | (intro _; split <;> rfl) | (intro _; (repeat' split) <;> rfl)

theorem execFlg_only (hl : Sect.wide ⊆ sl) (h : State.Only sl s0 s) (who : InstRef) :
    Res.Only sl s0 (execFlg who s) := by
  unfold execFlg
  try dsimp only
  repeat' with_reducible first | assumption | apply State.station_only (Sect.sub rfl hl) | apply Res.next_only | apply Res.ite_only | apply State.ite_only | (intro _ _ _ _) | (intro _ _ _) | (intro _; rfl) | (intro _; apply map_map_same; intro _; rfl) | (intro _; apply map_mapIf; intro _; rfl) | apply StnEnd.go_only | apply StnEnd.jump_only | apply StnEnd.stay_only | apply StnEnd.fail_only | apply StnEnd.ite_only | (unfold StnEnd.bad; apply StnEnd.fail_only) | (refine State.fst_only (by assumption) ?_) | split | dsimp only | (intro _; split <;> rfl) | (intro _; (repeat' split) <;> rfl)

theorem execRdtime_only (hl : Sect.wide ⊆ sl) (h : State.Only sl s0 s) (who : InstRef) :
    Res.Only sl s0 (execRdtime who s) := by
  unfold execRdtime
  try dsimp only
  repeat' with_reducible first | assumption | apply State.station_only (Sect.sub rfl hl) | apply Res.next_only | apply Res.ite_only | apply State.ite_only | (intro _ _ _ _) | (intro _ _ _) | (intro _; rfl) | (intro _; apply map_map_same; intro _; rfl) | (intro _; apply map_mapIf; intro _; rfl) | apply StnEnd.go_only | apply StnEnd.jump_only | apply StnEnd.stay_only | apply StnEnd.fail_only | apply StnEnd.ite_only | (unfold StnEnd.bad; apply StnEnd.fail_only) | (refine State.fst_only (by assumption) ?_) | split | dsimp only | (intro _; split <;> rfl) | (intro _; (repeat' split) <;> rfl)

theorem execWaitt_only (hl : Sect.wide ⊆ sl) (h : State.Only sl s0 s) (who : InstRef) :
    Res.Only sl s0 (execWaitt who s) := by
  unfold execWaitt
  try dsimp only
  repeat' with_reducible first | assumption | apply State.station_only (Sect.sub rfl hl) | apply Res.next_only | apply Res.ite_only | apply State.ite_only | (intro _ _ _ _) | (intro _ _ _) | (intro _; rfl) | (intro _; apply map_map_same; intro _; rfl) | (intro _; apply map_mapIf; intro _; rfl) | apply StnEnd.go_only | apply StnEnd.jump_only | apply StnEnd.stay_only | apply StnEnd.fail_only | apply StnEnd.ite_only | (unfold StnEnd.bad; apply StnEnd.fail_only) | (refine State.fst_only (by assumption) ?_) | split | dsimp only | (intro _; split <;> rfl) | (intro _; (repeat' split) <;> rfl)

theorem execWaittExpiry_only (hl : [Sect.od, Sect.stn, Sect.mgt] ⊆ sl) (h : State.Only sl s0 s) (who : InstRef) :
    Res.Only sl s0 (execWaittExpiry who s) := by
  unfold execWaittExpiry
  try dsimp only
  repeat' with_reducible first | assumption | apply State.countRun_only (Sect.sub rfl hl) | apply State.commitInst_only (Sect.sub rfl hl) | apply Res.next_only | apply Res.ite_only | apply State.ite_only | (intro _ _ _ _) | (intro _ _ _) | (intro _; rfl) | (intro _; apply map_map_same; intro _; rfl) | (intro _; apply map_mapIf; intro _; rfl) | (refine State.fst_only (by assumption) ?_) | split | dsimp only | (intro _; split <;> rfl) | (intro _; (repeat' split) <;> rfl)

theorem execPmask_only (hl : Sect.wide ⊆ sl) (h : State.Only sl s0 s) (who : InstRef) :
    Res.Only sl s0 (execPmask who s) := by
  unfold execPmask
  try dsimp only
  repeat' with_reducible first | assumption | apply State.foldlPair_only | apply State.foldl_only | apply State.station_only (Sect.sub rfl hl) | apply Res.next_only | apply Res.ite_only | apply State.ite_only | (intro _ _ _ _) | (intro _ _ _) | (intro _; rfl) | (intro _; apply map_map_same; intro _; rfl) | (intro _; apply map_mapIf; intro _; rfl) | apply StnEnd.go_only | apply StnEnd.jump_only | apply StnEnd.stay_only | apply StnEnd.fail_only | apply StnEnd.ite_only | (unfold StnEnd.bad; apply StnEnd.fail_only) | (refine State.fst_only (by assumption) ?_) | split | dsimp only | (intro _; split <;> rfl) | (intro _; (repeat' split) <;> rfl)

theorem State.endOutputs_only (hl : [Sect.out, Sect.od, Sect.xl, Sect.req, Sect.home, Sect.ep, Sect.stn, Sect.sw, Sect.dlv, Sect.lnk, Sect.mgt, Sect.shd] ⊆ sl) (h : State.Only sl s0 s) (i : Inst) :
    State.Only sl s0 (State.endOutputs s i) := by
  unfold State.endOutputs
  try dsimp only
  repeat' with_reducible first | assumption | apply State.each_only | apply State.stnPut_only (Sect.sub rfl hl) | apply State.ite_only | (intro _ _ _ _) | (intro _ _ _) | (intro _; rfl) | (intro _; apply map_map_same; intro _; rfl) | (intro _; apply map_mapIf; intro _; rfl) | (refine State.fst_only (by assumption) ?_) | split | dsimp only | (intro _; split <;> rfl) | (intro _; (repeat' split) <;> rfl)

theorem State.drainOne_only (hl : [Sect.out, Sect.od, Sect.xl, Sect.req, Sect.home, Sect.ep, Sect.stn, Sect.sw, Sect.dlv, Sect.lnk, Sect.mgt] ⊆ sl) (h : State.Only sl s0 s) (i : Inst) (n : Nat) :
    State.Only sl s0 (State.drainOne s i n) := by
  unfold State.drainOne
  try dsimp only
  repeat' with_reducible first | assumption | apply State.setCons_only (Sect.sub rfl hl) | apply State.creditBack_only (Sect.sub rfl hl) | apply State.pumpTransit_only (Sect.sub rfl hl) | apply State.ite_only | (intro _ _ _ _) | (intro _ _ _) | (intro _; rfl) | (intro _; apply map_map_same; intro _; rfl) | (intro _; apply map_mapIf; intro _; rfl) | (refine State.fst_only (by assumption) ?_) | split | dsimp only | (intro _; split <;> rfl) | (intro _; (repeat' split) <;> rfl)

theorem State.drainInput_only (hl : [Sect.out, Sect.od, Sect.xl, Sect.req, Sect.home, Sect.ep, Sect.stn, Sect.sw, Sect.dlv, Sect.lnk, Sect.mgt] ⊆ sl) (h : State.Only sl s0 s) (i : Inst) (n : Nat) (fuel : Nat) :
    State.Only sl s0 (State.drainInput s i n fuel) := by
  induction fuel generalizing s i n with
  | zero => exact h
  | succ n ih =>
    unfold State.drainInput
    try dsimp only
    repeat' with_reducible first | apply ih | assumption | apply State.drainOne_only (Sect.sub rfl hl) | apply State.ite_only | (intro _ _ _ _) | (intro _ _ _) | (intro _; rfl) | (intro _; apply map_map_same; intro _; rfl) | (intro _; apply map_mapIf; intro _; rfl) | (refine State.fst_only (by assumption) ?_) | split | dsimp only | (intro _; split <;> rfl) | (intro _; (repeat' split) <;> rfl)

theorem execHalt_only (hl : Sect.wide ⊆ sl) (h : State.Only sl s0 s) (who : InstRef) :
    Res.Only sl s0 (execHalt who s) := by
  unfold execHalt
  try dsimp only
  repeat' with_reducible first | assumption | apply State.station_only (Sect.sub rfl hl) | apply State.endOutputs_only (Sect.sub rfl hl) | apply State.each_only | apply State.drainInput_only (Sect.sub rfl hl) | apply Res.next_only | apply Res.ite_only | apply State.ite_only | (intro _ _ _ _) | (intro _ _ _) | (intro _; rfl) | (intro _; apply map_map_same; intro _; rfl) | (intro _; apply map_mapIf; intro _; rfl) | apply StnEnd.go_only | apply StnEnd.jump_only | apply StnEnd.stay_only | apply StnEnd.fail_only | apply StnEnd.ite_only | (unfold StnEnd.bad; apply StnEnd.fail_only) | (refine State.fst_only (by assumption) ?_) | split | dsimp only | (intro _; split <;> rfl) | (intro _; (repeat' split) <;> rfl)

theorem execGet_only (hl : Sect.wide ⊆ sl) (h : State.Only sl s0 s) (who : InstRef) :
    Res.Only sl s0 (execGet who s) := by
  unfold execGet
  try dsimp only
  repeat' with_reducible first | assumption | apply State.station_only (Sect.sub rfl hl) | apply State.setCons_only (Sect.sub rfl hl) | apply Res.next_only | apply Res.ite_only | apply State.ite_only | (intro _ _ _ _) | (intro _ _ _) | (intro _; rfl) | (intro _; apply map_map_same; intro _; rfl) | (intro _; apply map_mapIf; intro _; rfl) | apply StnEnd.go_only | apply StnEnd.jump_only | apply StnEnd.stay_only | apply StnEnd.fail_only | apply StnEnd.ite_only | (unfold StnEnd.bad; apply StnEnd.fail_only) | (refine State.fst_only (by assumption) ?_) | split | dsimp only | (intro _; split <;> rfl) | (intro _; (repeat' split) <;> rfl)

theorem State.putOn_only (hl : [Sect.out, Sect.od, Sect.xl, Sect.req, Sect.home, Sect.ep, Sect.stn, Sect.sw, Sect.dlv, Sect.lnk, Sect.mgt, Sect.shd] ⊆ sl) (h : State.Only sl s0 s) (i : Inst) (n : Nat) (t : Tile) (j : Inst) :
    (putOn s i n t j).Only sl s0 := by
  unfold putOn
  try dsimp only
  repeat' with_reducible first | assumption | apply State.stnPut_only (Sect.sub rfl hl) | apply State.ite_only | (intro _ _ _ _) | (intro _ _ _) | (intro _; rfl) | (intro _; apply map_map_same; intro _; rfl) | (intro _; apply map_mapIf; intro _; rfl) | apply StnEnd.go_only | apply StnEnd.jump_only | apply StnEnd.stay_only | apply StnEnd.fail_only | apply StnEnd.ite_only | (unfold StnEnd.bad; apply StnEnd.fail_only) | (refine State.fst_only (by assumption) ?_) | split | dsimp only | (intro _; split <;> rfl) | (intro _; (repeat' split) <;> rfl)

theorem execPut_only (hl : Sect.wide ⊆ sl) (h : State.Only sl s0 s) (who : InstRef) :
    Res.Only sl s0 (execPut who s) := by
  unfold execPut
  try dsimp only
  repeat' with_reducible first | assumption | apply State.station_only (Sect.sub rfl hl) | apply State.putOn_only (Sect.sub rfl hl) | apply Res.next_only | apply Res.ite_only | apply State.ite_only | (intro _ _ _ _) | (intro _ _ _) | (intro _; rfl) | (intro _; apply map_map_same; intro _; rfl) | (intro _; apply map_mapIf; intro _; rfl) | apply StnEnd.go_only | apply StnEnd.jump_only | apply StnEnd.stay_only | apply StnEnd.fail_only | apply StnEnd.ite_only | (unfold StnEnd.bad; apply StnEnd.fail_only) | (refine State.fst_only (by assumption) ?_) | split | dsimp only | (intro _; split <;> rfl) | (intro _; (repeat' split) <;> rfl)

theorem execPend_only (hl : Sect.wide ⊆ sl) (h : State.Only sl s0 s) (who : InstRef) :
    Res.Only sl s0 (execPend who s) := by
  unfold execPend
  try dsimp only
  repeat' with_reducible first | assumption | apply State.station_only (Sect.sub rfl hl) | apply State.putOn_only (Sect.sub rfl hl) | apply Res.next_only | apply Res.ite_only | apply State.ite_only | (intro _ _ _ _) | (intro _ _ _) | (intro _; rfl) | (intro _; apply map_map_same; intro _; rfl) | (intro _; apply map_mapIf; intro _; rfl) | apply StnEnd.go_only | apply StnEnd.jump_only | apply StnEnd.stay_only | apply StnEnd.fail_only | apply StnEnd.ite_only | (unfold StnEnd.bad; apply StnEnd.fail_only) | (refine State.fst_only (by assumption) ?_) | split | dsimp only | (intro _; split <;> rfl) | (intro _; (repeat' split) <;> rfl)

theorem execRel_only (hl : Sect.wide ⊆ sl) (h : State.Only sl s0 s) (who : InstRef) :
    Res.Only sl s0 (execRel who s) := by
  unfold execRel
  try dsimp only
  repeat' with_reducible first | assumption | apply State.station_only (Sect.sub rfl hl) | apply State.releaseTile_only (Sect.sub rfl hl) | apply Res.next_only | apply Res.ite_only | apply State.ite_only | (intro _ _ _ _) | (intro _ _ _) | (intro _; rfl) | (intro _; apply map_map_same; intro _; rfl) | (intro _; apply map_mapIf; intro _; rfl) | apply StnEnd.go_only | apply StnEnd.jump_only | apply StnEnd.stay_only | apply StnEnd.fail_only | apply StnEnd.ite_only | (unfold StnEnd.bad; apply StnEnd.fail_only) | (refine State.fst_only (by assumption) ?_) | split | dsimp only | (intro _; split <;> rfl) | (intro _; (repeat' split) <;> rfl)

theorem execTnew_only (hl : Sect.wide ⊆ sl) (h : State.Only sl s0 s) (who : InstRef) :
    Res.Only sl s0 (execTnew who s) := by
  unfold execTnew
  try dsimp only
  repeat' with_reducible first | assumption | apply State.station_only (Sect.sub rfl hl) | apply Res.next_only | apply Res.ite_only | apply State.ite_only | (intro _ _ _ _) | (intro _ _ _) | (intro _; rfl) | (intro _; apply map_map_same; intro _; rfl) | (intro _; apply map_mapIf; intro _; rfl) | apply StnEnd.go_only | apply StnEnd.jump_only | apply StnEnd.stay_only | apply StnEnd.fail_only | apply StnEnd.ite_only | (unfold StnEnd.bad; apply StnEnd.fail_only) | (refine State.fst_only (by assumption) ?_) | split | dsimp only | (intro _; split <;> rfl) | (intro _; (repeat' split) <;> rfl)

theorem execTview_only (hl : Sect.wide ⊆ sl) (h : State.Only sl s0 s) (who : InstRef) :
    Res.Only sl s0 (execTview who s) := by
  unfold execTview
  try dsimp only
  repeat' with_reducible first | assumption | apply State.station_only (Sect.sub rfl hl) | apply Res.next_only | apply Res.ite_only | apply State.ite_only | (intro _ _ _ _) | (intro _ _ _) | (intro _; rfl) | (intro _; apply map_map_same; intro _; rfl) | (intro _; apply map_mapIf; intro _; rfl) | apply StnEnd.go_only | apply StnEnd.jump_only | apply StnEnd.stay_only | apply StnEnd.fail_only | apply StnEnd.ite_only | (unfold StnEnd.bad; apply StnEnd.fail_only) | (refine State.fst_only (by assumption) ?_) | split | dsimp only | (intro _; split <;> rfl) | (intro _; (repeat' split) <;> rfl)

theorem execTset_only (hl : Sect.wide ⊆ sl) (h : State.Only sl s0 s) (who : InstRef) :
    Res.Only sl s0 (execTset who s) := by
  unfold execTset
  try dsimp only
  repeat' with_reducible first | assumption | apply State.station_only (Sect.sub rfl hl) | apply Res.next_only | apply Res.ite_only | apply State.ite_only | (intro _ _ _ _) | (intro _ _ _) | (intro _; rfl) | (intro _; apply map_map_same; intro _; rfl) | (intro _; apply map_mapIf; intro _; rfl) | apply StnEnd.go_only | apply StnEnd.jump_only | apply StnEnd.stay_only | apply StnEnd.fail_only | apply StnEnd.ite_only | (unfold StnEnd.bad; apply StnEnd.fail_only) | (refine State.fst_only (by assumption) ?_) | split | dsimp only | (intro _; split <;> rfl) | (intro _; (repeat' split) <;> rfl)

theorem execTinfo_only (hl : Sect.wide ⊆ sl) (h : State.Only sl s0 s) (who : InstRef) :
    Res.Only sl s0 (execTinfo who s) := by
  unfold execTinfo
  try dsimp only
  repeat' with_reducible first | assumption | apply State.station_only (Sect.sub rfl hl) | apply Res.next_only | apply Res.ite_only | apply State.ite_only | (intro _ _ _ _) | (intro _ _ _) | (intro _; rfl) | (intro _; apply map_map_same; intro _; rfl) | (intro _; apply map_mapIf; intro _; rfl) | apply StnEnd.go_only | apply StnEnd.jump_only | apply StnEnd.stay_only | apply StnEnd.fail_only | apply StnEnd.ite_only | (unfold StnEnd.bad; apply StnEnd.fail_only) | (refine State.fst_only (by assumption) ?_) | split | dsimp only | (intro _; split <;> rfl) | (intro _; (repeat' split) <;> rfl)

theorem execTfill_only (hl : Sect.wide ⊆ sl) (h : State.Only sl s0 s) (who : InstRef) :
    Res.Only sl s0 (execTfill who s) := by
  unfold execTfill
  try dsimp only
  repeat' with_reducible first | assumption | apply State.station_only (Sect.sub rfl hl) | apply State.finishTile_only (Sect.sub rfl hl) | apply Res.next_only | apply Res.ite_only | apply State.ite_only | (intro _ _ _ _) | (intro _ _ _) | (intro _; rfl) | (intro _; apply map_map_same; intro _; rfl) | (intro _; apply map_mapIf; intro _; rfl) | apply StnEnd.go_only | apply StnEnd.jump_only | apply StnEnd.stay_only | apply StnEnd.fail_only | apply StnEnd.ite_only | (unfold StnEnd.bad; apply StnEnd.fail_only) | (refine State.fst_only (by assumption) ?_) | split | dsimp only | (intro _; split <;> rfl) | (intro _; (repeat' split) <;> rfl)

theorem execTcopy_only (hl : Sect.wide ⊆ sl) (h : State.Only sl s0 s) (who : InstRef) :
    Res.Only sl s0 (execTcopy who s) := by
  unfold execTcopy
  try dsimp only
  repeat' with_reducible first | assumption | apply State.station_only (Sect.sub rfl hl) | apply State.finishTile_only (Sect.sub rfl hl) | apply Res.next_only | apply Res.ite_only | apply State.ite_only | (intro _ _ _ _) | (intro _ _ _) | (intro _; rfl) | (intro _; apply map_map_same; intro _; rfl) | (intro _; apply map_mapIf; intro _; rfl) | apply StnEnd.go_only | apply StnEnd.jump_only | apply StnEnd.stay_only | apply StnEnd.fail_only | apply StnEnd.ite_only | (unfold StnEnd.bad; apply StnEnd.fail_only) | (refine State.fst_only (by assumption) ?_) | split | dsimp only | (intro _; split <;> rfl) | (intro _; (repeat' split) <;> rfl)

end Sys2Proof.Machine
end

