-- ==== Sys2Proof/Laws/OnlyTileOps.lean ====
section
/-! SUPPORT. `State.Only` for every operation and meaning of Machine/TileOps.lean: the sections that it may change. -/

namespace Sys2Proof.Machine

open Sys2Proof

set_option Elab.async false

set_option linter.unreachableTactic false
set_option linter.unusedTactic false

variable {s0 s : State} {sl : List Sect}

theorem execAdd_only (hl : Sect.wide ⊆ sl) (h : State.Only sl s0 s) (who : InstRef) :
    Res.Only sl s0 (execAdd who s) := by
  unfold execAdd
  try dsimp only
  repeat' with_reducible first | assumption | apply State.station_only (Sect.sub rfl hl) | apply State.binTile_only (Sect.sub rfl hl) | apply Res.next_only | apply Res.ite_only | apply State.ite_only | (intro _ _ _ _) | (intro _ _ _) | (intro _; rfl) | (intro _; apply map_map_same; intro _; rfl) | (intro _; apply map_mapIf; intro _; rfl) | apply StnEnd.go_only | apply StnEnd.jump_only | apply StnEnd.stay_only | apply StnEnd.fail_only | apply StnEnd.ite_only | (unfold StnEnd.bad; apply StnEnd.fail_only) | (refine State.fst_only (by assumption) ?_) | split | dsimp only | (intro _; split <;> rfl) | (intro _; (repeat' split) <;> rfl)

theorem execSub_only (hl : Sect.wide ⊆ sl) (h : State.Only sl s0 s) (who : InstRef) :
    Res.Only sl s0 (execSub who s) := by
  unfold execSub
  try dsimp only
  repeat' with_reducible first | assumption | apply State.station_only (Sect.sub rfl hl) | apply State.binTile_only (Sect.sub rfl hl) | apply Res.next_only | apply Res.ite_only | apply State.ite_only | (intro _ _ _ _) | (intro _ _ _) | (intro _; rfl) | (intro _; apply map_map_same; intro _; rfl) | (intro _; apply map_mapIf; intro _; rfl) | apply StnEnd.go_only | apply StnEnd.jump_only | apply StnEnd.stay_only | apply StnEnd.fail_only | apply StnEnd.ite_only | (unfold StnEnd.bad; apply StnEnd.fail_only) | (refine State.fst_only (by assumption) ?_) | split | dsimp only | (intro _; split <;> rfl) | (intro _; (repeat' split) <;> rfl)

theorem execMul_only (hl : Sect.wide ⊆ sl) (h : State.Only sl s0 s) (who : InstRef) :
    Res.Only sl s0 (execMul who s) := by
  unfold execMul
  try dsimp only
  repeat' with_reducible first | assumption | apply State.station_only (Sect.sub rfl hl) | apply State.binTile_only (Sect.sub rfl hl) | apply Res.next_only | apply Res.ite_only | apply State.ite_only | (intro _ _ _ _) | (intro _ _ _) | (intro _; rfl) | (intro _; apply map_map_same; intro _; rfl) | (intro _; apply map_mapIf; intro _; rfl) | apply StnEnd.go_only | apply StnEnd.jump_only | apply StnEnd.stay_only | apply StnEnd.fail_only | apply StnEnd.ite_only | (unfold StnEnd.bad; apply StnEnd.fail_only) | (refine State.fst_only (by assumption) ?_) | split | dsimp only | (intro _; split <;> rfl) | (intro _; (repeat' split) <;> rfl)

theorem execMac_only (hl : Sect.wide ⊆ sl) (h : State.Only sl s0 s) (who : InstRef) :
    Res.Only sl s0 (execMac who s) := by
  unfold execMac
  try dsimp only
  repeat' with_reducible first | assumption | apply State.station_only (Sect.sub rfl hl) | apply State.finishTile_only (Sect.sub rfl hl) | apply Res.next_only | apply Res.ite_only | apply State.ite_only | (intro _ _ _ _) | (intro _ _ _) | (intro _; rfl) | (intro _; apply map_map_same; intro _; rfl) | (intro _; apply map_mapIf; intro _; rfl) | apply StnEnd.go_only | apply StnEnd.jump_only | apply StnEnd.stay_only | apply StnEnd.fail_only | apply StnEnd.ite_only | (unfold StnEnd.bad; apply StnEnd.fail_only) | (refine State.fst_only (by assumption) ?_) | split | dsimp only | (intro _; split <;> rfl) | (intro _; (repeat' split) <;> rfl)

theorem execMin_only (hl : Sect.wide ⊆ sl) (h : State.Only sl s0 s) (who : InstRef) :
    Res.Only sl s0 (execMin who s) := by
  unfold execMin
  try dsimp only
  repeat' with_reducible first | assumption | apply State.station_only (Sect.sub rfl hl) | apply State.binTile_only (Sect.sub rfl hl) | apply Res.next_only | apply Res.ite_only | apply State.ite_only | (intro _ _ _ _) | (intro _ _ _) | (intro _; rfl) | (intro _; apply map_map_same; intro _; rfl) | (intro _; apply map_mapIf; intro _; rfl) | apply StnEnd.go_only | apply StnEnd.jump_only | apply StnEnd.stay_only | apply StnEnd.fail_only | apply StnEnd.ite_only | (unfold StnEnd.bad; apply StnEnd.fail_only) | (refine State.fst_only (by assumption) ?_) | split | dsimp only | (intro _; split <;> rfl) | (intro _; (repeat' split) <;> rfl)

theorem execMax_only (hl : Sect.wide ⊆ sl) (h : State.Only sl s0 s) (who : InstRef) :
    Res.Only sl s0 (execMax who s) := by
  unfold execMax
  try dsimp only
  repeat' with_reducible first | assumption | apply State.station_only (Sect.sub rfl hl) | apply State.binTile_only (Sect.sub rfl hl) | apply Res.next_only | apply Res.ite_only | apply State.ite_only | (intro _ _ _ _) | (intro _ _ _) | (intro _; rfl) | (intro _; apply map_map_same; intro _; rfl) | (intro _; apply map_mapIf; intro _; rfl) | apply StnEnd.go_only | apply StnEnd.jump_only | apply StnEnd.stay_only | apply StnEnd.fail_only | apply StnEnd.ite_only | (unfold StnEnd.bad; apply StnEnd.fail_only) | (refine State.fst_only (by assumption) ?_) | split | dsimp only | (intro _; split <;> rfl) | (intro _; (repeat' split) <;> rfl)

theorem execUnary_only (hl : Sect.wide ⊆ sl) (h : State.Only sl s0 s) (who : InstRef) :
    Res.Only sl s0 (execUnary who s) := by
  unfold execUnary
  try dsimp only
  repeat' with_reducible first | assumption | apply State.station_only (Sect.sub rfl hl) | apply State.unTile_only (Sect.sub rfl hl) | apply Res.next_only | apply Res.ite_only | apply State.ite_only | (intro _ _ _ _) | (intro _ _ _) | (intro _; rfl) | (intro _; apply map_map_same; intro _; rfl) | (intro _; apply map_mapIf; intro _; rfl) | apply StnEnd.go_only | apply StnEnd.jump_only | apply StnEnd.stay_only | apply StnEnd.fail_only | apply StnEnd.ite_only | (unfold StnEnd.bad; apply StnEnd.fail_only) | (refine State.fst_only (by assumption) ?_) | split | dsimp only | (intro _; split <;> rfl) | (intro _; (repeat' split) <;> rfl)

theorem execLogic_only (hl : Sect.wide ⊆ sl) (h : State.Only sl s0 s) (who : InstRef) :
    Res.Only sl s0 (execLogic who s) := by
  unfold execLogic
  try dsimp only
  repeat' with_reducible first | assumption | apply State.station_only (Sect.sub rfl hl) | apply State.binTile_only (Sect.sub rfl hl) | apply Res.next_only | apply Res.ite_only | apply State.ite_only | (intro _ _ _ _) | (intro _ _ _) | (intro _; rfl) | (intro _; apply map_map_same; intro _; rfl) | (intro _; apply map_mapIf; intro _; rfl) | apply StnEnd.go_only | apply StnEnd.jump_only | apply StnEnd.stay_only | apply StnEnd.fail_only | apply StnEnd.ite_only | (unfold StnEnd.bad; apply StnEnd.fail_only) | (refine State.fst_only (by assumption) ?_) | split | dsimp only | (intro _; split <;> rfl) | (intro _; (repeat' split) <;> rfl)

theorem execShift_only (hl : Sect.wide ⊆ sl) (h : State.Only sl s0 s) (who : InstRef) :
    Res.Only sl s0 (execShift who s) := by
  unfold execShift
  try dsimp only
  repeat' with_reducible first | assumption | apply State.station_only (Sect.sub rfl hl) | apply State.unTile_only (Sect.sub rfl hl) | apply Res.next_only | apply Res.ite_only | apply State.ite_only | (intro _ _ _ _) | (intro _ _ _) | (intro _; rfl) | (intro _; apply map_map_same; intro _; rfl) | (intro _; apply map_mapIf; intro _; rfl) | apply StnEnd.go_only | apply StnEnd.jump_only | apply StnEnd.stay_only | apply StnEnd.fail_only | apply StnEnd.ite_only | (unfold StnEnd.bad; apply StnEnd.fail_only) | (refine State.fst_only (by assumption) ?_) | split | dsimp only | (intro _; split <;> rfl) | (intro _; (repeat' split) <;> rfl)

theorem execScale_only (hl : Sect.wide ⊆ sl) (h : State.Only sl s0 s) (who : InstRef) :
    Res.Only sl s0 (execScale who s) := by
  unfold execScale
  try dsimp only
  repeat' with_reducible first | assumption | apply State.station_only (Sect.sub rfl hl) | apply State.finishTile_only (Sect.sub rfl hl) | apply Res.next_only | apply Res.ite_only | apply State.ite_only | (intro _ _ _ _) | (intro _ _ _) | (intro _; rfl) | (intro _; apply map_map_same; intro _; rfl) | (intro _; apply map_mapIf; intro _; rfl) | apply StnEnd.go_only | apply StnEnd.jump_only | apply StnEnd.stay_only | apply StnEnd.fail_only | apply StnEnd.ite_only | (unfold StnEnd.bad; apply StnEnd.fail_only) | (refine State.fst_only (by assumption) ?_) | split | dsimp only | (intro _; split <;> rfl) | (intro _; (repeat' split) <;> rfl)

theorem execRsum_only (hl : Sect.wide ⊆ sl) (h : State.Only sl s0 s) (who : InstRef) :
    Res.Only sl s0 (execRsum who s) := by
  unfold execRsum
  try dsimp only
  repeat' with_reducible first | assumption | apply State.foldlPair_only | apply State.foldl_only | apply State.station_only (Sect.sub rfl hl) | apply State.finishTile_only (Sect.sub rfl hl) | apply Res.next_only | apply Res.ite_only | apply State.ite_only | (intro _ _ _ _) | (intro _ _ _) | (intro _; rfl) | (intro _; apply map_map_same; intro _; rfl) | (intro _; apply map_mapIf; intro _; rfl) | apply StnEnd.go_only | apply StnEnd.jump_only | apply StnEnd.stay_only | apply StnEnd.fail_only | apply StnEnd.ite_only | (unfold StnEnd.bad; apply StnEnd.fail_only) | (refine State.fst_only (by assumption) ?_) | split | dsimp only | (intro _; split <;> rfl) | (intro _; (repeat' split) <;> rfl)

theorem execMma_only (hl : Sect.wide ⊆ sl) (h : State.Only sl s0 s) (who : InstRef) :
    Res.Only sl s0 (execMma who s) := by
  unfold execMma
  try dsimp only
  repeat' with_reducible first | assumption | apply State.station_only (Sect.sub rfl hl) | apply State.finishTile_only (Sect.sub rfl hl) | apply Res.next_only | apply Res.ite_only | apply State.ite_only | (intro _ _ _ _) | (intro _ _ _) | (intro _; rfl) | (intro _; apply map_map_same; intro _; rfl) | (intro _; apply map_mapIf; intro _; rfl) | apply StnEnd.go_only | apply StnEnd.jump_only | apply StnEnd.stay_only | apply StnEnd.fail_only | apply StnEnd.ite_only | (unfold StnEnd.bad; apply StnEnd.fail_only) | (refine State.fst_only (by assumption) ?_) | split | dsimp only | (intro _; split <;> rfl) | (intro _; (repeat' split) <;> rfl)

theorem execCvt_only (hl : Sect.wide ⊆ sl) (h : State.Only sl s0 s) (who : InstRef) :
    Res.Only sl s0 (execCvt who s) := by
  unfold execCvt
  try dsimp only
  repeat' with_reducible first | assumption | apply State.station_only (Sect.sub rfl hl) | apply State.unTile_only (Sect.sub rfl hl) | apply Res.next_only | apply Res.ite_only | apply State.ite_only | (intro _ _ _ _) | (intro _ _ _) | (intro _; rfl) | (intro _; apply map_map_same; intro _; rfl) | (intro _; apply map_mapIf; intro _; rfl) | apply StnEnd.go_only | apply StnEnd.jump_only | apply StnEnd.stay_only | apply StnEnd.fail_only | apply StnEnd.ite_only | (unfold StnEnd.bad; apply StnEnd.fail_only) | (refine State.fst_only (by assumption) ?_) | split | dsimp only | (intro _; split <;> rfl) | (intro _; (repeat' split) <;> rfl)

theorem execQsq_only (hl : Sect.wide ⊆ sl) (h : State.Only sl s0 s) (who : InstRef) :
    Res.Only sl s0 (execQsq who s) := by
  unfold execQsq
  try dsimp only
  repeat' with_reducible first | assumption | apply State.station_only (Sect.sub rfl hl) | apply State.unTile_only (Sect.sub rfl hl) | apply Res.next_only | apply Res.ite_only | apply State.ite_only | (intro _ _ _ _) | (intro _ _ _) | (intro _; rfl) | (intro _; apply map_map_same; intro _; rfl) | (intro _; apply map_mapIf; intro _; rfl) | apply StnEnd.go_only | apply StnEnd.jump_only | apply StnEnd.stay_only | apply StnEnd.fail_only | apply StnEnd.ite_only | (unfold StnEnd.bad; apply StnEnd.fail_only) | (refine State.fst_only (by assumption) ?_) | split | dsimp only | (intro _; split <;> rfl) | (intro _; (repeat' split) <;> rfl)

theorem execDqsq_only (hl : Sect.wide ⊆ sl) (h : State.Only sl s0 s) (who : InstRef) :
    Res.Only sl s0 (execDqsq who s) := by
  unfold execDqsq
  try dsimp only
  repeat' with_reducible first | assumption | apply State.station_only (Sect.sub rfl hl) | apply State.unTile_only (Sect.sub rfl hl) | apply Res.next_only | apply Res.ite_only | apply State.ite_only | (intro _ _ _ _) | (intro _ _ _) | (intro _; rfl) | (intro _; apply map_map_same; intro _; rfl) | (intro _; apply map_mapIf; intro _; rfl) | apply StnEnd.go_only | apply StnEnd.jump_only | apply StnEnd.stay_only | apply StnEnd.fail_only | apply StnEnd.ite_only | (unfold StnEnd.bad; apply StnEnd.fail_only) | (refine State.fst_only (by assumption) ?_) | split | dsimp only | (intro _; split <;> rfl) | (intro _; (repeat' split) <;> rfl)

theorem execAlign_only (hl : Sect.wide ⊆ sl) (h : State.Only sl s0 s) (who : InstRef) :
    Res.Only sl s0 (execAlign who s) := by
  unfold execAlign
  try dsimp only
  repeat' with_reducible first | assumption | apply State.station_only (Sect.sub rfl hl) | apply State.unTile_only (Sect.sub rfl hl) | apply Res.next_only | apply Res.ite_only | apply State.ite_only | (intro _ _ _ _) | (intro _ _ _) | (intro _; rfl) | (intro _; apply map_map_same; intro _; rfl) | (intro _; apply map_mapIf; intro _; rfl) | apply StnEnd.go_only | apply StnEnd.jump_only | apply StnEnd.stay_only | apply StnEnd.fail_only | apply StnEnd.ite_only | (unfold StnEnd.bad; apply StnEnd.fail_only) | (refine State.fst_only (by assumption) ?_) | split | dsimp only | (intro _; split <;> rfl) | (intro _; (repeat' split) <;> rfl)

theorem execExpsc_only (hl : Sect.wide ⊆ sl) (h : State.Only sl s0 s) (who : InstRef) :
    Res.Only sl s0 (execExpsc who s) := by
  unfold execExpsc
  try dsimp only
  repeat' with_reducible first | assumption | apply State.station_only (Sect.sub rfl hl) | apply State.finishTile_only (Sect.sub rfl hl) | apply Res.next_only | apply Res.ite_only | apply State.ite_only | (intro _ _ _ _) | (intro _ _ _) | (intro _; rfl) | (intro _; apply map_map_same; intro _; rfl) | (intro _; apply map_mapIf; intro _; rfl) | apply StnEnd.go_only | apply StnEnd.jump_only | apply StnEnd.stay_only | apply StnEnd.fail_only | apply StnEnd.ite_only | (unfold StnEnd.bad; apply StnEnd.fail_only) | (refine State.fst_only (by assumption) ?_) | split | dsimp only | (intro _; split <;> rfl) | (intro _; (repeat' split) <;> rfl)

theorem execZelide_only (hl : Sect.wide ⊆ sl) (h : State.Only sl s0 s) (who : InstRef) :
    Res.Only sl s0 (execZelide who s) := by
  unfold execZelide
  try dsimp only
  repeat' with_reducible first | assumption | apply State.foldlPair_only | apply State.foldl_only | apply State.station_only (Sect.sub rfl hl) | apply State.finishTile_only (Sect.sub rfl hl) | apply Res.next_only | apply Res.ite_only | apply State.ite_only | (intro _ _ _ _) | (intro _ _ _) | (intro _; rfl) | (intro _; apply map_map_same; intro _; rfl) | (intro _; apply map_mapIf; intro _; rfl) | apply StnEnd.go_only | apply StnEnd.jump_only | apply StnEnd.stay_only | apply StnEnd.fail_only | apply StnEnd.ite_only | (unfold StnEnd.bad; apply StnEnd.fail_only) | (refine State.fst_only (by assumption) ?_) | split | dsimp only | (intro _; split <;> rfl) | (intro _; (repeat' split) <;> rfl)

theorem execZexpand_only (hl : Sect.wide ⊆ sl) (h : State.Only sl s0 s) (who : InstRef) :
    Res.Only sl s0 (execZexpand who s) := by
  unfold execZexpand
  try dsimp only
  repeat' with_reducible first | assumption | apply State.station_only (Sect.sub rfl hl) | apply State.finishTile_only (Sect.sub rfl hl) | apply Res.next_only | apply Res.ite_only | apply State.ite_only | (intro _ _ _ _) | (intro _ _ _) | (intro _; rfl) | (intro _; apply map_map_same; intro _; rfl) | (intro _; apply map_mapIf; intro _; rfl) | apply StnEnd.go_only | apply StnEnd.jump_only | apply StnEnd.stay_only | apply StnEnd.fail_only | apply StnEnd.ite_only | (unfold StnEnd.bad; apply StnEnd.fail_only) | (refine State.fst_only (by assumption) ?_) | split | dsimp only | (intro _; split <;> rfl) | (intro _; (repeat' split) <;> rfl)

theorem execRsel_only (hl : Sect.wide ⊆ sl) (h : State.Only sl s0 s) (who : InstRef) :
    Res.Only sl s0 (execRsel who s) := by
  unfold execRsel
  try dsimp only
  repeat' with_reducible first | assumption | apply State.station_only (Sect.sub rfl hl) | apply State.finishTile_only (Sect.sub rfl hl) | apply Res.next_only | apply Res.ite_only | apply State.ite_only | (intro _ _ _ _) | (intro _ _ _) | (intro _; rfl) | (intro _; apply map_map_same; intro _; rfl) | (intro _; apply map_mapIf; intro _; rfl) | apply StnEnd.go_only | apply StnEnd.jump_only | apply StnEnd.stay_only | apply StnEnd.fail_only | apply StnEnd.ite_only | (unfold StnEnd.bad; apply StnEnd.fail_only) | (refine State.fst_only (by assumption) ?_) | split | dsimp only | (intro _; split <;> rfl) | (intro _; (repeat' split) <;> rfl)

theorem execRscat_only (hl : Sect.wide ⊆ sl) (h : State.Only sl s0 s) (who : InstRef) :
    Res.Only sl s0 (execRscat who s) := by
  unfold execRscat
  try dsimp only
  repeat' with_reducible first | assumption | apply State.foldlPair_only | apply State.foldl_only | apply State.station_only (Sect.sub rfl hl) | apply Res.next_only | apply Res.ite_only | apply State.ite_only | (intro _ _ _ _) | (intro _ _ _) | (intro _; rfl) | (intro _; apply map_map_same; intro _; rfl) | (intro _; apply map_mapIf; intro _; rfl) | apply StnEnd.go_only | apply StnEnd.jump_only | apply StnEnd.stay_only | apply StnEnd.fail_only | apply StnEnd.ite_only | (unfold StnEnd.bad; apply StnEnd.fail_only) | (refine State.fst_only (by assumption) ?_) | split | dsimp only | (intro _; split <;> rfl) | (intro _; (repeat' split) <;> rfl)

theorem State.hashTake_only (hl : [Sect.stn] ⊆ sl) (h : State.Only sl s0 s) (i : Inst) (hs : List Handle) :
    State.Only sl s0 (State.hashTake s i hs) := by
  unfold State.hashTake
  try dsimp only
  repeat' with_reducible first | assumption | apply State.setCoreSt_only (Sect.sub rfl hl) | apply State.ite_only | (intro _ _ _ _) | (intro _ _ _) | (intro _; rfl) | (intro _; apply map_map_same; intro _; rfl) | (intro _; apply map_mapIf; intro _; rfl) | (refine State.fst_only (by assumption) ?_) | split | dsimp only | (intro _; split <;> rfl) | (intro _; (repeat' split) <;> rfl)

theorem execSha_only (hl : Sect.wide ⊆ sl) (h : State.Only sl s0 s) (who : InstRef) :
    Res.Only sl s0 (execSha who s) := by
  unfold execSha
  try dsimp only
  repeat' with_reducible first | assumption | apply State.station_only (Sect.sub rfl hl) | apply State.hashTake_only (Sect.sub rfl hl) | apply State.finishTile_only (Sect.sub rfl hl) | apply Res.next_only | apply Res.ite_only | apply State.ite_only | (intro _ _ _ _) | (intro _ _ _) | (intro _; rfl) | (intro _; apply map_map_same; intro _; rfl) | (intro _; apply map_mapIf; intro _; rfl) | apply StnEnd.go_only | apply StnEnd.jump_only | apply StnEnd.stay_only | apply StnEnd.fail_only | apply StnEnd.ite_only | (unfold StnEnd.bad; apply StnEnd.fail_only) | (refine State.fst_only (by assumption) ?_) | split | dsimp only | (intro _; split <;> rfl) | (intro _; (repeat' split) <;> rfl)

theorem execDcmp_only (hl : Sect.wide ⊆ sl) (h : State.Only sl s0 s) (who : InstRef) :
    Res.Only sl s0 (execDcmp who s) := by
  unfold execDcmp
  try dsimp only
  repeat' with_reducible first | assumption | apply State.station_only (Sect.sub rfl hl) | apply State.hashTake_only (Sect.sub rfl hl) | apply Res.next_only | apply Res.ite_only | apply State.ite_only | (intro _ _ _ _) | (intro _ _ _) | (intro _; rfl) | (intro _; apply map_map_same; intro _; rfl) | (intro _; apply map_mapIf; intro _; rfl) | apply StnEnd.go_only | apply StnEnd.jump_only | apply StnEnd.stay_only | apply StnEnd.fail_only | apply StnEnd.ite_only | (unfold StnEnd.bad; apply StnEnd.fail_only) | (refine State.fst_only (by assumption) ?_) | split | dsimp only | (intro _; split <;> rfl) | (intro _; (repeat' split) <;> rfl)

theorem execHashUnitDone_only (hl : [Sect.stn] ⊆ sl) (h : State.Only sl s0 s) (sd cluster core : Nat) :
    Res.Only sl s0 (execHashUnitDone sd cluster core s) := by
  unfold execHashUnitDone
  try dsimp only
  repeat' with_reducible first | assumption | apply State.setCoreSt_only (Sect.sub rfl hl) | apply Res.next_only | apply Res.ite_only | apply State.ite_only | (intro _ _ _ _) | (intro _ _ _) | (intro _; rfl) | (intro _; apply map_map_same; intro _; rfl) | (intro _; apply map_mapIf; intro _; rfl) | (refine State.fst_only (by assumption) ?_) | split | dsimp only | (intro _; split <;> rfl) | (intro _; (repeat' split) <;> rfl)

end Sys2Proof.Machine
end

