-- ==== Sys2Proof/Laws/OnlyStnMem.lean ====
section
/-! SUPPORT. `State.Only` for every operation and meaning of Machine/StnMem.lean: the sections that it may change. -/

namespace Sys2Proof.Machine

open Sys2Proof

set_option Elab.async false

set_option linter.unreachableTactic false
set_option linter.unusedTactic false

variable {s0 s : State} {sl : List Sect}

theorem State.memOpen_only (hl : [Sect.out, Sect.od, Sect.mem, Sect.poison, Sect.written, Sect.xl, Sect.req, Sect.home, Sect.ep, Sect.sw, Sect.dlv, Sect.lnk, Sect.mgt] ⊆ sl) (h : State.Only sl s0 s) (i : Inst) (t : Tx) :
    (memOpen s i t).Only sl s0 := by
  unfold memOpen
  try dsimp only
  repeat' with_reducible first | assumption | apply State.openTx_only (Sect.sub rfl hl) | apply State.translate_only (Sect.sub rfl hl) | apply State.ite_only | (intro _ _ _ _) | (intro _ _ _) | (intro _; rfl) | (intro _; apply map_map_same; intro _; rfl) | (intro _; apply map_mapIf; intro _; rfl) | apply StnEnd.go_only | apply StnEnd.jump_only | apply StnEnd.stay_only | apply StnEnd.fail_only | apply StnEnd.ite_only | (unfold StnEnd.bad; apply StnEnd.fail_only) | (refine State.fst_only (by assumption) ?_) | split | dsimp only | (intro _; split <;> rfl) | (intro _; (repeat' split) <;> rfl)

theorem State.memStop_only (hl : [] ⊆ sl) (h : State.Only sl s0 s) (i : Inst) (w st first : Nat) :
    (memStop s i w st first).Only sl s0 := by
  unfold memStop
  try dsimp only
  repeat' with_reducible first | assumption | apply State.ite_only | (intro _ _ _ _) | (intro _ _ _) | (intro _; rfl) | (intro _; apply map_map_same; intro _; rfl) | (intro _; apply map_mapIf; intro _; rfl) | apply StnEnd.go_only | apply StnEnd.jump_only | apply StnEnd.stay_only | apply StnEnd.fail_only | apply StnEnd.ite_only | (unfold StnEnd.bad; apply StnEnd.fail_only) | (refine State.fst_only (by assumption) ?_) | split | dsimp only | (intro _; split <;> rfl) | (intro _; (repeat' split) <;> rfl)

theorem State.readTile_only (hl : [Sect.out, Sect.od, Sect.mem, Sect.poison, Sect.written, Sect.xl, Sect.req, Sect.home, Sect.ep, Sect.sw, Sect.dlv, Sect.lnk, Sect.mgt] ⊆ sl) (h : State.Only sl s0 s) (i : Inst) (w : Nat) (d : TDesc) (idx : List Nat) :
    (readTile s i w d idx).Only sl s0 := by
  unfold readTile
  try dsimp only
  repeat' with_reducible first | assumption | apply State.memOpen_only (Sect.sub rfl hl) | apply State.memStop_only (Sect.sub rfl hl) | apply State.ite_only | (intro _ _ _ _) | (intro _ _ _) | (intro _; rfl) | (intro _; apply map_map_same; intro _; rfl) | (intro _; apply map_mapIf; intro _; rfl) | apply StnEnd.go_only | apply StnEnd.jump_only | apply StnEnd.stay_only | apply StnEnd.fail_only | apply StnEnd.ite_only | (unfold StnEnd.bad; apply StnEnd.fail_only) | (refine State.fst_only (by assumption) ?_) | split | dsimp only | (intro _; split <;> rfl) | (intro _; (repeat' split) <;> rfl)

theorem execTld_only (hl : Sect.wide ⊆ sl) (h : State.Only sl s0 s) (who : InstRef) :
    Res.Only sl s0 (execTld who s) := by
  unfold execTld
  try dsimp only
  repeat' with_reducible first | assumption | apply State.station_only (Sect.sub rfl hl) | apply State.memStop_only (Sect.sub rfl hl) | apply State.readTile_only (Sect.sub rfl hl) | apply Res.next_only | apply Res.ite_only | apply State.ite_only | (intro _ _ _ _) | (intro _ _ _) | (intro _; rfl) | (intro _; apply map_map_same; intro _; rfl) | (intro _; apply map_mapIf; intro _; rfl) | apply StnEnd.go_only | apply StnEnd.jump_only | apply StnEnd.stay_only | apply StnEnd.fail_only | apply StnEnd.ite_only | (unfold StnEnd.bad; apply StnEnd.fail_only) | (refine State.fst_only (by assumption) ?_) | split | dsimp only | (intro _; split <;> rfl) | (intro _; (repeat' split) <;> rfl)

theorem execTgath_only (hl : Sect.wide ⊆ sl) (h : State.Only sl s0 s) (who : InstRef) :
    Res.Only sl s0 (execTgath who s) := by
  unfold execTgath
  try dsimp only
  repeat' with_reducible first | assumption | apply State.station_only (Sect.sub rfl hl) | apply State.memStop_only (Sect.sub rfl hl) | apply State.readTile_only (Sect.sub rfl hl) | apply Res.next_only | apply Res.ite_only | apply State.ite_only | (intro _ _ _ _) | (intro _ _ _) | (intro _; rfl) | (intro _; apply map_map_same; intro _; rfl) | (intro _; apply map_mapIf; intro _; rfl) | apply StnEnd.go_only | apply StnEnd.jump_only | apply StnEnd.stay_only | apply StnEnd.fail_only | apply StnEnd.ite_only | (unfold StnEnd.bad; apply StnEnd.fail_only) | (refine State.fst_only (by assumption) ?_) | split | dsimp only | (intro _; split <;> rfl) | (intro _; (repeat' split) <;> rfl)

theorem execTst_only (hl : Sect.wide ⊆ sl) (h : State.Only sl s0 s) (who : InstRef) :
    Res.Only sl s0 (execTst who s) := by
  unfold execTst
  try dsimp only
  repeat' with_reducible first | assumption | apply State.station_only (Sect.sub rfl hl) | apply State.memStop_only (Sect.sub rfl hl) | apply State.memOpen_only (Sect.sub rfl hl) | apply Res.next_only | apply Res.ite_only | apply State.ite_only | (intro _ _ _ _) | (intro _ _ _) | (intro _; rfl) | (intro _; apply map_map_same; intro _; rfl) | (intro _; apply map_mapIf; intro _; rfl) | apply StnEnd.go_only | apply StnEnd.jump_only | apply StnEnd.stay_only | apply StnEnd.fail_only | apply StnEnd.ite_only | (unfold StnEnd.bad; apply StnEnd.fail_only) | (refine State.fst_only (by assumption) ?_) | split | dsimp only | (intro _; split <;> rfl) | (intro _; (repeat' split) <;> rfl)

theorem State.memAddr_only (hl : [] ⊆ sl) (h : State.Only sl s0 s) (i : Inst) (w a n : Nat) (f : StnEnd) (he : f.Only sl s0) :
    (memAddr s i w a n f).Only sl s0 := by
  unfold memAddr
  try dsimp only
  repeat' with_reducible first | assumption | apply he | apply State.memStop_only (Sect.sub rfl hl) | apply State.ite_only | (intro _ _ _ _) | (intro _ _ _) | (intro _; rfl) | (intro _; apply map_map_same; intro _; rfl) | (intro _; apply map_mapIf; intro _; rfl) | apply StnEnd.go_only | apply StnEnd.jump_only | apply StnEnd.stay_only | apply StnEnd.fail_only | apply StnEnd.ite_only | (unfold StnEnd.bad; apply StnEnd.fail_only) | (refine State.fst_only (by assumption) ?_) | split | dsimp only | (intro _; split <;> rfl) | (intro _; (repeat' split) <;> rfl)

theorem State.stnLd_only (hl : [Sect.out, Sect.od, Sect.mem, Sect.poison, Sect.written, Sect.xl, Sect.req, Sect.home, Sect.ep, Sect.sw, Sect.dlv, Sect.lnk, Sect.mgt] ⊆ sl) (h : State.Only sl s0 s) (i : Inst) (w : Nat) :
    (stnLd s i w).Only sl s0 := by
  unfold stnLd
  try dsimp only
  repeat' with_reducible first | assumption | apply State.memAddr_only (Sect.sub rfl hl) | apply State.memOpen_only (Sect.sub rfl hl) | apply State.ite_only | (intro _ _ _ _) | (intro _ _ _) | (intro _; rfl) | (intro _; apply map_map_same; intro _; rfl) | (intro _; apply map_mapIf; intro _; rfl) | apply StnEnd.go_only | apply StnEnd.jump_only | apply StnEnd.stay_only | apply StnEnd.fail_only | apply StnEnd.ite_only | (unfold StnEnd.bad; apply StnEnd.fail_only) | (refine State.fst_only (by assumption) ?_) | split | dsimp only | (intro _; split <;> rfl) | (intro _; (repeat' split) <;> rfl)

theorem State.stnSt_only (hl : [Sect.out, Sect.od, Sect.mem, Sect.poison, Sect.written, Sect.xl, Sect.req, Sect.home, Sect.ep, Sect.sw, Sect.dlv, Sect.lnk, Sect.mgt] ⊆ sl) (h : State.Only sl s0 s) (i : Inst) (w : Nat) :
    (stnSt s i w).Only sl s0 := by
  unfold stnSt
  try dsimp only
  repeat' with_reducible first | assumption | apply State.memAddr_only (Sect.sub rfl hl) | apply State.memOpen_only (Sect.sub rfl hl) | apply State.store_only (Sect.sub rfl hl) | apply State.ite_only | (intro _ _ _ _) | (intro _ _ _) | (intro _; rfl) | (intro _; apply map_map_same; intro _; rfl) | (intro _; apply map_mapIf; intro _; rfl) | apply StnEnd.go_only | apply StnEnd.jump_only | apply StnEnd.stay_only | apply StnEnd.fail_only | apply StnEnd.ite_only | (unfold StnEnd.bad; apply StnEnd.fail_only) | (refine State.fst_only (by assumption) ?_) | split | dsimp only | (intro _; split <;> rfl) | (intro _; (repeat' split) <;> rfl)

theorem State.stnAtom_only (hl : [Sect.out, Sect.od, Sect.mem, Sect.poison, Sect.written, Sect.xl, Sect.req, Sect.home, Sect.ep, Sect.sw, Sect.dlv, Sect.lnk, Sect.mgt] ⊆ sl) (h : State.Only sl s0 s) (i : Inst) (w : Nat) :
    (stnAtom s i w).Only sl s0 := by
  unfold stnAtom
  try dsimp only
  repeat' with_reducible first | assumption | apply State.memAddr_only (Sect.sub rfl hl) | apply State.memOpen_only (Sect.sub rfl hl) | apply State.ite_only | (intro _ _ _ _) | (intro _ _ _) | (intro _; rfl) | (intro _; apply map_map_same; intro _; rfl) | (intro _; apply map_mapIf; intro _; rfl) | apply StnEnd.go_only | apply StnEnd.jump_only | apply StnEnd.stay_only | apply StnEnd.fail_only | apply StnEnd.ite_only | (unfold StnEnd.bad; apply StnEnd.fail_only) | (refine State.fst_only (by assumption) ?_) | split | dsimp only | (intro _; split <;> rfl) | (intro _; (repeat' split) <;> rfl)

theorem State.stnFence_only (hl : [Sect.out, Sect.od, Sect.xl, Sect.req, Sect.home, Sect.ep, Sect.sw, Sect.dlv, Sect.lnk, Sect.mgt] ⊆ sl) (h : State.Only sl s0 s) (i : Inst) (w : Nat) :
    (stnFence s i w).Only sl s0 := by
  unfold stnFence
  try dsimp only
  repeat' with_reducible first | assumption | apply State.openFence_only (Sect.sub rfl hl) | apply State.ite_only | (intro _ _ _ _) | (intro _ _ _) | (intro _; rfl) | (intro _; apply map_map_same; intro _; rfl) | (intro _; apply map_mapIf; intro _; rfl) | apply StnEnd.go_only | apply StnEnd.jump_only | apply StnEnd.stay_only | apply StnEnd.fail_only | apply StnEnd.ite_only | (unfold StnEnd.bad; apply StnEnd.fail_only) | (refine State.fst_only (by assumption) ?_) | split | dsimp only | (intro _; split <;> rfl) | (intro _; (repeat' split) <;> rfl)

theorem State.stnInval_only (hl : [Sect.out, Sect.od, Sect.xl, Sect.req, Sect.home, Sect.ep, Sect.sw, Sect.dlv, Sect.lnk, Sect.mgt] ⊆ sl) (h : State.Only sl s0 s) (i : Inst) (w : Nat) :
    (stnInval s i w).Only sl s0 := by
  unfold stnInval
  try dsimp only
  repeat' with_reducible first | assumption | apply State.memStop_only (Sect.sub rfl hl) | apply State.openInval_only (Sect.sub rfl hl) | apply State.ite_only | (intro _ _ _ _) | (intro _ _ _) | (intro _; rfl) | (intro _; apply map_map_same; intro _; rfl) | (intro _; apply map_mapIf; intro _; rfl) | apply StnEnd.go_only | apply StnEnd.jump_only | apply StnEnd.stay_only | apply StnEnd.fail_only | apply StnEnd.ite_only | (unfold StnEnd.bad; apply StnEnd.fail_only) | (refine State.fst_only (by assumption) ?_) | split | dsimp only | (intro _; split <;> rfl) | (intro _; (repeat' split) <;> rfl)

theorem seqStop_only (hl : [] ⊆ sl) (h : State.Only sl s0 s) (i : Inst) (w st : Nat) :
    StnEnd.Only sl s0 (seqStop s i w st) := by
  unfold seqStop
  try dsimp only
  repeat' with_reducible first | assumption | apply State.memStop_only (Sect.sub rfl hl) | apply StnEnd.go_only | apply StnEnd.jump_only | apply StnEnd.stay_only | apply StnEnd.fail_only | apply StnEnd.ite_only | (unfold StnEnd.bad; apply StnEnd.fail_only) | apply State.ite_only | (intro _ _ _ _) | (intro _ _ _) | (intro _; rfl) | (intro _; apply map_map_same; intro _; rfl) | (intro _; apply map_mapIf; intro _; rfl) | (refine State.fst_only (by assumption) ?_) | split | dsimp only | (intro _; split <;> rfl) | (intro _; (repeat' split) <;> rfl)

theorem execSeqrd_only (hl : Sect.wide ⊆ sl) (h : State.Only sl s0 s) (who : InstRef) :
    Res.Only sl s0 (execSeqrd who s) := by
  unfold execSeqrd
  try dsimp only
  repeat' with_reducible first | assumption | apply State.station_only (Sect.sub rfl hl) | apply State.memAddr_only (Sect.sub rfl hl) | apply State.memOpen_only (Sect.sub rfl hl) | apply Res.next_only | apply Res.ite_only | apply State.ite_only | (intro _ _ _ _) | (intro _ _ _) | (intro _; rfl) | (intro _; apply map_map_same; intro _; rfl) | (intro _; apply map_mapIf; intro _; rfl) | apply StnEnd.go_only | apply StnEnd.jump_only | apply StnEnd.stay_only | apply StnEnd.fail_only | apply StnEnd.ite_only | (unfold StnEnd.bad; apply StnEnd.fail_only) | (refine State.fst_only (by assumption) ?_) | split | dsimp only | (intro _; split <;> rfl) | (intro _; (repeat' split) <;> rfl)

theorem State.seqNext_only (hl : [Sect.out, Sect.od, Sect.mem, Sect.poison, Sect.written, Sect.xl, Sect.req, Sect.home, Sect.ep, Sect.sw, Sect.dlv, Sect.lnk, Sect.mgt] ⊆ sl) (h : State.Only sl s0 s) (i : Inst) (w : Nat) (t : Tx) :
    (seqNext s i w t).Only sl s0 := by
  unfold seqNext
  try dsimp only
  repeat' with_reducible first | assumption | apply State.memStop_only (Sect.sub rfl hl) | apply State.readTile_only (Sect.sub rfl hl) | apply seqStop_only (Sect.sub rfl hl) | apply State.memOpen_only (Sect.sub rfl hl) | apply State.ite_only | (intro _ _ _ _) | (intro _ _ _) | (intro _; rfl) | (intro _; apply map_map_same; intro _; rfl) | (intro _; apply map_mapIf; intro _; rfl) | apply StnEnd.go_only | apply StnEnd.jump_only | apply StnEnd.stay_only | apply StnEnd.fail_only | apply StnEnd.ite_only | (unfold StnEnd.bad; apply StnEnd.fail_only) | (refine State.fst_only (by assumption) ?_) | split | dsimp only | (intro _; split <;> rfl) | (intro _; (repeat' split) <;> rfl)

theorem State.spanRead_only (hl : [Sect.out, Sect.od, Sect.mem, Sect.poison, Sect.written, Sect.xl, Sect.req, Sect.home, Sect.ep, Sect.stn, Sect.sw, Sect.dlv, Sect.lnk, Sect.mgt] ⊆ sl) (h : State.Only sl s0 s) (who : InstRef) (t : Tx) :
    State.Only sl s0 (State.spanRead s who t) := by
  unfold State.spanRead
  try dsimp only
  repeat' with_reducible first | assumption | apply State.openTx_only (Sect.sub rfl hl) | apply State.setInst_only (Sect.sub rfl hl) | apply State.translate_only (Sect.sub rfl hl) | apply State.ite_only | (intro _ _ _ _) | (intro _ _ _) | (intro _; rfl) | (intro _; apply map_map_same; intro _; rfl) | (intro _; apply map_mapIf; intro _; rfl) | (refine State.fst_only (by assumption) ?_) | split | dsimp only | (intro _; split <;> rfl) | (intro _; (repeat' split) <;> rfl)

theorem execSpanIssue_only (hl : Sect.wide ⊆ sl) (h : State.Only sl s0 s) (who : InstRef) :
    Res.Only sl s0 (execSpanIssue who s) := by
  unfold execSpanIssue
  try dsimp only
  repeat' with_reducible first | assumption | apply State.bump_only (Sect.sub rfl hl) | apply State.setInst_only (Sect.sub rfl hl) | apply State.spanRead_only (Sect.sub rfl hl) | apply State.settleAll_only (Sect.sub rfl hl) | apply Res.next_only | apply Res.ite_only | apply State.ite_only | (intro _ _ _ _) | (intro _ _ _) | (intro _; rfl) | (intro _; apply map_map_same; intro _; rfl) | (intro _; apply map_mapIf; intro _; rfl) | (refine State.fst_only (by assumption) ?_) | split | dsimp only | (intro _; split <;> rfl) | (intro _; (repeat' split) <;> rfl)

theorem State.spanNext_only (hl : [Sect.out, Sect.od, Sect.mem, Sect.poison, Sect.written, Sect.xl, Sect.req, Sect.home, Sect.ep, Sect.stn, Sect.sw, Sect.dlv, Sect.lnk, Sect.mgt] ⊆ sl) (h : State.Only sl s0 s) (i : Inst) (r : SpanRun) (t : Tx) (st : Nat) :
    State.Only sl s0 (State.spanNext s i r t st) := by
  unfold State.spanNext
  try dsimp only
  repeat' with_reducible first | assumption | apply State.dropTx_only (Sect.sub rfl hl) | apply State.setInst_only (Sect.sub rfl hl) | apply State.failStation_only (Sect.sub rfl hl) | apply State.spanRead_only (Sect.sub rfl hl) | apply State.ite_only | (intro _ _ _ _) | (intro _ _ _) | (intro _; rfl) | (intro _; apply map_map_same; intro _; rfl) | (intro _; apply map_mapIf; intro _; rfl) | (refine State.fst_only (by assumption) ?_) | split | dsimp only | (intro _; split <;> rfl) | (intro _; (repeat' split) <;> rfl)

theorem State.tileReadEnd_only (hl : [] ⊆ sl) (h : State.Only sl s0 s) (i : Inst) (w : Nat) (t : Tx) (d : TDesc) (st : Nat) :
    (tileReadEnd s i w t d st).Only sl s0 := by
  unfold tileReadEnd
  try dsimp only
  repeat' with_reducible first | assumption | apply State.ite_only | (intro _ _ _ _) | (intro _ _ _) | (intro _; rfl) | (intro _; apply map_map_same; intro _; rfl) | (intro _; apply map_mapIf; intro _; rfl) | apply StnEnd.go_only | apply StnEnd.jump_only | apply StnEnd.stay_only | apply StnEnd.fail_only | apply StnEnd.ite_only | (unfold StnEnd.bad; apply StnEnd.fail_only) | (refine State.fst_only (by assumption) ?_) | split | dsimp only | (intro _; split <;> rfl) | (intro _; (repeat' split) <;> rfl)

theorem State.seqFailed_only (hl : [] ⊆ sl) (h : State.Only sl s0 s) (i : Inst) (w st : Nat) :
    (seqFailed s i w st).Only sl s0 := by
  unfold seqFailed
  try dsimp only
  repeat' with_reducible first | assumption | apply State.ite_only | (intro _ _ _ _) | (intro _ _ _) | (intro _; rfl) | (intro _; apply map_map_same; intro _; rfl) | (intro _; apply map_mapIf; intro _; rfl) | apply StnEnd.go_only | apply StnEnd.jump_only | apply StnEnd.stay_only | apply StnEnd.fail_only | apply StnEnd.ite_only | (unfold StnEnd.bad; apply StnEnd.fail_only) | (refine State.fst_only (by assumption) ?_) | split | dsimp only | (intro _; split <;> rfl) | (intro _; (repeat' split) <;> rfl)

theorem State.memEnd_only (hl : [Sect.out, Sect.od, Sect.mem, Sect.poison, Sect.written, Sect.xl, Sect.req, Sect.home, Sect.ep, Sect.sw, Sect.dlv, Sect.lnk, Sect.mgt] ⊆ sl) (h : State.Only sl s0 s) (i : Inst) (w : Nat) (t : Tx) (st : Nat) :
    (memEnd s i w t st).Only sl s0 := by
  unfold memEnd
  try dsimp only
  repeat' with_reducible first | assumption | apply State.memStop_only (Sect.sub rfl hl) | apply State.seqNext_only (Sect.sub rfl hl) | apply State.seqFailed_only (Sect.sub rfl hl) | apply State.tileReadEnd_only (Sect.sub rfl hl) | apply State.ite_only | (intro _ _ _ _) | (intro _ _ _) | (intro _; rfl) | (intro _; apply map_map_same; intro _; rfl) | (intro _; apply map_mapIf; intro _; rfl) | apply StnEnd.go_only | apply StnEnd.jump_only | apply StnEnd.stay_only | apply StnEnd.fail_only | apply StnEnd.ite_only | (unfold StnEnd.bad; apply StnEnd.fail_only) | (refine State.fst_only (by assumption) ?_) | split | dsimp only | (intro _; split <;> rfl) | (intro _; (repeat' split) <;> rfl)

theorem execMemoryInstructionComplete_only (hl : Sect.wide ⊆ sl) (h : State.Only sl s0 s) (who : InstRef) :
    Res.Only sl s0 (execMemoryInstructionComplete who s) := by
  unfold execMemoryInstructionComplete
  try dsimp only
  repeat' with_reducible first | assumption | apply State.dropTx_only (Sect.sub rfl hl) | apply State.setInst_only (Sect.sub rfl hl) | apply State.memEnd_only (Sect.sub rfl hl) | apply State.endStn_only (Sect.sub rfl hl) | apply State.spanNext_only (Sect.sub rfl hl) | apply State.settleAll_only (Sect.sub rfl hl) | apply Res.next_only | apply Res.ite_only | apply State.ite_only | (intro _ _ _ _) | (intro _ _ _) | (intro _; rfl) | (intro _; apply map_map_same; intro _; rfl) | (intro _; apply map_mapIf; intro _; rfl) | apply StnEnd.go_only | apply StnEnd.jump_only | apply StnEnd.stay_only | apply StnEnd.fail_only | apply StnEnd.ite_only | (unfold StnEnd.bad; apply StnEnd.fail_only) | (refine State.fst_only (by assumption) ?_) | split | dsimp only | (intro _; split <;> rfl) | (intro _; (repeat' split) <;> rfl)

end Sys2Proof.Machine
end

