-- ==== Sys2Proof/Laws/OnlyHome.lean ====
section
/-! SUPPORT. `State.Only` for every operation and meaning of Machine/Home.lean: the sections that it may change. -/

namespace Sys2Proof.Machine

open Sys2Proof

set_option Elab.async false

set_option linter.unreachableTactic false
set_option linter.unusedTactic false

variable {s0 s : State} {sl : List Sect}

theorem execHomeLoad_only (hl : [Sect.out, Sect.od, Sect.poison, Sect.home, Sect.sw, Sect.dlv, Sect.lnk, Sect.sec, Sect.mgt] ⊆ sl) (h : State.Only sl s0 s) (pos : Nat) (uncorrectable : Bool) :
    Res.Only sl s0 (execHomeLoad pos uncorrectable s) := by
  unfold execHomeLoad
  try dsimp only
  repeat' with_reducible first | assumption | apply State.takeIn_only (Sect.sub rfl hl) | apply State.homeRead_only (Sect.sub rfl hl) | apply Res.next_only | apply Res.ite_only | apply State.ite_only | (intro _ _ _ _) | (intro _ _ _) | (intro _; rfl) | (intro _; apply map_map_same; intro _; rfl) | (intro _; apply map_mapIf; intro _; rfl) | (refine State.fst_only (by assumption) ?_) | split | dsimp only | (intro _; split <;> rfl) | (intro _; (repeat' split) <;> rfl)

theorem execHomeStore_only (hl : [Sect.out, Sect.od, Sect.mem, Sect.poison, Sect.written, Sect.home, Sect.sw, Sect.dlv, Sect.lnk, Sect.sec, Sect.mgt] ⊆ sl) (h : State.Only sl s0 s) (pos : Nat) :
    Res.Only sl s0 (execHomeStore pos s) := by
  unfold execHomeStore
  try dsimp only
  repeat' with_reducible first | assumption | apply State.takeIn_only (Sect.sub rfl hl) | apply State.homeWrite_only (Sect.sub rfl hl) | apply Res.next_only | apply Res.ite_only | apply State.ite_only | (intro _ _ _ _) | (intro _ _ _) | (intro _; rfl) | (intro _; apply map_map_same; intro _; rfl) | (intro _; apply map_mapIf; intro _; rfl) | (refine State.fst_only (by assumption) ?_) | split | dsimp only | (intro _; split <;> rfl) | (intro _; (repeat' split) <;> rfl)

theorem State.homeAtomic_only (hl : [Sect.out, Sect.od, Sect.mem, Sect.poison, Sect.written, Sect.home, Sect.sw, Sect.dlv, Sect.lnk, Sect.sec, Sect.mgt] ⊆ sl) (h : State.Only sl s0 s) (pos sub : Nat) (own : Bool) :
    State.Only sl s0 (State.homeAtomic s pos sub own) := by
  unfold State.homeAtomic
  try dsimp only
  repeat' with_reducible first | assumption | apply State.takeIn_only (Sect.sub rfl hl) | apply State.homeWrite_only (Sect.sub rfl hl) | apply State.ite_only | (intro _ _ _ _) | (intro _ _ _) | (intro _; rfl) | (intro _; apply map_map_same; intro _; rfl) | (intro _; apply map_mapIf; intro _; rfl) | (refine State.fst_only (by assumption) ?_) | split | dsimp only | (intro _; split <;> rfl) | (intro _; (repeat' split) <;> rfl)

theorem State.classify_only (hl : [Sect.od, Sect.home] ⊆ sl) (h : State.Only sl s0 s) (fr cls : Nat) :
    State.Only sl s0 (State.classify s fr cls) := by
  unfold State.classify
  try dsimp only
  repeat' with_reducible first | assumption | apply State.mapHome_only (Sect.sub rfl hl) | apply State.notePinned_only (Sect.sub rfl hl) | apply State.ite_only | (intro _ _ _ _) | (intro _ _ _) | (intro _; rfl) | (intro _; apply map_map_same; intro _; rfl) | (intro _; apply map_mapIf; intro _; rfl) | (refine State.fst_only (by assumption) ?_) | split | dsimp only | (intro _; split <;> rfl) | (intro _; (repeat' split) <;> rfl)

theorem State.startCold_only (hl : [Sect.home] ⊆ sl) (h : State.Only sl s0 s)  :
    State.Only sl s0 (State.startCold s) := by
  unfold State.startCold
  try dsimp only
  repeat' with_reducible first | assumption | apply State.demote_only (Sect.sub rfl hl) | apply State.mapHome_only (Sect.sub rfl hl) | apply State.each_only | apply State.ite_only | (intro _ _ _ _) | (intro _ _ _) | (intro _; rfl) | (intro _; apply map_map_same; intro _; rfl) | (intro _; apply map_mapIf; intro _; rfl) | (refine State.fst_only (by assumption) ?_) | split | dsimp only | (intro _; split <;> rfl) | (intro _; (repeat' split) <;> rfl)

theorem State.promoteOr_only (hl : [Sect.od, Sect.home] ⊆ sl) (h : State.Only sl s0 s) (fr cls : Nat) :
    State.Only sl s0 (State.promoteOr s fr cls) := by
  unfold State.promoteOr
  try dsimp only
  repeat' with_reducible first | assumption | apply State.classify_only (Sect.sub rfl hl) | apply State.promote_only (Sect.sub rfl hl) | apply State.ite_only | (intro _ _ _ _) | (intro _ _ _) | (intro _; rfl) | (intro _; apply map_map_same; intro _; rfl) | (intro _; apply map_mapIf; intro _; rfl) | (refine State.fst_only (by assumption) ?_) | split | dsimp only | (intro _; split <;> rfl) | (intro _; (repeat' split) <;> rfl)

theorem State.later_only (hl : [Sect.home] ⊆ sl) (h : State.Only sl s0 s) (fr : Nat) :
    State.Only sl s0 (State.later s fr) := by
  unfold State.later
  try dsimp only
  repeat' with_reducible first | assumption | apply State.mapHome_only (Sect.sub rfl hl) | apply State.ite_only | (intro _ _ _ _) | (intro _ _ _) | (intro _; rfl) | (intro _; apply map_map_same; intro _; rfl) | (intro _; apply map_mapIf; intro _; rfl) | (refine State.fst_only (by assumption) ?_) | split | dsimp only | (intro _; split <;> rfl) | (intro _; (repeat' split) <;> rfl)

theorem State.notCold_only (hl : [Sect.home] ⊆ sl) (h : State.Only sl s0 s) (frs : List Nat) :
    State.Only sl s0 (State.notCold s frs) := by
  unfold State.notCold
  try dsimp only
  repeat' with_reducible first | assumption | apply State.mapHome_only (Sect.sub rfl hl) | apply State.ite_only | (intro _ _ _ _) | (intro _ _ _) | (intro _; rfl) | (intro _; apply map_map_same; intro _; rfl) | (intro _; apply map_mapIf; intro _; rfl) | (refine State.fst_only (by assumption) ?_) | split | dsimp only | (intro _; split <;> rfl) | (intro _; (repeat' split) <;> rfl)

theorem State.hintFrames_only (hl : [Sect.od, Sect.home] ⊆ sl) (h : State.Only sl s0 s) (frs : List Nat) (sub : Nat) :
    State.Only sl s0 (State.hintFrames s frs sub) := by
  unfold State.hintFrames
  try dsimp only
  repeat' with_reducible first | assumption | apply State.each_only | apply State.promoteOr_only (Sect.sub rfl hl) | apply State.classify_only (Sect.sub rfl hl) | apply State.demote_only (Sect.sub rfl hl) | apply State.later_only (Sect.sub rfl hl) | apply State.startCold_only (Sect.sub rfl hl) | apply State.ite_only | (intro _ _ _ _) | (intro _ _ _) | (intro _; rfl) | (intro _; apply map_map_same; intro _; rfl) | (intro _; apply map_mapIf; intro _; rfl) | (refine State.fst_only (by assumption) ?_) | split | dsimp only | (intro _; split <;> rfl) | (intro _; (repeat' split) <;> rfl)

theorem State.homeHint_only (hl : [Sect.out, Sect.od, Sect.home, Sect.sw, Sect.dlv, Sect.lnk, Sect.sec, Sect.mgt] ⊆ sl) (h : State.Only sl s0 s) (h : HReq) :
    State.Only sl s0 (State.homeHint s h) := by
  unfold State.homeHint
  try dsimp only
  repeat' with_reducible first | assumption | apply State.homeRefuse_only (Sect.sub rfl hl) | apply State.bump_only (Sect.sub rfl hl) | apply State.homeAnswer_only (Sect.sub rfl hl) | apply State.notCold_only (Sect.sub rfl hl) | apply State.hintFrames_only (Sect.sub rfl hl) | apply State.ite_only | (intro _ _ _ _) | (intro _ _ _) | (intro _; rfl) | (intro _; apply map_map_same; intro _; rfl) | (intro _; apply map_mapIf; intro _; rfl) | (refine State.fst_only (by assumption) ?_) | split | dsimp only | (intro _; split <;> rfl) | (intro _; (repeat' split) <;> rfl)

theorem execHomeHintCommand_only (hl : [Sect.out, Sect.od, Sect.home, Sect.sw, Sect.dlv, Sect.lnk, Sect.sec, Sect.mgt] ⊆ sl) (h : State.Only sl s0 s) (pos : Nat) :
    Res.Only sl s0 (execHomeHintCommand pos s) := by
  unfold execHomeHintCommand
  try dsimp only
  repeat' with_reducible first | assumption | apply State.takeIn_only (Sect.sub rfl hl) | apply State.homeHint_only (Sect.sub rfl hl) | apply Res.next_only | apply Res.ite_only | apply State.ite_only | (intro _ _ _ _) | (intro _ _ _) | (intro _; rfl) | (intro _; apply map_map_same; intro _; rfl) | (intro _; apply map_mapIf; intro _; rfl) | (refine State.fst_only (by assumption) ?_) | split | dsimp only | (intro _; split <;> rfl) | (intro _; (repeat' split) <;> rfl)

theorem execOwnerTableRead_only (hl : [Sect.out, Sect.od, Sect.home, Sect.sw, Sect.dlv, Sect.lnk, Sect.mgt] ⊆ sl) (h : State.Only sl s0 s) (pos : Nat) :
    Res.Only sl s0 (execOwnerTableRead pos s) := by
  unfold execOwnerTableRead
  try dsimp only
  repeat' with_reducible first | assumption | apply State.takeIn_only (Sect.sub rfl hl) | apply State.homeAnswer_only (Sect.sub rfl hl) | apply Res.next_only | apply Res.ite_only | apply State.ite_only | (intro _ _ _ _) | (intro _ _ _) | (intro _; rfl) | (intro _; apply map_map_same; intro _; rfl) | (intro _; apply map_mapIf; intro _; rfl) | (refine State.fst_only (by assumption) ?_) | split | dsimp only | (intro _; split <;> rfl) | (intro _; (repeat' split) <;> rfl)

theorem execOwnerReadResponse_only (hl : [Sect.out, Sect.od, Sect.mem, Sect.poison, Sect.written, Sect.home, Sect.sw, Sect.dlv, Sect.lnk, Sect.mgt] ⊆ sl) (h : State.Only sl s0 s) (flag status word : Nat) :
    Res.Only sl s0 (execOwnerReadResponse flag status word s) := by
  unfold execOwnerReadResponse
  try dsimp only
  repeat' with_reducible first | assumption | apply State.ownerAnswer_only (Sect.sub rfl hl) | apply Res.next_only | apply Res.ite_only | apply State.ite_only | (intro _ _ _ _) | (intro _ _ _) | (intro _; rfl) | (intro _; apply map_map_same; intro _; rfl) | (intro _; apply map_mapIf; intro _; rfl) | (refine State.fst_only (by assumption) ?_) | split | dsimp only | (intro _; split <;> rfl) | (intro _; (repeat' split) <;> rfl)

theorem execOwnerUpdate_only (hl : [Sect.out, Sect.od, Sect.home, Sect.sw, Sect.dlv, Sect.mgt] ⊆ sl) (h : State.Only sl s0 s) (src seq flag owner gen : Nat) :
    Res.Only sl s0 (execOwnerUpdate src seq flag owner gen s) := by
  unfold execOwnerUpdate
  try dsimp only
  repeat' with_reducible first | assumption | apply State.ownerNews_only (Sect.sub rfl hl) | apply State.sendAck_only (Sect.sub rfl hl) | apply Res.next_only | apply Res.ite_only | apply State.ite_only | (intro _ _ _ _) | (intro _ _ _) | (intro _; rfl) | (intro _; apply map_map_same; intro _; rfl) | (intro _; apply map_mapIf; intro _; rfl) | (refine State.fst_only (by assumption) ?_) | split | dsimp only | (intro _; split <;> rfl) | (intro _; (repeat' split) <;> rfl)

theorem State.mirrorNote_only (hl : [Sect.home] ⊆ sl) (h : State.Only sl s0 s) (src seq pepoch line old : Nat) :
    State.Only sl s0 (State.mirrorNote s src seq pepoch line old) := by
  unfold State.mirrorNote
  try dsimp only
  repeat' with_reducible first | assumption | apply State.mapHome_only (Sect.sub rfl hl) | apply State.ite_only | (intro _ _ _ _) | (intro _ _ _) | (intro _; rfl) | (intro _; apply map_map_same; intro _; rfl) | (intro _; apply map_mapIf; intro _; rfl) | (refine State.fst_only (by assumption) ?_) | split | dsimp only | (intro _; split <;> rfl) | (intro _; (repeat' split) <;> rfl)

theorem execMirrorWrite_only (hl : [Sect.out, Sect.od, Sect.mem, Sect.poison, Sect.written, Sect.home, Sect.sw, Sect.dlv, Sect.lnk, Sect.sec, Sect.mgt] ⊆ sl) (h : State.Only sl s0 s) (pos : Nat) :
    Res.Only sl s0 (execMirrorWrite pos s) := by
  unfold execMirrorWrite
  try dsimp only
  repeat' with_reducible first | assumption | apply State.takeIn_only (Sect.sub rfl hl) | apply State.homeRefuse_only (Sect.sub rfl hl) | apply State.poke_only (Sect.sub rfl hl) | apply State.mirrorNote_only (Sect.sub rfl hl) | apply State.homeAnswer_only (Sect.sub rfl hl) | apply Res.next_only | apply Res.ite_only | apply State.ite_only | (intro _ _ _ _) | (intro _ _ _) | (intro _; rfl) | (intro _; apply map_map_same; intro _; rfl) | (intro _; apply map_mapIf; intro _; rfl) | (refine State.fst_only (by assumption) ?_) | split | dsimp only | (intro _; split <;> rfl) | (intro _; (repeat' split) <;> rfl)

theorem execMirrorAck_only (hl : Sect.wide ⊆ sl) (h : State.Only sl s0 s) (hid status : Nat) :
    Res.Only sl s0 (execMirrorAck hid status s) := by
  unfold execMirrorAck
  try dsimp only
  repeat' with_reducible first | assumption | apply State.mirrorAcked_only (Sect.sub rfl hl) | apply State.settleAll_only (Sect.sub rfl hl) | apply Res.next_only | apply Res.ite_only | apply State.ite_only | (intro _ _ _ _) | (intro _ _ _) | (intro _; rfl) | (intro _; apply map_map_same; intro _; rfl) | (intro _; apply map_mapIf; intro _; rfl) | (refine State.fst_only (by assumption) ?_) | split | dsimp only | (intro _; split <;> rfl) | (intro _; (repeat' split) <;> rfl)

theorem State.serve_only (hl : [Sect.out, Sect.od, Sect.mem, Sect.poison, Sect.written, Sect.home, Sect.sw, Sect.dlv, Sect.lnk, Sect.sec, Sect.mgt] ⊆ sl) (h : State.Only sl s0 s) (h : HReq) :
    State.Only sl s0 (State.serve s h) := by
  unfold State.serve
  try dsimp only
  repeat' with_reducible first | assumption | apply State.homeRead_only (Sect.sub rfl hl) | apply State.homeWrite_only (Sect.sub rfl hl) | apply State.ite_only | (intro _ _ _ _) | (intro _ _ _) | (intro _; rfl) | (intro _; apply map_map_same; intro _; rfl) | (intro _; apply map_mapIf; intro _; rfl) | (refine State.fst_only (by assumption) ?_) | split | dsimp only | (intro _; split <;> rfl) | (intro _; (repeat' split) <;> rfl)

theorem State.performRest_only (hl : [Sect.mem, Sect.poison, Sect.written] ⊆ sl) (h : State.Only sl s0 s) (f : Frame) (done : List Nat) :
    State.Only sl s0 (State.performRest s f done) := by
  unfold State.performRest
  try dsimp only
  repeat' with_reducible first | assumption | apply State.poke_only (Sect.sub rfl hl) | apply State.each_only | apply State.ite_only | (intro _ _ _ _) | (intro _ _ _) | (intro _; rfl) | (intro _; apply map_map_same; intro _; rfl) | (intro _; apply map_mapIf; intro _; rfl) | (refine State.fst_only (by assumption) ?_) | split | dsimp only | (intro _; split <;> rfl) | (intro _; (repeat' split) <;> rfl)

theorem execMirrorRetryRequest_only (hl : [Sect.out, Sect.od, Sect.mem, Sect.poison, Sect.written, Sect.home, Sect.sw, Sect.dlv, Sect.lnk, Sect.sec, Sect.mgt] ⊆ sl) (h : State.Only sl s0 s) (pos : Nat) :
    Res.Only sl s0 (execMirrorRetryRequest pos s) := by
  unfold execMirrorRetryRequest
  try dsimp only
  repeat' with_reducible first | assumption | apply State.takeIn_only (Sect.sub rfl hl) | apply State.hold_only (Sect.sub rfl hl) | apply State.noteDegraded_only (Sect.sub rfl hl) | apply State.homeAnswer_only (Sect.sub rfl hl) | apply State.serve_only (Sect.sub rfl hl) | apply State.homeHint_only (Sect.sub rfl hl) | apply State.homeRefuse_only (Sect.sub rfl hl) | apply State.performRest_only (Sect.sub rfl hl) | apply Res.next_only | apply Res.ite_only | apply State.ite_only | (intro _ _ _ _) | (intro _ _ _) | (intro _; rfl) | (intro _; apply map_map_same; intro _; rfl) | (intro _; apply map_mapIf; intro _; rfl) | (refine State.fst_only (by assumption) ?_) | split | dsimp only | (intro _; split <;> rfl) | (intro _; (repeat' split) <;> rfl)

theorem execMirrorRetryHoldExpiry_only (hl : [Sect.out, Sect.od, Sect.home, Sect.sw, Sect.dlv, Sect.lnk, Sect.mgt] ⊆ sl) (h : State.Only sl s0 s) (pos : Nat) :
    Res.Only sl s0 (execMirrorRetryHoldExpiry pos s) := by
  unfold execMirrorRetryHoldExpiry
  try dsimp only
  repeat' with_reducible first | assumption | apply State.dropHeld_only (Sect.sub rfl hl) | apply State.homeAnswer_only (Sect.sub rfl hl) | apply Res.next_only | apply Res.ite_only | apply State.ite_only | (intro _ _ _ _) | (intro _ _ _) | (intro _; rfl) | (intro _; apply map_map_same; intro _; rfl) | (intro _; apply map_mapIf; intro _; rfl) | (refine State.fst_only (by assumption) ?_) | split | dsimp only | (intro _; split <;> rfl) | (intro _; (repeat' split) <;> rfl)

theorem State.dirGrant_only (hl : [Sect.home] ⊆ sl) (h : State.Only sl s0 s) (line me pid : Nat) (wantM : Bool) :
    State.Only sl s0 (State.dirGrant s line me pid wantM) := by
  unfold State.dirGrant
  try dsimp only
  repeat' with_reducible first | assumption | apply State.useDir_only (Sect.sub rfl hl) | apply State.ite_only | (intro _ _ _ _) | (intro _ _ _) | (intro _; rfl) | (intro _; apply map_map_same; intro _; rfl) | (intro _; apply map_mapIf; intro _; rfl) | (refine State.fst_only (by assumption) ?_) | split | dsimp only | (intro _; split <;> rfl) | (intro _; (repeat' split) <;> rfl)

theorem State.dirRoom_only (hl : [Sect.poison, Sect.home] ⊆ sl) (h : State.Only sl s0 s) (line : Nat) :
    State.Only sl s0 (State.dirRoom s line).1 := by
  unfold State.dirRoom
  try dsimp only
  repeat' with_reducible first | assumption | apply State.dirResolve_only (Sect.sub rfl hl) | apply State.ite_only | (intro _ _ _ _) | (intro _ _ _) | (intro _; rfl) | (intro _; apply map_map_same; intro _; rfl) | (intro _; apply map_mapIf; intro _; rfl) | (refine State.fst_only (by assumption) ?_) | split | dsimp only | (intro _; split <;> rfl) | (intro _; (repeat' split) <;> rfl)

theorem execHostCoherentRequest_only (hl : [Sect.out, Sect.od, Sect.mem, Sect.poison, Sect.written, Sect.home, Sect.sw, Sect.dlv, Sect.lnk, Sect.sec, Sect.mgt] ⊆ sl) (h : State.Only sl s0 s) (pos : Nat) :
    Res.Only sl s0 (execHostCoherentRequest pos s) := by
  unfold execHostCoherentRequest
  try dsimp only
  repeat' with_reducible first | assumption | apply State.takeIn_only (Sect.sub rfl hl) | apply State.homeRefuse_only (Sect.sub rfl hl) | apply State.homeWrite_only (Sect.sub rfl hl) | apply State.homeRead_only (Sect.sub rfl hl) | apply State.dirResolve_only (Sect.sub rfl hl) | apply State.waitRecalls_only (Sect.sub rfl hl) | apply State.dirGrant_only (Sect.sub rfl hl) | apply State.homeAnswer_only (Sect.sub rfl hl) | apply State.dirRoom_only (Sect.sub rfl hl) | apply Res.next_only | apply Res.ite_only | apply State.ite_only | (intro _ _ _ _) | (intro _ _ _) | (intro _; rfl) | (intro _; apply map_map_same; intro _; rfl) | (intro _; apply map_mapIf; intro _; rfl) | (refine State.fst_only (by assumption) ?_) | split | dsimp only | (intro _; split <;> rfl) | (intro _; (repeat' split) <;> rfl)

theorem execDirectoryRecall_only (hl : [Sect.out, Sect.home] ⊆ sl) (h : State.Only sl s0 s) (src cp line : Nat) (invalidate : Bool) :
    Res.Only sl s0 (execDirectoryRecall src cp line invalidate s) := by
  unfold execDirectoryRecall
  try dsimp only
  repeat' with_reducible first | assumption | apply State.recallForHost_only (Sect.sub rfl hl) | apply Res.next_only | apply Res.ite_only | apply State.ite_only | (intro _ _ _ _) | (intro _ _ _) | (intro _; rfl) | (intro _; apply map_map_same; intro _; rfl) | (intro _; apply map_mapIf; intro _; rfl) | (refine State.fst_only (by assumption) ?_) | split | dsimp only | (intro _; split <;> rfl) | (intro _; (repeat' split) <;> rfl)

theorem execRecallResponse_only (hl : [Sect.out, Sect.od, Sect.mem, Sect.poison, Sect.written, Sect.home, Sect.sw, Sect.dlv, Sect.lnk, Sect.mgt] ⊆ sl) (h : State.Only sl s0 s) (line host : Nat) (data : List Byte) :
    Res.Only sl s0 (execRecallResponse line host data s) := by
  unfold execRecallResponse
  try dsimp only
  repeat' with_reducible first | assumption | apply State.snoopAnswered_only (Sect.sub rfl hl) | apply Res.next_only | apply Res.ite_only | apply State.ite_only | (intro _ _ _ _) | (intro _ _ _) | (intro _; rfl) | (intro _; apply map_map_same; intro _; rfl) | (intro _; apply map_mapIf; intro _; rfl) | (refine State.fst_only (by assumption) ?_) | split | dsimp only | (intro _; split <;> rfl) | (intro _; (repeat' split) <;> rfl)

theorem execRecallTimeout_only (hl : [Sect.out, Sect.od, Sect.home, Sect.sw, Sect.dlv, Sect.lnk, Sect.mgt] ⊆ sl) (h : State.Only sl s0 s) (line : Nat) :
    Res.Only sl s0 (execRecallTimeout line s) := by
  unfold execRecallTimeout
  try dsimp only
  repeat' with_reducible first | assumption | apply State.recallLate_only (Sect.sub rfl hl) | apply Res.next_only | apply Res.ite_only | apply State.ite_only | (intro _ _ _ _) | (intro _ _ _) | (intro _; rfl) | (intro _; apply map_map_same; intro _; rfl) | (intro _; apply map_mapIf; intro _; rfl) | (refine State.fst_only (by assumption) ?_) | split | dsimp only | (intro _; split <;> rfl) | (intro _; (repeat' split) <;> rfl)

theorem execHostLost_only (hl : [Sect.out, Sect.nvq, Sect.poison, Sect.home, Sect.ep, Sect.mgt] ⊆ sl) (h : State.Only sl s0 s) (cause : HostLossCause) (mid cp : Nat) :
    Res.Only sl s0 (execHostLost cause mid cp s) := by
  unfold execHostLost
  try dsimp only
  repeat' with_reducible first | assumption | apply State.command_only (Sect.sub rfl hl) | apply State.loseHost_only (Sect.sub rfl hl) | apply Res.next_only | apply Res.ite_only | apply State.ite_only | (intro _ _ _ _) | (intro _ _ _) | (intro _; rfl) | (intro _; apply map_map_same; intro _; rfl) | (intro _; apply map_mapIf; intro _; rfl) | (refine State.fst_only (by assumption) ?_) | split | dsimp only | (intro _; split <;> rfl) | (intro _; (repeat' split) <;> rfl)

theorem execHostLossSweepEnd_only (hl : [Sect.out, Sect.od, Sect.poison, Sect.home, Sect.mgt] ⊆ sl) (h : State.Only sl s0 s) (mid cp : Nat) :
    Res.Only sl s0 (execHostLossSweepEnd mid cp s) := by
  unfold execHostLossSweepEnd
  try dsimp only
  repeat' with_reducible first | assumption | apply State.sweepEnd_only (Sect.sub rfl hl) | apply Res.next_only | apply Res.ite_only | apply State.ite_only | (intro _ _ _ _) | (intro _ _ _) | (intro _; rfl) | (intro _; apply map_map_same; intro _; rfl) | (intro _; apply map_mapIf; intro _; rfl) | (refine State.fst_only (by assumption) ?_) | split | dsimp only | (intro _; split <;> rfl) | (intro _; (repeat' split) <;> rfl)

theorem State.tierGone_only (hl : [Sect.home] ⊆ sl) (h : State.Only sl s0 s) (frame : Nat) :
    State.Only sl s0 (State.tierGone s frame) := by
  unfold State.tierGone
  try dsimp only
  repeat' with_reducible first | assumption | apply State.mapHome_only (Sect.sub rfl hl) | apply State.ite_only | (intro _ _ _ _) | (intro _ _ _) | (intro _; rfl) | (intro _; apply map_map_same; intro _; rfl) | (intro _; apply map_mapIf; intro _; rfl) | (refine State.fst_only (by assumption) ?_) | split | dsimp only | (intro _; split <;> rfl) | (intro _; (repeat' split) <;> rfl)

theorem State.tierStay_only (hl : [Sect.home] ⊆ sl) (h : State.Only sl s0 s) (frame : Nat) :
    State.Only sl s0 (State.tierStay s frame) := by
  unfold State.tierStay
  try dsimp only
  repeat' with_reducible first | assumption | apply State.mapHome_only (Sect.sub rfl hl) | apply State.ite_only | (intro _ _ _ _) | (intro _ _ _) | (intro _; rfl) | (intro _; apply map_map_same; intro _; rfl) | (intro _; apply map_mapIf; intro _; rfl) | (refine State.fst_only (by assumption) ?_) | split | dsimp only | (intro _; split <;> rfl) | (intro _; (repeat' split) <;> rfl)

theorem State.victimGone_only (hl : [Sect.home] ⊆ sl) (h : State.Only sl s0 s) (frame : Nat) :
    State.Only sl s0 (State.victimGone s frame) := by
  unfold State.victimGone
  try dsimp only
  repeat' with_reducible first | assumption | apply State.mapHome_only (Sect.sub rfl hl) | apply State.ite_only | (intro _ _ _ _) | (intro _ _ _) | (intro _; rfl) | (intro _; apply map_map_same; intro _; rfl) | (intro _; apply map_mapIf; intro _; rfl) | (refine State.fst_only (by assumption) ?_) | split | dsimp only | (intro _; split <;> rfl) | (intro _; (repeat' split) <;> rfl)

theorem State.victimStays_only (hl : [Sect.home] ⊆ sl) (h : State.Only sl s0 s) (frame : Nat) :
    State.Only sl s0 (State.victimStays s frame) := by
  unfold State.victimStays
  try dsimp only
  repeat' with_reducible first | assumption | apply State.mapHome_only (Sect.sub rfl hl) | apply State.ite_only | (intro _ _ _ _) | (intro _ _ _) | (intro _; rfl) | (intro _; apply map_map_same; intro _; rfl) | (intro _; apply map_mapIf; intro _; rfl) | (refine State.fst_only (by assumption) ?_) | split | dsimp only | (intro _; split <;> rfl) | (intro _; (repeat' split) <;> rfl)

theorem State.resumeMoved_only (hl : [Sect.out, Sect.od, Sect.mem, Sect.poison, Sect.written, Sect.home, Sect.sw, Sect.dlv, Sect.lnk, Sect.mgt] ⊆ sl) (h : State.Only sl s0 s) (e : Held) :
    State.Only sl s0 (State.resumeMoved s e) := by
  unfold State.resumeMoved
  try dsimp only
  repeat' with_reducible first | assumption | apply State.performAnswer_only (Sect.sub rfl hl) | apply State.writeChecked_only (Sect.sub rfl hl) | apply State.ite_only | (intro _ _ _ _) | (intro _ _ _) | (intro _; rfl) | (intro _; apply map_map_same; intro _; rfl) | (intro _; apply map_mapIf; intro _; rfl) | (refine State.fst_only (by assumption) ?_) | split | dsimp only | (intro _; split <;> rfl) | (intro _; (repeat' split) <;> rfl)

theorem State.moveEnds_only (hl : [Sect.out, Sect.od, Sect.mem, Sect.poison, Sect.written, Sect.home, Sect.sw, Sect.dlv, Sect.lnk, Sect.mgt] ⊆ sl) (h : State.Only sl s0 s) (frame : Nat) :
    State.Only sl s0 (State.moveEnds s frame) := by
  unfold State.moveEnds
  try dsimp only
  repeat' with_reducible first | assumption | apply State.mapHome_only (Sect.sub rfl hl) | apply State.recallData_only (Sect.sub rfl hl) | apply State.resumeMoved_only (Sect.sub rfl hl) | apply State.startCold_only (Sect.sub rfl hl) | apply State.notePinned_only (Sect.sub rfl hl) | apply State.each_only | apply State.ite_only | (intro _ _ _ _) | (intro _ _ _) | (intro _; rfl) | (intro _; apply map_map_same; intro _; rfl) | (intro _; apply map_mapIf; intro _; rfl) | (refine State.fst_only (by assumption) ?_) | split | dsimp only | (intro _; split <;> rfl) | (intro _; (repeat' split) <;> rfl)

theorem execTierFrameMoveComplete_only (hl : Sect.wide ⊆ sl) (h : State.Only sl s0 s) (frame : Nat) (badLines : List Nat) :
    Res.Only sl s0 (execTierFrameMoveComplete frame badLines s) := by
  unfold execTierFrameMoveComplete
  try dsimp only
  repeat' with_reducible first | assumption | apply State.each_only | apply State.setPoison_only (Sect.sub rfl hl) | apply State.bump_only (Sect.sub rfl hl) | apply State.tierStay_only (Sect.sub rfl hl) | apply State.tierGone_only (Sect.sub rfl hl) | apply State.victimGone_only (Sect.sub rfl hl) | apply State.moveEnds_only (Sect.sub rfl hl) | apply State.settleAll_only (Sect.sub rfl hl) | apply State.victimStays_only (Sect.sub rfl hl) | apply Res.next_only | apply Res.ite_only | apply State.ite_only | (intro _ _ _ _) | (intro _ _ _) | (intro _; rfl) | (intro _; apply map_map_same; intro _; rfl) | (intro _; apply map_mapIf; intro _; rfl) | (refine State.fst_only (by assumption) ?_) | split | dsimp only | (intro _; split <;> rfl) | (intro _; (repeat' split) <;> rfl)

theorem execAtomicBufferFetchComplete_only (hl : Sect.wide ⊆ sl) (h : State.Only sl s0 s) (line status : Nat) (data : List Byte) :
    Res.Only sl s0 (execAtomicBufferFetchComplete line status data s) := by
  unfold execAtomicBufferFetchComplete
  try dsimp only
  repeat' with_reducible first | assumption | apply State.respond_only (Sect.sub rfl hl) | apply State.settleAll_only (Sect.sub rfl hl) | apply Res.next_only | apply Res.ite_only | apply State.ite_only | (intro _ _ _ _) | (intro _ _ _) | (intro _; rfl) | (intro _; apply map_map_same; intro _; rfl) | (intro _; apply map_mapIf; intro _; rfl) | (refine State.fst_only (by assumption) ?_) | split | dsimp only | (intro _; split <;> rfl) | (intro _; (repeat' split) <;> rfl)

end Sys2Proof.Machine
end

