-- ==== Sys2Proof/Laws/OnlyAccess.lean ====
section
/-! SUPPORT. `State.Only` for every operation and meaning of Machine/Access.lean: the sections that it may change. -/

namespace Sys2Proof.Machine

open Sys2Proof

set_option Elab.async false

set_option linter.unreachableTactic false
set_option linter.unusedTactic false

variable {s0 s : State} {sl : List Sect}

theorem State.access_only (hl : Sect.wide ⊆ sl) (h : State.Only sl s0 s) (src : Src) (mt op : Nat) (f : State → Inst → Nat → StnEnd) (fix : CapMsg → CapMsg) (he : ∀ t i w, State.Only sl s0 t → (f t i w).Only sl s0) :
    State.Only sl s0 (State.access s src mt op f fix) := by
  unfold State.access
  try dsimp only
  repeat' with_reducible first | assumption | apply he | apply State.capRequest_only (Sect.sub rfl hl) | apply State.settleAll_only (Sect.sub rfl hl) | apply State.station_only (Sect.sub rfl hl) | apply State.ite_only | (intro _ _ _ _) | (intro _ _ _) | (intro _; rfl) | (intro _; apply map_map_same; intro _; rfl) | (intro _; apply map_mapIf; intro _; rfl) | apply StnEnd.go_only | apply StnEnd.jump_only | apply StnEnd.stay_only | apply StnEnd.fail_only | apply StnEnd.ite_only | (unfold StnEnd.bad; apply StnEnd.fail_only) | (refine State.fst_only (by assumption) ?_) | split | dsimp only | (intro _; split <;> rfl) | (intro _; (repeat' split) <;> rfl)

theorem execLd_only (hl : Sect.wide ⊆ sl) (h : State.Only sl s0 s) (src : Src) :
    Res.Only sl s0 (execLd src s) := by
  unfold execLd
  try dsimp only
  repeat' with_reducible first | assumption | apply State.access_only (Sect.sub rfl hl) | apply State.stnLd_only (Sect.sub rfl hl) | apply Res.next_only | apply Res.ite_only | apply State.ite_only | (intro _ _ _ _) | (intro _ _ _) | (intro _; rfl) | (intro _; apply map_map_same; intro _; rfl) | (intro _; apply map_mapIf; intro _; rfl) | apply StnEnd.go_only | apply StnEnd.jump_only | apply StnEnd.stay_only | apply StnEnd.fail_only | apply StnEnd.ite_only | (unfold StnEnd.bad; apply StnEnd.fail_only) | (refine State.fst_only (by assumption) ?_) | split | dsimp only | (intro _; split <;> rfl) | (intro _; (repeat' split) <;> rfl)

theorem execSt_only (hl : Sect.wide ⊆ sl) (h : State.Only sl s0 s) (src : Src) :
    Res.Only sl s0 (execSt src s) := by
  unfold execSt
  try dsimp only
  repeat' with_reducible first | assumption | apply State.access_only (Sect.sub rfl hl) | apply State.stnSt_only (Sect.sub rfl hl) | apply Res.next_only | apply Res.ite_only | apply State.ite_only | (intro _ _ _ _) | (intro _ _ _) | (intro _; rfl) | (intro _; apply map_map_same; intro _; rfl) | (intro _; apply map_mapIf; intro _; rfl) | apply StnEnd.go_only | apply StnEnd.jump_only | apply StnEnd.stay_only | apply StnEnd.fail_only | apply StnEnd.ite_only | (unfold StnEnd.bad; apply StnEnd.fail_only) | (refine State.fst_only (by assumption) ?_) | split | dsimp only | (intro _; split <;> rfl) | (intro _; (repeat' split) <;> rfl)

theorem State.fence_only (hl : Sect.wide ⊆ sl) (h : State.Only sl s0 s) (src : Src) (ord : Nat) :
    State.Only sl s0 (State.fence s src ord) := by
  unfold State.fence
  try dsimp only
  repeat' with_reducible first | assumption | apply State.capRequest_only (Sect.sub rfl hl) | apply State.settleAll_only (Sect.sub rfl hl) | apply State.station_only (Sect.sub rfl hl) | apply State.stnFence_only (Sect.sub rfl hl) | apply State.ite_only | (intro _ _ _ _) | (intro _ _ _) | (intro _; rfl) | (intro _; apply map_map_same; intro _; rfl) | (intro _; apply map_mapIf; intro _; rfl) | apply StnEnd.go_only | apply StnEnd.jump_only | apply StnEnd.stay_only | apply StnEnd.fail_only | apply StnEnd.ite_only | (unfold StnEnd.bad; apply StnEnd.fail_only) | (refine State.fst_only (by assumption) ?_) | split | dsimp only | (intro _; split <;> rfl) | (intro _; (repeat' split) <;> rfl)

theorem execFenceAcquire_only (hl : Sect.wide ⊆ sl) (h : State.Only sl s0 s) (src : Src) :
    Res.Only sl s0 (execFenceAcquire src s) := by
  unfold execFenceAcquire
  try dsimp only
  repeat' with_reducible first | assumption | apply State.fence_only (Sect.sub rfl hl) | apply Res.next_only | apply Res.ite_only | apply State.ite_only | (intro _ _ _ _) | (intro _ _ _) | (intro _; rfl) | (intro _; apply map_map_same; intro _; rfl) | (intro _; apply map_mapIf; intro _; rfl) | (refine State.fst_only (by assumption) ?_) | split | dsimp only | (intro _; split <;> rfl) | (intro _; (repeat' split) <;> rfl)

theorem execFenceRelease_only (hl : Sect.wide ⊆ sl) (h : State.Only sl s0 s) (src : Src) :
    Res.Only sl s0 (execFenceRelease src s) := by
  unfold execFenceRelease
  try dsimp only
  repeat' with_reducible first | assumption | apply State.fence_only (Sect.sub rfl hl) | apply Res.next_only | apply Res.ite_only | apply State.ite_only | (intro _ _ _ _) | (intro _ _ _) | (intro _; rfl) | (intro _; apply map_map_same; intro _; rfl) | (intro _; apply map_mapIf; intro _; rfl) | (refine State.fst_only (by assumption) ?_) | split | dsimp only | (intro _; split <;> rfl) | (intro _; (repeat' split) <;> rfl)

theorem execFenceAcqRel_only (hl : Sect.wide ⊆ sl) (h : State.Only sl s0 s) (src : Src) :
    Res.Only sl s0 (execFenceAcqRel src s) := by
  unfold execFenceAcqRel
  try dsimp only
  repeat' with_reducible first | assumption | apply State.fence_only (Sect.sub rfl hl) | apply Res.next_only | apply Res.ite_only | apply State.ite_only | (intro _ _ _ _) | (intro _ _ _) | (intro _; rfl) | (intro _; apply map_map_same; intro _; rfl) | (intro _; apply map_mapIf; intro _; rfl) | (refine State.fst_only (by assumption) ?_) | split | dsimp only | (intro _; split <;> rfl) | (intro _; (repeat' split) <;> rfl)

theorem execInval_only (hl : Sect.wide ⊆ sl) (h : State.Only sl s0 s) (src : Src) :
    Res.Only sl s0 (execInval src s) := by
  unfold execInval
  try dsimp only
  repeat' with_reducible first | assumption | apply State.access_only (Sect.sub rfl hl) | apply State.stnInval_only (Sect.sub rfl hl) | apply Res.next_only | apply Res.ite_only | apply State.ite_only | (intro _ _ _ _) | (intro _ _ _) | (intro _; rfl) | (intro _; apply map_map_same; intro _; rfl) | (intro _; apply map_mapIf; intro _; rfl) | apply StnEnd.go_only | apply StnEnd.jump_only | apply StnEnd.stay_only | apply StnEnd.fail_only | apply StnEnd.ite_only | (unfold StnEnd.bad; apply StnEnd.fail_only) | (refine State.fst_only (by assumption) ?_) | split | dsimp only | (intro _; split <;> rfl) | (intro _; (repeat' split) <;> rfl)

theorem State.atomic_only (hl : Sect.wide ⊆ sl) (h : State.Only sl s0 s) (src : ASrc) (sub : Nat) (own : Bool) :
    State.Only sl s0 (State.atomic s src sub own) := by
  unfold State.atomic
  try dsimp only
  repeat' with_reducible first | assumption | apply State.capRequest_only (Sect.sub rfl hl) | apply State.settleAll_only (Sect.sub rfl hl) | apply State.station_only (Sect.sub rfl hl) | apply State.stnAtom_only (Sect.sub rfl hl) | apply State.homeAtomic_only (Sect.sub rfl hl) | apply State.ite_only | (intro _ _ _ _) | (intro _ _ _) | (intro _; rfl) | (intro _; apply map_map_same; intro _; rfl) | (intro _; apply map_mapIf; intro _; rfl) | apply StnEnd.go_only | apply StnEnd.jump_only | apply StnEnd.stay_only | apply StnEnd.fail_only | apply StnEnd.ite_only | (unfold StnEnd.bad; apply StnEnd.fail_only) | (refine State.fst_only (by assumption) ?_) | split | dsimp only | (intro _; split <;> rfl) | (intro _; (repeat' split) <;> rfl)

theorem execAtomicAdd_only (hl : Sect.wide ⊆ sl) (h : State.Only sl s0 s) (src : ASrc) :
    Res.Only sl s0 (execAtomicAdd src s) := by
  unfold execAtomicAdd
  try dsimp only
  repeat' with_reducible first | assumption | apply State.atomic_only (Sect.sub rfl hl) | apply Res.next_only | apply Res.ite_only | apply State.ite_only | (intro _ _ _ _) | (intro _ _ _) | (intro _; rfl) | (intro _; apply map_map_same; intro _; rfl) | (intro _; apply map_mapIf; intro _; rfl) | (refine State.fst_only (by assumption) ?_) | split | dsimp only | (intro _; split <;> rfl) | (intro _; (repeat' split) <;> rfl)

theorem execAtomicMin_only (hl : Sect.wide ⊆ sl) (h : State.Only sl s0 s) (src : ASrc) :
    Res.Only sl s0 (execAtomicMin src s) := by
  unfold execAtomicMin
  try dsimp only
  repeat' with_reducible first | assumption | apply State.atomic_only (Sect.sub rfl hl) | apply Res.next_only | apply Res.ite_only | apply State.ite_only | (intro _ _ _ _) | (intro _ _ _) | (intro _; rfl) | (intro _; apply map_map_same; intro _; rfl) | (intro _; apply map_mapIf; intro _; rfl) | (refine State.fst_only (by assumption) ?_) | split | dsimp only | (intro _; split <;> rfl) | (intro _; (repeat' split) <;> rfl)

theorem execAtomicMax_only (hl : Sect.wide ⊆ sl) (h : State.Only sl s0 s) (src : ASrc) :
    Res.Only sl s0 (execAtomicMax src s) := by
  unfold execAtomicMax
  try dsimp only
  repeat' with_reducible first | assumption | apply State.atomic_only (Sect.sub rfl hl) | apply Res.next_only | apply Res.ite_only | apply State.ite_only | (intro _ _ _ _) | (intro _ _ _) | (intro _; rfl) | (intro _; apply map_map_same; intro _; rfl) | (intro _; apply map_mapIf; intro _; rfl) | (refine State.fst_only (by assumption) ?_) | split | dsimp only | (intro _; split <;> rfl) | (intro _; (repeat' split) <;> rfl)

theorem execAtomicAnd_only (hl : Sect.wide ⊆ sl) (h : State.Only sl s0 s) (src : ASrc) :
    Res.Only sl s0 (execAtomicAnd src s) := by
  unfold execAtomicAnd
  try dsimp only
  repeat' with_reducible first | assumption | apply State.atomic_only (Sect.sub rfl hl) | apply Res.next_only | apply Res.ite_only | apply State.ite_only | (intro _ _ _ _) | (intro _ _ _) | (intro _; rfl) | (intro _; apply map_map_same; intro _; rfl) | (intro _; apply map_mapIf; intro _; rfl) | (refine State.fst_only (by assumption) ?_) | split | dsimp only | (intro _; split <;> rfl) | (intro _; (repeat' split) <;> rfl)

theorem execAtomicOr_only (hl : Sect.wide ⊆ sl) (h : State.Only sl s0 s) (src : ASrc) :
    Res.Only sl s0 (execAtomicOr src s) := by
  unfold execAtomicOr
  try dsimp only
  repeat' with_reducible first | assumption | apply State.atomic_only (Sect.sub rfl hl) | apply Res.next_only | apply Res.ite_only | apply State.ite_only | (intro _ _ _ _) | (intro _ _ _) | (intro _; rfl) | (intro _; apply map_map_same; intro _; rfl) | (intro _; apply map_mapIf; intro _; rfl) | (refine State.fst_only (by assumption) ?_) | split | dsimp only | (intro _; split <;> rfl) | (intro _; (repeat' split) <;> rfl)

theorem execAtomicXor_only (hl : Sect.wide ⊆ sl) (h : State.Only sl s0 s) (src : ASrc) :
    Res.Only sl s0 (execAtomicXor src s) := by
  unfold execAtomicXor
  try dsimp only
  repeat' with_reducible first | assumption | apply State.atomic_only (Sect.sub rfl hl) | apply Res.next_only | apply Res.ite_only | apply State.ite_only | (intro _ _ _ _) | (intro _ _ _) | (intro _; rfl) | (intro _; apply map_map_same; intro _; rfl) | (intro _; apply map_mapIf; intro _; rfl) | (refine State.fst_only (by assumption) ?_) | split | dsimp only | (intro _; split <;> rfl) | (intro _; (repeat' split) <;> rfl)

theorem execAtomicSwap_only (hl : Sect.wide ⊆ sl) (h : State.Only sl s0 s) (src : ASrc) :
    Res.Only sl s0 (execAtomicSwap src s) := by
  unfold execAtomicSwap
  try dsimp only
  repeat' with_reducible first | assumption | apply State.atomic_only (Sect.sub rfl hl) | apply Res.next_only | apply Res.ite_only | apply State.ite_only | (intro _ _ _ _) | (intro _ _ _) | (intro _; rfl) | (intro _; apply map_map_same; intro _; rfl) | (intro _; apply map_mapIf; intro _; rfl) | (refine State.fst_only (by assumption) ?_) | split | dsimp only | (intro _; split <;> rfl) | (intro _; (repeat' split) <;> rfl)

theorem execAtomicCas_only (hl : Sect.wide ⊆ sl) (h : State.Only sl s0 s) (src : ASrc) :
    Res.Only sl s0 (execAtomicCas src s) := by
  unfold execAtomicCas
  try dsimp only
  repeat' with_reducible first | assumption | apply State.atomic_only (Sect.sub rfl hl) | apply Res.next_only | apply Res.ite_only | apply State.ite_only | (intro _ _ _ _) | (intro _ _ _) | (intro _; rfl) | (intro _; apply map_map_same; intro _; rfl) | (intro _; apply map_mapIf; intro _; rfl) | (refine State.fst_only (by assumption) ?_) | split | dsimp only | (intro _; split <;> rfl) | (intro _; (repeat' split) <;> rfl)

theorem execCasOwn_only (hl : Sect.wide ⊆ sl) (h : State.Only sl s0 s) (src : ASrc) :
    Res.Only sl s0 (execCasOwn src s) := by
  unfold execCasOwn
  try dsimp only
  repeat' with_reducible first | assumption | apply State.atomic_only (Sect.sub rfl hl) | apply Res.next_only | apply Res.ite_only | apply State.ite_only | (intro _ _ _ _) | (intro _ _ _) | (intro _; rfl) | (intro _; apply map_map_same; intro _; rfl) | (intro _; apply map_mapIf; intro _; rfl) | (refine State.fst_only (by assumption) ?_) | split | dsimp only | (intro _; split <;> rfl) | (intro _; (repeat' split) <;> rfl)

end Sys2Proof.Machine
end

