-- ==== Sys2Proof/Laws/OnlyImage.lean ====
section
/-! SUPPORT. `State.Only` for every operation and meaning of Machine/Image.lean: the sections that it may change. -/

namespace Sys2Proof.Machine

open Sys2Proof

set_option Elab.async false

set_option linter.unreachableTactic false
set_option linter.unusedTactic false

variable {s0 s : State} {sl : List Sect}

theorem State.install_only (hl : [Sect.out, Sect.od, Sect.stn, Sect.lnk] ⊆ sl) (h : State.Only sl s0 s) (pid : Nat) (m : Img) (pl : List (ImgStn × Place)) :
    State.Only sl s0 (State.install s pid m pl) := by
  unfold State.install
  try dsimp only
  repeat' with_reducible first | assumption | apply State.mapStn_only (Sect.sub rfl hl) | apply State.wr_only (Sect.sub rfl hl) | apply State.each_only | apply State.capSend_only (Sect.sub rfl hl) | apply State.ite_only | (intro _ _ _ _) | (intro _ _ _) | (intro _; rfl) | (intro _; apply map_map_same; intro _; rfl) | (intro _; apply map_mapIf; intro _; rfl) | (refine State.fst_only (by assumption) ?_) | split | dsimp only | (intro _; split <;> rfl) | (intro _; (repeat' split) <;> rfl)

end Sys2Proof.Machine
end

