-- ==== Sys2Proof/Laws/OnlyFlows.lean ====
section
/-! SUPPORT. `State.Only` for every operation and meaning of Machine/Flows.lean: the sections that it may change. -/

namespace Sys2Proof.Machine

open Sys2Proof

set_option Elab.async false

set_option linter.unreachableTactic false
set_option linter.unusedTactic false

variable {s0 s : State} {sl : List Sect}

theorem State.loadEnds_only (hl : [Sect.out, Sect.od, Sect.ep, Sect.mgt] ⊆ sl) (h : State.Only sl s0 s) (o : Origin) (st : Nat) :
    State.Only sl s0 (State.loadEnds s o st) := by
  unfold State.loadEnds
  try dsimp only
  repeat' with_reducible first | assumption | apply State.bump_only (Sect.sub rfl hl) | apply State.reply_only (Sect.sub rfl hl) | apply State.ite_only | (intro _ _ _ _) | (intro _ _ _) | (intro _; rfl) | (intro _; apply map_map_same; intro _; rfl) | (intro _; apply map_mapIf; intro _; rfl) | (refine State.fst_only (by assumption) ?_) | split | dsimp only | (intro _; split <;> rfl) | (intro _; (repeat' split) <;> rfl)

theorem execFlowLoad_only (hl : [Sect.out, Sect.od, Sect.nvq, Sect.mem, Sect.poison, Sect.written, Sect.xl, Sect.req, Sect.ep, Sect.stn, Sect.lnk, Sect.mgt] ⊆ sl) (h : State.Only sl s0 s) (o : Origin) (pid fva len : Nat) :
    Res.Only sl s0 (execFlowLoad o pid fva len s) := by
  unfold execFlowLoad
  try dsimp only
  repeat' with_reducible first | assumption | apply State.command_only (Sect.sub rfl hl) | apply State.bump_only (Sect.sub rfl hl) | apply State.mapStn_only (Sect.sub rfl hl) | apply State.moduleRead_only (Sect.sub rfl hl) | apply Res.next_only | apply Res.ite_only | apply State.ite_only | (intro _ _ _ _) | (intro _ _ _) | (intro _; rfl) | (intro _; apply map_map_same; intro _; rfl) | (intro _; apply map_mapIf; intro _; rfl) | (refine State.fst_only (by assumption) ?_) | split | dsimp only | (intro _; split <;> rfl) | (intro _; (repeat' split) <;> rfl)

theorem State.loadImage_only (hl : [Sect.out, Sect.od, Sect.req, Sect.ep, Sect.stn, Sect.lnk, Sect.sec, Sect.mgt] ⊆ sl) (h : State.Only sl s0 s) (l : ImageLoad) (d : List Byte) :
    State.Only sl s0 (State.loadImage s l d) := by
  unfold State.loadImage
  try dsimp only
  repeat' with_reducible first | assumption | apply State.mapStn_only (Sect.sub rfl hl) | apply State.loadEnds_only (Sect.sub rfl hl) | apply State.install_only (Sect.sub rfl hl) | apply State.dropTx_only (Sect.sub rfl hl) | apply State.measure_only (Sect.sub rfl hl) | apply State.ite_only | (intro _ _ _ _) | (intro _ _ _) | (intro _; rfl) | (intro _; apply map_map_same; intro _; rfl) | (intro _; apply map_mapIf; intro _; rfl) | (refine State.fst_only (by assumption) ?_) | split | dsimp only | (intro _; split <;> rfl) | (intro _; (repeat' split) <;> rfl)

theorem execFlowLoadComplete_only (hl : [Sect.out, Sect.od, Sect.mem, Sect.poison, Sect.written, Sect.xl, Sect.req, Sect.ep, Sect.stn, Sect.lnk, Sect.sec, Sect.mgt] ⊆ sl) (h : State.Only sl s0 s) (pid fva len : Nat) :
    Res.Only sl s0 (execFlowLoadComplete pid fva len s) := by
  unfold execFlowLoadComplete
  try dsimp only
  repeat' with_reducible first | assumption | apply State.mapStn_only (Sect.sub rfl hl) | apply State.loadEnds_only (Sect.sub rfl hl) | apply State.moduleRead_only (Sect.sub rfl hl) | apply State.loadImage_only (Sect.sub rfl hl) | apply State.dropTx_only (Sect.sub rfl hl) | apply Res.next_only | apply Res.ite_only | apply State.ite_only | (intro _ _ _ _) | (intro _ _ _) | (intro _; rfl) | (intro _; apply map_map_same; intro _; rfl) | (intro _; apply map_mapIf; intro _; rfl) | (refine State.fst_only (by assumption) ?_) | split | dsimp only | (intro _; split <;> rfl) | (intro _; (repeat' split) <;> rfl)

theorem execFlowLaunch_only (hl : [Sect.out, Sect.nvq, Sect.ep, Sect.stn, Sect.mgt] ⊆ sl) (h : State.Only sl s0 s) (o : Origin) (pid flow t : Nat) :
    Res.Only sl s0 (execFlowLaunch o pid flow t s) := by
  unfold execFlowLaunch
  try dsimp only
  repeat' with_reducible first | assumption | apply State.command_only (Sect.sub rfl hl) | apply State.setFlow_only (Sect.sub rfl hl) | apply Res.next_only | apply Res.ite_only | apply State.ite_only | (intro _ _ _ _) | (intro _ _ _) | (intro _; rfl) | (intro _; apply map_map_same; intro _; rfl) | (intro _; apply map_mapIf; intro _; rfl) | (refine State.fst_only (by assumption) ?_) | split | dsimp only | (intro _; split <;> rfl) | (intro _; (repeat' split) <;> rfl)

theorem execFlowStart_only (hl : Sect.wide ⊆ sl) (h : State.Only sl s0 s) (pid flow : Nat) :
    Res.Only sl s0 (execFlowStart pid flow s) := by
  unfold execFlowStart
  try dsimp only
  repeat' with_reducible first | assumption | apply State.setFlow_only (Sect.sub rfl hl) | apply State.mapStn_only (Sect.sub rfl hl) | apply State.mapShd_only (Sect.sub rfl hl) | apply State.failStation_only (Sect.sub rfl hl) | apply State.settleAll_only (Sect.sub rfl hl) | apply State.freshGates_only (Sect.sub rfl hl) | apply Res.next_only | apply Res.ite_only | apply State.ite_only | (intro _ _ _ _) | (intro _ _ _) | (intro _; rfl) | (intro _; apply map_map_same; intro _; rfl) | (intro _; apply map_mapIf; intro _; rfl) | (refine State.fst_only (by assumption) ?_) | split | dsimp only | (intro _; split <;> rfl) | (intro _; (repeat' split) <;> rfl)

theorem execFlowAbort_only (hl : Sect.wideQ ⊆ sl) (h : State.Only sl s0 s) (o : Origin) (pid flow : Nat) :
    Res.Only sl s0 (execFlowAbort o pid flow s) := by
  unfold execFlowAbort
  try dsimp only
  repeat' with_reducible first | assumption | apply State.command_only (Sect.sub rfl hl) | apply State.failFlow_only (Sect.sub rfl hl) | apply State.settleAll_only (Sect.sub rfl hl) | apply Res.next_only | apply Res.ite_only | apply State.ite_only | (intro _ _ _ _) | (intro _ _ _) | (intro _; rfl) | (intro _; apply map_map_same; intro _; rfl) | (intro _; apply map_mapIf; intro _; rfl) | (refine State.fst_only (by assumption) ?_) | split | dsimp only | (intro _; split <;> rfl) | (intro _; (repeat' split) <;> rfl)

theorem execFlowUnload_only (hl : [Sect.out, Sect.od, Sect.nvq, Sect.req, Sect.ep, Sect.stn, Sect.sw, Sect.mgt] ⊆ sl) (h : State.Only sl s0 s) (o : Origin) (pid flow : Nat) :
    Res.Only sl s0 (execFlowUnload o pid flow s) := by
  unfold execFlowUnload
  try dsimp only
  repeat' with_reducible first | assumption | apply State.command_only (Sect.sub rfl hl) | apply State.setFlow_only (Sect.sub rfl hl) | apply State.removeFlow_only (Sect.sub rfl hl) | apply Res.next_only | apply Res.ite_only | apply State.ite_only | (intro _ _ _ _) | (intro _ _ _) | (intro _; rfl) | (intro _; apply map_map_same; intro _; rfl) | (intro _; apply map_mapIf; intro _; rfl) | (refine State.fst_only (by assumption) ?_) | split | dsimp only | (intro _; split <;> rfl) | (intro _; (repeat' split) <;> rfl)

theorem execFlowDone_only (hl : Sect.wide ⊆ sl) (h : State.Only sl s0 s) (pid flow : Nat) :
    Res.Only sl s0 (execFlowDone pid flow s) := by
  unfold execFlowDone
  try dsimp only
  repeat' with_reducible first | assumption | apply State.setFlow_only (Sect.sub rfl hl) | apply State.settleAll_only (Sect.sub rfl hl) | apply Res.next_only | apply Res.ite_only | apply State.ite_only | (intro _ _ _ _) | (intro _ _ _) | (intro _; rfl) | (intro _; apply map_map_same; intro _; rfl) | (intro _; apply map_mapIf; intro _; rfl) | (refine State.fst_only (by assumption) ?_) | split | dsimp only | (intro _; split <;> rfl) | (intro _; (repeat' split) <;> rfl)

theorem execStreamTileArrival_only (hl : Sect.wide ⊆ sl) (h : State.Only sl s0 s) (pid flow sid consumer : Nat) (t : Tile) (src : Nat) :
    Res.Only sl s0 (execStreamTileArrival pid flow sid consumer t src s) := by
  unfold execStreamTileArrival
  try dsimp only
  repeat' with_reducible first | assumption | apply State.tileArrive_only (Sect.sub rfl hl) | apply State.settleAll_only (Sect.sub rfl hl) | apply Res.next_only | apply Res.ite_only | apply State.ite_only | (intro _ _ _ _) | (intro _ _ _) | (intro _; rfl) | (intro _; apply map_map_same; intro _; rfl) | (intro _; apply map_mapIf; intro _; rfl) | (refine State.fst_only (by assumption) ?_) | split | dsimp only | (intro _; split <;> rfl) | (intro _; (repeat' split) <;> rfl)

theorem execSpillReadback_only (hl : Sect.wide ⊆ sl) (h : State.Only sl s0 s) (pid flow sid consumer : Nat) :
    Res.Only sl s0 (execSpillReadback pid flow sid consumer s) := by
  unfold execSpillReadback
  try dsimp only
  repeat' with_reducible first | assumption | apply State.readBack_only (Sect.sub rfl hl) | apply State.settleAll_only (Sect.sub rfl hl) | apply Res.next_only | apply Res.ite_only | apply State.ite_only | (intro _ _ _ _) | (intro _ _ _) | (intro _; rfl) | (intro _; apply map_map_same; intro _; rfl) | (intro _; apply map_mapIf; intro _; rfl) | (refine State.fst_only (by assumption) ?_) | split | dsimp only | (intro _; split <;> rfl) | (intro _; (repeat' split) <;> rfl)

theorem execWatchdogExpiry_only (hl : Sect.wide ⊆ sl) (h : State.Only sl s0 s) (who : InstRef) (input : Nat) :
    Res.Only sl s0 (execWatchdogExpiry who input s) := by
  unfold execWatchdogExpiry
  try dsimp only
  repeat' with_reducible first | assumption | apply State.failStation_only (Sect.sub rfl hl) | apply State.settleAll_only (Sect.sub rfl hl) | apply Res.next_only | apply Res.ite_only | apply State.ite_only | (intro _ _ _ _) | (intro _ _ _) | (intro _; rfl) | (intro _; apply map_map_same; intro _; rfl) | (intro _; apply map_mapIf; intro _; rfl) | (refine State.fst_only (by assumption) ?_) | split | dsimp only | (intro _; split <;> rfl) | (intro _; (repeat' split) <;> rfl)

theorem State.noteClusters_only (hl : [Sect.od] ⊆ sl) (h : State.Only sl s0 s) (sd : Nat) :
    State.Only sl s0 (State.noteClusters s sd) := by
  unfold State.noteClusters
  try dsimp only
  repeat' with_reducible first | assumption | apply State.wr_only (Sect.sub rfl hl) | apply State.ite_only | (intro _ _ _ _) | (intro _ _ _) | (intro _; rfl) | (intro _; apply map_map_same; intro _; rfl) | (intro _; apply map_mapIf; intro _; rfl) | (refine State.fst_only (by assumption) ?_) | split | dsimp only | (intro _; split <;> rfl) | (intro _; (repeat' split) <;> rfl)

theorem State.startRetire_only (hl : [Sect.out, Sect.od, Sect.xl, Sect.req, Sect.home, Sect.ep, Sect.stn, Sect.sw, Sect.dlv, Sect.lnk, Sect.mgt] ⊆ sl) (h : State.Only sl s0 s) (sd cl co : Nat) :
    State.Only sl s0 (State.startRetire s sd cl co) := by
  unfold State.startRetire
  try dsimp only
  repeat' with_reducible first | assumption | apply State.setCoreSt_only (Sect.sub rfl hl) | apply State.mapStn_only (Sect.sub rfl hl) | apply State.logFault_only (Sect.sub rfl hl) | apply State.each_only | apply State.failStation_only (Sect.sub rfl hl) | apply State.noteClusters_only (Sect.sub rfl hl) | apply State.ite_only | (intro _ _ _ _) | (intro _ _ _) | (intro _; rfl) | (intro _; apply map_map_same; intro _; rfl) | (intro _; apply map_mapIf; intro _; rfl) | (refine State.fst_only (by assumption) ?_) | split | dsimp only | (intro _; split <;> rfl) | (intro _; (repeat' split) <;> rfl)

theorem State.nextRetire_only (hl : [Sect.out, Sect.od, Sect.xl, Sect.req, Sect.home, Sect.ep, Sect.stn, Sect.sw, Sect.dlv, Sect.lnk, Sect.mgt] ⊆ sl) (h : State.Only sl s0 s) (sd cl : Nat) :
    State.Only sl s0 (State.nextRetire s sd cl) := by
  unfold State.nextRetire
  try dsimp only
  repeat' with_reducible first | assumption | apply State.startRetire_only (Sect.sub rfl hl) | apply State.ite_only | (intro _ _ _ _) | (intro _ _ _) | (intro _; rfl) | (intro _; apply map_map_same; intro _; rfl) | (intro _; apply map_mapIf; intro _; rfl) | (refine State.fst_only (by assumption) ?_) | split | dsimp only | (intro _; split <;> rfl) | (intro _; (repeat' split) <;> rfl)

theorem State.mismatch_only (hl : Sect.wide ⊆ sl) (h : State.Only sl s0 s) (i : Inst) (n : Nat) :
    State.Only sl s0 (State.mismatch s i n) := by
  unfold State.mismatch
  try dsimp only
  repeat' with_reducible first | assumption | apply State.logFault_only (Sect.sub rfl hl) | apply State.bump_only (Sect.sub rfl hl) | apply State.setInst_only (Sect.sub rfl hl) | apply State.clusterEv_only (Sect.sub rfl hl) | apply State.slots_only (Sect.sub rfl hl) | apply State.startRetire_only (Sect.sub rfl hl) | apply State.settleAll_only (Sect.sub rfl hl) | apply State.ite_only | (intro _ _ _ _) | (intro _ _ _) | (intro _; rfl) | (intro _; apply map_map_same; intro _; rfl) | (intro _; apply map_mapIf; intro _; rfl) | (refine State.fst_only (by assumption) ?_) | split | dsimp only | (intro _; split <;> rfl) | (intro _; (repeat' split) <;> rfl)

theorem State.sramError_only (hl : [Sect.stn] ⊆ sl) (h : State.Only sl s0 s) (i : Inst) :
    State.Only sl s0 (State.sramError s i) := by
  unfold State.sramError
  try dsimp only
  repeat' with_reducible first | assumption | apply State.setInst_only (Sect.sub rfl hl) | apply State.setCons_only (Sect.sub rfl hl) | apply State.setCoreSt_only (Sect.sub rfl hl) | apply State.ite_only | (intro _ _ _ _) | (intro _ _ _) | (intro _; rfl) | (intro _; apply map_map_same; intro _; rfl) | (intro _; apply map_mapIf; intro _; rfl) | (refine State.fst_only (by assumption) ?_) | split | dsimp only | (intro _; split <;> rfl) | (intro _; (repeat' split) <;> rfl)

theorem execResidueMismatch_only (hl : Sect.wide ⊆ sl) (h : State.Only sl s0 s) (who : InstRef) :
    Res.Only sl s0 (execResidueMismatch who s) := by
  unfold execResidueMismatch
  try dsimp only
  repeat' with_reducible first | assumption | apply State.mismatch_only (Sect.sub rfl hl) | apply State.sramError_only (Sect.sub rfl hl) | apply Res.next_only | apply Res.ite_only | apply State.ite_only | (intro _ _ _ _) | (intro _ _ _) | (intro _; rfl) | (intro _; apply map_map_same; intro _; rfl) | (intro _; apply map_mapIf; intro _; rfl) | (refine State.fst_only (by assumption) ?_) | split | dsimp only | (intro _; split <;> rfl) | (intro _; (repeat' split) <;> rfl)

theorem State.retired_only (hl : [Sect.od, Sect.mgt] ⊆ sl) (h : State.Only sl s0 s) (kind sd cl co : Nat) :
    State.Only sl s0 (State.retired s kind sd cl co) := by
  unfold State.retired
  try dsimp only
  repeat' with_reducible first | assumption | apply State.bump_only (Sect.sub rfl hl) | apply State.logFault_only (Sect.sub rfl hl) | apply State.ite_only | (intro _ _ _ _) | (intro _ _ _) | (intro _; rfl) | (intro _; apply map_map_same; intro _; rfl) | (intro _; apply map_mapIf; intro _; rfl) | (refine State.fst_only (by assumption) ?_) | split | dsimp only | (intro _; split <;> rfl) | (intro _; (repeat' split) <;> rfl)

theorem execEngineRetirementComplete_only (hl : [Sect.out, Sect.od, Sect.xl, Sect.req, Sect.home, Sect.ep, Sect.stn, Sect.sw, Sect.dlv, Sect.lnk, Sect.mgt] ⊆ sl) (h : State.Only sl s0 s) (sd cluster core : Nat) :
    Res.Only sl s0 (execEngineRetirementComplete sd cluster core s) := by
  unfold execEngineRetirementComplete
  try dsimp only
  repeat' with_reducible first | assumption | apply State.setCoreSt_only (Sect.sub rfl hl) | apply State.retired_only (Sect.sub rfl hl) | apply State.nextRetire_only (Sect.sub rfl hl) | apply Res.next_only | apply Res.ite_only | apply State.ite_only | (intro _ _ _ _) | (intro _ _ _) | (intro _; rfl) | (intro _; apply map_map_same; intro _; rfl) | (intro _; apply map_mapIf; intro _; rfl) | (refine State.fst_only (by assumption) ?_) | split | dsimp only | (intro _; split <;> rfl) | (intro _; (repeat' split) <;> rfl)

theorem State.moveCores_only (hl : [Sect.req, Sect.stn] ⊆ sl) (h : State.Only sl s0 s) (g : Nat → Nat → Nat → Place) :
    State.Only sl s0 (State.moveCores s g) := by
  unfold State.moveCores
  try dsimp only
  repeat' with_reducible first | assumption | apply State.mapStn_only (Sect.sub rfl hl) | apply State.mapReq_only (Sect.sub rfl hl) | apply State.ite_only | (intro _ _ _ _) | (intro _ _ _) | (intro _; rfl) | (intro _; apply map_map_same; intro _; rfl) | (intro _; apply map_mapIf; intro _; rfl) | (refine State.fst_only (by assumption) ?_) | split | dsimp only | (intro _; split <;> rfl) | (intro _; (repeat' split) <;> rfl)

theorem execCoreRetirementComplete_only (hl : [Sect.out, Sect.od, Sect.xl, Sect.req, Sect.home, Sect.ep, Sect.stn, Sect.sw, Sect.dlv, Sect.lnk, Sect.mgt] ⊆ sl) (h : State.Only sl s0 s) (sd cluster core : Nat) :
    Res.Only sl s0 (execCoreRetirementComplete sd cluster core s) := by
  unfold execCoreRetirementComplete
  try dsimp only
  repeat' with_reducible first | assumption | apply State.setCoreSt_only (Sect.sub rfl hl) | apply State.moveCores_only (Sect.sub rfl hl) | apply State.retired_only (Sect.sub rfl hl) | apply State.nextRetire_only (Sect.sub rfl hl) | apply Res.next_only | apply Res.ite_only | apply State.ite_only | (intro _ _ _ _) | (intro _ _ _) | (intro _; rfl) | (intro _; apply map_map_same; intro _; rfl) | (intro _; apply map_mapIf; intro _; rfl) | (refine State.fst_only (by assumption) ?_) | split | dsimp only | (intro _; split <;> rfl) | (intro _; (repeat' split) <;> rfl)

theorem execClusterRetirementComplete_only (hl : [Sect.out, Sect.od, Sect.xl, Sect.req, Sect.home, Sect.ep, Sect.stn, Sect.sw, Sect.dlv, Sect.lnk, Sect.mgt] ⊆ sl) (h : State.Only sl s0 s) (sd cluster : Nat) :
    Res.Only sl s0 (execClusterRetirementComplete sd cluster s) := by
  unfold execClusterRetirementComplete
  try dsimp only
  repeat' with_reducible first | assumption | apply State.mapStn_only (Sect.sub rfl hl) | apply State.moveCores_only (Sect.sub rfl hl) | apply State.retired_only (Sect.sub rfl hl) | apply State.nextRetire_only (Sect.sub rfl hl) | apply Res.next_only | apply Res.ite_only | apply State.ite_only | (intro _ _ _ _) | (intro _ _ _) | (intro _; rfl) | (intro _; apply map_map_same; intro _; rfl) | (intro _; apply map_mapIf; intro _; rfl) | (refine State.fst_only (by assumption) ?_) | split | dsimp only | (intro _; split <;> rfl) | (intro _; (repeat' split) <;> rfl)

theorem execCoreZeroingComplete_only (hl : [Sect.stn] ⊆ sl) (h : State.Only sl s0 s) (sd cluster core : Nat) :
    Res.Only sl s0 (execCoreZeroingComplete sd cluster core s) := by
  unfold execCoreZeroingComplete
  try dsimp only
  repeat' with_reducible first | assumption | apply State.setCoreSt_only (Sect.sub rfl hl) | apply Res.next_only | apply Res.ite_only | apply State.ite_only | (intro _ _ _ _) | (intro _ _ _) | (intro _; rfl) | (intro _; apply map_map_same; intro _; rfl) | (intro _; apply map_mapIf; intro _; rfl) | (refine State.fst_only (by assumption) ?_) | split | dsimp only | (intro _; split <;> rfl) | (intro _; (repeat' split) <;> rfl)

end Sys2Proof.Machine
end

