-- ==== Sys2Proof/Laws/OnlyTick.lean ====
section
/-! SUPPORT. `State.Only` for every operation and meaning of Machine/Tick.lean: the sections that it may change. -/

namespace Sys2Proof.Machine

open Sys2Proof

set_option Elab.async false

set_option linter.unreachableTactic false
set_option linter.unusedTactic false

variable {s0 s : State} {sl : List Sect}

theorem State.advance_only (hl : [Sect.tim] ⊆ sl) (h : State.Only sl s0 s)  :
    State.Only sl s0 (State.advance s) := by
  unfold State.advance
  try dsimp only
  repeat' with_reducible first | assumption | apply State.mapTim_only (Sect.sub rfl hl) | apply State.ite_only | (intro _ _ _ _) | (intro _ _ _) | (intro _; rfl) | (intro _; apply map_map_same; intro _; rfl) | (intro _; apply map_mapIf; intro _; rfl) | (refine State.fst_only (by assumption) ?_) | split | dsimp only | (intro _; split <;> rfl) | (intro _; (repeat' split) <;> rfl)

theorem State.weirFill_only (hl : [Sect.req] ⊆ sl) (h : State.Only sl s0 s)  :
    State.Only sl s0 (State.weirFill s) := by
  unfold State.weirFill
  try dsimp only
  repeat' with_reducible first | assumption | apply State.mapReq_only (Sect.sub rfl hl) | apply State.ite_only | (intro _ _ _ _) | (intro _ _ _) | (intro _; rfl) | (intro _; apply map_map_same; intro _; rfl) | (intro _; apply map_mapIf; intro _; rfl) | (refine State.fst_only (by assumption) ?_) | split | dsimp only | (intro _; split <;> rfl) | (intro _; (repeat' split) <;> rfl)

theorem State.waitSlots_only (hl : [Sect.od, Sect.mgt] ⊆ sl) (h : State.Only sl s0 s) (n : Nat) :
    State.Only sl s0 (State.waitSlots s n) := by
  unfold State.waitSlots
  try dsimp only
  repeat' with_reducible first | assumption | apply State.each_only | apply State.slots_only (Sect.sub rfl hl) | apply State.ite_only | (intro _ _ _ _) | (intro _ _ _) | (intro _; rfl) | (intro _; apply map_map_same; intro _; rfl) | (intro _; apply map_mapIf; intro _; rfl) | (refine State.fst_only (by assumption) ?_) | split | dsimp only | (intro _; split <;> rfl) | (intro _; (repeat' split) <;> rfl)

theorem State.clusterClocks_only (hl : [Sect.od, Sect.mgt] ⊆ sl) (h : State.Only sl s0 s) (n : Nat) :
    State.Only sl s0 (State.clusterClocks s n) := by
  unfold State.clusterClocks
  try dsimp only
  repeat' with_reducible first | assumption | apply State.each_only | apply State.bump64_only (Sect.sub rfl hl) | apply State.waitSlots_only (Sect.sub rfl hl) | apply State.ite_only | (intro _ _ _ _) | (intro _ _ _) | (intro _; rfl) | (intro _; apply map_map_same; intro _; rfl) | (intro _; apply map_mapIf; intro _; rfl) | (refine State.fst_only (by assumption) ?_) | split | dsimp only | (intro _; split <;> rfl) | (intro _; (repeat' split) <;> rfl)

theorem State.quadClocks_only (hl : [Sect.od, Sect.mgt] ⊆ sl) (h : State.Only sl s0 s) (n : Nat) :
    State.Only sl s0 (State.quadClocks s n) := by
  unfold State.quadClocks
  try dsimp only
  repeat' with_reducible first | assumption | apply State.each_only | apply State.bump64_only (Sect.sub rfl hl) | apply State.quadEv_only (Sect.sub rfl hl) | apply State.ite_only | (intro _ _ _ _) | (intro _ _ _) | (intro _; rfl) | (intro _; apply map_map_same; intro _; rfl) | (intro _; apply map_mapIf; intro _; rfl) | (refine State.fst_only (by assumption) ?_) | split | dsimp only | (intro _; split <;> rfl) | (intro _; (repeat' split) <;> rfl)

theorem State.epClocks_only (hl : [Sect.od, Sect.mgt] ⊆ sl) (h : State.Only sl s0 s) (n : Nat) :
    State.Only sl s0 (State.epClocks s n) := by
  unfold State.epClocks
  try dsimp only
  repeat' with_reducible first | assumption | apply State.each_only | apply State.bump64_only (Sect.sub rfl hl) | apply State.epEv_only (Sect.sub rfl hl) | apply State.ite_only | (intro _ _ _ _) | (intro _ _ _) | (intro _; rfl) | (intro _; apply map_map_same; intro _; rfl) | (intro _; apply map_mapIf; intro _; rfl) | (refine State.fst_only (by assumption) ?_) | split | dsimp only | (intro _; split <;> rfl) | (intro _; (repeat' split) <;> rfl)

theorem State.clocks_only (hl : [Sect.od, Sect.tim, Sect.mgt] ⊆ sl) (h : State.Only sl s0 s)  :
    State.Only sl s0 (State.clocks s) := by
  unfold State.clocks
  try dsimp only
  repeat' with_reducible first | assumption | apply State.mapTim_only (Sect.sub rfl hl) | apply State.clusterClocks_only (Sect.sub rfl hl) | apply State.quadClocks_only (Sect.sub rfl hl) | apply State.epClocks_only (Sect.sub rfl hl) | apply State.ite_only | (intro _ _ _ _) | (intro _ _ _) | (intro _; rfl) | (intro _; apply map_map_same; intro _; rfl) | (intro _; apply map_mapIf; intro _; rfl) | (refine State.fst_only (by assumption) ?_) | split | dsimp only | (intro _; split <;> rfl) | (intro _; (repeat' split) <;> rfl)

theorem State.starveTick_only (hl : [Sect.stn] ⊆ sl) (h : State.Only sl s0 s)  :
    State.Only sl s0 (State.starveTick s) := by
  unfold State.starveTick
  try dsimp only
  repeat' with_reducible first | assumption | apply State.mapStn_only (Sect.sub rfl hl) | apply State.ite_only | (intro _ _ _ _) | (intro _ _ _) | (intro _; rfl) | (intro _; apply map_map_same; intro _; rfl) | (intro _; apply map_mapIf; intro _; rfl) | (refine State.fst_only (by assumption) ?_) | split | dsimp only | (intro _; split <;> rfl) | (intro _; (repeat' split) <;> rfl)

theorem State.tick_only (hl : [Sect.od, Sect.req, Sect.stn, Sect.tim, Sect.mgt] ⊆ sl) (h : State.Only sl s0 s)  :
    State.Only sl s0 (State.tick s) := by
  unfold State.tick
  try dsimp only
  repeat' with_reducible first | assumption | apply State.advance_only (Sect.sub rfl hl) | apply State.weirFill_only (Sect.sub rfl hl) | apply State.clocks_only (Sect.sub rfl hl) | apply State.starveTick_only (Sect.sub rfl hl) | apply State.ite_only | (intro _ _ _ _) | (intro _ _ _) | (intro _; rfl) | (intro _; apply map_map_same; intro _; rfl) | (intro _; apply map_mapIf; intro _; rfl) | (refine State.fst_only (by assumption) ?_) | split | dsimp only | (intro _; split <;> rfl) | (intro _; (repeat' split) <;> rfl)

end Sys2Proof.Machine
end

