-- ==== Sys2Proof/Laws/OnlyCounters.lean ====
section
/-! SUPPORT. `State.Only` for every operation and meaning of Machine/Counters.lean: the sections that it may change. -/

namespace Sys2Proof.Machine

open Sys2Proof

set_option Elab.async false

set_option linter.unreachableTactic false
set_option linter.unusedTactic false

variable {s0 s : State} {sl : List Sect}

theorem execCounterControlWrite_only (hl : Sect.toldOd ⊆ sl) (h : State.Only sl s0 s) (o : Origin) (bank n v : Nat) :
    Res.Only sl s0 (execCounterControlWrite o bank n v s) := by
  unfold execCounterControlWrite
  try dsimp only
  repeat' with_reducible first | assumption | apply State.commandIf_only (Sect.sub rfl hl) | apply State.settle_only (Sect.sub rfl hl) | apply State.wr_only (Sect.sub rfl hl) | apply State.clampRec_only (Sect.sub rfl hl) | apply Res.next_only | apply Res.ite_only | apply State.ite_only | (intro _ _ _ _) | (intro _ _ _) | (intro _; rfl) | (intro _; apply map_map_same; intro _; rfl) | (intro _; apply map_mapIf; intro _; rfl) | (refine State.fst_only (by assumption) ?_) | split | dsimp only | (intro _; split <;> rfl) | (intro _; (repeat' split) <;> rfl)

theorem execCounterWrite_only (hl : Sect.toldOd ⊆ sl) (h : State.Only sl s0 s) (o : Origin) (bank n v : Nat) :
    Res.Only sl s0 (execCounterWrite o bank n v s) := by
  unfold execCounterWrite
  try dsimp only
  repeat' with_reducible first | assumption | apply State.commandIf_only (Sect.sub rfl hl) | apply State.settle_only (Sect.sub rfl hl) | apply State.wr_only (Sect.sub rfl hl) | apply State.mapMgt_only (Sect.sub rfl hl) | apply Res.next_only | apply Res.ite_only | apply State.ite_only | (intro _ _ _ _) | (intro _ _ _) | (intro _; rfl) | (intro _; apply map_map_same; intro _; rfl) | (intro _; apply map_mapIf; intro _; rfl) | (refine State.fst_only (by assumption) ?_) | split | dsimp only | (intro _; split <;> rfl) | (intro _; (repeat' split) <;> rfl)

theorem execOvf_only (hl : Sect.toldOd ⊆ sl) (h : State.Only sl s0 s) (o : Origin) (bank v : Nat) :
    Res.Only sl s0 (execOvf o bank v s) := by
  unfold execOvf
  try dsimp only
  repeat' with_reducible first | assumption | apply State.commandIf_only (Sect.sub rfl hl) | apply State.wr_only (Sect.sub rfl hl) | apply Res.next_only | apply Res.ite_only | apply State.ite_only | (intro _ _ _ _) | (intro _ _ _) | (intro _; rfl) | (intro _; apply map_map_same; intro _; rfl) | (intro _; apply map_mapIf; intro _; rfl) | (refine State.fst_only (by assumption) ?_) | split | dsimp only | (intro _; split <;> rfl) | (intro _; (repeat' split) <;> rfl)

theorem State.ovfReport_only (hl : [Sect.out, Sect.od, Sect.mgt] ⊆ sl) (h : State.Only sl s0 s) (bank n : Nat) :
    State.Only sl s0 (State.ovfReport s bank n) := by
  unfold State.ovfReport
  try dsimp only
  repeat' with_reducible first | assumption | apply State.wr_only (Sect.sub rfl hl) | apply State.event_only (Sect.sub rfl hl) | apply State.mapMgt_only (Sect.sub rfl hl) | apply State.report_only (Sect.sub rfl hl) | apply State.ite_only | (intro _ _ _ _) | (intro _ _ _) | (intro _; rfl) | (intro _; apply map_map_same; intro _; rfl) | (intro _; apply map_mapIf; intro _; rfl) | (refine State.fst_only (by assumption) ?_) | split | dsimp only | (intro _; split <;> rfl) | (intro _; (repeat' split) <;> rfl)

theorem State.sample_only (hl : [Sect.od, Sect.mem, Sect.poison, Sect.written, Sect.mgt] ⊆ sl) (h : State.Only sl s0 s) (bank n ev : Nat) (c : Occurrence) :
    State.Only sl s0 (State.sample s bank n ev c) := by
  unfold State.sample
  try dsimp only
  repeat' with_reducible first | assumption | apply State.bump_only (Sect.sub rfl hl) | apply State.store_only (Sect.sub rfl hl) | apply State.wr_only (Sect.sub rfl hl) | apply State.mapMgt_only (Sect.sub rfl hl) | apply State.ite_only | (intro _ _ _ _) | (intro _ _ _) | (intro _; rfl) | (intro _; apply map_map_same; intro _; rfl) | (intro _; apply map_mapIf; intro _; rfl) | (refine State.fst_only (by assumption) ?_) | split | dsimp only | (intro _; split <;> rfl) | (intro _; (repeat' split) <;> rfl)

theorem execCounterOverflow_only (hl : [Sect.out, Sect.od, Sect.mem, Sect.poison, Sect.written, Sect.mgt] ⊆ sl) (h : State.Only sl s0 s) (bank n : Nat) (occ : Occurrence) :
    Res.Only sl s0 (execCounterOverflow bank n occ s) := by
  unfold execCounterOverflow
  try dsimp only
  repeat' with_reducible first | assumption | apply State.mapMgt_only (Sect.sub rfl hl) | apply State.ovfReport_only (Sect.sub rfl hl) | apply State.sample_only (Sect.sub rfl hl) | apply Res.next_only | apply Res.ite_only | apply State.ite_only | (intro _ _ _ _) | (intro _ _ _) | (intro _; rfl) | (intro _; apply map_map_same; intro _; rfl) | (intro _; apply map_mapIf; intro _; rfl) | (refine State.fst_only (by assumption) ?_) | split | dsimp only | (intro _; split <;> rfl) | (intro _; (repeat' split) <;> rfl)

theorem execSnapAt_only (hl : Sect.toldOd ⊆ sl) (h : State.Only sl s0 s) (o : Origin) (ts : Nat) :
    Res.Only sl s0 (execSnapAt o ts s) := by
  unfold execSnapAt
  try dsimp only
  repeat' with_reducible first | assumption | apply State.command_only (Sect.sub rfl hl) | apply State.mapMgt_only (Sect.sub rfl hl) | apply State.wr_only (Sect.sub rfl hl) | apply Res.next_only | apply Res.ite_only | apply State.ite_only | (intro _ _ _ _) | (intro _ _ _) | (intro _; rfl) | (intro _; apply map_map_same; intro _; rfl) | (intro _; apply map_mapIf; intro _; rfl) | (refine State.fst_only (by assumption) ?_) | split | dsimp only | (intro _; split <;> rfl) | (intro _; (repeat' split) <;> rfl)

theorem State.snapBank_only (hl : [Sect.od] ⊆ sl) (h : State.Only sl s0 s) (b : Nat) :
    State.Only sl s0 (State.snapBank s b) := by
  unfold State.snapBank
  try dsimp only
  repeat' with_reducible first | assumption | apply State.wr_only (Sect.sub rfl hl) | apply State.each_only | apply State.ite_only | (intro _ _ _ _) | (intro _ _ _) | (intro _; rfl) | (intro _; apply map_map_same; intro _; rfl) | (intro _; apply map_mapIf; intro _; rfl) | (refine State.fst_only (by assumption) ?_) | split | dsimp only | (intro _; split <;> rfl) | (intro _; (repeat' split) <;> rfl)

theorem execSnapshotTaken_only (hl : [Sect.od, Sect.mgt] ⊆ sl) (h : State.Only sl s0 s)  :
    Res.Only sl s0 (execSnapshotTaken s) := by
  unfold execSnapshotTaken
  try dsimp only
  repeat' with_reducible first | assumption | apply State.each_only | apply State.snapBank_only (Sect.sub rfl hl) | apply State.mapMgt_only (Sect.sub rfl hl) | apply State.wr_only (Sect.sub rfl hl) | apply Res.next_only | apply Res.ite_only | apply State.ite_only | (intro _ _ _ _) | (intro _ _ _) | (intro _; rfl) | (intro _; apply map_map_same; intro _; rfl) | (intro _; apply map_mapIf; intro _; rfl) | (refine State.fst_only (by assumption) ?_) | split | dsimp only | (intro _; split <;> rfl) | (intro _; (repeat' split) <;> rfl)

theorem execSampleRingBase_only (hl : Sect.toldOd ⊆ sl) (h : State.Only sl s0 s) (o : Origin) (v : Nat) :
    Res.Only sl s0 (execSampleRingBase o v s) := by
  unfold execSampleRingBase
  try dsimp only
  repeat' with_reducible first | assumption | apply State.command_only (Sect.sub rfl hl) | apply State.writePlain_only (Sect.sub rfl hl) | apply Res.next_only | apply Res.ite_only | apply State.ite_only | (intro _ _ _ _) | (intro _ _ _) | (intro _; rfl) | (intro _; apply map_map_same; intro _; rfl) | (intro _; apply map_mapIf; intro _; rfl) | (refine State.fst_only (by assumption) ?_) | split | dsimp only | (intro _; split <;> rfl) | (intro _; (repeat' split) <;> rfl)

end Sys2Proof.Machine
end

