-- ==== Sys2Proof/Laws/OnlyFaults.lean ====
section
/-! SUPPORT. `State.Only` for every operation and meaning of Machine/Faults.lean: the sections that it may change. -/

namespace Sys2Proof.Machine

open Sys2Proof

set_option Elab.async false

set_option linter.unreachableTactic false
set_option linter.unusedTactic false

variable {s0 s : State} {sl : List Sect}

theorem execStationDieFault_only (hl : Sect.wide ⊆ sl) (h : State.Only sl s0 s) (sd : Nat) :
    Res.Only sl s0 (execStationDieFault sd s) := by
  unfold execStationDieFault
  try dsimp only
  repeat' with_reducible first | assumption | apply State.logFault_only (Sect.sub rfl hl) | apply State.dieFails_only (Sect.sub rfl hl) | apply State.settleAll_only (Sect.sub rfl hl) | apply Res.next_only | apply Res.ite_only | apply State.ite_only | (intro _ _ _ _) | (intro _ _ _) | (intro _; rfl) | (intro _; apply map_map_same; intro _; rfl) | (intro _; apply map_mapIf; intro _; rfl) | (refine State.fst_only (by assumption) ?_) | split | dsimp only | (intro _; split <;> rfl) | (intro _; (repeat' split) <;> rfl)

theorem State.loseQueues_only (hl : [Sect.out, Sect.req, Sect.ep, Sect.mgt] ⊆ sl) (h : State.Only sl s0 s) (ep : Nat) :
    State.Only sl s0 (State.loseQueues s ep) := by
  unfold State.loseQueues
  try dsimp only
  repeat' with_reducible first | assumption | apply State.mapEp_only (Sect.sub rfl hl) | apply State.each_only | apply State.reply_only (Sect.sub rfl hl) | apply State.dropTx_only (Sect.sub rfl hl) | apply State.mapReq_only (Sect.sub rfl hl) | apply State.ite_only | (intro _ _ _ _) | (intro _ _ _) | (intro _; rfl) | (intro _; apply map_map_same; intro _; rfl) | (intro _; apply map_mapIf; intro _; rfl) | (refine State.fst_only (by assumption) ?_) | split | dsimp only | (intro _; split <;> rfl) | (intro _; (repeat' split) <;> rfl)

theorem State.loseXlate_only (hl : [Sect.xl] ⊆ sl) (h : State.Only sl s0 s) (ep : Nat) :
    State.Only sl s0 (State.loseXlate s ep) := by
  unfold State.loseXlate
  try dsimp only
  repeat' with_reducible first | assumption | apply State.mapXl_only (Sect.sub rfl hl) | apply State.ite_only | (intro _ _ _ _) | (intro _ _ _) | (intro _; rfl) | (intro _; apply map_map_same; intro _; rfl) | (intro _; apply map_mapIf; intro _; rfl) | (refine State.fst_only (by assumption) ?_) | split | dsimp only | (intro _; split <;> rfl) | (intro _; (repeat' split) <;> rfl)

theorem State.loseAtoms_only (hl : [Sect.out, Sect.od, Sect.xl, Sect.req, Sect.ep, Sect.lnk, Sect.mgt] ⊆ sl) (h : State.Only sl s0 s) (ep : Nat) :
    State.Only sl s0 (State.loseAtoms s ep) := by
  unfold State.loseAtoms
  try dsimp only
  repeat' with_reducible first | assumption | apply State.mapReq_only (Sect.sub rfl hl) | apply State.each_only | apply State.completeTx_only (Sect.sub rfl hl) | apply State.ite_only | (intro _ _ _ _) | (intro _ _ _) | (intro _; rfl) | (intro _; apply map_map_same; intro _; rfl) | (intro _; apply map_mapIf; intro _; rfl) | (refine State.fst_only (by assumption) ?_) | split | dsimp only | (intro _; split <;> rfl) | (intro _; (repeat' split) <;> rfl)

theorem execEpDieFault_only (hl : Sect.wide ⊆ sl) (h : State.Only sl s0 s) (ep : Nat) :
    Res.Only sl s0 (execEpDieFault ep s) := by
  unfold execEpDieFault
  try dsimp only
  repeat' with_reducible first | assumption | apply State.logFault_only (Sect.sub rfl hl) | apply State.each_only | apply State.apDown_only (Sect.sub rfl hl) | apply State.cpDown_only (Sect.sub rfl hl) | apply State.dieFails_only (Sect.sub rfl hl) | apply State.loseAtoms_only (Sect.sub rfl hl) | apply State.loseQueues_only (Sect.sub rfl hl) | apply State.loseXlate_only (Sect.sub rfl hl) | apply State.mapEp_only (Sect.sub rfl hl) | apply State.settleAll_only (Sect.sub rfl hl) | apply Res.next_only | apply Res.ite_only | apply State.ite_only | (intro _ _ _ _) | (intro _ _ _) | (intro _; rfl) | (intro _; apply map_map_same; intro _; rfl) | (intro _; apply map_mapIf; intro _; rfl) | (refine State.fst_only (by assumption) ?_) | split | dsimp only | (intro _; split <;> rfl) | (intro _; (repeat' split) <;> rfl)

theorem execOeDieFault_only (hl : Sect.wide ⊆ sl) (h : State.Only sl s0 s) (oe : Nat) :
    Res.Only sl s0 (execOeDieFault oe s) := by
  unfold execOeDieFault
  try dsimp only
  repeat' with_reducible first | assumption | apply State.logFault_only (Sect.sub rfl hl) | apply State.mapLnk_only (Sect.sub rfl hl) | apply State.fpDown_only (Sect.sub rfl hl) | apply State.settleAll_only (Sect.sub rfl hl) | apply Res.next_only | apply Res.ite_only | apply State.ite_only | (intro _ _ _ _) | (intro _ _ _) | (intro _; rfl) | (intro _; apply map_map_same; intro _; rfl) | (intro _; apply map_mapIf; intro _; rfl) | (refine State.fst_only (by assumption) ?_) | split | dsimp only | (intro _; split <;> rfl) | (intro _; (repeat' split) <;> rfl)

theorem execManagementLinkDown_only (hl : [Sect.od, Sect.mgt] ⊆ sl) (h : State.Only sl s0 s) (portB : Bool) :
    Res.Only sl s0 (execManagementLinkDown portB s) := by
  unfold execManagementLinkDown
  try dsimp only
  repeat' with_reducible first | assumption | apply State.wr_only (Sect.sub rfl hl) | apply State.logFault_only (Sect.sub rfl hl) | apply Res.next_only | apply Res.ite_only | apply State.ite_only | (intro _ _ _ _) | (intro _ _ _) | (intro _; rfl) | (intro _; apply map_map_same; intro _; rfl) | (intro _; apply map_mapIf; intro _; rfl) | (refine State.fst_only (by assumption) ?_) | split | dsimp only | (intro _; split <;> rfl) | (intro _; (repeat' split) <;> rfl)

theorem execManagementLinkUp_only (hl : [Sect.od] ⊆ sl) (h : State.Only sl s0 s) (portB : Bool) :
    Res.Only sl s0 (execManagementLinkUp portB s) := by
  unfold execManagementLinkUp
  try dsimp only
  repeat' with_reducible first | assumption | apply State.wr_only (Sect.sub rfl hl) | apply Res.next_only | apply Res.ite_only | apply State.ite_only | (intro _ _ _ _) | (intro _ _ _) | (intro _; rfl) | (intro _; apply map_map_same; intro _; rfl) | (intro _; apply map_mapIf; intro _; rfl) | (refine State.fst_only (by assumption) ?_) | split | dsimp only | (intro _; split <;> rfl) | (intro _; (repeat' split) <;> rfl)

end Sys2Proof.Machine
end

