-- ==== Sys2Proof/Laws/OnlyShadow.lean ====
section
/-! SUPPORT. `State.Only` for every operation and meaning of Machine/Shadow.lean: the sections that it may change. -/

namespace Sys2Proof.Machine

open Sys2Proof

set_option Elab.async false

set_option linter.unreachableTactic false
set_option linter.unusedTactic false

variable {s0 s : State} {sl : List Sect}

theorem execShadowPartner_only (hl : [Sect.out, Sect.od, Sect.nvq, Sect.ep, Sect.mgt, Sect.shd] ⊆ sl) (h : State.Only sl s0 s) (o : Origin) (v : Nat) :
    Res.Only sl s0 (execShadowPartner o v s) := by
  unfold execShadowPartner
  try dsimp only
  repeat' with_reducible first | assumption | apply State.command_only (Sect.sub rfl hl) | apply State.settle_only (Sect.sub rfl hl) | apply State.wr_only (Sect.sub rfl hl) | apply State.shadowRestart_only (Sect.sub rfl hl) | apply Res.next_only | apply Res.ite_only | apply State.ite_only | (intro _ _ _ _) | (intro _ _ _) | (intro _; rfl) | (intro _; apply map_map_same; intro _; rfl) | (intro _; apply map_mapIf; intro _; rfl) | (refine State.fst_only (by assumption) ?_) | split | dsimp only | (intro _; split <;> rfl) | (intro _; (repeat' split) <;> rfl)

theorem State.stationOut_only (hl : [Sect.shd] ⊆ sl) (h : State.Only sl s0 s) (who : InstRef) :
    State.Only sl s0 (State.stationOut s who) := by
  unfold State.stationOut
  try dsimp only
  repeat' with_reducible first | assumption | apply State.mapShd_only (Sect.sub rfl hl) | apply State.ite_only | (intro _ _ _ _) | (intro _ _ _) | (intro _; rfl) | (intro _; apply map_map_same; intro _; rfl) | (intro _; apply map_mapIf; intro _; rfl) | (refine State.fst_only (by assumption) ?_) | split | dsimp only | (intro _; split <;> rfl) | (intro _; (repeat' split) <;> rfl)

theorem execShadowFeedTile_only (hl : Sect.wide ⊆ sl) (h : State.Only sl s0 s) (pid flow index input : Nat) (t : Tile) :
    Res.Only sl s0 (execShadowFeedTile pid flow index input t s) := by
  unfold execShadowFeedTile
  try dsimp only
  repeat' with_reducible first | assumption | apply State.station_only (Sect.sub rfl hl) | apply State.intoBuf_only (Sect.sub rfl hl) | apply State.setCons_only (Sect.sub rfl hl) | apply State.settleAll_only (Sect.sub rfl hl) | apply State.stationOut_only (Sect.sub rfl hl) | apply Res.next_only | apply Res.ite_only | apply State.ite_only | (intro _ _ _ _) | (intro _ _ _) | (intro _; rfl) | (intro _; apply map_map_same; intro _; rfl) | (intro _; apply map_mapIf; intro _; rfl) | apply StnEnd.go_only | apply StnEnd.jump_only | apply StnEnd.stay_only | apply StnEnd.fail_only | apply StnEnd.ite_only | (unfold StnEnd.bad; apply StnEnd.fail_only) | (refine State.fst_only (by assumption) ?_) | split | dsimp only | (intro _; split <;> rfl) | (intro _; (repeat' split) <;> rfl)

theorem State.skipBefore_only (hl : [Sect.shd] ⊆ sl) (h : State.Only sl s0 s) (k : TileKey) :
    State.Only sl s0 (State.skipBefore s k) := by
  unfold State.skipBefore
  try dsimp only
  repeat' with_reducible first | assumption | apply State.mapShd_only (Sect.sub rfl hl) | apply State.ite_only | (intro _ _ _ _) | (intro _ _ _) | (intro _; rfl) | (intro _; apply map_map_same; intro _; rfl) | (intro _; apply map_mapIf; intro _; rfl) | (refine State.fst_only (by assumption) ?_) | split | dsimp only | (intro _; split <;> rfl) | (intro _; (repeat' split) <;> rfl)

theorem execShadowDigest_only (hl : Sect.wide ⊆ sl) (h : State.Only sl s0 s) (k : TileKey) (digest : Nat) :
    Res.Only sl s0 (execShadowDigest k digest s) := by
  unfold execShadowDigest
  try dsimp only
  repeat' with_reducible first | assumption | apply State.skipBefore_only (Sect.sub rfl hl) | apply State.mapShd_only (Sect.sub rfl hl) | apply State.comparePair_only (Sect.sub rfl hl) | apply State.settleAll_only (Sect.sub rfl hl) | apply Res.next_only | apply Res.ite_only | apply State.ite_only | (intro _ _ _ _) | (intro _ _ _) | (intro _; rfl) | (intro _; apply map_map_same; intro _; rfl) | (intro _; apply map_mapIf; intro _; rfl) | (refine State.fst_only (by assumption) ?_) | split | dsimp only | (intro _; split <;> rfl) | (intro _; (repeat' split) <;> rfl)

theorem execShadowPass_only (hl : [Sect.od, Sect.shd] ⊆ sl) (h : State.Only sl s0 s)  :
    Res.Only sl s0 (execShadowPass s) := by
  unfold execShadowPass
  try dsimp only
  repeat' with_reducible first | assumption | apply State.mapShd_only (Sect.sub rfl hl) | apply State.wr_only (Sect.sub rfl hl) | apply Res.next_only | apply Res.ite_only | apply State.ite_only | (intro _ _ _ _) | (intro _ _ _) | (intro _; rfl) | (intro _; apply map_map_same; intro _; rfl) | (intro _; apply map_mapIf; intro _; rfl) | (refine State.fst_only (by assumption) ?_) | split | dsimp only | (intro _; split <;> rfl) | (intro _; (repeat' split) <;> rfl)

end Sys2Proof.Machine
end

