-- ==== Sys2Proof/Laws/OnlyReads.lean ====
section
/-! SUPPORT. `State.Only` for every operation and meaning of Machine/Reads.lean: the sections that it may change. -/

namespace Sys2Proof.Machine

open Sys2Proof

set_option Elab.async false

set_option linter.unreachableTactic false
set_option linter.unusedTactic false

variable {s0 s : State} {sl : List Sect}

theorem execDictRead_only (hl : [Sect.out, Sect.ep, Sect.mgt] ⊆ sl) (h : State.Only sl s0 s) (o : Origin) (ix sub : Nat) :
    Res.Only sl s0 (execDictRead o ix sub s) := by
  unfold execDictRead
  try dsimp only
  repeat' with_reducible first | assumption | apply State.draw_only (Sect.sub rfl hl) | apply State.reply_only (Sect.sub rfl hl) | apply Res.next_only | apply Res.ite_only | apply State.ite_only | (intro _ _ _ _) | (intro _ _ _) | (intro _; rfl) | (intro _; apply map_map_same; intro _; rfl) | (intro _; apply map_mapIf; intro _; rfl) | (refine State.fst_only (by assumption) ?_) | split | dsimp only | (intro _; split <;> rfl) | (intro _; (repeat' split) <;> rfl)

end Sys2Proof.Machine
end

