-- ==== Sys2Proof/Laws/OnlyWrites.lean ====
section
/-! SUPPORT. `State.Only` for every operation and meaning of Machine/Writes.lean: the sections that it may change. -/

namespace Sys2Proof.Machine

open Sys2Proof

set_option Elab.async false

set_option linter.unreachableTactic false
set_option linter.unusedTactic false

variable {s0 s : State} {sl : List Sect}

theorem State.afterOf_only (h : State.Only sl s0 s) (r : Res) (hr : Res.Only sl s0 r) : State.Only sl s0 (afterOf r s) := by
  cases r with
  | next t => exact hr t rfl
  | fault _ => exact h
  | refused _ => exact h

/-- Whatever command a row names changes the listed sections alone. -/
def RowOnly (sl : List Sect) (s0 : State) (r : Option (State → Res)) : Prop :=
  ∀ f, r = some f → ∀ s, State.Only sl s0 s → Res.Only sl s0 (f s)

theorem RowOnly.none : RowOnly sl s0 none := by intro f e; cases e

theorem RowOnly.some {g : State → Res} (hg : ∀ s, State.Only sl s0 s → Res.Only sl s0 (g s)) : RowOnly sl s0 (some g) := by
  intro f e; cases e; exact hg

theorem RowOnly.ite {c : Prop} [Decidable c] {a b : Option (State → Res)} (ha : RowOnly sl s0 a) (hb : RowOnly sl s0 b) :
    RowOnly sl s0 (if c then a else b) := by
  split
  · exact ha
  · exact hb

theorem refuseRow_only (hl : [Sect.out, Sect.ep, Sect.mgt] ⊆ sl) (h : State.Only sl s0 s) (o : Origin) : Res.Only sl s0 (refuseRow o s) :=
  Res.next_only (State.reply_only (Sect.sub rfl hl) h _ _ _ _)

theorem resolveRow_only (hl : Sect.wideQ ⊆ sl) (h : State.Only sl s0 s) (o : Origin) (pid rec act : Nat) :
    Res.Only sl s0 (resolveRow o pid rec act s) :=
  Res.ite_only (execFaultResolveRetry_only (Sect.sub rfl hl) h o pid rec)
    (Res.ite_only (execFaultResolveFail_only (Sect.sub rfl hl) h o pid rec) (refuseRow_only (Sect.sub rfl hl) h o))

theorem pbRow_only (hl : Sect.wideQ ⊆ sl) (o : Origin) (pid off sub : Nat) (v : List Byte) : RowOnly sl s0 (pbRow o pid off sub v) := by
  unfold pbRow
  try dsimp only
  repeat' with_reducible first | apply RowOnly.ite | apply RowOnly.none | apply RowOnly.some | (intro _ _) | assumption | apply execFaultRingReset_only (Sect.sub rfl hl) | apply execFaultRingTail_only (Sect.sub rfl hl) | apply execRtcInval_only (Sect.sub rfl hl) | apply refuseRow_only (Sect.sub rfl hl) | apply resolveRow_only (Sect.sub rfl hl) | apply execKeyAgree_only (Sect.sub rfl hl) | apply execAttest_only (Sect.sub rfl hl) | apply execRegionRegister_only (Sect.sub rfl hl) | split | apply Res.ite_only | dsimp only

theorem stateRow_only (hl : Sect.all ⊆ sl) (h : State.Only sl s0 s) (o : Origin) (v : Nat) : Res.Only sl s0 (stateRow o v s) := by
  unfold stateRow
  split
  · exact execDrain_only (Sect.sub rfl hl) h o
  split
  · exact execRestart_only (Sect.sub rfl hl) h o
  split
  · exact execRecover_only (Sect.sub rfl hl) h o
  split
  · exact execPowerOff_only (Sect.sub rfl hl) h o
  split
  · exact execMaintain_only (Sect.sub rfl hl) h o
  · exact refuseRow_only (Sect.sub rfl hl) h o

theorem execMgrKeyHash_only (hl : Sect.toldOd ⊆ sl) (h : State.Only sl s0 s) (o : Origin) (val : List Byte) :
    Res.Only sl s0 (execMgrKeyHash o val s) := by
  unfold execMgrKeyHash
  try dsimp only
  repeat' with_reducible first | assumption | apply State.command_only (Sect.sub rfl hl) | apply State.wr_only (Sect.sub rfl hl) | apply State.mapMgt_only (Sect.sub rfl hl) | apply Res.next_only | apply Res.ite_only | apply State.ite_only | (intro _ _ _ _) | (intro _ _ _) | (intro _; rfl) | (intro _; apply map_map_same; intro _; rfl) | (intro _; apply map_mapIf; intro _; rfl) | (refine State.fst_only (by assumption) ?_) | split | dsimp only | (intro _; split <;> rfl) | (intro _; (repeat' split) <;> rfl)

theorem row2_only (hl : Sect.all ⊆ sl) (o : Origin) (ix sub v : Nat) : RowOnly sl s0 (row2 o ix sub v) := by
  unfold row2
  try dsimp only
  repeat' with_reducible first | apply RowOnly.ite | apply RowOnly.none | apply RowOnly.some | (intro _ _) | assumption | apply stateRow_only (Sect.sub rfl hl) | apply execHomesMoved_only (Sect.sub rfl hl) | apply execAnalysisPort_only (Sect.sub rfl hl) | apply execShadowPartner_only (Sect.sub rfl hl) | apply execFaultDeclare_only (Sect.sub rfl hl) | apply execMirrorSessionMode_only (Sect.sub rfl hl) | split | apply Res.ite_only | dsimp only

theorem portRow_only (hl : Sect.toldOd ⊆ sl) (o : Origin) (p : PortRef) (sub v : Nat) : RowOnly sl s0 (portRow o p sub v) := by
  unfold portRow
  try dsimp only
  repeat' with_reducible first | apply RowOnly.ite | apply RowOnly.none | apply RowOnly.some | (intro _ _) | assumption | apply execPrbsCtrl_only (Sect.sub rfl hl) | apply execInject_only (Sect.sub rfl hl) | apply execTxTaps_only (Sect.sub rfl hl) | split | apply Res.ite_only | dsimp only

theorem row4_only (hl : Sect.wideQ ⊆ sl) (o : Origin) (ix sub v : Nat) : RowOnly sl s0 (row4 o ix sub v) := by
  unfold row4
  try dsimp only
  repeat' with_reducible first | apply RowOnly.ite | apply RowOnly.none | apply RowOnly.some | (intro _ _) | assumption | apply execQualNow_only (Sect.sub rfl hl) | apply execRouteDrain_only (Sect.sub rfl hl) | apply execRouteSwap_only (Sect.sub rfl hl) | apply execRouteDefault_only (Sect.sub rfl hl) | apply execFpAdmin_only (Sect.sub rfl hl) | apply portRow_only (Sect.sub rfl hl) | apply execExpEnable_only (Sect.sub rfl hl) | split | apply Res.ite_only | dsimp only

theorem row5_only (hl : Sect.wideQ ⊆ sl) (o : Origin) (ix sub : Nat) (v : List Byte) : RowOnly sl s0 (row5 o ix sub v) := by
  unfold row5
  try dsimp only
  repeat' with_reducible first | apply RowOnly.ite | apply RowOnly.none | apply RowOnly.some | (intro _ _) | assumption | apply execFlowLoad_only (Sect.sub rfl hl) | apply execFlowLaunch_only (Sect.sub rfl hl) | apply execFlowAbort_only (Sect.sub rfl hl) | apply execFlowUnload_only (Sect.sub rfl hl) | split | apply Res.ite_only | dsimp only

theorem row6_only (hl : Sect.toldOd ⊆ sl) (o : Origin) (ix sub v : Nat) : RowOnly sl s0 (row6 o ix sub v) := by
  unfold row6
  try dsimp only
  repeat' with_reducible first | apply RowOnly.ite | apply RowOnly.none | apply RowOnly.some | (intro _ _) | assumption | apply execSnapAt_only (Sect.sub rfl hl) | apply execSampleRingBase_only (Sect.sub rfl hl) | apply execCounterWrite_only (Sect.sub rfl hl) | apply execCounterControlWrite_only (Sect.sub rfl hl) | apply execOvf_only (Sect.sub rfl hl) | split | apply Res.ite_only | dsimp only

theorem row7_only (hl : Sect.wideQ ⊆ sl) (o : Origin) (ix sub : Nat) (v : List Byte) : RowOnly sl s0 (row7 o ix sub v) := by
  unfold row7
  try dsimp only
  repeat' with_reducible first | apply RowOnly.ite | apply RowOnly.none | apply RowOnly.some | (intro _ _) | assumption | apply execRtSet_only (Sect.sub rfl hl) | apply execSluiceLoad_only (Sect.sub rfl hl) | apply execSluiceRemove_only (Sect.sub rfl hl) | apply execSluiceCommit_only (Sect.sub rfl hl) | split | apply Res.ite_only | dsimp only

theorem rowRest_only (hl : [Sect.out, Sect.life, Sect.power, Sect.od, Sect.nvq, Sect.mem, Sect.poison, Sect.written, Sect.own, Sect.fills, Sect.xl, Sect.req, Sect.home, Sect.ep, Sect.stn, Sect.sw, Sect.dlv, Sect.lnk, Sect.tim, Sect.slu, Sect.sec, Sect.mgt, Sect.shd] ⊆ sl) (o : Origin) (ix sub : Nat) (v : List Byte) : RowOnly sl s0 (rowRest o ix sub v) := by
  unfold rowRest
  try dsimp only
  repeat' with_reducible first | apply RowOnly.ite | apply RowOnly.none | apply RowOnly.some | (intro _ _) | assumption | apply execMgrKeyHash_only (Sect.sub rfl hl) | apply execPowerCapWrite_only (Sect.sub rfl hl) | apply execPartCreate_only (Sect.sub rfl hl) | apply execPartClose_only (Sect.sub rfl hl) | apply execOwnGrant_only (Sect.sub rfl hl) | apply execOwnRelease_only (Sect.sub rfl hl) | apply execHostLost_only (Sect.sub rfl hl) | split | apply Res.ite_only | dsimp only

theorem ownRow_only (hl : Sect.all ⊆ sl) (o : Origin) (ix sub : Nat) (v : List Byte) : RowOnly sl s0 (ownRow o ix sub v) := by
  unfold ownRow
  try dsimp only
  repeat' with_reducible first | apply RowOnly.ite | apply RowOnly.none | apply RowOnly.some | (intro _ _) | assumption | apply row2_only (Sect.sub rfl hl) | apply pbRow_only (Sect.sub rfl hl) | apply row4_only (Sect.sub rfl hl) | apply row5_only (Sect.sub rfl hl) | apply row6_only (Sect.sub rfl hl) | apply row7_only (Sect.sub rfl hl) | apply rowRest_only (Sect.sub rfl hl) | split | apply Res.ite_only | dsimp only

theorem State.pumpPid_only (hl : [Sect.out, Sect.od, Sect.xl, Sect.req, Sect.home, Sect.ep, Sect.stn, Sect.sw, Sect.dlv, Sect.lnk, Sect.mgt] ⊆ sl) (h : State.Only sl s0 s) (pid : Nat) :
    State.Only sl s0 (State.pumpPid s pid) := by
  unfold State.pumpPid
  try dsimp only
  repeat' with_reducible first | assumption | apply State.each_only | apply State.pumpTransit_only (Sect.sub rfl hl) | apply State.ite_only | (intro _ _ _ _) | (intro _ _ _) | (intro _; rfl) | (intro _; apply map_map_same; intro _; rfl) | (intro _; apply map_mapIf; intro _; rfl) | (refine State.fst_only (by assumption) ?_) | split | dsimp only | (intro _; split <;> rfl) | (intro _; (repeat' split) <;> rfl)

theorem State.wrote_only (hl : Sect.wide ⊆ sl) (h : State.Only sl s0 s) (ix sub : Nat) :
    State.Only sl s0 (State.wrote s ix sub) := by
  unfold State.wrote
  try dsimp only
  repeat' with_reducible first | assumption | apply State.each_only | apply State.marks_only (Sect.sub rfl hl) | apply State.pumpPid_only (Sect.sub rfl hl) | apply State.settleAll_only (Sect.sub rfl hl) | apply State.ite_only | (intro _ _ _ _) | (intro _ _ _) | (intro _; rfl) | (intro _; apply map_map_same; intro _; rfl) | (intro _; apply map_mapIf; intro _; rfl) | (refine State.fst_only (by assumption) ?_) | split | dsimp only | (intro _; split <;> rfl) | (intro _; (repeat' split) <;> rfl)

theorem State.dictSet_only (hl : Sect.all ⊆ sl) (h : State.Only sl s0 s) (o : Origin) (ix sub ty : Nat) (val : List Byte) :
    State.Only sl s0 (State.dictSet s o ix sub ty val) := by
  unfold State.dictSet
  dsimp only
  split
  · exact State.reply_only (Sect.sub rfl hl) h _ _ _ _
  · split
    · exact h
    · split
      · exact State.reply_only (Sect.sub rfl hl) h _ _ _ _
      · split
        · rename_i f e
          exact State.afterOf_only h _ (ownRow_only (Sect.sub rfl hl) o ix sub val f e s h)
        · split
          · exact State.reply_only (Sect.sub rfl hl) h _ _ _ _
          · exact State.finish_only (Sect.sub rfl hl) (State.wrote_only (Sect.sub rfl hl)
              (State.writePlain_only (Sect.sub rfl hl) h _ _ _ _ _) _ _) _ _

theorem execDictWrite_only (hl : Sect.all ⊆ sl) (h : State.Only sl s0 s) (o : Origin) (ix sub ty : Nat) (val : List Byte) :
    Res.Only sl s0 (execDictWrite o ix sub ty val s) := by
  unfold execDictWrite
  try dsimp only
  repeat' with_reducible first | assumption | apply State.dictSet_only (Sect.sub rfl hl) | apply Res.next_only | apply Res.ite_only | apply State.ite_only | (intro _ _ _ _) | (intro _ _ _) | (intro _; rfl) | (intro _; apply map_map_same; intro _; rfl) | (intro _; apply map_mapIf; intro _; rfl) | (refine State.fst_only (by assumption) ?_) | split | dsimp only | (intro _; split <;> rfl) | (intro _; (repeat' split) <;> rfl)

end Sys2Proof.Machine
end

