-- ==== Sys2Proof/Laws/OnlyMgmt.lean ====
section
/-! SUPPORT. `State.Only` for every operation and meaning of Machine/Mgmt.lean: the sections that it may change. -/

namespace Sys2Proof.Machine

open Sys2Proof

set_option Elab.async false

set_option linter.unreachableTactic false
set_option linter.unusedTactic false

variable {s0 s : State} {sl : List Sect}

theorem runMbx_only (hl : Sect.all ⊆ sl) (h : State.Only sl s0 s) (o : Origin) (c : MbxCmd) : Res.Only sl s0 (runMbx o c s) := by
  cases c with
  | dictRead ix sub => exact execDictRead_only (Sect.sub rfl hl) h o ix sub
  | dictWrite ix sub ty val => exact execDictWrite_only (Sect.sub rfl hl) h o ix sub ty val
  | ctxBind b => exact execCtxBind_only (Sect.sub rfl hl) h o b
  | ctxUnbind ep ctx => exact execCtxUnbind_only (Sect.sub rfl hl) h o ep ctx
  | queueSetup q => exact execQueueSetup_only (Sect.sub rfl hl) h o q
  | queueReset ep q => exact execQueueReset_only (Sect.sub rfl hl) h o ep q
  | queueTail ep q tail => exact execQueueTail_only (Sect.sub rfl hl) h o ep q tail
  | ctrBind ep ctr pid => exact execCtrBind_only (Sect.sub rfl hl) h o ep ctr pid
  | rtcInval i => exact execRtcInval_only (Sect.sub rfl hl) h o i
  | sessionSetup b => exact execSessionSetup_only (Sect.sub rfl hl) h o b
  | faultResolve pid recId action => exact resolveRow_only (Sect.sub rfl hl) h o pid recId action
  | other opc => exact refuseRow_only (Sect.sub rfl hl) h o

theorem State.mailRun_only (hl : Sect.all ⊆ sl) (h : State.Only sl s0 s) (o : Origin) (pid : Nat) (c : MbxCmd) :
    State.Only sl s0 (State.mailRun s o pid c) := by
  unfold State.mailRun
  try dsimp only
  repeat' with_reducible first | assumption | apply State.reply_only (Sect.sub rfl hl) | (refine State.afterOf_only ?_ _ (runMbx_only (Sect.sub rfl hl) ?_ _ _)) | apply State.runMbx_only (Sect.sub rfl hl) | apply runMbx_only (Sect.sub rfl hl) | apply State.ite_only | (intro _ _ _ _) | (intro _ _ _) | (intro _; rfl) | (intro _; apply map_map_same; intro _; rfl) | (intro _; apply map_mapIf; intro _; rfl) | (refine State.fst_only (by assumption) ?_) | split | dsimp only | (intro _; split <;> rfl) | (intro _; (repeat' split) <;> rfl)

theorem execMbxq_only (hl : Sect.all ⊆ sl) (h : State.Only sl s0 s) (m : CapMsg) (pid : Nat) (cmd : MbxCmd) :
    Res.Only sl s0 (execMbxq m pid cmd s) := by
  unfold execMbxq
  try dsimp only
  repeat' with_reducible first | assumption | apply State.bump_only (Sect.sub rfl hl) | apply State.reply_only (Sect.sub rfl hl) | apply State.noteClosed_only (Sect.sub rfl hl) | apply State.mapEp_only (Sect.sub rfl hl) | apply State.mailRun_only (Sect.sub rfl hl) | apply State.capReturn_only (Sect.sub rfl hl) | apply Res.next_only | apply Res.ite_only | apply State.ite_only | (intro _ _ _ _) | (intro _ _ _) | (intro _; rfl) | (intro _; apply map_map_same; intro _; rfl) | (intro _; apply map_mapIf; intro _; rfl) | (refine State.fst_only (by assumption) ?_) | split | dsimp only | (intro _; split <;> rfl) | (intro _; (repeat' split) <;> rfl)

theorem execMbxDoorbell_only (hl : Sect.all ⊆ sl) (h : State.Only sl s0 s) (cp pid : Nat) (cmd : MbxCmd) :
    Res.Only sl s0 (execMbxDoorbell cp pid cmd s) := by
  unfold execMbxDoorbell
  try dsimp only
  repeat' with_reducible first | assumption | apply State.bump_only (Sect.sub rfl hl) | apply State.mapEp_only (Sect.sub rfl hl) | apply State.mailRun_only (Sect.sub rfl hl) | apply Res.next_only | apply Res.ite_only | apply State.ite_only | (intro _ _ _ _) | (intro _ _ _) | (intro _; rfl) | (intro _; apply map_map_same; intro _; rfl) | (intro _; apply map_mapIf; intro _; rfl) | (refine State.fst_only (by assumption) ?_) | split | dsimp only | (intro _; split <;> rfl) | (intro _; (repeat' split) <;> rfl)

theorem State.closeSession_only (hl : [Sect.mgt] ⊆ sl) (h : State.Only sl s0 s) (id : Nat) :
    State.Only sl s0 (State.closeSession s id) := by
  unfold State.closeSession
  try dsimp only
  repeat' with_reducible first | assumption | apply State.mapMgt_only (Sect.sub rfl hl) | apply State.ite_only | (intro _ _ _ _) | (intro _ _ _) | (intro _; rfl) | (intro _; apply map_map_same; intro _; rfl) | (intro _; apply map_mapIf; intro _; rfl) | (refine State.fst_only (by assumption) ?_) | split | dsimp only | (intro _; split <;> rfl) | (intro _; (repeat' split) <;> rfl)

theorem State.roomForSession_only (hl : [Sect.mgt] ⊆ sl) (h : State.Only sl s0 s)  :
    State.Only sl s0 (State.roomForSession s) := by
  unfold State.roomForSession
  try dsimp only
  repeat' with_reducible first | assumption | apply State.closeSession_only (Sect.sub rfl hl) | apply State.ite_only | (intro _ _ _ _) | (intro _ _ _) | (intro _; rfl) | (intro _; apply map_map_same; intro _; rfl) | (intro _; apply map_mapIf; intro _; rfl) | (refine State.fst_only (by assumption) ?_) | split | dsimp only | (intro _; split <;> rfl) | (intro _; (repeat' split) <;> rfl)

theorem State.openSession_only (hl : [Sect.out, Sect.mgt] ⊆ sl) (h : State.Only sl s0 s) (op : SessionOpenOp) :
    State.Only sl s0 (State.openSession s op) := by
  unfold State.openSession
  try dsimp only
  repeat' with_reducible first | assumption | apply State.roomForSession_only (Sect.sub rfl hl) | apply State.draw_only (Sect.sub rfl hl) | apply State.mapMgt_only (Sect.sub rfl hl) | apply State.emit_only (Sect.sub rfl hl) | apply State.event_only (Sect.sub rfl hl) | apply State.ite_only | (intro _ _ _ _) | (intro _ _ _) | (intro _; rfl) | (intro _; apply map_map_same; intro _; rfl) | (intro _; apply map_mapIf; intro _; rfl) | (refine State.fst_only (by assumption) ?_) | split | dsimp only | (intro _; split <;> rfl) | (intro _; (repeat' split) <;> rfl)

theorem State.datagram_only (hl : [Sect.od] ⊆ sl) (h : State.Only sl s0 s) (m : MdpHead) (ok : Bool) (take : State)
    (ht : State.Only sl s0 take) : State.Only sl s0 (State.datagram s m ok take) := by
  unfold State.datagram
  split
  · exact h
  · exact State.ite_only ht (State.bump_only (Sect.sub rfl hl) h _ _)

theorem execSessionOpen_only (hl : [Sect.out, Sect.od, Sect.mgt] ⊆ sl) (h : State.Only sl s0 s) (op : SessionOpenOp) :
    Res.Only sl s0 (execSessionOpen op s) := by
  unfold execSessionOpen
  try dsimp only
  repeat' with_reducible first | assumption | apply State.bump_only (Sect.sub rfl hl) | apply State.openSession_only (Sect.sub rfl hl) | apply State.datagram_only (Sect.sub rfl hl) | apply Res.next_only | apply Res.ite_only | apply State.ite_only | (intro _ _ _ _) | (intro _ _ _) | (intro _; rfl) | (intro _; apply map_map_same; intro _; rfl) | (intro _; apply map_mapIf; intro _; rfl) | (refine State.fst_only (by assumption) ?_) | split | dsimp only | (intro _; split <;> rfl) | (intro _; (repeat' split) <;> rfl)

theorem execSessionClose_only (hl : [Sect.od, Sect.mgt] ⊆ sl) (h : State.Only sl s0 s) (op : SessionCloseOp) :
    Res.Only sl s0 (execSessionClose op s) := by
  unfold execSessionClose
  try dsimp only
  repeat' with_reducible first | assumption | apply State.closeSession_only (Sect.sub rfl hl) | apply State.datagram_only (Sect.sub rfl hl) | apply Res.next_only | apply Res.ite_only | apply State.ite_only | (intro _ _ _ _) | (intro _ _ _) | (intro _; rfl) | (intro _; apply map_map_same; intro _; rfl) | (intro _; apply map_mapIf; intro _; rfl) | (refine State.fst_only (by assumption) ?_) | split | dsimp only | (intro _; split <;> rfl) | (intro _; (repeat' split) <;> rfl)

theorem execSessionIdleTimeout_only (hl : [Sect.mgt] ⊆ sl) (h : State.Only sl s0 s) (session : Nat) :
    Res.Only sl s0 (execSessionIdleTimeout session s) := by
  unfold execSessionIdleTimeout
  try dsimp only
  repeat' with_reducible first | assumption | apply State.closeSession_only (Sect.sub rfl hl) | apply Res.next_only | apply Res.ite_only | apply State.ite_only | (intro _ _ _ _) | (intro _ _ _) | (intro _; rfl) | (intro _; apply map_map_same; intro _; rfl) | (intro _; apply map_mapIf; intro _; rfl) | (refine State.fst_only (by assumption) ?_) | split | dsimp only | (intro _; split <;> rfl) | (intro _; (repeat' split) <;> rfl)

theorem State.setSession_only (hl : [Sect.mgt] ⊆ sl) (h : State.Only sl s0 s) (id : Nat) (f : Session → Session) :
    State.Only sl s0 (State.setSession s id f) := by
  unfold State.setSession
  try dsimp only
  repeat' with_reducible first | assumption | apply State.mapMgt_only (Sect.sub rfl hl) | apply State.ite_only | (intro _ _ _ _) | (intro _ _ _) | (intro _; rfl) | (intro _; apply map_map_same; intro _; rfl) | (intro _; apply map_mapIf; intro _; rfl) | (refine State.fst_only (by assumption) ?_) | split | dsimp only | (intro _; split <;> rfl) | (intro _; (repeat' split) <;> rfl)

theorem State.repeated_only (hl : [Sect.out, Sect.od, Sect.mgt] ⊆ sl) (h : State.Only sl s0 s) (d : MdpReq) (r : DupRec) :
    State.Only sl s0 (State.repeated s d r) := by
  unfold State.repeated
  try dsimp only
  repeat' with_reducible first | assumption | apply State.bump_only (Sect.sub rfl hl) | apply State.setSession_only (Sect.sub rfl hl) | apply State.emit_only (Sect.sub rfl hl) | apply State.reply_only (Sect.sub rfl hl) | apply State.ite_only | (intro _ _ _ _) | (intro _ _ _) | (intro _; rfl) | (intro _; apply map_map_same; intro _; rfl) | (intro _; apply map_mapIf; intro _; rfl) | (refine State.fst_only (by assumption) ?_) | split | dsimp only | (intro _; split <;> rfl) | (intro _; (repeat' split) <;> rfl)

theorem State.mdpRequest_only (hl : [Sect.out, Sect.od, Sect.mgt] ⊆ sl) (h : State.Only sl s0 s) (d : MdpReq) (perform : State → Origin → State) (he : ∀ t o, State.Only sl s0 t → State.Only sl s0 (perform t o)) :
    State.Only sl s0 (State.mdpRequest s d perform) := by
  unfold State.mdpRequest
  try dsimp only
  repeat' with_reducible first | assumption | apply he | apply State.setSession_only (Sect.sub rfl hl) | apply State.repeated_only (Sect.sub rfl hl) | apply State.fresh_only (Sect.sub rfl hl) | apply State.datagram_only (Sect.sub rfl hl) | apply State.ite_only | (intro _ _ _ _) | (intro _ _ _) | (intro _; rfl) | (intro _; apply map_map_same; intro _; rfl) | (intro _; apply map_mapIf; intro _; rfl) | (refine State.fst_only (by assumption) ?_) | split | dsimp only | (intro _; split <;> rfl) | (intro _; (repeat' split) <;> rfl)

theorem execRead_only (hl : [Sect.out, Sect.od, Sect.ep, Sect.mgt] ⊆ sl) (h : State.Only sl s0 s) (d : MdpReq) :
    Res.Only sl s0 (execRead d s) := by
  unfold execRead
  try dsimp only
  repeat' with_reducible first | assumption | apply State.mdpRequest_only (Sect.sub rfl hl) | apply State.draw_only (Sect.sub rfl hl) | apply State.reply_only (Sect.sub rfl hl) | apply Res.next_only | apply Res.ite_only | apply State.ite_only | (intro _ _ _ _) | (intro _ _ _) | (intro _; rfl) | (intro _; apply map_map_same; intro _; rfl) | (intro _; apply map_mapIf; intro _; rfl) | (refine State.fst_only (by assumption) ?_) | split | dsimp only | (intro _; split <;> rfl) | (intro _; (repeat' split) <;> rfl)

theorem execWrite_only (hl : Sect.all ⊆ sl) (h : State.Only sl s0 s) (d : MdpReq) :
    Res.Only sl s0 (execWrite d s) := by
  unfold execWrite
  try dsimp only
  repeat' with_reducible first | assumption | apply State.mdpRequest_only (Sect.sub rfl hl) | apply State.dictSet_only (Sect.sub rfl hl) | apply Res.next_only | apply Res.ite_only | apply State.ite_only | (intro _ _ _ _) | (intro _ _ _) | (intro _; rfl) | (intro _; apply map_map_same; intro _; rfl) | (intro _; apply map_mapIf; intro _; rfl) | (refine State.fst_only (by assumption) ?_) | split | dsimp only | (intro _; split <;> rfl) | (intro _; (repeat' split) <;> rfl)

theorem execMdpInterimResponse_only (hl : [Sect.out, Sect.mgt] ⊆ sl) (h : State.Only sl s0 s) (session seq : Nat) :
    Res.Only sl s0 (execMdpInterimResponse session seq s) := by
  unfold execMdpInterimResponse
  try dsimp only
  repeat' with_reducible first | assumption | apply State.setSession_only (Sect.sub rfl hl) | apply State.emit_only (Sect.sub rfl hl) | apply State.reply_only (Sect.sub rfl hl) | apply Res.next_only | apply Res.ite_only | apply State.ite_only | (intro _ _ _ _) | (intro _ _ _) | (intro _; rfl) | (intro _; apply map_map_same; intro _; rfl) | (intro _; apply map_mapIf; intro _; rfl) | (refine State.fst_only (by assumption) ?_) | split | dsimp only | (intro _; split <;> rfl) | (intro _; (repeat' split) <;> rfl)

theorem execRetainedCommit_only (hl : [Sect.out, Sect.od, Sect.nv, Sect.nvq, Sect.ep, Sect.mgt] ⊆ sl) (h : State.Only sl s0 s)  :
    Res.Only sl s0 (execRetainedCommit s) := by
  unfold execRetainedCommit
  try dsimp only
  repeat' with_reducible first | assumption | apply State.commitImage_only (Sect.sub rfl hl) | apply State.mapNv_only (Sect.sub rfl hl) | apply State.each_only | apply State.reply_only (Sect.sub rfl hl) | apply Res.next_only | apply Res.ite_only | apply State.ite_only | (intro _ _ _ _) | (intro _ _ _) | (intro _; rfl) | (intro _; apply map_map_same; intro _; rfl) | (intro _; apply map_mapIf; intro _; rfl) | (refine State.fst_only (by assumption) ?_) | split | dsimp only | (intro _; split <;> rfl) | (intro _; (repeat' split) <;> rfl)

end Sys2Proof.Machine
end

