-- ==== Sys2Proof/Laws/PerInstr.lean ====
section
/-! SUPPORT. No family of statements is made per command in this package. -/
end

