-- ==== Sys2Proof/Laws/Settle.lean ====
section
/-! SUPPORT. What follows from completed accesses: nothing in a settled state, and never a change of the module's state
outside SHADOW. The module state after the operations that enter one. -/

namespace Sys2Proof.Machine

open Sys2Proof

set_option Elab.async false

variable {s : State}

/-- A section that an operation does not list agrees. -/
theorem State.Only.agrees {l : List Sect} {s t : State} (h : State.Only l s t) (x : Sect) (hx : l.contains x = false) : s.agree t x :=
  h.2 x (by simpa using hx)

theorem State.each_same {α : Type} (xs : List α) (f : State → α → State) (h : ∀ a ∈ xs, f s a = s) : s.each xs f = s := by
  unfold State.each
  induction xs with
  | nil => rfl
  | cons a r ih =>
    simp only [List.foldl_cons]
    rw [h a (by simp)]
    exact ih fun b hb => h b (by simp [hb])

theorem State.settleFlows_of_done (h : (s.stn.flows.all fun f => f.recDone || !(f.fst = .done || f.fst = .aborted)) = true) :
    s.settleFlows = s := by
  unfold State.settleFlows
  apply State.each_same
  intro f hf
  have := List.all_eq_true.mp h f hf
  unfold State.flowRecord
  rw [if_pos]
  simp only [Bool.or_eq_true] at this ⊢
  exact .inl this

theorem State.settleCopies_of_none (h : (s.ep.queues.all fun q => q.runs.isEmpty) = true) : s.settleCopies = s := by
  unfold State.settleCopies
  apply State.each_same
  intro q hq
  have := List.all_eq_true.mp h q hq
  rw [List.isEmpty_iff] at this
  rw [this]
  rfl

/-- In a settled state nothing follows. -/
theorem State.settleAll_of_settled (h : s.settled = true) : s.settleAll = s := by
  unfold State.settled at h
  simp only [Bool.and_eq_true] at h
  obtain ⟨⟨⟨h1, h2⟩, h3⟩, h4⟩ := h
  unfold State.settleAll
  dsimp only
  rw [State.settleFlows_of_done h1, State.settleCopies_of_none h2]
  rw [List.isEmpty_iff] at h3
  rw [h3]
  show s.settleShadow = s
  unfold State.settleShadow
  rw [if_neg]
  intro h
  rw [h] at h4
  cases h4

/-- Outside SHADOW nothing that follows changes the module's state. -/
theorem State.settleAll_life (h : s.life.mstate ≠ .shadow) : s.settleAll.life = s.life := by
  unfold State.settleAll
  dsimp only
  generalize hn : s.settleFlows.settleCopies.ep.buffered.length = n
  have e1 : s.settleFlows.life = s.life :=
    (State.settleFlows_only (sl := [.out, .od, .xl, .req, .home, .ep, .stn, .sw, .dlv, .lnk, .mgt]) (Sect.sub rfl (List.Subset.refl _))
      (State.Only.refl _ s)).agrees .life rfl
  have e2 : s.settleFlows.settleCopies.life = s.settleFlows.life :=
    (State.settleCopies_only (sl := [.out, .od, .xl, .req, .ep, .lnk, .mgt]) (Sect.sub rfl (List.Subset.refl _))
      (State.Only.refl _ _)).agrees .life rfl
  have e3 : ∀ t : State, (t.pumpCap n).life = t.life := fun t =>
    (State.pumpCap_only (sl := [.out, .od, .mem, .poison, .written, .xl, .req, .home, .ep, .sw, .dlv, .lnk, .sec, .mgt])
      (Sect.sub rfl (List.Subset.refl _)) (State.Only.refl _ t) n).agrees .life rfl
  have e : (s.settleFlows.settleCopies.pumpCap n).life = s.life := by rw [e3, e2, e1]
  unfold State.settleShadow
  rw [if_neg, e]
  rw [e]
  simp [h]

/-- FAILED is entered whatever else happens. -/
theorem State.enterFailed_life (kind unit : Nat) :
    (s.enterFailed kind unit).life = { s.life with mstate := .failed, heldReq := none } := by
  unfold State.enterFailed
  dsimp only
  have e1 : ∀ t : State, t.fabricDark.life = t.life := fun t =>
    (State.fabricDark_only (sl := [.out, .od, .mem, .poison, .written, .xl, .req, .home, .ep, .stn, .sw, .dlv, .lnk, .tim, .slu, .mgt, .shd])
      (Sect.sub rfl (List.Subset.refl _)) (State.Only.refl _ t)).agrees .life rfl
  have e2 : ∀ t : State, t.attachDark.life = t.life := fun t =>
    (State.attachDark_only (sl := [.out, .od, .poison, .xl, .req, .home, .ep, .stn, .sw, .dlv, .lnk, .mgt])
      (Sect.sub rfl (List.Subset.refl _)) (State.Only.refl _ t)).agrees .life rfl
  have e3 : ∀ (t : State) k, (t.event k).life = t.life := fun t k =>
    (State.event_only (sl := [.out, .mgt]) (Sect.sub rfl (List.Subset.refl _)) (State.Only.refl _ t) k).agrees .life rfl
  have e4 : (s.logFault kind unit 0 8 Status.homeLost 0 0).life = s.life :=
    (State.logFault_only (sl := [.od, .mgt]) (Sect.sub rfl (List.Subset.refl _)) (State.Only.refl _ s) _ _ _ _ _ _ _).agrees .life rfl
  rw [e2, e1]
  simp only [State.mapLife_life]
  unfold State.enter
  rw [e3]
  simp [e4]

/-- The module state after `enter`. -/
theorem State.enter_life (m : MState) : (s.enter m).life = { s.life with mstate := m } := by
  unfold State.enter
  exact ((State.event_only (sl := [.out, .mgt]) (Sect.sub rfl (List.Subset.refl _)) (State.Only.refl _ _) _).agrees .life rfl)

/-! ### Dictionary entries -/

theorem State.rd_wr_self (k v : Nat) : (s.wr k v).rd k = v := by
  unfold State.rd State.wr
  rw [mfind_mput_self]

theorem State.rd_wr_ne (k j v : Nat) (h : j ≠ k) : (s.wr k v).rd j = s.rd j := by
  unfold State.rd State.wr
  rw [mfind_mput_ne _ _ _ _ h]

end Sys2Proof.Machine
end

