-- ==== Sys2Proof/Tests/Slice0.lean ====
section
/-! SUPPORT. Small tests of the model, and a witness for the hypotheses of every statement: concrete states and operands that
meet them together. Expected results are worked out by hand from the rules that the comments name. -/

namespace Sys2Proof.Tests

open Sys2Proof Sys2Proof.Machine

set_option Elab.async false

/-! ### States -/

/-- The rack manager's session. -/
def op : Origin := .mdp 1 1

/-- A managed module in state `m`: MID 1 of 4, LOCKED, one manager session, partition 1 ACTIVE. -/
def base (m : MState) : State :=
  ((((({ State.reset with
    life := ⟨m, false, false, none, 0⟩
    mgt := ⟨[⟨1, false, 0, [], 1, 1, 0⟩], [], [], [], [], [], [], [], none, true⟩ }).wr K.meshN 4).wr K.mid 1).wr K.lockState 2).wr
      (K.partState 1) 1)

/-- The context of `conn`. -/
def ctx5 : Ctx := ⟨0, 5, 0, 1, 7, 0, .bound, none, []⟩

/-- The copy queue of `conn`. -/
def queue3 : Queue := ⟨0, 3, 1, 7, false, 0x10000, 16, 0x20000, 15, 2, true, false, none, []⟩

/-- A module in MEMBER with attach port 0 up, context 5 of EP 0 bound to partition 1, a copy queue and a counter. -/
def conn : State :=
  { (base .member).wr (K.apState 0) 2 with
    ep := { (base .member).ep with
      ctxs := [ctx5], queues := [queue3], ctrs := [⟨0, 9, 1, 4294967295, 4294967290⟩] } }

/-- A CAP message of that context. -/
def msg : CapMsg := ⟨0, 0, 5, 17, 0x12340000, 0, 0, 0, 0, 0, false, false, false, false, 0, false, []⟩

/-- An open transaction of that context. -/
def tx : Tx := { Tx.blank with id := 3, agent := .ctx 0 5, pid := 1, dest := .cap 0 0 5 17, addr := 0x12340000, len := 64 }

/-! ### The queue, the invariants -/

theorem test_step_front : ({ base .member with pending := [.inputRestart, .fuseRelease] }).pending = .inputRestart :: [.fuseRelease] ∧
    (∃ t, step { base .member with pending := [.inputRestart] } = .next t ∧ t = base .member) := ⟨rfl, _, rfl, by decide +kernel⟩

theorem test_step_tick : (∃ t, step State.reset = .next t) ∧ (base .member).memOk ∧ (base .member).unitsOk :=
  ⟨⟨_, rfl⟩, by unfold State.memOk; decide +kernel, by unfold State.unitsOk; decide +kernel⟩

/-! ### Input power and the module states -/

theorem test_input_loss : (base .member).life.mstate ≠ .off ∧ (1150 ≤ 1150) ∧
    (∃ t, exec .inputLoss (base .member) = .next t ∧ t.life.mstate = .off ∧ t.nv.b.gen = 1) := by
  refine ⟨by decide, by decide, _, rfl, by decide +kernel, by decide +kernel⟩

theorem test_input_stage : State.reset.power.fuseOpen = false ∧ State.reset.life.mstate = .off ∧
    ({ State.reset.power with fuseOpen := true }).fuseOpen = true := by decide +kernel

theorem test_start_up : State.reset.life.mstate = .off ∧ State.reset.power.inputOn = true ∧ State.reset.power.standby = false ∧
    (base .restore).life.mstate = .restore ∧ (base .selftest).life.mstate = .selftest ∧
    (SelfTest.mk true true true true [⟨4, 0, 0, 4⟩, ⟨4, 0, 0, 4⟩, ⟨4, 0, 0, 4⟩, ⟨4, 0, 0, 4⟩]).fatal = none ∧
    (SelfTest.mk false true true true []).fatal ≠ none := by decide +kernel

theorem test_training_exit_shadow : ({ base .training with tim := ⟨0, true, 0, 0, 0, none, 0, 0, 0, 0, 0, 0, []⟩ }).tim.everLocked = true ∧
    ¬((base .training).rd K.joinMode = 1 ∧ (base .training).locked = true ∧ (base .training).presentTrained = true) := by
  decide +kernel

theorem test_training_exit_member : ((base .training).wr K.joinMode 1).locked = true ∧
    ((base .training).wr K.joinMode 1).presentTrained = true ∧ ((base .training).wr K.joinMode 1).rd K.joinMode = 1 := by
  decide +kernel

theorem test_requests : (base .member).managed = true ∧ (base .member).allows op K.faultDeclare 0 = true ∧
    (base .failed).allows op K.stateRequest 0 = true ∧ (base .maintenance).allows op K.stateRequest 0 = true ∧
    (base .draining).allows op K.stateRequest 0 = true ∧ (base .draining).allows op K.homesMoved 0 = true ∧
    (base .draining).isDrained = false ∧ (base .draining).life.heldReq = none := by decide +kernel

/-- A drained module that holds a request. -/
def drained (r : Option (HeldReq × Origin)) : State := { base .draining with life := ⟨.draining, false, true, r, 0⟩ }

theorem test_drained : (drained none).isDrained = true ∧ (drained none).allows op K.stateRequest 0 = true ∧
    (drained (some (.powerOff, op))).isDrained = true ∧ (drained (some (.maintain, op))).isDrained = true := by decide +kernel

theorem test_recover : ∃ t, exec (.recover op) (base .failed) = .next t ∧ t.life.mstate = .maintenance ∧
    t.out = [.event 1 K.moduleState 0, .reply op false 0 false false []] := ⟨_, rfl, by decide +kernel, by decide +kernel⟩

theorem test_drain : ∃ t, exec (.drain op) (base .member) = .next t ∧ t.life.mstate = .draining := ⟨_, rfl, by decide +kernel⟩

/-- A module whose cap sequence has reached a stage. -/
def capped (stage measures op_ : Nat) : State :=
  { ((base .member).wr K.powerStage stage).wr K.operatingPoint op_ with power := ⟨true, false, 0, false, false, measures, false, 0⟩ }

theorem test_caps : (base .member).allows op K.powerCap 0 = true ∧ (capped 1 7 3).rd K.powerStage ≠ 0 ∧
    (capped 1 7 3).rd K.operatingPoint < 4 ∧ (capped 1 7 3).rd K.emergency = 0 ∧ (capped 1 7 3).rd K.powerCap < 4201 ∧
    (capped 2 7 4).rd K.powerStage = 2 ∧ (capped 2 7 4).rd K.operatingPoint = 4 ∧ (capped 2 7 4).power.measures = 7 ∧
    ({ capped 2 7 4 with power := ⟨true, false, 0, false, false, 7, true, 0⟩ }).settled = true := by decide +kernel

theorem test_throttle : (base .member).rd K.emergency ≠ 1 ∧ ((base .member).wr K.emergency 1).settled = true ∧
    (∃ t, exec (.emergencyThrottle true 0) (base .member) = .next t ∧ t.rd K.operatingPoint = 4 ∧ t.rd K.emergencyEvents = 1) := by
  refine ⟨by decide +kernel, by decide +kernel, _, rfl, by decide +kernel, by decide +kernel⟩

/-! ### Requests of attach contexts -/

theorem test_cap_load : conn.capAccepts mtLD { msg with sub := 6 } ctx5 ∧ capMisaligned mtLD { msg with sub := 6 } = false ∧
    conn.capAccepts mtST { msg with sub := 3, data := zeros 8 } ctx5 ∧ capMisaligned mtST { msg with sub := 3 } = false ∧
    conn.capAccepts mtBLD msg ctx5 ∧ msg.addr % 256 = 0 ∧ conn.capAccepts mtBST { msg with data := zeros 256 } ctx5 := by
  unfold State.capAccepts; decide +kernel

/-- A tile access: descriptor of a tile of 4 rows of 64 bytes. -/
def tmsg : CapMsg := { msg with data := wordBytes [0x12340000, 3 <<< 56 ||| 64, 0, 0] }

theorem test_cap_tile : conn.capAccepts mtTRD tmsg ctx5 ∧ (capDesc tmsg).bad false = false ∧ conn.capAccepts mtTWR tmsg ctx5 ∧
    (capDesc tmsg).bad true = false := by unfold State.capAccepts; decide +kernel

theorem test_cap_atomic : (∀ p ∈ [0, 1, 2, 3, 4, 5, 6, 7], conn.capAccepts mtAT64 { msg with wide := true, sub := p, own := false } ctx5) ∧
    conn.capAccepts mtAT64 { msg with wide := true, sub := 7, own := true } ctx5 ∧ msg.addr % 8 = 0 := by
  unfold State.capAccepts; decide +kernel

/-- An open TWR of 64 bytes, and its data. -/
def connT : State := { conn with req := { conn.req with txs := [{ tx with acc := .tileWrite, last := false }] } }

theorem test_cap_twd : ({ msg with data := zeros 64 }).wf = true ∧ connT.capOn 0 = true ∧ capUnits { msg with data := zeros 64 } ≤ 64 ∧
    connT.capUsed (connT.bondOf 0) 0 + 2 ≤ (connT.aport (connT.bondOf 0)).granted.getD 0 0 ∧ connT.capBlocked (connT.bondOf 0) = false ∧
    connT.tagOpen 0 5 17 = some { tx with acc := .tileWrite, last := false } ∧
    (linesOf 0 64).any ({ tx with acc := .tileWrite, last := false }).covered.testBit = false := by decide +kernel

theorem test_cap_order : (∀ p ∈ [1, 2, 3], conn.capAccepts mtFENCE { msg with ord := p } ctx5) ∧ conn.capAccepts mtINVAL { msg with arg := 64 } ctx5 ∧
    (∀ p ∈ [1, 2, 3, 4, 5], conn.capAccepts mtHINT { msg with sub := p, arg := 1 } ctx5) ∧ msg.addr % 4096 = 0 := by
  unfold State.capAccepts; decide +kernel

theorem test_cap_doorbell : conn.capAccepts mtDOORBELL { msg with addr := 3, arg := 4 } ctx5 ∧ conn.queueOf 0 3 = some queue3 ∧
    queue3.pid = 1 ∧ 4 % 2 ^ 32 < queue3.entries := by unfold State.capAccepts; decide +kernel

theorem test_cap_counter : conn.capAccepts mtCTRSET { msg with addr := 9, arg := 6 } ctx5 ∧
    conn.capAccepts mtCTRWAIT { msg with addr := 9, arg := 6 } ctx5 ∧ conn.ctrOf 0 9 = some ⟨0, 9, 1, 4294967295, 4294967290⟩ ∧
    (conn.ep.waits.filter fun w => w.ep = 0).length < 256 := by unfold State.capAccepts; decide +kernel

/-- A wait whose deadline has passed. -/
def connW : State := { conn with
  ep := { conn.ep with waits := [⟨0, 0, 5, 17, 9, 6, 10, 0⟩] }, tim := ⟨10, true, 0, 0, 0, none, 0, 0, 0, 0, 0, 0, []⟩ }

theorem test_cap_wait_timeout : (connW.ep.waits.find? fun w => w.ep = 0 && w.ctx = 5 && w.tag = 17) = some ⟨0, 0, 5, 17, 9, 6, 10, 0⟩ ∧
    10 ≤ connW.now := by decide +kernel

/-- R314: the counter 2 behind its target has wrapped; at its base it waits; half the circle past the base it has failed. -/
theorem test_counter_judgement : (Counter.mk 0 9 1 1 4294967290).judge 4294967295 = some Status.ok ∧
    (Counter.mk 0 9 1 5 5).judge 6 = none ∧ (Counter.mk 0 9 1 2147483648 0).judge 2147483648 = some Status.counterWindow ∧
    (Counter.mk 0 9 1 2147483647 0).judge 2147483647 = some Status.ok := by decide +kernel

/-! ### Streams of attach contexts, exports, issue and answer -/

/-- A running flow 2 of partition 1, whose stream 4 goes from station 0 to station 1 of this module. -/
def flow2 : Flow := ⟨1, 2, .running, 0x30000, 0, 100, 0, [⟨0, 1, 4⟩, ⟨1, 1, 4⟩], [], false, 0, 0, noStation, 0, false⟩

/-- A consumer station with nothing in its buffer. -/
def cons0 : Cons := ⟨0, some 1, 1, 0, 0, 4, 65536, 0, 0, 0, [], [], [], false⟩

def strm4 : Strm := ⟨1, 2, 4, 5, 4, false, 16, some 0, 1, 0, 0, 4, 0, false, [cons0], [], [], []⟩

/-- A tile of one row of 64 bytes of INT8. -/
def tile0 : Tile := ⟨0, false, false, 0, 1, 64, 9, zeros 64, []⟩

/-- Stream 6 from context 5 to station 1, and stream 7 from station 0 to context 5. -/
def connS : State := { conn with stn := { conn.stn with
  flows := [flow2]
  strms := [{ strm4 with sid := 6, prod := none, pep := 0, pctx := 5 },
    { strm4 with sid := 7, cons := [{ cons0 with station := none, ctx := 5 }] }] } }

theorem test_sput : connS.strmCtx { msg with addr := 2 <<< 48 ||| 6 <<< 32, data := tile0.packed } 64 = some ctx5 ∧
    connS.flowGet 1 2 = some flow2 ∧ (connS.strmGet 1 2 6).any (fun st => st.prod = none && st.pcredits ≠ 0 && st.putBuf = []) = true ∧
    capFlow { msg with addr := 2 <<< 48 ||| 6 <<< 32 } = 2 ∧ capSid { msg with addr := 2 <<< 48 ||| 6 <<< 32 } = 6 := by decide +kernel

theorem test_scred : connS.strmCtx { msg with addr := 2 <<< 48 ||| 7 <<< 32, arg := 3 } 0 = some ctx5 ∧
    ((connS.strmGet 1 2 7).bind fun st => st.cons.find? fun k => k.station.isNone && k.mid = connS.mid && k.ep = 0 && k.ctx = 5) =
      some { cons0 with station := none, ctx := 5 } := by decide +kernel

/-- A request that waits at the home for the answer of an export. -/
def hreq : HReq := ⟨1, { Frame.blank with kind := kReq, op := 0x10, tc := 2, src := 2, dst := 1, pid := 1, fpa := 1 <<< 51 }, none, 0, true⟩

def connX : State := { conn with
  home := { conn.home with exps := [⟨17, 0, 5, hreq, 0⟩] }, tim := ⟨25000, true, 0, 0, 0, none, 0, 0, 0, 0, 0, 0, []⟩ }

theorem test_exports : (connX.home.exps.find? fun e => e.ep = msg.ep && e.ctx = msg.ctx && e.xid % 65536 = msg.tag) = some ⟨17, 0, 5, hreq, 0⟩ ∧
    isWrite hreq.f = false ∧ isAtomic hreq.f = false ∧ msg.status = Status.ok ∧ 0 + 25000 ≤ connX.now := by decide +kernel

/-- A response, a fence, an INVAL, a miss and a walk. -/
def connI : State := { conn with
  home := { conn.home with rsp := [⟨3, 0, 0, 0, []⟩] }
  req := { conn.req with txs := [{ tx with id := 3, acc := .fence, ord := 1 }, { tx with id := 4, acc := .inval }, { tx with id := 5, xst := .missWait 9 }] }
  xl := { conn.xl with walks := [⟨0, 1, 8, false⟩, ⟨1, 1, 8, true⟩] } }

theorem test_issue : connI.home.rsp[0]? = some ⟨3, 0, 0, 0, []⟩ ∧ connI.txOf 3 = some { tx with id := 3, acc := .fence, ord := 1 } ∧
    connI.fenceMet { tx with id := 3, acc := .fence, ord := 1 } = true ∧ connI.txOf 4 = some { tx with id := 4, acc := .inval } ∧
    connI.nextMiss 0 = some ({ tx with id := 5, xst := .missWait 9 }, 9) ∧ connI.walkersBusy 0 < 16 ∧
    (connI.xl.walks.find? fun w => w.ep = 1 && w.pid = 1 && w.slot = 8) = some ⟨1, 1, 8, true⟩ ∧
    (connI.xl.walks.find? fun w => w.ep = 0 && w.pid = 1 && w.slot = 8) = some ⟨0, 1, 8, false⟩ ∧
    ({ Frame.blank with kind := kRsp, dst := 1 }).dst = connI.mid := by decide +kernel

/-! ### Translation faults, invalidations, hosts -/

/-- An open fault record with a parked request. -/
def connF : State := { conn with
  xl := { conn.xl with recs := [⟨7, 1, 0, 1, 1, 0, false, 0, true⟩], rtc := [⟨0, 1, 5, ⟨true, 0, false, true, true, true, 0, 0, 0x12340, 16, false, 0, 0, 0, 0, 0, 0⟩⟩] }
  req := { conn.req with txs := [{ tx with xst := .parked 7 }] } }

theorem test_faults : connF.mailOk op 1 false = true ∧ connF.openRec 7 1 = some ⟨7, 1, 0, 1, 1, 0, false, 0, true⟩ ∧ connF.openRec 8 1 = none ∧
    (connF.parkedOn 7 1).length = 1 := by decide +kernel

theorem test_fault_fail : ∃ t, exec (.faultResolveFail op 1 7) connF = .next t ∧ t.req.txs = [] ∧ t.xl.recs = [] :=
  ⟨_, rfl, by decide +kernel, by decide +kernel⟩

theorem test_fault_rings : connF.allows op (K.faultRingBase 1) 1 = true ∧ connF.allows op (K.faultRingEntries 1) 1 = true ∧
    (connF.wr (K.faultRingEntries 1) 64).allows op (K.faultRingTail 1) 1 = true ∧
    63 < (connF.wr (K.faultRingEntries 1) 64).rd (K.faultRingEntries 1) := by decide +kernel

theorem test_inval : connF.mailOk op 1 false = true ∧ connF.senderPid op = some 0 ∧ (0x12340000 % 4096 = 0) ∧
    (∃ t, exec (.rtcInval op ⟨1, 1, .range 0x12340000 1, false⟩) connF = .next t ∧ t.xl.rtc = []) :=
  ⟨by decide +kernel, by decide +kernel, by decide, _, rfl, by decide +kernel⟩

theorem test_inval_complete : (({ connF.xl with invals := [⟨9, op, ⟨1, 1, .pidAll, false⟩, [], []⟩] }).invals.find? fun (r : InvalRun) => r.id = 9) =
    some ⟨9, op, ⟨1, 1, .pidAll, false⟩, [], []⟩ ∧
    (connF.xl.walks.any fun w => w.restart && (1 : Nat).testBit w.ep && w.pid = 1) = false := by decide +kernel

/-- A host port with its window up. -/
def connH : State := { (((((conn.wr (K.cpMode 2) 1).wr (K.winPid 2) 1).wr (K.hdmBase 2) 0x10000000).wr (K.winSize 2) 0x10000000).wr (K.winFva 2) 0x40000000).setCp 2 fun
    p => { p with up := true, memOn := true } with
  req := { conn.req with agents := [⟨.window 2, 1, 0, 0, [], [], [], [], false⟩] } }

theorem test_host_request : connH.windowOn 2 = true ∧ connH.windowFva 2 (0x10000040 / 64 * 64) = some 0x40000040 ∧
    connH.agentOf (.window 2) = some ⟨.window 2, 1, 0, 0, [], [], [], [], false⟩ ∧ connH.rd (K.winPid 2) = 1 ∧
    (0x40000040 : Nat) < 2 ^ 57 ∧ connH.rd (K.hdmBase 2) ≤ 0x1FFFFFFF ∧
    0x1FFFFFFF < connH.rd (K.hdmBase 2) + connH.hdmCapacity 2 ∧ connH.rd (K.cpMode 2) = 1 ∧ connH.rd (K.conf 2) = 0 ∧
    (connH.wr (K.winPid 2) 0).rd (K.winPid 2) = 0 := by decide +kernel

/-- A DMA of 64 bytes at host address 0 that has not ended. -/
def connA : State := { conn with
  ep := { conn.ep with queues := [{ queue3 with runs := [⟨15, [1 <<< 62, 0, 0, 0], 3, 0, true, 0, false, 0⟩] }] }
  req := { conn.req with txs := [tx] } }

theorem test_ats : connA.epUp 0 = true ∧ connA.req.atsInv = [] ∧ connA.dmaUses 0 0 64 = true ∧ connA.dmaUses 0 64 64 = false := by
  decide +kernel

/-! ### Contexts, queues, copies, counters, sessions -/

theorem test_bind : conn.mailOk op 1 true = true ∧ epOfPort 0 = 0 ∧ conn.bondOf 0 = 0 ∧ (2 ^ 38) % 2 ^ 21 = 0 ∧ conn.ctxOf 0 6 = none ∧
    conn.pstate 1 = 1 ∧ conn.epUp 0 = true ∧ conn.analysis ≠ some 16 ∧
    (∃ t, exec (.ctxBind op ⟨0, 6, 0, 1, 65537, 2 ^ 38⟩) conn = .next t ∧ t.ctxOf 0 6 = some ⟨0, 6, 0, 1, 1, 2 ^ 38, .bound, none, []⟩) := by
  refine ⟨by decide +kernel, by decide +kernel, by decide +kernel, by decide, by decide +kernel, by decide +kernel, by decide +kernel,
    by decide +kernel, _, rfl, by decide +kernel⟩

theorem test_unbind : conn.mailOk op 0 true = true ∧ conn.ctxOf 0 5 = some ctx5 ∧
    (conn.setCtx 0 5 fun c => { c with unbind := some op }).ctxOf 0 5 = some { ctx5 with unbind := some op } ∧
    (conn.setCtx 0 5 fun c => { c with unbind := some op }).ctxOpen 0 5 = [] := by decide +kernel

theorem test_queues : conn.mailOk op 1 false = true ∧ conn.queueOf 0 4 = none ∧ conn.queueOf 0 3 = some queue3 ∧
    0 < (9 + queue3.entries - queue3.tail) % queue3.entries ∧ 2 * ((9 + queue3.entries - queue3.tail) % queue3.entries) < queue3.entries ∧
    (∃ t, exec (.queueSetup op ⟨0, 4, 1, 7, false, 0, 65536, 0⟩) conn = .next t ∧ (t.queueOf 0 4).any (fun x => x.entries = 65536) = true) := by
  refine ⟨by decide +kernel, by decide +kernel, by decide +kernel, by decide, by decide, _, rfl, by decide +kernel⟩

theorem test_copy_start : queue3.stopped = false ∧ queue3.head ≠ queue3.tail ∧ conn.inService = true ∧ conn.epUp 0 = true ∧ queue3.runs.length < 8 ∧
    conn.epRuns 0 < 256 ∧ (descFence (conn.headDesc queue3 [0, 0x1000, 0x2000, 0]) = true → queue3.runs = []) ∧
    (conn.reachClear 0 1).descStop queue3 (conn.headDesc queue3 [0, 0x1000, 0x2000, 0]) (.ok []) = none ∧
    descSsp (conn.headDesc queue3 [0, 0x1000, 0x2000, 0]) = 0 ∧ descDsp (conn.headDesc queue3 [0, 0x1000, 0x2000, 0]) = 0 ∧
    (none : Option Nat).or ((conn.reachClear 0 1).descStop queue3 (conn.headDesc queue3 [0, 0x1000, 0x2001, 0]) (.ok [])) =
      some Status.refused := by
  decide +kernel

theorem test_copy_end : (connA.queueOf 0 3).map (fun x => (x.runs.find? fun r => r.idx = 15).map CopyRun.idx) = some (some 15) ∧ connA.rd (K.conf 0) ≠ 1 ∧
    connA.runEnded ⟨15, [1 <<< 62, 0, 0, 0], 3, 0, true, 0, false, 0⟩ = false ∧
    connA.runEnded ⟨15, [1 <<< 62, 0, 0, 0], 0, Status.refused, true, 0, false, 0⟩ = true := by decide +kernel

theorem test_counters : conn.epUp 0 = true ∧ conn.ctrOf 0 9 = some ⟨0, 9, 1, 4294967295, 4294967290⟩ ∧
    (∃ t, exec (.counterAdvance 0 9 1) conn = .next t ∧ t.ctrOf 0 9 = some ⟨0, 9, 1, 0, 4294967290⟩) ∧
    (∃ t, exec (.ctrBind op 0 4095 63) conn = .next t ∧ t.ctrOf 0 4095 = some ⟨0, 4095, 63, 0, 0⟩) := by
  refine ⟨by decide +kernel, by decide +kernel, ⟨_, rfl, by decide +kernel⟩, _, rfl, by decide +kernel⟩

/-- A confidential host whose key stands in slot 2. -/
def connC : State := (conn.wr (K.conf 2) 1).wr (K.keySlot 1 2) (77 <<< 16 ||| 3 <<< 12)

theorem test_session_setup : connC.mailOk op 1 false = true ∧ connC.rd (K.conf 2) = 1 ∧ connC.hasHostKey 1 77 = true ∧
    connC.ep.usedKeys.contains 77 = false ∧ 4096 = 2 ^ 12 := by decide +kernel

/-! ### The dictionary and the mailboxes -/

theorem test_dict_read : (base .member).readGate op (K.meshN / 256) (K.meshN % 256) = none ∧ (base .member).readGate op (K.keyAgree 1 / 256) 2 = some Status.unmapped ∧
    (base .member).readGate op 0x0FFF 1 = some Status.unmapped := by decide +kernel

theorem test_dict_write : (base .maintenance).writeGate op K.shadowPeriod (opPidOf (K.shadowPeriod / 256) (K.shadowPeriod % 256) (leBytes 4 60)) = none ∧
    (ownRow op (K.shadowPeriod / 256) (K.shadowPeriod % 256) (leBytes 4 60)).isNone = true ∧
    (base .maintenance).ruleRefuses (K.shadowPeriod / 256) (K.shadowPeriod % 256) 60 = false := by decide +kernel

theorem test_unmapped : maxSub 0x0FFF = none ∧ entryOf 0x2002 64 = none ∧ (maxSub 0x2001).isSome = true ∧ (base .member).managed = true := by
  decide +kernel

theorem test_rwm : (entryOf (K.meshN / 256) (K.meshN % 256)).any (fun e => e.acs = .rwm) = true ∧ (base .member).life.mstate ≠ .maintenance := by
  decide +kernel

/-- R350: the floor of POWER_CAP. -/
theorem test_clamp : (entryOf (K.powerCap / 256) (K.powerCap % 256)).any (fun e => clampVal State.reset e 0 949 = (950, some rsnLow) &&
    clampVal State.reset e 0 950 = (950, none) && clampVal State.reset e 0 4200 = (4200, none)) = true := by decide +kernel

theorem test_mbxq : msg.wf = true ∧ conn.capOn 0 = true ∧ capUnits msg ≤ 64 ∧
    conn.capUsed (conn.bondOf 0) 2 + capUnits msg + 1 ≤ (conn.aport (conn.bondOf 0)).granted.getD 2 0 ∧
    conn.ep.mbxCtx.contains (0, 5) = false ∧ conn.ctxOf 0 5 = some ctx5 ∧ conn.inService = true ∧ conn.pstate 1 = 1 := by decide +kernel

theorem test_mbx_doorbell : connH.managed = true ∧ connH.rd (K.cpMode 2) = 1 ∧ (connH.cport 2).up = true ∧ connH.epUp 2 = true ∧
    (connH.mbxReg 2).busy = false ∧ (connH.wr (K.mbxPid 2) 1).rd (K.mbxPid 2) ≤ 63 ∧
    ({ connH with ep := { connH.ep with mbxHost := [⟨2, true, 0, []⟩] } }).mbxReg 2 = ⟨2, true, 0, []⟩ := by decide +kernel

/-! ### The home -/

/-- A request frame of partition 1 for local address 0x1000000040 of this module. -/
def rq (o : Nat) : Frame := { Frame.blank with
  kind := kReq, op := o, tc := 2, src := 2, dst := 1, pid := 1, fpa := 1 <<< 51 ||| 0x1000000040, be := 2 ^ 64 - 1, payload := zeros 64 }

def rh (f : Frame) : HReq := ⟨1, f, none, 0, false⟩

/-- A module in MEMBER that owns granule 0x100000 for partition 1, with one request at its home. -/
def homeOf (f : Frame) : State := { base .member with own := [(0x100000, 0x41)], home := { (base .member).home with inq := [rh f] } }

theorem test_home_load : (homeOf (rq 0x13)).servesHere 0 (fun f => isRead f && !hostCoh f) (rh (rq 0x13)) ∧
    ((homeOf (rq 0x13)).takeIn 0).spanPoisoned (reqBase (rq 0x13)) 64 = false ∧
    (({ homeOf (rq 0x13) with poison := [1073741825] }).takeIn 0).spanPoisoned (reqBase (rq 0x13)) 64 = true := by
  unfold State.servesHere; decide +kernel

theorem test_home_store : (homeOf (rq 0x26)).memOk ∧ (homeOf (rq 0x26)).servesHere 0 (fun f => isWrite f && !hostCoh f) (rh (rq 0x26)) ∧
    (homeOf (rq 0x51)).servesHere 0 (fun f => isWrite f && !hostCoh f) (rh (rq 0x51)) ∧ (rq 0x26).payload.length = 64 := by
  unfold State.memOk State.servesHere; decide +kernel

/-- R59: the bytes whose enable bit is set are written, at the first and the last offset of the line. -/
theorem test_home_store_bytes : ∃ t, exec (.homeStore 0) (homeOf { rq 0x26 with be := 2 ^ 63 + 1, payload := List.replicate 64 0xA5 }) = .next t ∧
    t.mem = [(0x1000000040, 0xA5), (0x100000007F, 0xA5)] := ⟨_, rfl, by decide +kernel⟩

/-- An atomic of 8 bytes: operand 5, compare 0. -/
def aq (o : Nat) : Frame := { rq o with payload := wordBytes [5, 0, 0, 0, 0, 0, 0, 0] }

theorem test_home_atomic : (∀ p ∈ [(0, 0x38), (1, 0x39), (2, 0x3A), (3, 0x3B), (4, 0x3C), (5, 0x3D), (6, 0x3E), (7, 0x3F)],
      (homeOf (aq p.2)).servesHere 0 (fun f => isAtomic f && !hostCoh f && atomSub f = p.1 && (f.op = 0x48) = false) (rh (aq p.2))) ∧
    ((homeOf (aq 0x38)).takeIn 0).spanPoisoned (fpaLocal (aq 0x38).fpa) 8 = false := by
  unfold State.servesHere; decide +kernel

theorem test_home_atomic_add : ∃ t, exec (.atomicAdd (.home 0)) { homeOf (aq 0x38) with mem := [(0x1000000040, 0xFF)] } = .next t ∧
    t.mem = [(0x1000000040, 4), (0x1000000041, 1)] := ⟨_, rfl, by decide +kernel⟩

theorem test_home_casown : (homeOf (aq 0x48)).servesHere 0 (fun f => isAtomic f && !hostCoh f && atomSub f = 7 && (f.op = 0x48) = true)
      (rh (aq 0x48)) ∧ (homeOf (aq 0x48)).atomOld (aq 0x48) = atomCompare (aq 0x48) ∧
    ({ homeOf (aq 0x48) with mem := [(0x1000000040, 1)] }).atomOld (aq 0x48) ≠ atomCompare (aq 0x48) := by
  unfold State.servesHere; decide +kernel

/-- Table ORD-3: the extremes of two's complement. -/
theorem test_atomic_values : atomNew 1 32 0x80000000 0x7FFFFFFF 0 = 0x80000000 ∧ atomNew 2 32 0x80000000 0x7FFFFFFF 0 = 0x7FFFFFFF ∧
    atomNew 0 64 (2 ^ 64 - 1) 1 0 = 0 ∧ atomNew 7 64 3 9 3 = 9 ∧ atomNew 7 64 3 9 4 = 3 := by decide +kernel

/-- A hint of one page, an owner-table read and a mirror write. -/
def hint (a : Nat) : Frame := { rq 0x52 with fpa := 1 <<< 51 ||| a }

theorem test_home_hint : (homeOf (hint 0x1000000000)).atHome 0 (fun f => f.op = 0x52) = some (rh (hint 0x1000000000)) ∧
    ((homeOf (hint 0x1000000000)).takeIn 0).hintRefuses (hint 0x1000000000) = none ∧ regionOf (fpaLocal (hint 0x1000000000).fpa) = .hbm ∧
    regionOf (fpaLocal (hint 0x40000000000).fpa) = .expander 0 0 ∧
    ((({ homeOf (hint 0x40000000000) with own := [(0x4000000, 0x41)] }).wr (K.cpMode 0) 2).setCp 0 fun p => { p with
      expBytes := 2 ^ 40 }).hintRefuses (hint 0x40000000000) = none := by decide +kernel

theorem test_home_owner : (homeOf (rq 0x63)).atHome 0 (fun f => f.op = 0x63) = some (rh (rq 0x63)) ∧ (homeOf (rq 0x63)).homesServed = true ∧
    ((homeOf (rq 0x63)).takeIn 0).spanPoisoned (fpaLocal (rq 0x63).fpa) 8 = false ∧
    ([0x1000000040].filter fun a => a = 0x1000000040).length = 1 := by decide +kernel

theorem test_home_mirror : (homeOf (rq 0x62)).atHome 0 (fun f => f.op = 0x62) = some (rh (rq 0x62)) ∧
    ((homeOf (rq 0x62)).takeIn 0).homeRefuses (rq 0x62) = none ∧
    (({ (homeOf (rq 0x62)).home with held := [⟨rh (rq 0x26), .mirror 0 1 0⟩] }).held.find? fun (e : Held) => e.h.hid = 1) =
      some ⟨rh (rq 0x26), .mirror 0 1 0⟩ := by decide +kernel

/-- A retried request whose original home is module 3. -/
def retryOf (o : Nat) : Frame := { rq o with retry := true, ext := true, origHome := 3, origSrc := 2, origSeq := 9, origPepoch := 4 }

/-- The same module once module 3 is lost. -/
def lost3 (s : State) : State := s.declareLost 3

theorem test_mirror_retry : (homeOf (retryOf 0x26)).home.inq[0]? = some (rh (retryOf 0x26)) ∧ (homeOf (retryOf 0x26)).peerLost 3 = false ∧
    (lost3 (homeOf (retryOf 0x26))).peerLost 3 = true ∧
    (((lost3 (homeOf (retryOf 0x26))).takeIn 0).noteDegraded 1 3).mirrorDup (retryOf 0x26) = none ∧
    (((lost3 (homeOf (retryOf 0x26))).takeIn 0).noteDegraded 1 3).servable { retryOf 0x26 with retry := false, mtype := mtNormal } = true ∧
    (({ lost3 (homeOf (retryOf 0x26)) with home := { (homeOf (retryOf 0x26)).home with mirrorWin := [⟨2, 9, 4, [1073741825], 0⟩] } }).mirrorDup
      (retryOf 0x26)) = some ⟨2, 9, 4, [1073741825], 0⟩ := by decide +kernel

/-- A moving tier frame, and the fetch of an atomic-buffer line. -/
def tierS (m : Nat) : State := { base .member with home := { (base .member).home with tier := [⟨5, 1, [], m, none⟩] } }

theorem test_tier : (tierS 1).tierOf 5 = some ⟨5, 1, [], 1, none⟩ ∧ (tierS 2).tierOf 5 = some ⟨5, 1, [], 2, none⟩ ∧ 5120 / 1024 = 5 ∧
    fetchesLine 7 { Tx.blank with parts := [⟨0, 64, 448, 448, 0, 0, 0, 0, 0, 0, 0, false, .issued, 0, none, [], [], 31⟩] } = true := by decide +kernel

/-! ### Hosts -/

/-- A host's read of a HOSTCOH line, from CP2 of module 2. -/
def hq : Frame := { rq 0x10 with agentKind := 1, mtype := mtHostcoh, context := 2 }

theorem test_host_read : (homeOf hq).atHome 0 hostCoh = some (rh hq) ∧ isRead hq = true ∧ ((homeOf hq).takeIn 0).homeRefuses hq = none ∧
    ((homeOf hq).takeIn 0).expanderDown (reqBase hq) = none ∧
    (((homeOf hq).takeIn 0).dirResolve (lineOf (reqBase hq))).recallNeed (lineOf (reqBase hq)) 10 hq.lastPart = none ∧
    (((homeOf hq).takeIn 0).dirResolve (lineOf (reqBase hq))).dirFull (lineOf (reqBase hq)) = none := by decide +kernel

theorem test_host_recall_needed : (({ homeOf hq with home := { (homeOf hq).home with dir := [⟨1073741825, 2, 2 ^ 12, 1, 0⟩] } }).dirResolve 1073741825).recallNeed
    1073741825 10 false = some (2 ^ 12, false) := by decide +kernel

/-- A recall that waits for host 12, and its time. -/
def recallS : State := { base .member with
  home := { (base .member).home with recalls := [⟨1073741825, false, 2 ^ 12, 0⟩] }, tim := ⟨62500, true, 0, 0, 0, none, 0, 0, 0, 0, 0, 0, []⟩ }

theorem test_recalls : (2 ^ 45 + 1073741825) / 2 ^ 45 = recallS.mid ∧
    (recallS.home.recalls.find? fun r => r.line = (2 ^ 45 + 1073741825) % 2 ^ 45) = some ⟨1073741825, false, 2 ^ 12, 0⟩ ∧
    (2 ^ 12).testBit 12 = true ∧ clrBit (2 ^ 12) 12 = 0 ∧ (zeros 64).length = 64 ∧ 0 + 62500 ≤ recallS.now := by decide +kernel

theorem test_host_lost : (base .member).home.lostHosts.testBit (4 * 3 + 3) = false ∧ (base .member).allows op K.hostLost 0 = true ∧
    3 < (base .member).meshN ∧ ((base .member).loseHost 3 3 0).home.lostHosts.testBit 15 = true ∧
    (((base .member).loseHost 3 3 0).home.sweeps.find? fun w => w.mid = 3 && w.cp = 3).isSome = true := by decide +kernel

/-! ### Frames and pairs -/

/-- Fabric port 2, towards module 0, is up and keyed. -/
def linkS : State := ((base .member).wr (K.fpState 2) psUp).setFp 2 fun p => { p with keyed := true }

/-- A sealed request for this module. -/
def good : Frame := (rq 0x10).sealed

theorem test_header : linkS.fabricOn 2 = true ∧ good.hchk = good.hchkOf ∧ good.dst = linkS.mid ∧ linkS.egrsFor good = some [egHome] ∧
    ({ good with hchk := (good.hchk + 1) % 65536 }).hchk ≠ ({ good with hchk := (good.hchk + 1) % 65536 }).hchkOf := by decide +kernel

/-- The frame in the core, as its tail has said. -/
def coreF (tail : Nat) (f : Frame) : CoreFrame := ⟨9, f, 2, 0, 1, [], [egHome], tail, 0, false, [], false, [], none, [0]⟩
def coreS (tail : Nat) (f : Frame) : State := { linkS with sw := { linkS.sw with frames := [coreF tail f] } }

theorem test_tail : ((coreS 0 good).sw.frames.find? fun c => c.id = 9) = some (coreF 0 good) ∧ (coreS 0 good).lateFrame (coreF 0 good) = false := by
  decide +kernel

/-- The pair with module 2 has inbound epoch 0. -/
def paired (f : Frame) : State := (coreS 1 f).setPeer 2 fun p => { p with inEpoch := some 0 }

theorem test_delivery : ((paired good).sw.frames.find? fun c => c.id = 9) = some (coreF 1 good) ∧
    ((coreF 1 good).started.find? fun e => decide (16 ≤ e)) = some egHome ∧ good.ecrc = good.ecrcOf ∧ good.opOk = true ∧
    (genChecked good = true → good.gen = (paired good).rd K.routeGen) ∧
    ((paired good).setCore 9 fun d => { d with started := d.started.erase egHome, judged := true }).goesOn good = true ∧
    ({ good with payload := [1] }).ecrc ≠ ({ good with payload := [1] }).ecrcOf ∧ ({ rq 0x70 with }).sealed.opOk = false := by decide +kernel

theorem test_arbitration : ({ coreS 1 good with sw := { linkS.sw with frames := [] } }).egressFree egHome = true ∧
    (({ coreS 1 good with sw := { linkS.sw with frames := [{ coreF 1 good with egr := [egHome], started := [] }] } }).arbitrate egHome).2.isSome = true ∧
    (linkS.arbitrate egHome).2 = none ∧ linkS.openGate egHome = none := by decide +kernel

/-- R257: the highest number is 0; 2^24 - 1 lies one behind it, 4,096 behind is below the window, 2^23 - 1 ahead is new. -/
def win0 : Peer := { Peer.init 2 with inEpoch := some 0, win := [⟨16777215, true, 0x10, 0, 0, []⟩] }

theorem test_window : win0.judge { good with seq := 16777215 } = .dup ⟨16777215, true, 0x10, 0, 0, []⟩ ∧
    win0.judge { good with seq := 16773121 } = .fresh ∧ win0.judge { good with seq := 16773120 } = .below ∧
    win0.judge { good with seq := 8388607 } = .fresh ∧ win0.judge { good with seq := 8388608 } = .below ∧
    win0.judge { good with pepoch := 1 } = .stale := by decide +kernel

/-- The same module at another time. -/
def timed (n : Nat) (s : State) : State := { s with tim := { s.tim with now := n } }

/-! ### Buffers, redelivery, peers and routes -/

/-- A frame of class 5 that has waited 1 µs in quadrant 0, below the watermark; partition 1 has a quota and the cache has buffers. -/
def parkC : CoreFrame := ⟨9, { good with tc := 5 }, 2, 0, 17, [2], [], 1, 0, false, [], false, [], none, List.range 17⟩
def parkS : State := timed 1250 ((({ base .member with sw := { (base .member).sw with
  frames := [parkC], tbCache := [3, 4, 5], below := [(1, 1)] } }).wr (K.spillQuota 1) 8).wr (K.freeCells0 + 0) 100)

theorem test_park : (parkS.sw.frames.find? fun c => c.id = 9) = some parkC ∧ parkS.belowMark 0 1 = true ∧
    (parkS.sw.frames.find? fun d => d.quad = 0 && d.parkable parkS.now) = some parkC ∧
    (match parkS.takeBufs 1 (cdiv 17 16) with | .got _ bs => bs == [3, 4] | .bad _ => false | .wait => false) = true ∧
    (match ({ parkS with sw := { parkS.sw with tbCache := [] } }).takeBufs 1 (cdiv 17 16) with | .got _ _ => false | .bad _ => false | .wait => true) = true ∧
    parkS.sw.tbCache.length < 256 := by decide +kernel

/-- The frame parked, and many cells free. -/
def unparkS : State := ({ parkS with sw := { parkS.sw with frames := [{ parkC with parked := true, bufs := [3, 4] }], below := [] } }).wr
  (K.freeCells0 + 0) 65535

theorem test_unpark : (unparkS.sw.frames.find? fun c => c.id = 9) = some { parkC with parked := true, bufs := [3, 4] } ∧
    unparkS.rd K.wm2 < unparkS.freeCells 0 ∧ unparkS.mayUnpark { parkC with parked := true, bufs := [3, 4] } = true := by decide +kernel

theorem test_ring : (ringTake 2 [(7, 1), (9, 4)]).1 = [7, 9] ∧ 2 ≤ (([(7, 1), (9, 4)] : List (Nat × Nat)).map Prod.snd).sum ∧
    896 < (List.range 897).length ∧ 256 ≤ (List.range 300).length := by decide +kernel

theorem test_mirror : (base .member).allows op (K.mirMode 7) 0 = true ∧ (base .member).allows op K.analysisPort 0 = true ∧
    ((base .member).settle op (((base .member).senderPid op).getD 0) K.analysisPort 0 15).2.1 = 15 ∧
    ((base .member).settle op (((base .member).senderPid op).getD 0) K.analysisPort 0 15).1.analysisOk 15 = true ∧
    (((base .member).wr K.meshN 17).settle op ((((base .member).wr K.meshN 17).senderPid op).getD 0) K.analysisPort 0 15).1.analysisOk 15 = false ∧
    (base .member).lnk.fp.map FPort.n = List.range 16 := by decide +kernel

/-- An open request to module 2 after `tries` failed attempts, sent at time 0. -/
def openS (tries : Nat) (acked : Bool) : State := timed 125000 (linkS.setPeer 2 fun p => { p with
  opens := [⟨0, good, tries, 0, 0, [0], acked, 0, none⟩] })

theorem test_resend : ((openS 2 false).openFrame 2 0).map OpenFrame.tries = some 2 ∧ ((openS 3 false).openFrame 2 0).map OpenFrame.tries = some 3 ∧
    ((openS 1 true).openFrame 2 0).map OpenFrame.acked = some true ∧ good.kind = kReq ∧ 0 + 125000 ≤ (openS 1 true).now ∧
    0 + 10000 ≤ (openS 2 false).now ∧ resendOrder 2 = [2, 0, 1] := by decide +kernel

theorem test_request_held : (timed 2500 (homeOf (rq 0x26))).homeReqs[0]? = some (rh (rq 0x26)) ∧ (rh (rq 0x26)).loc = none ∧
    (rq 0x26).src ≠ (homeOf (rq 0x26)).mid ∧ (rh (rq 0x26)).acked = false := by decide +kernel

/-- Module 0 has been masked since time 0, module 2 stays with us. -/
def maskedS : State := timed 25000 (linkS.wr K.peerMask 1)

theorem test_links : linkS.fpTrained 2 = true ∧ linkS.analysis ≠ some 2 ∧ linkS.rd (K.fpState 2) ≠ psHeld ∧ linkS.rd (K.fpState 2) ≠ psDark ∧
    linkS.rd (K.fpState 3) = psDark ∧ linkS.isPeer 0 = true ∧ maskedS.masked 0 = true ∧ maskedS.peerLost 0 = false ∧
    (maskedS.peer 0).maskAt + 25000 ≤ maskedS.now ∧ (maskedS.peer 0).unmaskedAt + 25000 ≤ maskedS.now := by decide +kernel

/-- A stream of flow 2 whose consumer 0 stands on module 2. -/
def farStrm : State := { conn with stn := { conn.stn with strms := [{ strm4 with cons := [{ cons0 with mid := 2 }] }] } }

theorem test_notices : conn.isPeer 2 = true ∧ conn.pstate 1 = 1 ∧
    ((farStrm.strmGet 1 2 4).bind fun t => t.cons? 0).map Cons.mid = some 2 := by decide +kernel

theorem test_route : (base .member).allows op K.routeDrain 0 = true ∧ (base .member).rd K.routeState = 0 ∧
    (base .member).allows op K.routeSwap 0 = true ∧ (base .member).allows op K.routeDefault 0 = true ∧
    ((base .member).wr K.routeState 1).drainDone = true ∧ (base .member).life.mstate ≠ .shadow ∧ 0 + 125000 ≤ 125000 ∧
    ({ (base .member).wr K.routeState 1 with dlv := { (base .member).dlv with drainBy := some op } }).dlv.drainBy = some op ∧
    (timed 125000 { (base .member).wr K.routeState 2 with dlv := { (base .member).dlv with swapAt := some 125000 } }).dlv.swapAt = some 125000 := by
  decide +kernel

/-- R264: at the switch the generation inverts and the pending bank takes effect. -/
theorem test_route_switch : ∃ t, exec .routeSwitch (timed 125000 { ((base .member).wr K.routeState 2).wr (K.via1Pending 2) 3 with
      dlv := { (base .member).dlv with swapAt := some 125000 } }) = .next t ∧
    t.rd K.routeGen = 1 ∧ t.rd (K.via1Active 2) = 3 ∧ t.rd K.routeState = 0 := ⟨_, rfl, by decide +kernel⟩

/-! ### Ports -/

/-- Fabric port 2 and attach port 0 train in `phase` after `fails` failures. -/
def trainS (phase fails : Nat) : State :=
  ((((base .member).wr (K.fpState 2) psTraining).wr (K.apState 0) psTraining).setFp 2 fun p => { p with phase := phase, fails := fails, light := true }).setAp 0
    fun p => { p with phase := phase, fails := fails }

/-- A dark port that sees its peer's light, and one that does not. -/
def litS : State := (base .member).setFp 2 fun p => { p with light := true }
def unlitS : State := (trainS 2 0).setFp 2 fun p => { p with light := false }

theorem test_train : litS.fpMayTrain 2 = true ∧ litS.rd (K.fpState 2) = psDark ∧ (base .member).apMayTrain 0 = true ∧
    (base .member).rd (K.fpState 2) = psDark ∧ ((base .member).fport 2).light = false ∧ (base .member).fpLit 2 = true ∧
    (base .member).lnk.qualRun = false ∧ (unlitS.fport 2).light = false ∧ unlitS.rd (K.fpState 2) = psTraining ∧
    ((base .member).dcCheck 0 [0]).widest 0 ≠ [] ∧ ((base .member).dcCheck 0 [4]).widest 0 = [] ∧ ((trainS 2 1).fport 2).light = true ∧
    (base .member).rd (K.apState 0) = psDark ∧ (trainS 2 1).rd (K.fpState 2) = psTraining ∧ ((trainS 2 1).fport 2).fails < 2 ∧
    2 ≤ ((trainS 2 2).fport 2).fails ∧ (trainS 2 2).bondOf 0 = 0 ∧ (trainS 2 2).rd (K.apState 0) = psTraining ∧ 2 ≤ ((trainS 2 2).aport 0).fails ∧
    4 ≤ ((trainS 4 0).fport 2).phase ∧ 4 ≤ ((trainS 4 0).aport 0).phase ∧ (trainS 4 0).widest 0 ≠ [] := by decide +kernel

/-- Both ports held by TRAIN_FAIL at time 0. -/
def heldS : State := timed tenSeconds ((((litS.wr (K.fpState 2) psHeld).wr (K.fpHoldReason 2) hrTrainFail).wr (K.apState 0) psHeld).wr
  (K.apHoldReason 0) hrTrainFail)

theorem test_retry : heldS.fpMayTrain 2 = true ∧ heldS.apMayTrain 0 = true ∧ heldS.rd (K.fpState 2) = psHeld ∧
    heldS.rd (K.fpHoldReason 2) = hrTrainFail ∧ (heldS.fport 2).heldAt + tenSeconds ≤ heldS.now ∧ heldS.rd (K.apState 0) = psHeld ∧
    heldS.rd (K.apHoldReason 0) = hrTrainFail ∧ (heldS.aport 0).heldAt + tenSeconds ≤ heldS.now := by decide +kernel

/-- The record that module 0 sends on the port towards module 1 of 4; R20: its port 0. -/
def idr (mid stepping crossed : Nat) : IdRecord :=
  let r : IdRecord := ⟨mid, 4, 0, 0, stepping, 3, 0, 0, crossed⟩
  { r with chk := recordChk (idWords r).1 (idWords r).2 }

theorem test_records : (∀ r ∈ [idr 0 0xB0 0, idr 0 0xB1 0, idr 1 0xB0 0, idr 0 0xB0 1], r.chk = recordChk (idWords r).1 (idWords r).2) ∧
    (trainS 3 0).midAt 2 = 0 ∧ (idr 0 0xB0 0).port = ((trainS 3 0).mid + 2 * (trainS 3 0).meshN - 0 - 1) % (trainS 3 0).meshN ∧
    ((trainS 3 0).fport 2).phase ≤ 3 ∧ (trainS 3 0).bondOf 0 = 0 := by decide +kernel

/-- A design's parameters. -/
def capP (ver : Nat) (lanes : List Nat) : CapParams := let r : CapParams := ⟨ver, 0, 130, 130, 65, 0, 0, [(lanes, 0)]⟩
  { r with chk := recordChk (capWord r) 0 }

theorem test_cap_parameters : (∀ v ∈ [1, 2], ∀ l ∈ [List.range 8, (List.range 8).reverse, [1, 0, 2, 3, 4, 5, 6, 7]],
      (capP v l).chk = recordChk (capWord (capP v l)) ((capP v l).w1 / 65536 * 65536)) ∧ (capP 2 (List.range 8)).capver ≠ 1 ∧
    (∃ l ∈ (capP 1 [1, 0, 2, 3, 4, 5, 6, 7]).lanes, l.1 ≠ List.range 8 ∧ l.1 ≠ (List.range 8).reverse) := by decide +kernel

/-- R277: a receiver takes a lane order that is reversed as a whole, and no other. -/
theorem test_lane_orders : (∃ t, exec (.capLinkParameters 0 (capP 1 (List.range 8).reverse)) (trainS 3 0) = .next t ∧
      (t.aport 0).phase = 4 ∧ (t.aport 0).order = (List.range 8).reverse) ∧
    (∃ t, exec (.capLinkParameters 0 (capP 1 [1, 0, 2, 3, 4, 5, 6, 7])) (trainS 3 0) = .next t ∧ t.rd (K.apHoldReason 0) = hrMiswired) :=
  ⟨⟨_, rfl, by decide +kernel⟩, ⟨_, rfl, by decide +kernel⟩⟩

/-- R276: a neighbour of another stepping holds the port with STEPPING. -/
theorem test_stepping : ∃ t, exec (.identityRecord 2 (idr 0 0xB1 0)) (trainS 3 0) = .next t ∧ t.rd (K.fpState 2) = psHeld ∧
    t.rd (K.fpHoldReason 2) = hrStepping := ⟨_, rfl, by decide +kernel⟩

/-- The link of port 2 in a key agreement. -/
def agreeS : State := linkS.setFp 2 fun p => { p with agreeing := true, oldKey := true }

theorem test_keys : agreeS.fpTrained 2 = true ∧ (agreeS.fport 2).agreeing = true ∧ 0 = agreeS.rd (K.peerKeys (agreeS.midAt 2)) ∧
    5 ≠ agreeS.rd (K.peerKeys (agreeS.midAt 2)) ∧ (linkS.fport 2).keyed = true ∧ ((timed oneDay linkS).fport 2).keyAt + oneDay ≤ (timed oneDay linkS).now ∧
    ((timed 125000 agreeS).fport 2).keyAt + 125000 ≤ (timed 125000 agreeS).now ∧ (heldS.setFp 2 fun p => { p with
      light := true, fails := 0 }).rd (K.fpState 2) = psHeld ∧ (heldS.setFp 2 fun p => { p with light := true, fails := 0 }).fpMayTrain 2 = true ∧
    linkS.allows op (K.fpAdmin 2) 0 = true ∧ linkS.analysis ≠ some 2 := by decide +kernel

theorem test_lanes : ((linkS.fport 2).lanes.findIdx? fun i => i = 5) = some 5 ∧ linkS.freeLane 2 = some 16 ∧ (linkS.fport 2).dayTest = none ∧
    linkS.rd (K.fpSpareMap 2) = 0x1F ∧ (linkS.wr (K.fpSpareMap 2) 5).rd (K.fpSpareMap 2) ≠ 0x1F ∧
    2 ≤ (((linkS.wr (K.fpSpareMap 2) 5).markLane 2 9).wr (K.fpGroups 2) (clrBit (linkS.rd (K.fpGroups 2)) 2)).groupsUp 2 ∧
    (((linkS.wr (K.fpSpareMap 2) 5).markLane 2 9).wr (K.fpGroups 2) (clrBit (((linkS.wr (K.fpGroups 2) 5)).rd (K.fpGroups 2)) 2)).groupsUp 2 < 2 := by
  decide +kernel

theorem test_idle : (linkS.fport 2).idle = false ∧ (timed 100000 linkS).framesFor 2 = false ∧ (timed 100000 linkS).gateNear 2 = false ∧
    (timed 100000 linkS).fpTrained 2 = true ∧ nmGet (timed 100000 linkS).sw.waitAt 2 0 + (timed 100000 linkS).rd K.idleAfter ≤ (timed 100000 linkS).now ∧
    conn.apTrained 0 = true ∧ (conn.aport 0).idle = false ∧ (timed 100000 conn).mayIdle 16 = true ∧ (timed 100000 linkS).mayWakeFp 2 = true ∧
    ((linkS.setFp 2 fun p => { p with idle := true }).fport 2).idle = true ∧ ((conn.setAp 0 fun p => { p with idle := true }).aport 0).idle = true ∧
    (connT.mapSw fun x => { x with frames := [{ coreF 1 good with egr := [16], started := [] }] }).mayWake 16 = true := by
  decide +kernel

/-- R283: -2, 60, -2 sum to 64 with their signs turned; 1 more does not. -/
theorem test_taps : tapsOk 0xFE3CFE = true ∧ 0xFE3CFE &&& 0x7F000000 = 0 ∧ tapsOk 0xFE3DFE = false ∧ linkS.allows op (K.fpTxTaps 2 16) 0 = true ∧
    linkS.allows op (K.fpPrbsCtrl 2) 0 = true ∧ linkS.laneInUse (.fp 2) 16 = false ∧ linkS.laneInUse (.fp 2) 0 = true ∧
    bits (1 <<< 30 ||| 16 <<< 23) 27 23 = 16 ∧ (1 <<< 30 ||| 16 <<< 23) &&& 0x7FFFFF = 0 ∧ linkS.allows op (K.fpInject 2) 0 = true ∧
    bits (1 <<< 30 ||| 15 <<< 20 ||| 1) 24 20 = 15 ∧ bits (3 <<< 30 ||| 1 <<< 20 ||| 1) 31 30 = 3 := by decide +kernel

theorem test_qualification : (base .maintenance).allows op K.qualNow 0 = true ∧ (base .maintenance).lnk.qualRun = false ∧
    linkS.allows op K.qualNow 0 = true ∧
    ({ base .maintenance with lnk := { (base .maintenance).lnk with qualRun := true } }).lnk.qualRun = true ∧
    ((linkS.setFp 2 fun p => { p with dayTest := some 16 }).fport 2).dayTest = some 16 ∧ linkS.freeLane 2 = some 16 ∧
    ((conn.setAp 0 fun p => { p with dayTest := some 3 }).aport 0).dayTest = some 3 ∧ linkS.unitsOk := by
  unfold State.unitsOk; decide +kernel

/-- CP0 in host mode, CP1 in expander mode. -/
def cxlS : State := ((base .member).wr (K.cpMode 0) 1).wr (K.cpMode 1) 2

theorem test_cxl : cxlS.rd (K.cpMode 0) = 1 ∧ cxlS.rd (K.cpMode 1) = 2 ∧ cxlS.attachLive = true ∧ (cxlS.cport 0).up = false ∧ cxlS.unitsOk ∧
    cxlS.allows op (K.expEnable 1) 0 = true ∧ ((cxlS.setCp 0 fun p => { p with up := true }).cport 0).up = true := by
  unfold State.unitsOk; decide +kernel

/-- R289: another serial number keeps the expander out of use. -/
theorem test_expander_serial : ∃ t, exec (.cpLinkUp ⟨1, 1⟩ 7 (2 ^ 40) 0) (cxlS.wr (K.expSerial 1) 6) = .next t ∧ (t.cport 1).expOff = true :=
  ⟨_, rfl, by decide +kernel⟩

/-- A flit with a good check and number 0. -/
def flit0 (head : Nat) : Flit := let f : Flit := ⟨head, [], 0⟩
  { f with fcrc := flitCrc f }

theorem test_flits : conn.bondOf 0 = 0 ∧ conn.apTrained 0 = true ∧ (flit0 0).fcrc = flitCrc (flit0 0) ∧
    bits (flit0 0).head 63 52 = (conn.aport 0).rxExpect ∧ (flit0 0).head.testBit 39 = false ∧ (flit0 0).head.testBit 38 = false ∧
    ((conn.setAp 0 fun q => { q with nakSent := true }).aport 0).nakSent = true ∧ bits (1 <<< 52) 63 52 ≠ (conn.aport 0).rxExpect := by decide +kernel

/-! ### Stations -/

/-- An instruction word (Table INS-2): OP, FA, FD, SAT, SUB, HD, HA, HB, HC, XD, XA, XB, bits 72:64, IMM. -/
def iw (o fa fd sat sub hd ha hb hc xd xa xb low imm : Nat) : IWord :=
  BitVec.ofNat 128 (o <<< 120 ||| fa <<< 112 ||| fd <<< 108 ||| sat <<< 107 ||| sub <<< 104 ||| hd <<< 100 ||| ha <<< 96 ||| hb <<< 92 |||
    hc <<< 88 ||| xd <<< 83 ||| xa <<< 78 ||| xb <<< 73 ||| low <<< 64 ||| imm)

/-- A local tile of one row of 64 bytes at `base`, with room for 4096. -/
def locH (fmt base : Nat) : Handle := ⟨2, false, fmt, 1, 64, base, 64, if expRow fmt 64 = 0 then 0 else base + 64, expRow fmt 64, 4096, false, 7, false, 0, 0⟩

/-- An input tile. -/
def inH : Handle := { Handle.unbound with kind := 1, fmt := 0, rows := 1, rbytes := 64, pitch := 64, cap := 64, tnum := 5 }

/-- Station 1 of flow 2 at the word `w`: X1 = 10, X2 = 3, X4 = 2^64 - 1, X5 = 64, X6 = 0x8000; H1, H2, H4 and H5 are INT8 tiles, H3 an INT32
tile, H6 a SQ8 tile, H7 the input tile, H8 unbound; input 0 is stream 4. -/
def inst1 (w : IWord) : Inst where
  who := ⟨1, 2, 1⟩
  typ := 0
  owner := 0x301
  sd := 0
  cluster := 0
  core := 0
  prog := [w]
  csram := 16
  sram := bytesSet (bytesSet (bytesSet [] 0x1000 (List.replicate 64 0x7F)) 0x2000 (List.replicate 64 0x02)) 0x8000
    (wordBytes [0x12340000, 64, 0, 0])
  pc := 0
  x := [(1, 10), (2, 3), (4, 2 ^ 64 - 1), (5, 64), (6, 0x8000)]
  p := []
  h := [Handle.unbound, locH 0 0x1000, locH 0 0x2000, locH 5 0x3000, locH 0 0x4000, locH 0 0x5000, locH 3 0x6000, inH] ++
    List.replicate 8 Handle.unbound
  flags := 0
  sha := ShaState.init
  wait := .none
  halted := false
  complete := false
  mism := 0
  ins := [4]
  outs := [4]
  spans := []
  spanAt := 0
  starved := none
  watch := 0
  badHead := false
  seqDesc := 0
  span := none
  spanEnd := 0
  col := ColSt.init []

def core0 : CoreSt := ⟨0, 0, 0, 1, none, false, none, [], 0, 0, false, 0⟩

/-- The stream 4 of the station: one tile in its buffer, one held; the station also feeds itself. -/
def strmI : Strm := { strm4 with prod := some 1, cons := [{ cons0 with buf := [tile0], held := [{ tile0 with tnum := 5 }] }] }

def runI (i : Inst) : State := { base .member with stn := { (base .member).stn with
  flows := [flow2], insts := [i], cores := [core0], strms := [strmI] } }
def runS (w : IWord) : State := runI (inst1 w)

def me : InstRef := ⟨1, 2, 1⟩

/-- The opcode at the PC may run. -/
def may (o : Nat) : Prop := (runS (iw o 0 0 0 0 0 0 0 0 0 0 0 0 0)).canRun me o (inst1 (iw o 0 0 0 0 0 0 0 0 0 0 0 0 0))

theorem test_may_run_scalar : ∀ o ∈ [0x00, 0x01, 0x02, 0x03, 0x04, 0x05, 0x06, 0x07, 0x08, 0x09, 0x0A, 0x10, 0x11, 0x12, 0x13, 0x14, 0x15, 0x16,
    0x17, 0x18, 0x19], may o := by unfold may State.canRun; decide +kernel

theorem test_may_run_tile : ∀ o ∈ [0x20, 0x21, 0x22, 0x23, 0x24, 0x25, 0x26, 0x27, 0x28, 0x30, 0x31, 0x32, 0x33, 0x34, 0x35, 0x36, 0x37, 0x38, 0x39,
    0x3A, 0x3B, 0x40, 0x41, 0x42, 0x43, 0x44, 0x50, 0x51, 0x58, 0x59, 0x60, 0x61], may o := by unfold may State.canRun; decide +kernel

/-- An instruction run on its own: the instance afterwards. -/
def after (c : Instr) (w : IWord) (p : Inst → Bool) : Bool :=
  match exec c (runS w) with
  | .next t => (t.instGet me).any p
  | .fault _ => false
  | .refused _ => false

theorem test_li : after (.li me) (iw 1 0 0 0 0 0 0 0 0 9 0 0 0 77) fun j => j.xr 9 = 77 ∧ j.pc = 1 := by decide +kernel

theorem test_salu_wraps : after (.salu me) (iw 2 0 0 0 0 0 0 0 0 9 4 1 0 0) fun j => j.xr 9 = 9 := by decide +kernel
theorem test_salu_shift : after (.salu me) (iw 2 0 0 0 7 0 0 0 0 9 4 5 0 1) fun j => j.xr 9 = 2 ^ 64 - 1 := by decide +kernel

/-- Signed: X4 = -1 is below X1, whatever the number of empty slots; unsigned it is not. -/
theorem test_br : brTaken 3 (2 ^ 64 - 1) 10 = true ∧ (∀ n ∈ [0, 1, 4], ((((runS 0).countRun (inst1 0) (inst1 0)).slots (inst1 0) 1 0x013 n).commitInst
      (inst1 0) 55).instGet me |>.any fun j => j.pc = 55) ∧
    (after (.br me) (iw 3 0 0 0 5 0 0 0 0 0 4 1 0 55) fun j => j.pc = 1) := by decide +kernel

theorem test_ldp : after (.ldp me) (iw 4 0 0 0 0 0 0 0 0 9 6 0 0 8) fun j => j.xr 9 = 64 := by decide +kernel

theorem test_stp : after (.stp me) (iw 5 0 0 0 0 0 0 0 0 0 6 1 0 0) fun j => byteAt j.sram 0x8000 = 10 ∧ byteAt j.sram 0x8002 = 0 := by decide +kernel

theorem test_pmask_rows : after (.pmask me) (iw 0x0A 0 0 0 0 3 0 0 0 0 2 1 0 0) fun j => j.pr 3 = 0x1FF8 := by decide +kernel

theorem test_halt : after (.halt me) (iw 6 0 0 0 0 0 0 0 0 0 0 0 0 0) fun j => j.halted = true := by decide +kernel

/-- What the remaining scalar statements suppose: a span in the SRAM, a time ahead, an expired wait. -/
theorem test_scalar_premises : (inst1 0).sramOk ((inst1 0).addr (iw 4 0 0 0 0 0 0 0 0 9 6 0 0 8).toNat) 8 8 = true ∧
    ((runI { inst1 0 with wait := .time 0 }).instGet me).map Inst.wait = some (.time 0) ∧ (runS 0).running 1 2 = true ∧
    (runS 0).now < (inst1 0).addr (iw 9 0 0 0 0 0 0 0 0 0 1 0 0 0).toNat ∧ (runS 0).settled = true ∧ 1 ≠ (inst1 0).pc ∧
    (runS 0).instGet me = some (inst1 0) := by decide +kernel

/-- Streams: a tile to take, an END that was taken, an empty input; a tile of an output that has credit; a held input tile. -/
theorem test_stream_premises :
    ((runS 0).inputOf (inst1 0) 0).map (fun p => p.2.buf) = some [tile0] ∧ ((runS 0).outputOf (inst1 0) 0) = some strmI ∧ strmI.fin = false ∧
    ((inst1 0).hget 1).usable = true ∧ (runS 0).canPut strmI ((runS 0).tileOf (inst1 0) ((inst1 0).hget 1)) = true ∧
    (runS 0).roomHere strmI ((runS 0).tileOf (inst1 0) ((inst1 0).hget 1)) = true ∧ (runS 0).canPut strmI (Tile.endMark 0) = true ∧
    (runS 0).roomHere strmI (Tile.endMark 0) = true ∧ (runS 0).life.mstate ≠ .shadow ∧ ((inst1 0).hget 7).kind = 1 ∧
    ((inst1 0).hget 7).view = false ∧ (((runS 0).inputOf (inst1 0) ((inst1 0).hget 7).input).any fun p => p.2.held.any fun t =>
      t.tnum = ((inst1 0).hget 7).tnum) = true := by decide +kernel

def emptyIn (fin : Bool) : State := { runS 0 with stn := { (runS 0).stn with strms := [{ strm4 with cons := [{ cons0 with
  finSeen := fin, credits := 0 }] }] } }

theorem test_stream_waits : ((emptyIn true).inputOf (inst1 0) 0).map (fun p => (p.2.buf, p.2.finSeen)) = some ([], true) ∧
    ((emptyIn false).inputOf (inst1 0) 0).map (fun p => (p.2.buf, p.2.finSeen)) = some ([], false) ∧ (inst1 0).starved = none ∧
    (((emptyIn false).outputOf (inst1 0) 0).map fun st => (emptyIn false).canPut st tile0) = some false := by decide +kernel

theorem test_get : after (.get me) (iw 0x10 0 0 0 0 8 0 0 0 9 0 0 0 0) fun j => (j.hget 8).kind = 1 ∧ (j.hget 8).tag = 9 ∧ j.xr 9 = 0 := by decide +kernel

theorem test_handles : (inst1 0).sramOk ((inst1 0).xr 6) 4096 64 = true ∧ 4096 % 64 = 0 ∧ packedSize 0 1 64 ≤ 4096 ∧
    ((inst1 0).hget 1).usable = true ∧ 0 + 1 ≤ ((inst1 0).hget 1).rows ∧ 64 * 0 + 64 ≤ ((inst1 0).hget 1).rbytes ∧
    ((inst1 0).hget 1).kind = 2 ∧ packedSize 0 2 64 ≤ ((inst1 0).hget 1).cap ∧
    (((inst1 0).hget 1).reshape 2 64).rows = 2 ∧ ((inst1 0).writeTile 4 0 64 [some (zeros 64, [])] false 7).isSome = true ∧
    ((inst1 0).roomFor 4 0 64 1) = true := by decide +kernel

theorem test_tnew : after (.tnew me) (iw 0x14 0 0 0 0 8 0 0 0 0 6 0 0 4096) fun j => j.hget 8 =
    { locH 0 0x8000 with tag := 0, cap := 4096 } := by decide +kernel

theorem test_tinfo : after (.tinfo me) (iw 0x17 0 0 0 3 0 1 0 0 9 0 0 0 0) fun j => j.xr 9 = 7 := by decide +kernel

/-- Tile words: H4 := H1 op H2. -/
def tw (o sat sub : Nat) : IWord := iw o 0 0 sat sub 4 1 2 0 0 0 0 0 0

theorem test_pair : (inst1 (tw 0x30 0 0)).pair ((inst1 0).hget 1) ((inst1 0).hget 2) ∧ (inst1 (tw 0x36 0 0)).one ((inst1 0).hget 1) := by
  unfold Inst.pair Inst.one; decide +kernel

/-- 127 + 2 saturates to 127 with SAT, or wraps to -127 with WRP. -/
theorem test_add : (after (.add me) (tw 0x30 1 0) fun j => byteAt j.sram 0x4000 = 0x7F ∧ j.flags = fSAT) ∧
    (after (.add me) (tw 0x30 0 0) fun j => byteAt j.sram 0x4000 = 0x81 ∧ j.flags = fWRP ∧ j.pc = 1 ∧ byteAt j.sram 0x1000 = 0x7F) := by decide +kernel

theorem test_sub : after (.sub me) (tw 0x31 1 0) fun j => byteAt j.sram 0x403F = 0x7D := by decide +kernel
theorem test_min : after (.min me) (tw 0x34 0 0) fun j => byteAt j.sram 0x4001 = 2 := by decide +kernel
theorem test_max : after (.max me) (tw 0x35 0 0) fun j => byteAt j.sram 0x4001 = 127 := by decide +kernel
theorem test_logic_and : after (.logic me) (tw 0x37 0 0) fun j => byteAt j.sram 0x4001 = 2 := by decide +kernel
theorem test_mul : after (.mul me) (tw 0x32 1 0) fun j => byteAt j.sram 0x4001 = 127 ∧ j.flags = fSAT := by decide +kernel

/-- A result that the handle takes. -/
theorem test_takes : ∃ j, (runS (tw 0x30 1 0)).takes (inst1 (tw 0x30 1 0)) 0 64 [((zeros 64, []), 0)] false j :=
  ⟨_, ⟨_, rfl, rfl⟩, by unfold State.clear; decide +kernel⟩

/-- 127 shifted right by 1 is 63.5, and 64 is the even neighbour. -/
theorem test_shift : after (.shift me) (iw 0x38 0 0 0 0 4 1 0 0 0 0 0 0 1) fun j => byteAt j.sram 0x4000 = 0x40 ∧ j.flags = fINX := by decide +kernel

/-- QSQ: a block of 32 elements of 127 fits 8 bits with the exponent it starts from. -/
theorem test_qsq : after (.qsq me) (iw 0x41 0 3 0 0 6 1 0 0 0 0 0 0 0) fun j => byteAt j.sram 0x6000 = 0x7F ∧ j.flags = 0 := by decide +kernel

theorem test_round : rneShift 5 1 = (2, fINX) ∧ rneShift 7 1 = (4, fINX) ∧ rneShift (-5) 1 = (-2, fINX) ∧ rneShift 3 (-2) = (12, 0) ∧
    fit 128 8 false = (-128, fWRP) ∧ fit (-129) 8 true = (-128, fSAT) := by decide +kernel

theorem test_narrow : narrowBlock [300, -5] 0 8 = ([75, -1], 2, fINX) ∧ ((narrowBlock [300] 127 8).2.2 &&& fXCL) ≠ 0 := by decide +kernel

theorem test_rows : rowInts 2 [0xF1] = [1, -1] ∧ rowInts 1 [0x00, 0x80] = [-32768] ∧ intsRow 2 [1, -1] = [0xF1] ∧
    (∀ e ∈ [(-8 : Int), 7], inRange (fmtBits 2) e = true) := by decide +kernel

/-- The SRAM of the station is canonical, and its handle 4 takes a row. -/
theorem test_read_back : Memory.wf (inst1 0).sram = true ∧ 4 < (inst1 0).h.length ∧ ((inst1 0).hget 4).base % 64 = 0 ∧
    (∃ j, (inst1 0).writeTile 4 0 64 [some (List.replicate 64 1, []), none] false 7 = some j ∧ byteAt j.sram 0x4000 = 1) := by
  refine ⟨by decide +kernel, by decide +kernel, by decide +kernel, _, rfl, by decide +kernel⟩

/-! ### Memory instructions, flows, tiles, retirement -/

/-- A descriptor at X6: base 0x12340000, one row of 64 bytes at a pitch of 64, INT8. -/
theorem test_memory_premises : (descAt (inst1 0) (iw 0x20 0 0 0 0 4 1 2 0 0 6 0 0 0).toNat).map (fun d => (d.base, d.rows, d.rbytes, d.pitch, d.fmt)) =
      some (0x12340000, 1, 64, 64, 0) ∧
    (descAt (inst1 0) (iw 0x20 0 0 0 0 4 1 2 0 0 6 0 0 0).toNat).map (TDesc.bad · true) = some false ∧ (inst1 0).roomFor 4 0 64 1 = true ∧
    indexList ((runS 0).vecOf { inst1 0 with sram := [] } ((inst1 0).hget 2)) 1 = some [0] ∧ ((inst1 0).hget 2).poison = false ∧
    (List.range 1).filter ((inst1 0).rowOn (iw 0x21 0 0 0 0 0 1 0 0 0 6 0 0 0).toNat) ≠ [] ∧
    (inst1 0).addr (iw 0x23 0 0 0 3 0 0 0 0 9 5 0 0 0).toNat % 8 = 0 ∧ (inst1 0).addr (iw 0x23 0 0 0 3 0 0 0 0 9 1 0 8 0).toNat % 8 ≠ 0 ∧
    iNOFAIL (iw 0x23 0 0 0 3 0 0 0 0 9 1 0 8 0).toNat = true ∧ iOWN (iw 0x25 0 6 0 7 0 0 0 0 9 5 0 16 0).toNat = true ∧
    iORD (iw 0x26 0 0 0 0 0 0 0 0 0 0 0 0x60 0).toNat = 3 ∧ (inst1 0).xr 5 % 64 = 0 := by decide +kernel

/-- A load of the station that has ended. -/
def loadDone : State := { runI { inst1 (iw 0x23 0 0 0 3 0 0 0 0 9 5 0 0 0) with wait := .mem 3 } with
  req := { (base .member).req with txs := [{ Tx.blank with id := 3, dest := .stn me, acc := .load, len := 8, closed := true }] } }

theorem test_load_done : (loadDone.instGet me).map Inst.wait = some (.mem 3) ∧ (loadDone.txOf 3).map (fun t => (t.closed, t.stop)) = some (true, none) ∧
    loadDone.running 1 2 = true ∧ loadDone.coreReady (inst1 0) = true := by decide +kernel

theorem test_ld_misaligned : after (.ld (.stn me)) (iw 0x23 0 0 0 3 0 0 0 0 9 1 0 8 0) fun j => j.pc = 1 ∧ j.flags = withLast 0 Status.perm := by
  decide +kernel

theorem test_reduce_premises : indexList [1, 0] 2 = some [1, 0] ∧ indexList [2, 0] 2 = some [2, 0] ∧ [2, 0].foldl (· + ·) 0 ≤ 2 ∧
    (runS 0).hashFree (inst1 0) = true ∧ ({ runS 0 with stn := { (runS 0).stn with cores := [{ core0 with hash := some me }] } }).hashFree
      (inst1 0) = false ∧ ((runS 0).vecOf (inst1 0) ((inst1 0).hget 2)).length = 64 ∧ ((inst1 0).hget 3).isOf 5 = true := by decide +kernel

/-- SHA-384 of nothing (FIPS 180-4 gives its first bytes as 38 B0 60 A7). -/
theorem test_sha : (sha384 []).take 4 = [0x38, 0xB0, 0x60, 0xA7] := by decide +kernel

/-- An image of one station, which halts, and one stream from it to itself. -/
def image : List Byte := wordBytes (
  [0x4D39464C <<< 32 ||| 1 <<< 16 ||| 7, 272 <<< 32 ||| 1 <<< 16 ||| 1, 64 <<< 32 ||| 128, 192 <<< 32 ||| 1, 0x30000, 0, 0, 0] ++
  [4 <<< 60 ||| 1 <<< 55, 256 <<< 32 ||| 1, 0, 1 <<< 32, 0, 0, 0, 0] ++ [4 <<< 48 ||| 5 <<< 44 ||| 3 <<< 20, 0, 16 <<< 32, 0, 0, 0, 0, 0] ++
  [0, 0, 0, 0, 0, 0, 0, 0] ++ [0, 6 <<< 56])

/-- A read of the module's own that has ended with the bytes `bs`, or with the status `st`. -/
def readTx (id : Nat) (bs : List Byte) (st : Nat) : Tx := { Tx.blank with
  id := id, pid := 1, dest := .module, acc := .tileRead, len := bs.length, closed := true
  parts := [⟨0, bs.length, 0, 0, 0, 0, 0, 0, 0, 0, 0, false, .done, st, none, bs, [], 31⟩] }

/-- A module with one cluster of one free core, which reads the image; the range table of partition 1 has one FLAG range of 16 MiB at
FVA 0 (Tables ADR-3 and ADR-4). -/
def loadS (st : Nat) : State := { ((base .member).wr (K.stationCores 1) 4).wr (K.rangeRoot 1) 0x2000 with
  mem := bytesSet (bytesSet [] 0x2000 (wordBytes [2 <<< 62 ||| 0x2040])) 0x2040 (wordBytes [1 <<< 63 ||| 1 <<< 60 ||| 0xF <<< 56, 0x1000,
    1 <<< 44 ||| 0x1000000, 0])
  stn := { (base .member).stn with
    cores := [{ core0 with pid := 64 }], clusters := [(0, 0)], loads := [⟨op, 1, 0x30000, 272, 3⟩] }
  req := { (base .member).req with txs := [readTx 3 (image ++ zeros 48) st] } }

theorem test_flow_load : (base .member).allows op K.flowLoad 1 = true ∧ (base .member).pstate 1 = 1 ∧ 0x30000 % 4096 = 0 ∧
    (0x30000 : Nat) < 2 ^ 57 ∧
    (base .member).lowEp.isSome = true ∧ ((loadS 0).stn.loads.find? fun l => l.pid = 1 && l.fva = 0x30000) = some ⟨op, 1, 0x30000, 272, 3⟩ ∧
    (loadS 0).readEnd 3 272 = .ok image ∧
    (loadS Status.perm).readEnd 3 272 = .failed Status.perm ∧
    Status.perm ≠ Status.refused ∧
    ((loadS 0).setTx { readTx 3 [] 0 with closed := false }).readEnd 3 272 = .open_ := by decide +kernel

theorem test_flow_image : (parseImg image 272).isSome = true ∧ ((parseImg image 272).any fun m => (loadS 0).loadOk 1 m) = true ∧
    ((parseImg image 272).bind fun m => ((loadS 0).place 1 m).1).map (fun l => l.map Prod.snd) = some [(0, 0, 0)] ∧
    ((parseImg image 272).any fun m => ({ loadS 0 with mem := [] }).loadOk 1 m) = false := by decide +kernel

/-- Flow 2 in another state; its station has completed. -/
def flowS (st : FState) (done : Bool) : State :=
  ({ runI { inst1 0 with complete := done } with stn := { (runI { inst1 0 with complete := done }).stn with
    flows := [{ flow2 with fst := st, recDone := done }] } }).wr K.lockState 2

theorem test_flow_life : (flowS .loaded false).allows op K.flowLaunch 1 = true ∧ (flowS .loaded false).locked = true ∧
    (flowS .loaded false).setAt flow2 25000 = true ∧ ((flowS .loaded false).flowGet 1 2).map Flow.fst = some .loaded ∧
    ((timed 100 (flowS .armed false)).flowGet 1 2).map Flow.t = some 100 ∧ (flowS .armed false).inService = true ∧
    (∀ i ∈ (flowS .armed false).stn.insts, i.badHead = false) ∧ (∀ i ∈ (flowS .running true).stn.insts, i.complete = true) ∧
    (flowS .running true).flowTxs 1 2 = [] ∧ (flowS .running true).stn.insts.length = 1 ∧ (flowS .done true).allows op K.flowAbort 1 = true ∧
    (flowS .done false).allows op K.flowUnload 1 = true ∧ ((flowS .done true).flowGet 1 2).map Flow.recDone = some true := by decide +kernel

/-- FLOW_START: PC 0, X1 the MID, X2 the index, X3 the time. -/
theorem test_flow_start : ∃ t, exec (.flowStart 1 2) (timed 100 (flowS .armed false)) = .next t ∧
    (t.instGet me).map (fun i => (i.pc, i.xr 1, i.xr 2, i.xr 3)) = some (0, 1, 1, 100) := ⟨_, rfl, by decide +kernel⟩

/-- A GET that has been front-starved on its input for 5,001 ticks, with a watchdog of 4 µs. -/
def hungryI : Inst := { inst1 (iw 0x10 0 0 0 0 8 0 0 0 9 0 0 0 0) with starved := some (0, 5001), watch := 4 }
def hungry : State := { runI hungryI with stn := { (runI hungryI).stn with strms := [{ strm4 with cons := [cons0] }] } }

theorem test_watchdog : hungry.instGet me = some hungryI ∧ hungryI.starved = some (0, 5001) ∧ hungry.starvedOn hungryI = some 0 ∧
    hungry.running 1 2 = true ∧ hungryI.watch ≠ 0 ∧ 1250 * hungryI.watch < 5001 := by decide +kernel

theorem test_tile_arrival : (runS 0).inService = true ∧ (runS 0).flowGet 1 9 = none ∧ ((flowS .done true).flowGet 1 2).map Flow.fst = some .done ∧
    ((runS 0).strmGet 1 2 4).bind (·.cons? 0) = strmI.cons? 0 ∧ (strmI.cons? 0).map (fun c => (c.expect, c.grant, c.spilled)) = some (0, 0, []) ∧
    (strmI.cons? 0).any (fun c => decide (tile0.bytes ≤ strmI.free c)) = true ∧ strmI.transit = [] ∧
    (1 + 2 ^ 32 - 0) % 2 ^ 32 < 2 ^ 31 ∧ 2 ^ 31 ≤ (2 ^ 32 - 1 + 2 ^ 32 - 0) % 2 ^ 32 := by decide +kernel

/-- A spilled tile in buffer 3; a GATHER in sequence mode whose second span is due at T + 50. -/
def spilled : State := { runS 0 with stn := { (runS 0).stn with strms := [{ strm4 with cons := [{ cons0 with spilled := [(tile0, [3])] }] }] } }

theorem test_spill : ((spilled.strmGet 1 2 4).bind (·.cons? 0)).map Cons.spilled = some [(tile0, [3])] ∧ tile0.bytes ≤ strm4.free cons0 := by
  decide +kernel

def spanI : Inst := { inst1 0 with spans := [64, 0, 128, 50], spanAt := 1 }

theorem test_spans : (timed 200 (runI spanI)).instGet me = some spanI ∧ spanI.span = none ∧ 2 * spanI.spanAt < spanI.spans.length ∧
    spanI.spans.getD (2 * spanI.spanAt + 1) 0 = 50 ∧ flow2.t + 50 ≤ 200 ∧ (timed 149 (runI spanI)).now < flow2.t + 50 ∧ spanI.complete = false ∧
    (timed 200 (runI spanI)).coreReady spanI = true ∧ ((timed 200 (runI spanI)).flowGet 1 2).map Flow.fst = some .running := by decide +kernel

/-- The span being issued has read its descriptor. -/
def spanR : State := { runI { inst1 0 with span := some ⟨0, 1, 0, [(0, 0)], some 3⟩ } with
  req := { (base .member).req with txs := [readTx 3 (zeros 64) 0] } }

theorem test_span_read : (spanR.instGet me).map (fun i => (i.wait, i.span.bind SpanRun.tx)) = some (.none, some 3) ∧
    (spanR.txOf 3).map Tx.closed = some true ∧ spanR.running 1 2 = true ∧ spanR.coreReady (inst1 0) = true := by decide +kernel

theorem test_residue : (runS 0).coreReady (inst1 0) = true ∧ (runS 0).running 1 2 = true ∧ (inst1 0).mism = 0 ∧
    covered (iOP (inst1 (tw 0x30 0 0)).word) = true ∧ ((runS 0).coreOf (inst1 0)).any (fun (c : CoreSt) => c.hash = some me) = false ∧
    (({ runS 0 with stn := { (runS 0).stn with cores := [{ core0 with hash := some me }] } }).coreOf (inst1 0)).any
      (fun (c : CoreSt) => c.hash = some me) = true ∧ covered (iOP (inst1 (tw 0x19 0 0)).word) = false ∧ tileOp (iOP (inst1 (tw 0x19 0 0)).word) = true ∧
    ((inst1 (tw 0x19 0 0)).hget (iHA (inst1 (tw 0x19 0 0)).word)).kind ≠ 0 ∧
    ((runI { inst1 0 with mism := 1 }).instGet me).map Inst.mism = some 1 ∧ (runI { inst1 0 with mism := 1 }).settled = true ∧
    (runS 0).retiringIn 0 0 = false ∧ (runS 0).spareCore 0 0 = true ∧ core0.engUsed = 0 := by decide +kernel

/-- A core, an engine and a cluster that retire. -/
def retireS (n : Nat) : State := { runS 0 with stn := { (runS 0).stn with cores := [{ core0 with retiring := n }], retiring := [(0, 0)], clusters := [(0, 0)] } }

theorem test_retirement : ∀ n ∈ [1, 2], ((retireS n).stn.cores.find? fun c => c.sd = 0 && c.cluster = 0 && c.core = 0) = some { core0 with retiring := n } ∧
    (∀ k ∈ (retireS n).stn.cores, k.retiring ≠ 3) ∧ (retireS n).stn.retiring.contains (0, 0) = true := by decide +kernel

/-- R144: a cluster moves to physical cluster 4 of its die. -/
theorem test_cluster_moves : ∃ t, exec (.clusterRetirementComplete 0 0) (retireS 0) = .next t ∧ t.stn.clusters = [(0, 4)] ∧
    t.rd K.retirements = 1 := ⟨_, rfl, by decide +kernel⟩

/-! ### Rack time and the sluice -/

theorem test_tick : (base .member).pending = [] ∧ State.reset.life.mstate = .off ∧ (base .member).tick.now = 1 ∧
    ({ base .member with tim := ⟨10, true, 0, 0, 16, none, 0, 0, 0, 0, 4095, 0, []⟩ }).tick.now = 12 ∧
    ({ base .member with tim := ⟨10, true, 0, 0, -16, none, 0, 0, 0, 0, 4095, 0, []⟩ }).tick.now = 10 := by decide +kernel

theorem test_reference : ((((base .member).wr K.refSelect 1).wr K.refMode 1).wr K.refaStatus 0).rd K.refaStatus = 0 ∧
    (((base .member).wr K.refSelect 1).wr K.refMode 1).rd K.refSelect ≠ 0 ∧ (base .member).rd K.refMode ≠ 1 := by decide +kernel

/-- REFA is lost: REFB is taken. -/
theorem test_reference_lost : ∃ t, exec (.referenceLost false) (((base .member).wr K.refSelect 0).wr K.refbStatus 0) = .next t ∧
    t.rd K.refSelect = 1 ∧ t.rd K.refaStatus = 1 := ⟨_, rfl, by decide +kernel⟩

/-- Module 2 is the root, over the link of port 2 of module 1 to module 0: the exchange is through MID 0, the root itself. -/
def timeS (lock good bad : Nat) (ever : Bool) : State :=
  { (linkS.wr K.rootMid 0).wr K.lockState lock with tim := ⟨1000, ever, good, bad, 0, none, 0, 0, 0, 0, 0, 0, []⟩ }
def stamp (d : Int) : StampOp := ⟨0, 100 + d, 200, 300 - d, true, 0, 0, 5000, []⟩

theorem test_stamps : (timeS 0 0 0 false).exchangeOk (stamp 0) = true ∧ stampOffset (stamp 30) = 30 ∧ stampOffset (stamp (-31)) = -31 ∧
    stampOffset (stamp 41) = 41 ∧ (timeS 0 0 0 false).tim.everLocked = false ∧ (timeS 1 15 0 true).rd K.lockState = 1 ∧
    (timeS 2 0 3 true).life.mstate ≠ .shadow ∧ (∀ f ∈ (timeS 2 0 3 true).stn.flows, f.fst ≠ .armed) := by decide +kernel

/-- R211: the 16th good estimate locks, the fourth bad one unlocks. -/
theorem test_lock : (∃ t, exec (.timestampExchange (stamp 30)) (timeS 1 15 0 true) = .next t ∧ t.rd K.lockState = 2) ∧
    (∃ t, exec (.timestampExchange (stamp 41)) (timeS 2 0 3 true) = .next t ∧ t.rd K.lockState = 0) := ⟨⟨_, rfl, by decide +kernel⟩, ⟨_, rfl, by decide +kernel⟩⟩

theorem test_root : ((base .member).wr K.rootMid 1).rootServes = true ∧ (base .training).rootServes = false ∧ (base .training).noMember = true ∧
    (base .training).mid < (base .training).meshN ∧ (base .training).tim.everLocked = false ∧ (base .training).allows op K.rtSet 0 = true := by
  decide +kernel

/-- A set of one gate for stream 4 of flow 2 on port 2, open from tick 1000 for 500. -/
def gate2 : Gate := gateOf 1 7 (2 <<< 48 ||| 4 <<< 32 ||| 2 <<< 26) (1000 <<< 44 ||| 499 <<< 28 ||| 3 <<< 16)
def sluImage : List Byte := wordBytes ([0x4D39534C <<< 32 ||| 1 <<< 16 ||| 7, 1 <<< 58 ||| (base .member).rd K.frameLog2 <<< 53 ||| 1, 0, 0, 0, 0, 0, 0] ++
  [2 <<< 48 ||| 4 <<< 32 ||| 2 <<< 26, 1000 <<< 44 ||| 499 <<< 28 ||| 3 <<< 16])
def sluS : State := { base .member with
  slu := ⟨[gate2], [(1, .load 8 [])], [(1, 0)], [⟨op, 1, 0x30000, 80, 3⟩]⟩
  req := { (base .member).req with txs := [readTx 3 (sluImage ++ zeros 48) 0] } }

theorem test_sluice_load : (base .member).allows op K.sluiceLoad 1 = true ∧
    (sluS.slu.loads.find? fun l => l.pid = 1 && l.fva = 0x30000) = some ⟨op, 1, 0x30000, 80, 3⟩ ∧
    sluS.readEnd 3 80 = .ok sluImage ∧
    (0x30000 : Nat) < 2 ^ 57 ∧ (base .member).lowEp.isSome = true ∧
    (base .member).sluiceImage 1 80 sluImage = some (7, [gate2]) ∧ sluS.sluiceImage 1 80 sluImage = none := by decide +kernel

theorem test_sluice_change : sluS.allows op K.sluiceRemove 1 = true ∧ (∃ g ∈ sluS.slu.act, g.pid = 1 ∧ g.set = 7) ∧
    (∀ e ∈ ({ sluS with slu := { sluS.slu with pend := [] } }).slu.pend, e.1 ≠ 1) ∧ (∃ f ∈ (runS 0).stn.flows, f.pid = 1 ∧ f.set = 0) ∧
    sluS.allows op K.sluiceCommit 1 = true ∧ (sluS.slu.commits.find? fun c => c.1 = 1) = some (1, 0) ∧ sluS.boundary 0 ≤ sluS.now ∧
    ({ sluS with slu := { sluS.slu with commits := [(1, 1)] } }).now < sluS.boundary 1 := by decide +kernel

/-- The gate of a running flow, at tick `n`. -/
def gateS (n : Nat) (g : Gate) : State := timed n (({ runS 0 with slu := { (runS 0).slu with act := [g] } }).wr K.lockState 2)

theorem test_gate_edges : (gateS 900 gate2).running 1 2 = true ∧ (gateS 900 gate2).locked = true ∧ (gateS 900 gate2).pstate 1 = 1 ∧
    gate2.nextEdge (gateS 900 gate2).frameTicks 900 = some 1000 ∧ gate2.isOpen = false ∧ 0 = 1200 / (gateS 1200 gate2).frameTicks ∧
    0 % 2 ^ gate2.rep = gate2.phase ∧ 1200 < gate2.opn + gate2.lenm1 + 1 ∧ gate2.closeAt ≠ 1500 := by decide +kernel

theorem test_gate_close : ({ gate2 with isOpen := true, closeAt := 1500 }).closeAt ≤ (gateS 1500 gate2).now ∧ gate2.begun = false ∧
    ({ gate2 with strict := true, begun := true, crossed := 2 }).crossed < gate2.tiles ∧ (gateS 1500 { gate2 with strict := true }).gateStreams
      { gate2 with strict := true, set := 9 } = [] ∧ (gateS 1000 gate2).now < 1500 ∧ ((gateS 1200 gate2).wr (K.partState 1) 2).pstate 1 ≠ 1 := by
  decide +kernel

/-- R221: the window opens at its tick and closes at its end. -/
theorem test_gate_open : ∃ t, exec (.gateOpen 0) (gateS 1000 gate2) = .next t ∧ (t.slu.act[0]?).map (fun g => (g.isOpen, g.closeAt)) = some (true, 1500) :=
  ⟨_, rfl, by decide +kernel⟩

/-! ### Partitions and keys -/

theorem test_part_create : (base .member).allows op K.partCreate 0 = true ∧ (base .member).pstate 63 = 0 ∧ (base .member).life.mstate ≠ .draining ∧
    (base .member).pstate 1 ≠ 0 ∧ (base .member).allows op K.partClose 0 = true ∧ (base .member).pstate 1 = 1 ∧ (base .member).pstate 2 ≠ 1 := by
  decide +kernel

/-- The teardown of partition 1, at tick `n` after its CLOSING, with an open frame of it or with none. -/
def downS (n : Nat) (open_ : Bool) : State :=
  let s := (timed n ((base .member).wr (K.partState 1) 2)).setPeer 2 fun p => { p with
    opens := if open_ then [⟨0, rq 0x26, 0, 0, 0, [], false, 0, none⟩] else [] }
  { s with sec := { s.sec with downs := [⟨1, 0, 0, 0, 0, 0, 0, 0, 0, 0, 0, 0, 0, 0, 0, 0⟩] } }

theorem test_teardown : (∀ s ∈ [downS 0 false, downS 10 true, downS 62500 true],
      (s.sec.downs.find? fun d => d.pid = 1).map Teardown.closeAt = some 0 ∧ s.pstate 1 = 2) ∧
    (downS 0 false).drained 1 = true ∧ (downS 10 true).drained 1 = false ∧ (downS 10 true).now < 0 + 62500 ∧ 0 + 62500 ≤ (downS 62500 true).now := by
  decide +kernel

/-- Granule 0x100000 is unowned, 0x100001 is PID 1's, 0x100002 is in SCRUB and waits for the device. -/
def ownS : State := { base .member with
  own := [(0x100000, 0), (0x100001, 0x41)], fills := [⟨0, 0x100002, 0x100004, none⟩], mem := [(0x100002FFFF, 7), (0x1000030000, 8)] }

theorem test_grant : ownS.allows op K.ownGrant 0 = true ∧ ownS.allows op K.ownRelease 0 = true ∧ ownS.grantable (0x100000 * 65536) = true ∧
    ownS.grantable (0x100001 * 65536) = true ∧ bits (ownS.granule 0x100000) 7 6 = 0 ∧ bits (ownS.granule 0x100001) 7 6 = 1 ∧
    (ownS.fills.find? fun f => f.dev = 0) = some ⟨0, 0x100002, 0x100004, none⟩ ∧ ownS.fills? 0 = true := by decide +kernel

/-- R328: the granule that the device has filled is unowned and reads zero; the next one is as it was. -/
theorem test_zero_fill : ∃ t, exec (.zeroFillGranuleDone 0) ownS = .next t ∧ t.mem = [(0x1000030000, 8)] ∧ t.granule 0x100002 = 0 ∧
    t.granule 0x100003 = 0x80 := ⟨_, rfl, by decide +kernel⟩

theorem test_own_grant : ∃ t, exec (.ownGrant op 0x1000000000 1 1) ownS = .next t ∧ t.granule 0x100000 = 0x41 ∧ t.granule 0x100002 = 0x80 :=
  ⟨_, rfl, by decide +kernel⟩

/-- The sender is context 5 of EP 0, partition 1. -/
def byCtx : Origin := .ctx 0 5

theorem test_keys_agree : conn.allows byCtx (K.keyAgree 1) 0 = true ∧ conn.senderPid byCtx = some 1 ∧ conn.pstate 1 = 1 ∧ conn.slotInUse 1 7 = false ∧
    (zeros 97).length = 97 ∧ (zeros 48).length = 48 ∧ conn.allows byCtx (K.attest 1) 0 = true ∧ conn.allows byCtx (K.regionRegister 1) 0 = true ∧
    conn.lowEp.isSome = true ∧ conn.sec.region = none ∧
    ({ conn with sec := { conn.sec with region := some ⟨byCtx, 1, 0x1000, 4096, 3⟩ } }).sec.region ≠ none := by decide +kernel

/-- R332: slot 2 takes KEY_ID 0 and kind 3, and the next KEY_ID is 1. -/
theorem test_key_agree : ∃ t, exec (.keyAgree byCtx 1 2 3 (zeros 97) (zeros 48)) conn = .next t ∧ t.rd (K.keySlot 1 2) = 3 <<< 12 ∧
    t.sec.keyNext = 1 := ⟨_, rfl, by decide +kernel⟩

/-! ### Management -/

def openOp (n : Nat) : SessionOpenOp := ⟨⟨0x4D44, 1, 338, true, false⟩, false, zeros 97, zeros 97, zeros 48, zeros n⟩

/-- With a manager key that is not the sender's, no signature is good. -/
theorem test_session_refused : ((base .member).wr K.mgrKeyHash 1).managerOk (openOp 96) = false := by
  have h : (((base .member).wr K.mgrKeyHash 1).rd K.mgrKeyHash = 0 || ((base .member).wr K.mgrKeyHash 1).rd K.mgrKeyHash =
    leNat (sha384 (openOp 96).staticKey)) = false := by decide +kernel
  rw [State.managerOk, h, Bool.and_false]

theorem test_sessions : (base .member).managed = true ∧ mdpSound (openOp 96).head 338 = true ∧ (openOp 96).staticKey.length = 97 ∧
    (openOp 96).nonce.length = 48 ∧ (∃ n ∈ (base .member).mgt.sessions, n.id = 1) ∧ (openOp 95).sig.length ≠ 96 ∧ (openOp 96).sig.length = 96 ∧
    (∃ n ∈ (timed 75000000000 (base .member)).mgt.sessions, n.lastUse + 75000000000 ≤ (timed 75000000000 (base .member)).now ∧ n.id = 1) ∧
    (∀ n ∈ (base .member).mgt.sessions, n.id ≠ 2) ∧ (base .member).allows op K.mgrKeyHash 0 = true := by decide +kernel

/-- A session that has received requests 100 and 99 and answered 99; request 100 runs since tick 0. -/
def sess : Session := ⟨1, false, 100, [⟨100, none, 0, false, false⟩, ⟨99, some (0, false, [1]), 0, false, false⟩], 1, 1, 0⟩
def sessS : State := { timed 250000000 (base .member) with mgt := { (base .member).mgt with sessions := [sess] } }
def ask (seq : Nat) (ok : Bool) : MdpReq := ⟨⟨0x4D44, 1, 0, ok, false⟩, 1, seq, false, 0x1000, 0, 0, 0, []⟩

theorem test_requests_of_sessions : (sessS.mgt.sessions.find? fun n => n.id = (ask 101 true).session) = some sess ∧ sessS.managed = true ∧
    sess.seqCase 101 = .fresh ∧ sess.seqCase 36 = .below ∧ sess.seqCase 37 = .fresh ∧
    sess.seqCase 99 = .seen ⟨99, some (0, false, [1]), 0, false, false⟩ ∧ sess.overdue 100 sessS.now = true ∧ sess.high < 101 ∧ 36 + 64 ≤ sess.high ∧
    (ask 5 false).head.tagOk = false ∧ (ask 5 false).head.fragment = false ∧ (ask 101 true).val.length ≤ 1024 ∧
    (ask 101 true).head = ⟨0x4D44, 1, (ask 101 true).val.length, true, false⟩ := by decide +kernel

/-- R356: a repeat is answered with the recorded answer. -/
theorem test_repeat : ∃ t, exec (.write (ask 99 true)) sessS = .next t ∧ t.out = [.reply (.mdp 1 99) false 0 false false [1]] ∧
    t.rd K.mdpDuplicates = 1 := ⟨_, rfl, by decide +kernel⟩

/-- Writes that have waited 10 ms, and the bank that is newest. -/
def dirtyS (newB : Bool) (n : Nat) : State := timed n { base .member with nv := ⟨if newB then Bank.blank else Bank.whole 5 [], if newB then Bank.whole 5 []
  else Bank.blank, true, [], 0⟩ }

theorem test_commit : (∀ b ∈ [true, false], (dirtyS b 12500000).nv.dirty = true ∧ (dirtyS b 12500000).managed = true ∧
      (dirtyS b 12500000).nv.newestB = b ∧ (dirtyS b 12500000).nv.since + 12500000 ≤ (dirtyS b 12500000).now) ∧
    (dirtyS true 12499999).now < (dirtyS true 12499999).nv.since + 12500000 := by decide +kernel

/-! ### Counters, snapshots, faults, the shadow -/

/-- Overflow of counter 7 of bank 23 waits; its control word asks for a report and for a sample. -/
def ctrS : State := ({ base .member with mgt := { (base .member).mgt with ovfPend := [191] } }).wr (K.ctl 23 7) (3 <<< 29 ||| 1)

theorem test_counter_entries : ctrS.allows op (K.ctl 23 7) 0 = true ∧ ctrS.allows op (K.ctr 23 7) 0 = true ∧ ctrS.allows op (K.ovf 23) 0 = true ∧
    ctrS.settle op ((ctrS.senderPid op).getD 0) (K.ctl 23 7) 0 1 = (ctrS, 1, false) ∧
    ctrS.settle op ((ctrS.senderPid op).getD 0) (K.ctr 23 7) 0 (2 ^ 47) = (ctrS, 2 ^ 47, false) ∧ ctrS.mgt.ovfPend.contains (8 * 23 + 7) = true ∧
    (ctrS.rd (K.ctl 23 7)).testBit 29 = true ∧ (ctrS.rd (K.ctl 23 7)).testBit 30 = true ∧ (base .member).mgt.ovfPend.contains 191 = false := by
  decide +kernel

theorem test_ovf_write : ∃ t, exec (.ovf op 0 2) ((base .member).wr (K.ovf 0) 3) = .next t ∧ t.rd (K.ovf 0) = 1 := ⟨_, rfl, by decide +kernel⟩

/-- A snapshot that is due, in LOCKED, of a counter that holds 42. -/
def snapS : State := timed 30000 (({ base .member with mgt := { (base .member).mgt with snapTs := some 25000 } }).wr (K.ctr 3 2) 42)

theorem test_snapshot : (base .member).allows op K.snapAt 0 = true ∧ (base .member).locked = true ∧ (base .member).now + 25000 ≤ 25000 ∧
    (base .member).mgt.snapTs = none ∧ snapS.mgt.snapTs = some 25000 ∧ 25000 ≤ snapS.now ∧ (timed 24999 snapS).now < 25000 ∧
    ownS.ownedByZero 0x1000010000 = false ∧ ownS.allows op K.sampleRingBase 0 = true := by decide +kernel

theorem test_snapshot_taken : ∃ t, exec .snapshotTaken snapS = .next t ∧ t.rd (K.snapCtr 3 2) = 42 ∧ t.rd K.snapState = 2 ∧ t.rd K.snapTime = 25000 :=
  ⟨_, rfl, by decide +kernel⟩

/-- Every granule is PID 0's where the list of the map is long enough only at granule 0x100000: the ring lies there. -/
theorem test_ring_granule : ({ base .member with own := [(0x100000, 0x40)] }).ownedByZero 0x1000000000 = true := by decide +kernel

theorem test_die_faults : (base .member).managed = true ∧ (base .member).epUp 3 = true ∧ ({ base .member with ep := { (base .member).ep with dead := [3] } }).epUp 3 = false ∧
    (base .member).lnk.oeDead.contains 7 = false ∧ (base .member).meshN ≤ 3 + 1 ∧ (base .member).life.mstate ≠ .off ∧
    ((base .member).wr (mgmtKey true) 1).rd (mgmtKey true) ≠ 0 := by decide +kernel

/-- A shadow of module 2, comparing since tick 0, with one digest of its own. -/
def shdS (own : Nat) : State :=
  let s := { runS 0 with life := ⟨.shadow, false, false, none, 0⟩ }
  let t := ((s.wr K.lockState 2).wr K.shadowPartner 2).setPeer 2 fun p => { p with vstate := 3 }
  { t with shd := { t.shd with startAt := some 0, running := true, own := [(⟨1, 2, 1, 0, 0⟩, own)] } }

theorem test_shadow : (shdS 5).life.mstate = .shadow ∧ (shdS 5).allows op K.shadowPartner 0 = true ∧ (shdS 5).locked = true ∧
    ((shdS 5).peer 2).vstate = 3 ∧ (shdS 5).settle op (((shdS 5).senderPid op).getD 0) K.shadowPartner 0 2 = (shdS 5, 2, false) ∧
    ((shdS 5).peer 0).vstate ≠ 3 ∧ (shdS 5).running 1 2 = true ∧ (shdS 5).shd.outs.contains me = false ∧
    ((shdS 5).instGet me).bind (·.ins[0]?) = some 4 ∧ ((shdS 5).strmGet 1 2 4).any (fun st => st.cons.any fun c => c.station = some 1 && c.expect = 0) = true ∧
    ((shdS 5).intoBuf 1 2 4 0 tile0).2 = .done ∧ (shdS 5).shd.own = [(⟨1, 2, 1, 0, 0⟩, 5)] ∧ (shdS 5).settled = true ∧
    (timed (1250000000 * (shdS 5).rd K.shadowPeriod) (shdS 5)).shd.startAt = some 0 := by decide +kernel

/-- SHADOW_MIN_TILES at 0: the comparison passes after its period. -/
theorem test_shadow_pass : ∃ t, exec .shadowPass (timed (1250000000 * (shdS 5).rd K.shadowPeriod) ({ shdS 5 with shd := { (shdS 5).shd with
    compared := (shdS 5).rd K.shadowMinTiles } })) = .next t ∧ t.rd K.shadowResult = 2 := ⟨_, rfl, by decide +kernel⟩

/-- R20, on 4 modules: from module 1 to module 0 port 2, back port 0; on 17 modules module 16 reaches module 15 through FP15. -/
theorem test_ports_and_peers : (base .member).portTo 0 = 2 ∧ (base .member).midAt 2 = 0 ∧ ((base .member).wr K.mid 0).portTo 1 = 0 ∧
    (((base .member).wr K.meshN 17).wr K.mid 16).portTo 15 = 15 ∧ 2 ≤ (base .member).meshN ∧ (base .member).mid < (base .member).meshN := by
  decide +kernel

theorem test_fault_declare : (base .shadow).managed = true ∧ (base .shadow).limited op = false ∧ (base .shadow).senderPid op = some 0 ∧
    conn.senderPid byCtx = some 1 ∧ conn.limited byCtx = false := by decide +kernel

/-- R385: from SHADOW to FAILED, and RECOVER to MAINTENANCE. -/
theorem test_fault_declared : ∃ t, exec (.faultDeclare op 1) (base .shadow) = .next t ∧ t.life.mstate = .failed ∧ t.allows op K.stateRequest 0 = true :=
  ⟨_, rfl, by decide +kernel⟩

/-! ### Further premises -/

theorem test_strm_pool : (connS.strmBack { msg with addr := 2 <<< 48 ||| 6 <<< 32, data := tile0.packed } 64).strmCtx
      { msg with addr := 2 <<< 48 ||| 6 <<< 32, data := tile0.packed } 64 = some ctx5 ∧
    ((connS.strmBack msg 64).flowGet 1 2).map Flow.fst = some .running ∧
    ((connS.strmBack msg 64).strmGet 1 2 6).map (fun st => (st.pmid, st.pep, st.pctx, st.fin)) = some ((connS.strmBack msg 64).mid, 0, 5, false) ∧
    ((connS.strmBack msg 0).strmGet 1 2 7).any (fun st => st.cons.any fun k => decide (3 + k.got ≤ st.depth)) = true ∧
    connX.capOn 0 = true ∧ epOfPort 0 = msg.ep ∧ capUnits msg ≤ 64 ∧ msg.poi = false := by decide +kernel

theorem test_ring_consumed : ∃ r ∈ ((((connF.wr (K.faultRingEntries 1) 64).wr (K.faultRingHead 1) 1).ringConsumed 1).xl.recs), r.pid = 1 ∧ r.inRing = true := by
  decide +kernel

theorem test_mirror_lines :
    (lost3 (homeOf (retryOf 0x26))).servable { retryOf 0x26 with retry := false, mtype := mtNormal } = true ∧
    (lost3 (homeOf (retryOf 0x26))).lineAhead 0 { retryOf 0x26 with retry := false, mtype := mtNormal } = false ∧
    ((lost3 (homeOf (retryOf 0x26))).takeIn 0 |>.noteDegraded 1 3).homeRefuses { retryOf 0x26 with retry := false, mtype := mtNormal } = none ∧
    isAtomic (retryOf 0x26) = false ∧ isAtomic (retryOf 0x38) = true ∧ (retryOf 0x38).op < 0x52 ∧
    ((({ lost3 (homeOf (retryOf 0x38)) with home := { (homeOf (retryOf 0x38)).home with mirrorWin := [⟨2, 9, 4, [1073741825], 7⟩] } }).takeIn 0).noteDegraded
      1 3).mirrorDup (retryOf 0x38) = some ⟨2, 9, 4, [1073741825], 7⟩ ∧
    (∀ e ∈ (tierS 1).home.held, e.why ≠ .moved 5) ∧ (tierS 1).home.backs = [] ∧ (tierS 1).home.cold = [] ∧
    (({ (homeOf (rq 0x26)).home with held := [⟨rh (rq 0x26), .retry⟩] }).held[0]?).map Held.why = some .retry := by decide +kernel

theorem test_hosts_hold : (homeOf hq).home.lostHosts.testBit (4 * hq.src + hq.context % 4) = false ∧
    recallS.frameMoving (1073741825 * 64) = false := by decide +kernel

theorem test_switch_premises : linkS.classIn good.tc = true ∧ (base .training).classIn good.tc = false ∧ linkS.hasCredit 2 good.tc good.cells = true ∧
    ((linkS.mapSw fun x => { x with credits := [(8 * 2 + 2, 100000)] }).hasCredit 2 good.tc good.cells) = false ∧
    ({ coreF 1 good with ingress := 16, started := [] }).started = [] ∧ good.dst = linkS.mid ∧
    ({ coreS 1 good with sw := { linkS.sw with frames := [{ coreF 1 { good with tc := 0 } with egr := [egHome], started := [] }] } }).turn egHome 0 =
      some { coreF 1 { good with tc := 0 } with egr := [egHome], started := [] } := by decide +kernel

/-- A STREAM frame of flow 2's stream 4 before the open gate of port 2. -/
def gated : State :=
  let s := gateS 1200 { gate2 with isOpen := true, closeAt := 1500 }
  let f : Frame := { Frame.blank with kind := kStream, tc := 1, src := 1, dst := 0, pid := 1, fpa := 2 <<< 40 ||| 4 <<< 24 }
  { s with stn := { s.stn with flows := [{ flow2 with set := 7 }] }, sw := { s.sw with frames := [⟨9, f, 24, 0, 1, [2], [], 1, 0, false, [], false, [], none, [0]⟩] } }

theorem test_gated : (gated.openGate 2).isSome = true ∧ (gated.arbitrate 2).2.isSome = true := by decide +kernel

theorem test_pointers : (parkS.wr K.tbufCount 16).ringBuf ((parkS.wr K.tbufCount 16).ringEntry 7) = some 7 ∧
    (parkS.wr K.tbufCount 16).bufRefs 7 = 0 ∧ (parkS.wr K.tbufCount 16).sw.tbCache.contains 7 = false ∧
    (parkS.wr K.tbufCount 16).ringBuf 1 = none := by decide +kernel

/-- R237: a pointer that is no aligned address of the pool is not used. -/
theorem test_bad_pointer : (((parkS.wr K.tbufCount 16).mapSw fun x => { x with tbRing := [(7, 1)] }).cacheBuf 1).sw.tbCache = [3, 4, 5] := by decide +kernel

/-- R237: a damaged ring entry is not taken as a pointer; a sound one is. -/
def ringS : State := (parkS.wr K.tbufCount 16).mapSw fun x => { x with tbRing := [(7, 2)], ringSeen := [(7, 1)] }

theorem test_ring_damage : ringS.ringRead 7 = 1 ∧ ringS.ringRead 8 = ringS.rd K.tbufBase + 4096 * 8 ∧
    ((ringS.cacheBuf (ringS.ringRead 7)).cacheBuf (ringS.ringRead 8)).sw.tbCache = [3, 4, 5, 8] := by decide +kernel

/-- Port 0 of module 1 leads to module 2, port 2 to module 0. -/
def leadS : State := (linkS.wr (K.fpState 0) psUp).wr (K.fpSpareMap 0) 0x1F

theorem test_daily : leadS.midAt 0 = 2 ∧ leadS.mid < leadS.midAt 0 ∧ leadS.midAt 2 < leadS.mid ∧ leadS.fpTrained 0 = true ∧ (leadS.fport 0).dayTest = none ∧
    (leadS.wr K.qualPhase leadS.taiSecond).taiSecond = (leadS.wr K.qualPhase leadS.taiSecond).rd K.qualPhase ∧
    (leadS.wr K.qualPhase (leadS.taiSecond + 1)).taiSecond ≠ (leadS.wr K.qualPhase (leadS.taiSecond + 1)).rd K.qualPhase := by decide +kernel

theorem test_prbs : (16 <<< 23 : Nat).testBit 28 = false ∧ (cxlS.mapHome fun x => { x with lostHosts := 2 ^ 8 }).home.lostHosts.testBit (4 * 2 + 0) = true ∧
    (2 : Nat) ≠ cxlS.mid := by decide +kernel

/-- The core has selected another instance, which can run a NOP. -/
def otherS : State :=
  let s := runS 0
  { s with stn := { s.stn with insts := s.stn.insts ++ [{ inst1 0 with who := ⟨1, 2, 0⟩ }], cores := [{ core0 with sel := some ⟨1, 2, 0⟩ }] } }

theorem test_selection : otherS.instGet me = some (inst1 0) ∧ otherS.mayRun (inst1 0) = false ∧ otherS.starvedOn (inst1 0) = none := by decide +kernel

/-- R178: the word at X6 is still being absorbed. -/
def hashS (w : IWord) : State :=
  { runS w with stn := { (runS w).stn with cores := [{ core0 with hash := some me, absorb := [(0x8000, 8)] }] } }

theorem test_absorbing : (hashS (iw 5 0 0 0 0 0 0 0 0 0 6 1 0 0)).absorbing (inst1 (iw 5 0 0 0 0 0 0 0 0 0 6 1 0 0))
    ((inst1 (iw 5 0 0 0 0 0 0 0 0 0 6 1 0 0)).wrote (inst1 (iw 5 0 0 0 0 0 0 0 0 0 6 1 0 0)) (iw 5 0 0 0 0 0 0 0 0 0 6 1 0 0).toNat) = true := by
  decide +kernel

/-! ### Stations of a collective (Table COL-4) -/

/-- Station 1 as one of type `t` of a collective whose header's words are `hdr`. -/
def colI (t : Nat) (hdr : List Nat) (w : IWord) : Inst := { inst1 w with typ := t, col := ColSt.init hdr }

/-- A routing row of K = `k` whose slot 0 names expert `e` with weight 3. -/
def routeRow (k e : Nat) : List Byte := leBytes 2 e ++ zeros 14 ++ leBytes 2 3 ++ zeros 14 ++ leBytes 1 k ++ zeros 31

/-- KMAX 1, EXPERTS 2, CAPS 1. -/
def hdrD : List Nat := [7 <<< 60, 0, 0, 0, 1 <<< 46 ||| 1 <<< 34 ||| 1 <<< 18, 0, 0, 0]

/-- R185: the second row for expert 1 finds its CAPS used up; a K of 2 or an expert 2 fails the station. -/
theorem test_routing : (((colI 7 hdrD 0).getRouting [(routeRow 1 1, []), (routeRow 1 0, []), (routeRow 1 1, [])]).map fun j =>
      (j.col.plan, j.col.dropped)) = some ([⟨0, 1, 0⟩, ⟨1, 0, 0⟩], 1) ∧
    (colI 7 hdrD 0).getRouting [(routeRow 2 0, [])] = none ∧ (colI 7 hdrD 0).getRouting [(routeRow 0 0, [])] = none ∧
    (colI 7 hdrD 0).getRouting [(routeRow 1 2, [])] = none := by decide +kernel

/-- R184: two counts of 3 and 4 make 448 bytes. -/
theorem test_counts : ((colI 1 [5 <<< 60 ||| 1 <<< 43] 0).receives = true) ∧ (colI 1 [5 <<< 60 ||| 1 <<< 43] 0).countsIn = false ∧
    (colI 1 [5 <<< 60 ||| 1 <<< 43] 0).colMembers = 2 ∧ ((colI 1 [5 <<< 60 ||| 1 <<< 43] 0).mapCol fun c => { c with
      counts := leBytes 4 3 ++ leBytes 4 4 }).countsIn = true := by decide +kernel

/-- R197: the positions of both inputs, 2 and 3, add up from the first one of input 0; a tile of another H fails the station. -/
theorem test_merge : (((({ colI 3 [9 <<< 60] 0 with ins := [4, 5] }).getPartial 0 { tile0 with tag := 8 <<< 40 ||| 1 <<< 16 }).bind fun i =>
      i.getPartial 1 { tile0 with tag := 10 <<< 40 ||| 2 <<< 16 }).bind fun (i : Inst) => (i.putPartial tile0).map fun (p : Inst × Tile) => p.2.tag) = some (8 <<< 40 ||| 4 <<< 16) ∧
    ((({ colI 3 [9 <<< 60] 0 with ins := [4, 5] }).getPartial 0 tile0).bind fun i => i.getPartial 1 { tile0 with rbytes := 128 }) = none := by
  decide +kernel

/-- A GET whose tile breaks the rule of its collective, and a PUT of rows that no slot names. -/
def mergeI : Inst := let i := colI 3 [9 <<< 60] (iw 0x10 0 0 0 0 8 0 0 0 9 0 0 0 0)
  { i with col := { i.col with merge := [⟨1, 0, 2, 64, 0⟩] } }

theorem test_collective_refuses : (runI mergeI).canRun me 0x10 mergeI ∧
    ((runI mergeI).inputOf mergeI 0).map (fun p => p.2.buf) = some [tile0] ∧ (runI mergeI).colGet mergeI 0 (Handle.ofInput 0 tile0) tile0 = none ∧
    (colI 7 hdrD (iw 0x11 0 0 0 0 0 1 0 0 0 0 0 0 0)).colPut tile0 = none ∧
    (runI (colI 7 hdrD (iw 0x11 0 0 0 0 0 1 0 0 0 0 0 0 0))).canRun me 0x11 (colI 7 hdrD (iw 0x11 0 0 0 0 0 1 0 0 0 0 0 0 0)) ∧
    (runS 0).putReady strmI (Tile.endMark 0) = true := by
  unfold State.canRun; decide +kernel

/-- R136: a SEQRD waits while the span of its positions is issued. -/
theorem test_seq_held : ({ inst1 0 with span := some ⟨0, 1, 0, [(0, 0)], some 3⟩ }).seqHeld (iw 0x28 0 0 0 0 4 0 0 0 0 5 0 0 0).toNat = true ∧
    (inst1 0).seqHeld (iw 0x28 0 0 0 0 4 0 0 0 0 5 0 0 0).toNat = false := by decide +kernel

/-- R187: the sums of a GATHERSUM station that are handed on. -/
theorem test_bag_fits : bagFits 0 1 [[(5, 0)]] = true ∧ bagFits 0 1 [[(2 ^ 63, 0)]] = false ∧ (colI 9 [9 <<< 60] 0).colIs 9 = true := by decide +kernel

/-! ### References and the root -/

/-- REFA has been without a fault since tick 0. -/
def refS (n st : Nat) : State := timed n (((base .member).wr K.refaStatus st).wr K.refMode 1 |>.wr K.refSelect 1)

theorem test_references : (refS 124999999 1).rd (refKey false) ≠ 0 ∧ (refS 124999999 1).now < (refS 124999999 1).refAt false + 125000000 ∧
    (refS 125000000 2).refAt false + 125000000 ≤ (refS 125000000 2).now ∧ (refS 125000000 0).rd K.refaStatus = 0 ∧
    (refS 125000000 0).rd K.refSelect ≠ 0 ∧ (refS 125000000 0).rd K.refMode = 1 := by decide +kernel

/-- R204: a reference that has been without a fault for 100 ms is usable, and one for less is QUALIFYING. -/
theorem test_qualified : (∃ t, exec (.referenceQualified false) (refS 125000000 2) = .next t ∧ t.rd K.refaStatus = 0) ∧
    (∃ t, exec (.referenceQualified false) (refS 124999999 1) = .next t ∧ t.rd K.refaStatus = 2) :=
  ⟨⟨_, rfl, by decide +kernel⟩, ⟨_, rfl, by decide +kernel⟩⟩

/-- A mesh that forms, with the link to module 0 up. -/
def formS : State := ((base .training).wr (K.fpState 2) psUp).setFp 2 fun p => { p with keyed := true }

theorem test_root_choice : (base .training).rootChoice [] = some (base .training).mid ∧ formS.rootServes = false ∧ formS.rootChoice [0] = some 0 ∧
    (0 : Nat) ≠ formS.mid ∧ formS.rootChoice [0] ≠ some 2 := by decide +kernel

/-- R210: a module whose counter follows the root exchanges through the direct link. -/
theorem test_acquire : (((timeS 0 0 0 false).mapTim fun t => { t with lockedPeers := [] }).acquire).rd K.lockState = 1 ∧
    (((timeS 0 0 0 false).mapTim fun t => { t with lockedPeers := [] }).acquire).exchangeOk (stamp 0) = true ∧ (stamp 0).direct = true ∧
    (base .member).exchangeOk (stamp 0) = false := by decide +kernel

/-! ### Regions and datagrams -/

/-- A region whose bytes have been read. -/
def regionS : State := { conn with sec := { conn.sec with region := some ⟨byCtx, 1, 0x1000, 4096, 3⟩ }, req := { conn.req with txs := [readTx 3 (zeros 4096) 0] } }

theorem test_region : regionS.sec.region = some ⟨byCtx, 1, 0x1000, 4096, 3⟩ ∧ regionS.pstate 1 = 1 ∧
    ({ regionS with req := { conn.req with txs := [readTx 3 [] Status.homeLost] } }).readEnd 3 4096 = .failed Status.homeLost ∧
    (match regionS.readEnd 3 4096 with | .ok _ => true | .open_ => false | .lost => false | .failed _ => false) = true := by decide +kernel

theorem test_datagrams : (MdpHead.mk 0x4D44 1 0 true true).fragment = true ∧ (MdpHead.mk 0x4D45 1 0 true false).magic ≠ 0x4D44 ∧
    mdpSound (MdpHead.mk 0x4D44 1 0 true false) 0 = true := by decide +kernel

/-! ### Well-formed commands: an ill-formed one for each check, which is refused -/

theorem test_wf_ports : Instr.wf (.portTrainingStart (.fp 15)) = true ∧ Instr.wf (.portTrainingStart (.fp 16)) = false ∧
    Instr.wf (.portTrainingStart (.ap 16 [])) = false ∧ Instr.wf (.portTrainingStart (.cp 4)) = false ∧ Instr.wf (.keepaliveTimeout 16) = false ∧
    Instr.wf (.cpLinkDown 4) = false ∧ Instr.wf (.oeDieFault 8) = false ∧ Instr.wf (.egressArbitration 44 []) = false := by decide

theorem test_wf_origins : Instr.wf (.drain (.ctx 4 0)) = false ∧ Instr.wf (.drain (.ctx 0 1024)) = false ∧ Instr.wf (.drain (.host 4)) = false ∧
    Instr.wf (.drain (.ctx 3 1023)) = true ∧ Instr.wf (.fpAdmin op 16 0) = false := by decide

theorem test_wf_messages : Instr.wf (.bld msg) = true ∧ Instr.wf (.bld { msg with ep := 4, port := 16 }) = false ∧ Instr.wf (.bld { msg with port := 4 }) = false ∧
    Instr.wf (.bld { msg with ctx := 1024 }) = false ∧ Instr.wf (.bld { msg with tag := 65536 }) = false ∧ Instr.wf (.mbxq msg 64 (.ctxUnbind 0 0)) = false ∧
    Instr.wf (.ctrwaitTimeout 4 0 0) = false ∧ Instr.wf (.ctrwaitTimeout 0 1024 0) = false := by decide

theorem test_wf_modules : Instr.wf (.peerLossTimeout 17) = false ∧ Instr.wf (.ackArrival 17 []) = false ∧ Instr.wf (.resendTimerExpiry 17 0) = false ∧
    Instr.wf (.hostLossSweepEnd 17 0) = false ∧ Instr.wf (.hostLossSweepEnd 0 4) = false ∧ Instr.wf (.rootHandover ⟨17, []⟩) = false := by decide

theorem test_wf_stations : Instr.wf (.add ⟨63, 0, 0⟩) = true ∧ Instr.wf (.add ⟨64, 0, 0⟩) = false ∧ Instr.wf (.ld (.stn ⟨64, 0, 0⟩)) = false ∧
    Instr.wf (.atomicAdd (.stn ⟨64, 0, 0⟩)) = false ∧ Instr.wf (.hashUnitDone 4 0 0) = false ∧ Instr.wf (.hashUnitDone 0 5 0) = false ∧
    Instr.wf (.hashUnitDone 0 0 9) = false ∧ Instr.wf (.clusterRetirementComplete 0 5) = false ∧ Instr.wf (.stationDieFault 4) = false := by decide

theorem test_wf_rest : Instr.wf (.frameHeaderArrival 33 Frame.blank []) = false ∧ Instr.wf (.frameHeaderArrival 0 { Frame.blank with kind := 5 } []) = false ∧
    Instr.wf (.frameHeaderArrival 0 { Frame.blank with tc := 8 } []) = false ∧ Instr.wf (.epDieFault 4) = false ∧ Instr.wf (.zeroFillGranuleDone 5) = false ∧
    Instr.wf (.counterOverflow 24 0 ⟨0, 0, 0, 0, 0, 0, 0, 0, 0, 0⟩) = false ∧ Instr.wf (.closingNotice 0 64) = false ∧ Instr.wf (.flowDone 64 0) = false := by decide

end Sys2Proof.Tests
end

/-! Proofs about the module's architecture (chapter 1): the write of an RWM entry (R28) and the cabling of the mesh (R20). -/

namespace Sys2Proof.Machine

open Sys2Proof

/-! ### R28: a write that its gate stops -/

theorem exec_dictWrite (o : Origin) (ix sub ty : Nat) (val : List Byte) {s : State} (hs : s.managed = true) :
    exec (.dictWrite o ix sub ty val) s = .next (s.dictSet o ix sub ty val) := by
  change execDictWrite o ix sub ty val s = _
  simp [execDictWrite, hs]

/-- A response of a command is no write: every entry of the dictionary is kept. -/
theorem State.reply_od (s : State) (o : Origin) (status : Nat) (clamped : Bool) (val : List Byte) :
    (s.reply o status clamped val).od = s.od :=
  (State.reply_only (List.Subset.refl _) (State.Only.refl _ s) o status clamped val).2 Sect.od (by decide)

/-- R28 in the gate of R350 step 1: whoever sends the write, an RWM entry outside MAINTENANCE stops it. -/
theorem State.writeGate_of_rwm {s : State} {k : Nat} {e : Entry} (o : Origin) (opPid : Nat)
    (he : entryOf (k / 256) (k % 256) = some e) (hrwm : e.acs = .rwm) (hm : s.life.mstate ≠ .maintenance) :
    s.writeGate o k opPid = some Status.refused := by
  cases hp : s.senderPid o with
  | none => simp [State.writeGate, he, hp]
  | some p => simp [State.writeGate, he, hp, hrwm, hm]

/-- A write that its gate stops answers the gate's status and does nothing else. Sub-index 0 has an answer of its own. -/
theorem State.dictSet_of_gate {s : State} {o : Origin} {ix sub st : Nat} {val : List Byte} (ty : Nat) (hsub : sub ≠ 0)
    (hg : s.writeGate o (256 * ix + sub) (opPidOf ix sub val) = some st) :
    s.dictSet o ix sub ty val = s.reply o st false [] := by
  simp [State.dictSet, hg, hsub]

/-- Settles O22: the gate of R350 stops the write, and its response keeps the dictionary. -/
theorem maintenanceEntries : Obligations.MaintenanceEntries := by
  intro s o ix sub ty val e hs hlt hsub he hrwm hm
  have hix : (256 * ix + sub) / 256 = ix := by omega
  have hsx : (256 * ix + sub) % 256 = sub := by omega
  have hg : s.writeGate o (256 * ix + sub) (opPidOf ix sub val) = some Status.refused :=
    State.writeGate_of_rwm o _ (by rw [hix, hsx]; exact he) hrwm hm
  refine ⟨s.reply o Status.refused false [], ?_, rfl, State.reply_od ..⟩
  rw [exec_dictWrite o ix sub ty val hs, State.dictSet_of_gate ty hsub hg]

/-! ### R20: ports and peers -/

section Mesh

variable {s : State} {d p : Nat}

/-- R20's formula over the integers; the model adds `2 * N` so that the subtraction of naturals loses nothing. -/
theorem State.portTo_cast (hmid : s.mid < s.meshN) (d : Nat) :
    (s.portTo d : Int) = ((d : Int) - s.mid - 1) % s.meshN := by
  have hadd : ((d + 2 * s.meshN - s.mid - 1 : Nat) : Int) = ((d : Int) - s.mid - 1) + 2 * s.meshN := by omega
  rw [State.portTo, Int.natCast_mod, hadd, Int.add_mul_emod_self_right]

/-- The port to a peer without the modulus: the peers above the module's own MID come first, the others after them. -/
theorem State.portTo_eq_ite (hmid : s.mid < s.meshN) (hd : d < s.meshN) :
    s.portTo d = if s.mid < d then d - s.mid - 1 else d + s.meshN - s.mid - 1 := by
  unfold State.portTo
  split
  · have hsum : d + 2 * s.meshN - s.mid - 1 = (d - s.mid - 1) + 2 * s.meshN := by omega
    rw [hsum, Nat.add_mul_mod_self_right, Nat.mod_eq_of_lt (by omega)]
  · have hsum : d + 2 * s.meshN - s.mid - 1 = (d + s.meshN - s.mid - 1) + s.meshN := by omega
    rw [hsum, Nat.add_mod_right, Nat.mod_eq_of_lt (by omega)]

/-- The peer at a port without the modulus. -/
theorem State.midAt_eq_ite (hmid : s.mid < s.meshN) (hp : p < s.meshN) :
    s.midAt p = if p + s.mid + 1 < s.meshN then p + s.mid + 1 else p + s.mid + 1 - s.meshN := by
  unfold State.midAt
  split
  · exact Nat.mod_eq_of_lt ‹_›
  · rw [Nat.mod_eq_sub_mod (by omega), Nat.mod_eq_of_lt (by omega)]

theorem State.portTo_lt (hmid : s.mid < s.meshN) (hd : d < s.meshN) (hne : d ≠ s.mid) : s.portTo d < s.meshN - 1 := by
  rw [State.portTo_eq_ite hmid hd]
  split <;> omega

theorem State.midAt_lt (hmid : s.mid < s.meshN) (p : Nat) : s.midAt p < s.meshN :=
  Nat.mod_lt _ (by omega)

theorem State.midAt_ne_mid (hmid : s.mid < s.meshN) (hp : p < s.meshN - 1) : s.midAt p ≠ s.mid := by
  rw [State.midAt_eq_ite hmid (by omega)]
  split <;> omega

theorem State.midAt_portTo (hmid : s.mid < s.meshN) (hd : d < s.meshN) : s.midAt (s.portTo d) = d := by
  have hport := State.portTo_eq_ite hmid hd
  have hlt : s.portTo d < s.meshN := Nat.mod_lt _ (by omega)
  rw [State.midAt_eq_ite hmid hlt]
  split at hport <;> split <;> omega

theorem State.portTo_midAt (hmid : s.mid < s.meshN) (hp : p < s.meshN) : s.portTo (s.midAt p) = p := by
  have hpeer := State.midAt_eq_ite hmid hp
  rw [State.portTo_eq_ite hmid (State.midAt_lt hmid p)]
  split at hpeer <;> split <;> omega

end Mesh

/-- Settles O57: `portTo` is R20's formula at both ends, and `midAt` is its inverse between peers and the ports in use. -/
theorem portsAndPeers : Obligations.PortsAndPeers := by
  intro s t _ _ hs hN ht hne
  have hother : (t.portTo s.mid : Int) = ((s.mid : Int) - t.mid - 1) % s.meshN := by
    rw [State.portTo_cast (by omega), hN]
  refine ⟨State.portTo_cast hs t.mid, hother, State.portTo_lt hs ht hne, State.midAt_portTo hs ht, fun p hp => ?_⟩
  exact ⟨State.midAt_lt hs p, State.midAt_ne_mid hs hp, State.portTo_midAt hs (by omega)⟩

end Sys2Proof.Machine

/-! Proofs about the tile instructions (chapter 6): the elements of a row (R148), and rounding and range (R150). -/

namespace Sys2Proof.Machine

open Sys2Proof

/-! ### Two's complement: `toSigned` and `ofSigned` are the balanced remainder modulo 2^w -/

section TwosComplement

variable {w : Nat}

theorem toSigned_eq_bmod (hw : 0 < w) (v : Nat) : toSigned w v = Int.bmod v (2 ^ w) := by
  have hhalf : 2 * 2 ^ (w - 1) = 2 ^ w := mul_pow_sub_one hw.ne' 2
  simp only [toSigned, Int.bmod_def]
  split <;> split <;> omega

theorem toSigned_congr {u v : Nat} (h : u % 2 ^ w = v % 2 ^ w) : toSigned w u = toSigned w v := by
  simp only [toSigned, h]

theorem toSigned_ofSigned (hw : 0 < w) (v : Int) : toSigned w (ofSigned w v) = Int.bmod v (2 ^ w) := by
  have hmod : (ofSigned w v : Int) = v % (2 ^ w : Nat) := Int.toNat_of_nonneg (Int.emod_nonneg _ (by positivity))
  rw [toSigned_eq_bmod hw, hmod, Int.emod_bmod]

theorem ofSigned_lt (w : Nat) (v : Int) : ofSigned w v < 2 ^ w := by
  have hlt := Int.emod_lt_of_pos v (b := ((2 ^ w : Nat) : Int)) (by positivity)
  unfold ofSigned
  omega

/-- The balanced remainder as R150 writes the wrap: shift the range up to begin at 0, reduce, and shift it back. -/
theorem bmod_two_pow (hw : 0 < w) (v : Int) : Int.bmod v (2 ^ w) = (v + 2 ^ (w - 1)) % 2 ^ w - 2 ^ (w - 1) := by
  have hhalf : (2 : Int) * 2 ^ (w - 1) = 2 ^ w := mul_pow_sub_one hw.ne' 2
  have hcast : ((2 ^ w : Nat) : Int) = 2 ^ w := by push_cast; rfl
  have hlo : 0 ≤ (v + 2 ^ (w - 1)) % 2 ^ w := Int.emod_nonneg _ (by positivity)
  have hhi : (v + 2 ^ (w - 1)) % 2 ^ w < 2 ^ w := Int.emod_lt_of_pos _ (by positivity)
  calc Int.bmod v (2 ^ w)
      = Int.bmod ((v + 2 ^ (w - 1)) % (2 ^ w : Nat) - 2 ^ (w - 1)) (2 ^ w) := by
        rw [Int.emod_sub_bmod, add_sub_cancel_right]
    _ = (v + 2 ^ (w - 1)) % 2 ^ w - 2 ^ (w - 1) := by
        rw [Int.bmod_eq_of_le] <;> rw [hcast] <;> omega

theorem inRange_iff (w : Nat) (v : Int) : inRange w v = true ↔ -(2 ^ (w - 1)) ≤ v ∧ v ≤ 2 ^ (w - 1) - 1 := by
  simp [inRange, loOf, hiOf]

theorem toSigned_ofSigned_of_inRange (hw : 0 < w) {v : Int} (h : inRange w v = true) : toSigned w (ofSigned w v) = v := by
  have hhalf : (2 : Int) * 2 ^ (w - 1) = 2 ^ w := mul_pow_sub_one hw.ne' 2
  obtain ⟨hlo, hhi⟩ := (inRange_iff w v).1 h
  rw [toSigned_ofSigned hw, bmod_two_pow hw, Int.emod_eq_of_lt] <;> omega

end TwosComplement

/-! ### R150: rounding -/

section Rounding

variable (v : Int) (n : Nat)

theorem rneShift_of_nonpos {s : Int} (hs : s ≤ 0) : rneShift v s = (v * 2 ^ (-s).toNat, 0) := by
  simp [rneShift, hs]

theorem rneShift_succ :
    rneShift v (n + 1 : Nat) =
      (if 2 ^ n < v % 2 ^ (n + 1) ∨ v % 2 ^ (n + 1) = 2 ^ n ∧ v / 2 ^ (n + 1) % 2 = 1 then v / 2 ^ (n + 1) + 1 else v / 2 ^ (n + 1),
        if v % 2 ^ (n + 1) = 0 then 0 else fINX) := by
  have hrem : v - v / 2 ^ (n + 1) * 2 ^ (n + 1) = v % 2 ^ (n + 1) := by rw [Int.emod_def, mul_comm]
  simp [rneShift, hrem]

/-- What `rneShift` can answer: the quotient when the remainder is at most a half unit, the next integer when it is at least
one; at the half unit itself, whichever of the two is even. -/
theorem rneShift_succ_cases :
    ((rneShift v (n + 1 : Nat)).1 = v / 2 ^ (n + 1) ∧ v % 2 ^ (n + 1) ≤ 2 ^ n ∨
      (rneShift v (n + 1 : Nat)).1 = v / 2 ^ (n + 1) + 1 ∧ 2 ^ n ≤ v % 2 ^ (n + 1)) ∧
    (v % 2 ^ (n + 1) = 2 ^ n → (rneShift v (n + 1 : Nat)).1 % 2 = 0) := by
  rw [rneShift_succ]
  dsimp only
  split <;> omega

/-- The error of `rneShift` in doubled units of the input: at most one unit of the result, and an even result at a tie. -/
theorem rneShift_succ_error {e : Int} (he : e = 2 * (v - (rneShift v (n + 1 : Nat)).1 * 2 ^ (n + 1))) :
    e ≤ 2 ^ (n + 1) ∧ -(2 ^ (n + 1)) ≤ e ∧
      (e = 2 ^ (n + 1) ∨ e = -(2 ^ (n + 1)) → (rneShift v (n + 1 : Nat)).1 % 2 = 0) := by
  have hdiv : v % 2 ^ (n + 1) + v / 2 ^ (n + 1) * 2 ^ (n + 1) = v := Int.emod_add_ediv_mul v _
  have hhalf : (2 : Int) ^ (n + 1) = 2 * 2 ^ n := pow_succ' 2 n
  have hlo : 0 ≤ v % 2 ^ (n + 1) := Int.emod_nonneg v (by positivity)
  have hhi : v % 2 ^ (n + 1) < 2 ^ (n + 1) := Int.emod_lt_of_pos v (by positivity)
  obtain ⟨⟨hq, hr⟩ | ⟨hq, hr⟩, htie⟩ := rneShift_succ_cases v n
  · have hv : e = 2 * (v % 2 ^ (n + 1)) := by rw [he, hq]; omega
    exact ⟨by omega, by omega, fun h => htie (by omega)⟩
  · have hv : e = 2 * (v % 2 ^ (n + 1)) - 2 * 2 ^ (n + 1) := by rw [he, hq, add_mul]; omega
    exact ⟨by omega, by omega, fun h => htie (by omega)⟩

end Rounding

/-! ### R150: range -/

section Range

variable {v : Int} {w : Nat}

theorem fit_of_inRange (sat : Bool) (h : inRange w v = true) : fit v w sat = (v, 0) := by
  simp [fit, h]

theorem fit_saturates_low (h : v < -(2 ^ (w - 1))) : fit v w true = (-(2 ^ (w - 1)), fSAT) := by
  simp [fit, inRange, loOf, h]

theorem fit_saturates_high (h : 2 ^ (w - 1) - 1 < v) : fit v w true = (2 ^ (w - 1) - 1, fSAT) := by
  have hpos : (0 : Int) < 2 ^ (w - 1) := by positivity
  have hlo : ¬ v < -(2 ^ (w - 1)) := by omega
  have hout : ¬ inRange w v = true := by rw [inRange_iff]; omega
  simp [fit, hout, loOf, hiOf, hlo]

theorem fit_wraps (hw : 0 < w) (h : ¬ inRange w v = true) :
    fit v w false = ((v + 2 ^ (w - 1)) % 2 ^ w - 2 ^ (w - 1), fWRP) := by
  simp [fit, h, toSigned_ofSigned hw, bmod_two_pow hw]

end Range

/-- Settles O45: the error of `rneShift` is at most half a unit with ties to even, and `fit` has one case per side of the range. -/
theorem roundingAndRange : Obligations.RoundingAndRange := by
  refine ⟨fun v s => rneShift_of_nonpos v, fun v n hn => ?_, fun v w hw => ⟨fun sat hlo hhi => ?_, fit_saturates_low,
    fit_saturates_high, fun hout => fit_wraps hw ?_⟩⟩
  · obtain ⟨n, rfl⟩ := Nat.exists_eq_succ_of_ne_zero hn.ne'
    obtain ⟨hle, hge, htie⟩ := rneShift_succ_error v n rfl
    exact ⟨hle, hge, htie, congrArg Prod.snd (rneShift_succ v n)⟩
  · exact fit_of_inRange sat ((inRange_iff w v).2 ⟨hlo, hhi⟩)
  · rw [inRange_iff]
    omega

/-! ### Digits: a row of bytes and a row of elements are numbers to the bases 256 and 2^w -/

theorem leNat_eq_ofDigits (bs : List Byte) : leNat bs = Nat.ofDigits 256 (bs.map BitVec.toNat) := by
  induction bs with
  | nil => rfl
  | cons b r ih => simp [leNat, Nat.ofDigits_cons, ih]

theorem byte_digits_lt (bs : List Byte) : ∀ d ∈ bs.map BitVec.toNat, d < 256 := by
  simpa using fun b _ => b.isLt

/-- A slice of a byte string, as a slice of its value. -/
theorem leNat_take_drop (bs : List Byte) (j c : Nat) : leNat ((bs.drop j).take c) = leNat bs / 256 ^ j % 256 ^ c := by
  simp only [leNat_eq_ofDigits]
  rw [Nat.ofDigits_div_pow_eq_ofDigits_drop j (by decide) _ (byte_digits_lt bs), ← List.map_drop,
    Nat.ofDigits_mod_pow_eq_ofDigits_take c (by decide) _ (byte_digits_lt _), ← List.map_take]

theorem leNat_leBytes (n v : Nat) : leNat (leBytes n v) = v % 256 ^ n := by
  induction n generalizing v with
  | zero => simp [leBytes, leNat, Nat.mod_one]
  | succ n ih => simp [leBytes, leNat, ih, pow_succ', Nat.mod_mul]

theorem leBytes_length (n v : Nat) : (leBytes n v).length = n := by
  induction n generalizing v with
  | zero => rfl
  | succ n ih => simp [leBytes, ih]

theorem ofDigits_div_pow_mod {b : Nat} (l : List Nat) (hl : ∀ d ∈ l, d < b) {k : Nat} (hk : k < l.length) :
    Nat.ofDigits b l / b ^ k % b = l[k] := by
  have hd : l[k] < b := hl _ (List.getElem_mem hk)
  rw [Nat.ofDigits_div_pow_eq_ofDigits_drop k (by omega) l hl, List.drop_eq_getElem_cons hk, Nat.ofDigits_cons,
    Nat.add_mul_mod_self_left, Nat.mod_eq_of_lt hd]

/-- The number that `intsRow` lays down as bytes: one digit to the base 2^w for each element. -/
theorem foldr_ofSigned_eq_ofDigits (w : Nat) (es : List Int) :
    es.foldr (fun e n => n <<< w ||| ofSigned w e) 0 = Nat.ofDigits (2 ^ w) (es.map (ofSigned w)) := by
  induction es with
  | nil => rfl
  | cons e es ih =>
    rw [List.foldr_cons, ih, ← Nat.shiftLeft_add_eq_or_of_lt (ofSigned_lt w e), List.map_cons, Nat.ofDigits_cons,
      Nat.shiftLeft_eq, mul_comm, add_comm]

theorem element_digits_lt (w : Nat) (es : List Int) : ∀ d ∈ es.map (ofSigned w), d < 2 ^ w := by
  simpa using fun e _ => ofSigned_lt w e

/-! ### R148: the elements of a row -/

theorem fmtBits_pos (f : Nat) : 0 < fmtBits f := by
  unfold fmtBits
  split <;> decide

/-- Every format but SQ4 takes whole bytes. -/
theorem eight_dvd_fmtBits {f : Nat} (hf : f ≠ 2) : 8 ∣ fmtBits f := by
  unfold fmtBits
  split
  case h_3 => contradiction
  all_goals decide

theorem two_pow_eight_mul (n : Nat) : 2 ^ (8 * n) = 256 ^ n := pow_mul 2 8 n

section Rows

variable {f k : Nat}

theorem rowInts_length (f : Nat) (bs : List Byte) : (rowInts f bs).length = bs.length * 8 / fmtBits f := by
  simp [rowInts]

theorem rowInts_getElem? {bs : List Byte} (hk : k < bs.length * 8 / fmtBits f) :
    (rowInts f bs)[k]? = some (toSigned (fmtBits f) (leNat bs / 2 ^ (fmtBits f * k))) := by
  simp [rowInts, hk, Nat.shiftRight_eq_div_pow]

theorem rowInts_getElem?_of_bytes (hf : f ≠ 2) {bs : List Byte} (hk : k < bs.length * 8 / fmtBits f) :
    (rowInts f bs)[k]? = some (toSigned (fmtBits f) (leNat ((bs.drop (k * fmtBits f / 8)).take (fmtBits f / 8)))) := by
  obtain ⟨c, hc⟩ := eight_dvd_fmtBits hf
  have hoff : k * (8 * c) / 8 = c * k := by rw [mul_left_comm, Nat.mul_div_cancel_left _ (by decide), mul_comm]
  rw [rowInts_getElem? hk, hc, hoff, Nat.mul_div_cancel_left _ (by decide), leNat_take_drop, mul_assoc, two_pow_eight_mul]
  exact congrArg some (toSigned_congr (by rw [two_pow_eight_mul, Nat.mod_mod]))

theorem byte_of_leNat {bs : List Byte} {j : Nat} (hj : j < bs.length) : leNat bs / 256 ^ j % 256 = (bs.getD j 0).toNat := by
  rw [leNat_eq_ofDigits, ofDigits_div_pow_mod _ (byte_digits_lt bs) (by simpa using hj), List.getElem_map,
    ← List.getElem_eq_getD]

/-- Half-byte k of the value of a byte string: the low half of byte k / 2 when k is even, else the high half. -/
theorem nibble_of_leNat {bs : List Byte} (hk : k < bs.length * 2) :
    leNat bs / 2 ^ (4 * k) % 16 = (bs.getD (k / 2) 0).toNat / (if k % 2 = 0 then 1 else 16) % 16 := by
  rw [← byte_of_leNat (by omega)]
  have hsplit : 4 * k = 8 * (k / 2) + 4 * (k % 2) := by omega
  rw [hsplit, pow_add, ← Nat.div_div_eq_div_mul, two_pow_eight_mul]
  generalize leNat bs / 256 ^ (k / 2) = v
  rcases Nat.mod_two_eq_zero_or_one k with h | h
  · rw [h, if_pos rfl]
    omega
  · rw [h, if_neg one_ne_zero]
    omega

theorem rowInts_getElem?_sq4 {bs : List Byte} (hk : k < bs.length * 2) :
    (rowInts 2 bs)[k]? = some (toSigned 4 ((bs.getD (k / 2) 0).toNat / (if k % 2 = 0 then 1 else 16) % 16)) := by
  rw [rowInts_getElem? (by change k < bs.length * 8 / 4; omega), ← nibble_of_leNat hk]
  exact congrArg some (toSigned_congr (Nat.mod_mod _ _).symm)

/-- The bytes of a row whose elements fill whole bytes lose nothing of its number. -/
theorem leNat_intsRow {es : List Int} (hlen : es.length * fmtBits f % 8 = 0) :
    leNat (intsRow f es) = Nat.ofDigits (2 ^ fmtBits f) (es.map (ofSigned (fmtBits f))) := by
  have hlt := Nat.ofDigits_lt_base_pow_length (Nat.one_lt_two_pow (fmtBits_pos f).ne') (element_digits_lt (fmtBits f) es)
  have hbits : fmtBits f * es.length = 8 * (es.length * fmtBits f / 8) := by rw [mul_comm]; omega
  rw [List.length_map, ← pow_mul, hbits, two_pow_eight_mul] at hlt
  rw [intsRow, leNat_leBytes, foldr_ofSigned_eq_ofDigits, Nat.mod_eq_of_lt hlt]

theorem rowInts_intsRow {es : List Int} (hes : ∀ e ∈ es, inRange (fmtBits f) e = true)
    (hlen : es.length * fmtBits f % 8 = 0) : rowInts f (intsRow f es) = es := by
  have hcount : (intsRow f es).length * 8 / fmtBits f = es.length := by
    rw [intsRow, leBytes_length, Nat.div_mul_cancel (Nat.dvd_of_mod_eq_zero hlen), Nat.mul_div_cancel _ (fmtBits_pos f)]
  refine List.ext_getElem? fun k => ?_
  rcases Nat.lt_or_ge k es.length with hk | hk
  · have hdigit : leNat (intsRow f es) / 2 ^ (fmtBits f * k) % 2 ^ fmtBits f = ofSigned (fmtBits f) es[k] := by
      rw [leNat_intsRow hlen, pow_mul, ofDigits_div_pow_mod _ (element_digits_lt _ es) (by simpa using hk), List.getElem_map]
    rw [rowInts_getElem? (hcount.symm ▸ hk), List.getElem?_eq_getElem hk,
      toSigned_congr (hdigit.trans (Nat.mod_eq_of_lt (ofSigned_lt _ _)).symm),
      toSigned_ofSigned_of_inRange (fmtBits_pos f) (hes _ (List.getElem_mem hk))]
  · rw [List.getElem?_eq_none hk, List.getElem?_eq_none (by rw [rowInts_length, hcount]; exact hk)]

end Rows

/-- Settles O46: an element is a digit of the row's value, to the base 256 for the bytes and 2^w for the elements. -/
theorem elementsOfRows : Obligations.ElementsOfRows := by
  intro f bs _
  refine ⟨rowInts_length f bs, fun hf k hk => rowInts_getElem?_of_bytes hf hk, ?_, fun es => rowInts_intsRow⟩
  rintro rfl k hk
  exact rowInts_getElem?_sq4 hk

end Sys2Proof.Machine

/-! Proofs about the object dictionary (chapter 14): what exists (R344), and the answers of a read and a write to what does not. -/

namespace Sys2Proof.Machine

open Sys2Proof

section Lookup

variable {ix sub : Nat} {e : Entry}

/-! ### A lookup answers with an entry of its table -/

theorem mem_of_fixedLookup {t : List (Nat × Nat × Entry)} (h : fixedLookup t ix sub = some e) : (ix, sub, e) ∈ t := by
  induction t with
  | nil => simp [fixedLookup] at h
  | cons x r ih =>
    unfold fixedLookup at h
    split at h
    case isTrue hx =>
      obtain ⟨rfl, rfl⟩ := hx
      cases h
      exact List.mem_cons_self
    case isFalse => exact List.mem_cons_of_mem _ (ih h)

theorem mem_of_subLookup {t : List (Nat × Nat × Entry)} (h : subLookup t sub = some e) :
    ∃ lo hi, (lo, hi, e) ∈ t ∧ lo ≤ sub ∧ sub ≤ hi := by
  induction t with
  | nil => simp [subLookup] at h
  | cons x r ih =>
    unfold subLookup at h
    split at h
    case isTrue hx =>
      cases h
      exact ⟨_, _, List.mem_cons_self, hx⟩
    case isFalse =>
      obtain ⟨lo, hi, hmem, hsub⟩ := ih h
      exact ⟨lo, hi, List.mem_cons_of_mem _ hmem, hsub⟩

theorem mem_of_pbLookup {t : List (Nat × Nat × Nat × Entry)} {off : Nat} (h : pbLookup t off sub = some e) :
    ∃ lo hi, (off, lo, hi, e) ∈ t ∧ lo ≤ sub ∧ sub ≤ hi := by
  induction t with
  | nil => simp [pbLookup] at h
  | cons x r ih =>
    unfold pbLookup at h
    split at h
    case isTrue hx =>
      obtain ⟨rfl, hsub⟩ := hx
      cases h
      exact ⟨_, _, List.mem_cons_self, hsub⟩
    case isFalse =>
      obtain ⟨lo, hi, hmem, hsub⟩ := ih h
      exact ⟨lo, hi, List.mem_cons_of_mem _ hmem, hsub⟩

theorem mem_of_famLookup {fs : List (Nat × Nat × Nat × List (Nat × Nat × Entry))} (h : famLookup fs ix sub = some e) :
    ∃ f ∈ fs, subLookup f.2.2.2 sub = some e := by
  induction fs with
  | nil => simp [famLookup] at h
  | cons f r ih =>
    have hrest : famLookup r ix sub = some e → ∃ g ∈ f :: r, subLookup g.2.2.2 sub = some e := fun hr =>
      let ⟨g, hg, hsub⟩ := ih hr
      ⟨g, List.mem_cons_of_mem _ hg, hsub⟩
    unfold famLookup at h
    split at h
    · split at h
      next hf =>
        cases h
        exact ⟨f, List.mem_cons_self, hf⟩
      next => exact hrest h
    · exact hrest h

/-! ### The sub-indices of the tables -/

theorem fixedOf_sub_bounds (ix : Nat) : ∀ x ∈ fixedOf ix, 0 < x.2.1 ∧ x.2.1 ≤ 64 := by
  unfold fixedOf
  split_ifs <;> decide

theorem pbTable_sub_bounds : ∀ x ∈ pbTable, 0 < x.2.1 ∧ x.2.2.1 ≤ 64 := by decide

theorem families_sub_bounds : ∀ f ∈ families, ∀ x ∈ f.2.2.2, 0 < x.1 ∧ x.2.1 ≤ 64 := by decide

/-- Every tabled entry has a sub-index from 1 to 64: `maxSub` looks at all that can exist. -/
theorem entryOf_sub_bounds (h : entryOf ix sub = some e) : 0 < sub ∧ sub ≤ 64 := by
  unfold entryOf at h
  split at h
  · obtain ⟨lo, hi, hmem, hlo, hhi⟩ := mem_of_pbLookup h
    obtain ⟨hpos, hle⟩ := pbTable_sub_bounds _ hmem
    exact ⟨hpos.trans_le hlo, hhi.trans hle⟩
  · split at h
    next hf =>
      exact fixedOf_sub_bounds ix _ (mem_of_fixedLookup hf)
    next =>
      obtain ⟨f, hfam, hsub⟩ := mem_of_famLookup h
      obtain ⟨lo, hi, hmem, hlo, hhi⟩ := mem_of_subLookup hsub
      obtain ⟨hpos, hle⟩ := families_sub_bounds f hfam _ hmem
      exact ⟨hpos.trans_le hlo, hhi.trans hle⟩

@[simp] theorem entryOf_zero (ix : Nat) : entryOf ix 0 = none :=
  Option.eq_none_iff_forall_ne_some.2 fun _ h => (entryOf_sub_bounds h).1.false

/-- `maxSub` is the greatest sub-index that has an entry: it searches 64 down to 1 and takes the first. -/
theorem maxSub_isGreatest {m : Nat} (h : maxSub ix = some m) : IsGreatest {j | (entryOf ix j).isSome = true} m := by
  obtain ⟨hm, before, after, hsubs, hbefore⟩ := List.find?_eq_some_iff_append.1 h
  refine ⟨hm, fun j hj => ?_⟩
  obtain ⟨e, he⟩ := Option.isSome_iff_exists.1 hj
  have hdesc : (before ++ m :: after).Pairwise (· > ·) := hsubs ▸ by decide
  have hmem : j ∈ before ++ m :: after := by
    have hbounds := entryOf_sub_bounds he
    rw [← hsubs]
    simpa using ⟨by omega, hbounds.1⟩
  rcases List.mem_append.1 hmem with hjb | hja
  · simpa [he] using hbefore j hjb
  · rcases List.mem_cons.1 hja with rfl | hja
    · exact le_rfl
    · exact (List.rel_of_pairwise_cons (List.pairwise_append.1 hdesc).2.1 hja).le

end Lookup

/-! ### R344 and R350 step 1: the answers -/

section Answers

variable {s : State} {o : Origin} {ix sub : Nat}

theorem exec_dictRead (o : Origin) (ix sub : Nat) (hs : s.managed = true) :
    exec (.dictRead o ix sub) s = .next (s.draw.reply o (s.dictGet o ix sub).1 false (s.dictGet o ix sub).2) := by
  change execDictRead o ix sub s = _
  simp [execDictRead, hs]

theorem State.dictGet_of_not_has (h : dictHas ix sub = false) : s.dictGet o ix sub = (Status.unmapped, []) := by
  simp [State.dictGet, State.readGate, h]

/-- PID 0 outside a limited session reads every sub-index 0 that exists. -/
theorem State.dictGet_zero {m : Nat} (hm : maxSub ix = some m) (hp : s.senderPid o = some 0) (hl : s.limited o = false) :
    s.dictGet o ix 0 = (Status.ok, leBytes 1 m) := by
  have hgate : s.readGate o ix 0 = none := by simp [State.readGate, dictHas, writeOnly, hm, hp, hl]
  simp [State.dictGet, hgate, State.entryBytes, hm]

theorem State.writeGate_of_no_entry (o : Origin) (opPid : Nat) (hsub : sub < 256) (h : entryOf ix sub = none) :
    s.writeGate o (256 * ix + sub) opPid = some Status.unmapped := by
  have hix : (256 * ix + sub) / 256 = ix := by omega
  have hsx : (256 * ix + sub) % 256 = sub := by omega
  simp [State.writeGate, hix, hsx, h]

/-- Sub-index 0 is never written: it is read-only where the index is in use, and does not exist elsewhere. -/
theorem State.dictSet_zero (s : State) (o : Origin) (ix ty : Nat) (val : List Byte) :
    s.dictSet o ix 0 ty val = s.reply o (if (maxSub ix).isSome then Status.refused else Status.unmapped) false [] := by
  simp only [State.dictSet, State.writeGate_of_no_entry o _ (by decide : 0 < 256) (entryOf_zero ix), decide_true,
    Bool.true_and]

theorem State.dictSet_of_not_has (ty : Nat) (val : List Byte) (hsub : sub < 256) (h : dictHas ix sub = false) :
    s.dictSet o ix sub ty val = s.reply o Status.unmapped false [] := by
  rcases Nat.eq_zero_or_pos sub with rfl | hpos
  · have hm : (maxSub ix).isSome = false := by simpa [dictHas] using h
    simp [State.dictSet_zero, hm]
  · have he : entryOf ix sub = none := by simpa [dictHas, hpos.ne'] using h
    exact State.dictSet_of_gate ty hpos.ne' (State.writeGate_of_no_entry o _ hsub he)

end Answers

/-- Settles O21: what does not exist stops at the first check of a read and of a write, and `maxSub` is the greatest sub-index
of an index. -/
theorem unmappedEntries : Obligations.UnmappedEntries := by
  intro s o ix sub ty val hs hsub
  refine ⟨fun hnone => ?_, fun m hm => ⟨fun hp hl => ?_, ?_, (maxSub_isGreatest hm).1, fun j _ hj => (maxSub_isGreatest hm).2 hj⟩⟩
  · have hhas : dictHas ix sub = false := by
      unfold dictHas
      split_ifs at hnone ⊢ <;> simp [hnone]
    rw [exec_dictRead o ix sub hs, exec_dictWrite o ix sub ty val hs, State.dictGet_of_not_has hhas,
      State.dictSet_of_not_has ty val hsub hhas]
    exact ⟨rfl, rfl⟩
  · rw [exec_dictRead o ix 0 hs, State.dictGet_zero hm hp hl]
  · simp [exec_dictWrite o ix 0 ty val hs, State.dictSet_zero, hm]

end Sys2Proof.Machine

/-! Proofs about declared faults and service (chapter 16): FAULT_DECLARE (R385) and RECOVER (Table ODP-7). -/

namespace Sys2Proof.Machine

open Sys2Proof

variable {s : State} {o : Origin} {k opPid : Nat}

/-! ### A command and the gate of R350 step 1 -/

theorem State.command_of_gate {st : Nat} (eff : State → Nat → State × Done) (hs : s.managed = true)
    (hg : s.writeGate o k opPid = some st) : s.command o k opPid eff = s.reply o st false [] := by
  simp [State.command, hs, hg]

theorem State.command_of_allows (eff : State → Nat → State × Done) (ha : s.allows o k opPid = true) :
    s.command o k opPid eff =
      (eff s ((s.senderPid o).getD 0)).1.finish o (eff s ((s.senderPid o).getD 0)).2 := by
  obtain ⟨hs, hg⟩ : s.managed = true ∧ s.writeGate o k opPid = none := by simpa [State.allows] using ha
  simp [State.command, hs, hg]

/-- R348 in the gate: a tenant's write stops where Table ODP-3 does not list the entry. -/
theorem State.writeGate_of_tenant {p : Nat} {e : Entry} (he : entryOf (k / 256) (k % 256) = some e)
    (hp : s.senderPid o = some p) (hpos : p ≠ 0) (hw : tenantWrites p k opPid = false) :
    s.writeGate o k opPid = some Status.refused := by
  simp [State.writeGate, he, hp, hpos, hw]

/-! ### The entry FAULT_DECLARE -/

theorem entryOf_faultDeclare :
    entryOf (K.faultDeclare / 256) (K.faultDeclare % 256) = some ⟨1, 1, .wo, 0, .enum 2, false, 0⟩ := rfl

/-- FAULT_DECLARE is module-wide: it lies below the blocks of the partitions and is no flow or sluice command. -/
theorem tenantWrites_faultDeclare (p opPid : Nat) : tenantWrites p K.faultDeclare opPid = false := by
  have hne : ∀ off sub, K.faultDeclare ≠ K.pb p off sub := fun off sub => by
    simp only [K.faultDeclare, K.pb]
    omega
  have hown : [K.rangeRoot p, K.faultRingBase p, K.faultRingEntries p, K.faultRingTail p, K.rtcInval p,
      K.faultResolve p, K.keyAgree p, K.attest p, K.regionRegister p].contains K.faultDeclare = false := by
    simp [hne, K.rangeRoot, K.faultRingBase, K.faultRingEntries, K.faultRingTail, K.rtcInval, K.faultResolve,
      K.keyAgree, K.attest, K.regionRegister]
  have hflow : [K.flowLoad, K.flowLaunch, K.flowAbort, K.flowUnload, K.sluiceLoad, K.sluiceRemove,
      K.sluiceCommit].contains K.faultDeclare = false := by decide
  rw [tenantWrites, hown, hflow, Bool.false_and, Bool.or_false]

theorem State.allows_faultDeclare (hs : s.managed = true) (hl : s.limited o = false) (hp : s.senderPid o = some 0) :
    s.allows o K.faultDeclare 0 = true := by
  simp [State.allows, State.writeGate, entryOf_faultDeclare, hs, hl, hp]

/-- The value 1 is in range: it takes effect as it is, with no clamp record. -/
theorem State.settle_faultDeclare_one (s : State) (o : Origin) (pid : Nat) :
    s.settle o pid K.faultDeclare 0 1 = (s, 1, false) := by
  simp [State.settle, entryOf_faultDeclare, clampVal]

/-! ### Fatal faults and what leaves FAILED -/

/-- A fatal fault leaves the module in FAILED, where it may have been before. -/
theorem State.fatal_mstate (hs : s.managed = true) (kind unit : Nat) : (s.fatal kind unit).life.mstate = .failed := by
  by_cases hf : s.life.mstate = .failed
  · simp [State.fatal, hf]
  · simp [State.fatal, hs, hf, State.enterFailed_life]

theorem State.settleAll_fatal_mstate (hs : s.managed = true) (kind unit : Nat) :
    (s.fatal kind unit).settleAll.life.mstate = .failed := by
  have hf := State.fatal_mstate hs kind unit
  rw [State.settleAll_life (by simp [hf]), hf]

@[simp] theorem State.reply_life (s : State) (o : Origin) (status : Nat) (clamped : Bool) (val : List Byte) :
    (s.reply o status clamped val).life = s.life :=
  (State.reply_only (List.Subset.refl _) (State.Only.refl _ s) o status clamped val).agrees .life rfl

@[simp] theorem State.analysisLaser_life (s : State) : s.analysisLaser.life = s.life :=
  (State.analysisLaser_only (List.Subset.refl _) (State.Only.refl _ s)).agrees .life rfl

/-- R385: an accepted FAULT_DECLARE of 1 is the fatal fault 0x13 of unit 0, answered with OK. -/
theorem exec_faultDeclare_one (ha : s.allows o K.faultDeclare 0 = true) :
    exec (.faultDeclare o 1) s = .next ((s.fatal 0x13 0).settleAll.reply o Status.ok false []) := by
  change execFaultDeclare o 1 s = _
  simp [execFaultDeclare, State.command_of_allows _ ha, State.settle_faultDeclare_one, State.finish]

theorem exec_faultDeclare_of_gate {st : Nat} (v : Nat) (hs : s.managed = true)
    (hg : s.writeGate o K.faultDeclare 0 = some st) : exec (.faultDeclare o v) s = .next (s.reply o st false []) := by
  change execFaultDeclare o v s = _
  rw [execFaultDeclare, State.command_of_gate _ hs hg]

/-- Table ODP-7: an accepted RECOVER in FAILED enters MAINTENANCE. -/
theorem exec_recover_of_failed (ha : s.allows o K.stateRequest 0 = true) (hf : s.life.mstate = .failed) :
    exec (.recover o) s = .next ((s.enter .maintenance).analysisLaser.reply o Status.ok false []) := by
  change execRecover o s = _
  simp [execRecover, State.command_of_allows _ ha, hf, State.finish]

/-- Settles O58: PID 0 passes the gate and every other PID stops at it; the fault leaves FAILED, from which RECOVER leads on. -/
theorem declaredFaults : Obligations.DeclaredFaults := by
  intro s o hs hl
  refine ⟨fun hp => ?_, fun p hp hpos _ => ?_⟩
  · have hexec := exec_faultDeclare_one (State.allows_faultDeclare hs hl hp)
    refine ⟨(s.fatal 0x13 0).settleAll, rfl, hexec, fun _ => ⟨_, hexec, ?_⟩⟩
    have hfailed : ((s.fatal 0x13 0).settleAll.reply o Status.ok false []).life.mstate = .failed := by
      rw [State.reply_life, State.settleAll_fatal_mstate hs]
    exact ⟨hfailed, fun ha => ⟨_, exec_recover_of_failed ha hfailed, by simp [State.enter_life]⟩⟩
  · have hg := State.writeGate_of_tenant entryOf_faultDeclare hp hpos.ne' (tenantWrites_faultDeclare p 0)
    exact exec_faultDeclare_of_gate 1 hs hg

end Sys2Proof.Machine

/-! Proofs about every step (spec chapter 95): that it answers, what it may change and what it keeps. -/

namespace Sys2Proof.Machine

open Sys2Proof

/-! ### The frame of every command -/

/-- Sections whose list is computed to lie within another. -/
theorem Sect.listed {a l : List Sect} (h : (a.all fun x => l.contains x) = true) : a ⊆ l := Sect.sub h (List.Subset.refl l)

/-- Every meaning stays within the sections that `mayChange` lists for its command: one case for each command. -/
theorem exec_only (c : Instr) (s : State) : Res.Only (mayChange c) s (exec c s) := by
  cases c with
  | powerGood peOk => exact execPowerGood_only (Sect.listed rfl) (.refl _ s) peOk
  | restoreComplete => exact execRestoreComplete_only (Sect.listed rfl) (.refl _ s)
  | selftestComplete r => exact execSelftestComplete_only (Sect.listed rfl) (.refl _ s) r
  | trainingExit => exact execTrainingExit_only (Sect.listed rfl) (.refl _ s)
  | inputLoss => exact execInputLoss_only (Sect.listed rfl) (.refl _ s)
  | presentLoopOpen => exact execPresentLoopOpen_only (Sect.listed rfl) (.refl _ s)
  | inputOvervoltage => exact execInputOvervoltage_only (Sect.listed rfl) (.refl _ s)
  | inputOvercurrent => exact execInputOvercurrent_only (Sect.listed rfl) (.refl _ s)
  | fuseRelease => exact execFuseRelease_only (Sect.listed rfl) (.refl _ s)
  | reversedPolarity => exact execReversedPolarity_only (Sect.listed rfl) (.refl _ s)
  | inputRestart => exact execInputRestart_only (Sect.listed rfl) (.refl _ s)
  | fatalFault code unit => exact execFatalFault_only (Sect.listed rfl) (.refl _ s) code unit
  | drain o => exact execDrain_only (Sect.listed rfl) (.refl _ s) o
  | restart o => exact execRestart_only (Sect.listed rfl) (.refl _ s) o
  | recover o => exact execRecover_only (Sect.listed rfl) (.refl _ s) o
  | powerOff o => exact execPowerOff_only (Sect.listed rfl) (.refl _ s) o
  | maintain o => exact execMaintain_only (Sect.listed rfl) (.refl _ s) o
  | homesMoved o v => exact execHomesMoved_only (Sect.listed rfl) (.refl _ s) o v
  | moduleDrained => exact execModuleDrained_only (Sect.listed rfl) (.refl _ s)
  | faultDeclare o v => exact execFaultDeclare_only (Sect.listed rfl) (.refl _ s) o v
  | powerCapWrite o v => exact execPowerCapWrite_only (Sect.listed rfl) (.refl _ s) o v
  | capStage2 watts => exact execCapStage2_only (Sect.listed rfl) (.refl _ s) watts
  | capStage3 watts => exact execCapStage3_only (Sect.listed rfl) (.refl _ s) watts
  | capRelease watts => exact execCapRelease_only (Sect.listed rfl) (.refl _ s) watts
  | emergencyThrottle overCurrent tempDeci => exact execEmergencyThrottle_only (Sect.listed rfl) (.refl _ s) overCurrent tempDeci
  | emergencyThrottleEnd => exact execEmergencyThrottleEnd_only (Sect.listed rfl) (.refl _ s)
  | thermalShutdown tempDeci => exact execThermalShutdown_only (Sect.listed rfl) (.refl _ s) tempDeci
  | ld src => exact execLd_only (Sect.listed rfl) (.refl _ s) src
  | st src => exact execSt_only (Sect.listed rfl) (.refl _ s) src
  | bld m => exact execBld_only (Sect.listed rfl) (.refl _ s) m
  | bst m => exact execBst_only (Sect.listed rfl) (.refl _ s) m
  | atomicAdd src => exact execAtomicAdd_only (Sect.listed rfl) (.refl _ s) src
  | atomicMin src => exact execAtomicMin_only (Sect.listed rfl) (.refl _ s) src
  | atomicMax src => exact execAtomicMax_only (Sect.listed rfl) (.refl _ s) src
  | atomicAnd src => exact execAtomicAnd_only (Sect.listed rfl) (.refl _ s) src
  | atomicOr src => exact execAtomicOr_only (Sect.listed rfl) (.refl _ s) src
  | atomicXor src => exact execAtomicXor_only (Sect.listed rfl) (.refl _ s) src
  | atomicSwap src => exact execAtomicSwap_only (Sect.listed rfl) (.refl _ s) src
  | atomicCas src => exact execAtomicCas_only (Sect.listed rfl) (.refl _ s) src
  | casOwn src => exact execCasOwn_only (Sect.listed rfl) (.refl _ s) src
  | trd m => exact execTrd_only (Sect.listed rfl) (.refl _ s) m
  | twr m => exact execTwr_only (Sect.listed rfl) (.refl _ s) m
  | twd m => exact execTwd_only (Sect.listed rfl) (.refl _ s) m
  | fenceAcquire src => exact execFenceAcquire_only (Sect.listed rfl) (.refl _ s) src
  | fenceRelease src => exact execFenceRelease_only (Sect.listed rfl) (.refl _ s) src
  | fenceAcqRel src => exact execFenceAcqRel_only (Sect.listed rfl) (.refl _ s) src
  | fenceComplete tx => exact execFenceComplete_only (Sect.listed rfl) (.refl _ s) tx
  | inval src => exact execInval_only (Sect.listed rfl) (.refl _ s) src
  | invalComplete tx => exact execInvalComplete_only (Sect.listed rfl) (.refl _ s) tx
  | hintHot m => exact execHintHot_only (Sect.listed rfl) (.refl _ s) m
  | hintWarm m => exact execHintWarm_only (Sect.listed rfl) (.refl _ s) m
  | hintCold m => exact execHintCold_only (Sect.listed rfl) (.refl _ s) m
  | hintEvict m => exact execHintEvict_only (Sect.listed rfl) (.refl _ s) m
  | hintPin m => exact execHintPin_only (Sect.listed rfl) (.refl _ s) m
  | doorbell m => exact execDoorbell_only (Sect.listed rfl) (.refl _ s) m
  | ctrwait m => exact execCtrwait_only (Sect.listed rfl) (.refl _ s) m
  | ctrwaitTimeout ep ctx tag => exact execCtrwaitTimeout_only (Sect.listed rfl) (.refl _ s) ep ctx tag
  | ctrset m => exact execCtrset_only (Sect.listed rfl) (.refl _ s) m
  | sput m => exact execSput_only (Sect.listed rfl) (.refl _ s) m
  | scred m => exact execScred_only (Sect.listed rfl) (.refl _ s) m
  | mbxq m pid cmd => exact execMbxq_only (Sect.listed rfl) (.refl _ s) m pid cmd
  | xrsp m => exact execXrsp_only (Sect.listed rfl) (.refl _ s) m
  | exportTimeout xid => exact execExportTimeout_only (Sect.listed rfl) (.refl _ s) xid
  | requestIssue tx part => exact execRequestIssue_only (Sect.listed rfl) (.refl _ s) tx part
  | walkerFree ep => exact execWalkerFree_only (Sect.listed rfl) (.refl _ s) ep
  | rtcWalkComplete ep pid slot uncorrectable => exact execRtcWalkComplete_only (Sect.listed rfl) (.refl _ s) ep pid slot uncorrectable
  | faultResolveRetry o pid recId => exact execFaultResolveRetry_only (Sect.listed rfl) (.refl _ s) o pid recId
  | faultResolveFail o pid recId => exact execFaultResolveFail_only (Sect.listed rfl) (.refl _ s) o pid recId
  | rtcInval o op => exact execRtcInval_only (Sect.listed rfl) (.refl _ s) o op
  | rtcInvalComplete id => exact execRtcInvalComplete_only (Sect.listed rfl) (.refl _ s) id
  | faultRingReset o pid sub v => exact execFaultRingReset_only (Sect.listed rfl) (.refl _ s) o pid sub v
  | faultRingTail o pid v => exact execFaultRingTail_only (Sect.listed rfl) (.refl _ s) o pid v
  | cxlMemRequest cp wr wantM hpa data => exact execCxlMemRequest_only (Sect.listed rfl) (.refl _ s) cp wr wantM hpa data
  | atsInvalidation cp base len => exact execAtsInvalidation_only (Sect.listed rfl) (.refl _ s) cp base len
  | homeLoad pos uncorrectable => exact execHomeLoad_only (Sect.listed rfl) (.refl _ s) pos uncorrectable
  | homeStore pos => exact execHomeStore_only (Sect.listed rfl) (.refl _ s) pos
  | homeHintCommand pos => exact execHomeHintCommand_only (Sect.listed rfl) (.refl _ s) pos
  | ownerTableRead pos => exact execOwnerTableRead_only (Sect.listed rfl) (.refl _ s) pos
  | ownerReadResponse flag status word => exact execOwnerReadResponse_only (Sect.listed rfl) (.refl _ s) flag status word
  | ownerUpdate src seq flag owner gen => exact execOwnerUpdate_only (Sect.listed rfl) (.refl _ s) src seq flag owner gen
  | mirrorWrite pos => exact execMirrorWrite_only (Sect.listed rfl) (.refl _ s) pos
  | mirrorAck hid status => exact execMirrorAck_only (Sect.listed rfl) (.refl _ s) hid status
  | mirrorRetryRequest pos => exact execMirrorRetryRequest_only (Sect.listed rfl) (.refl _ s) pos
  | mirrorRetryHoldExpiry pos => exact execMirrorRetryHoldExpiry_only (Sect.listed rfl) (.refl _ s) pos
  | hostCoherentRequest pos => exact execHostCoherentRequest_only (Sect.listed rfl) (.refl _ s) pos
  | directoryRecall src cp line invalidate => exact execDirectoryRecall_only (Sect.listed rfl) (.refl _ s) src cp line invalidate
  | recallResponse line host data => exact execRecallResponse_only (Sect.listed rfl) (.refl _ s) line host data
  | recallTimeout line => exact execRecallTimeout_only (Sect.listed rfl) (.refl _ s) line
  | hostLost cause mid cp => exact execHostLost_only (Sect.listed rfl) (.refl _ s) cause mid cp
  | hostLossSweepEnd mid cp => exact execHostLossSweepEnd_only (Sect.listed rfl) (.refl _ s) mid cp
  | tierFrameMoveComplete frame badLines => exact execTierFrameMoveComplete_only (Sect.listed rfl) (.refl _ s) frame badLines
  | atomicBufferFetchComplete line status data => exact execAtomicBufferFetchComplete_only (Sect.listed rfl) (.refl _ s) line status data
  | responseArrival r => exact execResponseArrival_only (Sect.listed rfl) (.refl _ s) r
  | frameHeaderArrival ingress f seen => exact execFrameHeaderArrival_only (Sect.listed rfl) (.refl _ s) ingress f seen
  | frameTailArrival id hop authOk marked => exact execFrameTailArrival_only (Sect.listed rfl) (.refl _ s) id hop authOk marked
  | frameDelivery id => exact execFrameDelivery_only (Sect.listed rfl) (.refl _ s) id
  | egressArbitration egress seen => exact execEgressArbitration_only (Sect.listed rfl) (.refl _ s) egress seen
  | tbufCacheRefill => exact execTbufCacheRefill_only (Sect.listed rfl) (.refl _ s)
  | framePark id => exact execFramePark_only (Sect.listed rfl) (.refl _ s) id
  | frameUnpark id => exact execFrameUnpark_only (Sect.listed rfl) (.refl _ s) id
  | mirrorSessionMode o n v => exact execMirrorSessionMode_only (Sect.listed rfl) (.refl _ s) o n v
  | analysisPort o v => exact execAnalysisPort_only (Sect.listed rfl) (.refl _ s) o v
  | ackArrival src seqs => exact execAckArrival_only (Sect.listed rfl) (.refl _ s) src seqs
  | heldRequestAck pos => exact execHeldRequestAck_only (Sect.listed rfl) (.refl _ s) pos
  | ackedRequestQuery dst seq => exact execAckedRequestQuery_only (Sect.listed rfl) (.refl _ s) dst seq
  | resendTimerExpiry dst seq => exact execResendTimerExpiry_only (Sect.listed rfl) (.refl _ s) dst seq
  | keepaliveSend => exact execKeepaliveSend_only (Sect.listed rfl) (.refl _ s)
  | keepaliveTimeout port => exact execKeepaliveTimeout_only (Sect.listed rfl) (.refl _ s) port
  | lossOfLight port => exact execLossOfLight_only (Sect.listed rfl) (.refl _ s) port
  | linkStateNotice n => exact execLinkStateNotice_only (Sect.listed rfl) (.refl _ s) n
  | peerLossTimeout mid => exact execPeerLossTimeout_only (Sect.listed rfl) (.refl _ s) mid
  | closingNotice src pid => exact execClosingNotice_only (Sect.listed rfl) (.refl _ s) src pid
  | abortNotice src pid flow status station time => exact execAbortNotice_only (Sect.listed rfl) (.refl _ s) src pid flow status station time
  | creditReturn src pid flow sid consumer free => exact execCreditReturn_only (Sect.listed rfl) (.refl _ s) src pid flow sid consumer free
  | routeDrain o v => exact execRouteDrain_only (Sect.listed rfl) (.refl _ s) o v
  | routeDrained => exact execRouteDrained_only (Sect.listed rfl) (.refl _ s)
  | routeDrainTimeout => exact execRouteDrainTimeout_only (Sect.listed rfl) (.refl _ s)
  | routeSwap o ts => exact execRouteSwap_only (Sect.listed rfl) (.refl _ s) o ts
  | routeSwitch => exact execRouteSwitch_only (Sect.listed rfl) (.refl _ s)
  | routeSwapTimeout => exact execRouteSwapTimeout_only (Sect.listed rfl) (.refl _ s)
  | routeDefault o v => exact execRouteDefault_only (Sect.listed rfl) (.refl _ s) o v
  | portTrainingStart p => exact execPortTrainingStart_only (Sect.listed rfl) (.refl _ s) p
  | trainFailRetry p => exact execTrainFailRetry_only (Sect.listed rfl) (.refl _ s) p
  | identityRecord port r => exact execIdentityRecord_only (Sect.listed rfl) (.refl _ s) port r
  | capLinkParameters port r => exact execCapLinkParameters_only (Sect.listed rfl) (.refl _ s) port r
  | portLinkUp p => exact execPortLinkUp_only (Sect.listed rfl) (.refl _ s) p
  | linkKeyAgreement port keyHash pepoch nextSeq gen mstate => exact execLinkKeyAgreement_only (Sect.listed rfl) (.refl _ s) port keyHash pepoch nextSeq gen mstate
  | portSecretRenewal port => exact execPortSecretRenewal_only (Sect.listed rfl) (.refl _ s) port
  | linkKeyGraceExpiry port => exact execLinkKeyGraceExpiry_only (Sect.listed rfl) (.refl _ s) port
  | lightReturn port => exact execLightReturn_only (Sect.listed rfl) (.refl _ s) port
  | fpAdmin o port v => exact execFpAdmin_only (Sect.listed rfl) (.refl _ s) o port v
  | laneRemap p lane cause => exact execLaneRemap_only (Sect.listed rfl) (.refl _ s) p lane cause
  | laneGroupDisable p lane => exact execLaneGroupDisable_only (Sect.listed rfl) (.refl _ s) p lane
  | idleEntry p => exact execIdleEntry_only (Sect.listed rfl) (.refl _ s) p
  | idleExit p => exact execIdleExit_only (Sect.listed rfl) (.refl _ s) p
  | txTaps o p lane v => exact execTxTaps_only (Sect.listed rfl) (.refl _ s) o p lane v
  | prbsCtrl o p v => exact execPrbsCtrl_only (Sect.listed rfl) (.refl _ s) o p v
  | inject o p v => exact execInject_only (Sect.listed rfl) (.refl _ s) o p v
  | qualNow o v => exact execQualNow_only (Sect.listed rfl) (.refl _ s) o v
  | qualificationEnd failed => exact execQualificationEnd_only (Sect.listed rfl) (.refl _ s) failed
  | dailyQualification => exact execDailyQualification_only (Sect.listed rfl) (.refl _ s)
  | qualLaneTestEnd p errors => exact execQualLaneTestEnd_only (Sect.listed rfl) (.refl _ s) p errors
  | cpLinkDown cp => exact execCpLinkDown_only (Sect.listed rfl) (.refl _ s) cp
  | cpLinkUp p serial bytes link => exact execCpLinkUp_only (Sect.listed rfl) (.refl _ s) p serial bytes link
  | expEnable o cp v => exact execExpEnable_only (Sect.listed rfl) (.refl _ s) o cp v
  | flitReceived port f => exact execFlitReceived_only (Sect.listed rfl) (.refl _ s) port f
  | flitReplay port ackseq => exact execFlitReplay_only (Sect.listed rfl) (.refl _ s) port ackseq
  | attachLinkDown port => exact execAttachLinkDown_only (Sect.listed rfl) (.refl _ s) port
  | ctxBind o b => exact execCtxBind_only (Sect.listed rfl) (.refl _ s) o b
  | ctxUnbind o ep ctx => exact execCtxUnbind_only (Sect.listed rfl) (.refl _ s) o ep ctx
  | ctxUnbindComplete ep ctx => exact execCtxUnbindComplete_only (Sect.listed rfl) (.refl _ s) ep ctx
  | queueSetup o q => exact execQueueSetup_only (Sect.listed rfl) (.refl _ s) o q
  | queueReset o ep q => exact execQueueReset_only (Sect.listed rfl) (.refl _ s) o ep q
  | queueTail o ep q tail => exact execQueueTail_only (Sect.listed rfl) (.refl _ s) o ep q tail
  | copyDescriptorStart ep q desc host => exact execCopyDescriptorStart_only (Sect.listed rfl) (.refl _ s) ep q desc host
  | copyDescriptorComplete ep q e => exact execCopyDescriptorComplete_only (Sect.listed rfl) (.refl _ s) ep q e
  | counterAdvance ep ctr pid => exact execCounterAdvance_only (Sect.listed rfl) (.refl _ s) ep ctr pid
  | ctrBind o ep ctr pid => exact execCtrBind_only (Sect.listed rfl) (.refl _ s) o ep ctr pid
  | mbxDoorbell cp pid cmd => exact execMbxDoorbell_only (Sect.listed rfl) (.refl _ s) cp pid cmd
  | dictRead o ix sub => exact execDictRead_only (Sect.listed rfl) (.refl _ s) o ix sub
  | dictWrite o ix sub ty val => exact execDictWrite_only (Sect.listed rfl) (.refl _ s) o ix sub ty val
  | sessionSetup o b => exact execSessionSetup_only (Sect.listed rfl) (.refl _ s) o b
  | flowLoad o pid fva len => exact execFlowLoad_only (Sect.listed rfl) (.refl _ s) o pid fva len
  | flowLoadComplete pid fva len => exact execFlowLoadComplete_only (Sect.listed rfl) (.refl _ s) pid fva len
  | flowLaunch o pid flow t => exact execFlowLaunch_only (Sect.listed rfl) (.refl _ s) o pid flow t
  | flowStart pid flow => exact execFlowStart_only (Sect.listed rfl) (.refl _ s) pid flow
  | flowAbort o pid flow => exact execFlowAbort_only (Sect.listed rfl) (.refl _ s) o pid flow
  | flowUnload o pid flow => exact execFlowUnload_only (Sect.listed rfl) (.refl _ s) o pid flow
  | flowDone pid flow => exact execFlowDone_only (Sect.listed rfl) (.refl _ s) pid flow
  | streamTileArrival pid flow sid consumer t src => exact execStreamTileArrival_only (Sect.listed rfl) (.refl _ s) pid flow sid consumer t src
  | spillReadback pid flow sid consumer => exact execSpillReadback_only (Sect.listed rfl) (.refl _ s) pid flow sid consumer
  | spanIssue who => exact execSpanIssue_only (Sect.listed rfl) (.refl _ s) who
  | watchdogExpiry who input => exact execWatchdogExpiry_only (Sect.listed rfl) (.refl _ s) who input
  | residueMismatch who => exact execResidueMismatch_only (Sect.listed rfl) (.refl _ s) who
  | coreRetirementComplete sd cluster core => exact execCoreRetirementComplete_only (Sect.listed rfl) (.refl _ s) sd cluster core
  | clusterRetirementComplete sd cluster => exact execClusterRetirementComplete_only (Sect.listed rfl) (.refl _ s) sd cluster
  | engineRetirementComplete sd cluster core => exact execEngineRetirementComplete_only (Sect.listed rfl) (.refl _ s) sd cluster core
  | memoryInstructionComplete who => exact execMemoryInstructionComplete_only (Sect.listed rfl) (.refl _ s) who
  | nop who => exact execNop_only (Sect.listed rfl) (.refl _ s) who
  | li who => exact execLi_only (Sect.listed rfl) (.refl _ s) who
  | salu who => exact execSalu_only (Sect.listed rfl) (.refl _ s) who
  | br who => exact execBr_only (Sect.listed rfl) (.refl _ s) who
  | ldp who => exact execLdp_only (Sect.listed rfl) (.refl _ s) who
  | stp who => exact execStp_only (Sect.listed rfl) (.refl _ s) who
  | halt who => exact execHalt_only (Sect.listed rfl) (.refl _ s) who
  | flg who => exact execFlg_only (Sect.listed rfl) (.refl _ s) who
  | rdtime who => exact execRdtime_only (Sect.listed rfl) (.refl _ s) who
  | waitt who => exact execWaitt_only (Sect.listed rfl) (.refl _ s) who
  | waittExpiry who => exact execWaittExpiry_only (Sect.listed rfl) (.refl _ s) who
  | pmask who => exact execPmask_only (Sect.listed rfl) (.refl _ s) who
  | get who => exact execGet_only (Sect.listed rfl) (.refl _ s) who
  | put who => exact execPut_only (Sect.listed rfl) (.refl _ s) who
  | pend who => exact execPend_only (Sect.listed rfl) (.refl _ s) who
  | rel who => exact execRel_only (Sect.listed rfl) (.refl _ s) who
  | tnew who => exact execTnew_only (Sect.listed rfl) (.refl _ s) who
  | tview who => exact execTview_only (Sect.listed rfl) (.refl _ s) who
  | tset who => exact execTset_only (Sect.listed rfl) (.refl _ s) who
  | tinfo who => exact execTinfo_only (Sect.listed rfl) (.refl _ s) who
  | tfill who => exact execTfill_only (Sect.listed rfl) (.refl _ s) who
  | tcopy who => exact execTcopy_only (Sect.listed rfl) (.refl _ s) who
  | tld who => exact execTld_only (Sect.listed rfl) (.refl _ s) who
  | tst who => exact execTst_only (Sect.listed rfl) (.refl _ s) who
  | tgath who => exact execTgath_only (Sect.listed rfl) (.refl _ s) who
  | seqrd who => exact execSeqrd_only (Sect.listed rfl) (.refl _ s) who
  | add who => exact execAdd_only (Sect.listed rfl) (.refl _ s) who
  | sub who => exact execSub_only (Sect.listed rfl) (.refl _ s) who
  | mul who => exact execMul_only (Sect.listed rfl) (.refl _ s) who
  | mac who => exact execMac_only (Sect.listed rfl) (.refl _ s) who
  | min who => exact execMin_only (Sect.listed rfl) (.refl _ s) who
  | max who => exact execMax_only (Sect.listed rfl) (.refl _ s) who
  | unary who => exact execUnary_only (Sect.listed rfl) (.refl _ s) who
  | logic who => exact execLogic_only (Sect.listed rfl) (.refl _ s) who
  | shift who => exact execShift_only (Sect.listed rfl) (.refl _ s) who
  | scale who => exact execScale_only (Sect.listed rfl) (.refl _ s) who
  | rsum who => exact execRsum_only (Sect.listed rfl) (.refl _ s) who
  | mma who => exact execMma_only (Sect.listed rfl) (.refl _ s) who
  | cvt who => exact execCvt_only (Sect.listed rfl) (.refl _ s) who
  | qsq who => exact execQsq_only (Sect.listed rfl) (.refl _ s) who
  | dqsq who => exact execDqsq_only (Sect.listed rfl) (.refl _ s) who
  | align who => exact execAlign_only (Sect.listed rfl) (.refl _ s) who
  | expsc who => exact execExpsc_only (Sect.listed rfl) (.refl _ s) who
  | zelide who => exact execZelide_only (Sect.listed rfl) (.refl _ s) who
  | zexpand who => exact execZexpand_only (Sect.listed rfl) (.refl _ s) who
  | rsel who => exact execRsel_only (Sect.listed rfl) (.refl _ s) who
  | rscat who => exact execRscat_only (Sect.listed rfl) (.refl _ s) who
  | sha who => exact execSha_only (Sect.listed rfl) (.refl _ s) who
  | dcmp who => exact execDcmp_only (Sect.listed rfl) (.refl _ s) who
  | referenceLost refB => exact execReferenceLost_only (Sect.listed rfl) (.refl _ s) refB
  | referenceQualified refB => exact execReferenceQualified_only (Sect.listed rfl) (.refl _ s) refB
  | referenceRevert => exact execReferenceRevert_only (Sect.listed rfl) (.refl _ s)
  | timestampExchange x => exact execTimestampExchange_only (Sect.listed rfl) (.refl _ s) x
  | rootHandover r => exact execRootHandover_only (Sect.listed rfl) (.refl _ s) r
  | rtSet o v => exact execRtSet_only (Sect.listed rfl) (.refl _ s) o v
  | sluiceLoad o pid fva len => exact execSluiceLoad_only (Sect.listed rfl) (.refl _ s) o pid fva len
  | sluiceRemove o pid set => exact execSluiceRemove_only (Sect.listed rfl) (.refl _ s) o pid set
  | sluiceCommit o pid ts => exact execSluiceCommit_only (Sect.listed rfl) (.refl _ s) o pid ts
  | sluiceBankSwitch pid => exact execSluiceBankSwitch_only (Sect.listed rfl) (.refl _ s) pid
  | gateWake entry => exact execGateWake_only (Sect.listed rfl) (.refl _ s) entry
  | gateOpen entry => exact execGateOpen_only (Sect.listed rfl) (.refl _ s) entry
  | gateClose entry => exact execGateClose_only (Sect.listed rfl) (.refl _ s) entry
  | partCreate o pid => exact execPartCreate_only (Sect.listed rfl) (.refl _ s) o pid
  | partClose o pid => exact execPartClose_only (Sect.listed rfl) (.refl _ s) o pid
  | teardownDrainEnd pid => exact execTeardownDrainEnd_only (Sect.listed rfl) (.refl _ s) pid
  | ownGrant o base count pid => exact execOwnGrant_only (Sect.listed rfl) (.refl _ s) o base count pid
  | ownRelease o base count => exact execOwnRelease_only (Sect.listed rfl) (.refl _ s) o base count
  | zeroFillGranuleDone dev => exact execZeroFillGranuleDone_only (Sect.listed rfl) (.refl _ s) dev
  | coreZeroingComplete sd cluster core => exact execCoreZeroingComplete_only (Sect.listed rfl) (.refl _ s) sd cluster core
  | keyAgree o pid slot kind pub nonce => exact execKeyAgree_only (Sect.listed rfl) (.refl _ s) o pid slot kind pub nonce
  | attest o pid nonce => exact execAttest_only (Sect.listed rfl) (.refl _ s) o pid nonce
  | regionRegister o pid fva len => exact execRegionRegister_only (Sect.listed rfl) (.refl _ s) o pid fva len
  | regionRegisterComplete pid => exact execRegionRegisterComplete_only (Sect.listed rfl) (.refl _ s) pid
  | sessionOpen op => exact execSessionOpen_only (Sect.listed rfl) (.refl _ s) op
  | sessionClose op => exact execSessionClose_only (Sect.listed rfl) (.refl _ s) op
  | sessionIdleTimeout session => exact execSessionIdleTimeout_only (Sect.listed rfl) (.refl _ s) session
  | read d => exact execRead_only (Sect.listed rfl) (.refl _ s) d
  | write d => exact execWrite_only (Sect.listed rfl) (.refl _ s) d
  | mdpInterimResponse session seq => exact execMdpInterimResponse_only (Sect.listed rfl) (.refl _ s) session seq
  | mgrKeyHash o val => exact execMgrKeyHash_only (Sect.listed rfl) (.refl _ s) o val
  | retainedCommit => exact execRetainedCommit_only (Sect.listed rfl) (.refl _ s)
  | counterControlWrite o bank n v => exact execCounterControlWrite_only (Sect.listed rfl) (.refl _ s) o bank n v
  | counterWrite o bank n v => exact execCounterWrite_only (Sect.listed rfl) (.refl _ s) o bank n v
  | ovf o bank v => exact execOvf_only (Sect.listed rfl) (.refl _ s) o bank v
  | counterOverflow bank n occ => exact execCounterOverflow_only (Sect.listed rfl) (.refl _ s) bank n occ
  | snapAt o ts => exact execSnapAt_only (Sect.listed rfl) (.refl _ s) o ts
  | snapshotTaken => exact execSnapshotTaken_only (Sect.listed rfl) (.refl _ s)
  | sampleRingBase o v => exact execSampleRingBase_only (Sect.listed rfl) (.refl _ s) o v
  | stationDieFault sd => exact execStationDieFault_only (Sect.listed rfl) (.refl _ s) sd
  | epDieFault ep => exact execEpDieFault_only (Sect.listed rfl) (.refl _ s) ep
  | oeDieFault oe => exact execOeDieFault_only (Sect.listed rfl) (.refl _ s) oe
  | managementLinkDown portB => exact execManagementLinkDown_only (Sect.listed rfl) (.refl _ s) portB
  | shadowPartner o v => exact execShadowPartner_only (Sect.listed rfl) (.refl _ s) o v
  | shadowFeedTile pid flow index input t => exact execShadowFeedTile_only (Sect.listed rfl) (.refl _ s) pid flow index input t
  | shadowDigest k digest => exact execShadowDigest_only (Sect.listed rfl) (.refl _ s) k digest
  | shadowPass => exact execShadowPass_only (Sect.listed rfl) (.refl _ s)
  | trainingPhaseFail p => exact execTrainingPhaseFail_only (Sect.listed rfl) (.refl _ s) p
  | managementLinkUp portB => exact execManagementLinkUp_only (Sect.listed rfl) (.refl _ s) portB
  | sluiceLoadComplete pid fva len => exact execSluiceLoadComplete_only (Sect.listed rfl) (.refl _ s) pid fva len
  | hashUnitDone sd cluster core => exact execHashUnitDone_only (Sect.listed rfl) (.refl _ s) sd cluster core
  | cxlMemEnable cp cfg => exact execCxlMemEnable_only (Sect.listed rfl) (.refl _ s) cp cfg

/-- Every meaning answers a next state, on every path. -/
theorem exec_answers (c : Instr) (s : State) : ∃ t, exec c s = .next t := by
  cases c <;> exact ⟨_, rfl⟩

/-- Settles O6: the frame is the second half of what `exec_only` says of every command. -/
theorem commandFrame : Obligations.CommandFrame := fun c s t h => (exec_only c s t h).2

/-! ### One step: the front command, or one tick -/

theorem step_of_pending {c : Instr} {rest : List Instr} {s : State} (h : s.pending = c :: rest) :
    step s = exec c { s with pending := rest } := by
  simp only [step, h]

theorem step_of_idle {s : State} (h : s.pending = []) : step s = .next s.tick := by
  simp only [step, h]

theorem State.tick_keeps (s : State) : s.Keeps s.tick :=
  (State.tick_only (List.Subset.refl _) (State.Only.refl _ s)).1

/-- What a step can be: a tick, or a command that keeps what `State.Keeps` names of the state whose queue is the rest. -/
theorem step_cases {s t : State} (h : step s = .next t) :
    (s.pending = [] ∧ s.Keeps t) ∨ ∃ c rest, s.pending = c :: rest ∧ State.Keeps { s with pending := rest } t := by
  cases hq : s.pending with
  | nil =>
    rw [step_of_idle hq] at h
    cases h
    exact .inl ⟨rfl, s.tick_keeps⟩
  | cons c rest =>
    rw [step_of_pending hq] at h
    exact .inr ⟨c, rest, rfl, (exec_only c _ t h).1⟩

/-- Settles O1: it is the first branch of `step`. -/
theorem stepPerformsFront : Obligations.StepPerformsFront := fun _ _ _ h => step_of_pending h

/-- Settles O2: a command and a tick both answer, and neither touches the queue that it leaves. -/
theorem everyStepAnswers : Obligations.EveryStepAnswers := by
  intro s
  have hanswers : ∃ t, step s = .next t := by
    cases hq : s.pending with
    | nil => exact ⟨_, step_of_idle hq⟩
    | cons c rest => rw [step_of_pending hq]; exact exec_answers c _
  obtain ⟨t, ht⟩ := hanswers
  refine ⟨t, ht, ?_⟩
  rcases step_cases ht with ⟨hq, hk⟩ | ⟨c, rest, hq, hk⟩
  · rw [hk.1, hq, List.tail_nil]
  · rw [hk.1, hq, List.tail_cons]

/-- Settles O3: memory is canonical after a tick and after every command, by `State.Keeps`. -/
theorem stepKeepsMemory : Obligations.StepKeepsMemory := by
  intro s t h hmem
  rcases step_cases h with ⟨-, -, -, hk, -⟩ | ⟨c, rest, -, -, -, hk, -⟩ <;> exact hk hmem

/-- Settles O4: the units and the order code are kept by a tick and by every command, by `State.Keeps`. -/
theorem stepKeepsUnits : Obligations.StepKeepsUnits := by
  refine ⟨fun s t h hunits => ?_, fun s t h => ?_⟩
  · rcases step_cases h with ⟨-, -, -, -, hk⟩ | ⟨c, rest, -, -, -, -, hk⟩ <;> exact hk hunits
  · rcases step_cases h with ⟨-, -, hk, -, -⟩ | ⟨c, rest, -, -, hk, -, -⟩ <;> exact hk

/-- Settles O5: each invariant is a value of the reset state. -/
theorem resetHolds : Obligations.ResetHolds :=
  ⟨rfl, ⟨rfl, rfl, rfl, rfl⟩, rfl, rfl, rfl, rfl, fun _ => rfl, fun _ => rfl⟩

end Sys2Proof.Machine

/-! Proofs about plain values: the judgement of a wait (R314), the duplicate window (R257), clamping (R348), the atomics (R75) and
the scalar operations of a station. -/

namespace Sys2Proof.Machine

open Sys2Proof

/-! ### Serial numbers -/

/-- The distance from `b` up to `v` around a circle of 2^32, over the naturals and over the integers. -/
theorem serial_distance {v b : Nat} (hb : b < 2 ^ 32) :
    (((v + 2 ^ 32 - b) % 2 ^ 32 : Nat) : Int) = ((v : Int) - b) % 2 ^ 32 := by
  omega

theorem Counter.judge_eq {k : Counter} {target : Nat} (hb : k.b < 2 ^ 32) (ht : target < 2 ^ 32) :
    k.judge target =
      if 2 ^ 31 ≤ ((k.v : Int) - k.b) % 2 ^ 32 then some Status.counterWindow
      else if ((k.v : Int) - target) % 2 ^ 32 < 2 ^ 31 then some Status.ok else none := by
  have hbase := serial_distance (v := k.v) hb
  have htarget := serial_distance (v := k.v) ht
  unfold Counter.judge
  rw [Nat.mod_eq_of_lt ht, ← hbase, ← htarget]
  norm_cast

/-- Settles O13: the two comparisons of `Counter.judge` exclude one another. -/
theorem counterJudgement : Obligations.CounterJudgement := by
  intro k target _ hb ht
  have hne : Status.counterWindow ≠ Status.ok := by decide
  rw [Counter.judge_eq hb ht]
  by_cases hbase : 2 ^ 31 ≤ ((k.v : Int) - k.b) % 2 ^ 32
  · rw [if_pos hbase]
    simp [hne]
    omega
  · rw [if_neg hbase]
    by_cases htarget : ((k.v : Int) - target) % 2 ^ 32 < 2 ^ 31
    · rw [if_pos htarget]
      simp [hne.symm]
      omega
    · rw [if_neg htarget]
      simp
      omega

theorem Peer.judge_of_epoch {p : Peer} {f : Frame} (he : p.inEpoch = some f.pepoch) :
    p.judge f =
      if 0 < (f.seq + 2 ^ 24 - p.high) % 2 ^ 24 ∧ (f.seq + 2 ^ 24 - p.high) % 2 ^ 24 < 2 ^ 23 then .fresh
      else if 4096 ≤ (p.high + 2 ^ 24 - f.seq) % 2 ^ 24 then .below
      else match p.win.find? fun w => w.seq = f.seq with
        | some w => .dup w
        | none => .fresh := by
  simp only [Peer.judge, he, ne_eq, not_true_eq_false, if_false, Bool.and_eq_true, decide_eq_true_eq] <;> rfl

/-- Settles O31: the distance of a sequence number from the highest decides, in either direction. -/
theorem duplicateWindow : Obligations.DuplicateWindow := by
  intro p f hhigh hseq
  refine ⟨fun hne => ?_, fun he k hpos hlt hk => ?_, fun he k hlo hhi hk => ?_, fun he k hlt hk => ?_⟩
  · simp [Peer.judge, hne]
  · rw [Peer.judge_of_epoch he, if_pos (by omega)]
  · rw [Peer.judge_of_epoch he, if_neg (by omega), if_pos (by omega)]
  · have hjudge := Peer.judge_of_epoch he
    rw [if_neg (by omega), if_neg (by omega)] at hjudge
    exact ⟨fun w hw => by rw [hjudge, hw], fun hnone => by rw [hjudge, hnone]⟩

/-! ### Clamping -/

theorem clampLe_spec {lo hi : Nat} (v : Nat) (h : lo ≤ hi) :
    (clampLe lo hi v).1 = max lo (min v hi) ∧ ((clampLe lo hi v).2 = none ↔ lo ≤ v ∧ v ≤ hi) := by
  unfold clampLe
  split
  · exact ⟨by dsimp only; omega, by simp; omega⟩
  · split
    · exact ⟨by dsimp only; omega, by simp; omega⟩
    · exact ⟨by dsimp only; omega, by simp; omega⟩

/-- The step below a value that has passed the lower bound. -/
theorem stepBelow_spec {lo v st : Nat} (hst : 0 < st) (hlo : lo ≤ v) :
    lo + (v - lo) / st * st ≤ v ∧ v < lo + (v - lo) / st * st + st ∧ (lo + (v - lo) / st * st - lo) % st = 0 := by
  have hdiv := Nat.div_mul_le_self (v - lo) st
  have hlt := Nat.lt_div_mul_add hst (a := v - lo)
  exact ⟨by omega, by omega, by rw [Nat.add_sub_cancel_left]; exact Nat.mul_mod_left _ _⟩

theorem clampStep_spec {lo hi st : Nat} (v : Nat) (h : lo ≤ hi) (hst : 0 < st) (hdvd : (hi - lo) % st = 0) :
    lo ≤ (clampStep lo hi st v).1 ∧ (clampStep lo hi st v).1 ≤ hi ∧ ((clampStep lo hi st v).1 - lo) % st = 0 ∧
      ((clampStep lo hi st v).2 = none ↔ lo ≤ v ∧ v ≤ hi ∧ (v - lo) % st = 0) ∧
      (lo ≤ v → v ≤ hi → (clampStep lo hi st v).1 ≤ v ∧ v < (clampStep lo hi st v).1 + st) := by
  unfold clampStep
  split
  · exact ⟨le_rfl, h, by simp, by simp; omega, by omega⟩
  · split
    · exact ⟨h, le_rfl, hdvd, by simp; omega, by omega⟩
    · split
      · exact ⟨by omega, by omega, ‹_›, by simp; omega, by simpa using fun _ _ => hst⟩
      · obtain ⟨hle, hlt, hmod⟩ := stepBelow_spec hst (not_lt.mp ‹¬v < lo›)
        exact ⟨Nat.le_add_right _ _, by dsimp only; omega, hmod, by simp; omega, fun _ _ => ⟨hle, hlt⟩⟩

/-- Settles O23: one clause for each kind of range, from what the clamp of that range does. -/
theorem clampedValues : Obligations.ClampedValues := by
  intro s e tm v lo hi st hle hst
  refine ⟨fun hr => ?_, fun hr hdvd => ?_, fun n hr => ?_, fun hr => ?_⟩
  · simpa only [clampVal, hr] using clampLe_spec v hle
  · simpa only [clampVal, hr] using clampStep_spec v hle hst hdvd
  · simp only [clampVal, hr]
    exact ⟨fun hlt => if_pos hlt, fun hge => by rw [if_neg (by omega)]⟩
  · simp only [clampVal, hr]
    split
    · assumption
    · exact .inl le_rfl

/-! ### Words -/

section BitVectors

variable {w : Nat} (a b : BitVec w)

theorem toSigned_toNat (hw : 0 < w) : toSigned w a.toNat = a.toInt := by
  rw [toSigned_eq_bmod hw, BitVec.toInt_eq_toNat_bmod]

theorem ofSigned_eq_toNat_ofInt (v : Int) : ofSigned w v = (BitVec.ofInt w v).toNat := by
  rw [BitVec.toNat_ofInt, ofSigned]

theorem BitVec.toNat_mod_self : a.toNat % 2 ^ w = a.toNat := Nat.mod_eq_of_lt a.isLt

end BitVectors

/-- Settles O27: each operation is the one of bit vectors of its width. -/
theorem atomicNewValues : Obligations.AtomicNewValues := by
  intro w hw a b c
  have hpos : 0 < w := by omega
  refine ⟨?_, ?_, ?_, ?_, ?_, ?_, ?_, ?_⟩ <;>
    simp only [atomNew, toSigned_toNat _ hpos, BitVec.toNat_mod_self, BitVec.toNat_add, BitVec.toNat_and, BitVec.toNat_or,
      BitVec.toNat_xor, BitVec.slt_iff_toInt_lt, apply_ite BitVec.toNat, BitVec.toNat_inj]

theorem saluOp_sub (a b : BitVec 64) : saluOp 1 a.toNat b.toNat = (a - b).toNat := by
  have hb := b.isLt
  unfold saluOp
  simp only [BitVec.toNat_sub]
  omega

theorem saluOp_shiftLeft (a b : BitVec 64) : saluOp 5 a.toNat b.toNat = (a <<< (b.toNat % 64)).toNat := by
  rw [show saluOp 5 a.toNat b.toNat = (a.toNat <<< (b.toNat % 64)) % 2 ^ 64 from rfl, BitVec.toNat_shiftLeft]

theorem saluOp_shiftRight_arith (a b : BitVec 64) :
    saluOp 7 a.toNat b.toNat = (a.sshiftRight (b.toNat % 64)).toNat := by
  rw [show saluOp 7 a.toNat b.toNat = ofSigned 64 (toSigned 64 a.toNat / (2 ^ (b.toNat % 64) : Nat)) from rfl,
    toSigned_toNat _ (by decide), BitVec.sshiftRight_eq, ofSigned_eq_toNat_ofInt, Int.shiftRight_eq_div_pow]

theorem Inst.xr_xw_self (i : Inst) {n : Nat} (v : Nat) (hn : n ≠ 0) : (i.xw n v).xr n = v % 2 ^ 64 := by
  simp [Inst.xw, Inst.xr, hn, nmGet, mfind_mput_self]

theorem Inst.pr_pw_self (i : Inst) {n : Nat} (v : Nat) (hn : n ≠ 0) : (i.pw n v).pr n = v % 2 ^ 256 := by
  simp [Inst.pw, Inst.pr, hn, nmGet, mfind_mput_self]

theorem Inst.xr_xw_ne (i : Inst) {m n : Nat} (v : Nat) (h : m ≠ n) : (i.xw n v).xr m = i.xr m := by
  unfold Inst.xw
  split
  · rfl
  · simp only [Inst.xr, nmGet, mfind_mput_ne _ _ _ _ h]

theorem Inst.pr_pw_ne (i : Inst) {m n : Nat} (v : Nat) (h : m ≠ n) : (i.pw n v).pr m = i.pr m := by
  unfold Inst.pw
  split
  · rfl
  · simp only [Inst.pr, nmGet, mfind_mput_ne _ _ _ _ h]

/-- What a write of a register leaves of the running station. -/
theorem Inst.xw_frame (i : Inst) (n v : Nat) : (i.xw n v).p = i.p ∧ (i.xw n v).sram = i.sram ∧ (i.xw n v).h = i.h := by
  unfold Inst.xw
  split <;> exact ⟨rfl, rfl, rfl⟩

theorem Inst.pw_x (i : Inst) (n v : Nat) : (i.pw n v).x = i.x := by
  unfold Inst.pw
  split <;> rfl

/-- Settles O41: the operations and comparisons are those of 64-bit vectors; registers read back as finite maps do. -/
theorem scalarValues : Obligations.ScalarValues := by
  refine ⟨fun a b => ?_, fun i n m v => ?_⟩
  · refine ⟨BitVec.toNat_add a b, saluOp_sub a b, rfl, rfl, rfl, saluOp_shiftLeft a b, rfl, saluOp_shiftRight_arith a b,
      ?_, ?_, ?_, ?_, ?_, ?_⟩ <;>
      simp only [brTaken, toSigned_toNat, decide_eq_true_eq, BitVec.toNat_inj, ne_eq, Nat.zero_lt_succ]
  · obtain ⟨hp, hsram, hh⟩ := i.xw_frame n v
    refine ⟨⟨rfl, rfl, rfl, rfl⟩, fun hn => ⟨i.xr_xw_self v hn, i.pr_pw_self v hn⟩,
      fun hne => ⟨i.xr_xw_ne v hne, i.pr_pw_ne v hne⟩, ?_, ?_, hsram, hh⟩
    · rw [Inst.pr, hp, Inst.pr]
    · rw [Inst.xr, i.pw_x, Inst.xr]

end Sys2Proof.Machine

/-! Proofs about power and module states (chapters 1, 14, 16 and 17): what the dictionary reads after the updates of the state,
start-up, input power, caps, and the requests of the rack manager. -/

namespace Sys2Proof.Machine

open Sys2Proof

variable {s t : State} {o : Origin} {k : Nat}

/-! ### What an entry reads after an update -/

theorem State.rd_congr (h : t.od = s.od) (k : Nat) : t.rd k = s.rd k := by
  simp only [State.rd, h]

@[simp] theorem State.rd_mapLife (g : Life → Life) (k : Nat) : (s.mapLife g).rd k = s.rd k := rfl
@[simp] theorem State.rd_mapPower (g : Power → Power) (k : Nat) : (s.mapPower g).rd k = s.rd k := rfl
@[simp] theorem State.rd_mapNv (g : Nv → Nv) (k : Nat) : (s.mapNv g).rd k = s.rd k := rfl
@[simp] theorem State.rd_mapXl (g : Xlate → Xlate) (k : Nat) : (s.mapXl g).rd k = s.rd k := rfl
@[simp] theorem State.rd_mapReq (g : Reqs → Reqs) (k : Nat) : (s.mapReq g).rd k = s.rd k := rfl
@[simp] theorem State.rd_mapHome (g : Home → Home) (k : Nat) : (s.mapHome g).rd k = s.rd k := rfl
@[simp] theorem State.rd_mapEp (g : EpSt → EpSt) (k : Nat) : (s.mapEp g).rd k = s.rd k := rfl
@[simp] theorem State.rd_mapStn (g : Stn → Stn) (k : Nat) : (s.mapStn g).rd k = s.rd k := rfl
@[simp] theorem State.rd_mapSw (g : Switch → Switch) (k : Nat) : (s.mapSw g).rd k = s.rd k := rfl
@[simp] theorem State.rd_mapDlv (g : Delivery → Delivery) (k : Nat) : (s.mapDlv g).rd k = s.rd k := rfl
@[simp] theorem State.rd_mapLnk (g : Links → Links) (k : Nat) : (s.mapLnk g).rd k = s.rd k := rfl
@[simp] theorem State.rd_mapTim (g : Time → Time) (k : Nat) : (s.mapTim g).rd k = s.rd k := rfl
@[simp] theorem State.rd_mapSec (g : Sec → Sec) (k : Nat) : (s.mapSec g).rd k = s.rd k := rfl
@[simp] theorem State.rd_mapMgt (g : Mgt → Mgt) (k : Nat) : (s.mapMgt g).rd k = s.rd k := rfl
@[simp] theorem State.rd_mapOwn (g : NMap → NMap) (k : Nat) : (s.mapOwn g).rd k = s.rd k := rfl
@[simp] theorem State.rd_mapFills (g : List FillSpan → List FillSpan) (k : Nat) : (s.mapFills g).rd k = s.rd k := rfl
@[simp] theorem State.rd_emit (x : Out) (k : Nat) : (s.emit x).rd k = s.rd k := rfl
@[simp] theorem State.rd_draw (k : Nat) : s.draw.rd k = s.rd k := rfl
@[simp] theorem State.rd_fresh (k : Nat) : s.fresh.rd k = s.rd k := rfl

theorem State.rd_bump_self (k n : Nat) : (s.bump k n).rd k = (s.rd k + n) % 2 ^ 32 := State.rd_wr_self k _

theorem State.rd_bump_ne {j : Nat} (k n : Nat) (h : j ≠ k) : (s.bump k n).rd j = s.rd j := State.rd_wr_ne k j _ h

@[simp] theorem State.rd_event (key k : Nat) : (s.event key).rd k = s.rd k :=
  State.rd_congr ((State.event_only (List.Subset.refl _) (State.Only.refl _ s) key).agrees .od rfl) k

/-- A module state is entered by a change of the life section; the EVENT of it touches no other. -/
theorem State.enter_only_life (m : MState) : State.Only [.out, .life, .mgt] s (s.enter m) :=
  State.enter_only (List.Subset.refl _) (State.Only.refl _ s) m

@[simp] theorem State.rd_enter (m : MState) (k : Nat) : (s.enter m).rd k = s.rd k :=
  State.rd_congr ((State.enter_only_life m).agrees .od rfl) k

@[simp] theorem State.rd_reply (status : Nat) (clamped : Bool) (val : List Byte) (k : Nat) :
    (s.reply o status clamped val).rd k = s.rd k := State.rd_congr (State.reply_od s o status clamped val) k

/-! ### Input power -/

/-- Input power is lost in whatever state: the module is OFF, and the input is off. -/
theorem State.inputGone_off (s : State) : s.inputGone.life.mstate = .off ∧ s.inputGone.power.inputOn = false := by
  refine ⟨?_, rfl⟩
  by_cases h : s.life.mstate = .off
  · simp [State.inputGone, State.powerLost, h]
  · simp [State.inputGone, State.powerLost, h, State.poweredDown, State.reset]

/-- Settles O7: the four losses of input are one operation, and the input stage is a change of the power section. -/
theorem inputPowerAndStage : Obligations.InputPowerAndStage := by
  refine ⟨fun s t hon ht => ?_, fun s => ⟨fun hfuse => ?_, fun hfuse => ?_, fun hfuse => ?_, fun hoff => ?_, fun hoff hfuse => ?_⟩⟩
  · subst ht
    have hloss := exec_only .inputLoss s s.inputGone rfl
    have hshut : ∀ d, 1150 ≤ d → exec (.thermalShutdown d) s = .next s.inputGone := fun d hd => by
      change execThermalShutdown d s = _
      rw [execThermalShutdown, if_pos hd]
    have hdown : s.inputGone = ((s.logFault 0x10 0 0 0 0 0 0).saveRetained.poweredDown).mapPower fun p =>
        { p with inputOn := false, standby := false } := by
      rw [State.inputGone, State.powerLost, if_neg hon]
    have hempty : s.inputGone.mem = [] ∧ s.inputGone.od = [] ∧ s.inputGone.own = [] := by
      rw [hdown]
      exact ⟨rfl, rfl, rfl⟩
    have hbanks : s.inputGone.nv.a = (s.logFault 0x10 0 0 0 0 0 0).saveRetained.nv.a ∧
        s.inputGone.nv.b = (s.logFault 0x10 0 0 0 0 0 0).saveRetained.nv.b := by
      rw [hdown]
      exact ⟨rfl, rfl⟩
    exact ⟨rfl, rfl, rfl, hshut, s.inputGone_off.1, s.inputGone_off.2, hempty.1, hempty.2.1, hempty.2.2, hbanks.1, hbanks.2,
      hloss.1.2.1, hloss.agrees .out rfl⟩
  · have hexec : exec .inputOvercurrent s = .next ((if s.managed then (s.bump K.fuseTrips 1).touchRetained else s).inputGone.mapPower
        fun p => { p with fuseOpen := true }) := by
      change execInputOvercurrent s = _
      simp [execInputOvercurrent, hfuse]
    exact ⟨_, hexec, rfl, (State.inputGone_off _).1, rfl⟩
  · change execInputRestart s = _
    simp [execInputRestart, hfuse]
  · change execFuseRelease s = _
    rw [execFuseRelease, if_pos hfuse]
    rfl
  · change execReversedPolarity s = _
    rw [execReversedPolarity, if_pos hoff]
    rfl
  · change execInputRestart s = _
    simp [execInputRestart, hoff, hfuse, State.mapPower]

/-! ### Caps: the entries that a cap may change -/

theorem State.rd_setStage (v : Nat) (hk : k ≠ K.powerStage) : (s.setStage v).rd k = s.rd k := by
  unfold State.setStage
  split
  · rfl
  · rw [State.rd_event, State.rd_wr_ne _ _ _ hk]

theorem State.rd_measurePower (hk : k ≠ K.inputPower) : s.measurePower.rd k = s.rd k := by
  rw [State.measurePower, State.rd_draw, State.rd_wr_ne _ _ _ hk]

@[simp] theorem State.rd_nextMeasure (k : Nat) : s.nextMeasure.rd k = s.rd k :=
  State.rd_congr ((State.nextMeasure_only (List.Subset.refl _) (.refl _ s)).agrees .od rfl) k

theorem State.rd_takeMeasures (n : Nat) (hk : k ≠ K.inputPower) : (State.takeMeasures n s).rd k = s.rd k := by
  induction n generalizing s with
  | zero => rfl
  | succ n ih =>
    dsimp only [State.takeMeasures]
    split
    · rw [ih, State.rd_nextMeasure, State.rd_measurePower hk]
    · exact State.rd_measurePower hk

theorem State.rd_releaseStep (hop : k ≠ K.operatingPoint) (hst : k ≠ K.powerStage) : s.releaseStep.rd k = s.rd k := by
  unfold State.releaseStep
  split
  · rfl
  · split
    · rw [State.rd_setStage _ hst, State.rd_wr_ne _ _ _ hop]
    · dsimp only
      split
      · rw [State.rd_setStage _ hst, State.rd_mapPower]
      · rfl

/-- A cap that takes effect changes INPUT_POWER, POWER_STAGE and OPERATING_POINT, and no other entry. -/
theorem State.rd_applyCap (old : Nat) (hin : k ≠ K.inputPower) (hop : k ≠ K.operatingPoint) (hst : k ≠ K.powerStage) :
    (s.applyCap old).rd k = s.rd k := by
  have hmeasured : s.measurePower.rd k = s.rd k := State.rd_measurePower hin
  unfold State.applyCap
  dsimp only
  split
  · exact hmeasured
  · split
    · rw [State.rd_takeMeasures _ hin]
      split
      · rw [State.rd_setStage _ hst, hmeasured]
      · exact hmeasured
    · split
      · rw [State.rd_releaseStep hop hst, hmeasured]
      · exact hmeasured

/-! ### Start-up -/

theorem exec_powerGood_true (hoff : s.life.mstate = .off) (hin : s.power.inputOn = true) (hfuse : s.power.fuseOpen = false)
    (hst : s.power.standby = false) :
    exec (.powerGood true) s = .next ((s.poweredDown.mapPower fun p => { p with redLight := 0 }).enter .restore) := by
  change execPowerGood true s = _
  simp [execPowerGood, hoff, hin, hfuse, hst]

theorem exec_powerGood_false (hoff : s.life.mstate = .off) (hin : s.power.inputOn = true) (hfuse : s.power.fuseOpen = false)
    (hst : s.power.standby = false) :
    exec (.powerGood false) s = .next { s with power := { s.power with redLight := 2 } } := by
  change execPowerGood false s = _
  simp [execPowerGood, hoff, hin, hfuse, hst, State.mapPower]

theorem exec_restoreComplete (h : s.life.mstate = .restore) :
    exec .restoreComplete s = .next (s.rebuild.afterRestore.enter .selftest) := by
  change execRestoreComplete s = _
  rw [execRestoreComplete, if_pos h]

/-- RESTORE leaves every granule in SCRUB: no granule is listed. -/
theorem State.afterRestore_own (s : State) : s.afterRestore.own = [] := by
  unfold State.afterRestore
  dsimp only
  rw [(State.applyCap_only (List.Subset.refl _) (.refl _ _) _).agrees .own rfl]
  rfl

theorem State.afterRestore_powerCap (s : State) : s.afterRestore.rd K.powerCap = s.rd K.capAtRestore := by
  unfold State.afterRestore
  dsimp only
  rw [State.rd_applyCap _ (by decide) (by decide) (by decide), State.rd_mapLife]
  simp only [State.fillSlot, State.rd_mapSec]
  rw [State.rd_wr_ne _ _ _ (by decide), State.rd_mapSec, State.rd_wr_ne _ _ _ (by decide), State.rd_mapFills, State.rd_mapOwn,
    State.rd_wr_ne _ _ _ (by decide), State.rd_wr_self]

theorem State.afterRestore_restoredAt (s : State) : s.afterRestore.life.restoredAt = s.now := by
  unfold State.afterRestore
  dsimp only
  rw [(State.applyCap_only (List.Subset.refl _) (.refl _ _) _).agrees .life rfl]
  rfl

theorem exec_selftestComplete_good {r : SelfTest} (h : s.life.mstate = .selftest) (hr : r.fatal = none) :
    exec (.selftestComplete r) s = .next ((s.afterSelftest r).enter .training).analysisLaser := by
  change execSelftestComplete r s = _
  simp [execSelftestComplete, h, hr]

theorem exec_selftestComplete_fatal {r : SelfTest} {code : Nat} (h : s.life.mstate = .selftest) (hr : r.fatal = some code) :
    exec (.selftestComplete r) s = .next (s.enterFailed code 0).settleAll := by
  change execSelftestComplete r s = _
  simp [execSelftestComplete, h, hr]

/-- R386: after SELFTEST no flow is left, and the ring of tile buffers holds every buffer. -/
theorem State.afterSelftest_fresh (s : State) (r : SelfTest) : (s.afterSelftest r).stn.flows = [] ∧
    (s.afterSelftest r).sw.tbRing = if s.rd K.tbufCount = 0 then [] else [(0, s.rd K.tbufCount)] := by
  refine ⟨rfl, ?_⟩
  simp only [State.afterSelftest, State.each, List.foldl, List.range, List.range.loop, State.mapLnk_sw, State.mapEp_sw, State.wr_sw,
    State.mapSw_sw]
  rw [State.rd_wr_ne _ _ _ (by decide), State.rd_wr_ne _ _ _ (by decide), State.rd_wr_ne _ _ _ (by decide),
    State.rd_wr_ne _ _ _ (by decide), State.rd_mapStn]

theorem State.trainingDone_only (s : State) (r : SelfTest) :
    State.Only [.out, .life, .mgt, .lnk] (s.afterSelftest r) ((s.afterSelftest r).enter .training).analysisLaser :=
  State.analysisLaser_only (Sect.listed rfl) (State.enter_only (Sect.listed rfl) (.refl _ _) _)

theorem State.enterMember_mstate (s : State) : s.enterMember.life.mstate = .member := by
  unfold State.enterMember
  dsimp only
  rw [(State.clearOwners_only (List.Subset.refl _) (.refl _ _)).agrees .life rfl]
  simp [State.touchRetained, State.enter_life]

/-- Settles O8: one clause for each row of Table ARC-6 from OFF to MEMBER or SHADOW. -/
theorem startUp : Obligations.StartUp := by
  refine fun s => ⟨fun hoff hin hfuse hst => ⟨?_, exec_powerGood_false hoff hin hfuse hst⟩, fun hrestore => ?_,
    fun r hself => ⟨fun hr => ?_, fun hr => ?_⟩, fun htr hever hno => ?_, fun htr hjoin hlock hpres => ?_⟩
  · have honly := State.enter_only_life (s := s.poweredDown.mapPower fun p => { p with redLight := 0 }) .restore
    refine ⟨_, exec_powerGood_true hoff hin hfuse hst, by rw [State.enter_life], ?_, honly.agrees .od rfl, honly.agrees .mem rfl,
      (honly.agrees .nv rfl).1, (honly.agrees .nv rfl).2⟩
    rw [State.now, honly.agrees .tim rfl]
    rfl
  · have honly := State.enter_only_life (s := s.rebuild.afterRestore) .selftest
    refine ⟨_, exec_restoreComplete hrestore, by rw [State.enter_life], fun g => ?_, ?_, ?_⟩
    · rw [State.granule, honly.agrees .own rfl, State.afterRestore_own]
      rfl
    · rw [State.rd_enter, State.afterRestore_powerCap]
    · rw [State.enter_life]
      change s.rebuild.afterRestore.life.restoredAt = _
      rw [State.afterRestore_restoredAt, State.now, (State.rebuild_only (List.Subset.refl _) (.refl _ s)).agrees .tim rfl]
      rfl
  · have honly := s.trainingDone_only r
    refine ⟨_, exec_selftestComplete_good hself hr, by rw [State.analysisLaser_life, State.enter_life], ?_, ?_⟩
    · rw [honly.agrees .stn rfl, (s.afterSelftest_fresh r).1]
    · rw [honly.agrees .sw rfl, (s.afterSelftest_fresh r).2]
  · obtain ⟨code, hcode⟩ := Option.ne_none_iff_exists'.mp hr
    refine ⟨_, exec_selftestComplete_fatal hself hcode, ?_⟩
    rw [State.settleAll_life (by simp [State.enterFailed_life]), State.enterFailed_life]
  · have hexec : exec .trainingExit s = .next (s.enter .shadow) := by
      change execTrainingExit s = _
      simp only [execTrainingExit, htr, hever]
      simpa using fun h1 h2 h3 => absurd ⟨h1, h2, h3⟩ hno
    exact ⟨_, hexec, by rw [State.enter_life], (State.enter_only_life _).2⟩
  · refine ⟨?_, s.enterMember_mstate⟩
    change execTrainingExit s = _
    simp [execTrainingExit, htr, hjoin, hlock, hpres]

/-! ### Statements that the model does not meet -/

/-- A module of 4 in FAILED whose analysis port is fabric port 15, which is dark. -/
def failedWithAnalysis : State :=
  State.wr (State.wr { State.reset with life := { State.reset.life with mstate := .failed } } K.meshN 4) K.analysisPort 15

/-- Refutes O9: RECOVER also lights the laser of the analysis port again (R246), which the clause on RECOVER leaves out. -/
theorem not_stateRequests : ¬ Obligations.StateRequests := by
  intro h
  obtain ⟨-, -, hrecover, -⟩ := h failedWithAnalysis (.mdp 0 0)
  have hsame := (exec_recover_of_failed rfl rfl).symm.trans (hrecover rfl rfl)
  exact absurd (congrArg (fun t => (t.fport 15).laser) (Host.Outcome.next.inj hsame)) (by decide)

/-- A member at OP4 with every measure taken, whose only trained port has no record among the ports. -/
def cappedWithoutPorts : State :=
  (((State.wr { State.reset with life := { State.reset.life with mstate := .member }
                                 power := { State.reset.power with measures := 7 }
                                 lnk := { State.reset.lnk with fp := [] } } K.powerStage 2).wr K.operatingPoint 4).wr (K.fpState 0) psUp)

/-- Refutes O10: the clause on stage 3 does not suppose that the state has its ports, so a trained port may be without the record
in which its idle state would be kept. -/
theorem not_capsAndThrottle : ¬ Obligations.CapsAndThrottle := by
  intro h
  obtain ⟨-, -, hstage3, -⟩ := h cappedWithoutPorts 5000
  obtain ⟨t, hexec, -, -, hidle, -⟩ := hstage3 rfl (by decide) (by decide) (by decide) (by decide) rfl
  cases hexec
  exact absurd (hidle 0 (by decide) (by decide)) (by decide)

end Sys2Proof.Machine

/-! Proofs about translation, host access and the end-point (chapters 2, 11 and 12): fault records and rings, invalidations, host
windows, contexts, copy queues, counters and bounce sessions. -/

namespace Sys2Proof.Machine

open Sys2Proof

variable {s t : State} {o : Origin} {pid k : Nat}

/-! ### Management commands that pass their gate, and what an answer leaves -/

theorem State.mailCommand_of_mailOk {onlyZero : Bool} (eff : State → Nat → State × Done) (h : s.mailOk o pid onlyZero = true) :
    ∃ p, s.senderPid o = some p ∧
      s.mailCommand o pid onlyZero eff = (eff s p).1.finish o (eff s p).2 := by
  cases hp : s.senderPid o with
  | none => simp [State.mailOk, hp] at h
  | some p =>
    obtain ⟨⟨hm, hl⟩, hpid⟩ : (s.managed = true ∧ s.limited o = false) ∧ (p = 0 ∨ onlyZero = false ∧ p = pid) := by
      simpa [State.mailOk, hp] using h
    exact ⟨p, rfl, by simp [State.mailCommand, hm, hp, hl, hpid]⟩

theorem State.finish_now (s : State) (o : Origin) (st : Nat) (c : Bool) (v : List Byte) :
    s.finish o (.now st c v) = s.reply o st c v := rfl

/-- A response changes what was sent, the record of its session, and the mailbox of its context or host. -/
theorem State.reply_told (s : State) (o : Origin) (st : Nat) (c : Bool) (v : List Byte) :
    State.Only [.out, .ep, .mgt] s (s.reply o st c v) :=
  State.reply_only (List.Subset.refl _) (.refl _ s) o st c v

@[simp] theorem State.reply_xl (st : Nat) (c : Bool) (v : List Byte) : (s.reply o st c v).xl = s.xl :=
  (s.reply_told o st c v).agrees .xl rfl

@[simp] theorem State.reply_lnk (st : Nat) (c : Bool) (v : List Byte) : (s.reply o st c v).lnk = s.lnk :=
  (s.reply_told o st c v).agrees .lnk rfl

/-- Of the end-points a response changes the mailboxes alone. -/
theorem State.reply_ep (s : State) (o : Origin) (st : Nat) (c : Bool) (v : List Byte) :
    ∃ ctxs hosts, (s.reply o st c v).ep = { s.ep with mbxCtx := ctxs, mbxHost := hosts } := by
  cases o with
  | mdp session seq =>
    simp only [State.reply]
    split <;> exact ⟨_, _, rfl⟩
  | ctx ep n =>
    simp only [State.reply]
    split <;> exact ⟨_, _, rfl⟩
  | host cp => exact ⟨_, _, rfl⟩

section ReplyEp

variable (st : Nat) (c : Bool) (v : List Byte)

@[simp] theorem State.reply_ctxOf (ep n : Nat) : (s.reply o st c v).ctxOf ep n = s.ctxOf ep n := by
  obtain ⟨_, _, h⟩ := s.reply_ep o st c v
  simp only [State.ctxOf, h]

@[simp] theorem State.reply_queueOf (ep q : Nat) : (s.reply o st c v).queueOf ep q = s.queueOf ep q := by
  obtain ⟨_, _, h⟩ := s.reply_ep o st c v
  simp only [State.queueOf, h]

@[simp] theorem State.reply_ctrOf (ep n : Nat) : (s.reply o st c v).ctrOf ep n = s.ctrOf ep n := by
  obtain ⟨_, _, h⟩ := s.reply_ep o st c v
  simp only [State.ctrOf, h]

@[simp] theorem State.reply_bounceOf (p cp : Nat) : (s.reply o st c v).bounceOf p cp = s.bounceOf p cp := by
  obtain ⟨_, _, h⟩ := s.reply_ep o st c v
  simp only [State.bounceOf, h]

@[simp] theorem State.reply_usedKeys : (s.reply o st c v).ep.usedKeys = s.ep.usedKeys := by
  obtain ⟨_, _, h⟩ := s.reply_ep o st c v
  rw [h]

end ReplyEp

/-! ### Fault records and rings (R51, R52) -/

theorem exec_faultResolve_open {rid : Nat} {r : FaultRec} (ho : s.mailOk o pid false = true) (hr : s.openRec rid pid = some r) :
    exec (.faultResolveRetry o pid rid) s = .next (((s.closeRec rid pid).each (s.parkedOn rid pid) fun s t =>
        (s.setTx { t with xst := .ready }).translate t.id none).settleAll.reply o Status.ok false []) ∧
      exec (.faultResolveFail o pid rid) s = .next (((s.closeRec rid pid).each (s.parkedOn rid pid) fun s t =>
        s.completeTx t r.status).settleAll.reply o Status.ok false []) := by
  constructor
  · change execFaultResolveRetry o pid rid s = _
    obtain ⟨p, -, hrun⟩ := State.mailCommand_of_mailOk _ ho
    rw [execFaultResolveRetry, hrun]
    simp only [hr, State.finish]
  · change execFaultResolveFail o pid rid s = _
    obtain ⟨p, -, hrun⟩ := State.mailCommand_of_mailOk _ ho
    rw [execFaultResolveFail, hrun]
    simp only [hr, State.finish]

theorem exec_faultResolve_closed {rid : Nat} (ho : s.mailOk o pid false = true) (hr : s.openRec rid pid = none) :
    exec (.faultResolveRetry o pid rid) s = .next (s.reply o Status.refused false []) ∧
      exec (.faultResolveFail o pid rid) s = .next (s.reply o Status.refused false []) := by
  constructor
  · change execFaultResolveRetry o pid rid s = _
    obtain ⟨p, -, hrun⟩ := State.mailCommand_of_mailOk _ ho
    rw [execFaultResolveRetry, hrun]
    simp only [hr, State.finish]
  · change execFaultResolveFail o pid rid s = _
    obtain ⟨p, -, hrun⟩ := State.mailCommand_of_mailOk _ ho
    rw [execFaultResolveFail, hrun]
    simp only [hr, State.finish]

/-- The key that FAULT_RING_RESET writes. -/
def ringKey (pid sub : Nat) : Nat := if sub = 1 then K.faultRingBase pid else K.faultRingEntries pid

/-- Whatever is written to the base or the size of a fault ring, the ring is empty afterwards. -/
theorem exec_faultRingReset (sub v : Nat) (ha : s.allows o (ringKey pid sub) pid = true) :
    ∃ t, exec (.faultRingReset o pid sub v) s = .next t ∧ t.rd (K.faultRingHead pid) = 0 ∧ t.rd (K.faultRingTail pid) = 0 ∧
      nmGet t.xl.phase pid 0 = 1 ∧ ∀ r ∈ t.xl.recs, r.pid = pid → r.inRing = false := by
  have hne : K.faultRingHead pid ≠ K.faultRingTail pid := by simp only [K.faultRingHead, K.faultRingTail, K.pb]; omega
  refine ⟨s.command o (ringKey pid sub) pid _, rfl, ?_⟩
  rw [State.command_of_allows _ ha]
  simp only [State.finish_now, State.reply_xl, State.mapXl_xl, State.rd_reply, State.rd_mapXl, State.rd_wr_self,
    State.rd_wr_ne _ _ _ hne, nmGet, mfind_mput_self, Option.getD_some, List.mem_map, true_and]
  rintro _ ⟨r, -, rfl⟩ hpid
  by_cases hp : r.pid = pid
  · rw [if_pos hp]
  · exact absurd (by rwa [if_neg hp] at hpid) hp

theorem entryOf_faultRingTail (h : pid < 64) :
    entryOf (K.faultRingTail pid / 256) (K.faultRingTail pid % 256) = some ⟨4, 4, .rw, 0, .tail, false, 0⟩ := by
  have hix : K.faultRingTail pid / 256 = 0x3000 + 0x40 * pid + 9 := by simp only [K.faultRingTail, K.pb]; omega
  have hsub : K.faultRingTail pid % 256 = 4 := by simp only [K.faultRingTail, K.pb]; omega
  have hoff : (0x3000 + 0x40 * pid + 9 - 0x3000) % 0x40 = 9 := by omega
  rw [hix, hsub, entryOf, if_pos (by omega), hoff]
  rfl

theorem exec_faultRingTail {v : Nat} (hpid : pid < 64) (ha : s.allows o (K.faultRingTail pid) pid = true)
    (hv : v < s.rd (K.faultRingEntries pid)) :
    exec (.faultRingTail o pid v) s = .next (((s.wr (K.faultRingTail pid) v).ringConsumed pid).reply o Status.ok false []) := by
  change execFaultRingTail o pid v s = _
  have hhi : ¬ s.rd (K.faultRingEntries pid) - 1 < v := by omega
  rw [execFaultRingTail, State.command_of_allows _ ha]
  simp [State.writePlain, State.settle, entryOf_faultRingTail hpid, clampVal, clampLe, hhi, State.finish]

/-- Settles O16: records by their two resolutions, rings by their three registers. -/
theorem translationFaults : Obligations.TranslationFaults := by
  refine ⟨fun s o pid rid ho => ⟨fun r hr => exec_faultResolve_open ho hr, exec_faultResolve_closed ho⟩,
    fun s o pid v hpid => ⟨exec_faultRingReset 1 v, exec_faultRingReset 2 v, exec_faultRingTail hpid, ?_⟩⟩
  intro r hr hrpid hin
  obtain ⟨r0, -, rfl⟩ : ∃ r0 ∈ s.xl.recs, _ = r := by simpa [State.ringConsumed] using hr
  by_cases hp : r0.pid = pid
  · rw [if_pos hp] at hin ⊢
    exact (Bool.and_eq_true _ _ ▸ hin).2
  · exact absurd (by rwa [if_neg hp] at hrpid) hp

end Sys2Proof.Machine

/-! Proofs about invalidations and hosts (chapters 2 and 11), and about contexts, queues, copies, counters and bounce sessions
(chapter 12). -/

namespace Sys2Proof.Machine

open Sys2Proof

variable {s t : State} {o : Origin} {pid k : Nat}

/-! ### RTC_INVAL (R45) -/

/-- What an invalidation names of the translations. -/
theorem State.mem_invalApply_rtc (s : State) (i : InvalOp) (e : RtcEntry) : e ∈ (s.invalApply i).xl.rtc ↔ e ∈ s.xl.rtc ∧
    ¬(i.epmask.testBit e.ep = true ∧ invNames i e.pid = true ∧
      invMeets i (e.d.start * 4096) ((e.d.start + e.d.len) * 4096) = true) := by
  have hdrop : ∀ (u : State) (p : Nat → Nat → Nat → Bool), (u.reachDrop p).xl.rtc = u.xl.rtc := fun u p => by
    have hcounted : (u.each (u.xl.reach.filter fun r => p r.ep r.pid r.line) fun s r => s.epEv r.ep 0x207 r.pid 1).xl = u.xl :=
      (State.each_only (.refl [.od, .mgt] u) _ _ fun t r ht => State.epEv_only (List.Subset.refl _) ht _ _ _ _).agrees .xl rfl
    simp [State.reachDrop, hcounted]
  simp only [State.invalApply, hdrop, State.mapXl_xl, List.mem_filter, Bool.not_eq_true', ← Bool.not_eq_true, Bool.and_eq_true,
    and_assoc]

theorem exec_rtcInval {i : InvalOp} (ho : s.mailOk o i.pid false = true) (hall : i.span = .all → s.senderPid o = some 0)
    (hrange : ∀ b n, i.span = .range b n → b % 4096 = 0 ∧ b < 2 ^ 57) :
    exec (.rtcInval o i) s = .next ((s.invalApply i).fresh.mapXl fun x => { x with invals := x.invals ++ [⟨s.nextId, o, i,
      (s.req.txs.filter fun t => invTouches i t && !t.allIssued).map Tx.id,
      if i.drain then (s.req.txs.filter (invTouches i)).map Tx.id else []⟩] }) := by
  change execRtcInval o i s = _
  obtain ⟨p, hp, hrun⟩ := State.mailCommand_of_mailOk _ ho
  rw [execRtcInval, hrun]
  cases hs : i.span with
  | pidAll => simp [State.finish]
  | all => simp [State.finish, Option.some.inj (hp.symm.trans (hall hs))]
  | range b n =>
    obtain ⟨halign, hlt⟩ := hrange b n hs
    norm_num at hlt
    simp [State.finish, halign, not_le.mpr hlt]

theorem exec_rtcInvalComplete {id : Nat} {r : InvalRun} (hr : (s.xl.invals.find? fun r => r.id = id) = some r)
    (hwalk : (s.xl.walks.any fun w => w.restart && r.op.epmask.testBit w.ep && (invNames r.op) w.pid) = false)
    (hiss : ∀ i ∈ r.issueWait, s.txIssued i = true) (hdone : ∀ i ∈ r.doneWait, s.txEnded i = true) :
    exec (.rtcInvalComplete id) s = .next ((s.mapXl fun x => { x with
      invals := x.invals.filter fun v => v.id ≠ id }).reply r.origin Status.ok false []) := by
  change execRtcInvalComplete id s = _
  rw [execRtcInvalComplete, hr]
  dsimp only
  rw [hwalk, List.all_eq_true.mpr hiss, List.all_eq_true.mpr hdone]
  rfl

/-! ### Host windows and ATS (R54 to R57, R63) -/

theorem exec_cxlMemRequest {cp hpa fva : Nat} {wr wantM : Bool} {data : List Byte} {a : AgentSt} (hon : s.windowOn cp = true)
    (hfva : s.windowFva cp (hpa / 64 * 64) = some fva) (hlt : fva < 2 ^ 57) (ha : s.agentOf (.window cp) = some a)
    (hpid : a.pid = s.rd (K.winPid cp)) :
    exec (.cxlMemRequest cp wr wantM hpa data) s = .next ((s.epEv cp 0x201 (s.rd (K.winPid cp)) 1).openAccess { Tx.blank with
      agent := .window cp, pid := s.rd (K.winPid cp), owner := s.rd (K.winOwner cp), dest := .host cp hpa
      acc := if wr then .store else .load, wide := wantM, scope := 2, fromHost := true, addr := fva, len := 64
      data := if wr then fitTo 64 data else [] }).settleAll := by
  change execCxlMemRequest cp wr wantM hpa data s = _
  simp only [execCxlMemRequest, hon, if_true, hfva, if_neg (not_le.mpr hlt), ha, hpid]

theorem State.windowHpa_windowFva {cp hpa : Nat} (hlo : s.rd (K.hdmBase cp) ≤ hpa)
    (hhi : hpa < s.rd (K.hdmBase cp) + s.hdmCapacity cp) :
    ∃ fva, s.windowFva cp hpa = some fva ∧ fva = s.rd (K.winFva cp) + (hpa - s.rd (K.hdmBase cp)) ∧
      s.windowHpa cp fva = some hpa := by
  refine ⟨_, by simp [State.windowFva, hlo, hhi], rfl, ?_⟩
  have hin : s.rd (K.winFva cp) + (hpa - s.rd (K.hdmBase cp)) < s.rd (K.winFva cp) + s.hdmCapacity cp := by omega
  simp only [State.windowHpa, Nat.le_add_right, hin, decide_true, Bool.and_self, if_true, Option.some.injEq]
  omega

/-- The state in which an ATS invalidation has dropped its translations and waits. -/
def State.atsDropped (s : State) (cp base len : Nat) : State :=
  s.mapReq fun r => { r with
    ats := r.ats.filter fun e => !(e.cp = cp && decide (e.base < base + len) && decide (base < e.base + e.len))
    atsInv := [⟨cp, base, len, false, false⟩] }

theorem exec_atsInvalidation {cp base len : Nat} (hup : s.epUp cp = true) (hnone : s.req.atsInv = []) :
    exec (.atsInvalidation cp base len) s = .next (if s.dmaUses cp base len then s.atsDropped cp base len
      else ((s.atsDropped cp base len).mapReq fun r => { r with atsInv := [] }).emit (.atsDone cp base)) := by
  change execAtsInvalidation cp base len s = _
  have hwait : (s.mapReq fun r => { r with
      ats := r.ats.filter fun e => !(e.cp = cp && decide (e.base < base + len) && decide (base < e.base + e.len))
      atsInv := r.atsInv ++ [⟨cp, base, len, false, false⟩] }) = s.atsDropped cp base len := by
    simp only [State.mapReq, State.atsDropped, hnone, List.nil_append]
  rw [execAtsInvalidation, if_pos hup, hwait]
  change Host.Outcome.next (if s.dmaUses cp base len then _ else _) = _
  simp [State.atsDropped, State.mapReq]

/-- Settles O17: what an invalidation drops, when it ends, and the windows and translations of a host. -/
theorem invalidationsAndHosts : Obligations.InvalidationsAndHosts := by
  refine ⟨fun s => ⟨fun o i ho hall hrange => ?_, fun e i => s.mem_invalApply_rtc i e, fun id r => exec_rtcInvalComplete⟩,
    fun s => ⟨fun cp wr wantM hpa data fva a => exec_cxlMemRequest, fun cp hpa => State.windowHpa_windowFva,
      fun cp => ⟨fun hp => ?_, fun hp hmode hconf => ?_⟩, fun cp base len hup hnone hdma => ?_, fun cp base len hup hnone hdma => ?_⟩⟩
  · refine ⟨_, exec_rtcInval ho hall hrange, rfl, rfl, rfl, ?_⟩
    exact (State.invalApply_only (List.Subset.refl _) (.refl _ s) i).agrees .out rfl
  · simp [State.hdmCapacity, hp]
  · simp [State.hdmCapacity, hp, hmode, hconf]
  · refine ⟨_, exec_atsInvalidation hup hnone, ?_⟩
    rw [hdma]
    refine ⟨rfl, rfl, fun e he hcp hlt => ?_⟩
    obtain ⟨-, hkeep⟩ : e ∈ s.req.ats ∧ _ := by simpa [State.atsDropped] using he
    omega
  · refine ⟨_, exec_atsInvalidation hup hnone, ?_⟩
    rw [hdma]
    exact ⟨rfl, rfl⟩

/-! ### Contexts (R307, R308) -/

theorem List.find?_append_singleton {α : Type} {p : α → Bool} {l : List α} {a : α} (hl : l.find? p = none) (ha : p a = true) :
    (l ++ [a]).find? p = some a := by
  simp [List.find?_append, hl, ha]

theorem exec_ctxBind {b : BindOp} (ho : s.mailOk o b.pid true = true) (hep : b.ep < 4) (hctx : b.ctx < 1024) (hport : b.port < 16)
    (hown : epOfPort b.port = b.ep) (hbond : s.bondOf b.port = b.port) (hpid : b.pid ≤ 63) (hsize : b.expSize ≤ 2 ^ 38)
    (hgran : b.expSize % 2 ^ 21 = 0) (hfree : s.ctxOf b.ep b.ctx = none) (hact : s.pstate b.pid = 1) (hup : s.epUp b.ep = true)
    (hana : s.analysis ≠ some (16 + b.port)) :
    ∃ t : State, exec (.ctxBind o b) s = .next (t.reply o Status.ok false []) ∧ t.ctxOf b.ep b.ctx =
      some ⟨b.ep, b.ctx, b.port, b.pid, b.owner % 65536, b.expSize, if s.apUp b.port then .bound else .detached, none, []⟩ := by
  have hexec : exec (.ctxBind o b) s = .next ((((s.setAp b.port fun p => { p with
      dayTest := p.dayTest.map fun _ => 99 }).mapEp fun e => { e with ctxs := e.ctxs ++
      [⟨b.ep, b.ctx, b.port, b.pid, b.owner % 65536, b.expSize, if s.apUp b.port then .bound else .detached, none, []⟩] }).addAgent
      (.ctx b.ep b.ctx) b.pid (b.owner % 65536)).noteBound b.ep |>.reply o Status.ok false []) := by
    change execCtxBind o b s = _
    obtain ⟨p, -, hrun⟩ := State.mailCommand_of_mailOk _ ho
    rw [execCtxBind, hrun]
    simp only [not_le.mpr hep, not_le.mpr hctx, not_le.mpr hport, hown, hbond, not_lt.mpr hpid, not_lt.mpr hsize, hgran, hfree, hact,
      hup, hana, decide_false, Bool.or_false, ne_eq, not_true_eq_false, Option.isSome_none, Bool.not_true, Bool.false_eq_true, if_false]
    rfl
  exact ⟨_, hexec, List.find?_append_singleton hfree (by simp)⟩

theorem exec_ctxUnbind {ep ctx : Nat} {c : Ctx} (ho : s.mailOk o 0 true = true) (hc : s.ctxOf ep ctx = some c)
    (hu : c.unbind = none) :
    exec (.ctxUnbind o ep ctx) s = .next (s.setCtx ep ctx fun c => { c with unbind := some o }) := by
  change execCtxUnbind o ep ctx s = _
  obtain ⟨p, -, hrun⟩ := State.mailCommand_of_mailOk _ ho
  rw [execCtxUnbind, hrun]
  simp [hc, hu, State.finish]

theorem exec_ctxUnbindComplete {ep ctx : Nat} {c : Ctx} (hc : s.ctxOf ep ctx = some c) (hu : c.unbind = some o)
    (hopen : s.ctxOpen ep ctx = []) :
    exec (.ctxUnbindComplete ep ctx) s = .next (((s.reply o Status.ok false []).dropCtx ep ctx).apQualDue c.port) := by
  change execCtxUnbindComplete ep ctx s = _
  simp [execCtxUnbindComplete, hc, hu, hopen]

/-! ### Copy queues (R309 to R312) -/

/-- The sizes of a queue are the powers of two from 16 to 65,536. -/
theorem queueSizes_contains {n : Nat} (hlo : 4 ≤ n) (hhi : n ≤ 16) :
    [16, 32, 64, 128, 256, 512, 1024, 2048, 4096, 8192, 16384, 32768, 65536].contains (2 ^ n) = true := by
  interval_cases n <;> decide

theorem exec_queueSetup {q : QueueOp} (ho : s.mailOk o q.pid false = true) (hep : q.ep < 4) (hq : q.q < 64) (hpid : q.pid ≤ 63)
    (hsize : ∃ n, 4 ≤ n ∧ n ≤ 16 ∧ q.entries = 2 ^ n) (hbase : q.hostSpace = true ∨ q.descBase < 2 ^ 57 ∧ q.compBase < 2 ^ 57)
    (hfree : s.queueOf q.ep q.q = none) (hact : s.pstate q.pid = 1) (hup : s.epUp q.ep = true) :
    ∃ t : State, exec (.queueSetup o q) s = .next (t.reply o Status.ok false []) ∧ t.queueOf q.ep q.q = some ⟨q.ep, q.q, q.pid,
      q.owner % 65536, q.hostSpace, q.descBase, q.entries, q.compBase, 0, 0, true, false, none, []⟩ := by
  obtain ⟨n, hlo, hhi, hn⟩ := hsize
  have hbaseOk : (!q.hostSpace && (decide (2 ^ 57 ≤ q.descBase) || decide (2 ^ 57 ≤ q.compBase))) = false := by
    rcases hbase with h | ⟨hd, hc⟩
    · simp [h]
    · rw [decide_eq_false (not_le.mpr hd), decide_eq_false (not_le.mpr hc), Bool.or_false, Bool.and_false]
  have hsizeOk := queueSizes_contains hlo hhi
  rw [← hn] at hsizeOk
  have hexec : exec (.queueSetup o q) s = .next (((s.mapEp fun e => { e with queues := e.queues ++ [⟨q.ep, q.q, q.pid,
      q.owner % 65536, q.hostSpace, q.descBase, q.entries, q.compBase, 0, 0, true, false, none, []⟩] }).addAgent
      (.queue q.ep q.q) q.pid (q.owner % 65536)).reply o Status.ok false []) := by
    change execQueueSetup o q s = _
    obtain ⟨p, -, hrun⟩ := State.mailCommand_of_mailOk _ ho
    rw [execQueueSetup, hrun]
    simp only [not_le.mpr hep, not_le.mpr hq, not_lt.mpr hpid, hbaseOk, hsizeOk, hfree, hact, hup, decide_false, Bool.or_false, ne_eq,
      not_true_eq_false, Option.isSome_none, Bool.not_true, Bool.false_eq_true, if_false]
    rfl
  exact ⟨_, hexec, List.find?_append_singleton hfree (by simp)⟩

theorem State.queuePid_of_queueOf {ep q : Nat} {x : Queue} (hx : s.queueOf ep q = some x) : s.queuePid ep q = x.pid := by
  simp [State.queuePid, hx]

theorem exec_queueTail {ep q tail : Nat} {x : Queue} (hx : s.queueOf ep q = some x) (ho : s.mailOk o x.pid false = true)
    (hlt : tail < x.entries) (hrun : x.stopped = false) (hpos : 0 < (tail + x.entries - x.tail) % x.entries)
    (hhalf : 2 * ((tail + x.entries - x.tail) % x.entries) < x.entries) :
    exec (.queueTail o ep q tail) s = .next ((s.setQueue ep q fun y => { y with tail := tail }).reply o Status.ok false []) := by
  change execQueueTail o ep q tail s = _
  rw [← State.queuePid_of_queueOf hx] at ho
  obtain ⟨p, -, hrow⟩ := State.mailCommand_of_mailOk _ ho
  rw [execQueueTail, hrow]
  simp [State.setTail, hx, not_le.mpr hlt, hpos, hhalf, hrun, State.finish]

theorem exec_queueReset {ep q : Nat} {x : Queue} (hx : s.queueOf ep q = some x) (ho : s.mailOk o x.pid false = true)
    (hno : x.reset = none) :
    exec (.queueReset o ep q) s = .next ((s.setQueue ep q fun y => { y with reset := some o }).queueStop ep q).settleAll := by
  change execQueueReset o ep q s = _
  rw [← State.queuePid_of_queueOf hx] at ho
  obtain ⟨p, -, hrow⟩ := State.mailCommand_of_mailOk _ ho
  rw [execQueueReset, hrow]
  simp [hx, hno, State.finish]

/-- Settles O18: contexts and queues, each command by its own gate and effect. -/
theorem contextsAndQueues : Obligations.ContextsAndQueues := by
  refine ⟨fun s => ⟨fun o b ho hep hctx hport hown hbond hpid hsize hgran hfree hact hup hana => ?_,
      fun o ep ctx c => exec_ctxUnbind, fun ep ctx c o => exec_ctxUnbindComplete⟩,
    fun s o => ⟨fun q ho hep hq hpid hsize hbase hfree hact hup => ?_, fun ep q x tail => exec_queueTail, fun ep q x => exec_queueReset⟩⟩
  · obtain ⟨t, hexec, hof⟩ := exec_ctxBind ho hep hctx hport hown hbond hpid hsize hgran hfree hact hup hana
    exact ⟨_, hexec, _, by rw [State.reply_ctxOf, hof], rfl, rfl, rfl, rfl, rfl, rfl⟩
  · obtain ⟨t, hexec, hof⟩ := exec_queueSetup ho hep hq hpid hsize hbase hfree hact hup
    exact ⟨_, hexec, _, by rw [State.reply_queueOf, hof], rfl, rfl, rfl, rfl, rfl, rfl, rfl, rfl⟩

end Sys2Proof.Machine

/-! Proofs about copies, counters and bounce sessions (chapter 12), and about the reads and writes of dictionary entries (R350). -/

namespace Sys2Proof.Machine

open Sys2Proof

variable {s t : State} {o : Origin} {pid k : Nat}

/-! ### Copy descriptors (R310, R311, R320) -/

section Copies

variable {ep q idx tail : Nat} {x : Queue} {r : CopyRun} {desc d : List Nat} {dma : ReadBack} {ats : List AtsPage}

/-- A descriptor between two places of the fabric asks nothing of a host. -/
theorem State.descStop_of_fabric (hs : descSsp d = 0) (hd : descDsp d = 0) (a b : ReadBack) : s.descStop x d a = s.descStop x d b := by
  simp [State.descStop, hs, hd]

theorem State.descAts_of_fabric (hs : descSsp d = 0) (hd : descDsp d = 0) : s.descAts x d ats = (s, none) := by
  have hspans : s.hostSpans x d = [] := by simp [State.hostSpans, hs, hd]
  simp [State.descAts, hspans, State.each]

theorem State.noteRx_of_fabric (hs : descSsp d = 0) (stop : Option Nat) : s.noteRx x d stop = s := by
  simp [State.noteRx, hs]

/-- The checks under which the next descriptor of a queue starts. -/
structure State.MayStart (s : State) (ep q : Nat) (x : Queue) (desc : List Nat) : Prop where
  queue : s.queueOf ep q = some x
  run : x.stopped = false
  more : x.head ≠ x.tail
  service : s.inService = true
  up : s.epUp ep = true
  queueRoom : x.runs.length < 8
  epRoom : s.epRuns ep < 256
  fence : descFence (s.headDesc x desc) = true → x.runs = []

theorem State.MayStart.checks (h : s.MayStart ep q x desc) : (x.stopped || decide (x.head = x.tail) || !s.inService || !s.epUp ep ||
    decide (8 ≤ x.runs.length) || decide (256 ≤ s.epRuns ep)) = false := by
  simp [h.run, h.more, h.service, h.up, h.queueRoom, h.epRoom]

theorem State.MayStart.fenceOk (h : s.MayStart ep q x desc) : (descFence (s.headDesc x desc) && !x.runs.isEmpty) = false := by
  cases hf : descFence (s.headDesc x desc) with
  | false => rfl
  | true => rw [h.fence hf]; rfl

/-- A descriptor that is stopped, by the host's translations or by its checks, ends as a run with that status. -/
theorem exec_copyDescriptorStart_stopped (h : s.MayStart ep q x desc) {a : State × Option Nat} {st : Nat}
    (ha : a = if ((s.reachClear ep x.pid).descStop x (s.headDesc x desc) (.ok [])).isNone then
      (s.reachClear ep x.pid).descAts x (s.headDesc x desc) ats else (s.reachClear ep x.pid, none))
    (hst : a.2.or ((s.reachClear ep x.pid).descStop x (s.headDesc x desc) dma) = some st) :
    exec (.copyDescriptorStart ep q desc ⟨dma, ats⟩) s =
      .next ((a.1.noteRx x (s.headDesc x desc) (some st)).setQueue ep q fun y => { y with
        head := (x.head + 1) % x.entries, phase := if (x.head + 1) % x.entries = 0 then !y.phase else y.phase
        runs := y.runs ++ [⟨x.head, s.headDesc x desc, 0, st, x.phase, 0, false, 0⟩] }) := by
  subst ha
  change execCopyDescriptorStart ep q desc ⟨dma, ats⟩ s = _
  simp only [execCopyDescriptorStart, h.queue, h.checks, h.fenceOk, hst, Bool.false_eq_true, if_false]

/-- A descriptor between two places of the fabric that passes its checks opens its transaction, which is translated. -/
theorem exec_copyDescriptorStart_fabric (h : s.MayStart ep q x desc)
    (hstop : (s.reachClear ep x.pid).descStop x (s.headDesc x desc) dma = none) (hs : descSsp (s.headDesc x desc) = 0)
    (hd : descDsp (s.headDesc x desc) = 0) {r : State × Nat}
    (hr : r = ((s.reachClear ep x.pid).epEv ep 0x201 x.pid 1).openTx { Tx.blank with
      agent := .queue ep q, pid := x.pid, owner := x.owner, dest := .copyQ ep q x.head, acc := .copy, scope := 2
      addr := (s.headDesc x desc).getD 1 0, dst := (s.headDesc x desc).getD 2 0, len := descLen (s.headDesc x desc) }) :
    exec (.copyDescriptorStart ep q desc ⟨dma, ats⟩) s = .next ((r.1.setQueue ep q fun y => { y with
      head := (x.head + 1) % x.entries, phase := if (x.head + 1) % x.entries = 0 then !y.phase else y.phase
      runs := y.runs ++ [⟨x.head, s.headDesc x desc, r.2, 0, x.phase, 0, false, 0⟩] }).translate r.2 none).settleAll := by
  have hfirst : (s.reachClear ep x.pid).descStop x (s.headDesc x desc) (.ok []) = none := by
    rw [State.descStop_of_fabric hs hd _ dma, hstop]
  subst hr
  change execCopyDescriptorStart ep q desc ⟨dma, ats⟩ s = _
  simp only [execCopyDescriptorStart, h.queue, h.checks, h.fenceOk, hfirst, hstop, State.descAts_of_fabric hs hd,
    State.noteRx_of_fabric hs, hs, hd, Option.isNone_none, if_true, Option.or_none, Bool.false_eq_true, if_false]
  cases dma <;> rfl

theorem exec_copyDescriptorComplete (hx : s.queueOf ep q = some x) (hr : (x.runs.find? fun r => r.idx = idx) = some r) :
    exec (.copyDescriptorComplete ep q ⟨idx, tail⟩) s =
      .next (if s.runEnded r then ((s.takeTail x tail).runOn x r).atsSettle.settleAll else s) := by
  change execCopyDescriptorComplete ep q ⟨idx, tail⟩ s = _
  simp only [execCopyDescriptorComplete, hx, hr]

/-- Outside a confidential host nothing goes through the TX ring, so a run that has ended is finished. -/
theorem State.runOn_of_open (hconf : s.rd (K.conf x.ep) ≠ 1) : s.runOn x r = (s.fillRing x r).finishRun x r := by
  have hnone : s.ringChunks x r = [] := by simp [State.ringChunks, hconf]
  have hrd : (s.fillRing x r).rd (K.conf x.ep) = s.rd (K.conf x.ep) := by
    simp only [State.fillRing, hnone, List.take_nil]
    rfl
  simp [State.runOn, hnone, State.recordInRing, hrd, hconf]

end Copies

/-! ### Arrival counters and bounce sessions (R313, R320) -/

section Counters

variable {ep ctr : Nat} {c : Counter}

theorem exec_counterAdvance (hup : s.epUp ep = true) (pid : Nat) :
    exec (.counterAdvance ep ctr pid) s = .next (s.advanceCtr ep ctr pid).settleAll := by
  change execCounterAdvance ep ctr pid s = _
  rw [execCounterAdvance, if_pos hup]

theorem List.find?_mapIf {α : Type} {p : α → Bool} {f : α → α} {l : List α} {a : α} (hf : ∀ a, p (f a) = p a)
    (h : l.find? p = some a) : (mapIf p f l).find? p = some (f a) := by
  have hcomp : (p ∘ fun a => if p a then f a else a) = p := by
    funext a
    simp only [Function.comp]
    split <;> simp [hf]
  rw [mapIf, List.find?_map, hcomp, h, Option.map_some, if_pos (List.find?_some h)]

theorem exec_ctrBind (ho : s.mailOk o pid true = true) (hep : ep < 4) (hctr : ctr < 4096) (hpid : pid ≤ 63) :
    exec (.ctrBind o ep ctr pid) s = .next ((if (s.ctrOf ep ctr).isSome then
        s.mapEp fun e => { e with ctrs := mapIf (fun c => c.ep = ep && c.n = ctr) (fun c => { c with pid := pid }) e.ctrs }
      else s.mapEp fun e => { e with ctrs := e.ctrs ++ [⟨ep, ctr, pid, 0, 0⟩] }).reply o Status.ok false []) := by
  change execCtrBind o ep ctr pid s = _
  obtain ⟨p, -, hrun⟩ := State.mailCommand_of_mailOk _ ho
  rw [execCtrBind, hrun]
  simp only [not_le.mpr hep, not_le.mpr hctr, not_lt.mpr hpid, decide_false, Bool.or_false, Bool.false_eq_true, if_false]
  split <;> rfl

/-- CTR_BIND keeps the value of a counter that is bound, and starts another at 0. -/
theorem ctrBind_counter (ho : s.mailOk o pid true = true) (hep : ep < 4) (hctr : ctr < 4096) (hpid : pid ≤ 63) :
    ∃ t, exec (.ctrBind o ep ctr pid) s = .next t ∧ ∃ c, t.ctrOf ep ctr = some c ∧ c.pid = pid ∧
      (∀ c0, s.ctrOf ep ctr = some c0 → c.v = c0.v ∧ c.b = c0.b) ∧ (s.ctrOf ep ctr = none → c.v = 0 ∧ c.b = 0) := by
  refine ⟨_, exec_ctrBind ho hep hctr hpid, ?_⟩
  rw [State.reply_ctrOf]
  cases hc : s.ctrOf ep ctr with
  | none =>
    exact ⟨_, List.find?_append_singleton hc (by simp), rfl, by simp, fun _ => ⟨rfl, rfl⟩⟩
  | some c0 =>
    refine ⟨_, List.find?_mapIf (fun _ => rfl) hc, rfl, fun c1 h1 => ?_, by simp⟩
    cases h1
    exact ⟨rfl, rfl⟩

/-- The sizes of a bounce ring are the powers of two from 16 to 4,096. -/
theorem ringSizes_contains {n : Nat} (hlo : 4 ≤ n) (hhi : n ≤ 12) :
    [16, 32, 64, 128, 256, 512, 1024, 2048, 4096].contains (2 ^ n) = true := by
  interval_cases n <;> decide

theorem exec_sessionSetup {b : BounceOp} (ho : s.mailOk o b.pid false = true) (hcp : b.cp < 4) (hconf : s.rd (K.conf b.cp) = 1)
    (hact : s.pstate b.pid = 1) (hkey : s.hasHostKey b.pid b.keyId = true) (hnew : s.ep.usedKeys.contains b.keyId = false)
    (hslots : ∃ n, 4 ≤ n ∧ n ≤ 12 ∧ b.slots = 2 ^ n) :
    exec (.sessionSetup o b) s = .next ((s.mapEp fun e => { e with
      bounces := (e.bounces.filter fun x => !(x.op.pid = b.pid && x.op.cp = b.cp)) ++ [⟨b, 0, 0, false, 0⟩]
      usedKeys := e.usedKeys ++ [b.keyId] }).reply o Status.ok false []) := by
  obtain ⟨n, hlo, hhi, hn⟩ := hslots
  have hsizeOk := ringSizes_contains hlo hhi
  rw [← hn] at hsizeOk
  change execSessionSetup o b s = _
  obtain ⟨p, -, hrun⟩ := State.mailCommand_of_mailOk _ ho
  rw [execSessionSetup, hrun]
  simp only [not_le.mpr hcp, hconf, hact, hkey, hnew, hsizeOk, decide_false, Bool.or_false, ne_eq, not_true_eq_false, Bool.not_true,
    Bool.false_eq_true, if_false]
  rfl

theorem List.find?_filter_not_append {α : Type} {p : α → Bool} (l : List α) {a : α} (ha : p a = true) :
    ((l.filter fun x => !p x) ++ [a]).find? p = some a := by
  refine List.find?_append_singleton (List.find?_eq_none.mpr fun x hx => ?_) ha
  simpa using (List.mem_filter.mp hx).2

end Counters

/-- Settles O19: the start and the end of a descriptor by what stops it, the counters, and the sessions. -/
theorem copiesAndCounters : Obligations.CopiesAndCounters := by
  refine ⟨fun s ep q x desc dma ats hq hrun hmore hsv hup hroom heproom hfence => ?_,
    fun s ep q idx tail x r hx hr => ⟨fun hend hconf => ?_, fun hend => ?_, fun hend => ?_⟩,
    fun s => ⟨fun ep ctr c hup hc => ?_, fun ep ctr c pid hup hc hne => ?_, fun o ep ctr pid => ctrBind_counter,
      fun o b ho hcp hconf hact hkey hnew hslots => ?_⟩⟩
  · have hstart : s.MayStart ep q x desc := ⟨hq, hrun, hmore, hsv, hup, hroom, heproom, hfence⟩
    exact ⟨fun a st => exec_copyDescriptorStart_stopped hstart,
      fun hstop hs hd => ⟨_, rfl, exec_copyDescriptorStart_fabric hstart hstop hs hd rfl⟩⟩
  · rw [exec_copyDescriptorComplete hx hr, if_pos hend, State.runOn_of_open (s := s.takeTail x tail) hconf]
  · rw [exec_copyDescriptorComplete hx hr, if_pos hend]
  · rw [exec_copyDescriptorComplete hx hr, if_neg (by simp [hend])]
  · rw [exec_counterAdvance hup]
    simp [State.advanceCtr, hc]
  · rw [exec_counterAdvance hup]
    simp [State.advanceCtr, hc, hne.symm]
  · refine ⟨_, exec_sessionSetup ho hcp hconf hact hkey hnew hslots, ?_, ?_⟩
    · rw [State.reply_bounceOf]
      exact List.find?_filter_not_append _ (by simp)
    · rw [State.reply_usedKeys]
      simp

/-! ### Reads and writes of entries (R350) -/

theorem exec_dictRead_answer (ix sub : Nat) (hs : s.managed = true) :
    exec (.dictRead o ix sub) s = .next (s.draw.reply o (s.dictGet o ix sub).1 false (s.dictGet o ix sub).2) :=
  exec_dictRead o ix sub hs

/-- A plain entry that passes every check takes the value. -/
theorem State.dictSet_plain {ix sub : Nat} {val : List Byte} {e : Entry} (hsub : sub < 256)
    (hg : s.writeGate o (256 * ix + sub) (opPidOf ix sub val) = none) (he : entryOf ix sub = some e) (hlen : val.length = e.size)
    (hown : (ownRow o ix sub val).isNone = true) (hrule : s.ruleRefuses ix sub (leNat val) = false) (hrsv : leNat val &&& e.rsv = 0)
    (hclamp : clampVal s e (s.tailMax (256 * ix + sub)) (leNat val) = (leNat val, none)) :
    s.dictSet o ix sub e.ty val = ((s.wr (256 * ix + sub) (leNat val)).wrote ix sub).finish o
      (if e.ret then .commit false else .now 0 false []) := by
  have hix : (256 * ix + sub) / 256 = ix := by omega
  have hsx : (256 * ix + sub) % 256 = sub := by omega
  have hrow : ownRow o ix sub val = none := by simpa using hown
  have hsettle : ∀ p, s.settle o p (256 * ix + sub) (s.tailMax (256 * ix + sub)) (leNat val) = (s, leNat val, false) := fun p => by
    simp [State.settle, hix, hsx, he, hrsv, hclamp]
  simp only [State.dictSet, hg, he, hlen, hrow, hrule, State.writePlain, hsettle, hix, hsx, ne_eq, not_true_eq_false, decide_false,
    Bool.or_false, Bool.false_eq_true, if_false]

/-- Settles O20: a read answers by its gate and keeps the dictionary, a plain write takes the value. -/
theorem dictionaryEntries : Obligations.DictionaryEntries := by
  refine ⟨fun s o ix sub hs => ⟨fun hg => ?_, fun st hg => ?_, fun t ht => ?_⟩,
    fun s o ix sub ty val e hs hsub hg he hty hlen hown hrule hrsv hclamp => ?_⟩
  · rw [exec_dictRead_answer ix sub hs]
    simp only [State.dictGet, hg]
  · rw [exec_dictRead_answer ix sub hs]
    simp only [State.dictGet, hg]
  · rw [exec_dictRead_answer ix sub hs] at ht
    cases ht
    exact State.reply_od ..
  · subst hty
    rw [exec_dictWrite o ix sub e.ty val hs, State.dictSet_plain hsub hg he hlen hown hrule hrsv hclamp]

end Sys2Proof.Machine

/-! Proofs about the home (chapters 3 and 4): reads, stores and atomics of HBM, and CAS.OWN. -/

namespace Sys2Proof.Machine

open Sys2Proof

/-! ### What a write with byte enables leaves in memory -/

theorem byteAt_bytesSetBE (bs : List Byte) (m : Bytes) (a be x : Nat) (hw : Memory.wf m = true) :
    byteAt (bytesSetBE m a be bs) x =
      if a ≤ x ∧ x < a + bs.length ∧ be.testBit (x - a) = true then bs.getD (x - a) 0 else byteAt m x := by
  induction bs generalizing m a be with
  | nil => exact (if_neg (by simp; omega)).symm
  | cons b r ih =>
    have hw' : Memory.wf (if be % 2 = 1 then byteSet m a b else m) = true := by
      split
      · exact byteSet_wf m a b hw
      · exact hw
    have hother : x ≠ a → byteAt (if be % 2 = 1 then byteSet m a b else m) x = byteAt m x := fun hne => by
      split
      · exact byteAt_byteSet_ne m a x b hne
      · rfl
    rw [bytesSetBE, ih _ _ _ hw']
    rcases Nat.lt_trichotomy x a with hlt | rfl | hgt
    · rw [if_neg (fun hin => absurd hin.1 (by omega)), hother (by omega), if_neg (fun hin => absurd hin.1 (by omega))]
    · rw [if_neg (fun hin => absurd hin.1 (by omega))]
      by_cases hbit : be % 2 = 1
      · rw [if_pos hbit, byteAt_byteSet_self m x b hw, if_pos (by simp [hbit])]
        simp
      · rw [if_neg hbit, if_neg (by simp [hbit])]
    · obtain ⟨n, rfl⟩ := Nat.exists_eq_add_of_lt hgt
      have hin : a + n + 1 - (a + 1) = n := by omega
      have hout : a + n + 1 - a = n + 1 := by omega
      rw [hother (by omega), hin, hout, Nat.testBit_succ, List.getD_cons_succ, List.length_cons]
      have hspan : (a + 1 ≤ a + n + 1 ∧ a + n + 1 < a + 1 + r.length ∧ (be / 2).testBit n = true) ↔
          (a ≤ a + n + 1 ∧ a + n + 1 < a + (r.length + 1) ∧ (be / 2).testBit n = true) := by
        constructor <;> rintro ⟨-, h, hb⟩ <;> exact ⟨by omega, by omega, hb⟩
      simp only [hspan]

theorem State.poke_mem (s : State) (a be : Nat) (bs : List Byte) (poi : Bool) :
    (s.poke a be bs poi).mem = bytesSetBE s.mem a be bs := by
  have hpoison : ∀ (ls : List Nat) (u : State), (u.each ls State.setPoison).mem = u.mem := fun ls u =>
    (State.each_only (.refl [.poison] u) ls _ fun t b ht => State.setPoison_only (List.Subset.refl _) ht b).agrees .mem rfl
  simp only [State.poke]
  split
  · rw [hpoison]
  · rfl

theorem testBit_allOnes (n i : Nat) : (allOnes n).testBit i = decide (i < n) := by
  rw [allOnes, Nat.testBit_two_pow_sub_one]

/-! ### HBM in a NORMAL or FLAG range: what the home leaves out -/

variable {s t : State} {h : HReq} {pos : Nat}

section Hbm

variable {a : Nat} (ha : regionOf a = .hbm)

include ha

theorem State.frameMoving_of_hbm (s : State) : s.frameMoving a = false := by simp [State.frameMoving, ha]

theorem State.expanderDown_of_hbm (s : State) : s.expanderDown a = none := by simp [State.expanderDown, ha]

theorem State.tierAccess_of_hbm (s : State) (hint : Nat) (ls : List Nat) : s.tierAccess a hint ls = s := by
  simp [State.tierAccess, ha]

end Hbm

section Plain

variable {f : Frame} (hf : f.mtype ≤ mtFlag)

include hf

theorem State.resolveLines_of_plain (s : State) : s.resolveLines f = s := by
  rw [State.resolveLines, if_neg (by simp only [mtFlag, mtHostcoh] at *; omega)]

theorem State.recallsFor_of_plain (s : State) (wr : Bool) : s.recallsFor f wr = [] := by
  rw [State.recallsFor, if_pos (by simp only [mtFlag, mtHostcoh] at *; omega)]

theorem not_mirrored_of_plain : f.mtype ≠ mtMirrored := by simp only [mtFlag, mtMirrored] at *; omega

theorem not_owned_of_plain : f.mtype ≠ mtOwned := by simp only [mtFlag, mtOwned] at *; omega

end Plain

theorem State.homeAnswer_frame (s : State) (h : HReq) (st li : Nat) (data : List Byte) :
    State.Only [.out, .od, .home, .sw, .dlv, .lnk, .mgt] s (s.homeAnswer h st li data) :=
  State.homeAnswer_only (List.Subset.refl _) (.refl _ s) h st li data

@[simp] theorem State.homeAnswer_mem (st li : Nat) (data : List Byte) : (s.homeAnswer h st li data).mem = s.mem :=
  (s.homeAnswer_frame h st li data).agrees .mem rfl

@[simp] theorem State.homeAnswer_poison (st li : Nat) (data : List Byte) : (s.homeAnswer h st li data).poison = s.poison :=
  (s.homeAnswer_frame h st li data).agrees .poison rfl

/-! ### Reads (R60, R102, R382) -/

/-- The bytes that a read request of HBM names from its base. -/
def readSpan (f : Frame) : Nat := if f.op = 0x50 then 64 * f.part else 64

/-- The state in which a read that met an uncorrectable error has poisoned its line. -/
def State.readError (s : State) (f : Frame) : State :=
  (s.setPoison (lineOf (reqBase f))).logFault 0x0C (pseudoChannel (reqBase f) / 32) (pseudoChannel (reqBase f)) 5 Status.poison f.pid
    f.fpa

/-- The answer of a read of HBM in the state in which its line has been read. -/
def State.readAnswer (s : State) (h : HReq) : State :=
  if s.spanPoisoned (reqBase h.f) (readSpan h.f) then s.homeAnswer h Status.poison (s.loadIndicator h) []
  else s.homeAnswer h Status.ok (s.loadIndicator h) (s.peek (reqBase h.f) (readSpan h.f))

theorem State.homeRead_of_hbm (hno : s.homeRefuses h.f = none) (hbm : regionOf (reqBase h.f) = .hbm) (hf : h.f.mtype ≤ mtFlag)
    (uncorrectable : Bool) :
    s.homeRead h uncorrectable = (if uncorrectable then s.readError h.f else s).readAnswer h := by
  simp only [State.homeRead, hno, State.expanderDown_of_hbm hbm, State.resolveLines_of_plain hf, State.recallsFor_of_plain hf, hbm,
    State.tierAccess_of_hbm hbm]
  rfl

theorem exec_homeLoad (hs : s.servesHere pos (fun f => isRead f && !hostCoh f) h) (uncorrectable : Bool) :
    exec (.homeLoad pos uncorrectable) s =
      .next ((if uncorrectable then (s.takeIn pos).readError h.f else s.takeIn pos).readAnswer h) := by
  obtain ⟨hat, hno, hbm, hf⟩ := hs
  change execHomeLoad pos uncorrectable s = _
  simp only [execHomeLoad, hat, State.homeRead_of_hbm hno hbm hf]

theorem mem_insertOnce_self (l : List Nat) (k : Nat) : k ∈ insertOnce l k := by
  unfold insertOnce
  split
  · simpa using ‹l.contains k = true›
  · simp

theorem State.readError_poison (s : State) (f : Frame) : (s.readError f).poison = insertOnce s.poison (lineOf (reqBase f)) :=
  (State.logFault_only (List.Subset.refl _) (.refl _ _) _ _ _ _ _ _ _).agrees .poison rfl

theorem State.readError_mem (s : State) (f : Frame) : (s.readError f).mem = s.mem :=
  (State.logFault_only (List.Subset.refl _) (.refl _ _) _ _ _ _ _ _ _).agrees .mem rfl

theorem State.readAnswer_frame (s : State) (h : HReq) : (s.readAnswer h).poison = s.poison ∧ (s.readAnswer h).mem = s.mem := by
  unfold State.readAnswer
  split <;> simp

/-! ### Writes (R60, R93) -/

theorem isAtomic_of_isWrite {f : Frame} (hw : isWrite f = true) : isAtomic f = false ∧ f.op ≠ 0x48 := by
  obtain ⟨-, hhi⟩ | hpart : (0x20 ≤ f.op ∧ f.op ≤ 0x26) ∨ f.op = 0x51 := by simpa [isWrite] using hw
  · simp [isAtomic]
    omega
  · simp [isAtomic, hpart]

theorem State.performAnswer_of_hbm_write (hbm : regionOf (reqBase h.f) = .hbm) (hw : isWrite h.f = true) :
    s.performAnswer h = (s.performWrite h.f).homeAnswer h Status.ok (s.loadIndicator h) [] := by
  simp [State.performAnswer, State.frameMoving_of_hbm hbm, isAtomic_of_isWrite hw]

theorem State.homeWrite_of_hbm_write (hno : s.homeRefuses h.f = none) (hbm : regionOf (reqBase h.f) = .hbm)
    (hf : h.f.mtype ≤ mtFlag) (hw : isWrite h.f = true) :
    s.homeWrite h = (s.performWrite h.f).homeAnswer h Status.ok (s.loadIndicator h) [] := by
  simp [State.homeWrite, State.writeChecked, State.commitWrite, hno, hbm, not_owned_of_plain hf, not_mirrored_of_plain hf,
    State.frameMoving_of_hbm hbm, State.expanderDown_of_hbm hbm, State.resolveLines_of_plain hf, State.recallsFor_of_plain hf,
    isAtomic_of_isWrite hw, State.performAnswer_of_hbm_write hbm hw]

theorem isWrite_of_atHome (hat : s.atHome pos (fun f => isWrite f && !hostCoh f) = some h) : isWrite h.f = true := by
  unfold State.atHome at hat
  split at hat
  · cases hat
  · split at hat
    · cases hat
      simp_all
    · cases hat

theorem exec_homeStore (hs : s.servesHere pos (fun f => isWrite f && !hostCoh f) h) :
    exec (.homeStore pos) s =
      .next (((s.takeIn pos).performWrite h.f).homeAnswer h Status.ok ((s.takeIn pos).loadIndicator h) []) := by
  obtain ⟨hat, hno, hbm, hf⟩ := hs
  change execHomeStore pos s = _
  simp only [execHomeStore, hat, State.homeWrite_of_hbm_write hno hbm hf (isWrite_of_atHome hat)]

/-- The memory after a write of HBM. -/
theorem State.performWrite_mem {f : Frame} (hbm : regionOf (reqBase f) = .hbm) :
    (s.performWrite f).mem = bytesSetBE s.mem (reqBase f) (if f.op = 0x51 then allOnes f.payload.length else f.be % 2 ^ 64)
      (f.payload.take (if f.op = 0x51 then f.payload.length else 64)) := by
  rw [State.performWrite, State.tierAccess_of_hbm hbm, State.poke_mem]

theorem State.homeAnswer_write_byteAt (hbm : regionOf (reqBase h.f) = .hbm) (hmem : s.memOk) (x li : Nat) :
    byteAt ((s.performWrite h.f).homeAnswer h Status.ok li []).mem x =
      let be := if h.f.op = 0x51 then allOnes h.f.payload.length else h.f.be % 2 ^ 64
      let bs := h.f.payload.take (if h.f.op = 0x51 then h.f.payload.length else 64)
      if reqBase h.f ≤ x ∧ x < reqBase h.f + bs.length ∧ be.testBit (x - reqBase h.f) = true then bs.getD (x - reqBase h.f) 0
      else byteAt s.mem x := by
  rw [State.homeAnswer_mem, State.performWrite_mem hbm, byteAt_bytesSetBE _ _ _ _ _ hmem]

/-- Settles O25: reads answer with what memory holds, writes change the bytes that are enabled. -/
theorem homeReadsAndStores : Obligations.HomeReadsAndStores := by
  refine ⟨fun s pos h z hz hs => ?_, fun s pos h hmem hs => ?_⟩
  · have hspan : readSpan h.f = z := hz.symm
    refine ⟨fun hclean => ?_, fun hbad => ?_, fun _ => ⟨_, exec_homeLoad hs true, ?_, ?_⟩⟩
    · rw [exec_homeLoad hs false]
      simp only [State.readAnswer, hspan, hclean, Bool.false_eq_true, if_false]
      rfl
    · rw [exec_homeLoad hs false]
      simp [State.readAnswer, hspan, hbad]
    · rw [State.poisoned, if_pos rfl, ((State.readAnswer_frame _ h).1.trans (State.readError_poison _ h.f))]
      simpa using mem_insertOnce_self _ _
    · rw [if_pos rfl]
      exact (State.readAnswer_frame _ h).2.trans (State.readError_mem _ h.f)
  · obtain ⟨-, -, hbm, -⟩ := id hs
    have hbytes := fun (x li : Nat) => State.homeAnswer_write_byteAt (h := h) (s := s.takeIn pos) hbm hmem x li
    refine ⟨fun hop hlen => ⟨_, exec_homeStore hs, fun x => ?_⟩, fun hop => ⟨_, exec_homeStore hs, fun x => ?_⟩, _, exec_homeStore hs, rfl⟩
    · rw [hbytes x _]
      simp only [hop, if_false, List.take_of_length_le hlen.le, hlen]
      refine if_congr ?_ rfl rfl
      rw [Nat.testBit_mod_two_pow, Bool.and_eq_true, decide_eq_true_eq]
      constructor
      · rintro ⟨h1, h2, -, h3⟩
        exact ⟨h1, h2, h3⟩
      · rintro ⟨h1, h2, h3⟩
        exact ⟨h1, h2, by omega, h3⟩
    · rw [hbytes x _]
      simp only [hop, if_true, List.take_length, testBit_allOnes, decide_eq_true_eq]
      refine if_congr ?_ rfl rfl
      constructor
      · rintro ⟨h1, h2, -⟩
        exact ⟨h1, h2⟩
      · rintro ⟨h1, h2⟩
        exact ⟨h1, h2, by omega⟩

/-! ### Atomics (R75, R81, R83) -/

/-- What an entry of the inbound queue that an atomic takes satisfies: it is an atomic of that operation. -/
theorem atomic_of_atHome {sub : Nat} {own : Bool}
    (hat : s.atHome pos (fun f => isAtomic f && !hostCoh f && atomSub f = sub && (f.op = 0x48) = own) = some h) :
    isAtomic h.f = true ∧ atomSub h.f = sub ∧ ((h.f.op = 0x48) ↔ own = true) := by
  unfold State.atHome at hat
  split at hat
  · cases hat
  · split at hat
    · cases hat
      rename_i hwant
      simp only [Bool.and_eq_true, decide_eq_true_eq] at hwant
      obtain ⟨⟨⟨⟨⟨hatom, -⟩, hsub⟩, hown⟩, -⟩, -⟩ := hwant
      exact ⟨hatom, hsub, iff_of_eq hown⟩
    · cases hat

theorem reqBase_of_isAtomic {f : Frame} (hatom : isAtomic f = true) : reqBase f = fpaLocal f.fpa :=
  if_pos (by simpa [isAtomic] using hatom)

/-- An atomic of HBM whose word is sound reaches the write of its word, or the check of ownership. -/
theorem State.homeWrite_of_hbm_atomic (hno : s.homeRefuses h.f = none) (hbm : regionOf (reqBase h.f) = .hbm)
    (hf : h.f.mtype ≤ mtFlag) (hsound : s.spanPoisoned (fpaLocal h.f.fpa) (atomBytes h.f) = false) :
    s.homeWrite h = if h.f.op = 0x48 then s.performCasOwn h else s.performAnswer h := by
  simp only [State.homeWrite, State.writeChecked, State.commitWrite, hno, hbm, if_neg (not_owned_of_plain hf),
    if_neg (not_mirrored_of_plain hf), State.frameMoving_of_hbm hbm, State.expanderDown_of_hbm hbm, State.resolveLines_of_plain hf,
    State.recallsFor_of_plain hf, hsound, Bool.and_false, Bool.false_eq_true, if_false]

theorem State.performAnswer_of_hbm_atomic (hbm : regionOf (reqBase h.f) = .hbm) (hatom : isAtomic h.f = true) :
    s.performAnswer h =
      (s.performAtomic h.f).homeAnswer h Status.ok (s.loadIndicator h) (leBytes (atomBytes h.f) (s.atomOld h.f)) := by
  simp only [State.performAnswer, State.frameMoving_of_hbm hbm, hatom, Bool.false_eq_true, if_false, if_true]

theorem State.homeAtomic_of_atHome {sub : Nat} {own : Bool}
    (hat : s.atHome pos (fun f => isAtomic f && !hostCoh f && atomSub f = sub && (f.op = 0x48) = own) = some h) :
    s.homeAtomic pos sub own = (s.takeIn pos).homeWrite h := by
  simp only [State.homeAtomic, hat]

theorem State.homeAtomic_served {sub : Nat} (hs : s.servesAtomic pos sub h) :
    (s.homeAtomic pos sub false).settleAll = s.atomicServed pos h := by
  obtain ⟨⟨hat, hno, hbm, hf⟩, hsound⟩ := hs
  obtain ⟨hatom, -, hcas⟩ := atomic_of_atHome hat
  rw [State.homeAtomic_of_atHome hat, State.homeWrite_of_hbm_atomic hno hbm hf hsound,
    if_neg fun hop => Bool.false_ne_true (hcas.mp hop), State.performAnswer_of_hbm_atomic hbm hatom]
  rfl

/-- The memory after an atomic of HBM: its word holds the new value. -/
theorem State.performAtomic_byteAt {f : Frame} (hbm : regionOf (fpaLocal f.fpa) = .hbm) (hmem : s.memOk) (x : Nat) :
    byteAt (s.performAtomic f).mem x =
      if fpaLocal f.fpa ≤ x ∧ x < fpaLocal f.fpa + atomBytes f then
        (leBytes (atomBytes f) (atomNew (atomSub f) (8 * atomBytes f) (s.atomOld f) (atomOperand f) (atomCompare f))).getD
          (x - fpaLocal f.fpa) 0
      else byteAt s.mem x := by
  simp only [State.performAtomic, State.tierAccess_of_hbm hbm, State.store, State.poke_mem, byteAt_bytesSetBE _ _ _ _ _ hmem,
    leBytes_length, testBit_allOnes, decide_eq_true_eq]
  refine if_congr ⟨?_, ?_⟩ rfl rfl
  · rintro ⟨hlo, hhi, -⟩
    exact ⟨hlo, hhi⟩
  · rintro ⟨hlo, hhi⟩
    exact ⟨hlo, hhi, by omega⟩

/-- Settles O26: an atomic changes its word alone, and CAS.OWN enters the owner. -/
theorem homeAtomics : Obligations.HomeAtomics := by
  refine ⟨fun s pos h => ⟨fun hs => ?_, fun hs => ?_, fun hs => ?_, fun hs => ?_, fun hs => ?_, fun hs => ?_, fun hs => ?_, fun hs => ?_⟩,
    fun s pos h sub hmem _ hs x => ?_, fun s pos h hs hsound => ?_⟩
  iterate 8 exact congrArg Host.Outcome.next (State.homeAtomic_served hs)
  · obtain ⟨⟨hat, -, hbm, -⟩, -⟩ := hs
    obtain ⟨hatom, hsub, -⟩ := atomic_of_atHome hat
    rw [reqBase_of_isAtomic hatom] at hbm
    rw [State.performAtomic_byteAt (s := s.takeIn pos) hbm hmem, hsub]
    rfl
  · obtain ⟨hat, hno, hbm, hf⟩ := hs
    obtain ⟨-, -, hcas⟩ := atomic_of_atHome (own := true) hat
    have hop : h.f.op = 0x48 := hcas.mpr rfl
    have hbytes : atomBytes h.f = 8 := by simp [atomBytes, hop]
    have hrun : exec (.casOwn (.home pos)) s = .next ((s.takeIn pos).performCasOwn h).settleAll := by
      change Host.Outcome.next (s.homeAtomic pos 7 true).settleAll = _
      rw [State.homeAtomic_of_atHome hat, State.homeWrite_of_hbm_atomic hno hbm hf (hbytes ▸ hsound), if_pos hop]
    refine ⟨fun hne => ?_, fun heq => ⟨_, _, ?_, rfl, rfl⟩⟩
    · rw [hrun, State.performCasOwn, if_pos (by exact hne)]
      rfl
    · rw [hrun, State.performCasOwn, if_neg (by exact not_not_intro heq)]
      rfl

end Sys2Proof.Machine

/-! Proofs about the instructions of a station (chapter 6): how one runs, the scalar instructions and their frame. -/

namespace Sys2Proof.Machine

open Sys2Proof

variable {s s0 s1 : State} {who : InstRef} {i j : Inst} {op : Nat}

/-! ### How an instruction runs -/

theorem State.who_of_instGet (h : s.instGet who = some i) : i.who = who := by
  simpa using List.find?_some h

/-- An instruction that may run is performed for the selected station. -/
theorem State.station_of_canRun (h : s.canRun who op i) (f : State → Inst → Nat → StnEnd) :
    s.station who op f = (s.selectInst i).endStn i (f (s.selectInst i) i i.word) := by
  obtain ⟨hget, hserves, hruns, hwait, hopen, hcore, hop, hhalt, hturn⟩ := h
  have hwho := State.who_of_instGet hget
  have htakes : s.stnTakes i op = true := by
    simp only [State.stnTakes, hserves, hwho, hruns, hwait, hopen, hcore, hop, Bool.and_eq_true, Bool.or_eq_true]
    simpa using hhalt
  simp only [State.station, hget, htakes, hturn, Bool.not_true, Bool.false_eq_true, if_false, if_true]

/-- The opcodes that may write what the hash unit absorbs (R178). -/
def writesSram (op : Nat) : Bool := op = 0x05 || op = 0x50 || op = 0x60 || tileOp op

theorem Inst.wrote_of_not_writesSram {w : Nat} (h : writesSram (iOP w) = false) : i.wrote j w = [] := by
  simp only [writesSram, Bool.or_eq_false_iff, decide_eq_false_iff_not] at h
  obtain ⟨⟨⟨h5, h50⟩, h60⟩, htile⟩ := h
  simp [Inst.wrote, h5, h50, h60, htile]

/-- Nothing holds back an instruction that writes no SRAM. -/
theorem State.clear_of_not_writesSram (h : writesSram (iOP i.word) = false) : s.clear i j := by
  rw [State.clear, Inst.wrote_of_not_writesSram h, State.absorbing]
  cases s.coreOf i <;> simp

theorem State.endStn_go (h : s.clear i j) : s.endStn i (.go s1 j) = s1.ran i j (j.pc + 1) := by
  simp only [State.endStn, show s.absorbing i (i.wrote j i.word) = false from h, Bool.false_eq_true, if_false]
  rfl

theorem State.endStn_held (h : ¬s.clear i j) : s.endStn i (.go s1 j) = s.settleAll := by
  simp only [State.endStn, show s.absorbing i (i.wrote j i.word) = true by simpa [State.clear] using h, if_true]

theorem State.endStn_stay : s.endStn i (.stay s1 j) = s1.stayed j := rfl

theorem State.endStn_fail (status : Nat) : s.endStn i (.fail status) = (s.failStation i.who status).settleAll := rfl

/-! ### What an update of the registers leaves -/

@[simp] theorem Inst.xw_pc (n v : Nat) : (i.xw n v).pc = i.pc := by
  unfold Inst.xw
  split <;> rfl

@[simp] theorem Inst.pw_pc (n v : Nat) : (i.pw n v).pc = i.pc := by
  unfold Inst.pw
  split <;> rfl

@[simp] theorem Inst.flag_pc (f : Nat) : (i.flag f).pc = i.pc := rfl

/-- An instruction without a write of SRAM that goes on, after updates of its registers. -/
theorem State.endStn_next (hw : writesSram (iOP i.word) = false) (hpc : j.pc = i.pc) :
    s.endStn i (.go s1 j) = s1.ran i j (i.pc + 1) := by
  rw [State.endStn_go (State.clear_of_not_writesSram hw), hpc]

/-- A command of a station that may run goes on, where its meaning is `go`. -/
theorem State.station_goes {f : State → Inst → Nat → StnEnd} (h : s0.canRun who op i) (hop : writesSram op = false)
    (hf : f (s0.selectInst i) i i.word = .go s1 j) (hpc : j.pc = i.pc) :
    s0.station who op f = s1.ran i j (i.pc + 1) := by
  obtain ⟨-, -, -, -, -, -, rfl, -, -⟩ := id h
  rw [State.station_of_canRun h, hf, State.endStn_next hop hpc]

/-- A command of a station that may run waits, where its meaning is `stay`. -/
theorem State.station_stays {f : State → Inst → Nat → StnEnd} (h : s0.canRun who op i)
    (hf : f (s0.selectInst i) i i.word = .stay s1 j) : s0.station who op f = s1.stayed j := by
  rw [State.station_of_canRun h, hf, State.endStn_stay]

/-- A command of a station that may run fails it, where its meaning is `fail`. -/
theorem State.station_fails {f : State → Inst → Nat → StnEnd} {status : Nat} (h : s0.canRun who op i)
    (hf : f (s0.selectInst i) i i.word = .fail status) :
    s0.station who op f = ((s0.selectInst i).failStation who status).settleAll := by
  rw [State.station_of_canRun h, hf, State.endStn_fail, State.who_of_instGet h.1]

/-- Settles O39: each scalar instruction is what its meaning gives, through `State.station_goes`. -/
theorem scalarInstructions : Obligations.ScalarInstructions := by
  rintro s0 _ who i _ rfl rfl
  refine ⟨fun h => ?_, fun h => ?_, fun h => ?_, fun h => ⟨fun hno => ?_, fun hyes => ?_⟩, fun h hok => ?_, fun j h hok hj => ⟨fun hclear => ?_, fun hheld => ?_⟩,
    fun h => ?_, fun h => ?_, fun h => ⟨fun hdue => ?_, fun hlater => ?_⟩, fun t hget hwait hdue hruns => ?_,
    fun h => ⟨fun hsub => ?_, fun hsub huse => ?_, fun hsub hok => ?_, fun hsub => ?_, fun hsub => ?_⟩, fun hget hturn hfull => ?_⟩
  · exact congrArg Host.Outcome.next (State.station_goes h rfl rfl rfl)
  · exact congrArg Host.Outcome.next (State.station_goes h rfl rfl (by simp))
  · exact congrArg Host.Outcome.next (State.station_goes h rfl rfl (by simp))
  · exact congrArg Host.Outcome.next (State.station_goes h rfl (if_neg (by simp [hno])) rfl)
  · refine congrArg Host.Outcome.next ?_
    rw [State.station_of_canRun h, if_pos hyes]
    rfl
  · exact congrArg Host.Outcome.next (State.station_goes h rfl (if_pos hok) (by simp))
  · refine congrArg Host.Outcome.next ?_
    subst hj
    rw [State.station_of_canRun h, if_pos hok]
    exact State.endStn_go hclear
  · refine congrArg Host.Outcome.next ?_
    subst hj
    rw [State.station_of_canRun h, if_pos hok]
    exact State.endStn_held hheld
  · exact congrArg Host.Outcome.next (State.station_goes h rfl rfl (by simp))
  · exact congrArg Host.Outcome.next (State.station_goes h rfl rfl (by simp))
  · exact congrArg Host.Outcome.next (State.station_goes h rfl (if_pos hdue) rfl)
  · exact congrArg Host.Outcome.next (State.station_stays h (if_neg (by omega)))
  · change execWaittExpiry who s0 = _
    simp [execWaittExpiry, hget, hwait, hdue, hruns]
  · exact congrArg Host.Outcome.next (State.station_goes h rfl (by simp only [hsub]) (by simp))
  · exact congrArg Host.Outcome.next (State.station_goes h rfl (by simp only [hsub, huse]; rfl) (by simp))
  · exact congrArg Host.Outcome.next (State.station_goes h rfl (by simp only [hsub, hok, if_true]) (by simp))
  · exact congrArg Host.Outcome.next (State.station_goes h rfl (by simp only [hsub]) (by simp))
  · exact congrArg Host.Outcome.next (State.station_goes h rfl (by simp only [hsub]) (by simp))
  · refine congrArg Host.Outcome.next ?_
    simp [State.station, hget, hturn, hfull]

/-! ### What the counters leave -/

/-- An entry outside of the counter banks reads the same after a count (R365). -/
theorem State.rd_countOne {bank n k : Nat} (hn : n < 8) (hk : k / 4096 ≠ 0x600 + bank) (ev pid amount : Nat) :
    (s.countOne bank n ev pid amount).rd k = s.rd k := by
  have hctr : k ≠ K.ctr bank n := by
    rintro rfl
    simp only [K.ctr] at hk
    omega
  have hovf : k ≠ K.ovf bank := by
    rintro rfl
    simp only [K.ovf] at hk
    omega
  unfold State.countOne
  dsimp only
  split
  · split
    · exact State.rd_wr_ne _ _ _ hctr
    · rw [State.rd_mapMgt, State.rd_wr_ne _ _ _ hovf, State.rd_wr_ne _ _ _ hctr]
  · rfl

theorem State.rd_countEv {bank k : Nat} (hk : k / 4096 ≠ 0x600 + bank) (ev pid amount : Nat) :
    (s.countEv bank ev pid amount).rd k = s.rd k := by
  unfold State.countEv
  split
  · rfl
  · have hslots : ∀ n ∈ List.range 8, n < 8 := fun n => List.mem_range.mp
    revert hslots
    generalize List.range 8 = l
    intro hslots
    induction l generalizing s with
    | nil => rfl
    | cons n r ih =>
      exact (ih fun m hm => hslots m (List.mem_cons_of_mem _ hm)).trans (State.rd_countOne (hslots n List.mem_cons_self) hk _ _ _)

theorem State.rd_clusterEv {k : Nat} (hk : k < 0x600000 ∨ 0x618000 ≤ k) (sd cl ev pid amount : Nat) :
    (s.clusterEv sd cl ev pid amount).rd k = s.rd k := by
  unfold State.clusterEv
  dsimp only
  split
  · rename_i hb
    simp only [Bool.and_eq_true, decide_eq_true_eq] at hb
    exact State.rd_countEv (by omega) _ _ _
  · rfl

theorem State.rd_slots {k cls : Nat} (hk : k < 0x600000 ∨ 0x618000 ≤ k) (hcls : k ≠ K.partSlots i.who.pid cls) (ev n : Nat) :
    (s.slots i cls ev n).rd k = s.rd k := by
  unfold State.slots
  split
  · rfl
  · dsimp only
    rw [State.bump64, State.rd_wr_ne _ _ _ hcls]
    split <;> simp only [State.rd_clusterEv hk]

/-- The comparison of a shadow reads the same after an instruction is counted. -/
theorem State.rd_countRun_shadowResult : (s.countRun i j).rd K.shadowResult = s.rd K.shadowResult := by
  have hk : K.shadowResult < 0x600000 ∨ 0x618000 ≤ K.shadowResult := .inr (by decide)
  have hslots : ∀ cls, cls < 2 → K.shadowResult ≠ K.partSlots i.who.pid cls := fun cls hcls => by
    simp only [K.shadowResult, K.partSlots, K.pb]
    omega
  unfold State.countRun
  dsimp only
  split
  · simp only [State.rd_clusterEv hk, State.rd_slots hk (hslots _ (by decide : 0 < 2)), State.rd_slots hk (hslots _ (by decide : 1 < 2))]
  · split
    · simp only [State.rd_clusterEv hk, State.rd_slots hk (hslots _ (by decide : 0 < 2)), State.rd_slots hk (hslots _ (by decide : 1 < 2))]
    · split <;>
      simp only [State.rd_clusterEv hk, State.rd_slots hk (hslots _ (by decide : 0 < 2)), State.rd_slots hk (hslots _ (by decide : 1 < 2))]

theorem State.countRun_frame : State.Only [.od, .mgt] s (s.countRun i j) :=
  State.countRun_only (List.Subset.refl _) (.refl _ s) i j

theorem State.settled_congr {t : State} (hflows : t.stn.flows = s.stn.flows) (hep : t.ep = s.ep) (hlife : t.life = s.life)
    (hres : t.rd K.shadowResult = s.rd K.shadowResult) : t.settled = s.settled := by
  simp only [State.settled, hflows, hep, hlife, hres]

/-! ### Updates of one element of a list -/

theorem List.find?_mapIf_of_imp {α : Type} {p : α → Bool} {f : α → α} {l : List α} {a : α} (hf : ∀ a, p a = true → p (f a) = true)
    (h : l.find? p = some a) : (mapIf p f l).find? p = some (f a) := by
  have hcomp : (p ∘ fun a => if p a then f a else a) = p := by
    funext a
    simp only [Function.comp]
    split
    · rename_i hp
      rw [hp, hf a hp]
    · rfl
  rw [mapIf, List.find?_map, hcomp, h, Option.map_some, if_pos (List.find?_some h)]

theorem List.find?_mapIf_ne {α : Type} {p q : α → Bool} {f : α → α} {l : List α}
    (hq : ∀ a, p a = true → q (f a) = q a ∧ q a = false) : (mapIf p f l).find? q = l.find? q := by
  induction l with
  | nil => rfl
  | cons a r ih =>
    rw [mapIf] at ih
    rw [mapIf, List.map_cons]
    by_cases hp : p a = true
    · obtain ⟨hfa, ha⟩ := hq a hp
      rw [if_pos hp, List.find?_cons_of_neg (by rw [hfa, ha]; decide), List.find?_cons_of_neg (by rw [ha]; decide), ih]
    · rw [if_neg hp, List.find?_cons, List.find?_cons, ih]

theorem State.instGet_setInst_self {g : Inst → Inst} (hget : s.instGet who = some i)
    (hkeep : ∀ i : Inst, i.who = who → (g i).who = who) : (s.setInst who g).instGet who = some (g i) :=
  List.find?_mapIf_of_imp (fun i hi => by simpa using hkeep i (by simpa using hi)) hget

theorem State.instGet_setInst_ne {w : InstRef} {g : Inst → Inst} (hne : w ≠ who) (hkeep : ∀ i : Inst, i.who = who → (g i).who = who) :
    (s.setInst who g).instGet w = s.instGet w :=
  List.find?_mapIf_ne fun i hi => by
    have hwho : i.who = who := by simpa using hi
    simp [hkeep i hwho, hwho, Ne.symm hne]

/-- Settles O40: in a settled state nothing follows, and what is counted lies outside of the stations. -/
theorem instructionFrame : Obligations.InstructionFrame := by
  intro s i j pc hget hwho hpc hsettled
  have hcount := State.countRun_frame (s := s) (i := i) (j := j)
  have hstn : (s.countRun i j).stn = s.stn := hcount.agrees .stn rfl
  have hcommit : (s.countRun i j).commitInst j pc = (s.countRun i j).setInst i.who fun _ => { j with pc := pc % 1024, mism := 0, starved := none } := by
    rw [State.commitInst, if_neg hpc, hwho]
  have hsettled' : ((s.countRun i j).commitInst j pc).settled = true := by
    rw [hcommit, ← hsettled]
    exact State.settled_congr (show (s.countRun i j).stn.flows = _ by rw [hstn]) (hcount.agrees .ep rfl) (hcount.agrees .life rfl) State.rd_countRun_shadowResult
  rw [State.ran, State.settleAll_of_settled hsettled', hcommit]
  have hget' : ∀ who, (s.countRun i j).instGet who = s.instGet who := fun who => by simp only [State.instGet, hstn]
  refine ⟨?_, fun x hx => ?_, fun who hne => ?_, show (s.countRun i j).stn.flows = _ by rw [hstn],
    show (s.countRun i j).stn.strms = _ by rw [hstn]⟩
  · exact State.instGet_setInst_self ((hget' _).trans hget) fun _ _ => hwho
  · exact (State.setInst_only (sl := [.od, .stn, .mgt]) (Sect.listed rfl) (State.countRun_only (Sect.listed rfl) (.refl _ s) i j)
      i.who (fun _ => { j with pc := pc % 1024, mism := 0, starved := none })).2 x hx
  · exact (State.instGet_setInst_ne hne fun _ _ => by exact hwho).trans (hget' who)

end Sys2Proof.Machine

/-! Proofs about streams, handles and tile arithmetic of a station (chapters 5 and 6). -/

namespace Sys2Proof.Machine

open Sys2Proof

variable {s s0 s1 : State} {who : InstRef} {i j : Inst} {op : Nat} {a b h : Handle}

/-! ### What an instruction leaves at its PC -/

@[simp] theorem Inst.hset_pc (n : Nat) (h : Handle) : (i.hset n h).pc = i.pc := rfl

theorem Inst.writeTile_pc {hd fmt rb tag : Nat} {rows : List (Option Row)} {poi : Bool}
    (h : i.writeTile hd fmt rb rows poi tag = some j) : j.pc = i.pc := by
  unfold Inst.writeTile at h
  dsimp only at h
  split at h
  · cases h
  · cases h
    rfl

/-! ### Stations of a collective at GET and PUT -/

/-- What GET makes of a station of a collective differs from it in the collective's state alone. -/
theorem State.colGet_frame {n : Nat} {t : Tile} (h : s.colGet i n h t = some j) : ∃ c, j = { i with col := c } := by
  have hsame : some i = some j → ∃ c, j = { i with col := c } := fun e => ⟨i.col, by cases e; rfl⟩
  unfold State.colGet at h
  dsimp only at h
  split at h
  · exact hsame h
  · split at h
    · unfold Inst.getRouting at h
      split at h
      · exact ⟨_, (Option.some.inj h).symm⟩
      · cases h
    · split at h
      · unfold Inst.getRouting at h
        split at h
        · exact ⟨_, (Option.some.inj h).symm⟩
        · cases h
      · split at h
        · unfold Inst.getReturned at h
          dsimp only at h
          split at h
          · cases h
          · exact ⟨_, (Option.some.inj h).symm⟩
        · split at h
          · unfold Inst.getPartial at h
            dsimp only at h
            split at h
            · cases h
            · exact ⟨_, (Option.some.inj h).symm⟩
          · split at h
            · unfold Inst.getCounts at h
              dsimp only at h
              split at h
              · cases h
              · exact ⟨_, (Option.some.inj h).symm⟩
            · exact hsame h

theorem Inst.putTokens_fst (t : Tile) : (i.putTokens t).1 = i.mapCol fun c => { c with puts := c.puts + t.rows } := by
  unfold Inst.putTokens
  dsimp only
  split <;> rfl

theorem Inst.colPut_frame {k : Inst} {t u : Tile} (h : i.colPut t = some (k, u)) : ∃ c, k = { i with col := c } := by
  have hsame : some (i, t) = some (k, u) → ∃ c, k = { i with col := c } := fun e => ⟨i.col, by cases e; rfl⟩
  unfold Inst.colPut at h
  split at h
  · exact hsame h
  · split at h
    · simp only [Inst.sendRows, Option.ite_none_left_eq_some, Option.some.injEq, Prod.mk.injEq] at h
      exact ⟨_, h.2.1.symm⟩
    · split at h
      · exact ⟨_, (congrArg Prod.fst (Option.some.inj h)).symm.trans (Inst.putTokens_fst t)⟩
      · split at h
        · unfold Inst.putPartial at h
          dsimp only at h
          split at h
          · cases h
            exact ⟨_, rfl⟩
          · split at h
            · cases h
              exact ⟨_, rfl⟩
            · split at h
              · cases h
              · cases h
                exact ⟨_, rfl⟩
        · exact hsame h

theorem Inst.colIs_of_no_header (h : i.col.hdr = []) (t : Nat) : i.colIs t = false := by
  simp [Inst.colIs, h]

theorem State.colGet_of_no_header (hhdr : i.col.hdr = []) (n : Nat) (t : Tile) : s.colGet i n h t = some i := by
  simp [State.colGet, Inst.receives, Inst.colIs_of_no_header hhdr]

theorem Inst.colPut_of_no_header (hhdr : i.col.hdr = []) (t : Tile) : i.colPut t = some (i, t) := by
  simp [Inst.colPut, Inst.colIs_of_no_header hhdr]

theorem Inst.spanPut_pc (now : Nat) (t : Tile) : (i.spanPut now t).pc = i.pc := by
  unfold Inst.spanPut
  split
  · split
    · split
      · split <;> rfl
      · rfl
    · rfl
  · rfl

theorem Inst.spanPut_of_fin {t : Tile} (ht : t.fin = true) (now : Nat) : i.spanPut now t = i := by
  unfold Inst.spanPut
  split
  · split
    · simp [ht]
    · rfl
  · rfl

/-! ### PUT (R119, R167) -/

section Put

variable {n : Nat} {t : Tile} {st : Strm} (hout : s.outputOf i n = some st) (hfin : st.fin = false)

include hout hfin

theorem putOn_ready {k : Inst} {u : Tile} (hready : s.putReady st t = true) (hput : j.colPut t = some (k, u)) :
    putOn s i n t j = .go (s.stnPut i.who st.sid u) (k.spanPut s.now u) := by
  simp only [putOn, hout, hfin, hready, hput, Bool.false_eq_true, if_false, if_true]

theorem putOn_refused (hready : s.putReady st t = true) (hput : j.colPut t = none) : putOn s i n t j = .bad := by
  simp only [putOn, hout, hfin, hready, hput, Bool.false_eq_true, if_false, if_true]

theorem putOn_waits (hready : s.putReady st t = false) : putOn s i n t j = .stay s i := by
  simp only [putOn, hout, hfin, hready, Bool.false_eq_true, if_false]

end Put

/-! ### Results into a tile (R157, R163) -/

theorem finishTile_of_takes {fmt rb : Nat} {rs : RowsOut} {poi : Bool} (h : s.takes i fmt rb rs poi j) :
    finishTile s1 i i.word fmt rb rs poi (i.hget (iHD i.word)).tag = .go s1 j ∧ j.pc = i.pc := by
  obtain ⟨⟨k, hwrite, rfl⟩, -⟩ := h
  refine ⟨?_, (Inst.flag_pc _).trans (Inst.writeTile_pc hwrite)⟩
  simp only [finishTile, hwrite]

/-- A command of a station that may run gives its handle HD the rows of its result. -/
theorem State.station_takes {f : State → Inst → Nat → StnEnd} {fmt rb : Nat} {rs : RowsOut} {poi : Bool} (h : s0.canRun who op i)
    (htakes : (s0.selectInst i).takes i fmt rb rs poi j)
    (hf : f (s0.selectInst i) i i.word =
      finishTile (s0.selectInst i) i i.word fmt rb rs poi (i.hget (iHD i.word)).tag) :
    s0.station who op f = (s0.selectInst i).ran i j (i.pc + 1) := by
  obtain ⟨hrows, hpc⟩ := finishTile_of_takes (s1 := s0.selectInst i) htakes
  rw [State.station_of_canRun h, hf, hrows, State.endStn_go htakes.2, hpc]

theorem Inst.rowFlags_of_plain {α : Type} (w : Nat) (g : α → Row) (l : List α) : i.rowFlags w (l.map fun x => (g x, 0)) = 0 := by
  have hfold : ∀ es : List ((Row × Nat) × Nat), (∀ e ∈ es, e.1.2 = 0) →
      es.foldl (fun f e => if i.rowOn w e.2 then f ||| e.1.2 else f) 0 = 0 := fun es hes => by
    induction es with
    | nil => rfl
    | cons e r ih =>
      rw [List.foldl_cons, hes e List.mem_cons_self, Nat.zero_or, ite_self]
      exact ih fun x hx => hes x (List.mem_cons_of_mem _ hx)
  refine hfold _ fun e he => ?_
  obtain ⟨x, -, hx⟩ := List.mem_map.mp (List.of_mem_zip (a := e.1) (b := e.2) he).1
  rw [← hx]

/-! ### Streams and handles -/

theorem Handle.reshape_cap (rows rb : Nat) : (h.reshape rows rb).cap = h.cap := by
  unfold Handle.reshape
  split <;> rfl

/-- Settles O42: what each stream and handle instruction does, for a station that may run it. -/
theorem streamsAndHandles : Obligations.StreamsAndHandles := by
  constructor
  · rintro s0 _ who i _ rfl rfl
    refine ⟨fun st c h hin => ⟨fun t r s1 hbuf hs1 => ⟨fun j hcol => ?_, fun hcol => ?_, fun hhdr => State.colGet_of_no_header hhdr _ _⟩,
      fun hbuf hseen => ?_, fun hbuf hseen hstarved => ?_⟩, fun st t h huse hout hfin ht => ⟨fun j k u hready hj => ⟨fun hput => ?_, fun hput => ?_, fun hhdr hspan => ?_⟩, fun hlife hfull => ?_⟩,
      fun st h hout hfin hready => ?_, fun st c g h hg hkind hview hin hheld => ?_, fun t h ht => ⟨_, rfl, ?_⟩⟩
    · obtain ⟨c', rfl⟩ := State.colGet_frame hcol
      refine congrArg Host.Outcome.next (State.station_goes h rfl ?_ (by simp))
      subst hs1
      simp only [hin, hbuf, hcol]
    · refine congrArg Host.Outcome.next (State.station_fails h ?_)
      subst hs1
      simp only [hin, hbuf, hcol]
    · refine congrArg Host.Outcome.next (State.station_goes h rfl ?_ (by simp))
      simp only [hin, hbuf, hseen, if_true]
    · refine congrArg Host.Outcome.next (State.station_stays h ?_)
      simp only [hin, hbuf, hseen, hstarved, Bool.false_eq_true, if_false]
      rfl
    · have hput' : (s0.selectInst i).putReady st t = true := by simpa [State.putReady] using hready
      obtain ⟨c', rfl⟩ := Inst.colPut_frame hput
      subst hj ht
      refine congrArg Host.Outcome.next (State.station_goes h rfl ?_ (Inst.spanPut_pc _ _))
      simp only [huse, Bool.not_true, Bool.false_eq_true, if_false]
      exact putOn_ready hout hfin hput' hput
    · have hput' : (s0.selectInst i).putReady st t = true := by simpa [State.putReady] using hready
      subst hj ht
      refine congrArg Host.Outcome.next (State.station_fails h ?_)
      simp only [huse, Bool.not_true, Bool.false_eq_true, if_false]
      exact putOn_refused hout hfin hput' hput
    · subst hj
      refine ⟨Inst.colPut_of_no_header (by exact hhdr) t, ?_⟩
      simp only [Inst.spanPut, Inst.flag, hspan]
    · have hput' : (s0.selectInst i).putReady st t = false := by
        simp only [State.putReady, hlife, decide_false, Bool.false_or, Bool.and_eq_false_iff]
        exact hfull
      subst ht
      refine congrArg Host.Outcome.next (State.station_stays h ?_)
      simp only [huse, Bool.not_true, Bool.false_eq_true, if_false]
      exact putOn_waits hout hfin hput'
    · refine congrArg Host.Outcome.next (State.station_goes h rfl ?_ rfl)
      exact (putOn_ready hout hfin hready rfl).trans (by rw [Inst.spanPut_of_fin rfl])
    · subst hg
      refine congrArg Host.Outcome.next (State.station_goes h rfl ?_ rfl)
      simp only [hkind, hview, hin, hheld, ne_eq, not_true_eq_false, decide_false, Bool.or_false, Bool.false_eq_true, if_false, if_true]
    · subst ht
      exact congrArg Host.Outcome.next (State.station_stays h rfl)
  · rintro s0 _ who i _ g rfl rfl
    refine ⟨fun fmt rows rb cap h hfmt hrows hrb hcap hok hmod hmax hsix hfit => ?_, fun r0 n c0 rb h hg huse hr0 hn hc0 hrb hrow hcol => ?_,
      fun h hg hkind => ⟨fun hsub => ?_, fun hsub => ?_, fun g' hsub hg' hfit => ?_, fun g' hsub hg' hfit => ?_⟩,
      fun h hg huse p hp hsub => ?_, fun j v h hg hkind hv htakes => ?_, fun k h hg huse hwrite hclear => ?_⟩
    · subst hfmt hrows hrb hcap
      refine congrArg Host.Outcome.next (State.station_goes h rfl ?_ rfl)
      simp only [hok, hmod, not_lt.mpr hmax, not_lt.mpr hsix, not_lt.mpr hfit, Bool.not_true, ne_eq, not_true_eq_false, decide_false,
        Bool.or_false, Bool.false_eq_true, if_false]
    · subst hg hr0 hn hc0 hrb
      refine congrArg Host.Outcome.next (State.station_goes h rfl ?_ rfl)
      simp only [huse, not_lt.mpr hrow, not_lt.mpr hcol, Bool.not_true, decide_false, Bool.or_false, Bool.false_eq_true, if_false]
    · subst hg
      refine congrArg Host.Outcome.next (State.station_goes h rfl ?_ rfl)
      simp only [hkind, hsub, ne_eq, not_true_eq_false, if_false]
    · subst hg
      refine congrArg Host.Outcome.next (State.station_goes h rfl ?_ rfl)
      simp only [hkind, hsub, ne_eq, not_true_eq_false, if_false]
    · subst hg hg'
      refine congrArg Host.Outcome.next (State.station_goes h rfl ?_ rfl)
      rw [Handle.reshape_cap] at hfit
      simp only [hkind, hsub, not_lt.mpr hfit, ne_eq, not_true_eq_false, if_false]
    · subst hg hg'
      refine congrArg Host.Outcome.next (State.station_goes h rfl ?_ rfl)
      rw [Handle.reshape_cap] at hfit
      simp only [hkind, hsub, not_lt.mpr hfit, ne_eq, not_true_eq_false, if_false]
    · subst hg
      have hopen : ((i.hget (iHA i.word)).kind = 0 || ((i.hget (iHA i.word)).fin && iSUB i.word ≠ 5)) = false := by
        simp only [Handle.usable, Bool.and_eq_true, Bool.not_eq_true', decide_eq_true_eq] at huse
        simp [huse.1, huse.2]
      refine congrArg Host.Outcome.next (State.station_goes h rfl ?_ (Inst.xw_pc _ p.2))
      simp only [hopen, Bool.false_eq_true, if_false]
      simp only [List.mem_cons, List.not_mem_nil, or_false] at hp
      rcases hp with rfl | rfl | rfl | rfl | rfl | rfl | rfl | rfl <;> simp only [hsub]
    · subst hg hv
      refine congrArg Host.Outcome.next (State.station_takes h htakes ?_)
      simp only [hkind, ne_eq, not_true_eq_false, if_false]
    · subst hg
      refine congrArg Host.Outcome.next ?_
      rw [State.station_of_canRun h]
      have hflags := Inst.rowFlags_of_plain (i := i) i.word id ((s0.selectInst i).rowsOf i (i.hget (iHA i.word)))
      simp only [huse, Bool.not_true, Bool.false_eq_true, if_false]
      have hrows : (((s0.selectInst i).rowsOf i (i.hget (iHA i.word))).map fun r => (r, 0)).map Prod.fst =
          (s0.selectInst i).rowsOf i (i.hget (iHA i.word)) := by simp [Function.comp_def]
      simp only [id] at hflags
      simp only [finishTile, hrows, hwrite, hflags, Nat.zero_or]
      rw [State.endStn_go hclear, Inst.flag_pc, Inst.writeTile_pc hwrite]

/-! ### Tile arithmetic (R170 to R174) -/

/-- A binary tile instruction over two tiles of one shape gives HD its rows. -/
theorem binTile_of_pair (hp : i.pair a b) (row : Nat → Nat → Nat → Row → Row → Row × Nat) :
    binTile row s i i.word = finishTile s i i.word (iFD i.word) (bytesFor (iFD i.word) a.elems)
      (((s.rowsOf i a).zip (s.rowsOf i b)).map fun p => row i.word (iFA i.word) (iFD i.word) p.1 p.2) (a.poison || b.poison)
      (i.hget (iHD i.word)).tag := by
  obtain ⟨rfl, rfl, ha, hb, hrows, hbytes⟩ := hp
  simp only [binTile, ha, hb, hrows, hbytes, Bool.not_true, ne_eq, not_true_eq_false, decide_false, Bool.or_false, Bool.false_eq_true,
    if_false]

/-- A unary tile instruction over a tile gives HD its rows, where the row's number does not matter. -/
theorem unTile_of_one (ho : i.one a) (row : Nat → Nat → Row → Row × Nat) :
    unTile (fun fa fd _ x => row fa fd x) s i i.word = finishTile s i i.word (iFD i.word) (bytesFor (iFD i.word) a.elems)
      ((s.rowsOf i a).map (row (iFA i.word) (iFD i.word))) a.poison (i.hget (iHD i.word)).tag := by
  obtain ⟨rfl, ha⟩ := ho
  have hmap : ∀ l : List Row, ((l.zip (List.range l.length)).map fun e => row (iFA i.word) (iFD i.word) e.1) =
      l.map (row (iFA i.word) (iFD i.word)) := fun l => by
    rw [show (fun e : Row × Nat => row (iFA i.word) (iFD i.word) e.1) = row (iFA i.word) (iFD i.word) ∘ Prod.fst from rfl,
      ← List.map_map, List.map_fst_zip (by simp)]
  simp only [unTile, ha, hmap, Bool.not_true, Bool.false_eq_true, if_false]

/-- Settles O43: each element-wise instruction is a row function that HD takes. -/
theorem tileArithmetic : Obligations.TileArithmetic := by
  constructor
  · rintro s0 _ who i j _ a b rfl rfl hp
    have hbin : ∀ {op : Nat} (row : Nat → Nat → Nat → Row → Row → Row × Nat), s0.canRun who op i →
        (s0.selectInst i).takesPair i a b (row i.word (iFA i.word) (iFD i.word)) j →
        Host.Outcome.next (ρ := Refusal) (φ := Fault) (s0.station who op fun s i w => binTile row s i w) =
          .next ((s0.selectInst i).ran i j (i.pc + 1)) := fun row h ht =>
      congrArg Host.Outcome.next (State.station_takes h ht (binTile_of_pair hp row))
    refine ⟨hbin fun w fa fd => binRow fa fd (iSAT w) (exactI (· + ·)) (· + ·), hbin fun w fa fd => binRow fa fd (iSAT w) (exactI (· - ·)) (· - ·),
      hbin mulRow, hbin fun w fa fd => binRow fa fd (iSAT w) (exactI min) min, hbin fun w fa fd => binRow fa fd (iSAT w) (exactI max) max,
      fun h hwidth ht => ?_, fun d h hd hdof hrows helems ht => ?_⟩
    · refine congrArg Host.Outcome.next (State.station_takes h ht ?_)
      rw [if_neg (not_not_intro hwidth), binTile_of_pair hp]
    · obtain ⟨rfl, rfl, ha, hb, hab, hbytes⟩ := hp
      subst hd
      refine congrArg Host.Outcome.next (State.station_takes h ht ?_)
      simp only [ha, hb, hdof, hrows, helems, hab, hbytes, Bool.not_true, ne_eq, not_true_eq_false, decide_false, Bool.or_false,
        Bool.false_eq_true, if_false]
  · rintro s0 _ who i j _ a rfl rfl ho
    refine ⟨fun h hclamp ht => ?_, fun h ht => ?_, fun h ht => ?_, fun h ht => ?_, fun h ht => ?_, fun h ht => ?_, fun h hsub ht => ?_,
      fun b h hsub hb huse hint hlen ht => ?_, fun b h hfmt hb hone hlen ht => ?_⟩
    · refine congrArg Host.Outcome.next (State.station_takes h ht ((if_neg (by simpa using hclamp)).trans ?_))
      exact unTile_of_one ho (unaryRow (iSUB i.word) (iSAT i.word) (i.xs (iXA i.word)) (i.xs (iXB i.word)))
    · have hrows := unTile_of_one (s := s0.selectInst i) ho (fun fa fd x => iRow fd ((rowInts fa x.1).map fun v =>
        fitShift v (if iSUB i.word = 0 then immShift i.word else -(immShift i.word)) (fmtBits fd) (iSAT i.word)))
      exact congrArg Host.Outcome.next (State.station_takes h ht hrows)
    · have hrows := unTile_of_one (s := s0.selectInst i) ho (fun fa fd x => iRow fd ((rowInts fa x.1).map fun v => fitShift v (immShift i.word) (fmtBits fd) (iSAT i.word)))
      exact congrArg Host.Outcome.next (State.station_takes h ht hrows)
    · have hrows := unTile_of_one (s := s0.selectInst i) ho (fun fa fd x => qRow fd ((blocks (rowInts fa x.1)).map fun p => narrowBlock p (i.xb8 i.word) (fmtBits fd)))
      exact congrArg Host.Outcome.next (State.station_takes h ht hrows)
    · have hrows := unTile_of_one (s := s0.selectInst i) ho (fun fa fd x => iRow fd ((rowVals fa x).map fun v => fitShift v.1 (i.xb8 i.word - v.2) (fmtBits fd) (iSAT i.word)))
      exact congrArg Host.Outcome.next (State.station_takes h ht hrows)
    · have hrows := unTile_of_one (s := s0.selectInst i) ho (alignRow (iSUB i.word) (i.xb8 i.word))
      exact congrArg Host.Outcome.next (State.station_takes h ht hrows)
    · obtain ⟨rfl, ha⟩ := ho
      refine congrArg Host.Outcome.next (State.station_takes h ht ?_)
      simp only [hsub, ha, ne_eq, not_true_eq_false, decide_false, Bool.false_and, Bool.or_false, Bool.not_true, Bool.false_eq_true,
        if_false, if_true]
    · obtain ⟨rfl, ha⟩ := ho
      subst hb
      refine congrArg Host.Outcome.next (State.station_takes h ht ?_)
      simp only [hsub, ha, huse, hint, not_lt.mpr hlen, ne_eq, not_false_eq_true, decide_true, decide_false, Bool.true_and, Bool.or_false,
        Bool.not_true, Bool.false_eq_true, if_false]
    · obtain ⟨rfl, ha⟩ := ho
      subst hb
      refine congrArg Host.Outcome.next (State.station_takes h ht ?_)
      simp only [hfmt ▸ ha, hfmt, hone, not_lt.mpr hlen, ne_eq, not_true_eq_false, decide_false, Bool.or_false, Bool.not_true,
        Bool.false_eq_true, if_false]

end Sys2Proof.Machine

/-! Proofs about reductions, selection, digests and memory instructions of a station (chapters 5 to 7). -/

namespace Sys2Proof.Machine

open Sys2Proof

variable {s s0 s1 : State} {who : InstRef} {i j : Inst} {op w : Nat} {a b : Handle}

/-! ### Instructions that write SRAM by a rule of their own -/

/-- A command of a station that may run goes on, where its meaning is `go` and the hash unit absorbs nothing of what it writes. -/
theorem State.station_goes_clear {f : State → Inst → Nat → StnEnd} (h : s0.canRun who op i) (hclear : (s0.selectInst i).clear i j)
    (hf : f (s0.selectInst i) i i.word = .go s1 j) (hpc : j.pc = i.pc) : s0.station who op f = s1.ran i j (i.pc + 1) := by
  rw [State.station_of_canRun h, hf, State.endStn_go hclear, hpc]

/-- SHA writes SRAM for the digest alone. -/
theorem State.clear_of_sha (hop : iOP i.word = 0x60) (hsub : iSUB i.word ≠ 2) : s.clear i j := by
  have hnone : i.wrote j i.word = [] := by
    have htile : tileOp 0x60 = false := rfl
    simp [Inst.wrote, hop, hsub, htile]
  rw [State.clear, hnone, State.absorbing]
  cases s.coreOf i <;> simp

/-! ### Memory accesses (R168, R169) -/

/-- An access to an aligned address of the FVA space opens. -/
theorem memAddr_of_aligned {a n : Nat} {f : StnEnd} (hlow : a < 2 ^ 57) (halign : a % n = 0) : memAddr s i w a n f = f := by
  rw [memAddr, if_neg (by omega), if_neg (not_not_intro halign)]

/-- A misaligned access to the FVA space stops with FAULT_PERM. -/
theorem memAddr_of_misaligned {a n : Nat} {f : StnEnd} (hlow : a < 2 ^ 57) (halign : a % n ≠ 0) :
    memAddr s i w a n f = memStop s i w Status.perm Status.perm := by
  rw [memAddr, if_neg (by omega), if_pos halign]

/-- A command of a station that may run opens the transaction `t` and waits for it. -/
theorem State.station_opens {f : State → Inst → Nat → StnEnd} {t : Tx} (h : s0.canRun who op i)
    (hf : f (s0.selectInst i) i i.word = memOpen (s0.selectInst i) j t) :
    s0.station who op f = ((((s0.selectInst i).openTx t).1.translate ((s0.selectInst i).openTx t).2 none).stayed
      { j with wait := .mem ((s0.selectInst i).openTx t).2 }) :=
  State.station_stays h hf

theorem indexList_ne_nil {v : List Int} {n : Nat} {ix : List Nat} (h : indexList v n = some ix) : ix.isEmpty = false := by
  unfold indexList at h
  split at h
  · cases h
  · rename_i hn
    simp only [Bool.or_eq_true, decide_eq_true_eq, not_or] at hn
    obtain ⟨⟨⟨hpos, -⟩, hlen⟩, -⟩ := hn
    cases h
    rw [List.isEmpty_eq_false_iff, ← List.length_pos_iff, List.length_map, List.length_take]
    omega

/-- A station's ATOM runs as the operation of its SUB (R75, R83). -/
theorem State.atomic_stn {sub : Nat} {own : Bool} (hget : s.instGet who = some i) (hsub : iSUB i.word = sub)
    (hown : (iOWN i.word && iSUB i.word = 7) = own) : s.atomic (.stn who) sub own = s.station who 0x25 stnAtom := by
  subst hsub hown
  simp only [State.atomic, hget, decide_true, Bool.and_self, if_true]

theorem State.fence_stn {ord : Nat} (hget : s.instGet who = some i) (hord : iORD i.word = ord) :
    s.fence (.stn who) ord = s.station who 0x26 stnFence := by
  simp only [State.fence, hget, hord, if_true]

/-- A station's atomic opens its transaction. -/
theorem State.atomic_of_stnAtomic {sub : Nat} (h : s.stnAtomic who i sub) :
    s.atomic (.stn who) sub false = (s.selectInst i).stnAtomicOpened i sub := by
  obtain ⟨hrun, hsub, hown, hlow, halign⟩ := h
  rw [State.atomic_stn hrun.1 hsub (by simp [hown]),
    State.station_opens hrun (by rw [stnAtom]; exact memAddr_of_aligned hlow halign), State.stnAtomicOpened, hsub]
  simp only [hown, Bool.false_and]

@[simp] theorem Inst.xw_flags (n v : Nat) : (i.xw n v).flags = i.flags := by
  unfold Inst.xw
  split <;> rfl

/-- The end of a load that has ended well (R169). -/
theorem memEnd_of_load {t : Tx} (hop : iOP w = 0x23) (hload : t.acc = .load) (hparked : ∀ r, t.xst ≠ .parked r) :
    memEnd s i w t Status.ok =
      .go s { i.xw (iXD w) (loadValue w t.readData) with flags := withLast i.flags Status.ok } := by
  unfold memEnd
  rw [hload, hop]
  have hflags := (Nat.or_zero (withLast (i.xw (iXD w) (loadValue w t.readData)).flags Status.ok)).trans (by rw [Inst.xw_flags])
  cases hx : t.xst with
  | parked r => exact absurd hx (hparked r)
  | missWait _ => exact congrArg (fun f => StnEnd.go s { i.xw (iXD w) (loadValue w t.readData) with flags := f }) hflags
  | walking _ => exact congrArg (fun f => StnEnd.go s { i.xw (iXD w) (loadValue w t.readData) with flags := f }) hflags
  | ready => exact congrArg (fun f => StnEnd.go s { i.xw (iXD w) (loadValue w t.readData) with flags := f }) hflags

/-- Settles O44: each instruction's meaning, for a station that may run it. -/
theorem reducingAndMemory : Obligations.ReducingAndMemory := by
  refine ⟨?_, ?_, ?_⟩
  · rintro s0 _ who i j _ _ _ _ rfl rfl rfl rfl rfl
    refine ⟨fun ls xb sat h ha hb hint hxb hsat hix hlen hfits ht => ?_, fun h ha hb hbytes hd hrows helems ht => ?_,
      fun kept k k1 h ha hkept hwrite hk1 => ⟨fun hnone hclear => ?_, fun m hsome hm hclear => ?_⟩,
      fun c m mask fmt rows rb h hc hcuse hcfmt hm hmask hfmt hsix hrows hrb hlt hread ht => ?_,
      fun ix ha hb hint => ⟨fun h hix hin ht => ?_, fun k h hix hin hwrite hclear => ?_⟩,
      fun h => ⟨fun hbusy => ?_, fun hfree hsub => ?_, fun hfree hsub ha => ?_, fun hfree hsub ht => ?_⟩,
      fun same h hfree ha hb hsame => ⟨fun hsub => ?_, fun hsub hyes => ?_, fun hsub hno => ?_⟩, fun s1 k habs => ?_, fun sd cl co => rfl⟩
    · subst hxb hsat
      have hbad : (i.colIs 9 && iFD i.word = 6 && (s0.selectInst i).handsOn i &&
          !(cutBags ls (((s0.selectInst i).rowsOf i (i.hget (iHA i.word))).map (rowVals (iFA i.word)))).all
            (bagFits (if i.colIs 9 = true then i.colOutExp else i.xs (iXB i.word)) (i.hget (iHA i.word)).elems)) = false := by
        by_contra hbad
        simp only [Bool.not_eq_false, Bool.and_eq_true, decide_eq_true_eq, Bool.not_eq_true', List.all_eq_false] at hbad
        obtain ⟨⟨⟨hcol, hfd⟩, hon⟩, g, hg, hno⟩ := hbad
        exact hno (hfits hcol hfd hon g hg)
      refine congrArg Host.Outcome.next (State.station_takes h ht ?_)
      simp only [ha, hb, hint, hix, not_lt.mpr hlen, hbad, Bool.not_true, Bool.or_false, Bool.false_eq_true, if_false]
    · refine congrArg Host.Outcome.next (State.station_takes h ht ?_)
      simp only [ha, hb, hbytes, hd, hrows, helems, Bool.not_true, ne_eq, not_true_eq_false, decide_false, Bool.or_false, Bool.false_eq_true,
        if_false]
    · subst hk1
      refine congrArg Host.Outcome.next (State.station_goes_clear h hclear ?_
        ((Inst.flag_pc _).trans ((Inst.xw_pc _ _).trans (Inst.writeTile_pc hwrite))))
      have hempty : kept.isEmpty = true := List.isEmpty_iff.mpr hnone
      simp only [ha, ← hkept, hwrite, hempty, Bool.not_true, Bool.false_eq_true, if_false, if_true]
    · subst hk1
      have hplain := Inst.rowFlags_of_plain (i := (k.xw (iXD i.word) kept.length).flag (if (i.hget (iHA i.word)).poison then fPOI else 0))
        i.word Prod.fst kept
      have hkeptne : kept.isEmpty = false := List.isEmpty_eq_false_iff.mpr hsome
      have hfst : (kept.map fun e => (e.1, 0)).map Prod.fst = kept.map Prod.fst := by rw [List.map_map]; rfl
      refine congrArg Host.Outcome.next (State.station_goes_clear h hclear ?_ ((Inst.flag_pc _).trans ((Inst.writeTile_pc hm).trans
        ((Inst.flag_pc _).trans ((Inst.xw_pc _ _).trans (Inst.writeTile_pc hwrite))))))
      simp only [ha, ← hkept, hwrite, hkeptne, finishTile, hfst, hm, hplain, Nat.zero_or, Bool.not_true, Bool.false_eq_true, if_false]
    · subst hc
      have hshape : (!(i.hget (iHC i.word)).usable || decide ((i.hget (iHC i.word)).fmt ≠ 0) || decide (6 < fmt) || decide (2 ^ rows ≤ mask)) = false := by
        simp [hcuse, hcfmt, hsix, hlt]
      have htile : (decide (mask ≠ 0) && (!(i.hget (iHA i.word)).usable || decide ((i.hget (iHA i.word)).fmt ≠ fmt) ||
          decide ((i.hget (iHA i.word)).rbytes ≠ rb) || decide ((i.hget (iHA i.word)).rows < (bitsSet mask 256).length))) = false := by
        by_cases hzero : mask = 0
        · simp [hzero]
        · obtain ⟨huse, hf, hb, hn⟩ := hread hzero
          simp [huse, hf, hb, hn]
      refine congrArg Host.Outcome.next (State.station_takes h ht ?_)
      simp only [← hm, ← hmask, ← hfmt, ← hrows, ← hrb, hshape, htile, Bool.false_eq_true, if_false]
    · refine congrArg Host.Outcome.next (State.station_takes h ht ?_)
      have hany : (ix.any fun k => decide ((i.hget (iHA i.word)).rows ≤ k)) = false := by
        simpa [List.any_eq_false] using hin
      simp only [ha, hb, hint, hix, hany, Bool.not_true, Bool.or_false, Bool.false_eq_true, if_false]
    · have hany : (ix.any fun k => decide ((i.hget (iHD i.word)).rows ≤ k)) = false := by
        simpa [List.any_eq_false] using hin
      refine congrArg Host.Outcome.next (State.station_goes_clear h hclear ?_ ((Inst.flag_pc _).trans (Inst.writeTile_pc hwrite)))
      simp only [ha, hb, hint, hix, hany, hwrite, Bool.not_true, Bool.or_false, Bool.false_eq_true, if_false]
    · refine congrArg Host.Outcome.next (State.station_stays h ?_)
      simp only [hbusy, Bool.not_false, if_true]
    · obtain ⟨-, -, -, -, -, -, hop, -, -⟩ := id h
      refine congrArg Host.Outcome.next (State.station_goes_clear h (State.clear_of_sha hop (by omega)) ?_ rfl)
      simp only [hfree, hsub, Bool.not_true, Bool.false_eq_true, if_false]
    · obtain ⟨-, -, -, -, -, -, hop, -, -⟩ := id h
      refine congrArg Host.Outcome.next (State.station_goes_clear h (State.clear_of_sha hop (by omega)) ?_ rfl)
      simp only [hfree, hsub, ha, Bool.not_true, Bool.false_eq_true, if_false]
    · refine congrArg Host.Outcome.next (State.station_takes h ht ?_)
      simp only [hfree, hsub, Bool.not_true, Bool.false_eq_true, if_false]
    · subst hsame
      refine congrArg Host.Outcome.next (State.station_goes h rfl ?_ (Inst.xw_pc _ _))
      simp only [hfree, ha, hb, hsub, Bool.not_true, Bool.or_false, Bool.false_eq_true, if_false]
    · subst hsame
      refine congrArg Host.Outcome.next (State.station_goes h rfl ?_ (Inst.flag_pc _))
      simp only [hfree, ha, hb, hsub, hyes, Bool.not_true, Bool.or_false, Bool.false_eq_true, if_false, if_true]
    · subst hsame
      refine congrArg Host.Outcome.next (State.station_fails h ?_)
      simp only [hfree, ha, hb, hsub, hno, Bool.not_true, Bool.or_false, Bool.false_eq_true, if_false, if_true]
    · exact State.endStn_held (by simp [State.clear, habs])
  · rintro s0 _ who i _ rfl rfl
    have hatomic : ∀ {sub : Nat}, s0.stnAtomic who i sub →
        Host.Outcome.next (ρ := Refusal) (φ := Fault) (s0.atomic (.stn who) sub false) = .next ((s0.selectInst i).stnAtomicOpened i sub) :=
      fun h => congrArg Host.Outcome.next (State.atomic_of_stnAtomic h)
    have hfence : ∀ {ord : Nat}, s0.canRun who 0x26 i → iORD i.word = ord →
        Host.Outcome.next (ρ := Refusal) (φ := Fault) (s0.fence (.stn who) ord) = .next ((s0.selectInst i).stnFenceOpened i) :=
      fun h hord => congrArg Host.Outcome.next ((State.fence_stn h.1 hord).trans (State.station_stays h rfl))
    refine ⟨fun n hn hlow => ⟨fun h halign => ⟨_, rfl, ?_⟩, fun h halign => ⟨_, rfl, ?_⟩, fun h halign => ⟨fun hgo => ?_, fun hstop => ?_⟩⟩,
      hatomic, hatomic, hatomic, hatomic, hatomic, hatomic, hatomic, hatomic, fun h hsub hown hlow halign => ⟨_, rfl, ?_⟩, hfence, hfence,
      hfence, fun h hlow => ⟨_, rfl, ?_⟩, fun t d r h hdesc hgood hroom hfree ht hr => ?_,
      fun t d ix r j h hdesc huse hint hj hix hgood hin hroom hfree ht hr => ?_,
      fun d g h hg hdesc huse hfmt hrows hbytes hgood hcounts hon => ?_, fun g h hg huse hrecv hcounts d hdesc hfmt hrows hbytes hgood => ?_,
      fun h hheld => ?_, fun h hheld hlow halign => ⟨_, rfl, ?_⟩⟩
    · subst hn
      exact congrArg Host.Outcome.next (State.station_opens h (memAddr_of_aligned hlow halign))
    · subst hn
      exact congrArg Host.Outcome.next (State.station_opens h (memAddr_of_aligned hlow halign))
    · subst hn
      refine congrArg Host.Outcome.next (State.station_goes h rfl ?_ rfl)
      exact (memAddr_of_misaligned hlow halign).trans (by rw [memStop, if_pos hgo])
    · subst hn
      refine congrArg Host.Outcome.next (State.station_fails h ?_)
      exact (memAddr_of_misaligned hlow halign).trans (by simp [memStop, hstop])
    · refine congrArg Host.Outcome.next ?_
      rw [State.atomic_stn h.1 hsub (own := true) (by simp [hown, hsub])]
      refine State.station_opens h ((memAddr_of_aligned hlow halign).trans ?_)
      simp only [hown, hsub, decide_true, Bool.and_self]
    · refine congrArg Host.Outcome.next (State.station_stays h ?_)
      exact if_neg (by omega)
    · subst ht hr
      refine congrArg Host.Outcome.next (State.station_opens h ?_)
      simp only [hdesc, hgood, readTile, List.isEmpty_nil, if_true, hroom, hfree, Bool.not_true, Bool.false_eq_true, if_false]
    · subst ht hr hj
      have hany : (ix.any fun k => decide (i.tableRows (i.xr (iXA i.word)) d.rows ≤ k)) = false := by
        simpa [List.any_eq_false] using hin
      refine congrArg Host.Outcome.next (State.station_opens h ?_)
      simp only [hdesc, huse, hint, hix, hgood, hany, readTile, indexList_ne_nil hix, hroom, hfree, Bool.not_true, Bool.or_false,
        Bool.false_eq_true, if_false]
    · subst hg
      have hwait : (i.receives && !i.countsIn) = false := by
        rcases hcounts with hno | hyes
        · rw [hno, Bool.false_and]
        · rw [hyes, Bool.not_true, Bool.and_false]
      refine ⟨_, _, _, _, rfl, rfl, rfl, rfl, congrArg Host.Outcome.next (State.station_opens h ?_)⟩
      simp only [hdesc, huse, hfmt, hrows, hbytes, hgood, hwait, List.isEmpty_eq_false_iff.mpr hon, Bool.not_true, ne_eq, not_true_eq_false,
        decide_false, Bool.or_false, Bool.false_eq_true, if_false]
    · subst hg
      refine congrArg Host.Outcome.next (State.station_stays h ?_)
      simp only [hdesc, huse, hfmt, hrows, hbytes, hgood, hrecv, hcounts, Bool.not_true, Bool.not_false, Bool.and_self, ne_eq,
        not_true_eq_false, decide_false, Bool.or_false, Bool.false_eq_true, if_false, if_true]
    · refine congrArg Host.Outcome.next (State.station_stays h ?_)
      simp only [hheld, if_true]
    · refine congrArg Host.Outcome.next (State.station_opens h ?_)
      simp only [hheld, Bool.false_eq_true, if_false]
      exact memAddr_of_aligned hlow halign
  · rintro s who i _ rfl
    intro id t hget hwho hwait htx hclosed hruns hcore hserves hopen hhalt hop hload htile hstop hparked
    have hended : s.ended id = some t := by simp [State.ended, htx, hclosed]
    have hid : t.id = id := by simpa using List.find?_some htx
    have hgo : ∀ u, memEnd u { i with wait := .none } i.word t (t.stop.getD Status.ok) =
        .go u { (i.xw (iXD i.word) (loadValue i.word t.readData)) with wait := .none, flags := withLast i.flags Status.ok } := fun u => by
      rw [hstop, Option.getD_none, memEnd_of_load hop hload hparked]
      simp only [Inst.xw]
      split <;> rfl
    change execMemoryInstructionComplete who s = _
    simp only [execMemoryInstructionComplete, hget, hruns, hcore, hwait, hended, hid, Bool.not_true, Bool.or_false, Bool.false_eq_true, if_false]
    rw [hgo]
    refine congrArg Host.Outcome.next (State.endStn_next (i := { i with wait := .none }) ?_ (Inst.xw_pc _ _))
    rw [show ({ i with wait := .none } : Inst).word = i.word from rfl, hop]
    rfl

end Sys2Proof.Machine

/-! Proofs about the arithmetic of rows (spec chapter 6): the exponent that a block takes, and element-wise results. -/

namespace Sys2Proof.Machine

open Sys2Proof

variable {p : List Int} {w s n : Nat} {b v : Int}

/-! ### The exponent search (R152) -/

/-- Every element fits after a shift by `s`. -/
def fitsAt (p : List Int) (w s : Nat) : Bool := p.all fun v => inRange w (rneShift v s).1

theorem narrowSearch_succ (fuel : Nat) :
    narrowSearch p w (fuel + 1) s = if fitsAt p w s then s else narrowSearch p w fuel (s + 1) := rfl

/-- The search ends at the first exponent that fits, or where its fuel ends. -/
theorem narrowSearch_spec (fuel s : Nat) :
    (∀ k, s ≤ k → k < narrowSearch p w fuel s → fitsAt p w k = false) ∧
      (fitsAt p w (narrowSearch p w fuel s) = true ∨ narrowSearch p w fuel s = s + fuel) := by
  induction fuel generalizing s with
  | zero => exact ⟨fun k hlo hhi => absurd hhi (by simp only [narrowSearch]; omega), .inr rfl⟩
  | succ fuel ih =>
    rw [narrowSearch_succ]
    by_cases hfit : fitsAt p w s = true
    · rw [if_pos hfit]
      exact ⟨fun k hlo hhi => by omega, .inl hfit⟩
    · rw [if_neg hfit]
      obtain ⟨hbefore, hend⟩ := ih (s + 1)
      refine ⟨fun k hlo hhi => ?_, hend.imp_right fun h => by omega⟩
      rcases Nat.eq_or_lt_of_le hlo with rfl | hlt
      · simpa using hfit
      · exact hbefore k hlt hhi

/-- A value that is small against the unit rounds to 0. -/
theorem rneShift_eq_zero (hlo : -(2 ^ n) < v) (hhi : v < 2 ^ n) : (rneShift v (n + 1 : Nat)).1 = 0 := by
  have hdouble : (2 : Int) ^ (n + 1) = 2 * 2 ^ n := pow_succ' 2 n
  have hdiv := Int.emod_add_ediv_mul v (2 ^ (n + 1))
  rw [hdouble] at hdiv
  obtain ⟨hcases, -⟩ := rneShift_succ_cases (v := v) (n := n)
  rw [hdouble] at hcases
  rcases Int.lt_or_le v 0 with hneg | hpos
  · have hq : v / (2 * 2 ^ n) = -1 := by
      rw [Int.ediv_eq_iff_of_pos (by omega)]
      omega
    rw [hq] at hdiv hcases
    omega
  · have hq : v / (2 * 2 ^ n) = 0 := Int.ediv_eq_zero_of_lt hpos (by omega)
    rw [hq] at hdiv hcases
    omega

theorem inRange_zero (w : Nat) : inRange w 0 = true := by
  have hpos : (0 : Int) < 2 ^ (w - 1) := by positivity
  rw [inRange_iff]
  omega

/-- The exponent that `narrow_block` finds for elements below 2^1000 is the smallest that fits. -/
theorem narrowSearch_least (hp : ∀ v ∈ p, -(2 ^ 1000) < v ∧ v < 2 ^ 1000) :
    fitsAt p w (narrowSearch p w 1024 0) = true ∧ ∀ k, k < narrowSearch p w 1024 0 → fitsAt p w k = false := by
  obtain ⟨hbefore, hend⟩ := narrowSearch_spec (p := p) (w := w) 1024 0
  refine ⟨hend.resolve_right fun hout => ?_, fun k => hbefore k (Nat.zero_le k)⟩
  have hzero : fitsAt p w (1000 + 1) = true := List.all_eq_true.mpr fun v hv => by
    rw [rneShift_eq_zero (hp v hv).1 (hp v hv).2]
    exact inRange_zero w
  exact absurd ((hbefore 1001 (by omega) (by omega)).symm.trans hzero) (by decide)

/-! ### Flags -/

/-- Rounding and range raise their own flags, not XCL. -/
theorem fitShift_no_xcl (v s : Int) (w : Nat) (sat : Bool) : (fitShift v s w sat).2 &&& fXCL = 0 := by
  have hround : (rneShift v s).2 = 0 ∨ (rneShift v s).2 = fINX := by
    unfold rneShift
    dsimp only
    split
    · exact .inl rfl
    · exact ite_eq_or_eq _ _ _
  have hfit : ∀ v, (fit v w sat).2 = 0 ∨ (fit v w sat).2 = fSAT ∨ (fit v w sat).2 = fWRP := fun v => by
    unfold fit
    split
    · exact .inl rfl
    · split <;> simp
  simp only [fitShift]
  rcases hround with hr | hr <;> rcases hfit (rneShift v s).1 with hf | hf | hf <;> rw [hr, hf] <;> decide

/-- A fold of flags that lack XCL leaves it as it began. -/
theorem foldl_or_and_fXCL {α : Type} {l : List (α × Nat)} (hl : ∀ x ∈ l, x.2 &&& fXCL = 0) (a : Nat) :
    l.foldl (fun f x => f ||| x.2) a &&& fXCL = a &&& fXCL := by
  induction l generalizing a with
  | nil => rfl
  | cons x r ih =>
    rw [List.foldl_cons, ih (fun y hy => hl y (List.mem_cons_of_mem _ hy)), Nat.and_or_distrib_right, hl x List.mem_cons_self, Nat.or_zero]

theorem fit_inRange (hw : 0 < w) (v : Int) (sat : Bool) : inRange w (fit v w sat).1 = true := by
  have hhalf : (2 : Int) * 2 ^ (w - 1) = 2 ^ w := mul_pow_sub_one hw.ne' 2
  have hpos : (0 : Int) < 2 ^ (w - 1) := by positivity
  by_cases hin : inRange w v = true
  · rwa [fit_of_inRange sat hin]
  · cases sat with
    | true =>
      rw [inRange_iff] at hin
      rcases Int.lt_or_le v (-(2 ^ (w - 1))) with hlow | hhigh
      · rw [fit_saturates_low hlow, inRange_iff]
        omega
      · rw [fit_saturates_high (by omega), inRange_iff]
        omega
    | false =>
      have hlo : 0 ≤ (v + 2 ^ (w - 1)) % 2 ^ w := Int.emod_nonneg _ (by positivity)
      have hhi : (v + 2 ^ (w - 1)) % 2 ^ w < 2 ^ w := Int.emod_lt_of_pos _ (by positivity)
      rw [fit_wraps hw hin, inRange_iff]
      omega

/-! ### Blocks and rows -/

theorem fitShift_of_inRange {s : Int} {sat : Bool} (h : inRange w (rneShift v s).1 = true) : (fitShift v s w sat).1 = (rneShift v s).1 := by
  rw [fitShift, fit_of_inRange sat h]

theorem narrowBlock_of_low (h : b + narrowSearch p w 1024 0 < -128) :
    narrowBlock p b w = ((p.map fun v => fitShift v (-128 - b) w true).map Prod.fst, -128,
      (p.map fun v => fitShift v (-128 - b) w true).foldl (fun f x => f ||| x.2) fXCL) := by
  simp only [narrowBlock, if_pos h]

theorem narrowBlock_of_high (h : 127 < b + narrowSearch p w 1024 0) :
    narrowBlock p b w = ((p.map fun v => fitShift v (127 - b) w true).map Prod.fst, 127,
      (p.map fun v => fitShift v (127 - b) w true).foldl (fun f x => f ||| x.2) fXCL) := by
  simp only [narrowBlock, if_neg (show ¬b + (narrowSearch p w 1024 0 : Nat) < -128 by omega), if_pos h]

theorem narrowBlock_of_between (hlo : -128 ≤ b + narrowSearch p w 1024 0) (hhi : b + narrowSearch p w 1024 0 ≤ 127) :
    narrowBlock p b w = ((p.map fun v => fitShift v (narrowSearch p w 1024 0 : Nat) w true).map Prod.fst, b + narrowSearch p w 1024 0,
      (p.map fun v => fitShift v (narrowSearch p w 1024 0 : Nat) w true).foldl (fun f x => f ||| x.2) 0) := by
  simp only [narrowBlock, if_neg (show ¬b + (narrowSearch p w 1024 0 : Nat) < -128 by omega),
    if_neg (show ¬127 < b + (narrowSearch p w 1024 0 : Nat) by omega)]

/-- The flags of a block show XCL exactly when it began with XCL. -/
theorem narrowFlags_fXCL (p : List Int) (s : Int) (w a : Nat) :
    (p.map fun v => fitShift v s w true).foldl (fun f x => f ||| x.2) a &&& fXCL = a &&& fXCL :=
  foldl_or_and_fXCL (fun x hx => by
    obtain ⟨v, -, rfl⟩ := List.mem_map.mp hx
    exact fitShift_no_xcl v s w true) a

/-- A row of an integer format holds the elements that `fit` has reduced. -/
theorem rowInts_iRow {f : Nat} (hf : isI f = true) {es : List (Int × Nat)} (hes : ∀ e ∈ es, inRange (fmtBits f) e.1 = true) :
    rowInts f (iRow f es).1.1 = es.map Prod.fst := by
  have hne : f ≠ 2 := by
    rintro rfl
    exact absurd hf (by decide)
  refine rowInts_intsRow (fun e he => ?_) (Nat.mod_eq_zero_of_dvd ((eight_dvd_fmtBits hne).mul_left _))
  obtain ⟨x, hx, rfl⟩ := List.mem_map.mp he
  exact hes x hx

theorem isQ_of_isI {f : Nat} (hf : isI f = true) : isQ f = false := by
  simp only [isI, isQ, Bool.or_eq_true, decide_eq_true_eq] at hf ⊢
  simp
  omega

/-- Settles O47: the search finds the least exponent that fits, and `fit` reduces each element of a row. -/
theorem blocksAndRows : Obligations.BlocksAndRows := by
  constructor
  · intro p b w _ hp
    obtain ⟨hfits, hleast⟩ := narrowSearch_least (w := w) hp
    refine ⟨narrowSearch p w 1024 0, List.all_eq_true.mp hfits, fun k hk => ?_, fun hlo hhi => ?_, fun hlow => ?_, fun hhigh => ?_, ?_⟩
    · simpa [fitsAt] using hleast k hk
    · rw [narrowBlock_of_between hlo hhi]
      refine ⟨rfl, ?_⟩
      rw [List.map_map]
      exact List.map_congr_left fun v hv => fitShift_of_inRange (List.all_eq_true.mp hfits v hv)
    · rw [narrowBlock_of_low hlow]
    · rw [narrowBlock_of_high hhigh]
    · rcases Int.lt_or_le (b + narrowSearch p w 1024 0) (-128) with hlow | hlo
      · rw [narrowBlock_of_low hlow, narrowFlags_fXCL]
        simp [hlow, fXCL]
      · rcases Int.lt_or_le 127 (b + narrowSearch p w 1024 0) with hhigh | hhi
        · rw [narrowBlock_of_high hhigh, narrowFlags_fXCL]
          simp [hhigh, fXCL]
        · rw [narrowBlock_of_between hlo hhi, narrowFlags_fXCL]
          simp
          omega
  · intro fa fd sat op opQ x y ha hd
    constructor
    · rw [binRow, if_neg (by simp [isQ_of_isI ha]), rowInts_iRow hd]
      · rw [List.map_map, List.map_zip_eq_zipWith]
        rfl
      · intro e he
        obtain ⟨v, -, rfl⟩ := List.mem_map.mp he
        exact fit_inRange (fmtBits_pos fd) _ _
    · rw [mulRow, if_neg (by simp [isQ_of_isI ha]), rowInts_iRow hd]
      · rw [List.map_map, List.map_zip_eq_zipWith]
        refine congrArg (fun f => List.zipWith f _ _) (funext₂ fun c d => ?_)
        change (fit (rneShift _ 0).1 _ false).1 = _
        rw [rneShift_of_nonpos _ le_rfl]
        simp
      · intro e he
        obtain ⟨v, -, rfl⟩ := List.mem_map.mp he
        exact fit_inRange (fmtBits_pos fd) _ _

end Sys2Proof.Machine

/-! Proofs about the tiles in a station's SRAM (chapter 6): a tile reads back as it was written, and nothing beside it changes. -/

namespace Sys2Proof.Machine

open Sys2Proof

variable {m m' : Bytes} {a rb x0 xb x k n : Nat} {rows : List (Option Row)}

/-! ### Byte strings in memory -/

theorem bytesAt_congr (h : ∀ x, a ≤ x → x < a + n → byteAt m' x = byteAt m x) : bytesAt m' a n = bytesAt m a n := by
  induction n generalizing a with
  | zero => rfl
  | succ n ih => rw [bytesAt, bytesAt, h a le_rfl (by omega), ih fun x hlo hhi => h x (by omega) (by omega)]

/-- What has been written at an address is read there. -/
theorem bytesAt_bytesSet_self (bs : List Byte) (hw : Memory.wf m = true) : bytesAt (bytesSet m a bs) a bs.length = bs := by
  induction bs generalizing m a with
  | nil => rfl
  | cons b r ih =>
    rw [bytesSet, List.length_cons, bytesAt, ih (byteSet_wf m a b hw), byteAt_bytesSet_out r _ _ _ (.inl (by omega)),
      byteAt_byteSet_self m a b hw]

/-! ### Rows in memory -/

/-- Memory after rows have been written from number `k` on, element bytes at `a` and exponent bytes at `x0`; a masked row is not
written. -/
def writeRows (a rb x0 xb : Nat) : Nat → List (Option Row) → Bytes → Bytes
  | _, [], m => m
  | k, none :: r, m => writeRows a rb x0 xb (k + 1) r m
  | k, some e :: r, m => writeRows a rb x0 xb (k + 1) r (bytesSet (bytesSet m (a + k * rb) e.1) (x0 + k * xb) e.2)

/-- The fold that writes numbered rows is `writeRows`. -/
theorem foldl_zip_range_eq_writeRows {put : Bytes → Option Row × Nat → Bytes} (hnone : ∀ m k, put m (none, k) = m)
    (hsome : ∀ m e k, put m (some e, k) = bytesSet (bytesSet m (a + k * rb) e.1) (x0 + k * xb) e.2) (k : Nat) (rows : List (Option Row))
    (m : Bytes) : (rows.zip (List.range' k rows.length)).foldl put m = writeRows a rb x0 xb k rows m := by
  induction rows generalizing k m with
  | nil => rfl
  | cons e r ih =>
    rw [List.length_cons, List.range'_succ, List.zip_cons_cons, List.foldl_cons, ih]
    cases e with
    | none => rw [hnone]; rfl
    | some e => rw [hsome]; rfl

/-- A byte that no row covers stays. -/
theorem byteAt_writeRows (h : ∀ n e, rows[n]? = some (some e) →
      (x < a + (k + n) * rb ∨ a + (k + n) * rb + e.1.length ≤ x) ∧ (x < x0 + (k + n) * xb ∨ x0 + (k + n) * xb + e.2.length ≤ x)) :
    byteAt (writeRows a rb x0 xb k rows m) x = byteAt m x := by
  induction rows generalizing k m with
  | nil => rfl
  | cons e r ih =>
    have hrest : ∀ n e, r[n]? = some (some e) → (x < a + (k + 1 + n) * rb ∨ a + (k + 1 + n) * rb + e.1.length ≤ x) ∧
        (x < x0 + (k + 1 + n) * xb ∨ x0 + (k + 1 + n) * xb + e.2.length ≤ x) := fun n e hn => by
      have := h (n + 1) e hn
      rwa [show k + (n + 1) = k + 1 + n by omega] at this
    cases e with
    | none => exact ih hrest
    | some e =>
      obtain ⟨helem, hexp⟩ := h 0 e rfl
      rw [Nat.add_zero] at helem hexp
      rw [writeRows, ih hrest, byteAt_bytesSet_out _ _ _ _ hexp, byteAt_bytesSet_out _ _ _ _ helem]

/-- Rows that are written in order, their exponents behind all elements, read back. -/
theorem bytesAt_writeRows {l : List Row} (hw : Memory.wf m = true) (hlen : ∀ e ∈ l, e.1.length = rb ∧ e.2.length = xb)
    (hx0 : xb = 0 ∨ a + (k + l.length) * rb ≤ x0) {e : Row} (hn : l[n]? = some e) :
    bytesAt (writeRows a rb x0 xb k (l.map some) m) (a + (k + n) * rb) rb = e.1 ∧
      bytesAt (writeRows a rb x0 xb k (l.map some) m) (x0 + (k + n) * xb) xb = e.2 := by
  induction l generalizing k m n with
  | nil => cases hn
  | cons d r ih =>
    obtain ⟨hd1, hd2⟩ := hlen d List.mem_cons_self
    have hw1 := bytesSet_wf d.1 m (a + k * rb) hw
    rw [List.map_cons, writeRows]
    rw [List.length_cons] at hx0
    cases n with
    | succ n =>
      have := ih (k := k + 1) (n := n) (bytesSet_wf d.2 _ (x0 + k * xb) hw1) (fun e he => hlen e (List.mem_cons_of_mem _ he))
        (hx0.imp_right fun h => by rwa [show k + 1 + r.length = k + (r.length + 1) by omega]) hn
      rwa [show k + 1 + n = k + (n + 1) by omega] at this
    | zero =>
      cases hn
      have hfar : ∀ n, k * rb + rb ≤ (k + 1 + n) * rb := fun n => by nlinarith
      have hfarx : ∀ n, k * xb + xb ≤ (k + 1 + n) * xb := fun n => by nlinarith
      have hin : ∀ n, n < r.length → (k + 1 + n) * rb + rb ≤ (k + (r.length + 1)) * rb := fun n hn => by nlinarith
      have hrow : ∀ n e, (r.map some)[n]? = some (some e) → e.1.length = rb ∧ e.2.length = xb ∧ n < r.length := fun n e hn => by
        rw [List.getElem?_map, Option.map_eq_some_iff] at hn
        obtain ⟨e', he', heq⟩ := hn
        cases heq
        obtain ⟨h1, h2⟩ := hlen e (List.mem_cons_of_mem _ (List.mem_of_getElem? he'))
        exact ⟨h1, h2, (List.getElem?_eq_some_iff.mp he').1⟩
      have hzero : (k + (r.length + 1)) * rb ≥ k * rb + rb := by nlinarith
      constructor
      · rw [bytesAt_congr (m := bytesSet (bytesSet m (a + k * rb) e.1) (x0 + k * xb) e.2),
          bytesAt_congr (m := bytesSet m (a + k * rb) e.1), ← hd1]
        · exact bytesAt_bytesSet_self e.1 hw
        · intro x hlo hhi
          exact byteAt_bytesSet_out _ _ _ _ (by rw [Nat.add_zero] at hlo hhi; rcases hx0 with h | h <;> [skip; left] <;> omega)
        · intro x hlo hhi
          refine byteAt_writeRows fun n e hn => ?_
          obtain ⟨h1, h2, hlt⟩ := hrow n e hn
          have := hfar n
          have := hin n hlt
          rw [Nat.add_zero] at hlo hhi
          rcases hx0 with h | h <;> omega
      · rw [bytesAt_congr (m := bytesSet (bytesSet m (a + k * rb) e.1) (x0 + k * xb) e.2), ← hd2]
        · exact bytesAt_bytesSet_self e.2 hw1
        · intro x hlo hhi
          refine byteAt_writeRows fun n e hn => ?_
          obtain ⟨h1, h2, hlt⟩ := hrow n e hn
          have := hfarx n
          have := hin n hlt
          rw [Nat.add_zero] at hlo hhi
          rcases hx0 with h | h <;> omega

/-! ### Tile results (R157, R163) -/

variable {i j : Inst} {hd fmt tag : Nat} {poi : Bool} {h : Handle}

theorem le_up64 (n : Nat) : n ≤ up64 n := by
  unfold up64 cdiv
  omega

theorem up64_add {a : Nat} (ha : a % 64 = 0) (n : Nat) : up64 (a + n) = a + up64 n := by
  unfold up64 cdiv
  omega

/-- Where the exponent rows of a packed tile at `a` begin. -/
def expRowsAt (fmt a n rb : Nat) : Nat := if expRow fmt rb = 0 then 0 else up64 (a + n * rb)

theorem le_expRowsAt (fmt a n rb : Nat) : expRow fmt rb = 0 ∨ a + n * rb ≤ expRowsAt fmt a n rb := by
  unfold expRowsAt
  split
  · exact .inl ‹_›
  · exact .inr (le_up64 _)

/-- The handle of a tile result: its new shape, packed at the handle's own place. -/
def Handle.result (h : Handle) (fmt n rb tag : Nat) (poi : Bool) : Handle :=
  { h with fmt := fmt, rows := n, rbytes := rb, pitch := rb, xbase := expRowsAt fmt h.base n rb, xpitch := expRow fmt rb, poison := poi, tag := tag }

/-- A tile result is a write of rows into the SRAM and a change of one handle. -/
theorem Inst.writeTile_eq_some (hwrite : i.writeTile hd fmt rb rows poi tag = some j) :
    (i.hget hd).kind = 2 ∧ packedSize fmt rows.length rb ≤ (i.hget hd).cap ∧
      j = ({ i with sram := writeRows (i.hget hd).base rb (expRowsAt fmt (i.hget hd).base rows.length rb) (expRow fmt rb) 0 rows i.sram }).hset hd
        ((i.hget hd).result fmt rows.length rb tag poi) := by
  unfold Inst.writeTile at hwrite
  dsimp only at hwrite
  split at hwrite
  · cases hwrite
  · rename_i hshape
    simp only [Bool.or_eq_true, decide_eq_true_eq, not_or, not_not, not_lt] at hshape
    obtain ⟨⟨⟨⟨⟨⟨⟨hkind, -⟩, -⟩, -⟩, -⟩, -⟩, -⟩, hcap⟩ := hshape
    refine ⟨hkind, hcap, ?_⟩
    rw [List.range_eq_range', foldl_zip_range_eq_writeRows (a := (i.hget hd).base) (rb := rb)
      (x0 := expRowsAt fmt (i.hget hd).base rows.length rb) (xb := expRow fmt rb)] at hwrite
    · exact (Option.some.inj hwrite).symm
    · exact fun _ _ => rfl
    · exact fun _ _ _ => rfl

theorem Inst.hget_hset_self (hlen : hd < i.h.length) : (i.hset hd h).hget hd = h := by
  simp [Inst.hget, Inst.hset, setAt, List.getD_eq_getElem?_getD, hlen]

theorem Inst.hget_hset_ne {m : Nat} (hne : m ≠ hd) : (i.hset hd h).hget m = i.hget m := by
  simp [Inst.hget, Inst.hset, setAt, List.getD_eq_getElem?_getD, List.getElem?_set_ne (Ne.symm hne)]

/-- A byte beside the rows that are written stays: before the tile, behind its capacity, or in another row. -/
theorem byteAt_writeRows_of_packed (hbase : a % 64 = 0) {cap : Nat} (hcap : packedSize fmt rows.length rb ≤ cap)
    (hlen : ∀ e, some e ∈ rows → e.1.length = rb ∧ e.2.length = expRow fmt rb)
    (hx : x < a ∨ a + cap ≤ x ∨ ∃ k, rows[k]? = some none ∧ a + k * rb ≤ x ∧ x < a + k * rb + rb) :
    byteAt (writeRows a rb (expRowsAt fmt a rows.length rb) (expRow fmt rb) 0 rows m) x = byteAt m x := by
  refine byteAt_writeRows fun n e hn => ?_
  obtain ⟨h1, h2⟩ := hlen e (List.mem_of_getElem? hn)
  have hlt : n < rows.length := (List.getElem?_eq_some_iff.mp hn).1
  have hrow : n * rb + rb ≤ rows.length * rb := by nlinarith
  have hexp : n * expRow fmt rb + expRow fmt rb ≤ rows.length * expRow fmt rb := by nlinarith
  have hup := le_up64 (rows.length * rb)
  rw [Nat.zero_add, h1, h2]
  unfold packedSize at hcap
  unfold expRowsAt
  rw [up64_add hbase]
  rcases hx with hx | hx | ⟨k, hk, hlo, hhi⟩
  · split at hcap <;> split <;> constructor <;> omega
  · split at hcap <;> split <;> constructor <;> omega
  · have hklt : k < rows.length := (List.getElem?_eq_some_iff.mp hk).1
    have hkrow : k * rb + rb ≤ rows.length * rb := by nlinarith
    have hne : n ≠ k := by
      rintro rfl
      rw [hk] at hn
      cases hn
    have hapart : n * rb + rb ≤ k * rb ∨ k * rb + rb ≤ n * rb := by
      rcases Nat.lt_or_gt_of_ne hne with hlt | hgt
      · exact .inl (by nlinarith)
      · exact .inr (by nlinarith)
    split at hcap <;> split <;> constructor <;> omega

/-- Settles O48: a tile result is `writeRows` and one handle. -/
theorem tilesInSram : Obligations.TilesInSram := by
  constructor
  · intro s i j hd fmt rb tag rows poi hwf hhd hrows hwrite
    obtain ⟨hkind, -, rfl⟩ := Inst.writeTile_eq_some hwrite
    rw [Inst.hget_hset_self (by exact hhd), List.length_map]
    refine ⟨?_, rfl, rfl, rfl⟩
    have hnot : ((i.hget hd).result fmt rows.length rb tag poi).kind ≠ 1 := by
      change (i.hget hd).kind ≠ 1
      omega
    rw [State.rowsOf, if_neg hnot]
    refine List.ext_getElem? fun n => ?_
    rw [List.getElem?_map]
    rcases Nat.lt_or_ge n rows.length with hn | hn
    · have hget : rows[n]? = some rows[n] := List.getElem?_eq_getElem hn
      obtain ⟨helem, hexp⟩ := bytesAt_writeRows (m := i.sram) (a := (i.hget hd).base) (k := 0) hwf hrows
        (by rw [Nat.zero_add]; exact le_expRowsAt fmt (i.hget hd).base rows.length rb) hget
      rw [Nat.zero_add] at helem hexp
      rw [List.getElem?_range (by exact hn), hget]
      exact congrArg some (Prod.ext helem hexp)
    · rw [List.getElem?_eq_none (by rw [List.length_range]; exact hn), List.getElem?_eq_none hn]
      rfl
  · intro i j hd fmt rb tag rows poi hrows hbase hwrite
    obtain ⟨-, hcap, rfl⟩ := Inst.writeTile_eq_some hwrite
    exact ⟨fun a ha => byteAt_writeRows_of_packed hbase hcap hrows (ha.imp_right .inl),
      fun k a hk hlo hhi => byteAt_writeRows_of_packed hbase hcap hrows (.inr (.inr ⟨k, hk, hlo, hhi⟩)),
      rfl, rfl, rfl, rfl, rfl, rfl, fun m hm => Inst.hget_hset_ne hm⟩

end Sys2Proof.Machine

/-! Proofs about the stations of a collective (chapter 7, by the reading of log entry 67): routing rows, counts, merged partials. -/

namespace Sys2Proof.Machine

open Sys2Proof

variable {i : Inst} {caps : Nat} {c : ColSt} {x : SlotRef}

/-! ### Routing rows (R185) -/

theorem Inst.routeOk_eq_false {r : List Byte} : i.routeOk r = false ↔
    routeK r < 1 ∨ i.colKmax < routeK r ∨ ∃ k, k < routeK r ∧ i.colExperts ≤ routeExp r k := by
  rw [← Bool.not_eq_true]
  simp only [Inst.routeOk, Bool.and_eq_true, decide_eq_true_eq, List.all_eq_true, List.mem_range, not_and_or, not_forall, not_le, not_lt,
    exists_prop, or_assoc]

theorem Inst.getRouting_eq_none {rows : List Row} : i.getRouting rows = none ↔ ∃ r ∈ rows, i.routeOk r.1 = false := by
  unfold Inst.getRouting
  split
  · rename_i hok
    simpa using hok
  · rename_i hbad
    simpa using hbad

/-- What the routing of slots keeps: no expert has more than CAPS rows, and the plan is in the order of the experts. -/
def ColSt.Routed (caps : Nat) (c : ColSt) : Prop :=
  (∀ e, nmGet c.sent e 0 ≤ caps) ∧ c.plan.Pairwise fun x y => x.expert ≤ y.expert

theorem nmGet_mput (m : NMap) (k v e : Nat) : nmGet (mput m k v) e 0 = if e = k then v else nmGet m e 0 := by
  unfold nmGet
  split
  · rename_i h
    rw [h, mfind_mput_self]
    rfl
  · rename_i h
    rw [mfind_mput_ne m k e v h]

theorem mem_insertSlot {y : SlotRef} {l : List SlotRef} : y ∈ insertSlot x l ↔ y = x ∨ y ∈ l := by
  induction l with
  | nil => simp [insertSlot]
  | cons z r ih =>
    unfold insertSlot
    split
    · simp
    · rw [List.mem_cons, ih, List.mem_cons]
      tauto

theorem insertSlot_length (l : List SlotRef) : (insertSlot x l).length = l.length + 1 := by
  induction l with
  | nil => rfl
  | cons z r ih =>
    unfold insertSlot
    split
    · rfl
    · rw [List.length_cons, ih, List.length_cons]

theorem insertSlot_pairwise {l : List SlotRef} (hl : l.Pairwise fun x y => x.expert ≤ y.expert) :
    (insertSlot x l).Pairwise fun x y => x.expert ≤ y.expert := by
  induction l with
  | nil => simp [insertSlot]
  | cons z r ih =>
    obtain ⟨hz, hr⟩ := List.pairwise_cons.mp hl
    unfold insertSlot
    split
    · rename_i hlt
      refine List.pairwise_cons.mpr ⟨fun y hy => ?_, hl⟩
      rcases List.mem_cons.mp hy with rfl | hy
      · omega
      · have := hz y hy
        omega
    · rename_i hge
      refine List.pairwise_cons.mpr ⟨fun y hy => ?_, ih hr⟩
      rcases mem_insertSlot.mp hy with rfl | hy
      · omega
      · exact hz y hy

theorem ColSt.slot_routed (hc : c.Routed caps) : (c.slot caps x).Routed caps := by
  obtain ⟨hsent, hplan⟩ := hc
  unfold ColSt.slot
  dsimp only
  split
  · refine ⟨fun e => ?_, insertSlot_pairwise hplan⟩
    rw [nmGet_mput]
    split
    · omega
    · exact hsent e
  · exact ⟨hsent, hplan⟩

theorem ColSt.slot_counts : (c.slot caps x).plan.length + (c.slot caps x).dropped = c.plan.length + c.dropped + 1 ∧
    (c.slot caps x).tokens = c.tokens := by
  unfold ColSt.slot
  dsimp only
  split
  · exact ⟨by dsimp only; rw [insertSlot_length]; omega, rfl⟩
  · exact ⟨by dsimp only; omega, rfl⟩

/-- The slots of a list of numbers, as one routing row gives them. -/
theorem ColSt.slots_spec (g : Nat → SlotRef) (l : List Nat) (hc : c.Routed caps) :
    (l.foldl (fun c j => c.slot caps (g j)) c).Routed caps ∧
      (l.foldl (fun c j => c.slot caps (g j)) c).plan.length + (l.foldl (fun c j => c.slot caps (g j)) c).dropped =
        c.plan.length + c.dropped + l.length ∧
      (l.foldl (fun c j => c.slot caps (g j)) c).tokens = c.tokens := by
  induction l generalizing c with
  | nil => exact ⟨hc, rfl, rfl⟩
  | cons j r ih =>
    obtain ⟨hcount, htok⟩ := ColSt.slot_counts (c := c) (caps := caps) (x := g j)
    obtain ⟨hr, hn, ht⟩ := ih (ColSt.slot_routed (x := g j) hc)
    rw [List.foldl_cons, List.length_cons]
    exact ⟨hr, by omega, ht.trans htok⟩

theorem ColSt.route_spec (r : List Byte) (hc : c.Routed caps) : (c.route caps r).Routed caps ∧
    (c.route caps r).plan.length + (c.route caps r).dropped = c.plan.length + c.dropped + routeK r ∧
    (c.route caps r).tokens = c.tokens ++ [r] := by
  have h := ColSt.slots_spec (fun j => ⟨routeExp r j, c.tokens.length, j⟩) (List.range (routeK r))
    (c := { c with tokens := c.tokens ++ [r] }) (caps := caps) hc
  rwa [List.length_range] at h

theorem ColSt.routes_spec (rs : List (List Byte)) (hc : c.Routed caps) : (rs.foldl (ColSt.route caps) c).Routed caps ∧
    (rs.foldl (ColSt.route caps) c).plan.length + (rs.foldl (ColSt.route caps) c).dropped =
      c.plan.length + c.dropped + (rs.map routeK).sum ∧
    (rs.foldl (ColSt.route caps) c).tokens = c.tokens ++ rs := by
  induction rs generalizing c with
  | nil => exact ⟨hc, rfl, (List.append_nil _).symm⟩
  | cons r rs ih =>
    obtain ⟨hc1, hn1, ht1⟩ := ColSt.route_spec r hc
    obtain ⟨hc2, hn2, ht2⟩ := ih hc1
    rw [List.foldl_cons, List.map_cons, List.sum_cons]
    exact ⟨hc2, by omega, by rw [ht2, ht1, List.append_assoc]; rfl⟩

/-! ### Merged partials (R197) -/

theorem tagPositions_pos (tag : Nat) : 0 < tagPositions tag := Nat.succ_pos _

/-- The fields of a tag that is put together from three. -/
theorem merged_tag {p q r : Nat} (hp : p < 2 ^ 24) (hq : q < 2 ^ 24) :
    bits (fld p 24 40 ||| fld q 24 16 ||| r % 65536) 63 40 = p ∧ bits (fld p 24 40 ||| fld q 24 16 ||| r % 65536) 39 16 = q ∧
      (fld p 24 40 ||| fld q 24 16 ||| r % 65536) % 65536 = r % 65536 := by
  have hsum : fld p 24 40 ||| fld q 24 16 ||| r % 65536 = 2 ^ 40 * p + (2 ^ 16 * q + r % 65536) := by
    have hlow : r % 65536 < 2 ^ 16 := Nat.mod_lt _ (by decide)
    rw [fld, fld, Nat.mod_eq_of_lt hp, Nat.mod_eq_of_lt hq, Nat.or_assoc, Nat.mul_comm q, ← Nat.two_pow_add_eq_or_of_lt hlow,
      Nat.mul_comm p, ← Nat.two_pow_add_eq_or_of_lt (by omega)]
  rw [hsum]
  simp only [bits, Nat.shiftRight_eq_div_pow]
  omega

/-- Settles O59: routing rows by the invariant `ColSt.Routed`, counts and partials by their definitions. -/
theorem collectiveStations : Obligations.CollectiveStations := by
  refine ⟨fun i rows => ⟨?_, fun j hj hsent hplan => ?_⟩, fun i t => ?_, fun i t ms x hms hx hall => ?_⟩
  · simp only [Inst.getRouting_eq_none, Inst.routeOk_eq_false]
  · unfold Inst.getRouting at hj
    split at hj
    · cases hj
      obtain ⟨⟨hs, hp⟩, hn, ht⟩ := ColSt.routes_spec (rows.map Prod.fst) (c := i.col) (caps := i.colCaps) ⟨hsent, hplan⟩
      rw [List.map_map] at hn
      exact ⟨hs, hp, ht, hn⟩
    · cases hj
  · rw [List.sum_eq_foldl, ← List.length_append]
    simp only [Inst.getCounts, Inst.countsIn, Bool.and_eq_true, decide_eq_true_eq, ite_eq_left_iff, reduceCtorEq, imp_false, not_not]
    exact Iff.rfl
  · have hsum : ms.foldl (fun n x => n + tagPositions x.tag) 0 = (ms.map fun m => tagPositions m.tag).sum := by
      rw [List.sum_eq_foldl, List.foldl_map]
    have hpos : 0 < (ms.map fun m => tagPositions m.tag).sum :=
      Nat.lt_of_lt_of_le (tagPositions_pos x.tag) (List.single_le_sum (fun _ _ => Nat.zero_le _) _
        (List.mem_map_of_mem (List.mem_of_find?_eq_some hx)))
    have hput : i.putPartial t = if 2 ^ 24 < (ms.map fun m => tagPositions m.tag).sum then none
        else some (i.mapCol fun c => { c with puts := c.puts + 1, merge := c.merge.filter fun x => x.k ≠ c.puts },
          { t with tag := fld (bits x.tag 63 40) 24 40 ||| fld ((ms.map fun m => tagPositions m.tag).sum - 1) 24 16 ||| x.tag % 65536 }) := by
      simp only [Inst.putPartial, ← hms, hx, hsum, if_neg (not_lt.mpr hall)]
    rw [hput]
    refine ⟨fun hbig => if_pos hbig, fun hsmall => ⟨_, _, if_neg (by omega), ?_⟩⟩
    have hfirst : bits x.tag 63 40 < 2 ^ 24 := Nat.mod_lt _ (by decide)
    obtain ⟨hp, hq, hr⟩ := merged_tag (r := x.tag) hfirst (show (ms.map fun m => tagPositions m.tag).sum - 1 < 2 ^ 24 by omega)
    refine ⟨hp, ?_, hr, rfl, rfl⟩
    simp only [tagPositions] at hq hpos ⊢
    omega

end Sys2Proof.Machine

/-! Proofs about redelivery, the tile buffers and the mirror sessions (chapters 9 and 10). -/

namespace Sys2Proof.Machine

open Sys2Proof

variable {s : State} {o : Origin}

/-! ### Acknowledgements, timers and the order of a resend (R258 to R260) -/

theorem exec_heldRequestAck {pos : Nat} {h : HReq} (hpos : s.homeReqs[pos]? = some h) (hloc : h.loc = none) (hsrc : h.f.src ≠ s.mid)
    (hack : h.acked = false) (hsince : h.since + 2500 ≤ s.now) :
    exec (.heldRequestAck pos) s = .next ((s.markAcked h.hid).sendAck h.f.src h.f.pepoch [h.f.seq]) := by
  change execHeldRequestAck pos s = _
  simp [execHeldRequestAck, hpos, hloc, hsrc, hack, hsince]

/-- An attempt notes when and on which path the frame went, and keeps its number. -/
theorem State.attempt_frame (s : State) (f : OpenFrame) (p : Option Nat) :
    (s.attempt f p).2.seq = f.seq ∧ (s.attempt f p).2.sentAt = s.now := by
  cases p <;> exact ⟨rfl, rfl⟩

theorem exec_ackedRequestQuery {dst seq : Nat} {f : OpenFrame} (hf : s.openFrame dst seq = some f) (hack : f.acked = true)
    (hkind : f.f.kind = kReq) (hsent : f.sentAt + 125000 ≤ s.now) : ∃ (t : State) (u : OpenFrame),
      exec (.ackedRequestQuery dst seq) s = .next (t.setOpen dst u) ∧ u.tries = f.tries ∧ u.seq = f.seq ∧ u.sentAt = s.now := by
  obtain ⟨t, u, hr⟩ : ∃ t u, (s.bump K.resends 1).attempt { f with tries := max 1 f.tries, tried := [] }
      (s.nextPath { f with tried := [] }).1 = (t, u) := ⟨_, _, rfl⟩
  have hsame := (s.bump K.resends 1).attempt_frame { f with tries := max 1 f.tries, tried := [] } (s.nextPath { f with tried := [] }).1
  rw [hr] at hsame
  refine ⟨t, { u with tries := f.tries }, ?_, rfl, hsame⟩
  change execAckedRequestQuery dst seq s = _
  have hdue : (f.acked && f.f.kind = kReq && decide (f.sentAt + 125000 ≤ s.now)) = true := by simp [hack, hkind, hsent]
  simp only [execAckedRequestQuery, hf, hdue, if_true, hr]

theorem exec_resendTimerExpiry {dst seq : Nat} {f : OpenFrame} (hf : s.openFrame dst seq = some f) (hack : f.acked = false)
    (hsent : f.sentAt + 10000 ≤ s.now) : exec (.resendTimerExpiry dst seq) s = .next (s.attemptFails f).settleAll := by
  change execResendTimerExpiry dst seq s = _
  simp [execResendTimerExpiry, hf, hack, hsent]

/-- Settles O33: acknowledgements and timers by their commands, the order of the paths by the three paths. -/
theorem redelivery : Obligations.Redelivery := by
  refine ⟨fun s => ⟨fun _ _ => rfl, fun pos h => exec_heldRequestAck, fun dst seq o => exec_ackedRequestQuery,
    fun dst seq o hf hack hsent => ⟨fun htries => ?_, fun htries => ?_⟩⟩, fun orig horig => ?_⟩
  · rw [exec_resendTimerExpiry hf hack hsent, State.attemptFails, if_neg (by omega)]
  · rw [exec_resendTimerExpiry hf hack hsent, State.attemptFails, if_pos htries]
  · refine ⟨rfl, ?_, fun p => ?_, ?_⟩
    · interval_cases orig <;> decide
    · interval_cases orig <;> simp [resendOrder] <;> omega
    · interval_cases orig <;> decide

/-! ### Tile buffers and parked frames (R235 to R246) -/

theorem ringTake_length : ∀ (n : Nat) (l : List (Nat × Nat)), n ≤ (l.map Prod.snd).sum → (ringTake n l).1.length = n
  | n, [], h => by simp_all [ringTake]
  | n, (a, k) :: r, h => by
    simp only [List.map_cons, List.sum_cons] at h
    unfold ringTake
    split
    · simp_all
    · split
      · simp
      · rw [List.length_append, ringTake_length (n - k) r (by omega)]
        simp
        omega

theorem mfind_of_ne {α : Type} {m : List (Nat × α)} {k : Nat} (h : ∀ e ∈ m, e.1 ≠ k) : mfind m k = none := by
  induction m with
  | nil => rfl
  | cons e r ih =>
    rw [mfind, if_neg (h e List.mem_cons_self)]
    exact ih fun x hx => h x (List.mem_cons_of_mem _ hx)

theorem State.ringRead_of_unseen {b : Nat} (h : ∀ e ∈ s.sw.ringSeen, e.1 ≠ b) : s.ringRead b = s.rd K.tbufBase + 4096 * b := by
  rw [State.ringRead, nmGet, mfind_of_ne h]
  rfl

theorem State.cacheBuf_of_ringBuf {v b : Nat} (hb : s.ringBuf v = some b) (hfree : s.bufRefs b = 0)
    (hnew : s.sw.tbCache.contains b = false) : s.cacheBuf v = s.mapSw fun x => { x with tbCache := x.tbCache ++ [b] } := by
  simp only [State.cacheBuf, hb, hfree, hnew, decide_true, Bool.not_false, Bool.and_self, if_true]

theorem State.cacheBuf_of_stray {v : Nat} (hb : s.ringBuf v = none) : s.cacheBuf v = s.tbufError (v / 4096) := by
  rw [State.cacheBuf, hb]

theorem exec_framePark {id : Nat} {c : CoreFrame} {s1 : State} {bs : List Nat}
    (hc : (s.sw.frames.find? fun c => c.id = id) = some c) (hlow : s.belowMark c.quad 1 = true)
    (hturn : (s.sw.frames.find? fun d => d.quad = c.quad && d.parkable s.now) = some c)
    (htake : s.takeBufs c.f.pid (cdiv c.cells 16) = .got s1 bs) :
    exec (.framePark id) s = .next (((((((s1.setCore id fun d => { d with parked := true, bufs := bs, ptrs := [] }).pushCells c.quad
      (s1.ownCells c) []).returnCredit c.ingress c.f.tc (s1.ownCells c).length).bump K.framesParked 1).quadEv c.quad
        0x109 c.f.pid 1).pumpSources).settleCells) := by
  change execFramePark id s = _
  simp only [execFramePark, hc, hlow, hturn, htake, decide_true, Bool.and_self, if_true]

theorem exec_framePark_wait {id : Nat} {c : CoreFrame} (hc : (s.sw.frames.find? fun c => c.id = id) = some c)
    (htake : s.takeBufs c.f.pid (cdiv c.cells 16) = .wait) : exec (.framePark id) s = .next s := by
  change execFramePark id s = _
  simp only [execFramePark, hc, htake, ite_self]

theorem exec_frameUnpark {id : Nat} {c : CoreFrame} {s1 : State} (hc : (s.sw.frames.find? fun c => c.id = id) = some c)
    (hparked : c.parked = true) (hroom : s.rd K.wm2 < s.freeCells c.quad) (hmay : s.mayUnpark c = true)
    (hs1 : s1 = (s.setCore id fun d => { d with parked := false, bufs := [] }).giveBufs c.f.pid c.bufs) :
    exec (.frameUnpark id) s = .next ((((s1.takeCells c.quad c.cells []).1.setCore id fun d =>
      { d with ptrs := (s1.takeCells c.quad c.cells []).2 }).quadEv c.quad 0x10A c.f.pid 1).settleCells) := by
  subst hs1
  change execFrameUnpark id s = _
  simp only [execFrameUnpark, hc, hparked, hroom, hmay, decide_true, Bool.and_self, if_true]

/-! ### Mirror sessions and the analysis port -/

/-- A value in range with no reserved bit set takes effect as it is (R358). -/
theorem State.settle_of_fit {k tail v : Nat} {e : Entry} (he : entryOf (k / 256) (k % 256) = some e) (hrsv : v &&& e.rsv = 0)
    (hclamp : clampVal s e tail v = (v, none)) (pid : Nat) : s.settle o pid k tail v = (s, v, false) := by
  simp [State.settle, he, hrsv, hclamp]

theorem State.writePlain_of_fit {k tail v : Nat} {e : Entry} (he : entryOf (k / 256) (k % 256) = some e) (hrsv : v &&& e.rsv = 0)
    (hclamp : clampVal s e tail v = (v, none)) (pid : Nat) :
    s.writePlain o pid k tail v = (s.wr k v, if e.ret then .commit false else .now 0 false []) := by
  simp only [State.writePlain, State.settle_of_fit he hrsv hclamp, he]

theorem State.commandIf_of_allows {ok : Bool} {k opPid : Nat} (eff : State → Nat → State × Done) (hok : ok = true)
    (ha : s.allows o k opPid = true) :
    s.commandIf ok o k opPid eff = (eff s ((s.senderPid o).getD 0)).1.finish o (eff s ((s.senderPid o).getD 0)).2 := by
  rw [State.commandIf, if_pos hok, State.command_of_allows _ ha]

theorem entryOf_mirMode {n : Nat} (hn : n < 8) :
    entryOf (K.mirMode n / 256) (K.mirMode n % 256) = some ⟨10, 1, .rw, 0, .enum 5, false, 0⟩ := by
  interval_cases n <;> rfl

theorem exec_mirrorSessionMode {n v : Nat} (hn : n < 8) (hv : v < 5) (ha : s.allows o (K.mirMode n) 0 = true) :
    exec (.mirrorSessionMode o n v) s =
      .next (((s.wr (K.mirMode n) v).mapSw fun x => { x with sample := mdel x.sample n }).reply o Status.ok false []) := by
  change execMirrorSessionMode o n v s = _
  have hclamp : clampVal s ⟨10, 1, .rw, 0, .enum 5, false, 0⟩ 0 v = (v, none) := by simp [clampVal, hv]
  rw [execMirrorSessionMode, State.commandIf_of_allows _ (decide_eq_true hn) ha,
    State.writePlain_of_fit (entryOf_mirMode hn) (Nat.and_zero v) hclamp]
  rfl

/-! ### The ports of the module -/

theorem getD_mapIf {α : Type} {p : α → Bool} {f : α → α} {l : List α} {n : Nat} (d : α) (hn : n < l.length) :
    (mapIf p f l).getD n d = if p (l.getD n d) then f (l.getD n d) else l.getD n d := by
  simp [mapIf, List.getD_eq_getElem?_getD, hn]

/-- In a list whose elements stand under their own numbers the element at a number has that number. -/
theorem num_getD_of_range {α : Type} {num : α → Nat} {l : List α} {m n : Nat} (d : α) (hl : l.map num = List.range m) (hn : n < m) :
    n < l.length ∧ num (l.getD n d) = n := by
  have hlen : l.length = m := by simpa using congrArg List.length hl
  have hnl : n < l.length := hlen ▸ hn
  have hget : (l.map num)[n]? = some n := by simp [hl, hn]
  refine ⟨hnl, ?_⟩
  simpa [List.getD_eq_getElem?_getD, hnl] using hget

section FabricPorts

variable {n m : Nat} (f : FPort → FPort)

theorem State.fport_n (hu : s.lnk.fp.map FPort.n = List.range 16) (hn : n < 16) : (s.fport n).n = n :=
  (num_getD_of_range _ hu hn).2

theorem State.fport_setFp_self (hu : s.lnk.fp.map FPort.n = List.range 16) (hn : n < 16) :
    (s.setFp n f).fport n = f (s.fport n) := by
  have hlen := (num_getD_of_range (FPort.init n) hu hn).1
  refine (getD_mapIf (FPort.init n) hlen).trans (if_pos (decide_eq_true ?_))
  exact State.fport_n hu hn

theorem State.fport_setFp_ne (hu : s.lnk.fp.map FPort.n = List.range 16) (hm : m < 16) (hne : m ≠ n) :
    (s.setFp n f).fport m = s.fport m := by
  have hlen := (num_getD_of_range (FPort.init m) hu hm).1
  refine (getD_mapIf (FPort.init m) hlen).trans (if_neg ?_)
  exact fun h => hne ((State.fport_n hu hm).symm.trans (of_decide_eq_true h))

@[simp] theorem State.rd_setFp (k : Nat) : (s.setFp n f).rd k = s.rd k := rfl

end FabricPorts

theorem State.rd_analysisLaser (k : Nat) : s.analysisLaser.rd k = s.rd k := by
  unfold State.analysisLaser
  split <;> rfl

theorem State.fabricLive_congr {t : State} (h : t.life = s.life) : t.fabricLive = s.fabricLive := by
  simp only [State.fabricLive, State.inService, h]

theorem State.analysisLaser_laser (hmesh : s.meshN ≤ 16) (hu : s.lnk.fp.map FPort.n = List.range 16) :
    (s.analysisLaser.fport 15).laser = (decide (s.rd K.analysisPort = 15) && s.fabricLive) := by
  have hport : s.analysis = some 15 ↔ s.rd K.analysisPort = 15 := by
    simp only [State.analysis]
    split
    · rename_i h
      simp only [Bool.or_eq_true, Bool.and_eq_true, decide_eq_true_eq, reduceCtorEq, false_iff] at h ⊢
      omega
    · exact Option.some_inj
  rw [State.analysisLaser, if_pos hmesh, State.fport_setFp_self _ hu (by decide)]
  simp only [hport]

theorem State.settle_frame (s : State) (o : Origin) (pid k tail v : Nat) :
    State.Only [.od, .mgt] s (s.settle o pid k tail v).1 :=
  State.settle_only (List.Subset.refl _) (.refl _ s) o pid k tail v

theorem State.rd_clampRec {j : Nat} (k src rsn pid v v1 : Nat) (hj : j ≠ K.clampCount) :
    (s.clampRec k src rsn pid v v1).rd j = s.rd j := State.rd_bump_ne K.clampCount 1 hj

@[simp] theorem State.reply_sw (st : Nat) (c : Bool) (v : List Byte) : (s.reply o st c v).sw = s.sw :=
  (s.reply_told o st c v).agrees .sw rfl

/-- What a value that is settled leaves of the dictionary: all but the count of the clamped values. -/
theorem State.rd_settle {pid k tail v j : Nat} (hj : j ≠ K.clampCount) : (s.settle o pid k tail v).1.rd j = s.rd j := by
  unfold State.settle
  split
  · rfl
  · dsimp only
    split <;> split <;> simp only [State.rd_clampRec _ _ _ _ _ _ hj]

theorem exec_analysisPort {v : Nat} {s1 : State} {c : Bool} (ha : s.allows o K.analysisPort 0 = true)
    (hs : s.settle o ((s.senderPid o).getD 0) K.analysisPort 0 v = (s1, v, c)) :
    exec (.analysisPort o v) s = .next (if s1.analysisOk v = true then ((s1.wr K.analysisPort v).analysisLaser).awaitCommit o c
      else s.reply o Status.refused false []) := by
  change execAnalysisPort o v s = _
  rw [execAnalysisPort, State.command_of_allows _ ha, hs]
  dsimp only
  split <;> rfl

/-- Settles O32: the cache and the parked frames by their commands, the two entries by what their effects leave. -/
theorem buffersAndMirrors : Obligations.BuffersAndMirrors := by
  refine ⟨fun s => ⟨fun hlow => congrArg Host.Outcome.next (if_pos hlow), fun b => State.ringRead_of_unseen,
    fun v b => State.cacheBuf_of_ringBuf, fun v => State.cacheBuf_of_stray, fun hhigh => ?_, fun hlo hhi => ?_,
    fun id c s1 bs s2 hc hlow hturn htake hs2 => hs2 ▸ exec_framePark hc hlow hturn htake, fun id c => exec_framePark_wait,
    fun id c s1 r hc hparked hroom hmay hs1 hr => hr ▸ exec_frameUnpark hc hparked hroom hmay hs1, ringTake_length⟩,
    fun s o => ⟨fun n v hn hv ha => ⟨_, exec_mirrorSessionMode hn hv ha, ?_, ?_⟩, fun v s1 c ha hs => ⟨fun hok => ?_, fun hok => ?_⟩⟩⟩
  · exact congrArg Host.Outcome.next ((if_neg (by omega)).trans (if_pos hhigh))
  · exact congrArg Host.Outcome.next ((if_neg (by omega)).trans (if_neg (by omega)))
  · rw [State.rd_reply]
    exact State.rd_wr_self _ _
  · rw [State.reply_sw]
    rfl
  · refine ⟨_, (exec_analysisPort ha hs).trans (congrArg _ (if_pos hok)), ?_, fun hmesh hu => ?_⟩
    · exact (State.rd_analysisLaser _).trans (State.rd_wr_self _ _)
    · have hframe := s.settle_frame o ((s.senderPid o).getD 0) K.analysisPort 0 v
      have hmesh1 : (s1.wr K.analysisPort v).meshN = s.meshN := by
        have h := State.rd_settle (s := s) (o := o) (pid := (s.senderPid o).getD 0) (k := K.analysisPort) (tail := 0) (v := v)
          (j := K.meshN) (by decide)
        rw [hs] at h
        exact (State.rd_wr_ne _ _ _ (by decide)).trans h
      rw [hs] at hframe
      have hlnk : s1.lnk = s.lnk := hframe.agrees .lnk rfl
      have hlaser := State.analysisLaser_laser (s := s1.wr K.analysisPort v) (by rwa [hmesh1]) (by rwa [← hlnk] at hu)
      rw [State.rd_wr_self] at hlaser
      refine hlaser.trans ?_
      congr 1
      refine (State.fabricLive_congr ?_).symm
      exact State.analysisLaser_life _
  · exact (exec_analysisPort ha hs).trans (congrArg _ (if_neg (by simp [hok])))

end Sys2Proof.Machine

/-! Proofs about the links between modules, the notices of peers and the change of route tables (chapters 10 and 11). -/

namespace Sys2Proof.Machine

open Sys2Proof

variable {s : State} {o : Origin}

/-! ### Keep-alives, light and peers -/

theorem exec_lossOfLight {port : Nat} (hp : port < 16) (hana : s.analysis ≠ some port) :
    exec (.lossOfLight port) s = .next (
      let s1 := s.setFp port fun p => { p with light := false }
      if s.rd (K.fpState port) = psHeld ∨ s.rd (K.fpState port) = psDark then s1
      else (s1.fpDown port psDark 0 (s1.fport port).laser).settleAll) := by
  change execLossOfLight port s = _
  have hout : (16 ≤ port || decide (s.analysis = some port)) = false := by simp [hana]; omega
  rw [execLossOfLight, hout]
  simp only [Bool.or_eq_true, decide_eq_true_eq, Bool.false_eq_true, if_false]
  rfl

theorem exec_peerLossTimeout {mid : Nat} (hpeer : s.isPeer mid = true) (hmask : s.masked mid = true) (hlost : s.peerLost mid = false)
    (hat : (s.peer mid).maskAt + 25000 ≤ s.now) (hun : (s.peer mid).unmaskedAt + 25000 ≤ s.now) :
    exec (.peerLossTimeout mid) s = .next ((s.declareLost mid).judgeLock).settleAll := by
  change execPeerLossTimeout mid s = _
  simp [execPeerLossTimeout, hpeer, hmask, hlost, hat, hun]

/-! ### Notices of peers -/

theorem exec_closingNotice {src pid : Nat} (hpeer : s.isPeer src = true) (hpid : pid ≠ 0) (hlt : pid < 64) (hact : s.pstate pid = 1) :
    exec (.closingNotice src pid) s = .next (s.closePart pid) := by
  change execClosingNotice src pid s = _
  simp [execClosingNotice, State.closingIn, hpeer, hpid, hlt, hact]

theorem exec_creditReturn {src pid flow sid consumer : Nat} {c : Cons} (free : Nat) (hpeer : s.isPeer src = true)
    (hc : ((s.strmGet pid flow sid).bind fun t => t.cons? consumer) = some c) (hsrc : c.mid = src) :
    exec (.creditReturn src pid flow sid consumer free) s = .next (s.creditIn pid flow sid consumer free) := by
  change execCreditReturn src pid flow sid consumer free s = _
  simp [execCreditReturn, hc, hpeer, hsrc]

/-! ### The change of the route tables (R262 to R265, R393) -/

theorem exec_routeDrain (ha : s.allows o K.routeDrain 0 = true) (hstate : s.rd K.routeState = 0) :
    exec (.routeDrain o 1) s =
      .next ((s.wr K.routeState 1).mapDlv fun x => { x with drainAt := s.now, drainBy := some o }) := by
  change execRouteDrain o 1 s = _
  have hset := State.settle_of_fit (s := s) (o := o) (k := K.routeDrain) (tail := 0) (v := 1) (e := ⟨1, 1, .wo, 0, .enum 2, false, 0⟩)
    rfl rfl rfl ((s.senderPid o).getD 0)
  rw [execRouteDrain, State.command_of_allows _ ha, hset]
  simp [hstate, State.finish]

theorem exec_routeDrained (hstate : s.rd K.routeState = 1) (hdone : s.drainDone = true) (hby : s.dlv.drainBy = some o) :
    exec .routeDrained s =
      .next (((s.wr K.routeState 2).mapDlv fun v => { v with drainedAt := s.now, drainBy := none }).reply o Status.ok false []) := by
  change execRouteDrained s = _
  simp [execRouteDrained, hstate, hdone, hby]

theorem exec_routeDrainTimeout (hstate : s.rd K.routeState = 1) (hat : s.dlv.drainAt + 50000 ≤ s.now) (hby : s.dlv.drainBy = some o) :
    exec .routeDrainTimeout s = .next (s.endDrain.reply o Status.timeout false []) := by
  change execRouteDrainTimeout s = _
  simp [execRouteDrainTimeout, hstate, hat, hby]

theorem exec_routeSwap {ts : Nat} (ha : s.allows o K.routeSwap 0 = true) :
    exec (.routeSwap o ts) s = .next (if s.rd K.routeState = 2 ∧ (s.life.mstate ≠ .shadow ∨ s.rd K.shadowResult = 2) ∧
        s.now + 125000 ≤ ts ∧ ts ≤ s.now + 12500000 then
      (s.mapDlv fun v => { v with swapAt := some ts }).reply o Status.ok false []
      else s.reply o Status.refused false []) := by
  change execRouteSwap o ts s = _
  rw [execRouteSwap, State.command_of_allows _ ha]
  simp only [Bool.and_eq_true, Bool.or_eq_true, decide_eq_true_eq, and_assoc]
  split <;> rfl

theorem exec_routeSwitch {ts : Nat} (hat : s.dlv.swapAt = some ts) (hts : ts ≤ s.now)
    (hlife : (s.swapBanks.wr K.routeGen (1 - s.rd K.routeGen % 2)).life.mstate ≠ .shadow) :
    exec .routeSwitch s = .next (((s.swapBanks.wr K.routeGen (1 - s.rd K.routeGen % 2)).endDrain).notices).settleAll := by
  change execRouteSwitch s = _
  have hnot : ¬ s.now < ts := by omega
  simp only [execRouteSwitch, hat, hnot, if_false, hlife, decide_false, Bool.false_and, Bool.false_eq_true]

theorem exec_routeSwapTimeout (hstate : s.rd K.routeState = 2) (hno : s.dlv.swapAt = none) (hat : s.dlv.drainedAt + 1250000 ≤ s.now) :
    exec .routeSwapTimeout s = .next s.endDrain := by
  change execRouteSwapTimeout s = _
  simp [execRouteSwapTimeout, hstate, hno, hat]

theorem exec_routeDefault {v : Nat} (ha : s.allows o K.routeDefault 0 = true) (hv : v < 2) :
    exec (.routeDefault o v) s = .next ((if v = 1 then (s.defaultVias).touchRetained else s).reply o Status.ok false []) := by
  change execRouteDefault o v s = _
  have hset := State.settle_of_fit (s := s) (o := o) (k := K.routeDefault) (tail := 0) (v := v) (e := ⟨1, 1, .wo, 0, .enum 2, false, 0⟩)
    rfl (Nat.and_zero v) (by simp [clampVal, hv]) ((s.senderPid o).getD 0)
  rw [execRouteDefault, State.command_of_allows _ ha, hset]
  rfl

/-! ### The switch of the banks -/

/-- The state that has copied the pending routes of the first `n` destinations. -/
def State.SwappedTo (s t : State) (n : Nat) : Prop :=
  t.life = s.life ∧ (∀ k, (∀ d, d < n → k ≠ K.via1Active d ∧ k ≠ K.via2Active d) → mfind t.od k = mfind s.od k) ∧
    ∀ d, d < n → t.rd (K.via1Active d) = s.viaRd (K.via1Pending d) d false ∧ t.rd (K.via2Active d) = s.viaRd (K.via2Pending d) d true

theorem State.rd_of_mfind {t : State} {k : Nat} (h : mfind t.od k = mfind s.od k) : t.rd k = s.rd k := by
  simp only [State.rd, h]

/-- A route entry reads the same where its value and the module's place in the mesh are the same. -/
theorem State.viaRd_congr {t : State} {k : Nat} (hk : mfind t.od k = mfind s.od k) (hmesh : mfind t.od K.meshN = mfind s.od K.meshN)
    (hmid : mfind t.od K.mid = mfind s.od K.mid) (d : Nat) (second : Bool) : t.viaRd k d second = s.viaRd k d second := by
  have h1 : t.meshN = s.meshN := State.rd_of_mfind hmesh
  have h2 : t.mid = s.mid := State.rd_of_mfind hmid
  simp only [State.viaRd, State.viaDef, hk, h1, h2]

/-- The pending routes to one destination become the active ones. -/
def State.swapBank (s : State) (d : Nat) : State :=
  (s.wr (K.via1Active d) (s.viaRd (K.via1Pending d) d false)).wr (K.via2Active d) (s.viaRd (K.via2Pending d) d true)

theorem State.swapBanks_eq (s : State) : s.swapBanks = (List.range 17).foldl State.swapBank s := rfl

theorem State.rd_swapBank_self (s : State) (d : Nat) : (s.swapBank d).rd (K.via1Active d) = s.viaRd (K.via1Pending d) d false ∧
    (s.swapBank d).rd (K.via2Active d) = s.viaRd (K.via2Pending d) d true :=
  ⟨(State.rd_wr_ne _ _ _ (by simp only [K.via1Active, K.via2Active]; omega)).trans (State.rd_wr_self _ _), State.rd_wr_self _ _⟩

theorem State.mfind_swapBank_ne {d k : Nat} (h1 : k ≠ K.via1Active d) (h2 : k ≠ K.via2Active d) :
    mfind (s.swapBank d).od k = mfind s.od k :=
  (mfind_mput_ne _ _ _ _ h2).trans (mfind_mput_ne _ _ _ _ h1)

theorem State.SwappedTo.succ {u : State} {n : Nat} (h : s.SwappedTo u n) : s.SwappedTo (u.swapBank n) (n + 1) := by
  obtain ⟨hlife, hkeep, hvias⟩ := h
  have hval : ∀ k, (∀ d, d < n → k ≠ K.via1Active d ∧ k ≠ K.via2Active d) → ∀ second, u.viaRd k n second = s.viaRd k n second :=
    fun k hk second => State.viaRd_congr (hkeep k hk) (hkeep K.meshN fun d _ => by simp only [K.meshN, K.via1Active, K.via2Active]; omega)
      (hkeep K.mid fun d _ => by simp only [K.mid, K.via1Active, K.via2Active]; omega) n second
  refine ⟨hlife, fun k hk => ?_, fun d hd => ?_⟩
  · rw [State.mfind_swapBank_ne (hk n (by omega)).1 (hk n (by omega)).2]
    exact hkeep k fun d hd => hk d (by omega)
  · obtain hdn | rfl : d < n ∨ d = n := by omega
    · rw [State.rd_of_mfind (State.mfind_swapBank_ne _ _), State.rd_of_mfind (State.mfind_swapBank_ne _ _)]
      · exact hvias d hdn
      all_goals simp only [K.via1Active, K.via2Active]; omega
    · rw [(u.rd_swapBank_self d).1, (u.rd_swapBank_self d).2, hval, hval]
      · exact ⟨rfl, rfl⟩
      all_goals
        intro e _
        simp only [K.via1Pending, K.via2Pending, K.via1Active, K.via2Active]
        omega

theorem State.swapBanks_swapped (s : State) : s.SwappedTo s.swapBanks 17 := by
  rw [State.swapBanks_eq]
  induction 17 with
  | zero => exact ⟨rfl, fun _ _ => rfl, fun d hd => absurd hd (Nat.not_lt_zero d)⟩
  | succ n ih =>
    rw [List.range_succ, List.foldl_append]
    exact ih.succ

/-- Settles O34: each event by its command; the switch by the banks that the fold over the destinations has copied. -/
theorem peersAndRoutes : Obligations.PeersAndRoutes := by
  refine ⟨fun s => ⟨rfl, fun port hp htr => ?_, fun port s1 hp hana hs1 => ⟨fun h => ?_, fun hheld hdark => ?_⟩, fun n hn => ?_,
    fun mid => exec_peerLossTimeout⟩,
    fun s src pid flow hpeer => ⟨exec_closingNotice hpeer, fun status station time => ?_, fun sid consumer free c => exec_creditReturn free hpeer⟩,
    fun s o => ⟨fun ha hstate => ⟨_, exec_routeDrain ha hstate, State.rd_wr_self _ _, rfl, rfl, ?_⟩, exec_routeDrained,
      exec_routeDrainTimeout, fun ts ha => ⟨fun h => ?_, fun h => ?_⟩, fun ts s1 hat hts hshadow hs1 => ?_, exec_routeSwapTimeout,
      fun ha => exec_routeDefault ha (by decide), fun ha => exec_routeDefault ha (by decide)⟩⟩
  · exact congrArg Host.Outcome.next (if_pos (by simp [hp, htr]))
  · exact (exec_lossOfLight hp hana).trans (congrArg _ ((if_pos h).trans hs1.symm))
  · rw [exec_lossOfLight hp hana, hs1]
    exact congrArg _ (if_neg (not_or.2 ⟨hheld, hdark⟩))
  · exact congrArg Host.Outcome.next (if_pos hn)
  · exact congrArg Host.Outcome.next (if_pos hpeer)
  · have hwr : State.Only [.od, .dlv] s (s.wr K.routeState 1) := State.wr_only (by simp) (.refl _ s) _ _
    exact (State.mapDlv_only (l := [.od, .dlv]) (by simp) hwr (fun x => { x with drainAt := s.now, drainBy := some o }) fun _ => rfl).2
  · exact (exec_routeSwap ha).trans (congrArg _ (if_pos h))
  · exact (exec_routeSwap ha).trans (congrArg _ (if_neg fun hall => h ⟨hall.1, hall.2.2⟩))
  · obtain ⟨hlife, -, hvias⟩ := s.swapBanks_swapped
    refine ⟨?_, ?_, fun d hd => ?_⟩
    · rw [hs1]
      refine exec_routeSwitch hat hts ?_
      change s.swapBanks.life.mstate ≠ _
      rwa [hlife]
    · rw [hs1]
      exact State.rd_wr_self _ _
    · rw [hs1, State.rd_wr_ne, State.rd_wr_ne]
      · exact hvias d hd
      all_goals simp only [K.via1Active, K.via2Active, K.routeGen]; omega

end Sys2Proof.Machine

/-! Proofs about the training of ports (chapter 11). -/

namespace Sys2Proof.Machine

open Sys2Proof

variable {s : State} {o : Origin} {n : Nat}

/-! ### The start of training -/

theorem State.fpMayTrain_light (h : s.fpMayTrain n = true) : (s.fport n).light = true := by
  simp only [State.fpMayTrain, Bool.and_eq_true] at h
  exact h.2

theorem exec_portTrainingStart_fp (hmay : s.fpMayTrain n = true) (hdark : s.rd (K.fpState n) = psDark) :
    exec (.portTrainingStart (.fp n)) s = .next ((s.fpStart n 1).setFp n fun q => { q with fails := 0 }) := by
  change execPortTrainingStart (.fp n) s = _
  simp [execPortTrainingStart, hmay, hdark]

theorem exec_portTrainingStart_unlit (hn : n < 16) (hdark : s.rd (K.fpState n) = psDark) (hlight : (s.fport n).light = false)
    (hlit : s.fpLit n = true) (hrun : s.lnk.qualRun = false) :
    exec (.portTrainingStart (.fp n)) s = .next (s.setFp n fun q => { q with laser := true }) := by
  change execPortTrainingStart (.fp n) s = _
  have hno : s.fpMayTrain n = false := Bool.eq_false_iff.2 fun h => by simp [s.fpMayTrain_light h] at hlight
  simp [execPortTrainingStart, hno, hn, hdark, hlit, hrun]

/-- A port in training has sent its own record. -/
theorem State.fpStart_emits (s : State) (n phase : Nat) : ∃ t : State,
    s.fpStart n phase = t.emit (.identity n (s.ownIdentity n).1 (s.ownIdentity n).2) ∧ t.rd (K.fpState n) = psTraining := by
  refine ⟨_, rfl, ?_⟩
  rw [State.rd_setFp, State.rd_wr_ne]
  · exact State.rd_wr_self _ _
  · simp only [K.fpState, K.fpHoldReason]
    omega

theorem exec_portTrainingStart_ap (dc : List Nat) (hmay : s.apMayTrain n = true) (hdark : s.rd (K.apState n) = psDark) :
    exec (.portTrainingStart (.ap n dc)) s = .next (if (s.dcCheck n dc).widest n = [] then s.dcCheck n dc
      else ((s.dcCheck n dc).apStart n 1).setAp n fun q => { q with fails := 0 }) := by
  change execPortTrainingStart (.ap n dc) s = _
  simp [execPortTrainingStart, hmay, hdark, List.isEmpty_iff]

/-! ### Phases that fail, and the port that comes up -/

theorem exec_trainingPhaseFail_fp (hn : n < 16) (htr : s.rd (K.fpState n) = psTraining) :
    exec (.trainingPhaseFail (.fp n)) s = .next (
      if (s.fport n).light = false then (s.fpDown n psDark 2 (s.fpLit n)).setFp n fun q => { q with fails := 0 }
      else if 2 ≤ (s.fport n).fails then (s.fpHold n hrTrainFail).setFp n fun q => { q with fails := 0 }
      else s.setFp n fun q => { q with fails := q.fails + 1, phase := 1 }) := by
  change execTrainingPhaseFail (.fp n) s = _
  simp [execTrainingPhaseFail, hn, htr]

theorem exec_trainingPhaseFail_ap (hn : n < 16) (hbond : s.bondOf n = n) (htr : s.rd (K.apState n) = psTraining)
    (hfails : 2 ≤ (s.aport n).fails) :
    exec (.trainingPhaseFail (.ap n)) s = .next ((s.apHold n hrTrainFail).setAp n fun q => { q with fails := 0 }) := by
  change execTrainingPhaseFail (.ap n) s = _
  simp [execTrainingPhaseFail, hn, hbond, htr, hfails]

theorem exec_trainFailRetry_fp (hmay : s.fpMayTrain n = true) (hheld : s.rd (K.fpState n) = psHeld)
    (hwhy : s.rd (K.fpHoldReason n) = hrTrainFail) (hat : (s.fport n).heldAt + tenSeconds ≤ s.now) :
    exec (.trainFailRetry (.fp n)) s = .next (s.fpStart n 1) := by
  change execTrainFailRetry (.fp n) s = _
  simp [execTrainFailRetry, hmay, hheld, hwhy, hat]

theorem exec_trainFailRetry_ap (hmay : s.apMayTrain n = true) (hheld : s.rd (K.apState n) = psHeld)
    (hwhy : s.rd (K.apHoldReason n) = hrTrainFail) (hat : (s.aport n).heldAt + tenSeconds ≤ s.now) :
    exec (.trainFailRetry (.ap n)) s = .next (s.apStart n 1) := by
  change execTrainFailRetry (.ap n) s = _
  simp [execTrainFailRetry, hmay, hheld, hwhy, hat]

theorem exec_portLinkUp_fp (hn : n < 16) (htr : s.rd (K.fpState n) = psTraining) (hphase : 4 ≤ (s.fport n).phase) :
    exec (.portLinkUp (.fp n)) s = .next (s.fpUp n).settleAll := by
  change execPortLinkUp (.fp n) s = _
  simp [execPortLinkUp, hn, htr, hphase]

theorem exec_portLinkUp_ap (hn : n < 16) (hbond : s.bondOf n = n) (htr : s.rd (K.apState n) = psTraining) (hphase : 4 ≤ (s.aport n).phase)
    (hwide : s.widest n ≠ []) : exec (.portLinkUp (.ap n)) s = .next (s.apBondUp n).settleAll := by
  change execPortLinkUp (.ap n) s = _
  simp [execPortLinkUp, hn, hbond, htr, hphase, hwide]

/-! ### The record of the neighbour and the parameters of a design -/

/-- The state that has noted the neighbour's record. -/
def State.neighbourNoted (s : State) (n : Nat) (r : IdRecord) : State :=
  (s.wr (K.fpNeighbour n) (leNat (wordBytes [(idWords r).1, (idWords r).2]))).setFp n fun p => { p with
    light := true, peerState := r.mstate }

/-- A port takes the record of its neighbour: it trains, the phases of training are not over, the check value is right. -/
structure State.TakesRecord (s : State) (n : Nat) (r : IdRecord) : Prop where
  num : n < 16
  training : s.rd (K.fpState n) = psTraining
  phase : (s.fport n).phase ≤ 3
  chk : r.chk = recordChk (idWords r).1 (idWords r).2

theorem State.TakesRecord.guard {r : IdRecord} (h : s.TakesRecord n r) :
    (16 ≤ n || s.rd (K.fpState n) ≠ psTraining || decide (3 < (s.fport n).phase) || r.chk ≠ recordChk (idWords r).1 (idWords r).2) = false := by
  obtain ⟨hn, htr, hphase, hchk⟩ := h
  simpa [htr, ← hchk] using And.intro hn hphase

theorem exec_identityRecord_good {r : IdRecord} (h : s.TakesRecord n r) (hgood : (s.neighbourNoted n r).idReason n r = hrNone) :
    exec (.identityRecord n r) s = .next ((s.neighbourNoted n r).setFp n fun p => { p with phase := 4 }) := by
  change execIdentityRecord n r s = _
  rw [State.neighbourNoted] at hgood
  simp only [execIdentityRecord, h.guard, Bool.false_eq_true, if_false, hgood, State.neighbourNoted]

theorem exec_identityRecord_held {r : IdRecord} {k : Nat} (h : s.TakesRecord n r) (hk : (s.neighbourNoted n r).idReason n r = k)
    (hbad : k ≠ hrNone) (hmis : k ≠ hrMiswired) : exec (.identityRecord n r) s = .next ((s.neighbourNoted n r).fpHold n k) := by
  change execIdentityRecord n r s = _
  rw [State.neighbourNoted] at hk
  simp only [execIdentityRecord, h.guard, Bool.false_eq_true, if_false, hk, hmis, State.neighbourNoted]

theorem exec_identityRecord_miswired {r : IdRecord} (h : s.TakesRecord n r) (hk : (s.neighbourNoted n r).idReason n r = hrMiswired) :
    exec (.identityRecord n r) s =
      .next (((s.neighbourNoted n r).wr (K.fpLaneFailed n) (r.crossed % 2 ^ 17)).fpHold n hrMiswired) := by
  change execIdentityRecord n r s = _
  rw [State.neighbourNoted] at hk
  simp only [execIdentityRecord, h.guard, Bool.false_eq_true, if_false, hk, if_true, State.neighbourNoted]

/-- A bond takes the parameters of a design under the same conditions. -/
structure State.TakesParams (s : State) (n : Nat) (r : CapParams) : Prop where
  num : n < 16
  bond : s.bondOf n = n
  training : s.rd (K.apState n) = psTraining
  phase : (s.aport n).phase ≤ 3
  chk : r.chk = recordChk (capWord r) (r.w1 / 65536 * 65536)

theorem laneOrderOk_iff {l : List Nat} : laneOrderOk l = true ↔ l = List.range 8 ∨ l = (List.range 8).reverse := by
  simp [laneOrderOk]

theorem exec_capLinkParameters {r : CapParams} (h : s.TakesParams n r) :
    exec (.capLinkParameters n r) s = .next (
      if ∃ l ∈ r.lanes, laneOrderOk l.1 = false then s.apHold n hrMiswired
      else if r.capver ≠ 1 ∨ r.role ≠ 0 ∨ r.creq < 130 ∨ r.cstrm < 130 ∨ r.cmgmt < 65 then s.apHold n hrIdentity
      else (s.takeLanes n r).setAp n fun p => { p with phase := 4, send := [r.creq, r.cstrm, r.cmgmt], outq := [] }) := by
  obtain ⟨hn, hbond, htr, hphase, hchk⟩ := h
  change execCapLinkParameters n r s = _
  have hguard : (16 ≤ n || s.bondOf n ≠ n || s.rd (K.apState n) ≠ psTraining || decide (3 < (s.aport n).phase) ||
      r.chk ≠ recordChk (capWord r) (r.w1 / 65536 * 65536)) = false := by
    simpa [hbond, htr, ← hchk] using And.intro hn hphase
  rw [execCapLinkParameters, hguard]
  simp only [Bool.false_eq_true, if_false, List.any_eq_true, Bool.not_eq_true', Bool.or_eq_true, decide_eq_true_eq, or_assoc]

/-- Settles O35: training by its commands, the records by the first reason that applies. -/
theorem portsTrain : Obligations.PortsTrain := by
  refine ⟨fun s n hn => ⟨exec_portTrainingStart_fp, exec_portTrainingStart_unlit hn, s.fpStart_emits n 1,
      fun dc hmay hdark => ⟨fun hw => ?_, fun hw => ?_⟩, fun htr hlight hf => ?_, fun htr hlight hf => ?_, fun htr hlight => ?_,
      exec_trainingPhaseFail_ap hn, exec_trainFailRetry_fp, exec_trainFailRetry_ap, exec_portLinkUp_fp hn, exec_portLinkUp_ap hn⟩,
    fun s n hn => ⟨fun r s1 htr hphase hchk hs1 => ?_, fun r hbond htr hphase hchk => ?_⟩⟩
  · exact (exec_portTrainingStart_ap dc hmay hdark).trans (congrArg _ (if_neg hw))
  · exact (exec_portTrainingStart_ap dc hmay hdark).trans (congrArg _ (if_pos hw))
  · rw [exec_trainingPhaseFail_fp hn htr, if_neg (by simp [hlight]), if_neg (by omega)]
  · rw [exec_trainingPhaseFail_fp hn htr, if_neg (by simp [hlight]), if_pos hf]
  · rw [exec_trainingPhaseFail_fp hn htr, if_pos hlight]
  · have htake : s.TakesRecord n r := ⟨hn, htr, hphase, hchk⟩
    obtain rfl : s1 = s.neighbourNoted n r := hs1
    refine ⟨fun h0 h1 h2 h3 h4 h5 => exec_identityRecord_good htake ?_, fun h0 h1 => exec_identityRecord_held htake ?_ (by decide) (by decide),
      fun h0 h1 h2 => exec_identityRecord_held htake ?_ (by decide) (by decide), fun h0 => exec_identityRecord_miswired htake ?_⟩
    · rw [State.idReason, if_neg (by simp [h0]), if_neg (by simp [h1]), if_neg h2, if_neg]
      simp only [Bool.or_eq_true, decide_eq_true_eq, not_or, ne_eq, not_not]
      exact ⟨⟨h3, h4⟩, h5⟩
    · simp [State.idReason, h0, h1]
    · simp [State.idReason, h0, h1, h2]
    · simp [State.idReason, h0]
  · have hexec := exec_capLinkParameters (s := s) ⟨hn, hbond, htr, hphase, hchk⟩
    refine ⟨fun hbad => ?_, fun hok => ?_⟩
    · rw [hexec, if_pos]
      simpa only [← Bool.not_eq_true, laneOrderOk_iff, not_or] using hbad
    · rw [hexec, if_neg (by simpa only [← Bool.not_eq_true, laneOrderOk_iff, not_exists, not_and, not_not] using hok)]
      exact ⟨fun h1 h2 h3 h4 h5 => congrArg _ (if_neg (by omega)), fun h => congrArg _ (if_pos h)⟩

end Sys2Proof.Machine

/-! Proofs about the links at work: keys, light, spare lanes, electrical idle (chapters 11 and 13). -/

namespace Sys2Proof.Machine

open Sys2Proof

variable {s : State} {o : Origin} {n : Nat}

/-! ### Link keys (R286 to R288) -/

theorem exec_linkKeyAgreement {h : Nat} (hn : n < 16) (htr : s.fpTrained n = true) (hagr : (s.fport n).agreeing = true)
    (pe ns gen ms : Nat) :
    exec (.linkKeyAgreement n h pe ns gen ms) s = .next (if h ≠ s.rd (K.peerKeys (s.midAt n)) then (s.fpHold n hrIdentity).settleAll
      else (((((s.setFp n fun p => { p with
        keyed := true, agreeing := false, oldKey := p.keyed, keyAt := s.now, keyFrames := 0, keyIn := 0, keyEpoch := p.keyEpoch + 1
        deadPids := [] }).peerStateIs (s.midAt n) ms).takeGen ms gen).adopt (s.midAt n) pe ns).peerReturns (s.midAt n)).settleAll) := by
  change execLinkKeyAgreement n h pe ns gen ms s = _
  have hguard : (16 ≤ n || !s.fpTrained n || !(s.fport n).agreeing) = false := by simpa [htr, hagr] using hn
  simp only [execLinkKeyAgreement, hguard, Bool.false_eq_true, if_false]

theorem exec_portSecretRenewal (hn : n < 16) (htr : s.fpTrained n = true) (hkey : (s.fport n).keyed = true)
    (hdue : 2 ^ 40 ≤ (s.fport n).keyFrames ∨ 2 ^ 40 ≤ (s.fport n).keyIn ∨ (s.fport n).keyAt + oneDay ≤ s.now) :
    exec (.portSecretRenewal n) s = .next (s.startAgreement n) := by
  refine congrArg Host.Outcome.next (if_pos ?_)
  simpa only [hn, htr, hkey, decide_true, Bool.and_self, Bool.true_and, Bool.or_eq_true, decide_eq_true_eq, or_assoc] using hdue

/-! ### Light and the operator -/

theorem exec_lightReturn (hn : n < 16) (hana : s.analysis ≠ some n) :
    exec (.lightReturn n) s = .next (
      let s1 := s.setFp n fun p => { p with light := true, fails := 0 }
      if s1.rd (K.fpState n) = psHeld ∧ s1.fpMayTrain n = true then s1.fpStart n 1 else s1) := by
  change execLightReturn n s = _
  have hguard : (16 ≤ n || decide (s.analysis = some n)) = false := by simpa [hana] using hn
  simp only [execLightReturn, hguard, Bool.false_eq_true, if_false, Bool.and_eq_true, decide_eq_true_eq]

theorem entryOf_fpAdmin (hn : n < 16) :
    entryOf (K.fpAdmin n / 256) (K.fpAdmin n % 256) = some ⟨1, 1, .rwr, 1, .enum 2, true, 0⟩ := by
  interval_cases n <;> rfl

theorem exec_fpAdmin {v : Nat} (hn : n < 16) (hv : v < 2) (ha : s.allows o (K.fpAdmin n) 0 = true) :
    exec (.fpAdmin o n v) s = .next (
      let s1 := s.wr (K.fpAdmin n) v
      (if v = 1 then
        if s1.rd (K.fpState n) ≠ psHeld then s1
        else if s1.fpMayTrain n then (s1.fpStart n 1).setFp n fun p => { p with fails := 0 }
        else (s1.wr (K.fpState n) psDark).wr (K.fpHoldReason n) hrNone
      else (s1.fpHold n hrOperator).settleAll).awaitCommit o false) := by
  change execFpAdmin o n v s = _
  have hclamp : clampVal s ⟨1, 1, .rwr, 1, .enum 2, true, 0⟩ 0 v = (v, none) := by simp [clampVal, hv]
  rw [execFpAdmin, State.commandIf_of_allows _ (decide_eq_true hn) ha,
    State.writePlain_of_fit (entryOf_fpAdmin hn) (Nat.and_zero v) hclamp]
  simp only [State.rd_wr_self, if_true]
  split <;> rfl

theorem exec_fpAdmin_hold (hn : n < 16) (ha : s.allows o (K.fpAdmin n) 0 = true) :
    exec (.fpAdmin o n 0) s = .next (((s.wr (K.fpAdmin n) 0).fpHold n hrOperator).settleAll.awaitCommit o false) := by
  simp [exec_fpAdmin hn _ ha]

theorem exec_fpAdmin_release (hn : n < 16) (ha : s.allows o (K.fpAdmin n) 0 = true) (hfree : s.rd (K.fpState n) ≠ psHeld) :
    exec (.fpAdmin o n 1) s = .next ((s.wr (K.fpAdmin n) 1).awaitCommit o false) := by
  have hst : (s.wr (K.fpAdmin n) 1).rd (K.fpState n) = s.rd (K.fpState n) := State.rd_wr_ne _ _ _ (by
    simp only [K.fpState, K.fpAdmin]
    omega)
  simp [exec_fpAdmin hn _ ha, hst, hfree]

/-! ### Spare lanes and groups (R280, R281) -/

theorem exec_laneRemap_spare {lane k i : Nat} {cause : RemapCause} (hn : n < 16) (htr : s.fpTrained n = true) (hlane : lane ≤ 16)
    (hcause : cause = .signal ∨ ∃ b, cause = .ber b ∧ b ≤ s.rd K.remapBer)
    (hk : ((s.fport n).lanes.findIdx? fun i => i = lane) = some k) (hi : s.freeLane n = some i) (hday : (s.fport n).dayTest = none)
    (hmap : s.rd (K.fpSpareMap n) = 0x1F) :
    exec (.laneRemap (.fp n) lane cause) s = .next (((s.markLane n lane).moveLane n k i).wr (K.fpSpareMap n) k) := by
  change execLaneRemap (.fp n) lane cause s = _
  have hnot : cause ≠ .daily := by
    rintro rfl
    simp at hcause
  have hdue : s.remapDue cause = true := by
    obtain rfl | ⟨b, rfl, hb⟩ := hcause
    · rfl
    · exact decide_eq_true hb
  have hguard : (16 ≤ n || decide (16 < lane) || !s.fpTrained n || !s.remapDue cause) = false := by
    simpa [htr, hdue] using And.intro hn hlane
  simp only [execLaneRemap, hnot, if_false, hguard, Bool.false_eq_true, hk, hi, hday, hmap, if_true]

theorem exec_laneGroupDisable_fp {lane k : Nat} (hn : n < 16) (htr : s.fpTrained n = true) (hmap : s.rd (K.fpSpareMap n) ≠ 0x1F)
    (hk : ((s.fport n).lanes.findIdx? fun i => i = lane) = some k) :
    exec (.laneGroupDisable (.fp n) lane) s = .next (
      let s1 := (s.markLane n lane).wr (K.fpGroups n) (clrBit (s.rd (K.fpGroups n)) (k / 4))
      if s1.groupsUp n < 2 then (s1.fpDown n psDark 2 true).settleAll else s1.wr (K.fpState n) psDegraded) := by
  change execLaneGroupDisable (.fp n) lane s = _
  have hguard : (n < 16 && s.fpTrained n && s.rd (K.fpSpareMap n) ≠ 0x1F) = true := by simp [hn, htr, hmap]
  simp only [execLaneGroupDisable, hguard, if_true, hk]

/-! ### Electrical idle (R283, R284) -/

theorem exec_idleEntry_fp (hn : n < 16) (htr : s.fpTrained n = true) (hidle : (s.fport n).idle = false) (hfr : s.framesFor n = false)
    (hgate : s.gateNear n = false) (hwait : nmGet s.sw.waitAt n 0 + s.rd K.idleAfter ≤ s.now) :
    exec (.idleEntry (.fp n)) s = .next ((s.emit (.symbol (.fp n) 1 0)).setFp n fun q => { q with idle := true }) :=
  congrArg Host.Outcome.next (if_pos (by simp [hn, htr, hidle, State.mayIdle, hfr, hgate, hwait]))

/-- Settles O36: keys, light and lanes by their commands on a fabric port. -/
theorem linksAtWork : Obligations.LinksAtWork := by
  refine ⟨fun s n hn => ⟨fun h pe ns gen ms htr hagr => ⟨fun hk => ?_, fun hk => ?_⟩, exec_portSecretRenewal hn, fun hold hat => ?_,
      fun s1 hana hs1 => ⟨fun hheld hmay => ?_, fun hfree => ?_⟩, fun o ha => ⟨exec_fpAdmin_hold hn ha, exec_fpAdmin_release hn ha⟩⟩,
    fun s n hn => ⟨fun lane k i cause htr hlane hcause => exec_laneRemap_spare hn htr hlane hcause,
      fun lane k s1 htr hmap hk hs1 => ⟨fun hup => ?_, fun hup => ?_⟩, exec_idleEntry_fp hn, fun htr hidle hmay => ?_,
      fun hidle hmay => ?_, fun hidle hmay => ?_⟩⟩
  · rw [exec_linkKeyAgreement hn htr hagr, if_neg (not_not.2 hk)]
  · rw [exec_linkKeyAgreement hn htr hagr, if_pos hk]
  · exact congrArg Host.Outcome.next (if_pos (by simp [hold, hat]))
  · rw [exec_lightReturn hn hana, hs1]
    exact congrArg _ (if_pos ⟨hs1 ▸ hheld, hs1 ▸ hmay⟩)
  · rw [exec_lightReturn hn hana, hs1]
    exact congrArg _ (if_neg fun hall => hfree (hs1 ▸ hall.1))
  · rw [exec_laneGroupDisable_fp hn htr hmap hk, hs1]
    exact congrArg _ (if_neg (by rw [← hs1]; omega))
  · rw [exec_laneGroupDisable_fp hn htr hmap hk, hs1]
    exact congrArg _ (if_pos (by rwa [← hs1]))
  · exact congrArg Host.Outcome.next (if_pos (by simp [hn, htr, hidle, hmay]))
  · exact congrArg Host.Outcome.next (if_pos (by simp [hn, hidle, hmay]))
  · exact congrArg Host.Outcome.next (if_pos (by simp [hn, hidle, hmay]))

end Sys2Proof.Machine

/-! Proofs about the tests of a link: transmit taps, patterns, injection, qualification (chapter 11). -/

namespace Sys2Proof.Machine

open Sys2Proof

variable {s : State} {o : Origin} {n : Nat}

/-! ### Taps, patterns and injection (R289 to R292) -/

theorem entryOf_fpTxTaps {lane : Nat} (hn : n < 16) (hl : lane < 17) :
    entryOf (K.fpTxTaps n lane / 256) (K.fpTxTaps n lane % 256) = some ⟨4, 4, .rwr, 0xF830F8, .any, true, 0x7F000000⟩ := by
  have hix : K.fpTxTaps n lane / 256 = 0x4000 + n := by simp only [K.fpTxTaps]; omega
  have hsub : K.fpTxTaps n lane % 256 = 16 + lane := by simp only [K.fpTxTaps]; omega
  rw [hix, hsub]
  interval_cases n <;> interval_cases lane <;> rfl

theorem entryOf_fpPrbsCtrl (hn : n < 16) :
    entryOf (K.fpPrbsCtrl n / 256) (K.fpPrbsCtrl n % 256) = some ⟨4, 4, .rw, 0, .any, false, 0x7FFFFF⟩ := by
  interval_cases n <;> rfl

theorem entryOf_fpInject (hn : n < 16) :
    entryOf (K.fpInject n / 256) (K.fpInject n % 256) = some ⟨4, 4, .rw, 0x100001, .any, false, 0⟩ := by
  interval_cases n <;> rfl

theorem State.commandIf_effect {ok : Bool} {k opPid : Nat} {eff : State → Nat → State × Done} {t : State} {d : Done} (hok : ok = true)
    (ha : s.allows o k opPid = true) (heff : eff s ((s.senderPid o).getD 0) = (t, d)) :
    s.commandIf ok o k opPid eff = t.finish o d := by
  rw [State.commandIf_of_allows _ hok ha, heff]

section Commands

variable {lane v : Nat} (hn : n < 16)
include hn

theorem exec_txTaps_ok (hl : lane < 17) (ha : s.allows o (K.fpTxTaps n lane) 0 = true) (hok : tapsOk v = true)
    (hrsv : v &&& 0x7F000000 = 0) : exec (.txTaps o (.fp n) lane v) s = .next ((s.wr (K.fpTxTaps n lane) v).awaitCommit o false) := by
  have hport : (decide (n < 16) && decide (lane < portLanes (.fp n))) = true := by
    simp [portLanes, hn, hl]
  have hwrite := State.writePlain_of_fit (s := s) (o := o) (entryOf_fpTxTaps hn hl) hrsv (tail := 0) rfl ((s.senderPid o).getD 0)
  exact congrArg Host.Outcome.next (State.commandIf_effect (d := .commit false) hport ha ((if_pos hok).trans hwrite))

theorem exec_txTaps_bad (hl : lane < 17) (ha : s.allows o (K.fpTxTaps n lane) 0 = true) (hbad : tapsOk v = false) :
    exec (.txTaps o (.fp n) lane v) s = .next (s.reply o Status.refused false []) := by
  have hport : (decide (n < 16) && decide (lane < portLanes (.fp n))) = true := by
    simp [portLanes, hn, hl]
  exact congrArg Host.Outcome.next (State.commandIf_effect (d := .refused) hport ha (if_neg (ne_true_of_eq_false hbad)))

theorem exec_prbsCtrl_ok (ha : s.allows o (K.fpPrbsCtrl n) 0 = true) (hrsv : v &&& 0x7FFFFF = 0) (hlane : bits v 27 23 < 17)
    (hkeep : v.testBit 28 = false) (hok : bits v 31 30 = 0 ∨ s.laneInUse (.fp n) (bits v 27 23) = false) :
    exec (.prbsCtrl o (.fp n) v) s =
      .next (((s.keepPrbs (K.fpPrbsCtrl n) (K.fpPrbsErrors n)).wr (K.fpPrbsCtrl n) v).reply o Status.ok false []) := by
  have hgo : ¬ (decide (portLanes (.fp n) ≤ bits v 27 23) || (bits v 31 30 ≠ 0 && s.laneInUse (.fp n) (bits v 27 23))) = true := by
    have hl : ¬ portLanes (.fp n) ≤ bits v 27 23 := Nat.not_le.2 hlane
    obtain hok | hok := hok <;> simp [hok, hl]
  have hwrite := State.writePlain_of_fit (s := s.keepPrbs (K.fpPrbsCtrl n) (K.fpPrbsErrors n)) (o := o) (tail := 0)
    (entryOf_fpPrbsCtrl hn) hrsv rfl ((s.senderPid o).getD 0)
  refine congrArg Host.Outcome.next (State.commandIf_effect (d := .ok) (decide_eq_true hn) ha ((if_neg hgo).trans ?_))
  rw [hkeep]
  exact hwrite

theorem exec_prbsCtrl_used (ha : s.allows o (K.fpPrbsCtrl n) 0 = true) (hpat : bits v 31 30 ≠ 0)
    (huse : s.laneInUse (.fp n) (bits v 27 23) = true) :
    exec (.prbsCtrl o (.fp n) v) s = .next (s.reply o Status.refused false []) := by
  have hno : (decide (portLanes (.fp n) ≤ bits v 27 23) || (bits v 31 30 ≠ 0 && s.laneInUse (.fp n) (bits v 27 23))) = true := by
    simp [hpat, huse]
  exact congrArg Host.Outcome.next (State.commandIf_effect (d := .refused) (decide_eq_true hn) ha (if_pos hno))

omit hn in
theorem injectClamp_of_fit (hcount : bits v 24 20 ≠ 0) (hgap : bits v 19 0 ≠ 0) : injectClamp v = v := by
  simp [injectClamp, hcount, hgap]

theorem exec_inject_ok (ha : s.allows o (K.fpInject n) 0 = true) (hlane : bits v 29 25 < 17) (hcount : bits v 24 20 ≠ 0)
    (hgap : bits v 19 0 ≠ 0) (hok : s.life.mstate = .maintenance ∨ (bits v 31 30 ≠ 3 ∧ bits v 24 20 ≤ 15)) :
    exec (.inject o (.fp n) v) s = .next ((s.wr (K.fpInject n) v).reply o Status.ok false []) := by
  have hgo : ¬ (decide (portLanes (.fp n) ≤ bits v 29 25) ||
      ((bits v 31 30 = 3 || decide (15 < bits v 24 20)) && s.life.mstate ≠ .maintenance)) = true := by
    have hl : ¬ portLanes (.fp n) ≤ bits v 29 25 := Nat.not_le.2 hlane
    obtain hok | ⟨hkind, hfew⟩ := hok
    · simp [hok, hl]
    · simp [hkind, Nat.not_lt.2 hfew, hl]
  have hwrite := State.writePlain_of_fit (s := s) (o := o) (tail := 0) (entryOf_fpInject hn) (Nat.and_zero v) rfl ((s.senderPid o).getD 0)
  refine congrArg Host.Outcome.next (State.commandIf_effect (d := .ok) (decide_eq_true hn) ha ?_)
  simp only [injectClamp_of_fit hcount hgap]
  exact (if_neg hgo).trans ((if_pos trivial).trans hwrite)

theorem exec_inject_strong (ha : s.allows o (K.fpInject n) 0 = true) (hcount : bits v 24 20 ≠ 0)
    (hgap : bits v 19 0 ≠ 0) (hlife : s.life.mstate ≠ .maintenance) (hstrong : bits v 31 30 = 3 ∨ 15 < bits v 24 20) :
    exec (.inject o (.fp n) v) s = .next (s.reply o Status.refused false []) := by
  have hno : (decide (portLanes (.fp n) ≤ bits v 29 25) ||
      ((bits v 31 30 = 3 || decide (15 < bits v 24 20)) && s.life.mstate ≠ .maintenance)) = true := by
    obtain hst | hst := hstrong <;> simp [hst, hlife]
  refine congrArg Host.Outcome.next (State.commandIf_effect (d := .refused) (decide_eq_true hn) ha ?_)
  simp only [injectClamp_of_fit hcount hgap]
  exact if_pos hno

end Commands

/-! ### Qualification runs (R293 to R295) -/

theorem State.settle_qualNow (s : State) (o : Origin) (pid : Nat) : s.settle o pid K.qualNow 0 1 = (s, 1, false) :=
  State.settle_of_fit (e := ⟨1, 1, .wo, 0, .enum 2, false, 0⟩) rfl rfl rfl pid

/-- The state in which a qualification run begins: the fabric ports are down, the entries tell of the run. -/
def State.qualBegun (s : State) : State :=
  ((s.each ((List.range 16).filter fun n => decide (n + 1 < s.meshN)) fun s n => s.fpDown n psDark 2 true).wr K.qualStatus
    (leNat (List.replicate 32 3))).wr K.qualLast (s.now % 2 ^ 64)

theorem exec_qualNow_run (ha : s.allows o K.qualNow 0 = true) (hlife : s.life.mstate = .maintenance) (hrun : s.lnk.qualRun = false) :
    exec (.qualNow o 1) s = .next ((s.qualBegun.mapLnk fun l => { l with qualRun := true }).lightAll.settleAll.reply o Status.ok false []) := by
  change execQualNow o 1 s = _
  rw [execQualNow, State.command_of_allows _ ha, State.settle_qualNow]
  simp only [hlife, hrun, ne_eq, not_true_eq_false, if_false, decide_false, Bool.or_self, Bool.false_eq_true, Nat.one_ne_zero]
  rfl

theorem exec_qualNow_refused (ha : s.allows o K.qualNow 0 = true) (hlife : s.life.mstate ≠ .maintenance) :
    exec (.qualNow o 1) s = .next (s.reply o Status.refused false []) := by
  change execQualNow o 1 s = _
  rw [execQualNow, State.command_of_allows _ ha, State.settle_qualNow]
  simp only [hlife, ne_eq, not_false_eq_true, if_true]
  rfl

/-- What each step of a fold leaves as it is, the fold leaves as it is. -/
theorem State.each_keeps {α β : Type} {g : State → β} {f : State → α → State} (hf : ∀ s a, g (f s a) = g s) (l : List α) (s : State) :
    g (s.each l f) = g s := by
  induction l generalizing s with
  | nil => rfl
  | cons a l ih => exact (ih (f s a)).trans (hf s a)

theorem State.fpStart_qualRun (s : State) (n phase : Nat) : (s.fpStart n phase).lnk.qualRun = s.lnk.qualRun := by
  unfold State.fpStart
  dsimp only
  split <;> rfl

theorem exec_qualificationEnd (failed : List Nat) (hrun : s.lnk.qualRun = true) (hend : s.rd K.qualLast % 2 ^ 64 + qualTicks ≤ s.now) :
    ∃ t, exec (.qualificationEnd failed) s = .next t ∧ t.lnk.qualRun = false := by
  have hguard : ¬ ((!s.lnk.qualRun || decide (s.now < s.rd K.qualLast % 2 ^ 64 + qualTicks)) = true) := by simpa [hrun] using hend
  refine ⟨_, congrArg Host.Outcome.next (if_neg hguard), ?_⟩
  dsimp only
  rw [State.each_keeps (g := fun t => t.lnk.qualRun), State.each_keeps (g := fun t => t.lnk.qualRun),
    State.each_keeps (g := fun t => t.lnk.qualRun)]
  · rfl
  · exact fun t p => rfl
  · exact fun t n => rfl
  · exact fun t n => t.fpStart_qualRun n 1

/-! ### The daily check -/

/-- The fabric ports stand under their numbers and the daily check of port `n` tests its spare. -/
def State.SpareTested (n : Nat) (s : State) : Prop := s.lnk.fp.map FPort.n = List.range 16 ∧ (s.fport n).dayTest = some 16

theorem State.fp_n_setFp (hu : s.lnk.fp.map FPort.n = List.range 16) {f : FPort → FPort} (hf : ∀ p, (f p).n = p.n) (m : Nat) :
    (s.setFp m f).lnk.fp.map FPort.n = List.range 16 :=
  (map_mapIf _ f FPort.n hf s.lnk.fp).trans hu

theorem State.fp_n_startFpQual (hu : s.lnk.fp.map FPort.n = List.range 16) (m : Nat) :
    (s.startFpQual m).lnk.fp.map FPort.n = List.range 16 :=
  State.fp_n_setFp hu (f := fun p => { p with dayTest := some 16 }) (fun _ => rfl) m

theorem State.startFpQual_tests (hu : s.lnk.fp.map FPort.n = List.range 16) (hn : n < 16) : (s.startFpQual n).SpareTested n :=
  ⟨State.fp_n_startFpQual hu n, congrArg FPort.dayTest (State.fport_setFp_self _ hu hn)⟩

theorem State.SpareTested.startFpQual (h : s.SpareTested n) (hn : n < 16) (m : Nat) : (s.startFpQual m).SpareTested n := by
  by_cases hm : n = m
  · exact hm ▸ State.startFpQual_tests h.1 hn
  · exact ⟨State.fp_n_startFpQual h.1 m,
      (congrArg FPort.dayTest (State.fport_setFp_ne (s := s) (fun p => { p with dayTest := some 16 }) h.1 hn hm)).trans h.2⟩

theorem State.each_preserves {α : Type} {P : State → Prop} {f : State → α → State} (hf : ∀ s a, P s → P (f s a)) (l : List α)
    (h : P s) : P (s.each l f) := by
  induction l generalizing s with
  | nil => exact h
  | cons a l ih => exact ih (hf s a h)

theorem State.each_startFpQual (hu : s.lnk.fp.map FPort.n = List.range 16) (hn : n < 16) {l : List Nat} (hl : n ∈ l) :
    (s.each l State.startFpQual).SpareTested n := by
  induction l generalizing s with
  | nil => simp at hl
  | cons a l ih =>
    obtain rfl | hl := List.mem_cons.1 hl
    · exact State.each_preserves (P := State.SpareTested n) (fun t m ht => ht.startFpQual hn m) l (State.startFpQual_tests hu hn)
    · exact ih (State.fp_n_startFpQual hu a) hl

theorem State.SpareTested.of_fp {t : State} (h : s.SpareTested n) (hfp : t.lnk.fp = s.lnk.fp) : t.SpareTested n := by
  simpa only [State.SpareTested, State.fport, hfp] using h

theorem State.fp_startApQual (s : State) (b : Nat) : (if ((s.startApQual b).aport b).dayTest = some 0 then
    (s.startApQual b).qualStatusIs (16 + b) 3 else (s.startApQual b).apOverdue b).lnk.fp = s.lnk.fp := by
  unfold State.apOverdue
  (repeat' split) <;> rfl

theorem exec_dailyQualification (hu : s.lnk.fp.map FPort.n = List.range 16) (hn : n < 16) (hrot : s.fpCanRotate n = true)
    (hlead : s.mid < s.midAt n) (hday : s.taiSecond = s.rd K.qualPhase) :
    ∃ t, exec .dailyQualification s = .next t ∧ (t.fport n).dayTest = some 16 := by
  refine ⟨_, congrArg Host.Outcome.next (if_neg (not_not.2 hday)), ?_⟩
  have hmem : n ∈ (List.range 16).filter fun n => s.fpCanRotate n && decide (s.mid < s.midAt n) := by simp [hn, hrot, hlead]
  refine ((State.each_startFpQual hu hn hmem).of_fp ?_).2
  exact State.each_keeps (g := fun t => t.lnk.fp) State.fp_startApQual _ _

/-- Settles O37: the tests by their entries, the daily check by the ports whose spare is tested. -/
theorem linkTests : Obligations.LinkTests := by
  refine ⟨fun s o n lane v hn hl hv => ⟨fun ha => ⟨exec_txTaps_ok hn hl ha, exec_txTaps_bad hn hl ha⟩,
      fun ha hrsv hlane hkeep => ⟨exec_prbsCtrl_ok hn ha hrsv hlane hkeep, exec_prbsCtrl_used hn ha⟩,
      fun ha hlane hcount hgap => ⟨exec_inject_ok hn ha hlane hcount hgap, exec_inject_strong hn ha hcount hgap⟩⟩,
    fun s o => ⟨fun ha => ⟨exec_qualNow_refused ha, fun hlife hrun => ⟨s.qualBegun, exec_qualNow_run ha hlife hrun, State.rd_wr_self _ _, ?_⟩⟩,
      exec_qualificationEnd, fun n hu hn htr hmap hday => ?_, fun hday => congrArg Host.Outcome.next (if_pos hday),
      fun n i errors hn hday hfree => ⟨fun hfew => ?_, fun hmany => ?_⟩, fun n t errors hn hday ht hfew => ?_⟩⟩
  · exact (State.rd_wr_ne _ _ _ (by decide)).trans (State.rd_wr_self _ _)
  · have hrot : s.fpCanRotate n = true := by simp [State.fpCanRotate, htr, hmap, hday]
    refine ⟨fun hlead hsec => exec_dailyQualification hu.1 hn hrot hlead hsec, fun hfollow => ?_⟩
    exact congrArg Host.Outcome.next ((if_pos rfl).trans (if_pos (by simp [hn, hrot, hfollow])))
  · change execQualLaneTestEnd (.fp n) errors s = _
    simp [execQualLaneTestEnd, Nat.not_le.2 hn, hday, hfree, Nat.not_lt.2 hfew]
  · change execQualLaneTestEnd (.fp n) errors s = _
    simp [execQualLaneTestEnd, Nat.not_le.2 hn, hday, hfree, hmany]
  · change execQualLaneTestEnd (.ap n) errors s = _
    simp [execQualLaneTestEnd, Nat.not_le.2 hn, hday, ht, Nat.not_le.2 (Nat.lt_trans ht (Nat.lt_succ_self 7)), Nat.not_lt.2 hfew]

end Sys2Proof.Machine

/-! Proofs about the CXL ports and the flits of an attach port (chapters 11 and 12). -/

namespace Sys2Proof.Machine

open Sys2Proof

variable {s : State} {o : Origin} {n cp : Nat}

section CxlPorts

variable (f : CPort → CPort)

theorem State.cport_setCp_self (hu : s.lnk.cp.map CPort.n = List.range 4) (hcp : cp < 4) : (s.setCp cp f).cport cp = f (s.cport cp) := by
  obtain ⟨hlen, hnum⟩ := num_getD_of_range (CPort.init cp) hu hcp
  exact (getD_mapIf (CPort.init cp) hlen).trans (if_pos (decide_eq_true hnum))

theorem State.cp_n_setCp (hu : s.lnk.cp.map CPort.n = List.range 4) (hf : ∀ p, (f p).n = p.n) (m : Nat) :
    (s.setCp m f).lnk.cp.map CPort.n = List.range 4 :=
  (map_mapIf _ f CPort.n hf s.lnk.cp).trans hu

@[simp] theorem State.rd_setCp (k : Nat) : (s.setCp cp f).rd k = s.rd k := rfl

end CxlPorts

/-! ### Links to hosts and expanders -/

theorem exec_cpLinkUp_host {serial bytes link : Nat} (hcp : cp < 4) (hmode : s.rd (K.cpMode cp) = 1) (hlive : s.attachLive = true)
    (hdown : (s.cport cp).up = false) : exec (.cpLinkUp ⟨s.mid, cp⟩ serial bytes link) s =
      .next ((((s.setCp cp fun p => { p with up := true }).wr (K.cpLink cp) (link % 2 ^ 32)).hostBack s.mid cp).advertise cp) := by
  change execCpLinkUp ⟨s.mid, cp⟩ serial bytes link s = _
  simp [execCpLinkUp, Nat.not_le.2 hcp, hmode, hlive, hdown]

theorem exec_cpLinkUp_expander {serial bytes link : Nat} (hcp : cp < 4) (hmode : s.rd (K.cpMode cp) = 2) (hlive : s.attachLive = true)
    (hdown : (s.cport cp).up = false) : exec (.cpLinkUp ⟨s.mid, cp⟩ serial bytes link) s =
      .next ((((((s.setCp cp fun p => { p with up := true }).wr (K.cpLink cp) (link % 2 ^ 32)).wr (K.expSerial cp) serial).setCp cp fun p =>
        { p with expOff := p.expOff || (s.rd (K.expSerial cp) ≠ 0 && s.rd (K.expSerial cp) ≠ serial), expBytes := min bytes (2 ^ 41) })).fillExpander
          cp (s.cport cp).expBytes (min bytes (2 ^ 41))) := by
  change execCpLinkUp ⟨s.mid, cp⟩ serial bytes link s = _
  simp [execCpLinkUp, Nat.not_le.2 hcp, hmode, hlive, hdown]

theorem State.fillExpander_frame (s : State) (c old bytes : Nat) : State.Only [.fills] s (s.fillExpander c old bytes) :=
  State.fillExpander_only (List.Subset.refl _) (.refl _ s) c old bytes

/-- Two changes of a port, with writes of entries between them. -/
theorem State.cport_setCp_wr_setCp (hu : s.lnk.cp.map CPort.n = List.range 4) (hcp : cp < 4) {f : CPort → CPort}
    (hf : ∀ p, (f p).n = p.n) (g : CPort → CPort) (j k v w : Nat) :
    ((((s.setCp cp f).wr j v).wr k w).setCp cp g).cport cp = g (f (s.cport cp)) :=
  (State.cport_setCp_self (s := ((s.setCp cp f).wr j v).wr k w) g (State.cp_n_setCp f hu hf cp) hcp).trans
    (congrArg g (State.cport_setCp_self f hu hcp))

theorem State.cport_fillExpander (c old bytes : Nat) : (s.fillExpander c old bytes).cport cp = s.cport cp :=
  congrArg (fun l : Links => l.cp.getD cp (CPort.init cp)) ((s.fillExpander_frame c old bytes).agrees .lnk rfl)

theorem State.rd_fillExpander (c old bytes k : Nat) : (s.fillExpander c old bytes).rd k = s.rd k :=
  State.rd_congr ((s.fillExpander_frame c old bytes).agrees .od rfl) k

theorem exec_expEnable (hcp : cp < 4) (ha : s.allows o (K.expEnable cp) 0 = true) :
    exec (.expEnable o cp 1) s = .next ((s.setCp cp fun q => { q with expOff := false }).reply o Status.ok false []) := by
  have hentry : entryOf (K.expEnable cp / 256) (K.expEnable cp % 256) = some ⟨1, 1, .wo, 0, .enum 2, false, 0⟩ := by
    interval_cases cp <;> rfl
  have hset := State.settle_of_fit (s := s) (o := o) (tail := 0) (v := 1) hentry rfl rfl ((s.senderPid o).getD 0)
  refine congrArg Host.Outcome.next (State.commandIf_effect (d := .ok) (decide_eq_true hcp) ha ?_)
  dsimp only
  rw [hset]
  rfl

/-! ### What a host sets -/

theorem not_hostGuard (hcp : cp < 4) (hmode : s.rd (K.cpMode cp) = 1) (hup : (s.cport cp).up = true) :
    ¬ (4 ≤ cp || s.rd (K.cpMode cp) ≠ 1 || !(s.cport cp).up) = true := by
  simpa [hmode, hup] using hcp

theorem testBit_top_bit (x : Nat) (b : Bool) : (x % 2 ^ 24 + b2n b * 2 ^ 24).testBit 24 = b := by
  have hlt : x % 2 ^ 24 < 2 ^ 24 := Nat.mod_lt _ (by decide)
  rw [Nat.add_comm, Nat.mul_comm]
  cases b
  · simpa [b2n] using Nat.testBit_lt_two_pow hlt
  · rw [b2n, if_pos rfl, Nat.testBit_two_pow_mul_add _ hlt, if_neg (by decide)]
    decide

/-! ### Flits -/

theorem exec_flitReceived_good {f : Flit} (hn : n < 16) (hbond : s.bondOf n = n) (htr : s.apTrained n = true) (hcrc : f.fcrc = flitCrc f)
    (hseq : bits f.head 63 52 = (s.aport n).rxExpect) (hack : f.head.testBit 39 = false) (hnak : f.head.testBit 38 = false) :
    exec (.flitReceived n f) s = .next (((((s.setAp n fun q => { q with rxExpect := (q.rxExpect + 1) % 4096, nakSent := false }).flitCredit
      n (bits f.head 31 16)).flitCredit n (bits f.head 15 0)).flitSend n).settleAll) := by
  change execFlitReceived n f s = _
  simp [execFlitReceived, Nat.not_le.2 hn, hbond, htr, ← hcrc, hseq, hack, hnak]

theorem exec_flitReceived_bad {f : Flit} (hn : n < 16) (hbond : s.bondOf n = n) (htr : s.apTrained n = true)
    (hbad : f.fcrc ≠ flitCrc f ∨ bits f.head 63 52 ≠ (s.aport n).rxExpect) :
    exec (.flitReceived n f) s = .next (if (s.aport n).nakSent = true then s
      else (s.setAp n fun q => { q with nakSent := true }).emit (.flit n (s.aport n).txSeq (((s.aport n).rxExpect + 4095) % 4096) true)) := by
  change execFlitReceived n f s = _
  have hguard : ¬ (16 ≤ n || s.bondOf n ≠ n || !s.apTrained n) = true := by simpa [hbond, htr] using hn
  exact congrArg Host.Outcome.next ((if_neg hguard).trans (if_pos (by simpa using hbad)))

theorem exec_flitReplay (hn : n < 16) (hbond : s.bondOf n = n) (htr : s.apTrained n = true) (a : Nat) :
    exec (.flitReplay n a) s = .next ((s.flitAck n (a % 4096)).flitResend n).settleAll := by
  have hguard : ¬ (16 ≤ n || s.bondOf n ≠ n || !s.apTrained n) = true := by simpa [hbond, htr] using hn
  exact congrArg Host.Outcome.next (if_neg hguard)

/-- Settles O38: the ports by their commands, the expander by what its port and its serial number read afterwards. -/
theorem cxlAndFlits : Obligations.CxlAndFlits := by
  refine ⟨fun s cp hcp => ⟨congrArg Host.Outcome.next (if_pos hcp), fun serial bytes link => exec_cpLinkUp_host hcp,
      fun mid serial bytes link hmid hlost => ?_, fun serial bytes link hu hmode hlive hdown _ =>
        ⟨_, exec_cpLinkUp_expander hcp hmode hlive hdown, ?_, ?_, ?_⟩,
      fun o => exec_expEnable hcp, fun hmode hup => ⟨fun v => congrArg Host.Outcome.next (if_neg (not_hostGuard hcp hmode hup)), fun b => congrArg Host.Outcome.next (if_neg (not_hostGuard hcp hmode hup)),
        fun b => ⟨_, congrArg Host.Outcome.next (if_neg (not_hostGuard hcp hmode hup)), fun e he => ?_⟩,
        fun b => ⟨_, congrArg Host.Outcome.next (if_neg (not_hostGuard hcp hmode hup)), ?_⟩⟩⟩,
    fun s n f hn => ⟨fun hbond htr => ⟨exec_flitReceived_good hn hbond htr, fun hbad => ⟨fun hnak => ?_, fun hnak => ?_⟩,
      exec_flitReplay hn hbond htr⟩, congrArg Host.Outcome.next (if_pos hn)⟩⟩
  · change execCpLinkUp ⟨mid, cp⟩ serial bytes link s = _
    simp [execCpLinkUp, Nat.not_le.2 hcp, hmid, hlost]
  · rw [State.cport_fillExpander, State.cport_setCp_wr_setCp hu.2.2.1 hcp]
    exact fun _ => rfl
  · rw [State.rd_fillExpander, State.rd_setCp, State.rd_wr_self]
  · rw [State.cport_fillExpander, State.cport_setCp_wr_setCp hu.2.2.1 hcp]
    exact fun _ => rfl
  · cases b
    · exact ⟨(List.mem_filter.1 he).1, fun _ => of_decide_eq_true (List.mem_filter.1 he).2⟩
    · exact ⟨he, fun h => nomatch h⟩
  · rw [State.rd_wr_self]
    exact testBit_top_bit _ b
  · rw [exec_flitReceived_bad hn hbond htr hbad, if_pos hnak]
  · rw [exec_flitReceived_bad hn hbond htr hbad, if_neg (by simp [hnak])]

end Sys2Proof.Machine

/-! Proofs about headers, tails, whole frames and the arbitration of an egress (chapter 10). -/

namespace Sys2Proof.Machine

open Sys2Proof

variable {s : State} {f : Frame} {id e : Nat} {c : CoreFrame}

/-! ### Headers (R215 to R217) -/

theorem exec_frameHeaderArrival {ingress : Nat} {seen : NMap} {r : State × List MirSel} {egrs : List Nat}
    (hon : s.fabricOn ingress = true) (hcls : s.classIn f.tc = true) (hchk : f.hchk = f.hchkOf)
    (hcred : s.hasCredit ingress f.tc f.cells = true)
    (hr : r = (s.setFp ingress fun p => { p with keyIn := p.keyIn + 1 }).mirSelectAll 0 ingress ingress f)
    (hegr : r.1.egrsFor f = some egrs) (hway : f.dst = r.1.mid ∨ r.1.fabricOn (r.1.portTo f.dst) = true) :
    exec (.frameHeaderArrival ingress f seen) s =
      .next (((r.1.coreIn ingress f egrs 0 r.2 none seen).ungatedRaise f egrs)).settleCells := by
  have hguard : (!s.fabricOn ingress || !s.classIn f.tc || f.hchk ≠ f.hchkOf || !s.hasCredit ingress f.tc f.cells) = false := by
    simp [hon, hcls, ← hchk, hcred]
  have hout : ¬ (decide (f.dst ≠ r.1.mid) && !r.1.fabricOn (r.1.portTo f.dst)) = true := by
    obtain hway | hway := hway <;> simp [hway]
  change execFrameHeaderArrival ingress f seen s = _
  rw [execFrameHeaderArrival, hguard, if_neg Bool.false_ne_true, ← hr]
  simp only [hegr, hout, Bool.false_eq_true, if_false]

theorem exec_frameHeaderArrival_none {ingress : Nat} {seen : NMap}
    (hbad : f.hchk ≠ f.hchkOf ∨ s.classIn f.tc = false ∨ s.hasCredit ingress f.tc f.cells = false) :
    exec (.frameHeaderArrival ingress f seen) s = .next s := by
  refine congrArg Host.Outcome.next (if_pos ?_)
  obtain h | h | h := hbad <;> simp [h]

/-! ### Tails (R218 to R220) -/

section Tails

variable (hc : (s.sw.frames.find? fun c => c.id = id) = some c)
include hc

theorem exec_frameTailArrival_good (hun : c.unjudged = true) (hlate : s.lateFrame c = false) :
    exec (.frameTailArrival id .good true false) s = .next (s.goodTail c) := by
  change execFrameTailArrival id .good true false s = _
  simp [execFrameTailArrival, hc, hun, hlate]

theorem exec_frameTailArrival_fec (hun : c.unjudged = true) (hlate : s.lateFrame c = false) (marked : Bool) :
    exec (.frameTailArrival id .fec true marked) s = .next ((s.fecNote c false).badTail c).settleCells := by
  change execFrameTailArrival id .fec true marked s = _
  simp [execFrameTailArrival, hc, hun, hlate]

theorem exec_frameTailArrival_check (hun : c.unjudged = true) (hlate : s.lateFrame c = false) (marked : Bool) :
    exec (.frameTailArrival id .check true marked) s = .next (s.badTail c).settleCells := by
  change execFrameTailArrival id .check true marked s = _
  simp [execFrameTailArrival, hc, hun, hlate, State.fecNote]

theorem exec_frameTailArrival_marked (hun : c.unjudged = true) (hlate : s.lateFrame c = false) :
    exec (.frameTailArrival id .good true true) s = .next (s.badTail c).settleCells := by
  change execFrameTailArrival id .good true true s = _
  simp [execFrameTailArrival, hc, hun, hlate, State.fecNote]

theorem exec_frameTailArrival_auth (hun : c.unjudged = true) (hop : HopVerdict) (marked : Bool) :
    exec (.frameTailArrival id hop false marked) s =
      .next (((s.lateNote c.f.pid).fecNote c (decide (hop ≠ .fec))).badTail c).settleCells := by
  change execFrameTailArrival id hop false marked s = _
  simp [execFrameTailArrival, hc, hun]

end Tails

theorem CoreFrame.unjudged_of_running (h : c.tail = 0) : c.unjudged = true := by simp [CoreFrame.unjudged, h]

/-! ### Whole frames at their destination (R221, R222, R262) -/

section Delivery

variable (hc : (s.sw.frames.find? fun c => c.id = id) = some c) (htail : c.tail = 1)
  (he : (c.started.find? fun e => decide (16 ≤ e)) = some e)
include hc htail he

theorem exec_frameDelivery_corrupt (hbad : c.f.ecrc ≠ c.f.ecrcOf) :
    exec (.frameDelivery id) s = .next ((s.bump K.e2eCrcFails 1).dropCopies id) := by
  change execFrameDelivery id s = _
  simp only [execFrameDelivery, hc, htail, he, if_true, hbad, ne_eq, not_false_eq_true]

theorem exec_frameDelivery_undefined (hcrc : c.f.ecrc = c.f.ecrcOf) (hop : c.f.opOk = false) :
    exec (.frameDelivery id) s = .next ((s.bump K.staleDrops 1).dropCopies id) := by
  change execFrameDelivery id s = _
  simp only [execFrameDelivery, hc, htail, he, if_true, hcrc, hop, ne_eq, not_true_eq_false, if_false, Bool.not_false]

theorem exec_frameDelivery_new (hcrc : c.f.ecrc = c.f.ecrcOf) (hop : c.f.opOk = true) (hj : c.judged = false)
    (hgen : genChecked c.f = true → c.f.src ≠ s.mid → c.f.gen = s.rd K.routeGen)
    (hgo : (s.setCore id fun d => { d with started := d.started.erase e, judged := true }).goesOn c.f = true) :
    exec (.frameDelivery id) s = .next ((((s.setCore id fun d => { d with started := d.started.erase e, judged := true }).coreOut
      id).targetFrame c.f e c.loc).settleAll).settleCells := by
  have hcur : ¬ (genChecked c.f && c.f.src ≠ s.mid && c.f.gen ≠ s.rd K.routeGen) = true := by
    simpa using hgen
  change execFrameDelivery id s = _
  simp only [execFrameDelivery, hc, htail, he, if_true, hcrc, hop, hj, hcur, hgo, ne_eq, not_true_eq_false, if_false, Bool.not_true,
    Bool.false_eq_true]

end Delivery

/-! ### Arbitration (R223 to R225) -/

theorem mem_of_mem_triples {tc : Nat} {l : List CoreFrame} : ∀ {seen : List Nat}, c ∈ triples e tc l seen → c ∈ l ∧ c.f.tc = tc := by
  induction l with
  | nil => exact fun h => nomatch h
  | cons a l ih =>
    intro seen h
    rw [triples] at h
    split at h
    · rename_i ha
      obtain rfl | h := List.mem_cons.1 h
      · simp only [Bool.and_eq_true, decide_eq_true_eq] at ha
        exact ⟨List.mem_cons_self, ha.1.1⟩
      · exact ⟨List.mem_cons_of_mem _ (ih h).1, (ih h).2⟩
    · exact ⟨List.mem_cons_of_mem _ (ih h).1, (ih h).2⟩

/-- In an open gate only a frame of class 1 of the core starts that the gate passes and that ends by its closing edge. -/
theorem State.gatePick_spec {g : Gate} (h : s.gatePick g e = some c) : s.gatePasses g c.f = true ∧ c.f.tc = 1 ∧
    s.now + s.cellTicks e c.cells ≤ g.closeAt ∧ c ∈ s.sw.frames := by
  have hfits := List.find?_some h
  simp only [Bool.and_eq_true, decide_eq_true_eq] at hfits
  obtain ⟨hmem, htc⟩ := mem_of_mem_triples (List.mem_filter.1 (List.mem_of_find?_eq_some h)).1
  exact ⟨hfits.1, htc, hfits.2, hmem⟩

theorem State.arbitrate_of_gate {g : Gate} {s1 : State} (hg : s.openGate e = some g) (h : s.arbitrate e = (s1, some c)) :
    s1 = s ∧ s.gatePick g e = some c := by
  rw [State.arbitrate, hg] at h
  obtain ⟨rfl, hpick⟩ := Prod.mk.inj h
  refine ⟨rfl, ?_⟩
  split at hpick
  · exact nomatch hpick
  · exact hpick

theorem State.arbitrate_of_turn_zero (hg : s.openGate e = none) (h0 : s.turn e 0 = some c) : s.arbitrate e = (s, some c) := by
  simp [State.arbitrate, hg, h0]

/-- Settles O30: headers, tails and deliveries by their branches, an open gate by what its pick satisfies. -/
theorem headersAndFrames : Obligations.HeadersAndFrames := by
  refine ⟨fun s => ⟨fun ingress f seen r egrs => exec_frameHeaderArrival, fun ingress f seen => exec_frameHeaderArrival_none,
      fun id c hc htail => ?_, fun id c hc htail hlo hhi hst hpark => ?_⟩,
    fun s id e c hc htail he => ⟨exec_frameDelivery_corrupt hc htail he, exec_frameDelivery_undefined hc htail he,
      exec_frameDelivery_new hc htail he⟩,
    fun s e seen => ⟨fun s1 c hfree h => ?_, fun s1 hfree h => ?_, fun hg c => State.arbitrate_of_turn_zero hg,
      fun g s1 c hg h => ⟨(State.arbitrate_of_gate hg h).1, State.gatePick_spec (State.arbitrate_of_gate hg h).2⟩⟩⟩
  · have hun := CoreFrame.unjudged_of_running htail
    exact ⟨exec_frameTailArrival_good hc hun, fun m hl => exec_frameTailArrival_fec hc hun hl m,
      fun m hl => exec_frameTailArrival_check hc hun hl m, exec_frameTailArrival_marked hc hun, exec_frameTailArrival_auth hc hun⟩
  · have hun : c.unjudged = true := by simp [CoreFrame.unjudged, htail, hlo, hhi, hst, hpark]
    have hlate : s.lateFrame c = false := by simp [State.lateFrame, Nat.not_lt.2 hlo]
    exact exec_frameTailArrival_marked hc hun hlate
  · change execEgressArbitration e seen s = _
    simp [execEgressArbitration, hfree, h]
  · change execEgressArbitration e seen s = _
    simp [execEgressArbitration, hfree, h]

end Sys2Proof.Machine

/-! Proofs about the life of a flow: load, launch, start, end, unload (chapters 5 and 8). -/

namespace Sys2Proof.Machine

open Sys2Proof

variable {s : State} {o : Origin} {pid flow fva len : Nat} {f : Flow}

/-! ### Loading a flow (R126 to R129) -/

theorem exec_flowLoad (ha : s.allows o K.flowLoad pid = true) (hlife : s.life.mstate = .member) (hpart : s.pstate pid = 1)
    (hal : fva % 4096 = 0) (hfva : fva < 2 ^ 57) (hep : s.lowEp.isSome = true) (hlo : 64 ≤ len) (hhi : len ≤ 4194304) :
    exec (.flowLoad o pid fva len) s = .next ((s.moduleRead pid fva len).1.mapStn fun x => { x with
      loads := x.loads ++ [⟨o, pid, fva, len, (s.moduleRead pid fva len).2⟩] }) := by
  have hnone : s.lowEp.isNone = false := Option.isNone_eq_false_iff.2 hep
  have hlow : ¬ 144115188075855872 ≤ fva := Nat.not_le.2 hfva
  change execFlowLoad o pid fva len s = _
  rw [execFlowLoad, State.command_of_allows _ ha]
  simp [hlife, hpart, hal, hlow, hnone, Nat.not_lt.2 hlo, Nat.not_lt.2 hhi, State.finish]

section LoadComplete

variable {l : ImageLoad} (hl : (s.stn.loads.find? fun l => l.pid = pid && l.fva = fva && l.len = len) = some l)
include hl

theorem exec_flowLoadComplete_open (hend : s.readEnd l.tx l.len = .open_) : exec (.flowLoadComplete pid fva len) s = .next s := by
  change execFlowLoadComplete pid fva len s = _
  simp only [execFlowLoadComplete, hl, hend]

theorem exec_flowLoadComplete_failed {st : Nat} (hend : s.readEnd l.tx l.len = .failed st) (hst : st ≠ Status.refused) :
    exec (.flowLoadComplete pid fva len) s =
      .next (((s.mapStn fun x => { x with loads := x.loads.erase l }).dropTx l.tx).reply l.origin st false []) := by
  change execFlowLoadComplete pid fva len s = _
  simp only [execFlowLoadComplete, hl, hend, State.loadEnds, hst, if_false]

theorem exec_flowLoadComplete_ok {d : List Byte} (hend : s.readEnd l.tx l.len = .ok d) :
    exec (.flowLoadComplete pid fva len) s = .next (s.loadImage l d) := by
  change execFlowLoadComplete pid fva len s = _
  simp only [execFlowLoadComplete, hl, hend]

end LoadComplete

theorem State.loadImage_good {l : ImageLoad} {d : List Byte} {m : Img} {pl : List (ImgStn × Place)} {w : Bool}
    (hpart : s.pstate l.pid = 1) (hparse : parseImg d l.len = some m) (hok : s.loadOk l.pid m = true)
    (hplace : s.place l.pid m = (some pl, w)) : s.loadImage l d =
      ((((s.mapStn fun x => { x with loads := x.loads.erase l }).dropTx l.tx).install l.pid m pl).measure l.pid 0 m.head.flow l.fva
        m.head.bytes (sha384 m.raw)).reply l.origin Status.ok false [] := by
  have hnot : ¬ Status.ok = Status.refused := by decide
  simp only [State.loadImage, hpart, hparse, hok, hplace, State.loadEnds, hnot, ne_eq, not_true_eq_false, if_false, Bool.not_true,
    Bool.false_eq_true]

/-! ### Launch and start (R130, R131) -/

theorem exec_flowLaunch {T : Nat} (ha : s.allows o K.flowLaunch pid = true) (hf : s.flowGet pid flow = some f) (hpart : s.pstate pid ≠ 2) :
    exec (.flowLaunch o pid flow T) s = .next (
      if (s.life.mstate = .member ∨ s.life.mstate = .shadow) ∧ s.locked = true ∧ s.now + 25000 ≤ T ∧ T ≤ s.now + 12500000000 ∧
          f.fst = .loaded ∧ f.unloading = false ∧ s.setAt f T = true then
        (s.setFlow pid flow fun f => { f with fst := .armed, t := T }).reply o Status.ok false []
      else s.reply o Status.refused false []) := by
  change execFlowLaunch o pid flow T s = _
  rw [execFlowLaunch, State.command_of_allows _ ha]
  simp only [hf, hpart, if_false, Bool.and_eq_true, Bool.or_eq_true, decide_eq_true_eq, Bool.not_eq_true', and_assoc]
  split <;> rfl

/-- The stations of a flow. -/
def ofFlow (pid flow : Nat) (i : Inst) : Bool := i.who.pid = pid && i.who.flow = flow

theorem ofFlow_iff {i : Inst} : ofFlow pid flow i = true ↔ i.who.pid = pid ∧ i.who.flow = flow := by simp [ofFlow]

/-- The state in which a flow has started: it runs, its stations stand at their beginning, its gate entries begin anew. -/
def State.flowStarted (s : State) (pid flow t : Nat) : State :=
  (((s.setFlow pid flow fun f => { f with fst := .running }).mapStn fun x => { x with
    insts := mapIf (ofFlow pid flow) (s.startInst t) x.insts }).freshGates pid flow).mapShd fun h => { h with
      startAt := if h.running then h.startAt.or (some s.now) else h.startAt
      outs := h.outs.filter fun w => !(w.pid = pid && w.flow = flow) }

theorem State.flowStarted_insts (t : Nat) :
    (s.flowStarted pid flow t).stn.insts = mapIf (ofFlow pid flow) (s.startInst t) s.stn.insts := rfl

/-- A station of a flow that has started is one that the flow had before, at its beginning. -/
theorem State.inst_of_flowStarted {t : Nat} {i : Inst} (hi : i ∈ (s.flowStarted pid flow t).stn.insts) (hof : ofFlow pid flow i = true) :
    ∃ j ∈ s.stn.insts, ofFlow pid flow j = true ∧ i = s.startInst t j := by
  rw [State.flowStarted_insts, mapIf] at hi
  obtain ⟨j, hj, rfl⟩ := List.mem_map.1 hi
  by_cases hjof : ofFlow pid flow j = true
  · exact ⟨j, hj, hjof, if_pos hjof⟩
  · rw [if_neg hjof] at hof
    exact absurd hof hjof

theorem exec_flowStart (hf : s.flowGet pid flow = some f) (harm : f.fst = .armed) (hat : f.t ≤ s.now) (hin : s.inService = true)
    (hgood : ∀ i ∈ s.stn.insts, i.who.pid = pid → i.who.flow = flow → i.badHead = false) :
    exec (.flowStart pid flow) s = .next (s.flowStarted pid flow f.t) := by
  have hnone : ((s.flowStarted pid flow f.t).stn.insts.find? fun i => ofFlow pid flow i && i.badHead) = none := by
    refine List.find?_eq_none.2 fun i hi hbad => ?_
    obtain ⟨hof, hhead⟩ := (Bool.and_eq_true _ _).mp hbad
    obtain ⟨j, hj, hjof, rfl⟩ := State.inst_of_flowStarted hi hof
    have hj0 := hgood j hj (ofFlow_iff.1 hjof).1 (ofFlow_iff.1 hjof).2
    exact Bool.false_ne_true (hj0.symm.trans hhead)
  have hguard : ¬ (f.fst ≠ .armed || s.now < f.t || !(s.inService || s.life.mstate = .shadow)) = true := by
    simpa [harm, hin] using hat
  change execFlowStart pid flow s = _
  rw [execFlowStart, hf]
  refine congrArg Host.Outcome.next ((if_neg hguard).trans ?_)
  dsimp only
  split
  · rename_i i hi
    exact nomatch hnone.symm.trans hi
  · rfl

theorem State.flowStarted_flowGet (hf : s.flowGet pid flow = some f) (t : Nat) :
    (s.flowStarted pid flow t).flowGet pid flow = some { f with fst := .running } :=
  List.find?_mapIf_of_imp (f := fun f : Flow => { f with fst := .running }) (fun _ h => h) hf

/-- A register of a station that starts reads its value, also where that is 0 and the map does not hold it. -/
theorem State.startInst_x (t : Nat) (i : Inst) : nmGet (s.startInst t i).x 1 0 = s.stnMid ∧
    nmGet (s.startInst t i).x 2 0 = i.who.index ∧ nmGet (s.startInst t i).x 3 0 = t := by
  simp only [State.startInst, List.filter_cons, List.filter_nil]
  refine ⟨?_, ?_, ?_⟩ <;> (repeat' split) <;> simp_all [nmGet, mfind]

theorem State.flowStarted_gates (t : Nat) {g : Gate} (hg : g ∈ (s.flowStarted pid flow t).slu.act) (hp : g.pid = pid) (hf : g.flow = flow) :
    g.isOpen = false ∧ g.begun = false ∧ g.finished = [] := by
  obtain ⟨g0, -, rfl⟩ := List.mem_map.1 hg
  unfold Gate.fresh at hp hf ⊢
  split
  · exact ⟨rfl, rfl, rfl⟩
  · rename_i hne
    rw [if_neg hne] at hp hf
    exact absurd (by simp [hp, hf]) hne

theorem State.flowStarted_frame (s : State) (pid flow t : Nat) : State.Only [.stn, .shd, .slu] s (s.flowStarted pid flow t) := by
  have h1 : State.Only [.stn, .shd, .slu] s (s.setFlow pid flow fun f => { f with fst := .running }) :=
    State.setFlow_only (Sect.listed rfl) (.refl _ s) _ _ _
  exact State.mapShd_only (Sect.listed rfl) (State.freshGates_only (Sect.listed rfl) (State.mapStn_only (Sect.listed rfl) h1 _) _ _) _

/-! ### The end of a flow (R132, R133) -/

theorem exec_flowDone (hf : s.flowGet pid flow = some f) (hrun : f.fst = .running)
    (hall : ∀ i ∈ s.stn.insts, i.who.pid = pid → i.who.flow = flow → i.complete = true) (htx : s.flowTxs pid flow = [])
    (hsome : (∃ i ∈ s.stn.insts, i.who.pid = pid ∧ i.who.flow = flow) ∨ s.endsSeen pid flow = true) :
    exec (.flowDone pid flow) s = .next (s.setFlow pid flow fun f => { f with fst := .done, endedAt := s.now }).settleAll := by
  change execFlowDone pid flow s = _
  rw [execFlowDone, hf]
  refine congrArg Host.Outcome.next (if_pos ?_)
  have hcomplete : ((s.stn.insts.filter fun i => i.who.pid = pid && i.who.flow = flow).all fun i => i.complete) = true := by
    simp only [List.all_eq_true, List.mem_filter, Bool.and_eq_true, decide_eq_true_eq]
    exact fun i ⟨hi, hp, hw⟩ => hall i hi hp hw
  have hsome' : (!(s.stn.insts.filter fun i => i.who.pid = pid && i.who.flow = flow).isEmpty || s.endsSeen pid flow) = true := by
    simpa [List.filter_eq_nil_iff] using hsome
  simp only [hrun, hcomplete, htx, Bool.or_assoc, hsome', decide_true, List.isEmpty_nil, Bool.and_self, Bool.or_true]

theorem exec_flowAbort (ha : s.allows o K.flowAbort pid = true) (hf : s.flowGet pid flow = some f) :
    exec (.flowAbort o pid flow) s = .next ((s.failFlow pid flow Status.aborted noStation).settleAll.reply o Status.ok false []) := by
  change execFlowAbort o pid flow s = _
  rw [execFlowAbort, State.command_of_allows _ ha, hf]
  rfl

theorem exec_flowUnload (ha : s.allows o K.flowUnload pid = true) (hf : s.flowGet pid flow = some f) :
    exec (.flowUnload o pid flow) s = .next (
      if f.fst = .running then s.reply o Status.refused false []
      else if (f.fst = .done ∨ f.fst = .aborted) ∧ f.recDone = false then
        (s.setFlow pid flow fun f => { f with unloading := true }).reply o Status.ok false []
      else (s.removeFlow pid flow).reply o Status.ok false []) := by
  change execFlowUnload o pid flow s = _
  rw [execFlowUnload, State.command_of_allows _ ha, hf]
  simp only [Bool.and_eq_true, Bool.or_eq_true, decide_eq_true_eq, Bool.not_eq_true']
  (repeat' split) <;> rfl

theorem State.removeFlow_flowGet : (s.removeFlow pid flow).flowGet pid flow = none := by
  refine List.find?_eq_none.2 fun g hg hof => ?_
  obtain ⟨-, hnot⟩ := List.mem_filter.1 (show g ∈ List.filter _ _ from hg)
  simp only [hof, Bool.not_true] at hnot
  exact nomatch hnot

theorem exec_watchdogExpiry {who : InstRef} {i : Inst} {k t : Nat} (hi : s.instGet who = some i) (hst : i.starved = some (k, t))
    (hon : s.starvedOn i = some k) (hrun : s.running who.pid who.flow = true) (hw : i.watch ≠ 0) (ht : 1250 * i.watch < t) :
    exec (.watchdogExpiry who k) s = .next (s.failStation who Status.timeout).settleAll := by
  change execWatchdogExpiry who k s = _
  simp [execWatchdogExpiry, hi, hst, hon, hrun, hw, ht]

/-- Settles O49: the commands of a flow's life by their branches, its start by the state that it leaves. -/
theorem flowLife : Obligations.FlowLife := by
  refine ⟨fun s o pid flow fva len T => ⟨fun r ha hlife hpart hal hfva hep hlo hhi hr =>
        hr ▸ exec_flowLoad ha hlife hpart hal hfva hep hlo hhi,
      fun l s1 hl hs1 => ⟨exec_flowLoadComplete_open hl, fun d m pl w hend hpart hparse hok hplace => ?_,
        fun st hend hst => hs1 ▸ exec_flowLoadComplete_failed hl hend hst⟩,
      fun f ha hf hpart => ⟨fun hlife hlock hlo hhi hload hun hset => ?_, fun hout => ?_⟩,
      fun f hf harm hat hin hgood => ⟨_, exec_flowStart hf harm hat hin hgood, State.flowStarted_flowGet hf f.t, fun i hi hp hw => ?_,
        fun g hg hp hw => State.flowStarted_gates f.t hg hp hw, (s.flowStarted_frame pid flow f.t).2⟩⟩,
    fun s o pid flow f hf => ⟨exec_flowDone hf, fun ha => exec_flowAbort ha hf, fun ha => ⟨fun hrun => ?_, fun hend hrec => ?_,
      fun hst => ?_⟩, State.removeFlow_flowGet, fun who i k t => exec_watchdogExpiry⟩⟩
  · rw [exec_flowLoadComplete_ok hl hend, State.loadImage_good hpart hparse hok hplace, hs1]
  · exact (exec_flowLaunch ha hf hpart).trans (congrArg _ (if_pos ⟨.inl hlife, hlock, hlo, hhi, hload, hun, hset⟩))
  · exact (exec_flowLaunch ha hf hpart).trans (congrArg _ (if_neg fun h => by omega))
  · obtain ⟨j, -, -, rfl⟩ := State.inst_of_flowStarted hi (ofFlow_iff.2 ⟨hp, hw⟩)
    exact ⟨rfl, s.startInst_x f.t j⟩
  · rw [exec_flowUnload ha hf, if_pos hrun]
  · rw [exec_flowUnload ha hf, if_neg (by obtain h | h := hend <;> simp [h]), if_pos ⟨hend, hrec⟩]
  · rw [exec_flowUnload ha hf, if_neg (by obtain h | h | ⟨h | h, -⟩ := hst <;> simp [h]),
      if_neg (by obtain h | h | ⟨-, h⟩ := hst <;> simp [h])]

end Sys2Proof.Machine

/-! Proofs about the tiles that arrive at a consumer, spans, and instructions that wait for memory (chapter 5). -/

namespace Sys2Proof.Machine

open Sys2Proof

variable {s : State} {pid flow sid ci src : Nat} {x : Tile} {f : Flow} {st : Strm} {c : Cons}

/-! ### One element of the streams -/

theorem State.strmGet_setStrm (hst : s.strmGet pid flow sid = some st) {g : Strm → Strm}
    (hg : ∀ t : Strm, (g t).pid = t.pid ∧ (g t).flow = t.flow ∧ (g t).sid = t.sid) :
    (s.setStrm pid flow sid g).strmGet pid flow sid = some (g st) := by
  refine List.find?_mapIf (fun t => ?_) hst
  obtain ⟨h1, h2, h3⟩ := hg t
  rw [h1, h2, h3]

theorem State.strmGet_setCons (hst : s.strmGet pid flow sid = some st) (g : Cons → Cons) :
    (s.setCons pid flow sid ci g).strmGet pid flow sid = some { st with cons := mapIf (fun c => c.idx = ci) g st.cons } :=
  State.strmGet_setStrm hst fun _ => ⟨rfl, rfl, rfl⟩

theorem Strm.cons?_mapIf (hc : st.cons? ci = some c) {g : Cons → Cons} (hg : ∀ c, (g c).idx = c.idx) :
    ({ st with cons := mapIf (fun c => c.idx = ci) g st.cons } : Strm).cons? ci = some (g c) :=
  List.find?_mapIf (fun c => by rw [hg c]) hc

/-- The shadow's feed leaves the streams. -/
theorem State.feedTile_strmGet (who : InstRef) (k : Nat) (t : Tile) :
    (s.feedTile who k t).strmGet pid flow sid = s.strmGet pid flow sid := by
  unfold State.feedTile
  (repeat' split) <;> rfl

/-! ### Tiles that arrive (R115, R121) -/

theorem State.tileArrive_of_gone (hf : s.flowGet pid flow = none) (hsrc : src = s.mid) :
    s.tileArrive pid flow sid ci x src = s.bump (K.strayTiles pid) 1 := by
  simp only [State.tileArrive, hf, hsrc, if_true]

theorem State.tileArrive_of_ended (hf : s.flowGet pid flow = some f) (hend : f.fst = .done ∨ f.fst = .aborted) :
    s.tileArrive pid flow sid ci x src = s.bump (K.strayTiles pid) 1 := by
  have hd : (f.fst = .done || f.fst = .aborted) = true := by simpa using hend
  simp only [State.tileArrive, hf, hd, if_true]

/-- A consumer of a flow that has not ended gets the tile, unless it lies behind. -/
theorem State.tileArrive_of_cons (hf : s.flowGet pid flow = some f) (hd : f.fst ≠ .done) (ha : f.fst ≠ .aborted)
    (hst : s.strmGet pid flow sid = some st) (hc : st.cons? ci = some c) : s.tileArrive pid flow sid ci x src =
      if 2 ^ 31 ≤ (x.tnum + 2 ^ 32 - c.expect) % 2 ^ 32 then
        s.failFlow pid flow Status.counterWindow (c.station.getD noStation)
      else (s.setStrm pid flow sid fun st => { st with transit := st.transit ++ [(ci, x)] }).pumpTransit pid flow sid ci (4096 + 1) := by
  have hgo : ¬ (f.fst = .done || f.fst = .aborted) = true := by simp [hd, ha]
  simp only [State.tileArrive, hf, hst, Option.bind_some, hc]
  exact if_neg hgo

/-- Without the tile that is due nothing moves. -/
theorem State.pumpTransit_of_missing (hst : s.strmGet pid flow sid = some st) (hc : st.cons? ci = some c)
    (hmiss : (st.transit.find? fun e => e.1 = ci && e.2.tnum = c.expect) = none) (n : Nat) : s.pumpTransit pid flow sid ci n = s := by
  cases n with
  | zero => rfl
  | succ n => simp only [State.pumpTransit, hst, hc, hmiss]

/-- Without credits of an attach consumer nothing leaves towards it. -/
theorem State.pumpAttach_of_no_grant (hst : s.strmGet pid flow sid = some st) (hc : st.cons? ci = some c) (hg : c.grant = 0) (n : Nat) :
    s.pumpAttach pid flow sid ci n = s := by
  cases n with
  | zero => rfl
  | succ n =>
    simp only [State.pumpAttach, hst, Option.bind_some, hc, hg]
    split <;> simp

/-- A stream as a consumer's tile leaves it: the tile in its buffer, the next number due, nothing of it under way. -/
def Strm.tookDue (st : Strm) (ci : Nat) (x : Tile) : Strm :=
  { st with
    cons := mapIf (fun c => c.idx = ci) (fun c => { c with expect := (c.expect + 1) % 2 ^ 32 })
      (mapIf (fun c => c.idx = ci) (fun c => { c with buf := c.buf ++ [x] }) st.cons)
    transit := st.transit.filter fun e => !(e.1 = ci && e.2.tnum = x.tnum) }

theorem Strm.tookDue_cons (hc : st.cons? ci = some c) : (st.tookDue ci x).cons? ci =
    some { c with buf := c.buf ++ [x], expect := (c.expect + 1) % 2 ^ 32 } :=
  Strm.cons?_mapIf (st := { st with cons := mapIf (fun c => c.idx = ci) (fun c => { c with buf := c.buf ++ [x] }) st.cons })
    (Strm.cons?_mapIf hc fun _ => rfl) fun _ => rfl

/-- The tile that a consumer of this module expects goes into its buffer where that has room. -/
theorem State.pumpTransit_due {k : Nat} (hst : s.strmGet pid flow sid = some st) (hc : st.cons? ci = some c)
    (hfind : (st.transit.find? fun e => e.1 = ci && e.2.tnum = c.expect) = some (ci, x)) (hstn : c.station = some k) (hgrant : c.grant = 0)
    (hsp : c.spilled = []) (hroom : x.bytes ≤ st.free c) (n : Nat) : ∃ t : State,
      s.pumpTransit pid flow sid ci (n + 1) = t.pumpTransit pid flow sid ci n ∧ t.strmGet pid flow sid = some (st.tookDue ci x) := by
  have hinto : s.intoBuf pid flow sid ci x = (s.setCons pid flow sid ci fun c => { c with buf := c.buf ++ [x] }, .done) := by
    simp [State.intoBuf, hst, hc, hsp, hroom]
  have hfed := (State.feedTile_strmGet ⟨pid, flow, k⟩ sid x).trans (State.strmGet_setCons (ci := ci) hst fun c => { c with buf := c.buf ++ [x] })
  have hleft := State.strmGet_setStrm hfed (g := fun st => { st with transit := st.transit.filter fun e => !(e.1 = ci && e.2.tnum = x.tnum) })
    fun _ => ⟨rfl, rfl, rfl⟩
  have htook := State.strmGet_setCons (ci := ci) hleft fun c => { c with expect := (c.expect + 1) % 2 ^ 32 }
  refine ⟨_, ?_, htook⟩
  rw [State.pumpTransit, hst]
  simp only [hc, hfind, hstn, hinto]
  rw [State.pumpAttach_of_no_grant htook (Strm.tookDue_cons hc) hgrant]

/-- As the only tile under way it is also the last that moves. -/
theorem State.pumpTransit_only_due {k : Nat} (hst : s.strmGet pid flow sid = some st) (hc : st.cons? ci = some c)
    (htr : st.transit = [(ci, x)]) (hx : x.tnum = c.expect) (hstn : c.station = some k) (hgrant : c.grant = 0) (hsp : c.spilled = [])
    (hroom : x.bytes ≤ st.free c) (n : Nat) : (s.pumpTransit pid flow sid ci (n + 1)).strmGet pid flow sid = some (st.tookDue ci x) ∧
      (st.tookDue ci x).transit = [] := by
  have hnone : (st.tookDue ci x).transit = [] := by simp [Strm.tookDue, htr]
  obtain ⟨t, hpump, ht⟩ := State.pumpTransit_due hst hc (by simp [htr, hx]) hstn hgrant hsp hroom n
  refine ⟨?_, hnone⟩
  rw [hpump, State.pumpTransit_of_missing ht (Strm.tookDue_cons hc) (by rw [hnone]; rfl)]
  exact ht

theorem State.tileArrive_due (hf : s.flowGet pid flow = some f) (hd : f.fst ≠ .done) (ha : f.fst ≠ .aborted)
    (hst : s.strmGet pid flow sid = some st) (hc : st.cons? ci = some c) (hx : x.tnum = c.expect)
    (hstn : c.station.isSome = true) (hgrant : c.grant = 0) (hsp : c.spilled = []) (hroom : x.bytes ≤ st.free c) (htr : st.transit = []) :
    ∃ st' c', (s.tileArrive pid flow sid ci x src).strmGet pid flow sid = some st' ∧ st'.cons? ci = some c' ∧
      c'.buf = c.buf ++ [x] ∧ c'.expect = (c.expect + 1) % 2 ^ 32 ∧ st'.transit = [] := by
  obtain ⟨k, hk⟩ := Option.isSome_iff_exists.1 hstn
  have hput := State.strmGet_setStrm hst (g := fun st => { st with transit := st.transit ++ [(ci, x)] }) fun _ => ⟨rfl, rfl, rfl⟩
  obtain ⟨hget, hnone⟩ := State.pumpTransit_only_due hput hc (by rw [htr]; rfl) hx hk hgrant hsp hroom 4096
  refine ⟨({ st with transit := st.transit ++ [(ci, x)] } : Strm).tookDue ci x, _, ?_, Strm.tookDue_cons hc, rfl, rfl, hnone⟩
  rw [State.tileArrive_of_cons hf hd ha hst hc, if_neg (by omega)]
  exact hget

theorem State.tileArrive_later (hf : s.flowGet pid flow = some f) (hd : f.fst ≠ .done) (ha : f.fst ≠ .aborted)
    (hst : s.strmGet pid flow sid = some st) (hc : st.cons? ci = some c) (hx : x.tnum ≠ c.expect)
    (hahead : (x.tnum + 2 ^ 32 - c.expect) % 2 ^ 32 < 2 ^ 31)
    (hmiss : (st.transit.any fun e => e.1 = ci && e.2.tnum = c.expect) = false) :
    s.tileArrive pid flow sid ci x src = s.setStrm pid flow sid fun st => { st with transit := st.transit ++ [(ci, x)] } := by
  have hput := State.strmGet_setStrm hst (g := fun st => { st with transit := st.transit ++ [(ci, x)] }) fun _ => ⟨rfl, rfl, rfl⟩
  rw [State.tileArrive_of_cons hf hd ha hst hc, if_neg (by omega)]
  refine State.pumpTransit_of_missing hput hc (List.find?_eq_none.2 fun e he => ?_) _
  obtain he | he := List.mem_append.1 he
  · exact ne_true_of_eq_false (List.any_eq_false.1 hmiss e he |> Bool.eq_false_iff.2)
  · simp [List.mem_singleton.1 he, hx]

/-! ### Tiles that were spilled (R123) -/

theorem exec_spillReadback {t : Tile} {bs : List Nat} {r : List (Tile × List Nat)} (hst : s.strmGet pid flow sid = some st)
    (hc : st.cons? ci = some c) (hsp : c.spilled = (t, bs) :: r) : exec (.spillReadback pid flow sid ci) s = .next (
      if t.bytes ≤ st.free c then (((s.setCons pid flow sid ci fun c => { c with buf := c.buf ++ [t], spilled := r }).giveBufs pid bs).consEv
        pid flow c 0x035 bs.length).pumpTransit pid flow sid ci 4097
      else s).settleAll := by
  change execSpillReadback pid flow sid ci s = _
  simp only [execSpillReadback, State.readBack, hst, hc, hsp]

/-! ### Spans and the end of their reads (R135, R136) -/

section Spans

variable {who : InstRef} {i : Inst}

theorem exec_spanIssue_early (hi : s.instGet who = some i) (hf : s.flowGet who.pid who.flow = some f)
    (hnow : s.now < f.t + i.spans.getD (2 * i.spanAt + 1) 0) : exec (.spanIssue who) s = .next s := by
  change execSpanIssue who s = _
  rw [execSpanIssue, hi, hf]
  refine congrArg Host.Outcome.next (if_pos ?_)
  simp only [Bool.or_eq_true, decide_eq_true_eq]
  exact .inl (.inr hnow)

theorem exec_spanIssue_due (hi : s.instGet who = some i) (hf : s.flowGet who.pid who.flow = some f) (hrun : f.fst = .running)
    (hcomp : i.complete = false) (hspan : i.span = none) (hmore : 2 * i.spanAt < i.spans.length) (hready : s.coreReady i = true)
    (hnow : f.t + i.spans.getD (2 * i.spanAt + 1) 0 ≤ s.now) {s1 : State}
    (hs1 : s1 = if 0 < i.spanAt ∧ f.t + i.spans.getD (2 * i.spanAt + 1) 0 < i.spanEnd then s.bump (K.lateSpans who.pid) 1 else s) :
    exec (.spanIssue who) s = .next ((s1.setInst who fun i => { i with
      spanAt := i.spanAt + 1, span := some (spanOf (i.spans.getD (2 * i.spanAt) 0)) }).spanRead who (seqTx i 0 i.seqDesc 64 1 [])).settleAll := by
  have hgo : ¬ (f.fst ≠ .running || i.complete || i.span.isSome || i.spans.length ≤ 2 * i.spanAt ||
      s.now < f.t + i.spans.getD (2 * i.spanAt + 1) 0 || !s.coreReady i) = true := by
    simp [hrun, hcomp, hspan, Nat.not_le.2 hmore, hready, Nat.not_lt.2 hnow, -List.getD_eq_getElem?_getD]
  change execSpanIssue who s = _
  rw [execSpanIssue, hi, hf]
  refine congrArg Host.Outcome.next ((if_neg hgo).trans ?_)
  simp only [hs1, Bool.and_eq_true, decide_eq_true_eq]

theorem exec_memoryInstructionComplete_span {r : SpanRun} {id : Nat} {t : Tx} (hi : s.instGet who = some i) (hw : i.wait = .none)
    (hspan : i.span = some r) (htx : r.tx = some id) (ht : s.txOf id = some t) (hcl : t.closed = true)
    (hrun : s.running who.pid who.flow = true) (hready : s.coreReady i = true) :
    exec (.memoryInstructionComplete who) s = .next (s.spanNext i r t (t.stop.getD Status.ok)).settleAll := by
  have hend : s.ended id = some t := by simp [State.ended, ht, hcl]
  change execMemoryInstructionComplete who s = _
  simp [execMemoryInstructionComplete, hi, hw, hspan, htx, hend, hrun, hready]

end Spans

end Sys2Proof.Machine

/-! Proofs about residue mismatches and the retirement of engines, cores and clusters (chapter 5). -/

namespace Sys2Proof.Machine

open Sys2Proof

variable {s : State} {who : InstRef} {i : Inst} {c : CoreSt} {sd cl co : Nat}

/-! ### What a log entry leaves -/

theorem State.rd_logFault {k : Nat} (hk : k ≠ K.faultCount) (kind unit sub act status pid detail : Nat) :
    (s.logFault kind unit sub act status pid detail).rd k = s.rd k := by
  unfold State.logFault
  split
  · rfl
  · exact State.rd_bump_ne K.faultCount 1 hk

theorem State.rd_retired (kind a b d : Nat) : (s.retired kind a b d).rd K.retirements = (s.rd K.retirements + 1) % 2 ^ 32 := by
  rw [State.retired, State.rd_logFault (by decide), State.rd_bump_self]

theorem State.retired_frame (s : State) (kind a b d : Nat) : State.Only [.od, .mgt] s (s.retired kind a b d) :=
  State.retired_only (List.Subset.refl _) (.refl _ s) kind a b d

theorem State.retired_stn (kind a b d : Nat) : (s.retired kind a b d).stn = s.stn := (s.retired_frame kind a b d).agrees .stn rfl

/-! ### Residue mismatches (R140, R141) -/

/-- A station whose instruction may be checked now. -/
structure State.Checked (s : State) (who : InstRef) (i : Inst) : Prop where
  inst : s.instGet who = some i
  running : s.running who.pid who.flow = true
  ready : s.coreReady i = true

theorem State.Checked.exec (h : s.Checked who i) : exec (.residueMismatch who) s = .next (
    if (s.coreOf i).any (fun c => c.hash = some who) = true then s.mismatch i 1
    else if covered (iOP i.word) = true then s.mismatch i (i.beats i.word)
    else if (tileOp (iOP i.word) && (i.hget (iHA i.word)).kind ≠ 0) = true then s.sramError i
    else s) := by
  obtain ⟨hi, hrun, hready⟩ := h
  change execResidueMismatch who s = _
  simp [execResidueMismatch, hi, hrun, hready]

/-- The state that has noted a mismatch: a log entry and two counts. -/
def State.mismatchNoted (s : State) (i : Inst) (n : Nat) : State :=
  ((s.logFault 0x06 i.sd (subunit i.cluster i.core) 1 0 i.who.pid 0).clusterEv i.sd i.cluster 0x033 i.who.pid 1).slots i 1 0x010 n

theorem State.mismatchNoted_frame (s : State) (i : Inst) (n : Nat) : State.Only [.od, .mgt] s (s.mismatchNoted i n) :=
  State.slots_only (List.Subset.refl _) (State.clusterEv_only (List.Subset.refl _)
    (State.logFault_only (List.Subset.refl _) (.refl _ s) _ _ _ _ _ _ _) _ _ _ _ _) _ _ _ _

theorem State.rd_mismatchNoted {k : Nat} (hk : (0x400000 ≤ k ∧ k < 0x600000) ∨ 0x618000 ≤ k) (hfc : k ≠ K.faultCount)
    (hpid : i.who.pid < 64) (n : Nat) : (s.mismatchNoted i n).rd k = s.rd k := by
  have hev : k < 0x600000 ∨ 0x618000 ≤ k := by omega
  have hslots : k ≠ K.partSlots i.who.pid 1 := by
    simp only [K.partSlots, K.pb]
    omega
  rw [State.mismatchNoted, State.rd_slots hev hslots, State.rd_clusterEv hev, State.rd_logFault hfc]

theorem State.mismatchNoted_stn (s : State) (i : Inst) (n : Nat) : (s.mismatchNoted i n).stn = s.stn :=
  (s.mismatchNoted_frame i n).agrees .stn rfl

theorem State.mismatch_first (h : i.mism = 0) (n : Nat) :
    s.mismatch i n = ((s.mismatchNoted i n).bump K.residueRetries 1).setInst i.who fun i => { i with mism := 1 } := by
  simp only [State.mismatch, h, if_true]
  rfl

theorem State.mismatch_second (h : i.mism ≠ 0) (n : Nat) : s.mismatch i n =
    (((s.mismatchNoted i n).setInst i.who fun i => { i with mism := 0 }).startRetire i.sd i.cluster i.core).settleAll := by
  simp only [State.mismatch, h, if_false]
  rfl

theorem mismatch_first_leaves (hi : s.instGet who = some i) (hpid : who.pid < 64) (hm : i.mism = 0) (n : Nat) :
    (s.mismatch i n).instGet who = some { i with mism := 1 } ∧
      (s.mismatch i n).rd K.residueRetries = (s.rd K.residueRetries + 1) % 2 ^ 32 ∧ (s.mismatch i n).stn.cores = s.stn.cores := by
  obtain rfl := State.who_of_instGet hi
  have hstn := s.mismatchNoted_stn i n
  rw [State.mismatch_first hm]
  refine ⟨?_, ?_, show (s.mismatchNoted i n).stn.cores = _ from congrArg Stn.cores hstn⟩
  · refine State.instGet_setInst_self (s := (s.mismatchNoted i n).bump K.residueRetries 1) (g := fun i => { i with mism := 1 }) ?_ fun _ h => h
    exact (congrArg (fun x : Stn => x.insts.find? fun j : Inst => j.who = i.who) hstn).trans hi
  · refine (State.rd_bump_self K.residueRetries 1).trans ?_
    rw [State.rd_mismatchNoted (.inl ⟨by decide, by decide⟩) (by decide) hpid]

/-! ### The retirement of an engine or a core begins -/

/-- The cores at a place. -/
def atCore (sd cl co : Nat) (c : CoreSt) : Bool := c.sd = sd && c.cluster = cl && c.core = co

theorem State.find?_setCoreSt {g : CoreSt → CoreSt} (hc : s.stn.cores.find? (atCore sd cl co) = some c)
    (hg : ∀ c, atCore sd cl co (g c) = atCore sd cl co c) :
    (s.setCoreSt sd cl co g).stn.cores.find? (atCore sd cl co) = some (g c) :=
  List.find?_mapIf hg hc

theorem State.startRetire_of_spare (hc : s.stn.cores.find? (atCore sd cl co) = some c) (hfree : s.retiringIn sd cl = false)
    (hspare : c.engUsed = 0 ∨ s.spareCore sd cl = true) : s.startRetire sd cl co =
      s.setCoreSt sd cl co fun k => { k with retiring := if c.engUsed = 0 then 1 else 2 } := by
  have hc' : (s.stn.cores.find? fun c => c.sd = sd && c.cluster = cl && c.core = co) = some c := hc
  by_cases heng : c.engUsed = 0
  · simp only [State.startRetire, hc', hfree, heng, if_true, Bool.false_eq_true, if_false]
  · have hsp : s.spareCore sd cl = true := hspare.resolve_left heng
    simp only [State.startRetire, hc', hfree, heng, hsp, if_true, Bool.false_eq_true, if_false]

theorem State.retiringIn_congr {t : State} (h : t.stn.retiring = s.stn.retiring) (hc : t.stn.cores = s.stn.cores) :
    t.retiringIn sd cl = s.retiringIn sd cl := by
  simp only [State.retiringIn, h, hc]

theorem State.spareCore_congr {t : State} (hc : t.stn.cores = s.stn.cores) : t.spareCore sd cl = s.spareCore sd cl := by
  simp only [State.spareCore, hc]

/-- A second mismatch of a station in a settled state: the count begins anew and a unit retires; nothing else follows. -/
theorem State.mismatch_second_of_spare (hi : s.instGet who = some i) (hpid : who.pid < 64) (hm : i.mism ≠ 0) (hset : s.settled = true)
    (hc : s.stn.cores.find? (atCore i.sd i.cluster i.core) = some c) (hfree : s.retiringIn i.sd i.cluster = false)
    (hspare : c.engUsed = 0 ∨ s.spareCore i.sd i.cluster = true) (n : Nat) : s.mismatch i n =
      ((s.mismatchNoted i n).setInst who fun i => { i with mism := 0 }).setCoreSt i.sd i.cluster i.core fun k =>
        { k with retiring := if c.engUsed = 0 then 1 else 2 } := by
  have hwho := State.who_of_instGet hi
  have hframe := s.mismatchNoted_frame i n
  have hstn := s.mismatchNoted_stn i n
  have hcores : ((s.mismatchNoted i n).setInst who fun i => { i with mism := 0 }).stn.cores = s.stn.cores :=
    show (s.mismatchNoted i n).stn.cores = _ from congrArg Stn.cores hstn
  have hret : ((s.mismatchNoted i n).setInst who fun i => { i with mism := 0 }).stn.retiring = s.stn.retiring :=
    show (s.mismatchNoted i n).stn.retiring = _ from congrArg Stn.retiring hstn
  rw [State.mismatch_second hm, hwho, State.startRetire_of_spare (by rw [hcores]; exact hc)
    ((State.retiringIn_congr hret hcores).trans hfree) (hspare.imp_right (State.spareCore_congr hcores).trans)]
  refine State.settleAll_of_settled ((State.settled_congr ?_ ?_ ?_ ?_).trans hset)
  · exact (show (s.mismatchNoted i n).stn.flows = _ from congrArg Stn.flows hstn)
  · exact hframe.agrees .ep rfl
  · exact hframe.agrees .life rfl
  · exact State.rd_mismatchNoted (.inr (by decide)) (by decide) (hwho ▸ hpid) n

theorem mismatch_second_leaves (hi : s.instGet who = some i) (hpid : who.pid < 64) (hm : i.mism ≠ 0) (hset : s.settled = true)
    (hc : s.stn.cores.find? (atCore i.sd i.cluster i.core) = some c) (hfree : s.retiringIn i.sd i.cluster = false)
    (hspare : c.engUsed = 0 ∨ s.spareCore i.sd i.cluster = true) (n : Nat) :
    (s.mismatch i n).instGet who = some { i with mism := 0 } ∧
      (s.mismatch i n).stn.cores.find? (atCore i.sd i.cluster i.core) = some { c with retiring := if c.engUsed = 0 then 1 else 2 } := by
  have hstn := s.mismatchNoted_stn i n
  rw [State.mismatch_second_of_spare hi hpid hm hset hc hfree hspare]
  constructor
  · refine State.instGet_setInst_self (s := s.mismatchNoted i n) (g := fun i => { i with mism := 0 }) ?_ fun _ h => h
    exact (congrArg (fun x : Stn => x.insts.find? fun j : Inst => j.who = who) hstn).trans hi
  · refine State.find?_setCoreSt (s := (s.mismatchNoted i n).setInst who fun i => { i with mism := 0 })
      (g := fun k => { k with retiring := if c.engUsed = 0 then 1 else 2 }) ?_ fun _ => rfl
    exact (congrArg (fun x : Stn => x.cores.find? (atCore i.sd i.cluster i.core)) hstn).trans hc

theorem mem_mapIf {α : Type} {p : α → Bool} {f : α → α} {l : List α} {b : α} (hb : b ∈ mapIf p f l) : ∃ a ∈ l, b = f a ∨ b = a := by
  obtain ⟨a, ha, rfl⟩ := List.mem_map.1 hb
  refine ⟨a, ha, ?_⟩
  split
  · exact .inl rfl
  · exact .inr rfl

/-! ### The ends of retirements (R142 to R144) -/

/-- Without a retirement that waits for the cluster none starts. -/
theorem State.nextRetire_of_none (h : ∀ k ∈ s.stn.cores, k.sd = sd → k.cluster = cl → k.retiring ≠ 3) : s.nextRetire sd cl = s := by
  have hnone : (s.stn.cores.find? fun c => c.sd = sd && c.cluster = cl && c.retiring = 3) = none := by
    simp only [List.find?_eq_none, Bool.and_eq_true, decide_eq_true_eq, not_and]
    exact fun k hk hat => h k hk hat.1 hat.2
  rw [State.nextRetire, hnone]

theorem any_atCore_of_find {n : Nat} (hc : s.stn.cores.find? (atCore sd cl co) = some c) (hr : c.retiring = n) :
    (s.stn.cores.any fun c => c.sd = sd && c.cluster = cl && c.core = co && c.retiring = n) = true := by
  refine List.any_eq_true.2 ⟨c, List.mem_of_find?_eq_some hc, ?_⟩
  have hat : atCore sd cl co c = true := List.find?_some hc
  simpa [hr, atCore] using hat

/-- No core of the cluster waits after one of them has ended its retirement. -/
theorem State.setCoreSt_waits {n : Nat} (h : ∀ k ∈ s.stn.cores, k.sd = sd → k.cluster = cl → k.retiring ≠ 3) :
    ∀ k ∈ (s.setCoreSt sd cl co fun c => { c with retiring := 0, engUsed := n }).stn.cores, k.sd = sd → k.cluster = cl → k.retiring ≠ 3 := by
  intro k hk hsd hcl
  obtain ⟨k0, hk0, rfl | rfl⟩ := mem_mapIf hk
  · exact Nat.zero_ne_add_one 2
  · exact h k hk0 hsd hcl

theorem engineRetirement_ends (hc : s.stn.cores.find? (atCore sd cl co) = some c) (hr : c.retiring = 1)
    (hnone : ∀ k ∈ s.stn.cores, k.sd = sd → k.cluster = cl → k.retiring ≠ 3) :
    ∃ t, exec (.engineRetirementComplete sd cl co) s = .next t ∧ t.rd K.retirements = (s.rd K.retirements + 1) % 2 ^ 32 ∧
      t.stn.cores.find? (atCore sd cl co) = some { c with retiring := 0, engUsed := 1 } := by
  have hstn := State.retired_stn (s := s.setCoreSt sd cl co fun c => { c with retiring := 0, engUsed := 1 }) 0x06 sd cl co
  refine ⟨_, congrArg Host.Outcome.next ((if_pos (any_atCore_of_find hc hr)).trans (State.nextRetire_of_none ?_)),
    State.rd_retired 0x06 sd cl co, ?_⟩
  · rw [hstn]
    exact State.setCoreSt_waits hnone
  · rw [hstn]
    exact State.find?_setCoreSt hc fun _ => rfl

/-- Where the units of a retired core are afterwards. -/
def coreToSpare (sd cl co : Nat) (a b d : Nat) : Place := if (a, b, d) = (sd, cl, co) then (sd, cl, 8) else (a, b, d)

theorem coreToSpare_cluster (a b d : Nat) : (coreToSpare sd cl co a b d).1 = a ∧ (coreToSpare sd cl co a b d).2.1 = b := by
  unfold coreToSpare
  split
  · rename_i h
    obtain ⟨rfl, rfl, -⟩ := h
    exact ⟨rfl, rfl⟩
  · exact ⟨rfl, rfl⟩

/-- The state in which a core's units have moved to the spare core of its cluster, before the end is counted. -/
def State.coreMoved (s : State) (sd cl co : Nat) : State :=
  (s.setCoreSt sd cl co fun c => { c with retiring := 0, engUsed := 0 }).moveCores (coreToSpare sd cl co)

theorem exec_coreRetirementComplete (hc : s.stn.cores.find? (atCore sd cl co) = some c) (hr : c.retiring = 2) :
    exec (.coreRetirementComplete sd cl co) s = .next (((s.coreMoved sd cl co).retired 0x07 sd cl co).nextRetire sd cl) :=
  congrArg Host.Outcome.next (if_pos (any_atCore_of_find hc hr))

theorem coreRetirement_ends (hc : s.stn.cores.find? (atCore sd cl co) = some c) (hr : c.retiring = 2)
    (hnone : ∀ k ∈ s.stn.cores, k.sd = sd → k.cluster = cl → k.retiring ≠ 3) :
    ∃ t, exec (.coreRetirementComplete sd cl co) s = .next t ∧ t.rd K.retirements = (s.rd K.retirements + 1) % 2 ^ 32 ∧
      t.stn.insts = s.stn.insts.map fun i => if (i.sd, i.cluster, i.core) = (sd, cl, co) then { i with core := 8 } else i := by
  have hstn := State.retired_stn (s := s.coreMoved sd cl co) 0x07 sd cl co
  refine ⟨_, (exec_coreRetirementComplete hc hr).trans (congrArg _ (State.nextRetire_of_none ?_)), State.rd_retired 0x07 sd cl co, ?_⟩
  · rw [hstn]
    intro k hk hsd hcl
    obtain ⟨k0, hk0, rfl⟩ := List.mem_map.1 hk
    obtain ⟨h1, h2⟩ := coreToSpare_cluster (sd := sd) (cl := cl) (co := co) k0.sd k0.cluster k0.core
    exact State.setCoreSt_waits hnone k0 hk0 (h1.symm.trans hsd) (h2.symm.trans hcl)
  · refine (congrArg Stn.insts hstn).trans (List.map_congr_left fun i _ => ?_)
    dsimp only [coreToSpare]
    split
    · rename_i hat
      obtain ⟨rfl, rfl, rfl⟩ : i.sd = sd ∧ i.cluster = cl ∧ i.core = co := by simpa using hat
      rfl
    · rfl

/-- Where the units of a retired cluster are afterwards. -/
def clusterToSpare (sd cl : Nat) (old : List Nat) (a b d : Nat) : Place :=
  if a = sd && b = cl then (sd, 4, old.findIdx fun k => k = d) else (a, b, d)

/-- The state in which a cluster's units have moved to the spare cluster of its die, before the end is counted. -/
def State.clusterMoved (s : State) (sd cl : Nat) : State :=
  (s.mapStn fun x => { x with
    retiring := x.retiring.filter fun c => c ≠ (sd, cl)
    clSpare := insertOnce x.clSpare sd
    clusters := x.clusters.map fun c => if c = (sd, cl) then (sd, 4) else c
    banks := x.banks.map fun c => if c = (sd, cl) then (sd, 4) else c
    cores := mapIf (fun c => c.sd = sd && c.cluster = cl) (fun c => { c with
      engUsed := 0, retiring := if c.retiring = 3 then 3 else 0 }) x.cores }).moveCores
    (clusterToSpare sd cl ((s.stn.cores.filter fun c => c.sd = sd && c.cluster = cl).map CoreSt.core))

theorem exec_clusterRetirementComplete (h : s.stn.retiring.contains (sd, cl) = true) :
    exec (.clusterRetirementComplete sd cl) s = .next (((s.clusterMoved sd cl).retired 0x08 sd cl 0).nextRetire sd 4) :=
  congrArg Host.Outcome.next (if_pos h)

theorem clusterToSpare_of_ne {old : List Nat} {a b d : Nat} (h : ¬(a = sd ∧ b = cl)) : clusterToSpare sd cl old a b d = (a, b, d) :=
  if_neg (by simpa using h)

theorem clusterToSpare_of_eq (old : List Nat) (d : Nat) : clusterToSpare sd cl old sd cl d = (sd, 4, old.findIdx fun k => k = d) :=
  if_pos (by simp)

theorem State.clusterMoved_insts {i : Inst} (hi : i ∈ (s.clusterMoved sd cl).stn.insts) (hcl : cl ≠ 4) : ¬(i.sd = sd ∧ i.cluster = cl) := by
  obtain ⟨j, -, rfl⟩ := List.mem_map.1 hi
  dsimp only
  by_cases hat : j.sd = sd ∧ j.cluster = cl
  · obtain ⟨rfl, rfl⟩ := hat
    rw [clusterToSpare_of_eq]
    exact fun h => hcl h.2.symm
  · rwa [clusterToSpare_of_ne hat]

theorem State.clusterMoved_waits (h : ∀ k ∈ s.stn.cores, k.sd = sd → k.cluster = cl ∨ k.cluster = 4 → k.retiring ≠ 3) :
    ∀ k ∈ (s.clusterMoved sd cl).stn.cores, k.sd = sd → k.cluster = 4 → k.retiring ≠ 3 := by
  intro k hk hsd hcl
  obtain ⟨k1, hk1, rfl⟩ := List.mem_map.1 hk
  obtain ⟨k0, hk0, hk1⟩ := List.mem_map.1 hk1
  dsimp only at hsd hcl ⊢
  by_cases hat : k0.sd = sd ∧ k0.cluster = cl
  · rw [if_pos (by simpa using hat)] at hk1
    have hne : k0.retiring ≠ 3 := h k0 hk0 hat.1 (.inl hat.2)
    rw [← hk1]
    simp [hne]
  · rw [if_neg (by simpa using hat)] at hk1
    subst hk1
    rw [clusterToSpare_of_ne hat] at hsd hcl
    exact h k0 hk0 hsd (.inr hcl)

/-- Settles O50: tiles by the step of the pump, mismatches and retirements by what they leave of the stations. -/
theorem tilesAndRetirements : Obligations.TilesAndRetirements := by
  refine ⟨fun s pid flow sid ci x src hin hpid => ⟨fun hf hsrc => ?_, fun f hf hend => ?_,
      fun f st c hf hd ha hst hc => ⟨?_, fun hx _ hstn hg hsp hroom htr => State.tileArrive_due hf hd ha hst hc hx hstn hg hsp hroom htr,
        State.tileArrive_later hf hd ha hst hc, fun hbehind => ?_⟩,
      fun st c t bs r hst hc hsp => ⟨fun hroom => ?_, fun hfull => ?_⟩,
      fun who i f at_ hi hf hrun hcomp hspan hmore hready hat => ⟨fun hnow => exec_spanIssue_early hi hf (hat ▸ hnow),
        fun hnow s1 hs1 => exec_spanIssue_due hi hf hrun hcomp hspan hmore hready (hat ▸ hnow) (hat ▸ hs1)⟩,
      fun who i r id t => exec_memoryInstructionComplete_span⟩,
    fun s sd cl co => ⟨fun who i hi hrun hready => ⟨fun hh => ?_, fun hh hcov htile hkind => ?_⟩,
      fun who i hi hpid hrun hready hh hcov => ⟨fun hm => ?_, fun hm hset c hc hfree hspare => ?_⟩,
      fun c => engineRetirement_ends, fun c => coreRetirement_ends, fun h => ?_, rfl⟩⟩
  · rw [← State.tileArrive_of_gone (sid := sid) (ci := ci) (x := x) hf hsrc]
    exact congrArg Host.Outcome.next (if_pos (by simp [hin, hpid]))
  · rw [← State.tileArrive_of_ended (sid := sid) (ci := ci) (x := x) (src := src) hf hend]
    exact congrArg Host.Outcome.next (if_pos (by simp [hin, hpid]))
  · exact congrArg Host.Outcome.next (if_pos (by simp [hin, hpid]))
  · rw [State.tileArrive_of_cons hf hd ha hst hc, if_pos hbehind]
  · rw [exec_spillReadback hst hc hsp, if_pos hroom]
  · rw [exec_spillReadback hst hc hsp, if_neg (Nat.not_le.2 hfull)]
  · rw [State.Checked.exec ⟨hi, hrun, hready⟩, if_pos hh]
  · rw [State.Checked.exec ⟨hi, hrun, hready⟩, if_neg (by simp [hh]), if_neg (by simp [hcov]), if_pos (by simp [htile, hkind])]
  · have hexec := State.Checked.exec ⟨hi, hrun, hready⟩
    rw [if_neg (by simp [hh]), if_pos hcov] at hexec
    exact ⟨_, hexec, mismatch_first_leaves hi hpid hm _⟩
  · have hexec := State.Checked.exec ⟨hi, hrun, hready⟩
    rw [if_neg (by simp [hh]), if_pos hcov] at hexec
    exact ⟨_, hexec, mismatch_second_leaves hi hpid hm hset hc hfree hspare _⟩
  · have hstn := State.retired_stn (s := s.clusterMoved sd cl) 0x08 sd cl 0
    refine ⟨_, exec_clusterRetirementComplete h, fun hnone => State.nextRetire_of_none ?_, State.rd_retired 0x08 sd cl 0, ?_⟩
    · rw [hstn]
      exact State.clusterMoved_waits hnone
    · rw [hstn]
      refine ⟨rfl, mem_insertOnce_self _ _, ?_, fun i hi hne => State.clusterMoved_insts hi hne⟩
      simp [State.clusterMoved, State.moveCores]

end Sys2Proof.Machine

/-! Proofs about rack time: the tick, references, the lock, the root (chapter 8). -/

namespace Sys2Proof.Machine

open Sys2Proof

variable {s : State} {o : Origin}

/-! ### The tick (R206) -/

theorem State.clocks_frame (s : State) : s.clocks.tim.now = s.tim.now ∧ s.clocks.tim.offset = s.tim.offset := by
  have h : ∀ t : State, ∀ a b : Nat, (((t.clusterClocks a).quadClocks a).epClocks b).tim = t.tim := fun t a b =>
    (State.epClocks_only (List.Subset.refl _) (State.quadClocks_only (List.Subset.refl _)
      (State.clusterClocks_only (List.Subset.refl _) (.refl _ t) a) a) b).agrees .tim rfl
  rw [State.clocks, h]
  exact ⟨rfl, rfl⟩

/-- What a tick does to the counter and its correction is what the counter does by itself. -/
theorem State.tick_tim (h : s.life.mstate ≠ .off) : s.tick.now = s.advance.tim.now ∧ s.tick.tim.offset = s.advance.tim.offset := by
  simp only [State.tick, h, if_false]
  split
  · exact State.clocks_frame _
  · exact ⟨rfl, rfl⟩

/-- A correction is due. -/
def State.slewDue (s : State) : Bool := s.tim.everLocked && decide (s.slewEvery ≤ s.tim.slew + 1)

theorem State.advance_fast (hdue : s.slewDue = true) (hoff : 16 ≤ s.tim.offset) :
    s.advance.tim.now = s.now + 2 ∧ s.advance.tim.offset = s.tim.offset - 16 := by
  have h : s.advance = s.mapTim fun t => { t with now := t.now + 2, offset := t.offset - 16, slew := 0 } :=
    if_pos (by rw [State.slewDue] at hdue; simp [hdue, hoff])
  rw [h]
  exact ⟨rfl, rfl⟩

theorem State.advance_slow (hdue : s.slewDue = true) (hoff : s.tim.offset ≤ -16) :
    s.advance.tim.now = s.now ∧ s.advance.tim.offset = s.tim.offset + 16 := by
  have hnot : ¬ 16 ≤ s.tim.offset := by omega
  have h : s.advance = s.mapTim fun t => { t with offset := t.offset + 16, slew := 0 } :=
    (if_neg (by simp [hnot])).trans (if_pos (by rw [State.slewDue] at hdue; simp [hdue, hoff]))
  rw [h]
  exact ⟨rfl, rfl⟩

theorem State.advance_one (h : s.slewDue = false ∨ (-16 < s.tim.offset ∧ s.tim.offset < 16)) : s.advance.tim.now = s.now + 1 := by
  have hfast : ¬ (s.slewDue && decide (16 ≤ s.tim.offset)) = true := by
    obtain h | h := h
    · simp [h]
    · have hnot : ¬ 16 ≤ s.tim.offset := by omega
      simp [hnot]
  have hslow : ¬ (s.slewDue && decide (s.tim.offset ≤ -16)) = true := by
    obtain h | h := h
    · simp [h]
    · have hnot : ¬ s.tim.offset ≤ -16 := by omega
      simp [hnot]
  rw [show s.advance = _ from (if_neg hfast).trans (if_neg hslow)]
  rfl

theorem State.advance_now (s : State) : s.advance.tim.now = s.now ∨ s.advance.tim.now = s.now + 1 ∨ s.advance.tim.now = s.now + 2 := by
  by_cases hdue : s.slewDue = true
  · by_cases hfast : 16 ≤ s.tim.offset
    · exact .inr (.inr (State.advance_fast hdue hfast).1)
    · by_cases hslow : s.tim.offset ≤ -16
      · exact .inl (State.advance_slow hdue hslow).1
      · exact .inr (.inl (State.advance_one (.inr (by omega))))
  · exact .inr (.inl (State.advance_one (.inl (by simpa using hdue))))

/-! ### References (R202, R203) -/

theorem State.rd_selectRef_self (v : Nat) : (s.selectRef v).rd K.refSelect = v := by
  unfold State.selectRef
  split
  · assumption
  · rw [State.rd_bump_ne _ _ (by decide), State.rd_wr_self]

theorem State.rd_selectRef_ne {k : Nat} (v : Nat) (h1 : k ≠ K.refSelect) (h2 : k ≠ K.refSwitches) : (s.selectRef v).rd k = s.rd k := by
  unfold State.selectRef
  split
  · rfl
  · rw [State.rd_bump_ne _ _ h2, State.rd_wr_ne _ _ _ h1]

@[simp] theorem State.rd_setRefAt (b : Bool) (k : Nat) : (s.setRefAt b).rd k = s.rd k := rfl

theorem refKey_ne (b : Bool) : refKey b ≠ K.refSelect ∧ refKey b ≠ K.refSwitches ∧ refKey b ≠ K.faultCount ∧ refKey (!b) ≠ refKey b := by
  cases b <;> decide

/-- The state in which the loss of a reference is noted, before another is selected. -/
def State.refGone (s : State) (b : Bool) : State := ((s.wr (refKey b) 1).logFault 0x12 (b2n b) 0 0 0 0 0).setRefAt b

theorem State.rd_refGone (b : Bool) : (s.refGone b).rd (refKey b) = 1 ∧ (s.refGone b).rd (refKey (!b)) = s.rd (refKey (!b)) ∧
    (s.refGone b).rd K.refSelect = s.rd K.refSelect := by
  obtain ⟨hsel, -, hlog, hother⟩ := refKey_ne b
  simp only [State.refGone, State.rd_setRefAt]
  rw [State.rd_logFault hlog, State.rd_logFault (refKey_ne (!b)).2.2.1, State.rd_logFault (by decide), State.rd_wr_self,
    State.rd_wr_ne _ _ _ hother, State.rd_wr_ne _ _ _ hsel.symm]
  exact ⟨rfl, rfl, rfl⟩

theorem State.refGone_frame (s : State) (b : Bool) : State.Only [.od, .tim, .mgt] s (s.refGone b) :=
  State.setRefAt_only (Sect.listed rfl) (State.logFault_only (Sect.listed rfl) (State.wr_only (Sect.listed rfl) (.refl _ s) _ _)
    _ _ _ _ _ _ _) _

theorem referenceLost_leaves (b : Bool) : ∃ t, exec (.referenceLost b) s = .next t ∧ t.rd (refKey b) = 1 ∧
    t.rd K.refSelect = (if s.rd K.refSelect ≠ b2n b then s.rd K.refSelect else if s.rd (refKey (!b)) = 0 then b2n (!b) else 2) ∧
    s.sameBut [.od, .tim, .mgt] t := by
  obtain ⟨hself, hother, hsel⟩ := s.rd_refGone b
  by_cases h : s.rd K.refSelect = b2n b
  · refine ⟨(s.refGone b).selectRef (if (s.refGone b).rd (refKey (!b)) = 0 then b2n (!b) else 2), congrArg Host.Outcome.next (if_pos h),
      ?_, ?_, (State.selectRef_only (Sect.listed rfl) (s.refGone_frame b) _).2⟩
    · rw [State.rd_selectRef_ne _ (refKey_ne b).1 (refKey_ne b).2.1, hself]
    · rw [State.rd_selectRef_self, hother, if_neg (not_not.2 h)]
  · exact ⟨s.refGone b, congrArg Host.Outcome.next (if_neg h), hself, hsel.trans (if_pos h).symm, (s.refGone_frame b).2⟩

theorem State.refAt_setRefAt (s : State) (b : Bool) : (s.setRefAt b).refAt b = s.now := by
  cases b <;> rfl

theorem State.refAt_selectRef (v : Nat) (b : Bool) : (s.selectRef v).refAt b = s.refAt b := by
  unfold State.selectRef
  split <;> rfl

theorem referenceQualified_leaves (b : Bool) (hbad : s.rd (refKey b) ≠ 0) (hat : s.refAt b + 125000000 ≤ s.now) :
    ∃ t, exec (.referenceQualified b) s = .next t ∧ t.rd (refKey b) = 0 ∧ t.refAt b = s.now ∧
      t.rd K.refSelect = (if s.rd K.refSelect = 2 then b2n b else s.rd K.refSelect) ∧ s.sameBut [.od, .tim] t := by
  have hframe : State.Only [.od, .tim] s ((s.wr (refKey b) 0).setRefAt b) :=
    State.setRefAt_only (Sect.listed rfl) (State.wr_only (Sect.listed rfl) (.refl _ s) _ _) _
  have hsel : ((s.wr (refKey b) 0).setRefAt b).rd K.refSelect = s.rd K.refSelect := State.rd_wr_ne _ _ _ (refKey_ne b).1.symm
  have hself : ((s.wr (refKey b) 0).setRefAt b).rd (refKey b) = 0 := State.rd_wr_self _ _
  have hrefAt : ((s.wr (refKey b) 0).setRefAt b).refAt b = s.now := State.refAt_setRefAt (s.wr (refKey b) 0) b
  have hdue : ¬ s.now < s.refAt b + refQuiet := Nat.not_lt.2 hat
  refine ⟨_, congrArg Host.Outcome.next ((if_neg hbad).trans (if_neg hdue)), ?_⟩
  dsimp only
  rw [hsel]
  split
  · rw [State.rd_selectRef_ne _ (refKey_ne b).1 (refKey_ne b).2.1, State.refAt_selectRef, State.rd_selectRef_self]
    exact ⟨hself, hrefAt, rfl, (State.selectRef_only (Sect.listed rfl) hframe _).2⟩
  · exact ⟨hself, hrefAt, hsel, hframe.2⟩

theorem exec_referenceRevert (hmode : s.rd K.refMode = 1) (hok : s.rd K.refaStatus = 0) (hat : s.refAt false + 125000000 ≤ s.now)
    (hsel : s.rd K.refSelect ≠ 0) : exec .referenceRevert s = .next ((s.wr K.refSelect 0).bump K.refSwitches 1) := by
  have hdue : (s.rd K.refMode = 1 && s.rd K.refaStatus = 0 && decide (s.refAt false + refQuiet ≤ s.now)) = true := by
    have hat' : s.refAt false + refQuiet ≤ s.now := hat
    simp [hmode, hok, hat']
  exact congrArg Host.Outcome.next ((if_pos hdue).trans (if_neg hsel))

/-! ### The lock (R204, R205) -/

theorem State.rd_setLock_self (v : Nat) : (s.setLock v).rd K.lockState = v := by
  unfold State.setLock
  split
  · assumption
  · rw [State.rd_event, State.rd_wr_self]

theorem State.rd_setLock_ne {k : Nat} (v : Nat) (hk : k ≠ K.lockState) : (s.setLock v).rd k = s.rd k := by
  unfold State.setLock
  split
  · rfl
  · rw [State.rd_event, State.rd_wr_ne _ _ _ hk]

theorem State.setLock_frame (s : State) (v : Nat) : State.Only [.out, .od, .mgt] s (s.setLock v) :=
  State.setLock_only (List.Subset.refl _) (.refl _ s) v

theorem State.setLock_tim (v : Nat) : (s.setLock v).tim = s.tim := (s.setLock_frame v).agrees .tim rfl

/-- A module that can exchange towards a root is ACQUIRING if it was UNLOCKED. -/
theorem State.acquire_acquiring {x : StampOp} (hlock : s.rd K.lockState = 0) (hok : s.acquire.exchangeOk x = true) :
    s.acquire.rd K.lockState = 1 := by
  by_cases hg : (s.rd K.lockState = 0 && s.rd K.rootMid ≠ 31 && s.rd K.rootMid ≠ s.mid &&
      (s.linkUp (s.rd K.rootMid) || !s.timePeers.isEmpty)) = true
  · rw [show s.acquire = _ from if_pos hg]
    exact State.rd_setLock_self 1
  · refine absurd ?_ hg
    rw [show s.acquire = s from if_neg hg] at hok
    simp only [State.exchangeOk, Bool.and_eq_true, decide_eq_true_eq] at hok
    obtain ⟨⟨h31, hmid⟩, hway⟩ := hok
    have hpeer : (s.linkUp (s.rd K.rootMid) || !s.timePeers.isEmpty) = true := by
      split at hway
      · simp [hway]
      · have hhead := of_decide_eq_true ((Bool.and_eq_true _ _).mp hway).2
        cases hpeers : s.timePeers with
        | nil => simp [hpeers] at hhead
        | cons d l => simp
    simp [hlock, h31, hmid, hpeer]

theorem State.rd_noteStamp {k : Nat} (x : StampOp) (good bad : Nat) (hk : k ≠ K.rootOffset) :
    (s.noteStamp x good bad).rd k = s.rd k := State.rd_wr_ne _ _ _ hk

section Exchange

variable {s0 : State} {x : StampOp} (hs : s = (s0.mapTim fun t => { t with lockedPeers := x.locked }).acquire)
include hs

theorem exec_timestampExchange_none (hno : s.exchangeOk x = false) : exec (.timestampExchange x) s0 = .next s.judgeLock := by
  subst hs
  exact congrArg Host.Outcome.next (if_pos (by simp [hno]))

variable (hok : s.exchangeOk x = true)
include hok

theorem exec_timestampExchange_locked (hl : s.rd K.lockState = 2) : exec (.timestampExchange x) s0 = .next (
    if 4 ≤ (if 40 < absInt (stampOffset x) then s.tim.badRun + 1 else 0) then
      (s.noteStamp x s.tim.goodRun (if 40 < absInt (stampOffset x) then s.tim.badRun + 1 else 0)).loseLock
    else s.noteStamp x s.tim.goodRun (if 40 < absInt (stampOffset x) then s.tim.badRun + 1 else 0)) := by
  subst hs
  change execTimestampExchange x s0 = _
  simp only [execTimestampExchange, hok, hl, Bool.not_true, Bool.false_eq_true, if_false]
  rfl

theorem exec_timestampExchange_acquiring (hl : s.rd K.lockState = 1) : exec (.timestampExchange x) s0 = .next (
    if s.tim.everLocked = false then (s.noteStamp x 0 0).mapTim fun t => { t with now := x.rootTime, everLocked := true, offset := 0 }
    else if 16 ≤ (if absInt (stampOffset x) ≤ 30 then s.tim.goodRun + 1 else 0) then
      (s.noteStamp x (if absInt (stampOffset x) ≤ 30 then s.tim.goodRun + 1 else 0) 0).setLock 2
    else s.noteStamp x (if absInt (stampOffset x) ≤ 30 then s.tim.goodRun + 1 else 0) 0) := by
  subst hs
  change execTimestampExchange x s0 = _
  simp only [execTimestampExchange, hok, hl, Bool.not_true, Bool.false_eq_true, if_false, Bool.not_eq_true']
  rfl

end Exchange

theorem absInt_le_iff (v b : Int) : absInt v ≤ b ↔ -b ≤ v ∧ v ≤ b := by
  unfold absInt
  split <;> omega

/-- The state in which the lock is lost and counted, before gates close and flows fail. -/
def State.lockLost (s : State) : State := ((s.setLock 0).bump K.lockLosses 1).mapTim fun t => { t with goodRun := 0, badRun := 0 }

theorem State.lockLost_frame (s : State) : State.Only [.out, .od, .tim, .mgt] s s.lockLost :=
  State.mapTim_only (Sect.listed rfl) (State.bump_only (Sect.listed rfl) (State.setLock_only (Sect.listed rfl) (.refl _ s) _) _ _) _

/-- Where no gate is open and no flow is armed the loss of the lock touches nothing else. -/
theorem State.loseLock_of_quiet (hl : s.rd K.lockState = 2) (hlife : s.life.mstate ≠ .shadow) (hflows : ∀ f ∈ s.stn.flows, f.fst ≠ .armed)
    (hgates : ∀ g ∈ s.slu.act, g.isOpen = false) : s.loseLock = s.lockLost := by
  have hslu : s.lockLost.slu = s.slu := s.lockLost_frame.agrees .slu rfl
  have hstn : s.lockLost.stn = s.stn := s.lockLost_frame.agrees .stn rfl
  have hmst : s.lockLost.life = s.life := s.lockLost_frame.agrees .life rfl
  rw [State.loseLock, if_neg (not_not.2 hl)]
  dsimp only
  generalize hu : ((s.setLock 0).bump K.lockLosses 1).mapTim (fun t => { t with goodRun := 0, badRun := 0 }) = u
  obtain rfl : u = s.lockLost := hu.symm
  rw [State.each_same (s := s.lockLost) _ State.closeGate]
  · rw [State.each_same (s := s.lockLost)]
    · exact if_neg (by rwa [hmst])
    · intro f hf
      rw [hstn] at hf
      obtain ⟨hmem, harm⟩ := List.mem_filter.1 hf
      exact absurd (of_decide_eq_true harm) (hflows f hmem)
  · intro i hi
    have hopen := (List.mem_filter.1 hi).2
    split at hopen
    · rename_i g hg
      rw [hslu] at hg
      exact absurd hopen (by simp [hgates g (List.mem_of_getElem? hg)])
    · exact nomatch hopen

theorem State.rd_lockLost : s.lockLost.rd K.lockState = 0 ∧ s.lockLost.rd K.lockLosses = (s.rd K.lockLosses + 1) % 2 ^ 32 := by
  simp only [State.lockLost, State.rd_mapTim]
  rw [State.rd_bump_ne _ _ (by decide), State.rd_bump_self, State.rd_setLock_self, State.rd_setLock_ne _ (by decide)]
  exact ⟨rfl, rfl⟩

theorem State.noteStamp_frame (s : State) (x : StampOp) (good bad : Nat) : State.Only [.od, .tim] s (s.noteStamp x good bad) :=
  State.noteStamp_only (List.Subset.refl _) (.refl _ s) x good bad

section LockCases

variable {s0 : State} {x : StampOp} (hs : s = (s0.mapTim fun t => { t with lockedPeers := x.locked }).acquire)
  (hok : s.exchangeOk x = true)
include hs hok

theorem exchange_first (hl : s.rd K.lockState = 1) (hever : s.tim.everLocked = false) :
    ∃ t, exec (.timestampExchange x) s0 = .next t ∧ t.rd K.lockState = 1 ∧ t.now = x.rootTime ∧ t.tim.everLocked = true ∧
      t.tim.offset = 0 := by
  refine ⟨_, (exec_timestampExchange_acquiring hs hok hl).trans (congrArg _ (if_pos hever)), ?_, rfl, rfl, rfl⟩
  rw [State.rd_mapTim, State.rd_noteStamp _ _ _ (by decide), hl]

theorem exchange_good (hl : s.rd K.lockState = 1) (hever : s.tim.everLocked = true) (hlo : -30 ≤ stampOffset x) (hhi : stampOffset x ≤ 30) :
    ∃ t, exec (.timestampExchange x) s0 = .next t ∧ t.rd K.lockState = (if 15 ≤ s.tim.goodRun then 2 else 1) ∧
      t.tim.goodRun = s.tim.goodRun + 1 ∧ t.tim.offset = stampOffset x ∧ t.tim.linkDelay = ((x.t2 - x.t1) + (x.t4 - x.t3)) / 2 := by
  have hexec := exec_timestampExchange_acquiring hs hok hl
  rw [if_neg (by simp [hever]), if_pos ((absInt_le_iff _ _).2 ⟨hlo, hhi⟩)] at hexec
  by_cases hrun : 15 ≤ s.tim.goodRun
  · rw [if_pos (by omega)] at hexec
    refine ⟨_, hexec, (State.rd_setLock_self 2).trans (if_pos hrun).symm, ?_⟩
    rw [State.setLock_tim]
    exact ⟨rfl, rfl, rfl⟩
  · rw [if_neg (by omega)] at hexec
    exact ⟨_, hexec, ((State.rd_noteStamp _ _ _ (by decide)).trans hl).trans (if_neg hrun).symm, rfl, rfl, rfl⟩

theorem exchange_bad (hl : s.rd K.lockState = 1) (hever : s.tim.everLocked = true) (hout : stampOffset x < -30 ∨ 30 < stampOffset x) :
    ∃ t, exec (.timestampExchange x) s0 = .next t ∧ t.rd K.lockState = 1 ∧ t.tim.goodRun = 0 := by
  have hexec := exec_timestampExchange_acquiring hs hok hl
  have hnot : ¬ absInt (stampOffset x) ≤ 30 := by
    rw [absInt_le_iff]
    omega
  rw [if_neg (by simp [hever]), if_neg hnot, if_neg (by decide)] at hexec
  exact ⟨_, hexec, (State.rd_noteStamp _ _ _ (by decide)).trans hl, rfl⟩

theorem exchange_locked_bad (hl : s.rd K.lockState = 2) (hout : stampOffset x < -40 ∨ 40 < stampOffset x) (hlife : s.life.mstate ≠ .shadow)
    (hflows : ∀ f ∈ s.stn.flows, f.fst ≠ .armed) (hgates : ∀ g ∈ s.slu.act, g.isOpen = false) :
    ∃ t, exec (.timestampExchange x) s0 = .next t ∧ t.rd K.lockState = (if 3 ≤ s.tim.badRun then 0 else 2) ∧
      t.rd K.lockLosses = (if 3 ≤ s.tim.badRun then (s.rd K.lockLosses + 1) % 2 ^ 32 else s.rd K.lockLosses) := by
  have hbad : 40 < absInt (stampOffset x) := by
    have := absInt_le_iff (stampOffset x) 40
    omega
  have hexec := exec_timestampExchange_locked hs hok hl
  rw [if_pos hbad] at hexec
  have hframe := s.noteStamp_frame x s.tim.goodRun (s.tim.badRun + 1)
  have hl1 := (State.rd_noteStamp (s := s) x s.tim.goodRun (s.tim.badRun + 1) (k := K.lockState) (by decide)).trans hl
  have hloss := State.rd_noteStamp (s := s) x s.tim.goodRun (s.tim.badRun + 1) (k := K.lockLosses) (by decide)
  have hlife1 : (s.noteStamp x s.tim.goodRun (s.tim.badRun + 1)).life = s.life := hframe.agrees .life rfl
  have hstn1 : (s.noteStamp x s.tim.goodRun (s.tim.badRun + 1)).stn = s.stn := hframe.agrees .stn rfl
  have hslu1 : (s.noteStamp x s.tim.goodRun (s.tim.badRun + 1)).slu = s.slu := hframe.agrees .slu rfl
  by_cases hrun : 3 ≤ s.tim.badRun
  · rw [if_pos (by omega), State.loseLock_of_quiet hl1 (by rwa [hlife1]) (by rwa [hstn1]) (by rwa [hslu1])] at hexec
    refine ⟨_, hexec, State.rd_lockLost.1.trans (if_pos hrun).symm, ?_⟩
    rw [State.rd_lockLost.2, hloss, if_pos hrun]
  · rw [if_neg (by omega)] at hexec
    exact ⟨_, hexec, hl1.trans (if_neg hrun).symm, hloss.trans (if_neg hrun).symm⟩

theorem exchange_locked_good (hl : s.rd K.lockState = 2) (hlo : -40 ≤ stampOffset x) (hhi : stampOffset x ≤ 40) :
    ∃ t, exec (.timestampExchange x) s0 = .next t ∧ t.rd K.lockState = 2 ∧ t.tim.badRun = 0 := by
  have hgood : ¬ 40 < absInt (stampOffset x) := Int.not_lt.2 ((absInt_le_iff _ _).2 ⟨hlo, hhi⟩)
  have hexec := exec_timestampExchange_locked hs hok hl
  rw [if_neg hgood, if_neg (by decide)] at hexec
  exact ⟨_, hexec, (State.rd_noteStamp _ _ _ (by decide)).trans hl, rfl⟩

end LockCases

/-! ### The root (R207, R208) -/

theorem exec_rootHandover_other {mid : Nat} {seen : List Nat} (hno : s.rootServes = false) (hch : s.rootChoice seen = some mid)
    (hmid : mid ≠ s.mid) : exec (.rootHandover ⟨mid, seen⟩) s = .next (s.wr K.rootMid mid).judgeLock.acquire := by
  have hgo : ¬ (s.rootServes || s.rootChoice seen ≠ some mid) = true := by simp [hno, hch]
  exact congrArg Host.Outcome.next ((if_neg hgo).trans (if_neg hmid))

theorem rootHandover_forms {seen : List Nat} (hno : s.rootServes = false) (hch : s.rootChoice seen = some s.mid)
    (hnone : s.noMember = true) (hever : s.tim.everLocked = false) : ∃ t, exec (.rootHandover ⟨s.mid, seen⟩) s = .next t ∧
      t.rd K.rootMid = s.mid ∧ t.now = s.tim.rtSet.getD 0 ∧ t.rd K.lockState = 2 := by
  have hgo : ¬ (s.rootServes || s.rootChoice seen ≠ some s.mid) = true := by simp [hno, hch]
  have hform : (s.noMember && !s.tim.everLocked) = true := by simp [hnone, hever]
  refine ⟨((((s.wr K.rootMid s.mid).mapTim fun t => { t with now := t.rtSet.getD 0, everLocked := true }).mapTim fun t =>
    { t with offset := 0 }).setLock 2), ?_, ?_, ?_, State.rd_setLock_self 2⟩
  · change execRootHandover ⟨s.mid, seen⟩ s = _
    simp only [execRootHandover, hgo, Bool.false_eq_true, if_false, hform, if_true]
  · rw [State.rd_setLock_ne _ (by decide)]
    exact State.rd_wr_self _ _
  · exact congrArg Time.now (State.setLock_tim 2)

theorem exec_rtSet (v : Nat) (ha : s.allows o K.rtSet 0 = true) : exec (.rtSet o v) s = .next (if s.noMember then
    (s.mapTim fun t => { t with rtSet := some v }).reply o Status.ok false [] else s.reply o Status.refused false []) := by
  change execRtSet o v s = _
  rw [execRtSet, State.command_of_allows _ ha]
  split <;> rfl

/-- Settles O51: the tick by its correction, references and lock by what each command leaves. -/
theorem rackTime : Obligations.RackTime := by
  refine ⟨fun s => ⟨step_of_idle, fun h => if_pos h, fun h => ?_⟩,
    fun s b => ⟨referenceLost_leaves b, fun hbad hat => congrArg Host.Outcome.next ((if_neg hbad).trans (if_pos hat)),
      referenceQualified_leaves b, fun hat => ?_, exec_referenceRevert, fun hmode => congrArg Host.Outcome.next (if_neg (by simp [hmode]))⟩,
    fun s0 s x hs => ⟨exec_timestampExchange_none hs, fun hok => ⟨fun hlock => ?_, exchange_first hs hok, exchange_good hs hok,
      exchange_bad hs hok, exchange_locked_bad hs hok, exchange_locked_good hs hok, fun hd => ?_⟩⟩,
    fun s o mid v seen => ⟨fun h => congrArg Host.Outcome.next (if_pos (by simpa using h)), exec_rootHandover_other, rootHandover_forms,
      exec_rtSet v⟩⟩
  · obtain ⟨hnow, hoff⟩ := State.tick_tim h
    rw [show s.tick.now = s.advance.tim.now from hnow, hoff]
    refine ⟨s.advance_now, fun hlo hhi => State.advance_one (.inr ⟨hlo, hhi⟩), fun hslew => State.advance_one (.inl ?_),
      fun hever hdue => ?_⟩
    · have hnot : ¬ s.slewEvery ≤ s.tim.slew + 1 := Nat.not_le.2 hslew
      simp [State.slewDue, hnot]
    · have hdue' : s.slewDue = true := by
        have hd : s.slewEvery ≤ s.tim.slew + 1 := hdue
        simp [State.slewDue, hever, hd]
      exact ⟨State.advance_fast hdue', State.advance_slow hdue'⟩
  · have hnot : ¬ s.refAt false + refQuiet ≤ s.now := Nat.not_le.2 hat
    exact congrArg Host.Outcome.next (if_neg (by simp [hnot]))
  · subst hs
    exact State.acquire_acquiring hlock hok
  · rw [stampOffset, if_pos hd, Int.add_zero]

end Sys2Proof.Machine

/-! Proofs about the sluice: sets that are loaded and switched, gates that open and close (chapter 8). -/

namespace Sys2Proof.Machine

open Sys2Proof

variable {s : State} {o : Origin} {pid : Nat}

/-! ### Sets (R217 to R219) -/

theorem exec_sluiceLoad {fva len : Nat} (ha : s.allows o K.sluiceLoad pid = true) (hpart : s.pstate pid = 1)
    (hal : fva % 4096 = 0) (hfva : fva < 2 ^ 57) (hep : s.lowEp.isSome = true) (hlen : 64 ≤ len) :
    exec (.sluiceLoad o pid fva len) s = .next ((s.moduleRead pid fva len).1.mapSlu fun u => { u with
      loads := u.loads ++ [⟨o, pid, fva, len, (s.moduleRead pid fva len).2⟩] }) := by
  have hnone : s.lowEp.isNone = false := Option.isNone_eq_false_iff.2 hep
  have hlow : ¬ 144115188075855872 ≤ fva := Nat.not_le.2 hfva
  change execSluiceLoad o pid fva len s = _
  rw [execSluiceLoad, State.command_of_allows _ ha]
  simp [hpart, hal, hlow, hnone, Nat.not_lt.2 hlen, State.finish]

section LoadComplete

variable {fva len : Nat} {l : ImageLoad} {s1 : State}
  (hl : (s.slu.loads.find? fun l => l.pid = pid && l.fva = fva && l.len = len) = some l)
  (hs1 : s1 = (s.mapSlu fun u => { u with loads := u.loads.erase l }).dropTx l.tx)
include hl

theorem exec_sluiceLoadComplete_open (hend : s.readEnd l.tx l.len = .open_) : exec (.sluiceLoadComplete pid fva len) s = .next s := by
  change execSluiceLoadComplete pid fva len s = _
  simp only [execSluiceLoadComplete, hl, hend]

include hs1

theorem exec_sluiceLoadComplete_failed {st : Nat} (hend : s.readEnd l.tx l.len = .failed st) :
    exec (.sluiceLoadComplete pid fva len) s = .next (s1.reply l.origin st false []) := by
  change execSluiceLoadComplete pid fva len s = _
  simp only [execSluiceLoadComplete, hl, hend, hs1]

theorem exec_sluiceLoadComplete_good {d : List Byte} {set : Nat} {gs : List Gate} (hend : s.readEnd l.tx l.len = .ok d)
    (hpart : s1.pstate pid = 1) (himg : s1.sluiceImage pid l.len d = some (set, gs)) :
    exec (.sluiceLoadComplete pid fva len) s = .next (((s1.mapSlu fun u => { u with
      pend := u.pend ++ [(pid, .load set gs)] }).measure pid 1 set fva l.len (sha384 d)).reply l.origin Status.ok false []) := by
  subst hs1
  change execSluiceLoadComplete pid fva len s = _
  simp only [execSluiceLoadComplete, hl, hend, hpart, himg, ne_eq, not_true_eq_false, if_false]

theorem exec_sluiceLoadComplete_bad {d : List Byte} (hend : s.readEnd l.tx l.len = .ok d)
    (hpart : s1.pstate pid = 1) (himg : s1.sluiceImage pid l.len d = none) :
    exec (.sluiceLoadComplete pid fva len) s = .next (s1.reply l.origin Status.refused false []) := by
  subst hs1
  change execSluiceLoadComplete pid fva len s = _
  simp only [execSluiceLoadComplete, hl, hend, hpart, himg, ne_eq, not_true_eq_false, if_false]

end LoadComplete

theorem exec_sluiceRemove_active {set : Nat} (ha : s.allows o K.sluiceRemove pid = true)
    (hflows : ∀ f ∈ s.stn.flows, f.pid = pid → f.set ≠ set) (hpend : ∀ e ∈ s.slu.pend, e.1 ≠ pid)
    (hact : ∃ g ∈ s.slu.act, g.pid = pid ∧ g.set = set) : exec (.sluiceRemove o pid set) s =
      .next ((s.mapSlu fun u => { u with pend := u.pend ++ [(pid, .remove set)] }).reply o Status.ok false []) := by
  have hfree : ¬ (s.stn.flows.any fun f => f.pid = pid && f.set = set) = true := by simpa using hflows
  have hgate : ((s.slu.act.any fun g => g.pid = pid && g.set = set) && !s.slu.pend.contains (pid, .remove set)) = true := by
    have hnot : (pid, PendOp.remove set) ∉ s.slu.pend := fun h => hpend _ h rfl
    simpa [hnot] using hact
  refine congrArg Host.Outcome.next ((State.command_of_allows _ ha).trans ?_)
  dsimp only
  rw [if_neg hfree, if_neg, if_pos hgate]
  · rfl
  · simp only [List.any_eq_true, Bool.and_eq_true, decide_eq_true_eq, not_exists, not_and]
    exact fun e he hp => absurd hp (hpend e he)

theorem exec_sluiceRemove_used {set : Nat} (ha : s.allows o K.sluiceRemove pid = true)
    (hused : ∃ f ∈ s.stn.flows, f.pid = pid ∧ f.set = set) :
    exec (.sluiceRemove o pid set) s = .next (s.reply o Status.refused false []) := by
  have huse : (s.stn.flows.any fun f => f.pid = pid && f.set = set) = true := by simpa using hused
  refine congrArg Host.Outcome.next ((State.command_of_allows _ ha).trans ?_)
  dsimp only
  rw [if_pos huse]
  rfl

theorem exec_sluiceCommit {ts : Nat} (ha : s.allows o K.sluiceCommit pid = true) : exec (.sluiceCommit o pid ts) s =
    .next (if s.now + 2 * s.frameTicks ≤ ts ∧ ts ≤ s.now + 12500000000 ∧ ∀ c ∈ s.slu.commits, c.1 ≠ pid then
      (s.mapSlu fun u => { u with commits := u.commits ++ [(pid, ts)] }).reply o Status.ok false []
    else s.reply o Status.refused false []) := by
  change execSluiceCommit o pid ts s = _
  rw [execSluiceCommit, State.command_of_allows _ ha]
  simp only [Bool.and_eq_true, decide_eq_true_eq, Bool.not_eq_true', List.any_eq_false, and_assoc, ne_eq]
  split <;> rfl

theorem State.frameTicks_pos (s : State) : 0 < s.frameTicks := Nat.two_pow_pos _

/-- The boundary of a commit is the first multiple of the frame at or after its time. -/
theorem State.boundary_spec (s : State) (ts : Nat) :
    s.boundary ts % s.frameTicks = 0 ∧ ts ≤ s.boundary ts ∧ s.boundary ts < ts + s.frameTicks := by
  have hpos := s.frameTicks_pos
  have hdiv := Nat.div_add_mod (ts + s.frameTicks - 1) s.frameTicks
  have hmod := Nat.mod_lt (ts + s.frameTicks - 1) hpos
  rw [Nat.mul_comm] at hdiv
  refine ⟨Nat.mul_mod_left _ _, ?_, ?_⟩ <;>
  · simp only [State.boundary, cdiv]
    omega

/-- The state in which the PID's list has taken effect, before the counts of the active table are written. -/
def State.switched (s : State) (pid ts : Nat) : State :=
  (s.mapSlu fun u => { u with
    act := (s.slu.pend.filter fun e => e.1 = pid).foldl (fun a e => applyPend a e.2 pid) u.act
    pend := u.pend.filter fun e => e.1 ≠ pid
    commits := u.commits.filter fun e => e.1 ≠ pid }).wr K.sluiceSwitched (s.boundary ts)

theorem exec_sluiceBankSwitch {c : Nat × Nat} (hc : (s.slu.commits.find? fun c => c.1 = pid) = some c) :
    exec (.sluiceBankSwitch pid) s = .next (if s.now < s.boundary c.2 then s else (s.switched pid c.2).noteSets) := by
  change execSluiceBankSwitch pid s = _
  rw [execSluiceBankSwitch, hc]
  rfl

theorem State.rd_noteSets : s.noteSets.rd K.entriesActive = s.slu.act.length ∧
    s.noteSets.rd K.sluiceSwitched = s.rd K.sluiceSwitched :=
  ⟨State.rd_wr_self _ _, (State.rd_wr_ne _ _ _ (by decide)).trans (State.rd_wr_ne _ _ _ (by decide))⟩

theorem State.switched_frame (s : State) (pid ts : Nat) : State.Only [.od, .slu] s (s.switched pid ts).noteSets :=
  State.noteSets_only (Sect.listed rfl) (State.wr_only (Sect.listed rfl) (State.mapSlu_only (Sect.listed rfl) (.refl _ s) _) _ _)

/-! ### Gates (R211 to R214) -/

variable {n : Nat} {g : Gate}

theorem State.setGate_of_some (hg : s.slu.act[n]? = some g) (f : Gate → Gate) :
    s.setGate n f = s.mapSlu fun u => { u with act := u.act.set n (f g) } := by
  rw [State.setGate, hg]
  rfl

theorem State.wakeEgress_slu (s : State) (e : Nat) : (s.wakeEgress e).slu = s.slu :=
  (State.wakeEgress_only (List.Subset.refl _) (.refl _ s) e).agrees .slu rfl

/-- A gate that changes and wakes its egress is changed in its place of the table, and the rest stays. -/
theorem State.setGate_wakeEgress (hg : s.slu.act[n]? = some g) (f : Gate → Gate) (e : Nat) :
    ((s.setGate n f).wakeEgress e).slu.act[n]? = some (f g) ∧ s.sameBut [.slu, .lnk] ((s.setGate n f).wakeEgress e) := by
  constructor
  · obtain ⟨hlt, -⟩ := List.getElem?_eq_some_iff.1 hg
    rw [State.wakeEgress_slu, State.setGate_of_some hg]
    exact List.getElem?_set_self hlt
  · exact (State.wakeEgress_only (Sect.listed rfl) (State.setGate_only (Sect.listed rfl) (.refl _ s) _ _) _).2

theorem exec_gateWake {e : Nat} (hg : s.slu.act[n]? = some g) (hmay : s.gateMay g = true)
    (hedge : g.nextEdge s.frameTicks s.now = some e) (hshut : g.isOpen = false) (hsoon : e ≤ s.now + 313) :
    exec (.gateWake n) s = .next ((s.setGate n fun g => { g with awake := true }).wakeEgress g.port) := by
  change execGateWake n s = _
  simp [execGateWake, hg, hedge, hmay, hshut, hsoon]

theorem exec_gateOpen {k : Nat} (hg : s.slu.act[n]? = some g) (hmay : s.gateMay g = true) (hk : k = s.now / s.frameTicks)
    (hsel : k % 2 ^ g.rep = g.phase) (hlo : k * s.frameTicks + g.opn ≤ s.now) (hhi : s.now < k * s.frameTicks + g.opn + g.lenm1 + 1)
    (hnew : g.closeAt ≠ k * s.frameTicks + g.opn + g.lenm1 + 1) :
    exec (.gateOpen n) s = .next ((s.setGate n fun g => { g with
      isOpen := true, awake := true, crossed := 0, closeAt := k * s.frameTicks + g.opn + g.lenm1 + 1 }).wakeEgress g.port) := by
  subst hk
  change execGateOpen n s = _
  rw [State.setGate_of_some hg]
  simp [execGateOpen, hg, hmay, Gate.selects, Gate.edge, hsel, hlo, hhi, hnew, State.setGate_of_some hg]

theorem exec_gateOpen_closed (hg : s.slu.act[n]? = some g) (hpart : s.pstate g.pid ≠ 1) : exec (.gateOpen n) s = .next s := by
  change execGateOpen n s = _
  simp [execGateOpen, hg, State.gateMay, hpart]

theorem exec_gateClose (hg : s.slu.act[n]? = some g) (hopen : g.isOpen = true) (hat : g.closeAt ≤ s.now) :
    exec (.gateClose n) s = .next (
      if (g.strict && g.begun && !(!(s.gateStreams g).isEmpty && (s.gateStreams g).all fun st => g.finished.contains st.sid) &&
          decide (g.crossed < g.tiles) && s.gateActs g) = true then
        (s.setGate n fun g => { g with isOpen := false, awake := false }).overrun g.pid g.set g.flow g.sid g.port s.now g.crossed g.tiles
      else s.setGate n fun g => { g with isOpen := false, awake := false }) := by
  change execGateClose n s = _
  simp only [execGateClose, hg, hopen, hat, decide_true, Bool.and_self, if_true, State.closeGate, Bool.not_true, Bool.false_eq_true,
    if_false]

/-- Settles O52: sets by their commands, gates by what their entry reads afterwards. -/
theorem sluice : Obligations.Sluice := by
  refine ⟨fun s o pid => ⟨fun fva len r ha hpart hal hfva hep hlen hr => hr ▸ exec_sluiceLoad ha hpart hal hfva hep hlen,
      fun fva len l s1 hl hs1 => ⟨exec_sluiceLoadComplete_open hl, fun st => exec_sluiceLoadComplete_failed hl hs1,
        fun d set gs => exec_sluiceLoadComplete_good hl hs1, fun d => exec_sluiceLoadComplete_bad hl hs1⟩,
      fun set => exec_sluiceRemove_active, fun set => exec_sluiceRemove_used, fun ts => exec_sluiceCommit, s.boundary_spec,
      fun c hc => ⟨fun hnow => ?_, fun hnow => ?_⟩⟩,
    fun s n g hg => ⟨fun hrun hlock hpart => ?_, exec_gateOpen_closed hg, fun hnow => ?_,
      fun hopen hat => ⟨fun hlax => ?_, fun hstrict hbegun hfew hrun hnone => ?_⟩⟩⟩
  · rw [exec_sluiceBankSwitch hc, if_pos hnow]
  · refine ⟨_, (exec_sluiceBankSwitch hc).trans (congrArg _ (if_neg (Nat.not_lt.2 hnow))), rfl, rfl, rfl, ?_, State.rd_noteSets.1,
      (s.switched_frame pid c.2).2⟩
    exact State.rd_noteSets.2.trans (State.rd_wr_self _ _)
  · have hmay : s.gateMay g = true := by simp [State.gateMay, State.gateActs, hrun, hlock, hpart]
    exact ⟨fun e hedge hshut hsoon => ⟨_, exec_gateWake hg hmay hedge hshut hsoon, State.setGate_wakeEgress hg _ _⟩,
      fun k hk hsel hlo hhi hnew => ⟨_, exec_gateOpen hg hmay hk hsel hlo hhi hnew, State.setGate_wakeEgress hg _ _⟩⟩
  · change execGateClose n s = _
    simp [execGateClose, hg, Nat.not_le.2 hnow]
  · rw [exec_gateClose hg hopen hat, if_neg]
    obtain h | h | h := hlax
    · simp [h]
    · simp [h]
    · simp [Nat.not_lt.2 h]
  · rw [exec_gateClose hg hopen hat, if_pos]
    simp [hstrict, hbegun, hfew, hnone, State.gateActs, hrun]

end Sys2Proof.Machine

/-! Proofs about partitions, granules and keys (chapter 13). -/

namespace Sys2Proof.Machine

open Sys2Proof

/-- A PID in CLOSING whose requests have drained, while an atomic buffer still holds a line of it. -/
def drainedWithBuffer : State :=
  State.wr { State.reset with
    sec := { State.reset.sec with downs := [⟨1, 0, 0, 0, 0, 0, 0, 0, 0, 0, 0, 0, 0, 0, 0, 0⟩] }
    req := { State.reset.req with atoms := [⟨0, 1, 0, 0, [], 0, 0, false, []⟩] } } (K.partState 1) 2

theorem exec_teardownDrainEnd_buffered :
    exec (.teardownDrainEnd 1) drainedWithBuffer = .next (drainedWithBuffer.backLeft 1).settleAll := by
  change execTeardownDrainEnd 1 drainedWithBuffer = _
  have hdown : (drainedWithBuffer.sec.downs.find? fun d => d.pid = 1) = some ⟨1, 0, 0, 0, 0, 0, 0, 0, 0, 0, 0, 0, 0, 0, 0, 0⟩ := rfl
  have hstate : drainedWithBuffer.pstate 1 = 2 := by decide
  have hearly : ¬ 0 + 62500 ≤ drainedWithBuffer.now := by decide
  have hdrained : drainedWithBuffer.drained 1 = true := by decide
  have hleft : (drainedWithBuffer.req.atoms.any fun l => l.pid = 1 && !l.fetching) = true := rfl
  simp only [execTeardownDrainEnd, hdown, hstate, hearly, hdrained, hleft, ne_eq, not_true_eq_false, if_false, Bool.not_true,
    Bool.false_eq_true, if_true]

/-- Refutes O53: where an atomic buffer holds a line of the PID, the line is written back first, and the teardown waits (R338), also
when the requests have drained. -/
theorem not_partitionsAndKeys : ¬ Obligations.PartitionsAndKeys := by
  intro h
  obtain ⟨-, -, hdrain⟩ := h.1 drainedWithBuffer (.mdp 0 0) 1
  have hgone := (hdrain _ rfl (by decide)).1 (.inl (by decide))
  have hsame := Host.Outcome.next.inj (exec_teardownDrainEnd_buffered.symm.trans hgone)
  have hstate : (drainedWithBuffer.backLeft 1).settleAll.rd (K.partState 1) ≠ (drainedWithBuffer.teardown 1).rd (K.partState 1) := by
    decide
  exact hstate (congrArg (fun t => t.rd (K.partState 1)) hsame)

end Sys2Proof.Machine

/-! Proofs about management sessions, their requests, and commits of the retained image (chapter 14). -/

namespace Sys2Proof.Machine

open Sys2Proof

variable {s : State} {o : Origin}

/-! ### Datagrams (R371 to R374) -/

section Datagrams

variable {h : MdpHead} (ok : Bool) (take : State)

theorem State.datagram_fragment (hf : h.fragment = true) : s.datagram h ok take = s := by
  simp [State.datagram, hf]

variable (hm : s.managed = true) (hf : h.fragment = false)
include hm hf

theorem State.datagram_sound : s.datagram h true take = take := by
  simp [State.datagram, hm, hf]

theorem State.datagram_unsound : s.datagram h false take = s.bump K.mdpDrops 1 := by
  simp [State.datagram, hm, hf]

end Datagrams

/-- What a sound header is, negated as R374 lists it. -/
theorem mdpSound_eq_false {h : MdpHead} {n : Nat}
    (hbad : h.magic ≠ 0x4D44 ∨ h.version ≠ 1 ∨ h.len ≠ n ∨ 1024 < n) : mdpSound h n = false := by
  simp only [mdpSound, Bool.and_eq_false_iff, decide_eq_false_iff_not]
  omega

/-! ### Sessions are opened and closed -/

theorem idlest_mem {l : List Session} {n : Session} (hl : idlest l = some n) : n ∈ l := by
  induction l generalizing n with
  | nil => cases hl
  | cons a l ih =>
    unfold idlest at hl
    split at hl
    · obtain rfl := Option.some.inj hl
      exact List.mem_cons_self
    · next m hm =>
      split at hl
      · obtain rfl := Option.some.inj hl
        exact List.mem_cons_self
      · obtain rfl := Option.some.inj hl
        exact List.mem_cons_of_mem _ (ih hm)

theorem idlest_isSome {l : List Session} (hl : l ≠ []) : (idlest l).isSome = true := by
  cases l with
  | nil => exact absurd rfl hl
  | cons a l =>
    unfold idlest
    split
    · rfl
    · split <;> rfl

/-- R371: there is room for one more once the session that has been idle for longest is closed. -/
theorem State.roomForSession_length (h8 : s.mgt.sessions.length ≤ 8) : s.roomForSession.mgt.sessions.length < 8 := by
  unfold State.roomForSession
  split
  · assumption
  · next hfull =>
    split
    · next n hn =>
      have hlt : (s.mgt.sessions.filter fun m => m.id ≠ n.id).length < s.mgt.sessions.length :=
        List.length_filter_lt_length_iff_exists.2 ⟨n, idlest_mem hn, by simp⟩
      exact Nat.lt_of_lt_of_le hlt h8
    · next hn =>
      have hne : s.mgt.sessions ≠ [] := fun h0 => hfull (by simp [h0])
      simpa [hn] using idlest_isSome hne

theorem State.roomForSession_out (s : State) : s.roomForSession.out = s.out :=
  (State.roomForSession_only (List.Subset.refl _) (State.Only.refl [.mgt] s)).agrees .out rfl

theorem State.openSession_length (op : SessionOpenOp) (h8 : s.mgt.sessions.length ≤ 8) :
    (s.openSession op).mgt.sessions.length ≤ 8 := by
  have hroom := State.roomForSession_length h8
  simpa [State.openSession, State.draw, State.mapMgt, State.emit] using hroom

theorem State.openSession_out (op : SessionOpenOp) : ∃ a b, (s.openSession op).out = s.out ++ [a, b] :=
  ⟨_, _, ((List.append_assoc _ _ _).trans (congrArg (· ++ _) s.roomForSession_out))⟩

theorem exec_sessionOpen_sound {op : SessionOpenOp} (hm : s.managed = true) (hsound : mdpSound op.head 338 = true)
    (hf : op.head.fragment = false) (hk : op.staticKey.length = 97) (he : op.ephemeral.length = 97) (hn : op.nonce.length = 48)
    (hs : op.sig.length = 96) :
    exec (.sessionOpen op) s = .next (if s.managerOk op then s.openSession op else s.bump K.mdpAuthFails 1) := by
  change execSessionOpen op s = _
  simp only [execSessionOpen, hsound, hk, he, hn, hs, decide_true, Bool.and_self]
  rw [State.datagram_sound _ hm hf]

theorem exec_sessionOpen_unsound {op : SessionOpenOp} (hm : s.managed = true) (hf : op.head.fragment = false)
    (hbad : op.staticKey.length ≠ 97 ∨ op.ephemeral.length ≠ 97 ∨ op.nonce.length ≠ 48 ∨ op.sig.length ≠ 96 ∨
      op.head.magic ≠ 0x4D44 ∨ op.head.version ≠ 1 ∨ op.head.len ≠ 338) :
    exec (.sessionOpen op) s = .next (s.bump K.mdpDrops 1) := by
  have hok : (mdpSound op.head 338 && op.staticKey.length = 97 && op.ephemeral.length = 97 && op.nonce.length = 48 &&
      op.sig.length = 96) = false := by
    simp only [mdpSound, Bool.and_eq_false_iff, decide_eq_false_iff_not]
    omega
  change execSessionOpen op s = _
  rw [execSessionOpen, hok, State.datagram_unsound _ hm hf]

theorem exec_sessionClose_known {n : Session} (hm : s.managed = true) (hn : n ∈ s.mgt.sessions) :
    exec (.sessionClose ⟨⟨0x4D44, 1, 0, true, false⟩, n.id⟩) s = .next (s.closeSession n.id) := by
  have hany : (s.mgt.sessions.any fun m => m.id = n.id) = true := List.any_eq_true.2 ⟨n, hn, decide_eq_true rfl⟩
  change execSessionClose _ s = _
  rw [execSessionClose, hany, show mdpSound _ 0 = true from rfl]
  exact congrArg Host.Outcome.next (State.datagram_sound _ hm rfl)

theorem exec_sessionClose_unsound {op : SessionCloseOp} (hm : s.managed = true) (hf : op.head.fragment = false)
    (hbad : op.head.magic ≠ 0x4D44 ∨ op.head.version ≠ 1 ∨ op.head.len ≠ 0 ∨ op.head.tagOk = false) :
    exec (.sessionClose op) s = .next (s.bump K.mdpDrops 1) := by
  have hok : (mdpSound op.head 0 && op.head.tagOk) = false := by
    simp only [mdpSound, Bool.and_eq_false_iff, decide_eq_false_iff_not]
    tauto
  change execSessionClose op s = _
  rw [execSessionClose, hok, Bool.false_and, State.datagram_unsound _ hm hf]

theorem any_session_eq_false {id : Nat} (hid : ∀ n ∈ s.mgt.sessions, n.id ≠ id) (p : Session → Bool) :
    (s.mgt.sessions.any fun n => n.id = id && p n) = false :=
  List.any_eq_false.2 fun n hn => by simp [hid n hn]

theorem exec_sessionClose_unknown {op : SessionCloseOp} (hm : s.managed = true) (hf : op.head.fragment = false)
    (hid : ∀ n ∈ s.mgt.sessions, n.id ≠ op.session) : exec (.sessionClose op) s = .next (s.bump K.mdpDrops 1) := by
  have hany : (s.mgt.sessions.any fun n => n.id = op.session) = false :=
    List.any_eq_false.2 fun n hn => by simp [hid n hn]
  change execSessionClose op s = _
  rw [execSessionClose, hany, Bool.and_false, State.datagram_unsound _ hm hf]

theorem exec_sessionIdleTimeout_idle {n : Session} (hn : n ∈ s.mgt.sessions) (hidle : n.lastUse + 75000000000 ≤ s.now) :
    exec (.sessionIdleTimeout n.id) s = .next (s.closeSession n.id) := by
  refine congrArg Host.Outcome.next (if_pos (List.any_eq_true.2 ⟨n, hn, ?_⟩))
  simpa using hidle

theorem exec_sessionIdleTimeout_unknown {id : Nat} (hid : ∀ n ∈ s.mgt.sessions, n.id ≠ id) :
    exec (.sessionIdleTimeout id) s = .next s :=
  congrArg Host.Outcome.next (if_neg (Bool.eq_false_iff.1 (any_session_eq_false hid _)))

theorem State.awaitCommit_dirty (s : State) (o : Origin) (clamped : Bool) : (s.awaitCommit o clamped).nv.dirty = true := rfl

theorem exec_mgrKeyHash_taken {val : List Byte} (ha : s.allows o K.mgrKeyHash 0 = true) (hlen : val.length = 48) :
    exec (.mgrKeyHash o val) s =
      .next (((s.wr K.mgrKeyHash (leNat val)).mapMgt fun m => { m with sessions := [] }).awaitCommit o false) := by
  change execMgrKeyHash o val s = _
  rw [execMgrKeyHash, State.command_of_allows _ ha]
  simp [hlen, State.finish]

/-! ### Requests (R373 to R377) -/

section Requests

variable {d : MdpReq} {n : Session} (hn : (s.mgt.sessions.find? fun n => n.id = d.session) = some n) (hm : s.managed = true)
include hn hm

theorem State.mdpRequest_unsound (perform : State → Origin → State) (hf : d.head.fragment = false)
    (hbad : d.head.magic ≠ 0x4D44 ∨ d.head.version ≠ 1 ∨ d.head.len ≠ d.val.length ∨ 1024 < d.val.length ∨ d.head.tagOk = false) :
    s.mdpRequest d perform = s.bump K.mdpDrops 1 := by
  have hok : (mdpSound d.head d.val.length && d.head.tagOk) = false := by
    by_cases htag : d.head.tagOk = false
    · simp [htag]
    · rw [mdpSound_eq_false (by tauto), Bool.false_and]
  rw [State.mdpRequest, hn]
  simp only [hok]
  exact State.datagram_unsound _ hm hf

variable (hhead : d.head = ⟨0x4D44, 1, d.val.length, true, false⟩) (hlen : d.val.length ≤ 1024)
include hhead hlen

theorem State.mdpRequest_fresh (perform : State → Origin → State) (hseq : n.seqCase d.seq = .fresh) : s.mdpRequest d perform =
    perform ((s.setSession d.session fun n => { n with lastUse := s.now }).setSession d.session fun n => n.receive d s.now)
      (.mdp d.session d.seq) := by
  have hok : (mdpSound d.head d.val.length && d.head.tagOk) = true := by simp [mdpSound, hhead, hlen]
  rw [State.mdpRequest, hn]
  simp only [hok, hseq]
  exact State.datagram_sound _ hm (by rw [hhead])

theorem State.mdpRequest_below (perform : State → Origin → State) (hseq : n.seqCase d.seq = .below) : s.mdpRequest d perform =
    s.setSession d.session fun n => { n with lastUse := s.now } := by
  have hok : (mdpSound d.head d.val.length && d.head.tagOk) = true := by simp [mdpSound, hhead, hlen]
  rw [State.mdpRequest, hn]
  simp only [hok, hseq]
  exact State.datagram_sound _ hm (by rw [hhead])

theorem State.mdpRequest_seen (perform : State → Origin → State) {r : DupRec} (hseq : n.seqCase d.seq = .seen r) :
    s.mdpRequest d perform = (s.setSession d.session fun n => { n with lastUse := s.now }).repeated d r := by
  have hok : (mdpSound d.head d.val.length && d.head.tagOk) = true := by simp [mdpSound, hhead, hlen]
  rw [State.mdpRequest, hn]
  simp only [hok, hseq]
  exact State.datagram_sound _ hm (by rw [hhead])

end Requests

theorem State.repeated_answered {d : MdpReq} {r : DupRec} {a : Nat × Bool × List Byte} (ha : r.answer = some a) :
    s.repeated d r = (((s.bump K.mdpDuplicates 1).setSession d.session fun n => { n with nonce := n.nonce + 1 }).emit
      (.reply (.mdp d.session d.seq) d.portB a.1 a.2.1 false a.2.2)) := by
  simp only [State.repeated, ha]

theorem Session.seqCase_ahead {n : Session} {seq : Nat} (h : n.high < seq) : n.seqCase seq = .fresh := if_pos h

theorem Session.seqCase_below {n : Session} {seq : Nat} (h : seq + 64 ≤ n.high) : n.seqCase seq = .below :=
  (if_neg (by omega)).trans (if_pos h)

/-- R377: the one interim response of a request. -/
def Session.sendInterim (seq : Nat) (n : Session) : Session :=
  { n with nonce := n.nonce + 1, win := mapIf (fun r => r.seq = seq) (fun r => { r with interim := true }) n.win }

/-- After its interim response a request is not overdue again. -/
theorem Session.overdue_sendInterim (n : Session) (seq now : Nat) : (n.sendInterim seq).overdue seq now = false := by
  refine List.any_eq_false.2 fun r hr => ?_
  obtain ⟨w, -, rfl⟩ := List.mem_map.1 hr
  by_cases hw : w.seq = seq <;> simp [hw]

theorem exec_mdpInterimResponse_overdue {session seq : Nat} {n : Session}
    (hn : (s.mgt.sessions.find? fun n => n.id = session) = some n) (hover : n.overdue seq s.now = true) :
    exec (.mdpInterimResponse session seq) s = .next ((s.setSession session (·.sendInterim seq)).emit
      (.reply (.mdp session seq) (s.replyPort session seq) Status.ok false true [])) := by
  change execMdpInterimResponse session seq s = _
  simp only [execMdpInterimResponse, hn, hover, if_true]
  rfl

theorem State.find_setSession {id : Nat} {f : Session → Session} {n : Session} (hf : ∀ n, (f n).id = n.id)
    (hn : (s.mgt.sessions.find? fun n => n.id = id) = some n) :
    ((s.setSession id f).mgt.sessions.find? fun n => n.id = id) = some (f n) :=
  List.find?_mapIf (fun n => by simp [hf]) hn

/-! ### Commits (R369) -/

theorem exec_retainedCommit_due (hm : s.managed = true) (hd : s.nv.dirty = true) (hdue : s.nv.since + 12500000 ≤ s.now) :
    exec .retainedCommit s = .next ((s.commitImage.mapNv fun n => { n with waiting := [] }).each s.nv.waiting fun s w =>
      s.reply w.origin Status.ok w.clamped []) := by
  change execRetainedCommit s = _
  simp only [execRetainedCommit, hm, hd, hdue, decide_true, Bool.and_self, if_true]

theorem exec_retainedCommit_early (hd : s.now < s.nv.since + 12500000) : exec .retainedCommit s = .next s := by
  refine congrArg Host.Outcome.next (if_neg ?_)
  simp [Nat.not_le.2 hd]

/-- Replies to those who wait leave the banks and the entries as the commit made them. -/
theorem State.eachReply_frame (s : State) (ws : List Waiting) :
    State.Only [.out, .ep, .mgt] s (s.each ws fun s w => s.reply w.origin Status.ok w.clamped []) :=
  State.each_preserves (P := State.Only [.out, .ep, .mgt] s)
    (fun _ w h => State.reply_only (List.Subset.refl _) h w.origin Status.ok w.clamped []) ws (.refl _ s)

/-- Settles O54. -/
theorem managementSessions : Obligations.ManagementSessions := by
  unfold Obligations.ManagementSessions
  refine ⟨fun s op hm => ⟨?opened, fun hf hbad => exec_sessionOpen_unsound hm hf hbad,
      fun h hf => congrArg Host.Outcome.next (State.datagram_fragment _ _ hf), fun n hn => ⟨?_, ?_, exec_sessionIdleTimeout_idle hn⟩,
      fun id hid => ⟨fun h hf => exec_sessionClose_unknown hm hf hid, exec_sessionIdleTimeout_unknown hid⟩, ?key⟩,
    fun s d n hm hn => ⟨?taken, fun hf hbad => ?_, Session.seqCase_ahead, Session.seqCase_below, ?interim⟩,
    fun s hm hd => ⟨?commit, exec_retainedCommit_early⟩⟩
  case opened =>
    intro hsound hf hk he hno hs
    exact ⟨exec_sessionOpen_sound hm hsound hf hk he hno hs, State.openSession_length op, State.openSession_out op⟩
  · rintro h rfl
    exact exec_sessionClose_known hm hn
  · intro h hf hbad
    exact exec_sessionClose_unsound hm hf hbad
  case key =>
    intro o val ha hlen
    exact ⟨_, exec_mgrKeyHash_taken ha hlen, State.rd_wr_self _ _, rfl, State.awaitCommit_dirty _ _ _⟩
  case taken =>
    intro hhead hlen
    refine ⟨_, rfl, fun hseq => ⟨_, rfl, congrArg Host.Outcome.next (State.mdpRequest_fresh hn hm hhead hlen _ hseq),
      fun hoff => congrArg Host.Outcome.next ((State.mdpRequest_fresh hn hm hhead hlen _ hseq).trans (by rw [if_pos hoff])),
      fun hoff => congrArg Host.Outcome.next ((State.mdpRequest_fresh hn hm hhead hlen _ hseq).trans (by rw [if_neg hoff]))⟩,
      fun hseq => ⟨congrArg Host.Outcome.next (State.mdpRequest_below hn hm hhead hlen _ hseq),
        congrArg Host.Outcome.next (State.mdpRequest_below hn hm hhead hlen _ hseq)⟩, fun r a hseq hans => ?_⟩
    have hrep := State.repeated_answered (s := s.setSession d.session fun n => { n with lastUse := s.now }) (d := d) hans
    refine ⟨_, congrArg Host.Outcome.next ((State.mdpRequest_seen hn hm hhead hlen _ hseq).trans hrep),
      congrArg Host.Outcome.next ((State.mdpRequest_seen hn hm hhead hlen _ hseq).trans hrep), rfl, State.rd_bump_self _ _, ?_⟩
    have hframe : State.Only [.out, .od, .mgt] s (s.setSession d.session fun n => { n with lastUse := s.now }) :=
      State.setSession_only (Sect.listed rfl) (.refl _ s) _ _
    exact hrep ▸ (State.repeated_only (List.Subset.refl _) hframe d r).2
  · exact ⟨congrArg Host.Outcome.next (State.mdpRequest_unsound hn hm _ hf hbad),
      congrArg Host.Outcome.next (State.mdpRequest_unsound hn hm _ hf hbad)⟩
  case interim =>
    intro hover
    refine ⟨_, exec_mdpInterimResponse_overdue hn hover, rfl, fun m hfind => ?_⟩
    obtain rfl := Option.some.inj ((State.find_setSession (f := Session.sendInterim d.seq) (fun _ => rfl) hn).symm.trans hfind)
    exact Session.overdue_sendInterim n d.seq s.now
  case commit =>
    intro hdue
    have hframe := State.eachReply_frame (s.commitImage.mapNv fun n => { n with waiting := [] }) s.nv.waiting
    obtain ⟨ha, hb⟩ := hframe.agrees .nv rfl
    obtain ⟨hdirty, hwait, -⟩ := hframe.agrees .nvq rfl
    exact ⟨_, exec_retainedCommit_due hm hd hdue, hdirty, hwait,
      (State.rd_congr (hframe.agrees .od rfl) _).trans (State.rd_bump_self _ _),
      fun hnew => ⟨hb.trans (if_pos hnew), ha.trans (if_pos hnew)⟩,
      fun hnew => ⟨ha.trans (if_neg (Bool.eq_false_iff.1 hnew)), hb.trans (if_neg (Bool.eq_false_iff.1 hnew))⟩⟩

end Sys2Proof.Machine

/-! Proofs about die faults, management ports and the comparison of a shadow (chapter 16). -/

namespace Sys2Proof.Machine

open Sys2Proof

variable {s : State} {o : Origin}

/-! ### Die faults (R385, R386) -/

theorem State.dieFails_clusters (sd st : Nat) : ∀ c ∈ (s.dieFails sd st).stn.clusters, c.1 ≠ sd := fun _ hc =>
  of_decide_eq_true (List.mem_filter.1 hc).2

theorem State.dieFails_cores (sd st : Nat) : ∀ c ∈ (s.dieFails sd st).stn.cores, c.sd = sd → c.out = true := by
  intro c hc hsd
  obtain ⟨d, -, rfl⟩ := List.mem_map.1 hc
  by_cases hd : d.sd = sd
  · rw [if_pos hd]
  · simp [hd] at hsd

theorem exec_stationDieFault_die {sd : Nat} (hm : s.managed = true) (hsd : sd < 4) : exec (.stationDieFault sd) s =
    .next ((s.logFault 0x09 sd 0 4 Status.checkFail 0 0).dieFails sd Status.checkFail).settleAll :=
  congrArg Host.Outcome.next (if_pos (by simp [hm, hsd]))

/-- What a lost end-point loses of its own: its queues and its counters. -/
def EpSt.without (ep : Nat) (e : EpSt) : Prop := (∀ q ∈ e.queues, q.ep ≠ ep) ∧ ∀ c ∈ e.ctrs, c.ep ≠ ep

theorem State.loseQueues_without (s : State) (ep : Nat) : (s.loseQueues ep).ep.without ep := by
  have hdrop : ∀ (t : State) (l : List Tx), (t.each l fun s t => s.dropTx t.id).ep = t.ep := fun t l =>
    State.each_keeps (g := State.ep) (f := fun s t => s.dropTx t.id) (fun _ _ => rfl) l t
  refine (congrArg (EpSt.without ep) (hdrop _ _)).mpr (State.each_preserves (P := fun t => t.ep.without ep) ?_ _ ?_)
  · intro t q ht
    split
    · next o ho =>
      obtain ⟨_, _, he⟩ := t.reply_ep o Status.aborted false []
      rw [he]
      exact ht
    · exact ht
  · exact ⟨fun q hq => of_decide_eq_true (List.mem_filter.1 hq).2, fun c hc => of_decide_eq_true (List.mem_filter.1 hc).2⟩

theorem mem_insertOnce (l : List Nat) (a : Nat) : (insertOnce l a).contains a = true := by
  unfold insertOnce
  split
  · assumption
  · simp

/-- What an end-point die's fault does before the end-point itself goes: its attach ports, its CXL port, its station die and the
lines of its atomic buffer. -/
def State.epLinksLost (s : State) (ep : Nat) : State :=
  let s1 := s.logFault 0x0A ep 0 4 Status.homeLost 0 (s.linesHeld ep)
  let s2 := s1.each ((List.range 16).filter fun a => epOfPort a = ep && s1.bondOf a = a) fun s b => s.apDown b psDark
  ((s2.cpDown ep).dieFails ep Status.homeLost).loseAtoms ep

theorem exec_epDieFault_up {ep : Nat} (hm : s.managed = true) (hep : ep < 4) (hup : s.epUp ep = true) :
    exec (.epDieFault ep) s = .next
      ((((s.epLinksLost ep).loseQueues ep).loseXlate ep).mapEp fun e => { e with dead := insertOnce e.dead ep }).settleAll := by
  have hcond : (s.managed && decide (ep < 4) && s.epUp ep) = true := by rw [hm, hup, decide_eq_true hep]; rfl
  exact congrArg Host.Outcome.next (if_pos hcond)

/-- What is left of an end-point once its queues, counters and translations are gone. -/
theorem State.endPoint_gone (v : State) (ep : Nat) :
    ∃ u, u = ((v.loseQueues ep).loseXlate ep).mapEp (fun e => { e with dead := insertOnce e.dead ep }) ∧ u.epUp ep = false ∧
      u.ep.without ep ∧ ∀ e ∈ u.xl.rtc, e.ep ≠ ep :=
  ⟨_, rfl, congrArg Bool.not (mem_insertOnce _ ep), v.loseQueues_without ep, fun _ he => of_decide_eq_true (List.mem_filter.1 he).2⟩

theorem exec_epDieFault_down {ep : Nat} (hup : s.epUp ep = false) : exec (.epDieFault ep) s = .next s :=
  congrArg Host.Outcome.next (if_neg (by simp [hup]))

theorem exec_oeDieFault_live {oe : Nat} (hm : s.managed = true) (hoe : oe < 8) (hlive : s.lnk.oeDead.contains oe = false) :
    exec (.oeDieFault oe) s = .next (((((s.logFault 0x0B oe 0 4 0 0 0).mapLnk fun l => { l with
      oeDead := insertOnce l.oeDead oe }).fpDown (2 * oe) psDark 0 false).fpDown (2 * oe + 1) psDark 0 false).settleAll) :=
  congrArg Host.Outcome.next (if_pos (by rw [hm, hlive, decide_eq_true hoe]; rfl))

/-- A port that no peer is behind changes nothing but its own state when it goes dark. -/
theorem State.rd_fpDown_unused {n : Nat} (code cause : Nat) (laser : Bool) (hn : s.meshN ≤ n + 1) :
    (s.fpDown n code cause laser).rd (K.fpState n) = code := by
  have hne : K.meshN ≠ K.fpState n := by simp only [K.meshN, K.fpState]; omega
  have hmesh : (s.wr (K.fpState n) code).meshN ≤ n + 1 := (State.rd_wr_ne _ _ _ hne).le.trans hn
  rw [State.fpDown, State.portMasked]
  exact (congrArg (State.rd · _) (if_pos hmesh)).trans (State.rd_wr_self _ _)

/-! ### Management ports -/

theorem exec_managementLinkUp_on (b : Bool) (hs : s.life.mstate ≠ .off) : exec (.managementLinkUp b) s = .next (s.wr (mgmtKey b) 1) :=
  congrArg Host.Outcome.next (if_neg hs)

theorem exec_managementLinkDown_up {b : Bool} (hs : s.life.mstate ≠ .off) (hup : s.rd (mgmtKey b) ≠ 0) :
    exec (.managementLinkDown b) s = .next ((s.wr (mgmtKey b) 0).logFault 0x11 (b2n b) 0 4 0 0 0) :=
  congrArg Host.Outcome.next (if_neg (by simp [hs, hup]))

/-! ### The shadow (R387 to R391) -/

theorem exec_shadowPartner_refused {v : Nat} (ha : s.allows o K.shadowPartner 0 = true)
    (hbad : s.locked = false ∨ (v ≠ 31 ∧ (s.peer v).vstate ≠ 3)) :
    exec (.shadowPartner o v) s = .next (s.reply o Status.refused false []) := by
  have hbad' : (decide (s.life.mstate ≠ .shadow) || !s.locked || !(decide (v = 31) || decide ((s.peer v).vstate = 3))) = true := by
    rcases hbad with hl | ⟨h31, hst⟩
    · simp [hl]
    · simp [h31, hst]
  change execShadowPartner o v s = _
  rw [execShadowPartner, State.command_of_allows _ ha]
  simp only [hbad', if_true, State.finish, Done.refused]

section Shadow

variable (hs : s.life.mstate = .shadow)
include hs

theorem exec_shadowPartner_taken {v : Nat} (ha : s.allows o K.shadowPartner 0 = true) (hlock : s.locked = true)
    (hv : v = 31 ∨ (s.peer v).vstate = 3) (hset : s.settle o ((s.senderPid o).getD 0) K.shadowPartner 0 v = (s, v, false)) :
    exec (.shadowPartner o v) s = .next (((s.wr K.shadowPartner v).shadowRestart v).reply o Status.ok false []) := by
  have hv' : (decide (v = 31) || decide ((s.peer v).vstate = 3)) = true := by simpa using hv
  change execShadowPartner o v s = _
  rw [execShadowPartner, State.command_of_allows _ ha]
  simp only [hs, hlock, hv', hset, ne_eq, not_true_eq_false, decide_false, Bool.not_true, Bool.or_self, Bool.false_eq_true, if_false,
    State.finish]

section Feed

variable {pid flow index input sid : Nat} {x : Tile} {i : Inst} {st : Strm} {c : Cons}
  (hrun : s.shd.running = true) (hflow : s.running pid flow = true) (hout : s.shd.outs.contains ⟨pid, flow, index⟩ = false)
  (hi : s.instGet ⟨pid, flow, index⟩ = some i) (hsid : i.ins[input]? = some sid) (hst : s.strmGet pid flow sid = some st)
  (hc : (st.cons.find? fun c => c.station = some index) = some c)
include hrun hflow hout hi hsid hst hc

theorem exec_shadowFeedTile_next (hnum : x.tnum = c.expect) (hfit : (s.intoBuf pid flow sid c.idx x).2 = .done) :
    exec (.shadowFeedTile pid flow index input x) s = .next ((s.intoBuf pid flow sid c.idx x).1.setCons pid flow sid c.idx
      fun c => { c with expect := (c.expect + 1) % 2 ^ 32 }).settleAll := by
  change execShadowFeedTile pid flow index input x s = _
  simp only [execShadowFeedTile, hs, hrun, hflow, hout, hi, hsid, hst, hc, hnum, hfit, Option.bind_some, ne_eq, not_true_eq_false,
    decide_false, Bool.not_true, Bool.or_self, Bool.false_eq_true, if_false, if_true]

theorem exec_shadowFeedTile_gap (hnum : x.tnum ≠ c.expect) (hgap : (x.tnum + 2 ^ 32 - c.expect) % 2 ^ 32 < 2 ^ 31) :
    exec (.shadowFeedTile pid flow index input x) s = .next (s.stationOut ⟨pid, flow, index⟩) := by
  change execShadowFeedTile pid flow index input x s = _
  simp only [execShadowFeedTile, hs, hrun, hflow, hout, hi, hsid, hst, hc, hnum, hgap, Option.bind_some, ne_eq, not_true_eq_false,
    decide_false, Bool.not_true, Bool.or_self, Bool.false_eq_true, if_false, if_true]

end Feed

/-- The one digest that is held is that of the tile, so the pair is compared. -/
theorem exec_shadowDigest_pair {k : TileKey} {dg own : Nat} (hrun : s.shd.running = true)
    (hout : s.shd.outs.contains ⟨k.pid, k.flow, k.index⟩ = false) (hown : s.shd.own = [(k, own)]) :
    exec (.shadowDigest k dg) s = .next (((s.skipBefore k).mapShd fun h => { h with own := [] }).comparePair k own dg).settleAll := by
  have hskip : (s.skipBefore k).shd.own = [(k, own)] := by simp [State.skipBefore, State.mapShd, hown]
  change execShadowDigest k dg s = _
  simp only [execShadowDigest, hs, hrun, hout, hskip, State.mapShd, ne_eq, not_true_eq_false, decide_false, Bool.not_true, Bool.or_self,
    Bool.false_eq_true, if_false, List.find?_cons, decide_true, List.erase_cons_head]

theorem exec_shadowPass_over {T : Nat} (hT : s.shd.startAt = some T) (hrun : s.shd.running = true) (hmis : s.shd.mismatches = 0)
    (hover : T + 1250000000 * s.rd K.shadowPeriod ≤ s.now) (hmin : s.rd K.shadowMinTiles ≤ s.shd.compared) :
    exec .shadowPass s = .next ((s.mapShd fun h => { h with running := false }).wr K.shadowResult 2) := by
  change execShadowPass s = _
  simp only [execShadowPass, hT, hs, hrun, hmis, hover, hmin, decide_true, Bool.and_self, if_true]

end Shadow

theorem State.comparePair_equal (k : TileKey) (a : Nat) : s.comparePair k a a = s.mapShd fun h => { h with compared := h.compared + 1 } := by
  simp [State.comparePair, b2n]

theorem State.comparePair_unequal {a b : Nat} (k : TileKey) (h : a ≠ b) :
    State.Only [.od, .shd] s (s.comparePair k a b) ∧ (s.comparePair k a b).rd K.shadowResult = 3 :=
  ⟨State.comparePair_only (List.Subset.refl _) (.refl _ s) k a b, by
    rw [State.comparePair, if_neg h]
    exact State.rd_wr_self _ _⟩

/-- A comparison that failed fails the module, when nothing else follows. -/
theorem State.settleAll_failedShadow {t : State} (hsettled : s.settled = true) (hframe : State.Only [.od, .shd] s t)
    (hs : t.life.mstate = .shadow) (hres : t.rd K.shadowResult = 3) : t.settleAll.life.mstate = .failed := by
  simp only [State.settled, Bool.and_eq_true] at hsettled
  obtain ⟨⟨⟨hflows, hqueues⟩, hbuf⟩, -⟩ := hsettled
  have hstn : t.stn = s.stn := hframe.agrees .stn rfl
  have hep : t.ep = s.ep := hframe.agrees .ep rfl
  have hsame : t.settleFlows.settleCopies = t := by
    rw [State.settleFlows_of_done (by rw [hstn]; exact hflows), State.settleCopies_of_none (by rw [hep]; exact hqueues)]
  have hpump : t.pumpCap t.ep.buffered.length = t := by
    rw [hep, List.isEmpty_iff.1 hbuf]
    rfl
  simp only [State.settleAll, hsame, hpump, State.settleShadow, hs, hres, decide_true, Bool.and_self, if_true, State.enterFailed_life]

/-- Settles O56. -/
theorem dieFaultsAndShadow : Obligations.DieFaultsAndShadow := by
  unfold Obligations.DieFaultsAndShadow
  refine ⟨fun s => ⟨fun sd hm hsd => ⟨_, rfl, exec_stationDieFault_die hm hsd, State.dieFails_clusters _ _, State.rd_wr_self _ _,
      State.dieFails_cores _ _⟩, fun ep hm hep hup => ?_, fun ep => exec_epDieFault_down, fun oe => exec_oeDieFault_live,
      fun n => State.rd_fpDown_unused _ _ _, fun b hs => ⟨exec_managementLinkUp_on b hs, exec_managementLinkDown_up hs⟩⟩,
    fun s hs => ⟨fun o v ha => ⟨exec_shadowPartner_taken hs ha, exec_shadowPartner_refused ha⟩,
      fun pid flow index input x i sid st c hrun hflow hout hi hsid hst hc =>
        ⟨exec_shadowFeedTile_next hs hrun hflow hout hi hsid hst hc, exec_shadowFeedTile_gap hs hrun hflow hout hi hsid hst hc⟩,
      fun k dg own hrun hout hown => ⟨?equal, ?unequal⟩, fun T hT hrun hmis hover hmin => ?_⟩⟩
  · obtain ⟨u, rfl, hdead, ⟨hq, hc⟩, hrtc⟩ := (s.epLinksLost ep).endPoint_gone ep
    exact ⟨_, exec_epDieFault_up hm hep hup, hdead, hq, hc, hrtc⟩
  case equal =>
    rintro rfl hsettled
    rw [exec_shadowDigest_pair hs hrun hout hown, State.comparePair_equal]
    have hkept : (((s.skipBefore k).mapShd fun h => { h with own := [] }).mapShd fun h => { h with
        compared := h.compared + 1 }).settled = true :=
      (State.settled_congr (s := s) rfl rfl rfl rfl).trans hsettled
    rw [State.settleAll_of_settled hkept]
    exact ⟨_, rfl, rfl, rfl, rfl, rfl⟩
  case unequal =>
    intro hne hsettled
    have hkept : State.Only [.od, .shd] s ((s.skipBefore k).mapShd fun h => { h with own := [] }) :=
      State.mapShd_only (Sect.listed rfl) (State.skipBefore_only (Sect.listed rfl) (.refl _ s) k) _
    obtain ⟨-, hres⟩ := State.comparePair_unequal (s := (s.skipBefore k).mapShd fun h => { h with own := [] }) k hne
    have hframe := State.comparePair_only (List.Subset.refl _) hkept k own dg
    exact ⟨_, exec_shadowDigest_pair hs hrun hout hown,
      State.settleAll_failedShadow hsettled hframe ((congrArg (·.mstate) (hframe.agrees .life rfl)).trans hs) hres⟩
  · refine ⟨_, exec_shadowPass_over hs hT hrun hmis hover hmin, State.rd_wr_self _ _, rfl, ?_⟩
    exact (State.wr_only (Sect.listed rfl) (State.mapShd_only (Sect.listed rfl) (.refl [.od, .shd] s) _) _ _).2

end Sys2Proof.Machine

/-! Proofs about the requests of attach contexts (chapter 12). An accepted request leaves the port buffer, and its credit units
are owed back to the sender (R294): O11 and O12 state a next state in which the port owes nothing. -/

namespace Sys2Proof.Machine

open Sys2Proof

/-! ### The counterexample -/

/-- A context of partition 1 on attach port 0. -/
def boundContext : Ctx := ⟨0, 5, 0, 1, 7, 0, .bound, none, []⟩

/-- A request of that context without payload, at an aligned address. -/
def contextRequest : CapMsg := ⟨0, 0, 5, 17, 0x12340000, 0, 0, 0, 0, 0, false, false, false, false, 0, false, []⟩

/-- A member with attach port 0 up and the context bound. -/
def attachedModule : State :=
  { (State.reset.wr (K.apState 0) 2).wr (K.partState 1) 1 with
    life := { State.reset.life with mstate := .member }
    ep := { State.reset.ep with ctxs := [boundContext] } }

/-- The payload units of each pool that attach port 0 owes after a command. -/
def owedOnPort0 : Res → List Nat
  | .next t => (t.aport 0).owed
  | _ => []

/-- Refutes O11: the port that took a BLD owes the unit of its header (R294); in the state that O11 names it owes none. -/
theorem not_capRequests : ¬ Obligations.CapRequests := by
  intro h
  obtain ⟨-, -, hbld, -⟩ := h.1 attachedModule boundContext contextRequest
  have haccepts : attachedModule.capAccepts mtBLD contextRequest boundContext := ⟨by decide, by decide, by decide⟩
  have howed : owedOnPort0 (exec (.bld contextRequest) attachedModule) = [1, 0, 0] := by decide
  rw [hbld haccepts (by decide)] at howed
  exact absurd howed (by decide)

/-- Refutes O12: the port that took a FENCE owes the unit of its header (R294); in the state that O12 names it owes none. -/
theorem not_capOrderingAndCounters : ¬ Obligations.CapOrderingAndCounters := by
  intro h
  obtain ⟨hfence, -⟩ := h.1 attachedModule boundContext contextRequest
  have haccepts : attachedModule.capAccepts mtFENCE { contextRequest with ord := 1 } boundContext := ⟨by decide, by decide, by decide⟩
  have howed : owedOnPort0 (exec (.fenceAcquire (.cap contextRequest)) attachedModule) = [1, 0, 0] := by decide
  rw [hfence haccepts] at howed
  exact absurd howed (by decide)

end Sys2Proof.Machine

/-! Proofs about attach streams and the answers of requests to exported memory (chapter 12). -/

namespace Sys2Proof.Machine

open Sys2Proof

variable {s s0 : State} {m : CapMsg} {c : Ctx} {st : Strm}

/-! ### Parts of a tile (R303, R304) -/

section Sput

variable {f : Flow} (hs : s = s0.strmBack m 64) (hc : s.strmCtx m 64 = some c) (hf : s.flowGet c.pid (capFlow m) = some f)
  (hst : s.strmGet c.pid (capFlow m) (capSid m) = some st) (hdone : f.fst ≠ .done) (habort : f.fst ≠ .aborted) (hprod : st.prod = none)
  (hmid : st.pmid = s.mid) (hep : st.pep = c.ep) (hctx : st.pctx = c.n) (hcred : st.pcredits ≠ 0) (hfin : st.fin = false)
  (harg : m.arg = st.putBuf.length)
include hs hc hf hst hdone habort hprod hmid hep hctx hcred hfin harg

theorem exec_sput_part (hlast : m.last = false) : exec (.sput m) s0 =
    .next (s.setStrm c.pid (capFlow m) (capSid m) fun t => { t with putBuf := st.putBuf ++ m.data }) := by
  subst hs
  change execSput m s0 = _
  simp [execSput, hc, hf, hst, hdone, habort, hprod, hmid, hep, hctx, hcred, hfin, harg, hlast]

theorem exec_sput_last (hlast : m.last = true) : exec (.sput m) s0 =
    .next (((s.setStrm c.pid (capFlow m) (capSid m) fun t => { t with
      putBuf := [], pcredits := t.pcredits - 1 }).putTile c.pid (capFlow m) (capSid m) { Tile.ofPacked (st.putBuf ++ m.data) with
        poison := (Tile.ofPacked (st.putBuf ++ m.data)).poison || m.poi }).settleAll) := by
  subst hs
  change execSput m s0 = _
  simp [execSput, hc, hf, hst, hdone, habort, hprod, hmid, hep, hctx, hcred, hfin, harg, hlast]

end Sput

/-! ### Credits (R305) -/

theorem exec_scred_grants {k : Cons} (hs : s = s0.strmBack m 0) (hc : s.strmCtx m 0 = some c)
    (hst : s.strmGet c.pid (capFlow m) (capSid m) = some st)
    (hk : (st.cons.find? fun k => k.station.isNone && k.mid = s.mid && k.ep = c.ep && k.ctx = c.n) = some k) (harg : m.arg < 2 ^ 16)
    (hgot : m.arg + k.got ≤ st.depth) : exec (.scred m) s0 =
      .next ((s.setCons c.pid (capFlow m) (capSid m) k.idx fun k => { k with
        grant := k.grant + m.arg, got := k.got + m.arg }).pumpAttach c.pid (capFlow m) (capSid m) k.idx m.arg).settleAll := by
  subst hs
  have hfirst : min m.arg (st.depth - k.got) = m.arg := by omega
  change execScred m s0 = _
  simp only [execScred, hc, hst, hk, Nat.mod_eq_of_lt harg, hfirst, Nat.sub_self, List.range_zero]
  rfl

/-! ### Export requests (R306, R307) -/

theorem exec_xrsp_read {e : ExportReq} (hon : s0.capOn m.port = true) (hport : epOfPort m.port = m.ep) (hunits : capUnits m ≤ 64)
    (he : (s0.home.exps.find? fun e => e.ep = m.ep && e.ctx = m.ctx && e.xid % 65536 = m.tag) = some e) (hok : m.status = Status.ok)
    (hpoi : m.poi = false) (hwr : isWrite e.h.f = false) (hat : isAtomic e.h.f = false)
    (hs : s = s0.mapHome fun x => { x with exps := x.exps.erase e }) :
    exec (.xrsp m) s0 = .next (s.homeAnswer e.h Status.ok (s.loadIndicator e.h) m.data).settleAll := by
  subst hs
  change execXrsp m s0 = _
  simp only [execXrsp, hon, hport, Nat.not_lt.2 hunits, he, hok, hpoi, hwr, hat, show statusSeen Status.ok = Status.ok from rfl,
    Bool.not_true, ne_eq, not_true_eq_false, decide_false, Bool.or_self, Bool.false_eq_true, if_false, Bool.and_false, Bool.false_and]

theorem exec_exportTimeout_due {xid : Nat} {e : ExportReq} (he : (s0.home.exps.find? fun e => e.xid = xid) = some e)
    (hdue : e.since + 25000 ≤ s0.now) : exec (.exportTimeout xid) s0 =
      .next (((s0.mapHome fun x => { x with exps := x.exps.erase e }).bump (K.exportTimeouts e.ep) 1).homeAnswer e.h Status.timeout
        (s0.loadIndicator e.h) []).settleAll := by
  change execExportTimeout xid s0 = _
  simp only [execExportTimeout, he, hdue, if_true]

/-- Settles O14. -/
theorem streamsAndExports : Obligations.StreamsAndExports := by
  unfold Obligations.StreamsAndExports
  intro s0 m c
  refine ⟨fun s f st hs hc hf hst hdone habort hprod hmid hep hctx hcred hfin harg =>
    ⟨exec_sput_part hs hc hf hst hdone habort hprod hmid hep hctx hcred hfin harg,
      exec_sput_last hs hc hf hst hdone habort hprod hmid hep hctx hcred hfin harg⟩,
    fun s st k => exec_scred_grants, fun e s => exec_xrsp_read, fun xid e => exec_exportTimeout_due⟩

end Sys2Proof.Machine

/-! Proofs about the issue and the end of requests, fences and walks (chapters 2 to 4), and about mailboxes (chapter 12). -/

namespace Sys2Proof.Machine

open Sys2Proof

variable {s : State}

/-! ### Responses -/

theorem exec_responseArrival_local {pos : Nat} {a : LocalRsp} (ha : s.home.rsp[pos]? = some a) (htx : a.tx ≠ 0) :
    exec (.responseArrival (.local pos)) s = .next ((s.mapHome fun x => { x with rsp := delAt x.rsp pos }).respond a.tx a.part
      (statusSeen a.status) a.li a.data false).settleAll := by
  change execResponseArrival (.local pos) s = _
  simp only [execResponseArrival, ha, htx, if_false]

theorem exec_responseArrival_remote {f : Frame} (hk : f.kind = kRsp) (hdst : f.dst = s.mid) :
    exec (.responseArrival (.remote f)) s = .next (s.rspIn f).settleAll := by
  change execResponseArrival (.remote f) s = _
  simp only [execResponseArrival, hk, hdst, decide_true, Bool.and_self, if_true]

/-! ### Fences and INVALs (R58, R62, R68) -/

/-- The status with which a fence whose condition holds ends. -/
def State.fenceEndStatus (s : State) (t : Tx) : Nat :=
  if s.pstate t.pid = 2 then Status.closed else if t.ord = 2 ∨ t.ord = 3 then t.fenceStatus else Status.ok

/-- A fence that writes nothing back before it ends: an acquire, or a release of less than RACK scope. -/
theorem State.fenceEnd_met {id : Nat} {t : Tx} (ht : s.txOf id = some t) (hacc : t.acc = .fence) (hlast : t.last = true)
    (hopen : t.closed = false) (hmet : s.fenceMet t = true) (hop : t.operand = 0) (hback : t.ord = 1 ∨ t.scope ≠ 2) :
    s.fenceEnd id = (s.completeTx t (s.fenceEndStatus t)).releaseEnds id (s.fenceEndStatus t) := by
  have hnoback : ((decide (t.ord = 2) || decide (t.ord = 3)) && decide (t.scope = 2)) = false := by
    rw [Bool.and_eq_false_iff]
    rcases hback with h1 | h2
    · exact .inl (by simp [h1])
    · exact .inr (by simp [h2])
  have hfails : t.fails ++ s.backFails [] = t.fails := by simp [State.backFails]
  have hgoes : (t.acc ≠ .fence || !t.last || t.closed || !s.fenceMet t || (t.operand = 1 && s.rd K.routeState ≠ 0)) = false := by
    simp [hacc, hlast, hopen, hmet, hop]
  rw [State.fenceEnd, ht]
  simp only [hgoes, Bool.false_eq_true, if_false, hnoback, List.filter_nil, List.isEmpty_nil, if_true, ht, Option.getD_some, hfails,
    State.fenceEndStatus, Bool.or_eq_true, decide_eq_true_eq]

theorem State.invalEnd_free {id : Nat} {t : Tx} (ht : s.txOf id = some t) (hacc : t.acc = .inval) (hopen : t.closed = false)
    (hfree : ∀ i ∈ t.waits, s.txOf i = none) :
    s.invalEnd id = (if 1024 < cdiv (t.addr % 64 + t.len) 64 then s.reachClear (agentEp t.agent) t.pid
      else s.reachDropLines (agentEp t.agent) t.pid (linesOf t.addr t.len)).completeTx t Status.ok := by
  have hall : (t.waits.all fun i => (s.txOf i).isNone) = true := List.all_eq_true.2 fun i hi => by rw [hfree i hi]; rfl
  rw [State.invalEnd, ht]
  simp only [hacc, hopen, hall, ne_eq, not_true_eq_false, decide_false, Bool.not_true, Bool.or_self, Bool.false_eq_true, if_false]

/-! ### Walks (R41 to R44) -/

theorem exec_walkerFree_miss {ep slot : Nat} {t : Tx} (hmiss : s.nextMiss ep = some (t, slot)) (hfree : s.walkersBusy ep < 16) :
    exec (.walkerFree ep) s = .next ((s.mapXl fun x => { x with walks := x.walks ++ [⟨ep, t.pid, slot, false⟩] }).joinWalk ep t.pid
      slot).settleAll := by
  change execWalkerFree ep s = _
  simp only [execWalkerFree, hmiss, hfree, if_true]

section WalkEnds

variable {ep pid slot : Nat} {w : Walk} (hw : (s.xl.walks.find? fun w => w.ep = ep && w.pid = pid && w.slot = slot) = some w)
include hw

theorem exec_rtcWalkComplete_caught {bad : Bool} (hcaught : w.restart = true) : exec (.rtcWalkComplete ep pid slot bad) s =
    .next (s.mapXl fun x => { x with walks := mapIf (fun v => v = w) (fun v => { v with restart := false }) x.walks }) := by
  change execRtcWalkComplete ep pid slot bad s = _
  simp only [execRtcWalkComplete, hw, hcaught, if_true]

theorem exec_rtcWalkComplete_sound {s1 s2 : State} (hfree : w.restart = false)
    (hs1 : s1 = s.mapXl fun x => { x with walks := x.walks.erase w })
    (hs2 : s2 = s1.each (s1.onWalk ep pid slot) fun s i => s.translate i (some slot)) :
    exec (.rtcWalkComplete ep pid slot false) s = .next (if s2.xl.rtc.any fun r => r.ep = ep && r.pid = pid && r.slot = slot then
      s2.nodeFill ep pid (s.walk ep pid (slot * 2 ^ 21)).path else s2).settleAll := by
  subst hs1 hs2
  change execRtcWalkComplete ep pid slot false s = _
  simp only [execRtcWalkComplete, hw, hfree, Bool.false_eq_true, if_false, Bool.false_and]

end WalkEnds

/-- Settles O15. -/
theorem issueAndAnswer : Obligations.IssueAndAnswer := by
  unfold Obligations.IssueAndAnswer
  refine fun s => ⟨fun tx part => rfl, fun pos a => exec_responseArrival_local, fun f => exec_responseArrival_remote,
    fun id t ht hacc hlast hopen hmet hop hback =>
      congrArg (fun u : State => Host.Outcome.next u.settleAll) (State.fenceEnd_met ht hacc hlast hopen hmet hop hback),
    fun id t ht hacc hopen hfree => congrArg (fun u : State => Host.Outcome.next u.settleAll) (State.invalEnd_free ht hacc hopen hfree),
    fun ep t slot => exec_walkerFree_miss, fun ep pid slot bad w hw => exec_rtcWalkComplete_caught hw,
    fun ep pid slot w s1 s2 hw => exec_rtcWalkComplete_sound hw⟩

/-- Refutes O24: the port that took an MBXQ owes its units (R294); in the state that O24 names it owes none. -/
theorem not_mailboxes : ¬ Obligations.Mailboxes := by
  intro h
  obtain ⟨s1, rfl, hrun⟩ := (h attachedModule 1 (.other 0)).1 contextRequest boundContext (by decide) (by decide) (by decide) (by decide)
    (by decide) (by decide) (by decide) rfl (by decide) rfl (by decide) (.inr rfl)
  have howed : owedOnPort0 (exec (.mbxq contextRequest 1 (.other 0)) attachedModule) = [0, 0, 1] := by decide
  rw [hrun] at howed
  exact absurd howed (by decide)

end Sys2Proof.Machine

/-! Proofs about the services of a home: hints, owners, mirrors, tier moves (chapter 4). -/

namespace Sys2Proof.Machine

open Sys2Proof

variable {s : State} {pos : Nat} {h : HReq}

/-! ### A request that its home serves now -/

theorem State.servable_of_atHome {want : Frame → Bool} (ha : s.atHome pos want = some h) : s.servable h.f = true := by
  unfold State.atHome at ha
  split at ha
  · cases ha
  · split at ha
    · next hcond =>
      obtain rfl := Option.some.inj ha
      simp only [Bool.and_eq_true] at hcond
      exact hcond.1.2
    · cases ha

theorem State.retry_of_servable {f : Frame} (hf : s.servable f = true) : f.retry = false := by
  simp only [State.servable, Bool.and_eq_true, Bool.not_eq_true'] at hf
  exact hf.1.1

/-! ### Hints (R313, R98) -/

section Hints

variable (ha : s.atHome pos (fun f => f.op = 0x52) = some h) (hr : (s.takeIn pos).hintRefuses h.f = none)
include ha hr

theorem exec_homeHintCommand_hbm (hreg : regionOf (fpaLocal h.f.fpa) = .hbm) : exec (.homeHintCommand pos) s =
    .next (((s.takeIn pos).bump (K.hintsNoeffect h.f.pid) 1).homeAnswer h Status.ok ((s.takeIn pos).loadIndicator h) []) := by
  change execHomeHintCommand pos s = _
  simp only [execHomeHintCommand, ha, State.homeHint, hr, hreg, ite_self]

theorem exec_homeHintCommand_expander {n off : Nat} (hreg : regionOf (fpaLocal h.f.fpa) = .expander n off) (hsub : hintSub h.f ≠ 5) :
    exec (.homeHintCommand pos) s =
      .next ((((s.takeIn pos).notCold (framesOf (fpaLocal h.f.fpa) (hintLen h.f))).hintFrames (framesOf (fpaLocal h.f.fpa)
        (hintLen h.f)) (hintSub h.f)).homeAnswer h Status.ok ((s.takeIn pos).loadIndicator h) []) := by
  have hretry := State.retry_of_servable (State.servable_of_atHome ha)
  change execHomeHintCommand pos s = _
  simp only [execHomeHintCommand, ha, State.homeHint, hr, hreg, hretry, hsub, decide_false, Bool.false_and, Bool.false_eq_true, if_false]

end Hints

/-! ### The owner table (R81 to R85) -/

theorem exec_ownerTableRead_clean (ha : s.atHome pos (fun f => f.op = 0x63) = some h) (hserved : s.homesServed = true)
    (hclean : (s.takeIn pos).spanPoisoned (fpaLocal h.f.fpa) 8 = false) :
    exec (.ownerTableRead pos) s = .next ((s.takeIn pos).homeAnswer h Status.ok ((s.takeIn pos).loadIndicator h)
      (fitTo 64 (s.peek (fpaLocal h.f.fpa) 8))) := by
  have hserved' : (s.takeIn pos).homesServed = true := hserved
  change execOwnerTableRead pos s = _
  simp only [execOwnerTableRead, ha, hserved', hclean, Bool.not_true, Bool.false_eq_true, if_false]
  rfl

theorem exec_ownerReadResponse_only {flag word : Nat} (hone : (s.home.ownerReads.filter fun a => a = flag).length = 1) :
    exec (.ownerReadResponse flag Status.ok word) s = .next (((s.mapHome fun x => { x with
      ownerReads := x.ownerReads.filter fun a => a ≠ flag, held := x.held.filter fun e => e.why ≠ .ownerRead flag }).ownerPut flag
        (bits word 31 16) (bits word 15 0)).each (s.heldOn flag) fun s e => s.ownerCheck e.h) := by
  change Host.Outcome.next (s.ownerAnswer flag (statusSeen Status.ok) word) = _
  rw [State.ownerAnswer]
  simp only [hone, Nat.one_ne_zero, Nat.lt_irrefl, if_false]
  rfl

theorem State.ownerGet_ownerNews (flag owner gen : Nat) : (s.ownerNews flag owner gen).ownerGet flag = some ⟨flag, owner, gen⟩ := by
  have hput : (s.ownerPut flag owner gen).ownerGet flag = some ⟨flag, owner, gen⟩ := by
    simp [State.ownerGet, State.ownerPut, State.mapHome]
  have hagain : ∀ t : State, (t.ownerReadAgain flag).home.owners = t.home.owners := by
    intro t
    unfold State.ownerReadAgain
    dsimp only
    split
    · rfl
    · exact congrArg (·.owners) ((State.sendSeq_only (List.Subset.refl _) (.refl _ _) _ _ _ _).agrees .home rfl)
  unfold State.ownerNews
  dsimp only
  split
  · rw [State.ownerGet, hagain]
    exact hput
  · exact hput

/-! ### Mirrors (R89 to R92) -/

theorem exec_mirrorWrite_accepted (ha : s.atHome pos (fun f => f.op = 0x62) = some h) (hr : (s.takeIn pos).homeRefuses h.f = none) :
    ∃ t, t = (s.takeIn pos).poke (reqBase h.f) (h.f.be % 2 ^ 64) (h.f.payload.take 64) (h.f.status = Status.poison) ∧
      exec (.mirrorWrite pos) s = .next ((t.mirrorNote h.f.origSrc h.f.origSeq h.f.origPepoch (lineOf (reqBase h.f))
        (leNat ((h.f.payload.drop 64).take 8))).homeAnswer h Status.ok (t.loadIndicator h) []) := by
  refine ⟨_, rfl, ?_⟩
  change execMirrorWrite pos s = _
  simp only [execMirrorWrite, ha, hr]

theorem exec_mirrorAck_last {hid old : Nat} {e : Held} (he : (s.home.held.find? fun e => e.h.hid = hid) = some e)
    (hwhy : e.why = .mirror old 1 Status.ok) :
    exec (.mirrorAck hid Status.ok) s = .next ((s.dropHeld hid).performAnswer e.h).settleAll := by
  have hid' : e.h.hid = hid := by simpa using List.find?_some he
  have hok : statusSeen Status.ok = Status.ok := rfl
  change Host.Outcome.next (s.mirrorAcked hid (statusSeen Status.ok)).settleAll = _
  rw [State.mirrorAcked, he]
  simp only [hwhy, hok, if_true, Nat.le_refl, State.mirrorEnd, hid']

/-- A reissued request as the mirror serves it: a plain one of a NORMAL range. -/
def asServed (f : Frame) : Frame := { f with retry := false, mtype := mtNormal }

theorem exec_mirrorRetryRequest_held (hh : s.home.inq[pos]? = some h) (hretry : h.f.retry = true) (hlive : s.peerLost h.f.origHome = false) :
    exec (.mirrorRetryRequest pos) s = .next ((s.takeIn pos).hold h .retry) := by
  change execMirrorRetryRequest pos s = _
  simp only [execMirrorRetryRequest, hh, hretry, hlive, Bool.not_true, Bool.false_eq_true, if_false, Bool.not_false, if_true]

section LostHome

variable {t : State} (hh : s.home.inq[pos]? = some h) (hretry : h.f.retry = true) (hlost : s.peerLost h.f.origHome = true)
  (hop : h.f.op < 0x52) (hserv : s.servable (asServed h.f) = true) (hahead : s.lineAhead pos (asServed h.f) = false)
  (ht : t = (s.takeIn pos).noteDegraded h.f.pid h.f.origHome) (hr : t.homeRefuses (asServed h.f) = none)
include hh hretry hlost hop hserv hahead ht hr

theorem exec_mirrorRetryRequest_dup {m : MirrorRec} (hm : t.mirrorDup h.f = some m) : exec (.mirrorRetryRequest pos) s =
    .next (if isAtomic h.f then t.homeAnswer h Status.ok (t.loadIndicator h) (leBytes (atomBytes h.f) m.old)
      else (t.performRest (asServed h.f) m.lines).homeAnswer h Status.ok (t.loadIndicator h) []) := by
  subst ht
  unfold asServed at hserv hahead hr
  change execMirrorRetryRequest pos s = _
  simp only [execMirrorRetryRequest, hh, hretry, hlost, Nat.ne_of_lt hop, Nat.lt_asymm hop, hserv, hahead, hr, hm, Bool.not_true,
    Bool.false_eq_true, if_false, decide_false, Bool.or_self]
  rfl

theorem exec_mirrorRetryRequest_new (hm : t.mirrorDup h.f = none) :
    exec (.mirrorRetryRequest pos) s = .next (t.serve { h with f := asServed h.f }) := by
  subst ht
  unfold asServed at hserv hahead hr
  change execMirrorRetryRequest pos s = _
  simp only [execMirrorRetryRequest, hh, hretry, hlost, Nat.ne_of_lt hop, Nat.lt_asymm hop, hserv, hahead, hr, hm, Bool.not_true,
    Bool.false_eq_true, if_false, decide_false, Bool.or_self, asServed]

end LostHome

theorem exec_mirrorRetryHoldExpiry_due {e : Held} (he : s.home.held[pos]? = some e) (hwhy : e.why = .retry)
    (hdue : e.h.since + 1250000 ≤ s.now) : exec (.mirrorRetryHoldExpiry pos) s =
      .next ((s.dropHeld e.h.hid).homeAnswer e.h Status.homeLost (s.loadIndicator e.h) []) := by
  change execMirrorRetryHoldExpiry pos s = _
  simp only [execMirrorRetryHoldExpiry, he, hwhy, hdue, decide_true, Bool.and_self, if_true]

theorem exec_mirrorRetryHoldExpiry_early {e : Held} (he : s.home.held[pos]? = some e) (hearly : s.now < e.h.since + 1250000) :
    exec (.mirrorRetryHoldExpiry pos) s = .next s := by
  change execMirrorRetryHoldExpiry pos s = _
  simp only [execMirrorRetryHoldExpiry, he, Nat.not_le.2 hearly, decide_false, Bool.and_false, Bool.false_eq_true, if_false]

/-! ### Moves of tier-cache frames (R94 to R97) -/

section Moves

variable {frame : Nat}

/-- With nothing held or written back for the frame, and no frame that waits to be demoted, the end of a move changes the pinned
count alone. -/
theorem State.moveEnds_quiet (hheld : ∀ e ∈ s.home.held, e.why ≠ .moved frame) (hbacks : ∀ b ∈ s.home.backs, b.1 / 1024 ≠ frame)
    (hcold : s.home.cold = []) : ∃ home, home.tier = s.home.tier ∧ s.moveEnds frame = ({ s with home := home }).notePinned := by
  have hnoheld : (s.home.held.filter fun e => e.why = .moved frame) = [] :=
    List.filter_eq_nil_iff.2 fun e he => by simpa using hheld e he
  have hnobacks : (s.home.backs.filter fun b => b.1 / 1024 = frame) = [] :=
    List.filter_eq_nil_iff.2 fun b hb => by simpa using hbacks b hb
  have hstart : ∀ t : State, t.home.cold = [] → ∃ home, home.tier = t.home.tier ∧ t.startCold = { t with home := home } := by
    intro t ht
    unfold State.startCold
    split
    · exact ⟨_, rfl, rfl⟩
    · rw [ht]
      exact ⟨{ t.home with cold := [] }, rfl, rfl⟩
  unfold State.moveEnds
  rw [hnoheld, hnobacks]
  obtain ⟨home, htier, heq⟩ := hstart (s.mapHome fun x => { x with
    held := x.held.filter fun e => e.why ≠ .moved frame, backs := x.backs.filter fun b => b.1 / 1024 ≠ frame }) hcold
  exact ⟨home, htier, congrArg State.notePinned heq⟩

theorem exec_tierFrameMoveComplete_good {t : TierFrame} (ht : s.tierOf frame = some t) (hmov : t.moving ≠ 0) (hvic : t.victim = none) :
    exec (.tierFrameMoveComplete frame []) s = .next ((if t.moving = 1 then s.tierStay frame
      else (s.tierGone frame).victimGone frame).moveEnds frame).settleAll := by
  change execTierFrameMoveComplete frame [] s = _
  simp only [execTierFrameMoveComplete, ht, hmov, hvic, decide_false, Option.isSome_none, Bool.or_self, Bool.false_eq_true, if_false,
    List.isEmpty_nil, if_true]

theorem exec_tierFrameMoveComplete_bad {t : TierFrame} {bad : List Nat} (ht : s.tierOf frame = some t) (hmov : t.moving ≠ 0)
    (hvic : t.victim = none) (hbad : bad ≠ []) : ∃ s1, s1 = (s.each (bad.filter fun l => l / 1024 = frame) State.setPoison).bump
        K.tierMoveErrors 1 ∧ exec (.tierFrameMoveComplete frame bad) s = .next ((if t.moving = 1 then s1.tierGone frame
          else (s1.tierStay frame).victimStays frame).moveEnds frame).settleAll := by
  refine ⟨_, rfl, ?_⟩
  change execTierFrameMoveComplete frame bad s = _
  simp only [execTierFrameMoveComplete, ht, hmov, hvic, decide_false, Option.isSome_none, Bool.or_self, Bool.false_eq_true, if_false,
    List.isEmpty_eq_false_iff.2 hbad]

theorem State.tierStay_stays : ∀ v ∈ (s.tierStay frame).home.tier, v.frame = frame → v.moving = 0 := by
  intro v hv hf
  obtain ⟨u, -, rfl⟩ := List.mem_map.1 hv
  by_cases hu : u.frame = frame
  · simp [hu]
  · simp [hu] at hf

theorem State.victimGone_gone :
    ∀ v ∈ ((s.tierGone frame).victimGone frame).home.tier, v.frame ≠ frame ∧ v.victim ≠ some frame := by
  intro v hv
  obtain ⟨u, hu, rfl⟩ := List.mem_map.1 hv
  have hne : u.frame ≠ frame := of_decide_eq_true (List.mem_filter.1 hu).2
  by_cases hvic : u.victim = some frame
  · simp [hvic, hne]
  · simp [hvic, hne]

theorem State.poisoned_setPoison_self (l : Nat) : (s.setPoison l).poisoned l = true := mem_insertOnce s.poison l

theorem State.poisoned_setPoison_of {l : Nat} (a : Nat) (hl : s.poisoned l = true) : (s.setPoison a).poisoned l = true := by
  simp only [State.poisoned, State.setPoison, insertOnce] at hl ⊢
  split
  · exact hl
  · simp only [List.contains_eq_mem, decide_eq_true_eq] at hl ⊢
    simp [hl]

theorem State.poisoned_each {l : Nat} {ls : List Nat} (hl : l ∈ ls) : (s.each ls State.setPoison).poisoned l = true := by
  induction ls generalizing s with
  | nil => cases hl
  | cons a ls ih =>
    rcases List.mem_cons.1 hl with rfl | hin
    · exact State.each_preserves (P := fun t => t.poisoned l = true) (fun t a => State.poisoned_setPoison_of a) ls
        (State.poisoned_setPoison_self l)
    · exact ih hin

theorem State.each_setPoison_same (ls : List Nat) : ∃ ps, s.each ls State.setPoison = { s with poison := ps } := by
  induction ls generalizing s with
  | nil => exact ⟨_, rfl⟩
  | cons a ls ih =>
    obtain ⟨ps, hps⟩ := ih (s := s.setPoison a)
    exact ⟨ps, hps⟩

section QuietMoves

variable {t : TierFrame} (ht : s.tierOf frame = some t) (hmov : t.moving ≠ 0) (hvic : t.victim = none)
  (hheld : ∀ e ∈ s.home.held, e.why ≠ .moved frame) (hbacks : ∀ b ∈ s.home.backs, b.1 / 1024 ≠ frame) (hcold : s.home.cold = [])
include ht hmov hvic hheld hbacks hcold

/-- R97: a move without errors leaves the memory, and the frame is resident or gone. -/
theorem exec_tierFrameMoveComplete_quiet : ∃ u : State, exec (.tierFrameMoveComplete frame []) s = .next u.settleAll ∧ u.mem = s.mem ∧
    u.poison = s.poison ∧ (t.moving = 1 → ∀ v ∈ u.home.tier, v.frame = frame → v.moving = 0) ∧
    (t.moving = 2 → ∀ v ∈ u.home.tier, v.frame ≠ frame ∧ v.victim ≠ some frame) := by
  refine ⟨_, exec_tierFrameMoveComplete_good ht hmov hvic, ?_⟩
  by_cases hone : t.moving = 1
  · rw [if_pos hone]
    obtain ⟨home, htier, heq⟩ := State.moveEnds_quiet (s := s.tierStay frame) hheld hbacks hcold
    rw [heq]
    refine ⟨rfl, rfl, fun _ v hv => State.tierStay_stays v (htier ▸ hv), fun htwo => absurd (hone.symm.trans htwo) (by decide)⟩
  · rw [if_neg hone]
    obtain ⟨home, htier, heq⟩ := State.moveEnds_quiet (s := (s.tierGone frame).victimGone frame) hheld hbacks hcold
    rw [heq]
    exact ⟨rfl, rfl, fun h1 => absurd h1 hone, fun _ v hv => State.victimGone_gone v (htier ▸ hv)⟩

/-- R97: a move with errors poisons the lines it lost and is counted. -/
theorem exec_tierFrameMoveComplete_errors {l : Nat} {bad : List Nat} (hl : l / 1024 = frame) (hbad : l ∈ bad) :
    ∃ u : State, exec (.tierFrameMoveComplete frame bad) s = .next u.settleAll ∧ u.poisoned l = true ∧
      u.rd K.tierMoveErrors = (s.rd K.tierMoveErrors + 1) % 2 ^ 32 ∧ (t.moving = 1 → ∀ v ∈ u.home.tier, v.frame ≠ frame) := by
  obtain ⟨s1, hs1, hexec⟩ := exec_tierFrameMoveComplete_bad ht hmov hvic (List.ne_nil_of_mem hbad)
  have hpois : s1.poisoned l = true := by
    rw [hs1]
    exact State.poisoned_each (s := s) (List.mem_filter.2 ⟨hbad, decide_eq_true hl⟩)
  obtain ⟨ps, hps⟩ := State.each_setPoison_same (s := s) (bad.filter fun l => l / 1024 = frame)
  rw [hps] at hs1
  have hrd : s1.rd K.tierMoveErrors = (s.rd K.tierMoveErrors + 1) % 2 ^ 32 := by
    rw [hs1]
    exact State.rd_bump_self _ _
  have hhome : s1.home = s.home := by rw [hs1]; rfl
  have hheld1 : ∀ e ∈ s1.home.held, e.why ≠ .moved frame := hhome ▸ hheld
  have hbacks1 : ∀ b ∈ s1.home.backs, b.1 / 1024 ≠ frame := hhome ▸ hbacks
  have hcold1 : s1.home.cold = [] := hhome ▸ hcold
  refine ⟨_, hexec, ?_⟩
  by_cases hone : t.moving = 1
  · rw [if_pos hone]
    obtain ⟨home, htier, heq⟩ := State.moveEnds_quiet (s := s1.tierGone frame) hheld1 hbacks1 hcold1
    rw [heq]
    exact ⟨hpois, (State.rd_wr_ne _ _ _ (by decide)).trans hrd, fun _ v hv =>
      of_decide_eq_true (List.mem_filter.1 (show v ∈ (s1.tierGone frame).home.tier from htier ▸ hv)).2⟩
  · rw [if_neg hone]
    obtain ⟨home, htier, heq⟩ := State.moveEnds_quiet (s := (s1.tierStay frame).victimStays frame) hheld1
      hbacks1 hcold1
    rw [heq]
    exact ⟨hpois, (State.rd_wr_ne _ _ _ (by decide)).trans hrd, fun h1 => absurd h1 hone⟩

end QuietMoves

end Moves

theorem exec_atomicBufferFetchComplete_waiting {line st : Nat} {data : List Byte} {t : Tx} (ht : s.req.txs.find? (fetchesLine line) = some t) :
    exec (.atomicBufferFetchComplete line st data) s = .next (s.respond t.id 0 (statusSeen st) 0 data false).settleAll := by
  change execAtomicBufferFetchComplete line st data s = _
  simp only [execAtomicBufferFetchComplete, ht]

/-- Settles O28. -/
theorem homeServices : Obligations.HomeServices := by
  unfold Obligations.HomeServices
  refine ⟨fun s pos h => ⟨fun ha hr => ⟨exec_homeHintCommand_hbm ha hr, fun n off => exec_homeHintCommand_expander ha hr⟩,
      exec_ownerTableRead_clean, fun flag word => exec_ownerReadResponse_only,
      fun src seq flag owner gen => ⟨_, rfl, State.ownerGet_ownerNews flag owner gen⟩, exec_mirrorWrite_accepted,
      fun hid e old => exec_mirrorAck_last⟩,
    fun s pos => ⟨fun h => exec_mirrorRetryRequest_held, fun h t hh hretry hlost hop hserv hahead ht hr => ⟨fun m hm hat => ?_, fun m hm hat => ?_⟩,
      fun h t hh hretry hlost hop hserv hahead ht hm hr => exec_mirrorRetryRequest_new hh hretry hlost hop hserv hahead ht hr hm,
      fun e => exec_mirrorRetryHoldExpiry_due, fun e => exec_mirrorRetryHoldExpiry_early⟩,
    fun s => ⟨fun frame t ht hmov hvic => ⟨exec_tierFrameMoveComplete_good ht hmov hvic, fun hheld hbacks hcold =>
        ⟨exec_tierFrameMoveComplete_quiet ht hmov hvic hheld hbacks hcold,
          fun l bad => exec_tierFrameMoveComplete_errors ht hmov hvic hheld hbacks hcold⟩⟩,
      fun line st data t => exec_atomicBufferFetchComplete_waiting⟩⟩
  · exact (exec_mirrorRetryRequest_dup hh hretry hlost hop hserv hahead ht hr hm).trans
      (congrArg Host.Outcome.next (if_neg (Bool.eq_false_iff.1 hat)))
  · exact (exec_mirrorRetryRequest_dup hh hretry hlost hop hserv hahead ht hr hm).trans (congrArg Host.Outcome.next (if_pos hat))

end Sys2Proof.Machine

/-! Proofs about host coherence at the home and about hosts that are lost (chapters 4 and 16). -/

namespace Sys2Proof.Machine

open Sys2Proof

variable {s : State}

/-! ### Requests of a host (R99) -/

theorem isWrite_of_isRead {f : Frame} (hr : isRead f = true) : isWrite f = false := by
  simp only [isRead, isWrite, Bool.or_eq_true, Bool.and_eq_true, decide_eq_true_eq, Bool.or_eq_false_iff, Bool.and_eq_false_iff,
    decide_eq_false_iff_not] at hr ⊢
  omega

section HostReads

variable {pos : Nat} {h : HReq} {t : State} (ha : s.atHome pos hostCoh = some h) (hread : isRead h.f = true)
  (hr : (s.takeIn pos).homeRefuses h.f = none) (hlive : s.home.lostHosts.testBit (4 * h.f.src + h.f.context % 4) = false)
  (hexp : (s.takeIn pos).expanderDown (reqBase h.f) = none) (ht : t = (s.takeIn pos).dirResolve (lineOf (reqBase h.f)))
include ha hread hr hlive hexp ht

theorem exec_hostCoherentRequest_granted
    (hneed : t.recallNeed (lineOf (reqBase h.f)) (4 * h.f.src + h.f.context % 4) h.f.lastPart = none)
    (hroom : t.dirFull (lineOf (reqBase h.f)) = none) : exec (.hostCoherentRequest pos) s =
      .next ((t.dirGrant (lineOf (reqBase h.f)) (4 * h.f.src + h.f.context % 4) h.f.pid h.f.lastPart).homeRead h false) := by
  subst ht
  have hlive' : (s.takeIn pos).home.lostHosts.testBit (4 * h.f.src + h.f.context % 4) = false := hlive
  change execHostCoherentRequest pos s = _
  simp only [execHostCoherentRequest, ha, hr, hlive', hexp, isWrite_of_isRead hread, hneed, State.dirRoom, hroom, Option.isSome_none,
    Bool.or_self, Bool.false_eq_true, if_false]

theorem exec_hostCoherentRequest_recalls {hosts : Nat} {inv : Bool}
    (hneed : t.recallNeed (lineOf (reqBase h.f)) (4 * h.f.src + h.f.context % 4) h.f.lastPart = some (hosts, inv)) :
    exec (.hostCoherentRequest pos) s = .next (t.waitRecalls h [(lineOf (reqBase h.f), hosts, inv)]) := by
  subst ht
  have hlive' : (s.takeIn pos).home.lostHosts.testBit (4 * h.f.src + h.f.context % 4) = false := hlive
  change execHostCoherentRequest pos s = _
  simp only [execHostCoherentRequest, ha, hr, hlive', hexp, isWrite_of_isRead hread, hneed, Option.isSome_none, Bool.or_self,
    Bool.false_eq_true, if_false]

end HostReads

/-! ### Recalls (R99, R100) -/

theorem exec_directoryRecall_snoops (src cp line : Nat) (inv : Bool) : ∃ t, exec (.directoryRecall src cp line inv) s = .next t ∧
    t.out = s.out ++ [.snoop (cp % 4) line (s.snoopHpa (cp % 4) line) inv] := by
  have hline : line * 64 / 64 = line := Nat.mul_div_cancel line (by decide)
  have hinv : decide ((if inv then 0x60 else 0x61) = 0x60) = inv := by cases inv <;> rfl
  refine ⟨_, rfl, ?_⟩
  simp only [State.recallForHost, Nat.mod_mod, hline, hinv]
  rfl

/-- What an answered recall leaves: no recall of the line, and nothing that waits on it. -/
theorem State.recallEnds_recalls (line : Nat) : ∀ r ∈ (s.recallEnds line).home.recalls, r.line ≠ line := fun _ hr =>
  of_decide_eq_true (List.mem_filter.1 hr).2

theorem Held.awaits_without (e : Held) (line : Nat) : (e.without line).awaits line = false := by
  rcases hw : e.why with flag | ⟨old, left, bad⟩ | lines | _ | _ | frame
  · simp [Held.without, Held.awaits, hw]
  · simp [Held.without, Held.awaits, hw]
  · simp [Held.without, Held.awaits, hw, removeAll]
  · simp [Held.without, Held.awaits, hw]
  · simp [Held.without, Held.awaits, hw]
  · simp [Held.without, Held.awaits, hw]

theorem State.recallEnds_held (line : Nat) : ∀ e ∈ (s.recallEnds line).home.held, e.awaits line = false := by
  intro e he
  obtain ⟨d, -, rfl⟩ := List.mem_map.1 he
  exact d.awaits_without line

theorem State.recallData_last {line host : Nat} {data : List Byte} {r : Recall}
    (hr : (s.home.recalls.find? fun r => r.line = line) = some r) (hhost : r.hosts.testBit host = true)
    (hlast : clrBit r.hosts host = 0) (hlen : data.length = 64) :
    ∃ u : State, s.recallData line host data = u.recallEnds line ∧ u.mem = (s.store (line * 64) data).mem := by
  have hne : data.isEmpty = false := by
    cases data with
    | nil => cases hlen
    | cons a l => rfl
  have htake : data.take 64 = data := List.take_of_length_le hlen.le
  unfold State.recallData
  rw [hr]
  simp only [hhost, hlast, hne, htake, Bool.not_true, Bool.false_eq_true, if_false, if_true]
  refine ⟨_, rfl, ?_⟩
  split
  · rfl
  · split <;> rfl

theorem exec_recallResponse_last {line host : Nat} {data : List Byte} {r : Recall} (hmid : line / 2 ^ 45 = s.mid)
    (hr : (s.home.recalls.find? fun r => r.line = line % 2 ^ 45) = some r) (hhost : r.hosts.testBit host = true)
    (hlast : clrBit r.hosts host = 0) (hlen : data.length = 64) (hmov : s.frameMoving (line % 2 ^ 45 * 64) = false) :
    ∃ t, exec (.recallResponse line host data) s = .next t ∧ t.mem = (s.store (line % 2 ^ 45 * 64) data).mem ∧
      (∀ r ∈ t.home.recalls, r.line ≠ line % 2 ^ 45) ∧ ∀ e ∈ t.home.held, e.awaits (line % 2 ^ 45) = false := by
  obtain ⟨u, hu, hmem⟩ := State.recallData_last hr hhost hlast hlen
  refine ⟨u.recallEnds (line % 2 ^ 45), ?_, hmem, State.recallEnds_recalls _, State.recallEnds_held _⟩
  change Host.Outcome.next (s.snoopAnswered line host data) = _
  rw [State.snoopAnswered, if_pos hmid, State.recallAnswer, hmov, Bool.and_false, if_neg Bool.false_ne_true, hu]

/-- An answer of the home changes neither its directory nor the memory. -/
theorem State.homeAnswer_dir (s : State) (h : HReq) (st li : Nat) (data : List Byte) : (s.homeAnswer h st li data).home.dir = s.home.dir := by
  unfold State.homeAnswer
  split
  · split
    · rfl
    · exact congrArg (·.dir) ((State.sourceFrame_only (List.Subset.refl _) (.refl _ s) _ _ _ _).agrees .home rfl)
  · exact congrArg (·.dir) ((State.sendPlain_only (List.Subset.refl _) (.refl _ (s.recordRsp h.f.src h.f.seq st li data)) _).agrees .home rfl)

theorem exec_recallTimeout_late {line : Nat} {r : Recall} (hr : (s.home.recalls.find? fun r => r.line = line) = some r)
    (hlate : r.since + 62500 ≤ s.now) : exec (.recallTimeout line) s = .next (((s.mapHome fun x => { x with
      recalls := x.recalls.filter fun r => r.line ≠ line, held := x.held.filter fun e => !e.awaits line
      backs := x.backs.filter fun b => b.1 ≠ line }).bump K.recallTimeouts 1).each (s.home.held.filter fun e => e.awaits line)
        fun s e => s.homeAnswer e.h Status.timeout (s.loadIndicator e.h) []) := by
  have hany : (s.home.recalls.any fun r => r.line = line) = true :=
    List.any_eq_true.2 ⟨r, List.mem_of_find?_eq_some hr, List.find?_some (p := fun r : Recall => decide (r.line = line)) hr⟩
  change execRecallTimeout line s = _
  simp only [execRecallTimeout, hr, hlate, if_true, State.recallLate, hany]

/-! ### Lost hosts (R101) -/

theorem testBit_setBit_self (v i : Nat) : (setBit v i).testBit i = true := by
  simp [setBit, Nat.testBit_shiftLeft]

/-- Of the home, what the recalls of a lost host leave: the lost hosts and the sweeps. -/
def State.losses (s : State) : Nat × List Sweep := (s.home.lostHosts, s.home.sweeps)

theorem State.dirResolve_losses (line : Nat) : (s.dirResolve line).losses = s.losses := by
  unfold State.dirResolve
  split
  · rfl
  · dsimp only
    split
    · rfl
    · split <;> rfl

theorem State.loseHost_losses {mid cp : Nat} (cause : Nat) (hlive : s.home.lostHosts.testBit (4 * mid + cp) = false) :
    ∃ w, (s.loseHost mid cp cause).losses = (setBit s.home.lostHosts (4 * mid + cp), s.home.sweeps ++ [w]) := by
  unfold State.loseHost
  simp only [hlive, Bool.false_eq_true, if_false]
  refine ⟨⟨mid, cp, cause, s.now, ((s.dirLost (4 * mid + cp)).filter fun e => e.dstate = 2).length,
    ((s.dirLost (4 * mid + cp)).filter fun e => e.dstate = 1).length,
    (s.home.recalls.filter fun r => r.hosts.testBit (4 * mid + cp)).length⟩, ?_⟩
  split
  · refine (State.each_keeps (g := State.losses) ?_ _ _)
    intro t r
    split
    · exact State.dirResolve_losses r.line
    · exact State.dirResolve_losses r.line
  · refine (State.each_keeps (g := State.losses) ?_ _ _)
    intro t r
    split
    · exact State.dirResolve_losses r.line
    · exact State.dirResolve_losses r.line

theorem State.loseHost_lost {mid cp : Nat} (cause : Nat) (hlive : s.home.lostHosts.testBit (4 * mid + cp) = false) :
    (s.loseHost mid cp cause).home.lostHosts.testBit (4 * mid + cp) = true ∧
      (s.loseHost mid cp cause).home.sweeps.length = s.home.sweeps.length + 1 := by
  obtain ⟨w, hw⟩ := State.loseHost_losses cause hlive
  obtain ⟨hlost, hsweeps⟩ := Prod.mk.inj hw
  exact ⟨hlost ▸ testBit_setBit_self _ _, hsweeps ▸ List.length_append⟩

theorem exec_hostLost_write {o : Origin} {mid cp : Nat} (ha : s.allows o K.hostLost 0 = true) (hmid : mid < s.meshN) (hcp : cp < 4) :
    exec (.hostLost (.write o) mid cp) s = .next ((s.loseHost mid cp 0).reply o Status.ok false []) := by
  change execHostLost (.write o) mid cp s = _
  simp only [execHostLost]
  rw [State.command_of_allows _ ha]
  simp only [hmid, hcp, decide_true, Bool.and_self, if_true, State.finish, Done.ok]

/-- What the resolution of a lost host's lines leaves. -/
theorem State.eachDirResolve_frame (es : List DirEntry) : State.Only [.poison, .home] s (s.each es fun s e => s.dirResolve e.line) :=
  State.each_preserves (P := State.Only [.poison, .home] s) (fun _ e h => State.dirResolve_only (List.Subset.refl _) h e.line) es (.refl _ s)

theorem exec_hostLossSweepEnd_due {mid cp : Nat} {w : Sweep} (hw : (s.home.sweeps.find? fun w => w.mid = mid && w.cp = cp) = some w) :
    ∃ t, exec (.hostLossSweepEnd mid cp) s = .next t ∧ t.rd K.hlReports = (s.rd K.hlReports + 1) % 2 ^ 32 ∧
      t.rd K.hlLast = leNat (sweepReport w s.now) ∧ (∀ v ∈ t.home.sweeps, ¬(v.mid = mid ∧ v.cp = cp)) ∧ t.mem = s.mem := by
  have hframe := State.eachDirResolve_frame (s := s) (s.dirLost (4 * mid + cp))
  obtain ⟨u, hu⟩ : ∃ u, u = ((s.each (s.dirLost (4 * mid + cp)) fun s e => s.dirResolve e.line).mapHome fun x => { x with
      sweeps := x.sweeps.filter fun v => !(v.mid = mid && v.cp = cp) }) := ⟨_, rfl⟩
  have hsweeps : ∀ v ∈ u.home.sweeps, ¬(v.mid = mid ∧ v.cp = cp) := by
    intro v hv
    rw [hu] at hv
    exact not_and_or.2 (by simpa using (List.mem_filter.1 hv).2)
  have hrd : u.rd K.hlReports = s.rd K.hlReports := by
    rw [hu]
    exact State.rd_congr (hframe.agrees .od rfl) _
  have hmem : u.mem = s.mem := by
    rw [hu]
    exact hframe.agrees .mem rfl
  have hevent := State.event_only (List.Subset.refl _) (.refl _ ((u.wr K.hlLast (leNat (sweepReport w s.now))).report K.hlReports)) K.hlLast
  have hreport := State.report_only (List.Subset.refl _) (.refl _ (u.wr K.hlLast (leNat (sweepReport w s.now)))) K.hlReports
  refine ⟨((u.wr K.hlLast (leNat (sweepReport w s.now))).report K.hlReports).event K.hlLast, ?_, ?_, ?_, ?_, ?_⟩
  · change Host.Outcome.next (s.sweepEnd mid cp) = _
    rw [State.sweepEnd, hw, hu]
  · rw [State.rd_event, State.report, State.rd_event, State.rd_bump_self, State.rd_wr_ne _ _ _ (by decide), hrd]
  · rw [State.rd_event, State.report, State.rd_event, State.rd_bump_ne _ _ (by decide), State.rd_wr_self]
  · rw [hevent.agrees .home rfl, hreport.agrees .home rfl]
    exact hsweeps
  · rw [hevent.agrees .mem rfl, hreport.agrees .mem rfl]
    exact hmem

/-- Settles O29. -/
theorem hostsAtTheHome : Obligations.HostsAtTheHome := by
  unfold Obligations.HostsAtTheHome
  refine ⟨fun s => ⟨fun pos h t ha hread hr hlive hexp ht =>
      ⟨exec_hostCoherentRequest_granted ha hread hr hlive hexp ht, fun hosts inv => exec_hostCoherentRequest_recalls ha hread hr hlive hexp ht⟩,
      exec_directoryRecall_snoops, fun line host data r => exec_recallResponse_last,
      fun line r hr hlate => ⟨exec_recallTimeout_late hr hlate, fun t ht => ?_⟩⟩,
    fun s mid cp => ⟨fun hlive => ⟨?_, fun o => exec_hostLost_write⟩, fun hlost => congrArg Host.Outcome.next (if_pos hlost),
      fun w => exec_hostLossSweepEnd_due⟩⟩
  · obtain rfl := Host.Outcome.next.inj ((exec_recallTimeout_late hr hlate).symm.trans ht)
    exact ⟨State.each_keeps (g := fun s => s.home.dir) (fun (s : State) (e : Held) => s.homeAnswer_dir e.h _ _ _) _ _,
      State.each_keeps (g := State.mem) (fun s e => State.homeAnswer_mem _ _ _) _ _⟩
  · rintro c (rfl | rfl)
    · exact ⟨_, rfl, State.loseHost_lost 1 hlive⟩
    · exact ⟨_, rfl, State.loseHost_lost 2 hlive⟩

end Sys2Proof.Machine
